-- ==== Sys2Proof/Syntax.lean ====
section
/-! DEFINITION. The commands of the block, one constructor per row of spec/opcode_table.json, in the table's order.
Operands are what the row's rule lets an outside agent choose or what the physical event brings with it. -/

namespace Sys2Proof

/-- Who makes a register access (spec/01 R21, R23): function 0, a virtual function 1 to 16, or the Vertex management core. -/
inductive Requester where
  | pf
  | vf (n : Nat)
  | mc
deriving DecidableEq, Repr

/-- Who makes a dictionary access (spec/17 R388): a node of the management segment, an MCTP endpoint, a function's mailbox. -/
inductive DapPath where
  | mgmt (node : Nat)
  | mctp (eid : Nat)
  | mailbox (fn : Nat)
deriving DecidableEq, Repr

/-- What a forwarded request says of its entry (spec/01 R29; spec/11 R241, R249; spec/14 R324): the package, PATH and function by
which it entered, the client's address for a front port, and the handle that a request forwarded again carries (0: none). -/
structure Remote where
  pkg : Nat
  path : Nat
  fn : Nat
  addr : Nat
  handle : Nat
deriving DecidableEq, Repr

/-- The path by which a serving request entered (spec/01 R29, spec/11 R241): a PCIe function (0 PF, 1 to 16 VF),
a front port with the client's address and UDP port, or another package that forwards it. -/
inductive Entry where
  | func (fn : Nat)
  | front (port addr udp : Nat)
  | remote (r : Remote)
deriving DecidableEq, Repr

/-- The two ends of a frame that reaches a front port (spec/11 R248): addresses, or UDP ports. -/
structure Ends where
  src : Nat
  dst : Nat
deriving DecidableEq, Repr

/-- A completion-ring interrupt of a function, and whether the host writes of records since the last one succeeded (spec/11 R245,
R260). -/
structure CqEvent where
  fn : Nat
  hostOk : Bool
deriving DecidableEq, Repr

/-- A function that is reset: of this package, or of another that reports it to the lead of tickets that entered there (spec/11
R259). -/
structure FnReset where
  fn : Nat
  pkg : Option Nat
deriving DecidableEq, Repr

/-- A request header of eight 64-bit words (spec/11 R243). -/
structure ReqHdr where
  w0 : DWord
  w1 : DWord
  w2 : DWord
  w3 : DWord
  w4 : DWord
  w5 : DWord
  w6 : DWord
  w7 : DWord
deriving DecidableEq, Repr

/-- What a fabric frame has around its header (spec/13 R287, R289): the Ethernet addresses, the 802.1Q tag (VID, PCP), the SecTAG's
SCI and packet number, and whether it has come through FEC and FCS (R284). -/
structure Wire where
  dst : Nat
  src : Nat
  vlan : Option (Nat × Nat)
  sci : Nat
  pn : Nat
  fcs : Bool
deriving DecidableEq, Repr

/-- A secure association of a port (spec/13 R287): the partner's SCI and the SAK. -/
structure Assoc where
  port : Nat
  sci : Nat
  sak : List Byte
deriving DecidableEq, Repr

/-- A PTP exchange (spec/13 R307): the grandmaster's time, and the frame that brings it. -/
structure PtpTime where
  gm : Nat
  wire : Wire
  sec : Bool
deriving DecidableEq, Repr

/-- A fabric frame: the four header words of spec/13 R289 and the payload; `sec` says that its ICV is that of the SAK in use
(R287). -/
structure Frame where
  w0 : DWord
  w1 : DWord
  w2 : DWord
  w3 : DWord
  payload : List Byte
  sec : Bool
  wire : Wire
deriving DecidableEq, Repr

/-- A DAP request without its service number (spec/17 R393): `bad` says that the frame itself breaks check 1 of R395
(version, reserved bits, length beyond the frame); `bcast` that DST is 0xFF. -/
structure DapReq where
  path : DapPath
  tid : Nat
  index : Nat
  sub : Nat
  offset : Nat
  vtag : Nat
  len : Nat
  last : Bool
  bcast : Bool
  bad : Bool
  payload : List Byte
deriving DecidableEq, Repr

/-- The carrier of an SPDM message (spec/16 R371): a function's Apex mailbox, the management port, or a fabric inbox slot. -/
inductive SpdmPath where
  | mailbox (fn : Nat)
  | mgmt (node : Nat)
  | inbox (slot : Nat)
deriving DecidableEq, Repr

/-- One entry of a step header as the lead's step-start message names it (spec/12 R271). -/
structure StepEntry where
  handle : Nat
  len : Nat
  count : Nat
  bucket : Nat
  prefill : Bool
  sample : Bool
  aroot : Nat
deriving DecidableEq, Repr

/-- What a partner says of itself in its hello (spec/13 R288), its Ethernet address (R289), and whether it offers PTP (R307). -/
structure Hello where
  isPackage : Bool
  neighbourOk : Bool
  plane : Nat
  level : Nat
  addr : Nat
  ptp : Bool
deriving DecidableEq, Repr

namespace Machine

/-! ### Records that a command brings with it, or that the state holds -/

/-- What the NAND's parameter pages and its media metadata say at a mount (spec/09 R207, R208): page main area and spare bytes,
the LUNs of each chip enable of each channel, blocks of a die, 4 KiB units of a block, rated cycles, the rate at which each channel
trained (0: not at 1,600 MT/s), whether every die agrees and is TLC, the metadata (0 not valid, 1 valid, 2 cannot be read) with
the OP it was formatted at, the factory bad blocks, and whether the dies are others than at the last mount. -/
structure Nand where
  page : Nat
  spare : Nat
  chips : List (List Nat)
  blocks : Nat
  units : Nat
  cycles : Nat
  rates : List Nat
  uniform : Bool
  tlc : Bool
  media : Nat
  op : Nat
  factory : List Nat
  replaced : Bool
deriving DecidableEq, Repr

def Nand.none : Nand := ⟨0, 0, [], 0, 0, 0, [], false, false, 0, 0, [], false⟩

/-- A unit of the Hopper tier with the rung that its read comes to (spec/09 R210, R216). -/
structure UnitRead where
  unit : Nat
  rung : Nat
deriving DecidableEq, Repr

/-- A part of the media that fails, a block or a channel, with the units whose reads, or whose stripes, go beyond rung 1 (spec/09
R210, R219). -/
structure MediaLoss where
  part : Nat
  rungs : List (Nat × Nat)
deriving DecidableEq, Repr

/-- A migration of a page (spec/07 R182, R183): towards which tier, the frame taken there. -/
structure Mig where
  tier : Nat
  frame : Nat
deriving DecidableEq, Repr

/-- A leaf of a partition's tiered range (spec/07 R174): page base and size (0 4 KiB, 1 2 MiB, 2 1 GiB), home tier, the
flags, hint, frame (a physical local offset, or the first Hopper unit), length of the lower copy in units, the lower
copy's tier and frame, and a migration in progress. -/
structure Leaf where
  p : Nat
  va : Nat
  psize : Nat
  tier : Nat
  ro : Bool
  cmp : Bool
  d : Bool
  a : Bool
  hint : Nat
  frame : Nat
  clen : Nat
  lower : Option (Nat × Nat)
  mig : Option Mig
deriving DecidableEq, Repr

/-- A mapped key-value page of a ticket slot (spec/06 R146, R147, R152): layer window, page number of the sequence, size
class, physical local offset, the range that owns it when it is shared, and the D and A bits of its entries, as masks with one bit
for each 4 KiB part, or one for a 2 MiB page (spec/07 R174). -/
structure KvPage where
  slot : Nat
  layer : Nat
  n : Nat
  z : Nat
  addr : Nat
  shared : Option Nat
  d : Nat
  a : Nat
deriving DecidableEq, Repr

/-- A page of a retained or published range with its reference count (spec/06 R152); `engine` says whose replica it is
for a published range, `owner` the range that lends the page to a retained one, 0 for a page of its own. -/
structure RangePage where
  layer : Nat
  n : Nat
  z : Nat
  addr : Nat
  engine : Nat
  refs : Nat
  owner : Nat
deriving DecidableEq, Repr

/-- A retained or published range (spec/06 R165 to R170). -/
structure KvRange where
  id : Nat
  p : Nat
  published : Bool
  tenant : Nat
  gen : Nat
  tokens : List Nat
  home : Nat
  expiry : Nat
  lastMatch : Nat
  moved : Nat
  tier : Nat
  lower : Nat
  pages : List RangePage
  ended : Bool
deriving DecidableEq, Repr

/-- A radix node (spec/06 R165): its number, its parent's (0 is the root), the tokens it holds, block number, published
prefix ending here, range, generation, references, and the tenants it is visible to. -/
structure RadixNode where
  id : Nat
  parent : Nat
  part : Nat
  tokens : List Nat
  depth : Nat
  pfx : Nat
  range : Nat
  gen : Nat
  refs : Nat
  allow : List Nat
deriving DecidableEq, Repr

/-- A ticket slot: the fields of the entry (spec/11 R241), and what the lead keeps beside it: prompt and generated
tokens (bit 32 of a generated one: its step was bounds-only) with the times their steps ended, ALLOW list, positions cached (L), the entry path, the reason its END will carry, whether that END is due, and
the answer record given (R249), radix nodes its match went
through, END flags, completion records reserved, and whether its publication is over. -/
structure Ticket where
  gen : Nat
  part : Nat
  state : Nat
  prio : Nat
  cls : Nat
  bucket : Nat
  reason : Nat
  modelgen : Nat
  bounds : Bool
  cancel : Bool
  retain : Bool
  publish : Bool
  avalid : Bool
  aslot : Nat
  path : Nat
  plen : Nat
  glen : Nat
  maxgen : Nat
  mtch : Nat
  deadline : Nat
  ttl : Nat
  admseq : Nat
  eststart : Nat
  kvroot : Nat
  reqid : Nat
  tenant : Nat
  prefixid : Nat
  entrypkg : Nat
  func : Nat
  laststep : Nat
  prompt : List Nat
  gend : List Nat
  gtimes : List Nat
  allow : List Nat
  len : Nat
  entry : Entry
  mrange : Nat
  mmapped : Bool
  release : Bool
  endDue : Bool
  silent : Bool
  nodes : List Nat
  flags : Nat
  resv : Nat
  answer : List Nat
  pubOver : Bool
deriving DecidableEq, Repr

/-- A slot that has never held a ticket. -/
def Ticket.blank : Ticket :=
  { gen := 0, part := 0, state := 0, prio := 0, cls := 0, bucket := 0, reason := 0, modelgen := 0, bounds := false,
    cancel := false, retain := false, publish := false, avalid := false, aslot := 0, path := 0, plen := 0, glen := 0,
    maxgen := 0, mtch := 0, deadline := 0, ttl := 0, admseq := 0, eststart := 0, kvroot := 0, reqid := 0, tenant := 0,
    prefixid := 0, entrypkg := 0, func := 0, laststep := 0, prompt := [], gend := [], gtimes := [], allow := [], len := 0,
    entry := .func 0, mrange := 0, mmapped := true, release := false, endDue := false, silent := false, nodes := [], flags := 0, resv := 0, answer := [], pubOver := false }

/-- A step the lead has sent: its number, generation, weight root, decode and prefill entries, the results it recorded, and
its start as its header shows it (spec/12 R271, R272; spec/14 R329, R330). -/
structure StepRec where
  step : Nat
  gen : Nat
  root : Nat
  decode : List StepEntry
  prefill : List StepEntry
  results : List Nat
  start : Nat
deriving DecidableEq, Repr

/-- A member load into a generation or an adapter slot: LOADID, state and code as LDR_JSTAT shows them, the chunks
committed (R232). -/
structure Load where
  id : Nat
  state : Nat
  code : Nat
  committed : List Nat
deriving DecidableEq, Repr

/-- A generation a partition holds (R233, R236): role (0 standby or loading, 1 active, 2 draining), weight root, the
physical ranges and tiered pages its chunks wrote, its loads, since when it drains and whether the drain limit has passed,
and the MODELIDs that jobs have begun it with before. -/
structure Gen where
  p : Nat
  mid : Nat
  gen : Nat
  root : Nat
  role : Nat
  ranges : List (Nat × Nat)
  pages : List Nat
  loads : List Load
  since : Nat
  overdue : Bool
  olds : List Nat
deriving DecidableEq, Repr

/-- An adapter slot (R234, R235). -/
structure ASlot where
  p : Nat
  slot : Nat
  tenant : Nat
  mid : Nat
  gen : Nat
  root : Nat
  valid : Bool
  pages : List Nat
  loads : List Load
deriving DecidableEq, Repr

/-- What an adopting spare's reads of the eight peers return before it decides (spec/14 R332): whether the header and the
seal records are readable, whether they name one source, the header's IDENT_PART, the generations of the chunk index. -/
structure AdoptView where
  readable : Bool
  same : Bool
  part : Nat
  gens : List (Nat × Nat)
deriving DecidableEq, Repr

/-- A table entry as the record holds it: its index (as `State.tables`) and four words. -/
structure ShadowEnt where
  at_ : Nat
  w0 : Nat
  w1 : Nat
  w2 : Nat
  w3 : Nat
deriving DecidableEq, Repr

/-- A partition's carving as the record holds it. -/
structure ShadowCarve where
  p : Nat
  kvPool : List Nat
  kvCarve : List (Nat × Nat)
  tierAll : List Nat
  stepFrame : Nat
  save : List Nat
deriving DecidableEq, Repr

/-- A weight stripe in the shadow space (spec/14 R320, R321): its entry of the chunk index, the partition, the generation (MODELGEN),
the adapter slot of an adapter job, MODELID, CHUNK, the first unit and their number. -/
structure ChunkStripe where
  idx : Nat
  p : Nat
  gen : Nat
  aslot : Option Nat
  mid : Nat
  chunk : Nat
  first : Nat
  n : Nat
deriving DecidableEq, Repr

/-- The lead's rail, token and radix stores as they were last written to the peers: the rail entries with their tokens, the admission
sequences and the last steps, the radix index. Their layout in the stores' frames is the device's own. -/
structure RailStores where
  tickets : List (Nat × Ticket)
  rails : List (Nat × Nat × List StepRec)
  radix : List RadixNode
deriving DecidableEq, Repr

/-- The package's Mosaic shadows as it has written them (spec/14 R320, R321): bytes by shadow offset, the frames with their units, the
weight stripes, the lead's stores. -/
structure Mosaic where
  mem : List (Nat × Byte)
  frames : List (Nat × Nat)
  stripes : List ChunkStripe
  stores : RailStores
deriving DecidableEq, Repr

def Mosaic.blank : Mosaic := ⟨[], [], [], ⟨[], [], []⟩⟩

/-- What the shadows hold of the dead package, as the rebuild reads them (spec/14 R321, R333): registers by card and
instance, dictionary values, table entries, carvings (partition, key-value pool, carved classes, tiered frames, step frame,
save area), memory by local offset, the page tables, the lead's stores, the generations, the sealed steps; and the ticket
slots and partitions for which a needed unit was lost (R336), the shadows themselves. The records' formats are the device's own. -/
structure ShadowRecord where
  regs : List (Nat × Nat × Word)
  dict : List (Nat × Nat × List Byte)
  tables : List ShadowEnt
  carved : List ShadowCarve
  mem : List (Nat × List Byte)
  leaves : List Leaf
  kvPages : List KvPage
  ranges : List KvRange
  radix : List RadixNode
  tickets : List (Nat × Ticket)
  rails : List (Nat × Nat × List StepRec)
  gens : List Gen
  aslots : List ASlot
  sealedSteps : List Nat
  lostSlots : List Nat
  lostParts : List Nat
  mosaic : Mosaic
deriving DecidableEq, Repr

end Machine

/-! ### What comes from other packages and units with a command -/

/-- A ticket slot and, at a package that is not the lead, the range the lead names for what is retained (0 for none; spec/06 R151, R169). -/
structure Retirement where
  slot : Nat
  range : Nat
deriving DecidableEq, Repr

/-- A ticket slot, the published range the lead names (0 for none), and whether every other package of the group holds its replicas
(spec/06 R167). -/
structure Publication where
  slot : Nat
  range : Nat
  others : Bool
deriving DecidableEq, Repr

/-- A ticket slot, the least number of positions that the other packages of the group
can give, and the Hopper units whose read goes beyond the first rung, with the rung (spec/06 R168, R171). -/
structure MatchWord where
  slot : Nat
  others : Nat
  rungs : List (Nat × Nat)
deriving DecidableEq, Repr

/-- A partition, whether another package reports a bounds latch (spec/04 R116), and the ticket slots whose pages for the coming step
another package of the group could not map (spec/06 R150). -/
structure BoundaryWord where
  p : Nat
  others : Bool
  short : List Nat
deriving DecidableEq, Repr

/-- The end of a step-start message: the prefill entries, the lead's entries of the live tickets and of those that the boundary retired
(spec/11 R239), the ranges the lead has ended (spec/06 R167, R169), and the time of the step's start (spec/12 R271). -/
structure StepRest where
  prefill : List StepEntry
  tickets : List (Nat × Machine.Ticket)
  ended : List Nat
  start : Nat
deriving DecidableEq, Repr

/-- What boot finds: its faults, and the Urn channels that fail (spec/18 R416). -/
structure BootReport where
  faults : List Nat
  urnBad : List Nat
deriving DecidableEq, Repr

/-- The commands, one per row of spec/opcode_table.json. -/
inductive Instr where
  | programImageLoad (features : List (Nat × Nat))
  | registerWrite (r : Requester) (addr len be : Nat) (val : DWord)
  | pairLowRead (r : Requester) (addr : Nat)
  | pairHighRead (r : Requester) (addr : Nat)
  | pairLowWrite (r : Requester) (addr : Nat) (val : Word)
  | pairHighWrite (r : Requester) (addr : Nat) (val : Word)
  | pairNarrowAccess (r : Requester) (addr be : Nat) (write : Bool) (val : Word)
  | rcRead (r : Requester) (addr len be : Nat)
  | mlw (f : Nat)
  | mma (f : Nat)
  | mmaRef (f : Nat)
  | mst (f : Nat)
  | spmovLinear (f : Nat)
  | spmovStrided (f : Nat)
  | spmovTranspose (f : Nat)
  | vld (f : Nat)
  | vst (f : Nat)
  | add (f : Nat)
  | sub (f : Nat)
  | mul (f : Nat)
  | fma (f : Nat)
  | max (f : Nat)
  | min (f : Nat)
  | cmp (f : Nat)
  | sel (f : Nat)
  | cvt (f : Nat)
  | and (f : Nat)
  | or (f : Nat)
  | xor (f : Nat)
  | shl (f : Nat)
  | shr (f : Nat)
  | rsum (f : Nat)
  | rmax (f : Nat)
  | arcExp2 (f : Nat)
  | arcExp (f : Nat)
  | arcLog2 (f : Nat)
  | arcLn (f : Nat)
  | arcRecip (f : Nat)
  | arcRsqrt (f : Nat)
  | arcSqrt (f : Nat)
  | arcTanh (f : Nat)
  | arcSigmoid (f : Nat)
  | arcGelu (f : Nat)
  | arcSilu (f : Nat)
  | arcSin (f : Nat)
  | arcCos (f : Nat)
  | arcSoftmaxStep (f : Nat)
  | arcSoftmaxMaxPass (f : Nat)
  | arcSoftmaxSumPass (f : Nat)
  | arcFinalNormalise (f : Nat)
  | arcFinalProbabilities (f : Nat)
  | arcFinalRescale (f : Nat)
  | arcRmsAccumulate (f : Nat)
  | arcRmsApply (f : Nat)
  | arcLayernormAccumulate (f : Nat)
  | arcLayernormApply (f : Nat)
  | arcTableLoad (unit : Nat) (ok : Bool)
  | arcTableReload (unit : Nat) (ok : Bool)
  | arcSelfTest (path : DapPath) (unit : Nat)
  | arcSelfTestDone (unit : Nat) (ok : Bool)
  | nxfer (f : Nat)
  | nxferSeam (f : Nat)
  | seamDelivery (lane : Nat)
  | seamAck (lane : Nat)
  | pour (f : Nat)
  | pourDescriptorStart (f : Nat)
  | pourComplete (f idx : Nat)
  | sbopSet (f : Nat)
  | sbopAdd (f : Nat)
  | sbopClearErr (f : Nat)
  | waitLocal (f : Nat)
  | waitGroup (f : Nat)
  | waitSatisfied (f : Nat)
  | groupResume (g : Nat)
  | loop (f : Nat)
  | jmp (f : Nat)
  | br (f : Nat)
  | halt (f : Nat)
  | smov (f : Nat)
  | sadd (f : Nat)
  | srdc (f : Nat)
  | fctStart (r : Requester) (f entry : Nat)
  | fctHalt (r : Requester) (f : Nat)
  | clrsb (r : Requester) (f : Nat)
  | imemLoad (r : Requester) (f entry : Nat)
  | imemLoadDone (f : Nat) (ok : Bool)
  | fctMcfgWrite (r : Requester) (f be : Nat) (val : Word)
  | sbCounterWrite (r : Requester) (f n be : Nat) (val : Word)
  | drpStart (r : Requester) (e : Nat)
  | drpStop (r : Requester) (e : Nat)
  | drpAbort (r : Requester) (e : Nat)
  | drpZero (r : Requester) (e : Nat)
  | drpStopped (e : Nat)
  | drpRingWrite (r : Requester) (e off be : Nat) (val : Word)
  | drpCfgWrite (r : Requester) (e be : Nat) (val : Word)
  | ringPoll (ring : Nat)
  | descriptorTake (ring : Nat)
  | dripNop (e : Nat)
  | wpour (e : Nat)
  | wpourReturn (e : Nat)
  | aload (e : Nat)
  | astore (e : Nat)
  | dripArcExp2 (e : Nat)
  | dripArcExp (e : Nat)
  | dripArcRecip (e : Nat)
  | dripArcRsqrt (e : Nat)
  | dripArcSoftmaxStep (e : Nat)
  | dripArcSoftmaxFinal (e : Nat)
  | dripArcRmsStats (e : Nat)
  | scorePour (e : Nat)
  | valuePour (e : Nat)
  | dripDescriptorComplete (e cls : Nat)
  | carafeScrub (stack quadrant : Nat) (corrected : List Nat)
  | kvFree (r : Requester)
  | kvFreeBelow (r : Requester)
  | kvQuery (r : Requester)
  | kvLayoutWrite (r : Requester) (p l be : Nat) (val : Word)
  | ticketRetireRelease (a : Retirement)
  | prefixPublish (a : Publication)
  | prefixMatchMap (a : MatchWord)
  | withdrawPrefix (path : DapPath) (id : Nat)
  | saltRenewal (path : DapPath) (tenant : Nat)
  | retainedRangeExpiry (id : Nat)
  | retainedRangeDemotion (id : Nat)
  | trMap (r : Requester) (p : Nat)
  | trUnmap (r : Requester) (p : Nat)
  | trMigrate (r : Requester) (p : Nat)
  | trHint (r : Requester) (p : Nat)
  | trQuery (r : Requester) (p : Nat)
  | migrateComplete (p : Nat)
  | pagePromotion (p va : Nat)
  | promotionComplete (p va : Nat) (rungs : List (Nat × Nat))
  | pageDemotion (p va : Nat)
  | demotionComplete (p va : Nat) (ok : Bool)
  | holdTimeout (idx : Nat)
  | cursorPoll (p : Nat)
  | stageComplete (p idx : Nat) (rungs : List (Nat × Nat))
  | pfCtlWrite (r : Requester) (p be : Nat) (val : Word)
  | pfAddressWrite (r : Requester) (p off be : Nat) (val : Word)
  | blmExpand (r : Requester)
  | blmExpandDone
  | hopFormat (r : Requester)
  | formatDone
  | hopperMount (nand : Machine.Nand)
  | hopScan (r : Requester)
  | scanInterval (blk rung corrected : Nat)
  | readDisturbRelocate (blk : Nat)
  | wearLevelMove (die : Nat)
  | collection (blk : Nat)
  | unitMoveCommit (unit : Machine.UnitRead)
  | programFailure (blk : Machine.MediaLoss)
  | channelRetire (ch : Machine.MediaLoss)
  | unwrap (r : Requester)
  | ldrStart (r : Requester) (job : Nat)
  | ldrAbort (r : Requester) (job : Nat)
  | drop (r : Requester) (p gen : Nat)
  | ldrActivate (r : Requester) (p gen : Nat)
  | activateCheckDone (p : Nat) (complete : Bool)
  | adrop (r : Requester) (p slot : Nat)
  | readerPublishChunk (job : Nat) (hostOk : Bool)
  | memberChunkSeen (job chunk : Nat)
  | memberChunkCommit (job chunk : Nat)
  | stagingSlotTimeout (job slot : Nat)
  | loadInactivityTimeout (job : Nat)
  | drainLimitExpiry (p : Nat)
  | requestDatagram (port : Nat) (addr : Ends) (udp : Option Ends) (h : ReqHdr) (tokens : List Nat)
  | reassemblyTimeout (idx : Nat)
  | arpRequest (port target : Nat)
  | neighbourDiscovery (port target : Nat)
  | icmpEcho (port target : Nat) (payload : List Byte)
  | recordFlush (port : Nat)
  | sqTailWrite (r : Requester) (be : Nat) (val : Word)
  | sqEntryTake (fn : Nat) (hostOk : Bool)
  | cqHeadWrite (r : Requester) (be : Nat) (val : Word)
  | cqInterrupt (a : CqEvent)
  | tktQcfgWrite (r : Requester) (off be : Nat) (val : Word)
  | submit (e : Entry) (h : ReqHdr) (tokens : List Nat)
  | cancel (e : Entry) (h : ReqHdr)
  | query (e : Entry) (h : ReqHdr)
  | answerReturn (idx w0 w1 w2 w3 : Nat)
  | stepDonePoll (p : Nat)
  | stepBoundary (a : BoundaryWord)
  | stepStart (p step gen active draining root : Nat) (decode : List StepEntry) (rest : StepRest)
  | form (r : Requester) (p : Nat)
  | dissolve (r : Requester) (p : Nat)
  | partReset (r : Requester) (p : Nat)
  | partResetDone (p : Nat)
  | preempt (r : Requester) (p : Nat)
  | freezeMessage (p : Nat)
  | quiesceDone (p : Nat)
  | saveMessage (p : Nat)
  | saveDone (p : Nat)
  | quiescenceTimeout (p : Nat)
  | thawMessage (p : Nat)
  | partResume (r : Requester) (p : Nat)
  | restoreDone (p : Nat) (ok : Bool)
  | goMessage (p : Nat)
  | partitionHalt (p facet : Nat)
  | amapWrite (r : Requester) (p n off be : Nat) (val : Word)
  | linkTrained (port : Nat) (native allLanes : Bool)
  | nativeTrainingTimeout (port : Nat)
  | mkaSecure (port : Assoc)
  | hello (port : Nat) (h : Hello)
  | bringupRetry (port : Nat)
  | keepalive (port : Nat)
  | linkDown (port : Nat)
  | portDownWrite (r : Requester) (port be : Nat) (val : Word)
  | identityAssign (path : DapPath) (val : DWord)
  | identityRelease (path : DapPath) (val : DWord)
  | claimConflict (epoch home eui : Nat)
  | sakChange (port : Assoc)
  | sakRequest (port : Nat)
  | load (port : Nat) (fr : Frame)
  | store (port : Nat) (fr : Frame)
  | atomicAdd (port : Nat) (fr : Frame)
  | atomicAnd (port : Nat) (fr : Frame)
  | atomicOr (port : Nat) (fr : Frame)
  | atomicXor (port : Nat) (fr : Frame)
  | atomicSmax (port : Nat) (fr : Frame)
  | atomicSmin (port : Nat) (fr : Frame)
  | atomicUmax (port : Nat) (fr : Frame)
  | atomicUmin (port : Nat) (fr : Frame)
  | atomicSwap (port : Nat) (fr : Frame)
  | atomicCas (port : Nat) (fr : Frame)
  | cload (port : Nat) (fr : Frame)
  | cstore (port : Nat) (fr : Frame)
  | resp (port : Nat) (fr : Frame)
  | requestTimeout (op : Nat)
  | routeSetChange (entry : Nat)
  | outstandingLimitRelease
  | writeRegion (r : Requester) (idx : Nat)
  | readRegion (r : Requester) (idx : Nat)
  | writeGrant (r : Requester) (idx : Nat)
  | readGrant (r : Requester) (idx : Nat)
  | writeGroup (r : Requester) (idx : Nat)
  | readGroup (r : Requester) (idx : Nat)
  | cqStart (r : Requester) (p : Nat)
  | cqStop (r : Requester) (p : Nat)
  | cqAbort (r : Requester) (p : Nat)
  | cqRegisterWrite (r : Requester) (p off be : Nat) (val : Word)
  | copyNop (p : Nat)
  | copy (p : Nat)
  | copyComplete (p idx : Nat)
  | reduce (p : Nat)
  | rdres (port : Nat) (fr : Frame)
  | reductionTimeout (p idx chunk : Nat)
  | ptpMessage (port : Nat) (gmTime : PtpTime)
  | errlogRdWrite (r : Requester) (be : Nat) (val : Word)
  | errorBudgetRefill (source : Nat)
  | watchdogExpiry
  | fatalDump (trigger : Nat)
  | dumpCopy
  | dumpWriteCommand (path : DapPath)
  | dumpInvalidate (path : DapPath)
  | teardown (path : DapPath) (v : List Byte)
  | epochReissue (op : Nat)
  | adopt (path : DapPath) (v : List Byte) (found : Machine.AdoptView)
  | adoptionRebuildDone (rec : Machine.ShadowRecord)
  | adoptionLimitExpiry
  | faultResume (path : DapPath) (mask : Nat)
  | replayStart (p g : Nat)
  | replayHoldoffExpiry (p : Nat)
  | stepSeal (p : Nat)
  | configRecordRewrite
  | requestResubmit (idx : Nat)
  | reprotection (peer : Nat)
  | vrAlertAssert (n : Nat) (railDown : Bool)
  | vrAlertDeassert (n : Nat)
  | forceHoldExpiry (d : Nat)
  | shelfWarnAssert
  | shelfWarnDeassert
  | brakeHoldExpiry
  | coolWarnAssert
  | coolWarnDeassert
  | estimatorTick (e0 e1 e2 e3 : Nat)
  | calibrationRead (d m e : Nat)
  | telemetryLost (g : Nat)
  | capLease (path : DapPath) (w : Nat)
  | leaseExpiry
  | thermalSample (lat0 lat1 vtx : Nat) (layers : List Nat)
  | thermalTrip
  | boostStep (die : Nat)
  | powerStateActive (path : DapPath)
  | enterS1 (path : DapPath)
  | enterS2 (path : DapPath)
  | enterS3 (path : DapPath)
  | autoS1
  | sleepExitDone
  | powerRequestGrant
  | slackSample (die : Nat) (slacks : List Int)
  | vfReplan (plan : List Nat)
  | replanNow (path : DapPath)
  | dbgNonce (r : Requester)
  | nonceLapse
  | dbgOpen (r : Requester)
  | zeroiseDone
  | dbgClose (r : Requester)
  | levelExpiry
  | setpw (r : Requester)
  | lifecycleProvision (path : DapPath) (cred : List Byte)
  | fieldLock (path : DapPath) (cred : List Byte)
  | decommission (path : DapPath) (cred : List Byte)
  | codeRehash (matches_ : Bool)
  | apxSend (r : Requester) (len : Nat)
  | getVersion (path : SpdmPath) (body : List Byte)
  | getCapabilities (path : SpdmPath) (body : List Byte)
  | negotiateAlgorithms (path : SpdmPath) (body : List Byte)
  | getDigests (path : SpdmPath) (body : List Byte)
  | getCertificate (path : SpdmPath) (body : List Byte)
  | challenge (path : SpdmPath) (body : List Byte)
  | getMeasurements (path : SpdmPath) (body : List Byte)
  | spdmUnsupported (path : SpdmPath) (body : List Byte)
  | extendCustomerSlot (path : DapPath) (v : List Byte)
  | bypass
  | idcode
  | samplePreload
  | extest
  | dapRead (q : DapReq)
  | dapWrite (q : DapReq)
  | list (q : DapReq)
  | describe (q : DapReq)
  | subscribe (q : DapReq)
  | unsubscribe (q : DapReq)
  | dapAbort (q : DapReq)
  | segmentIdleTimeout (idx : Nat)
  | eventAck (path : DapPath) (seq : Nat)
  | eventRetransmit (path : DapPath)
  | watchSample
  | dictSend (r : Requester) (len : Nat)
  | eventFetch (fn : Nat)
  | restoreDefaults (path : DapPath)
  | setEndpointId (pcie : Bool) (eid : Nat)
  | getEndpointId (pcie : Bool)
  | getMctpVersionSupport (pcie : Bool) (msgType : Nat)
  | getMessageTypeSupport (pcie : Bool)
  | getVendorDefinedMessageSupport (pcie : Bool) (selector : Nat)
  | inboxSlotTake (slot : Nat)
  | porAssert
  | porRelease (bootSel node : Nat) (fitted : List (Nat × List Byte))
  | bootReady (report : BootReport)
  | warmRstAssert
  | warmRstRelease
  | warmResetCommand (path : DapPath) (v : Nat)
  | perstAssert
  | functionLevelReset (a : FnReset)
  | imageDownloadSegment (path : DapPath) (off : Nat) (data : List Byte) (last programmed : Bool)
  | updateVerify (path : DapPath)
  | verifyDone
  | updateActivate (path : DapPath)
  | trialReadyTimeout
  | updateConfirm (path : DapPath)
  | updateCancel (path : DapPath)
  | boardRecordWrite (path : DapPath) (v : List Byte)
  | sbCfgWrite (r : Requester) (n be : Nat) (val : Word)
  | sbFunctionApply (n : Nat)
  | sbInputChange (pin : Nat) (level : Bool)
  | stormRelease (pin : Nat)
  | inputStuck (pin : Nat)
  | outputStart (k : Nat)
  | outputShort (k : Nat)
  | outputRetry (k : Nat)
  | retry (r : Requester) (k : Nat)
  | supplyDroop (vlas : Bool)
  | supplyRecovered (vlas : Bool)
  | mkaTimeout (port : Nat)
  | linkFault (port : Nat)
  | lockoutExpiry
  | sleepEntryDone
  | perstRelease
  | fabricActivityIndicatorExpiry (n : Nat)
deriving DecidableEq, Repr

end Sys2Proof
end

