-- ==== Sys2Proof/Decode.lean ====
section
/-! DEFINITION. The rows of spec/opcode_table.json carry no bits: its commands are register accesses, frames, messages and
events, not words of one encoding. -/

namespace Sys2Proof

/-- The command that a word spells by the table's bits: the table gives none of its rows any, so none. -/
def decodeTableWord (_nbits _w : Nat) : Option Instr := none

end Sys2Proof
end

