-- ==== Sys2Proof/Machine/Fp.lean ====
section
/-! DEFINITION. Number formats and rounding (spec/03 R68 to R73, R87, R89). Values are exact: a sign, a natural
significand and a power of two. -/

namespace Sys2Proof.Machine

/-- An exact value of a floating-point format: NaN, an infinity, or (-1)^neg × m × 2^e. -/
inductive FVal where
  | nan
  | inf (neg : Bool)
  | fin (neg : Bool) (m : Nat) (e : Int)
deriving DecidableEq, Repr

/-- An exact dyadic number m × 2^e. -/
structure Dy where
  m : Int
  e : Int
deriving DecidableEq, Repr

/-- Rounding modes of MST and VST (spec/02 R48). -/
inductive Rnd where
  | nearest | zero | up | down
deriving DecidableEq, Repr

/-- The mode of an RND field. -/
def rndOf (n : Nat) : Rnd := if n = 0 then .nearest else if n = 1 then .zero else if n = 2 then .up else .down

/-- 2^k as a number for a non-negative integer `k`; 1 below. -/
def pow2 (k : Int) : Nat := 2 ^ k.toNat

namespace Dy

/-- Exact sum: both terms at the lower exponent. -/
def add (a b : Dy) : Dy :=
  if a.e ≤ b.e then ⟨a.m + b.m * (pow2 (b.e - a.e) : Nat), a.e⟩
  else ⟨a.m * (pow2 (a.e - b.e) : Nat) + b.m, b.e⟩

def mul (a b : Dy) : Dy := ⟨a.m * b.m, a.e + b.e⟩

def neg (a : Dy) : Dy := ⟨-a.m, a.e⟩

def zero : Dy := ⟨0, 0⟩

def one : Dy := ⟨1, 0⟩

def sum (l : List Dy) : Dy := l.foldl add zero

/-- Order of exact values. -/
def le (a b : Dy) : Bool := decide ((add b (neg a)).m ≥ 0)

def lt (a b : Dy) : Bool := !(le b a)

end Dy

/-- The exact value of a finite operand. -/
def FVal.dy : FVal → Dy
  | .fin neg m e => ⟨if neg then -(m : Int) else m, e⟩
  | _ => ⟨0, 0⟩

def FVal.isNan : FVal → Bool
  | .nan => true
  | _ => false

def FVal.isInf : FVal → Bool
  | .inf _ => true
  | _ => false

def FVal.isZero : FVal → Bool
  | .fin _ m _ => m == 0
  | _ => false

def FVal.sign : FVal → Bool
  | .nan => false
  | .inf n => n
  | .fin n _ _ => n

/-- `m / 2^k` rounded to an integer. -/
def roundShift (r : Rnd) (neg : Bool) (m k : Nat) : Nat :=
  let q := m / 2 ^ k
  let rest := m % 2 ^ k
  let half := 2 ^ k / 2
  let up : Bool := match r with
    | .nearest => decide (rest > half ∨ (rest = half ∧ k ≠ 0 ∧ q % 2 = 1))
    | .zero => false
    | .up => !neg && decide (rest ≠ 0)
    | .down => neg && decide (rest ≠ 0)
  if up then q + 1 else q

/-- A binary format: exponent bits, fraction bits, bias, and the largest finite magnitude code. -/
structure Fmt where
  eb : Nat
  mb : Nat
  bias : Nat
  maxCode : Nat
  saturates : Bool
deriving DecidableEq, Repr

def fmtFP32 : Fmt := ⟨8, 23, 127, 0x7F7FFFFF, false⟩
def fmtBF16 : Fmt := ⟨8, 7, 127, 0x7F7F, false⟩
def fmtE4M3 : Fmt := ⟨4, 3, 7, 0x7E, true⟩
def fmtE5M2 : Fmt := ⟨5, 2, 15, 0x7B, true⟩
def fmtW48 : Fmt := ⟨10, 37, 511, 0x1FF * 2 ^ 38 + 2 ^ 38 - 1 - 2 ^ 37, false⟩

/-- The magnitude code of `m × 2^e` rounded to the format, without regard to overflow: code 0 is zero, codes rise with
the magnitude through subnormals, normals and beyond. -/
def roundCode (f : Fmt) (r : Rnd) (neg : Bool) (m : Nat) (e : Int) : Nat :=
  if m = 0 then 0 else
  let qmin : Int := 1 - (f.bias : Int) - (f.mb : Int)
  let q : Int := max ((m.log2 : Int) + e - (f.mb : Int)) qmin
  let n := if e ≥ q then m * pow2 (e - q) else roundShift r neg m (q - e).toNat
  (q - qmin).toNat * 2 ^ f.mb + n

/-- What rounding a finite value gave. -/
inductive Rounded where
  | code (c : Nat)
  | overflowInf
  | overflowMax
deriving DecidableEq, Repr

/-- Round a finite value to a format; beyond the largest finite value an IEEE format gives what IEEE 754 prescribes for
the mode and an FP8 format saturates (R87). -/
def roundFmt (f : Fmt) (r : Rnd) (neg : Bool) (m : Nat) (e : Int) : Rounded :=
  let c := roundCode f r neg m e
  if c ≤ f.maxCode then .code c
  else if f.saturates then .overflowMax
  else match r with
    | .nearest => .overflowInf
    | .zero => .overflowMax
    | .up => if neg then .overflowMax else .overflowInf
    | .down => if neg then .overflowInf else .overflowMax

/-- The sign bit's place. -/
def Fmt.signBit (f : Fmt) : Nat := 2 ^ (f.eb + f.mb)

/-- The code of +∞ in an IEEE format. -/
def Fmt.infCode (f : Fmt) : Nat := (2 ^ f.eb - 1) * 2 ^ f.mb

/-- Decode a magnitude code below the specials. -/
def decodeMag (f : Fmt) (neg : Bool) (mag : Nat) : FVal :=
  let ex := mag / 2 ^ f.mb
  let fr := mag % 2 ^ f.mb
  if ex = 0 then .fin neg fr (1 - (f.bias : Int) - (f.mb : Int))
  else .fin neg (2 ^ f.mb + fr) ((ex : Int) - (f.bias : Int) - (f.mb : Int))

/-- Decode FP32, BF16, E5M2 and W48 (R68). -/
def decodeIeee (f : Fmt) (w : Nat) : FVal :=
  let neg := decide (w / f.signBit % 2 = 1)
  let mag := w % f.signBit
  if mag < f.infCode then decodeMag f neg mag
  else if mag = f.infCode then .inf neg
  else .nan

/-- Decode FP8 E4M3: NaN is S.1111.111 and there is no infinity (R68). -/
def decodeE4M3 (w : Nat) : FVal :=
  if w % 128 = 127 then .nan else decodeMag fmtE4M3 (decide (w / 128 % 2 = 1)) (w % 128)

def decodeFP32 (w : Nat) : FVal := decodeIeee fmtFP32 w
def decodeBF16 (w : Nat) : FVal := decodeIeee fmtBF16 w
def decodeE5M2 (w : Nat) : FVal := decodeIeee fmtE5M2 w

/-- A W48 cell: an exponent of 0 is always zero (R72). -/
def decodeW48 (w : Nat) : FVal :=
  if w / 2 ^ 37 % 1024 = 0 then .fin false 0 0 else decodeIeee fmtW48 w

/-- Encode a value in FP32 with IEEE 754 nearest-even rounding and its sign of zero; every NaN is 0x7FC0_0000 (R89). -/
def encodeFP32 : FVal → Nat
  | .nan => 0x7FC00000
  | .inf n => (if n then 0x80000000 else 0) + 0x7F800000
  | .fin n m e =>
    (if n then 0x80000000 else 0) +
      match roundFmt fmtFP32 .nearest n m e with
      | .code c => c
      | .overflowInf => 0x7F800000
      | .overflowMax => 0x7F7FFFFF

/-- A dyadic number as a value; zero takes the sign given. -/
def dyVal (d : Dy) (zneg : Bool) : FVal :=
  if d.m = 0 then .fin zneg 0 0 else .fin (decide (d.m < 0)) d.m.natAbs d.e

/-- FP32 addition (R89). -/
def addV (a b : FVal) : FVal :=
  match a, b with
  | .nan, _ => .nan
  | _, .nan => .nan
  | .inf n, .inf k => if n = k then .inf n else .nan
  | .inf n, _ => .inf n
  | _, .inf n => .inf n
  | a, b => dyVal (a.dy.add b.dy) (a.sign && b.sign)

def negV : FVal → FVal
  | .nan => .nan
  | .inf n => .inf (!n)
  | .fin n m e => .fin (!n) m e

/-- Exact product (R89). -/
def mulV (a b : FVal) : FVal :=
  match a, b with
  | .nan, _ => .nan
  | _, .nan => .nan
  | .inf n, .fin k m _ => if m = 0 then .nan else .inf (n != k)
  | .fin k m _, .inf n => if m = 0 then .nan else .inf (n != k)
  | .inf n, .inf k => .inf (n != k)
  | .fin n m e, .fin k j g => .fin (n != k) (m * j) (e + g)

/-- An FP32 pattern of an exact value. -/
def toF (v : FVal) : Word := BitVec.ofNat 32 (encodeFP32 v)

/-- The exact value of an FP32 pattern. -/
def ofF (w : Word) : FVal := decodeFP32 w.toNat

def faddW (a b : Word) : Word := toF (addV (ofF a) (ofF b))
def fsubW (a b : Word) : Word := toF (addV (ofF a) (negV (ofF b)))
def fmulW (a b : Word) : Word := toF (mulV (ofF a) (ofF b))
def ffmaW (a b c : Word) : Word := toF (addV (mulV (ofF a) (ofF b)) (ofF c))

/-- a < b among values that are no NaN, with -0 equal to +0. -/
def ltV (a b : FVal) : Bool :=
  match a, b with
  | .nan, _ => false
  | _, .nan => false
  | .inf n, .inf k => n && !k
  | .inf n, _ => n
  | _, .inf k => !k
  | a, b => Dy.lt a.dy b.dy

def eqV (a b : FVal) : Bool := !a.isNan && !b.isNan && !ltV a b && !ltV b a

/-- MAX and MIN (R89): NaN if either is NaN; -0 below +0. -/
def fmaxW (a b : Word) : Word :=
  let x := ofF a; let y := ofF b
  if x.isNan || y.isNan then 0x7FC00000
  else if ltV x y then b else if ltV y x then a
  else if x.sign then b else a

def fminW (a b : Word) : Word :=
  let x := ofF a; let y := ofF b
  if x.isNan || y.isNan then 0x7FC00000
  else if ltV x y then a else if ltV y x then b
  else if x.sign then a else b

/-- An exact value rounded to an integer. -/
def roundInt (r : Rnd) : FVal → Int
  | .fin n m e =>
    let k : Int := (if e ≥ 0 then m * pow2 e else roundShift r n m (-e).toNat : Nat)
    if n then -k else k
  | _ => 0

/-- Saturation to a two's complement range: the integer kept and whether it saturated. -/
def satInt (lo hi x : Int) : Int × Bool :=
  if x < lo then (lo, true) else if x > hi then (hi, true) else (x, false)

/-- FP32 to INT32 (R89, CVT). -/
def cvtToInt (w : Word) : Word :=
  match ofF w with
  | .nan => 0x80000000
  | .inf n => if n then 0x80000000 else 0x7FFFFFFF
  | v => BitVec.ofInt 32 (satInt (-2147483648) 2147483647 (roundInt .nearest v)).1

/-- INT32 to FP32 (R89, CVT). -/
def cvtToF (w : Word) : Word := toF (dyVal ⟨w.toInt, 0⟩ false)

/-- The flags a conversion raises (R87). -/
structure CvtFlags where
  nanOut : Bool := false
  infOut : Bool := false
  fp8Sat : Bool := false
  intSat : Bool := false
deriving DecidableEq, Repr

def CvtFlags.or (a b : CvtFlags) : CvtFlags :=
  ⟨a.nanOut || b.nanOut, a.infOut || b.infOut, a.fp8Sat || b.fp8Sat, a.intSat || b.intSat⟩

/-- A finite value in an IEEE format of the conversion table: zero is positive (R87). -/
def cvtIeee (f : Fmt) (r : Rnd) (n : Bool) (m : Nat) (e : Int) : Nat × CvtFlags :=
  let sg := if n then f.signBit else 0
  match roundFmt f r n m e with
  | .code c => (if c = 0 then 0 else sg + c, {})
  | .overflowInf => (sg + f.infCode, { infOut := true })
  | .overflowMax => (sg + f.maxCode, {})

/-- A finite value in an FP8 format (R87). -/
def cvtFp8 (f : Fmt) (r : Rnd) (n : Bool) (m : Nat) (e : Int) : Nat × CvtFlags :=
  let sg := if n then f.signBit else 0
  match roundFmt f r n m e with
  | .code c => (if c = 0 then 0 else sg + c, {})
  | _ => (sg + f.maxCode, { fp8Sat := true })

/-- The MST conversion table (R87): OFMT 0 FP32, 1 BF16, 2 FP8 E4M3, 3 FP8 E5M2, 4 INT32. -/
def cvtOut (ofmt : Nat) (r : Rnd) (v : FVal) : Nat × CvtFlags :=
  match ofmt, v with
  | 0, .nan => (0x7FC00000, { nanOut := true })
  | 0, .inf n => (if n then 0xFF800000 else 0x7F800000, { infOut := true })
  | 0, .fin n m e => cvtIeee fmtFP32 r n m e
  | 1, .nan => (0x7FC0, { nanOut := true })
  | 1, .inf n => (if n then 0xFF80 else 0x7F80, { infOut := true })
  | 1, .fin n m e => cvtIeee fmtBF16 r n m e
  | 2, .nan => (0x7F, { nanOut := true })
  | 2, .inf _ => (0x7F, { nanOut := true })
  | 2, .fin n m e => cvtFp8 fmtE4M3 r n m e
  | 3, .nan => (0x7E, { nanOut := true })
  | 3, .inf n => (if n then 0xFC else 0x7C, { infOut := true })
  | 3, .fin n m e => cvtFp8 fmtE5M2 r n m e
  | _, .nan => (0x80000000, { intSat := true })
  | _, .inf n => (if n then 0x80000000 else 0x7FFFFFFF, { intSat := true })
  | _, .fin n m e =>
    let x := satInt (-2147483648) 2147483647 (roundInt r (.fin n m e))
    (ofSigned 32 x.1, { intSat := x.2 })

/-- Decode an element of a memory format that VLD and the matrix engine read: 1 BF16, 2 E4M3, 3 E5M2. -/
def decodeElem (fmt w : Nat) : FVal :=
  if fmt = 1 then decodeBF16 w else if fmt = 2 then decodeE4M3 w else if fmt = 3 then decodeE5M2 w else decodeFP32 w

/-- round48 (R71): the nearest W48 value, ties to even; a zero is +0 (R73). -/
def round48 (d : Dy) : Nat :=
  if d.m = 0 then 0 else
  let n := decide (d.m < 0)
  let c := roundCode fmtW48 .nearest n d.m.natAbs d.e
  if c = 0 then 0 else (if n then 2 ^ 47 else 0) + c

/-- The canonical W48 NaN (R73). -/
def w48Nan : Nat := 0x3FF * 2 ^ 37 + 2 ^ 36

/-- The W48 infinity of a sign. -/
def w48Inf (neg : Bool) : Nat := (if neg then 2 ^ 47 else 0) + 0x3FF * 2 ^ 37

end Sys2Proof.Machine
end

