-- ==== Sys2Proof/Machine/ArcRef.lean ====
section
/-! DEFINITION. The exact results of the element functions, to far more places than FP32 holds, and the error bounds of
spec/04 R94 around them. They bound the results that the spec leaves to an image or to a ROM (log entry 9). -/

namespace Sys2Proof.Machine

/-! ### Fixed point: natural numbers over 2^160, and over 2^320 for the reduction of angles -/

def fxOne : Nat := 2 ^ 160

/-- A dyadic number over 2^`k`, rounded down. -/
def Dy.fix (d : Dy) (k : Nat) : Int :=
  let e := d.e + k
  if e ≥ 0 then d.m * (pow2 e : Nat) else d.m / (pow2 (-e) : Nat)

/-- a / b for positive numbers, to more than 180 bits. -/
def Dy.quot (a b : Dy) : Dy :=
  let k := 200 + b.m.natAbs.log2
  ⟨a.m * (2 ^ k : Nat) / b.m, a.e - b.e - k⟩

/-- Terms t, t·y/(k+1), t·y²/((k+1)(k+2)), … -/
def expTerms (y : Nat) : Nat → Nat → Nat → Nat
  | 0, _, _ => 0
  | n + 1, k, t => t + expTerms y n (k + 1) (t * y / fxOne / (k + 1))

/-- t/(2k+1) + t·z/(2k+3) + … -/
def oddTerms (z : Nat) : Nat → Nat → Nat → Nat
  | 0, _, _ => 0
  | n + 1, k, t => t / (2 * k + 1) + oddTerms z n (k + 1) (t * z / fxOne)

/-- ln((1 + z) / (1 - z)) for z up to 1/3. -/
def lnRatio (z : Nat) : Nat := 2 * oddTerms (z * z / fxOne) 56 0 z

def ln2Fix : Nat := lnRatio (fxOne / 3)

/-- t/(2k+1) - t/n/(2k+3) + … over 2^320. -/
def atanTerms (n : Nat) : Nat → Nat → Nat → Int
  | 0, _, _ => 0
  | j + 1, k, t => (t / (2 * k + 1) : Nat) - atanTerms n j (k + 1) (t / n)

/-- π over 2^320: 16 arctan(1/5) - 4 arctan(1/239). -/
def piFix : Int := 16 * atanTerms 25 80 0 (2 ^ 320 / 5) - 4 * atanTerms 57121 26 0 (2 ^ 320 / 239)

/-- t - t·y/((k+1)(k+2)) + … -/
def altTerms (y : Nat) : Nat → Nat → Nat → Int
  | 0, _, _ => 0
  | n + 1, k, t => (t : Int) - altTerms y n (k + 2) (t * y / fxOne / ((k + 1) * (k + 2)))

/-- t, t·y/(2k+3), t·y²/((2k+3)(2k+5)), … -/
def phiTerms (y : Nat) : Nat → Nat → Nat → Nat
  | 0, _, _ => 0
  | n + 1, k, t => t + phiTerms y n (k + 1) (t * y / fxOne / (2 * k + 3))

/-! ### The functions -/

/-- 2^y for a y over 2^160. -/
def exp2Ref (y : Int) : Dy :=
  ⟨(expTerms ((y % (fxOne : Int)).toNat * ln2Fix / fxOne) 48 0 fxOne : Nat), y / (fxOne : Int) - 160⟩

/-- e^x; beyond ±512, where no use of it depends on the value, as at ±512. -/
def expRef (x : Dy) : Dy :=
  let y := max (-512 * (fxOne : Int)) (min (512 * (fxOne : Int)) (x.fix 160))
  exp2Ref (y * (fxOne : Int) / (ln2Fix : Int))

/-- ln x of a positive m × 2^e, over 2^160. -/
def lnFix (m : Nat) (e : Int) : Int :=
  let a := (Dy.fix ⟨m, -(m.log2 : Int)⟩ 160).toNat
  ((m.log2 : Int) + e) * (ln2Fix : Int) + (lnRatio ((a - fxOne) * fxOne / (a + fxOne)) : Nat)

/-- √(m × 2^e) and its reciprocal. -/
def sqrtRef (m : Nat) (e : Int) : Dy :=
  let m' := if e % 2 = 0 then m else 2 * m
  ⟨(Nat.sqrt (m' * 2 ^ 400) : Nat), e / 2 - 200⟩
def rsqrtRef (m : Nat) (e : Int) : Dy :=
  let m' := if e % 2 = 0 then m else 2 * m
  ⟨(Nat.sqrt (2 ^ 480 / m') : Nat), -(e / 2) - 240⟩

/-- (1 - e^(-2t)) / (1 + e^(-2t)) for t ≥ 0. -/
def tanhRef (t : Dy) : Dy :=
  let x := expRef ⟨-2 * t.m, t.e⟩
  (Dy.one.add x.neg).quot (Dy.one.add x)

/-- e^x / (1 + e^x). -/
def sigmoidRef (x : Dy) : Dy :=
  let y := expRef x
  y.quot (Dy.one.add y)

/-- Φ(t) - 1/2 for 0 ≤ t < 8: φ(t) times the sum of t^(2k+1) / (1·3·…·(2k+1)). -/
def phiRef (t : Dy) : Dy :=
  let y := (t.fix 160).toNat
  let root := Nat.sqrt (2 * piFix.toNat)
  ((expRef ⟨-(t.mul t).m, (t.mul t).e - 1⟩).mul ⟨(phiTerms (y * y / fxOne) 220 0 y : Nat), -160⟩).quot ⟨(root : Nat), -160⟩

/-- x × Φ(x). From |x| = 8 on, |x| × Φ(-|x|) is positive and below 2^-47, and 2^-100 stands for it: a bound of R94 is a multiple of
2^-42 there, and so is the distance of an FP32 result from it, so that the two are accepted alike. -/
def geluRef (x : Dy) : Dy :=
  let t : Dy := ⟨x.m.natAbs, x.e⟩
  if Dy.le ⟨8, 0⟩ t then (if x.m < 0 then ⟨-1, -100⟩ else x.add ⟨-1, -100⟩) else
  let p := phiRef t
  x.mul (Dy.add ⟨1, -1⟩ (if x.m < 0 then p.neg else p))

/-- Dexdy's form, 0.5x(1 + tanh(0.7978846(x + 0.044715x³))). -/
def geluDexRef (x : Dy) : Dy :=
  let c := (ofF 0x3D372713).dy.mul (x.mul (x.mul x))
  let u := (ofF 0x3F4C422A).dy.mul (x.add c)
  let t := tanhRef ⟨u.m.natAbs, u.e⟩
  (x.mul (Dy.one.add (if u.m < 0 then t.neg else t))).mul ⟨1, -1⟩

/-- sin (`k` 0) or cos (`k` 1) of x, whose reduction against 2π holds at every finite operand. -/
def trigRef (k : Nat) (x : Dy) : Dy :=
  let r := x.fix 320 % (2 * piFix)
  let q := (2 * r / piFix).toNat
  let y := ((r - q * (piFix / 2)) / (2 ^ 160 : Nat)).toNat
  let y2 := y * y / fxOne
  let v := if (q + k) % 2 = 0 then altTerms y2 40 1 y else altTerms y2 40 0 fxOne
  ⟨if (q + k) % 4 < 2 then v else -v, -160⟩

/-- The function of a code on a finite operand that is no zero; `dex` takes Dexdy's form of GELU. -/
def arcRef (dex : Bool) (fn : Nat) (x : FVal) : Dy :=
  let d := x.dy
  let m := d.m.natAbs
  let odd := fun (r : Dy) => if d.m < 0 then r.neg else r
  match fn with
  | 0 => exp2Ref (d.fix 160)
  | 1 => expRef d
  | 2 => Dy.quot ⟨lnFix m d.e, 0⟩ ⟨(ln2Fix : Nat), 0⟩
  | 3 => ⟨lnFix m d.e, -160⟩
  | 4 => odd (Dy.one.quot ⟨m, d.e⟩)
  | 5 => rsqrtRef m d.e
  | 6 => sqrtRef m d.e
  | 7 => odd (tanhRef ⟨m, d.e⟩)
  | 8 => sigmoidRef d
  | 9 => if dex then geluDexRef d else geluRef d
  | 10 => d.mul (sigmoidRef d)
  | 11 => trigRef 0 d
  | _ => trigRef 1 d

/-! ### The bounds of R94 -/

/-- 2^`k`. -/
def Dy.two (k : Int) : Dy := ⟨1, k⟩

def Dy.abs (d : Dy) : Dy := ⟨d.m.natAbs, d.e⟩

/-- `n` units in the last place of the rounded result. -/
def ulps (n : Nat) (r : Dy) : Dy := ⟨n, (max (roundCode fmtFP32 .nearest false r.m.natAbs r.e / 2 ^ 23) 1 : Nat) - 150⟩

/-- How an Arc operation runs: on the native tables, Dexdy-exact, or on the fallback path (R112). -/
inductive ArcPath where
  | native | dexdy | fallback
deriving DecidableEq, Repr

/-- The errors that R94 allows a function of a code at an operand `x` with the exact result `r`: one of them. -/
def arcBounds (p : ArcPath) (fn : Nat) (x r : Dy) : List Dy :=
  let scaled := fun (k : Int) => if Dy.le Dy.one x.abs then (Dy.two k).mul x.abs else Dy.two k
  let near := Dy.le (Dy.two (-1)) x && Dy.le x (Dy.two 1)
  let tiny := Dy.lt r.abs (Dy.two (-20))
  match p with
  | .native =>
    match fn with
    | 0 => [ulps 1 r]
    | 1 => [ulps 2 r]
    | 2 => ulps 1 r :: (if near then [Dy.two (-22)] else [])
    | 3 => ulps 1 r :: (if near then [Dy.two (-22)] else [])
    | 5 => [ulps 1 r]
    | 7 => ulps 2 r :: (if Dy.lt x.abs (Dy.two (-4)) then [Dy.two (-26)] else [])
    | 8 => [if tiny then Dy.two (-40) else ulps 2 r]
    | 9 => [scaled (-22)]
    | 10 => [if tiny then Dy.two (-40) else ulps 3 r]
    | 11 => [Dy.two (-22)]
    | 12 => [Dy.two (-22)]
    | _ => [(ulps 1 r).mul (Dy.two (-1))]
  | .dexdy =>
    match fn with
    | 0 => [ulps 2 r]
    | 1 => [ulps 4 r]
    | 2 => ulps 2 r :: (if near then [Dy.two (-21)] else [])
    | 3 => ulps 2 r :: (if near then [Dy.two (-21)] else [])
    | 4 => [ulps 1 r]
    | 5 => [ulps 2 r]
    | 6 => [ulps 1 r]
    | 7 => [ulps 4 r]
    | 8 => [if tiny then Dy.two (-36) else ulps 4 r]
    | 9 => [scaled (-20)]
    | _ => [if tiny then Dy.two (-36) else ulps 6 r]
  | .fallback =>
    match fn with
    | 0 => [(Dy.two (-12)).mul r.abs]
    | 1 => [(Dy.two (-12)).mul r.abs]
    | 2 => [Dy.two (-10)]
    | 3 => [Dy.two (-10)]
    | 4 => [ulps 1 r]
    | 5 => [(Dy.two (-14)).mul r.abs]
    | 6 => [ulps 1 r]
    | 7 => [Dy.two (-11)]
    | 8 => [Dy.two (-11)]
    | 9 => [scaled (-10)]
    | 10 => [(Dy.two (-10)).mul r.abs, Dy.two (-30)]
    | _ => [Dy.two (-9)]

/-- The sign that R95 gives a zero result: that of the operand of an odd function and of GELU and SiLU, else plus; a logarithm, a sine
and a cosine of an operand that is no zero are left open. -/
def zeroOk (fn : Nat) (xneg vneg : Bool) : Bool :=
  if fn = 7 ∨ fn = 9 ∨ fn = 10 then xneg == vneg else if fn = 2 ∨ fn = 3 ∨ fn = 11 ∨ fn = 12 then true else !vneg

/-- Whether a result is one that R92 and R94 allow: a finite value within the bound, a zero of the right sign. The exact result
is known to more than 100 bits, and so much is allowed beside the bound. -/
def arcWithin (p : ArcPath) (fn : Nat) (x v : Word) : Bool :=
  match ofF v with
  | .fin n m e =>
    let r := arcRef (p == .dexdy) fn (ofF x)
    let err := (Dy.add (FVal.fin n m e).dy r.neg).abs
    (m != 0 || zeroOk fn (ofF x).sign n) &&
      (arcBounds p fn (ofF x).dy r).any (fun b => Dy.le err (b.add (b.mul (Dy.two (-64)))))
  | _ => false

/-- The exact result rounded to FP32. -/
def arcRounded (p : ArcPath) (fn : Nat) (x : Word) : Word :=
  toF (dyVal (arcRef (p == .dexdy) fn (ofF x)) ((ofF x).sign && decide (fn = 7 ∨ fn = 9 ∨ fn = 10)))

/-- A result that the spec bounds and does not state: the free value `v` where it is one that R94 allows, else the exact result
rounded. -/
def arcFree (p : ArcPath) (fn : Nat) (x v : Word) : Word := if arcWithin p fn x v then v else arcRounded p fn x

end Sys2Proof.Machine
end

