-- ==== Sys2Proof/Config.lean ====
section
/-! DEFINITION. The free values: constants without a body, so that no proof can rest on what they are. Each is what the
spec leaves open (undefined data, an unstated result, a random generator, a cipher's output). -/

namespace Sys2Proof

/-- The free value numbered `k`, `i`-th piece: `k` is `State.freeCtr` when it is drawn (DESIGN CHOICE, unsafe; log entry 2). -/
opaque Config.freeVal : Nat → Nat → Nat

/-- The native Arc result for a function code and an FP32 operand, where spec/04 bounds the error and states no value;
a function of the operand, since R92 and R16 make equal operands give equal results. It is taken where it lies within the
bounds of R94 (DESIGN CHOICE, safe; log entry 9). -/
opaque Config.arcNative : Nat → Word → Word

/-- The fallback-path Arc result, taken where it lies within the bounds of spec/04 R94 (DESIGN CHOICE, safe; log entry 9). -/
opaque Config.arcFallback : Nat → Word → Word

/-- The Dexdy coefficient set (spec/04 R100): byte `k` of the data file of 21,504 bytes. The spec names the file and states
no value (DESIGN CHOICE, safe; log entry 9). -/
opaque Config.dexdySet : Nat → Byte

/-- The Dexdy-exact result where the index reaches 256 and names no entry (DESIGN CHOICE, safe; log entry 9). -/
opaque Config.dexdyOpen : Nat → Word → Word

/-- The native tables of the Arc table image (spec/04 R101): byte `k`, of a Facet's unit (`drip` false) or of the subset of a
Drip engine's. The spec does not print them (DESIGN CHOICE, safe; log entry 7). -/
opaque Config.arcImage : (drip : Bool) → Nat → Byte

/-- The unique device secret: byte `k` of 32 (spec/16 R365). -/
opaque Config.uds : Nat → Byte

/-- What issue reads at an address of instruction memory that operation `uid` writes, before a wait on its counter (spec/02 R61;
no value is stated; log entry 24). -/
opaque Config.earlyCode : (uid : Nat) → Nat → Nat

/-- The metadata of a Hopper unit's codeword: byte `k` of 64, which the spec does not lay out (spec/09 R209; DESIGN CHOICE, safe;
log entry 105). -/
opaque Config.unitMeta : Nat → Nat → Byte

/-- The LDPC parity of a codeword: byte `k` of 448 over data and metadata; the spec does not give the code (spec/09 R209; DESIGN
CHOICE, safe; log entry 105). -/
opaque Config.ldpc : List Byte → Nat → Byte

/-- Whether a die with so many grown bad blocks fails repeatedly and is retired whole (spec/09 R219; DESIGN CHOICE, safe; log
entry 105). -/
opaque Config.dieRetires : Nat → Bool

/-- How long an operation that increments counter `ctr` of Facet `f` at a fabric time has waited behind work of another partition
(spec/12 R282; DESIGN CHOICE, safe; log entry 15). -/
opaque Config.foreignDelay : (time f ctr : Nat) → Nat

/-- Bytes of a save image whose layout is that of one ordering code and stepping: byte `off` of the record of Facet `unit`, or engine
`unit` − 256, at a time (spec/12 R279; DESIGN CHOICE, safe; log entry 90). -/
opaque Config.stepping : (time unit off : Nat) → Byte

/-- The alias certificate that the Apex core issues for measurement slots 0 to 4 (spec/16 R369). -/
opaque Config.aliasCert : List (List Byte) → List Byte

/-- What the JTAG IDCODE register holds (spec/16 R384). -/
opaque Config.idcode : Nat

/-- SHA-384 of the debug authorities' keys in OTP, with their revocation bits (spec/16 R375). -/
opaque Config.debugAuthorities : List (List Byte × Bool)

/-- SHA-384 of the firmware authorities' keys in OTP, with their revocation bits (spec/18 R413). -/
opaque Config.firmwareAuthorities : List (List Byte × Bool)

/-- The PKCS #10 request for the identity key (spec/16, entry 0x7000:05). -/
opaque Config.identityRequest : List Byte

/-- The frequency in MHz that an island's ring oscillator shows at a time (spec/15 R358, entry 0x9000:03). -/
opaque Config.ringOscillator : Nat → Nat → Nat

/-- Frames that a lead's rail, token and radix stores take of the reserved space (spec/14 R321; DESIGN CHOICE, safe; log entry 110). -/
opaque Config.storeFrames : Nat

/-- The CODE of the error-log reports whose code the spec does not state, by the model's own number of the report
(spec/14 R313; DESIGN CHOICE, unsafe; log entry 63). -/
opaque Config.openCode : Nat → Nat

end Sys2Proof
end

