-- ==== Sys2Proof/Machine/Cards.lean ====
section
/-! DEFINITION. The register cards of the spec: every register's place in BAR0, reset domain, access shape and fields. -/

namespace Sys2Proof.Machine

/-- Access codes (spec/00 R8). -/
inductive Acc where
  | ro | rw | w1c | w1s | wo | rc | rwl | rsv
deriving DecidableEq, Repr

/-- Reset domains (spec/00 R7, R10). -/
inductive Dom where
  | cold | warm | part | func
deriving DecidableEq, Repr

/-- Where the instances of a card lie: at a stride, in the block of a Facet by physical position (spec/01 R21), in the
block of a Carafe stack, in the block of a Drip engine (spec/05), or at one offset in every function's own BAR0. -/
inductive Place where
  | at (stride : Nat)
  | facet
  | stack
  | engine
  | func
deriving DecidableEq, Repr

/-- One field of a card. -/
structure FieldInfo where
  hi : Nat
  lo : Nat
  acc : Acc
  rst : Nat
deriving DecidableEq, Repr

/-- One register card. Instance `i` of a card with a second dimension of `n2` is `i / n2`, `i % n2`. -/
structure CardInfo where
  base : Nat
  n1 : Nat
  place : Place
  n2 : Nat
  s2 : Nat
  dom : Dom
  w32 : Bool
  fields : List FieldInfo
deriving DecidableEq, Repr

/-- The registers, one constructor per card (both halves of a pair have their own). -/
inductive Card where
  | identPart
  | identPkgid
  | fctCmd
  | fctStat
  | fctErr
  | fctGccLo
  | fctGccHi
  | fctMcfg
  | fctImemSrcLo
  | fctImemSrcHi
  | fctImemLen
  | fctSb
  | fctAstat
  | fctXcfg
  | fctAccl
  | fctArcst
  | crfStat
  | drpCmd
  | drpStat
  | drpErr
  | drpRingLo
  | drpRingHi
  | drpRingCfg
  | drpCfg
  | drpHead
  | drpAstat
  | drpArcst
  | kvPgcmd
  | kvPgarg0
  | kvPgarg1
  | kvPginfo
  | kvLayout
  | trCmd
  | trVaLo
  | trVaHi
  | trLen
  | trAttr
  | trInfo
  | trRootLo
  | trRootHi
  | trCfg
  | pfCtl
  | pfBaseLo
  | pfBaseHi
  | pfCursorLo
  | pfCursorHi
  | pfStat
  | tierStat
  | blmCmd
  | blmSrcLo
  | blmSrcHi
  | blmDstLo
  | blmDstHi
  | blmDstlen
  | blmOut
  | blmErr
  | blmStat
  | hopStat
  | hopCmd
  | ldrCmd
  | ldrArgLo
  | ldrArgHi
  | ldrJstat
  | ldrJprog
  | wtAct
  | tktQcfg
  | tktSqBaseLo
  | tktSqBaseHi
  | tktCqBaseLo
  | tktCqBaseHi
  | tktSqTail
  | tktCqHead
  | tktQptr
  | tktQerr
  | tktRailStat
  | partCmd
  | partStat
  | partShape
  | partDrip
  | partTickets
  | partKv
  | partTier
  | partStepev
  | partStepLo
  | partStepHi
  | partAmapLo
  | partAmapHi
  | partAmapCtl
  | partIfStepsLo
  | partIfStepsHi
  | partIfStepNsLo
  | partIfStepNsHi
  | partIfForeignNsLo
  | partIfForeignNsHi
  | partIfHoldNsLo
  | partIfHoldNsHi
  | partIfPreemptNsLo
  | partIfPreemptNsHi
  | partIfThrottleNsLo
  | partIfThrottleNsHi
  | partIfLast
  | partIfAvg
  | fmfPortStat
  | fmfStat
  | fmfErr
  | fmfEntCmd
  | fmfEntData
  | fmfCqCmd
  | fmfCqStat
  | fmfCqRingLo
  | fmfCqRingHi
  | fmfCqCfg
  | fmfCqHead
  | errlogPtr
  | errlogCfg
  | errlogOvfFullLo
  | errlogOvfFullHi
  | errlogOvfRateLo
  | errlogOvfRateHi
  | fltStat
  | fltPimgLo
  | fltPimgHi
  | fltPimgN
  | pwrStat
  | pwrCap
  | pwrDom
  | pwrEvt
  | thmStat
  | apxCmd
  | apxStat
  | dbgCmd
  | dbgStat
  | dbgNonce
  | dbgBuf
  | dictCmd
  | dictStat
  | dictReq
  | dictRsp
  | bootStat
  | sbCfg
  | sbStat
  | regoLatch
  | regoCmd
deriving DecidableEq, Repr

/-- A field of a card. -/
structure Fld where
  card : Card
  hi : Nat
  lo : Nat
deriving DecidableEq, Repr

namespace Cards

def identPart : CardInfo := ⟨0x0, 1, (.at 0), 1, 0, .cold, false,
  [⟨31, 16, .ro, 29206⟩, ⟨15, 12, .ro, 0⟩, ⟨11, 8, .ro, 2⟩, ⟨7, 4, .ro, 1⟩, ⟨3, 0, .rsv, 0⟩]⟩
def identPkgid : CardInfo := ⟨0x10, 1, (.at 0), 1, 0, .cold, false,
  [⟨31, 31, .ro, 0⟩, ⟨30, 15, .rsv, 0⟩, ⟨14, 0, .ro, 0⟩]⟩
def fctCmd : CardInfo := ⟨0x0, 256, .facet, 1, 0, .part, true,
  [⟨31, 28, .wo, 0⟩, ⟨27, 24, .ro, 0⟩, ⟨23, 20, .ro, 0⟩, ⟨19, 13, .rsv, 0⟩, ⟨12, 0, .wo, 0⟩]⟩
def fctStat : CardInfo := ⟨0x4, 256, .facet, 1, 0, .part, false,
  [⟨31, 30, .ro, 0⟩, ⟨29, 29, .ro, 0⟩, ⟨28, 28, .ro, 1⟩, ⟨27, 27, .ro, 0⟩, ⟨26, 22, .ro, 0⟩, ⟨21, 13, .rsv, 0⟩, ⟨12, 0, .ro, 0⟩]⟩
def fctErr : CardInfo := ⟨0x8, 256, .facet, 1, 0, .part, false,
  [⟨31, 12, .rsv, 0⟩, ⟨11, 11, .w1c, 0⟩, ⟨10, 10, .w1c, 0⟩, ⟨9, 9, .w1c, 0⟩, ⟨8, 8, .w1c, 0⟩, ⟨7, 7, .w1c, 0⟩, ⟨6, 6, .w1c, 0⟩, ⟨5, 5, .w1c, 0⟩, ⟨4, 4, .w1c, 0⟩, ⟨3, 3, .w1c, 0⟩, ⟨2, 2, .w1c, 0⟩, ⟨1, 1, .w1c, 0⟩, ⟨0, 0, .w1c, 0⟩]⟩
def fctGccLo : CardInfo := ⟨0x10, 256, .facet, 1, 0, .part, false,
  [⟨31, 0, .ro, 0⟩]⟩
def fctGccHi : CardInfo := ⟨0x14, 256, .facet, 1, 0, .part, false,
  [⟨31, 0, .ro, 0⟩]⟩
def fctMcfg : CardInfo := ⟨0x20, 256, .facet, 1, 0, .part, false,
  [⟨31, 9, .rsv, 0⟩, ⟨8, 0, .rw, 64⟩]⟩
def fctImemSrcLo : CardInfo := ⟨0x30, 256, .facet, 1, 0, .part, false,
  [⟨31, 0, .rw, 0⟩]⟩
def fctImemSrcHi : CardInfo := ⟨0x34, 256, .facet, 1, 0, .part, false,
  [⟨31, 0, .rw, 0⟩]⟩
def fctImemLen : CardInfo := ⟨0x38, 256, .facet, 1, 0, .part, false,
  [⟨31, 14, .rsv, 0⟩, ⟨13, 0, .rw, 0⟩]⟩
def fctSb : CardInfo := ⟨0x100, 256, .facet, 64, 4, .part, false,
  [⟨31, 31, .w1c, 0⟩, ⟨30, 30, .ro, 0⟩, ⟨29, 24, .rsv, 0⟩, ⟨23, 0, .rw, 0⟩]⟩
def fctAstat : CardInfo := ⟨0x24, 256, .facet, 1, 0, .part, false,
  [⟨31, 5, .rsv, 0⟩, ⟨4, 4, .w1c, 0⟩, ⟨3, 3, .w1c, 0⟩, ⟨2, 2, .w1c, 0⟩, ⟨1, 1, .w1c, 0⟩, ⟨0, 0, .w1c, 0⟩]⟩
def fctXcfg : CardInfo := ⟨0x28, 256, .facet, 1, 0, .part, false,
  [⟨31, 6, .rsv, 0⟩, ⟨5, 0, .rw, 63⟩]⟩
def fctAccl : CardInfo := ⟨0x2C, 256, .facet, 1, 0, .part, false,
  [⟨31, 8, .rsv, 0⟩, ⟨7, 4, .ro, 0⟩, ⟨3, 0, .ro, 0⟩]⟩
def fctArcst : CardInfo := ⟨0x40, 256, .facet, 1, 0, .part, false,
  [⟨31, 12, .rsv, 0⟩, ⟨11, 8, .ro, 0⟩, ⟨7, 7, .w1c, 0⟩, ⟨6, 6, .w1c, 0⟩, ⟨5, 5, .w1c, 0⟩, ⟨4, 4, .w1c, 0⟩, ⟨3, 3, .w1c, 0⟩, ⟨2, 2, .w1c, 0⟩, ⟨1, 1, .w1c, 0⟩, ⟨0, 0, .w1c, 0⟩]⟩
def crfStat : CardInfo := ⟨0x0, 8, .stack, 1, 0, .warm, false,
  [⟨31, 31, .ro, 0⟩, ⟨30, 30, .ro, 0⟩, ⟨29, 24, .rsv, 0⟩, ⟨23, 16, .ro, 0⟩, ⟨15, 0, .rsv, 0⟩]⟩
def drpCmd : CardInfo := ⟨0x0, 32, .engine, 1, 0, .part, true,
  [⟨31, 28, .wo, 0⟩, ⟨27, 24, .ro, 0⟩, ⟨23, 20, .ro, 0⟩, ⟨19, 0, .rsv, 0⟩]⟩
def drpStat : CardInfo := ⟨0x4, 32, .engine, 1, 0, .part, false,
  [⟨31, 30, .ro, 0⟩, ⟨29, 29, .ro, 1⟩, ⟨28, 28, .ro, 0⟩, ⟨27, 27, .ro, 0⟩, ⟨26, 26, .ro, 0⟩, ⟨25, 0, .rsv, 0⟩]⟩
def drpErr : CardInfo := ⟨0x8, 32, .engine, 1, 0, .part, false,
  [⟨31, 6, .rsv, 0⟩, ⟨5, 5, .w1c, 0⟩, ⟨4, 4, .w1c, 0⟩, ⟨3, 3, .w1c, 0⟩, ⟨2, 2, .w1c, 0⟩, ⟨1, 1, .w1c, 0⟩, ⟨0, 0, .w1c, 0⟩]⟩
def drpRingLo : CardInfo := ⟨0x10, 32, .engine, 1, 0, .part, false,
  [⟨31, 0, .rw, 0⟩]⟩
def drpRingHi : CardInfo := ⟨0x14, 32, .engine, 1, 0, .part, false,
  [⟨31, 0, .rw, 0⟩]⟩
def drpRingCfg : CardInfo := ⟨0x18, 32, .engine, 1, 0, .part, false,
  [⟨31, 4, .rsv, 0⟩, ⟨3, 0, .rw, 6⟩]⟩
def drpCfg : CardInfo := ⟨0x1C, 32, .engine, 1, 0, .part, false,
  [⟨31, 9, .rsv, 0⟩, ⟨8, 0, .rw, 64⟩]⟩
def drpHead : CardInfo := ⟨0x20, 32, .engine, 1, 0, .part, false,
  [⟨31, 16, .rw, 0⟩, ⟨15, 12, .rsv, 0⟩, ⟨11, 0, .rw, 0⟩]⟩
def drpAstat : CardInfo := ⟨0x24, 32, .engine, 1, 0, .part, false,
  [⟨31, 5, .rsv, 0⟩, ⟨4, 4, .w1c, 0⟩, ⟨3, 3, .w1c, 0⟩, ⟨2, 2, .w1c, 0⟩, ⟨1, 1, .w1c, 0⟩, ⟨0, 0, .w1c, 0⟩]⟩
def drpArcst : CardInfo := ⟨0x40, 32, .engine, 1, 0, .part, false,
  [⟨31, 12, .rsv, 0⟩, ⟨11, 8, .ro, 0⟩, ⟨7, 7, .w1c, 0⟩, ⟨6, 6, .w1c, 0⟩, ⟨5, 5, .w1c, 0⟩, ⟨4, 4, .w1c, 0⟩, ⟨3, 3, .w1c, 0⟩, ⟨2, 2, .w1c, 0⟩, ⟨1, 1, .w1c, 0⟩, ⟨0, 0, .w1c, 0⟩]⟩
def kvPgcmd : CardInfo := ⟨0xC80000, 1, (.at 0), 1, 0, .warm, true,
  [⟨31, 28, .wo, 0⟩, ⟨27, 24, .ro, 0⟩, ⟨23, 20, .ro, 0⟩, ⟨19, 16, .ro, 0⟩, ⟨15, 0, .rsv, 0⟩]⟩
def kvPgarg0 : CardInfo := ⟨0xC80004, 1, (.at 0), 1, 0, .warm, false,
  [⟨31, 0, .rw, 0⟩]⟩
def kvPgarg1 : CardInfo := ⟨0xC80008, 1, (.at 0), 1, 0, .warm, false,
  [⟨31, 24, .rw, 0⟩, ⟨23, 18, .rsv, 0⟩, ⟨17, 0, .rw, 0⟩]⟩
def kvPginfo : CardInfo := ⟨0xC8000C, 1, (.at 0), 1, 0, .warm, false,
  [⟨31, 31, .ro, 0⟩, ⟨30, 30, .ro, 0⟩, ⟨29, 26, .ro, 0⟩, ⟨25, 21, .ro, 0⟩, ⟨20, 0, .rsv, 0⟩]⟩
def kvLayout : CardInfo := ⟨0xC84000, 16, (.at 1024), 256, 4, .part, false,
  [⟨31, 31, .rw, 0⟩, ⟨30, 28, .rw, 0⟩, ⟨27, 0, .rsv, 0⟩]⟩
def trCmd : CardInfo := ⟨0xC00000, 16, (.at 4096), 1, 0, .part, true,
  [⟨31, 28, .wo, 0⟩, ⟨27, 24, .ro, 0⟩, ⟨23, 20, .ro, 0⟩, ⟨19, 16, .ro, 0⟩, ⟨15, 0, .rsv, 0⟩]⟩
def trVaLo : CardInfo := ⟨0xC00008, 16, (.at 4096), 1, 0, .part, false,
  [⟨31, 0, .rw, 0⟩]⟩
def trVaHi : CardInfo := ⟨0xC0000C, 16, (.at 4096), 1, 0, .part, false,
  [⟨31, 0, .rw, 0⟩]⟩
def trLen : CardInfo := ⟨0xC00010, 16, (.at 4096), 1, 0, .part, false,
  [⟨31, 0, .rw, 0⟩]⟩
def trAttr : CardInfo := ⟨0xC00014, 16, (.at 4096), 1, 0, .part, false,
  [⟨31, 30, .rw, 1⟩, ⟨29, 28, .rw, 0⟩, ⟨27, 25, .rw, 0⟩, ⟨24, 24, .rw, 0⟩, ⟨23, 0, .rsv, 0⟩]⟩
def trInfo : CardInfo := ⟨0xC00018, 16, (.at 4096), 1, 0, .part, false,
  [⟨31, 31, .ro, 0⟩, ⟨30, 29, .ro, 0⟩, ⟨28, 27, .ro, 0⟩, ⟨26, 26, .ro, 0⟩, ⟨25, 25, .ro, 0⟩, ⟨24, 24, .ro, 0⟩, ⟨23, 23, .ro, 0⟩, ⟨22, 20, .ro, 0⟩, ⟨19, 19, .ro, 0⟩, ⟨18, 0, .rsv, 0⟩]⟩
def trRootLo : CardInfo := ⟨0xC00020, 16, (.at 4096), 1, 0, .part, false,
  [⟨31, 0, .ro, 0⟩]⟩
def trRootHi : CardInfo := ⟨0xC00024, 16, (.at 4096), 1, 0, .part, false,
  [⟨31, 0, .ro, 0⟩]⟩
def trCfg : CardInfo := ⟨0xC00030, 16, (.at 4096), 1, 0, .part, false,
  [⟨31, 31, .rw, 1⟩, ⟨30, 24, .rsv, 0⟩, ⟨23, 0, .rw, 256⟩]⟩
def pfCtl : CardInfo := ⟨0xC00040, 16, (.at 4096), 1, 0, .part, false,
  [⟨31, 31, .rw, 0⟩, ⟨30, 13, .rsv, 0⟩, ⟨12, 0, .rw, 0⟩]⟩
def pfBaseLo : CardInfo := ⟨0xC00048, 16, (.at 4096), 1, 0, .part, false,
  [⟨31, 0, .rw, 0⟩]⟩
def pfBaseHi : CardInfo := ⟨0xC0004C, 16, (.at 4096), 1, 0, .part, false,
  [⟨31, 0, .rw, 0⟩]⟩
def pfCursorLo : CardInfo := ⟨0xC00050, 16, (.at 4096), 1, 0, .part, false,
  [⟨31, 0, .rw, 0⟩]⟩
def pfCursorHi : CardInfo := ⟨0xC00054, 16, (.at 4096), 1, 0, .part, false,
  [⟨31, 0, .rw, 0⟩]⟩
def pfStat : CardInfo := ⟨0xC00058, 16, (.at 4096), 1, 0, .part, false,
  [⟨31, 19, .ro, 0⟩, ⟨18, 16, .ro, 0⟩, ⟨15, 0, .rc, 0⟩]⟩
def tierStat : CardInfo := ⟨0xC10000, 1, (.at 0), 1, 0, .warm, false,
  [⟨31, 31, .ro, 0⟩, ⟨30, 30, .ro, 0⟩, ⟨29, 0, .rsv, 0⟩]⟩
def blmCmd : CardInfo := ⟨0xE00000, 1, (.at 0), 1, 0, .warm, true,
  [⟨31, 28, .wo, 0⟩, ⟨27, 24, .ro, 0⟩, ⟨23, 20, .ro, 0⟩, ⟨19, 16, .ro, 0⟩, ⟨15, 0, .rsv, 0⟩]⟩
def blmSrcLo : CardInfo := ⟨0xE00008, 1, (.at 0), 1, 0, .warm, false,
  [⟨31, 0, .rw, 0⟩]⟩
def blmSrcHi : CardInfo := ⟨0xE0000C, 1, (.at 0), 1, 0, .warm, false,
  [⟨31, 0, .rw, 0⟩]⟩
def blmDstLo : CardInfo := ⟨0xE00010, 1, (.at 0), 1, 0, .warm, false,
  [⟨31, 0, .rw, 0⟩]⟩
def blmDstHi : CardInfo := ⟨0xE00014, 1, (.at 0), 1, 0, .warm, false,
  [⟨31, 0, .rw, 0⟩]⟩
def blmDstlen : CardInfo := ⟨0xE00018, 1, (.at 0), 1, 0, .warm, false,
  [⟨31, 0, .rw, 0⟩]⟩
def blmOut : CardInfo := ⟨0xE0001C, 1, (.at 0), 1, 0, .warm, false,
  [⟨31, 0, .ro, 0⟩]⟩
def blmErr : CardInfo := ⟨0xE00020, 1, (.at 0), 1, 0, .warm, false,
  [⟨31, 12, .rsv, 0⟩, ⟨11, 1, .w1c, 0⟩, ⟨0, 0, .rsv, 0⟩]⟩
def blmStat : CardInfo := ⟨0xE00024, 1, (.at 0), 1, 0, .warm, false,
  [⟨31, 8, .rsv, 0⟩, ⟨7, 0, .ro, 0⟩]⟩
def hopStat : CardInfo := ⟨0x2800000, 1, (.at 0), 1, 0, .cold, false,
  [⟨31, 29, .ro, 1⟩, ⟨28, 25, .ro, 0⟩, ⟨24, 16, .rsv, 0⟩, ⟨15, 0, .ro, 0⟩]⟩
def hopCmd : CardInfo := ⟨0x2800004, 1, (.at 0), 1, 0, .warm, true,
  [⟨31, 28, .wo, 0⟩, ⟨27, 24, .ro, 0⟩, ⟨23, 20, .ro, 0⟩, ⟨19, 0, .rsv, 0⟩]⟩
def ldrCmd : CardInfo := ⟨0xE01000, 1, (.at 0), 1, 0, .warm, true,
  [⟨31, 28, .wo, 0⟩, ⟨27, 24, .ro, 0⟩, ⟨23, 20, .ro, 0⟩, ⟨19, 16, .ro, 0⟩, ⟨15, 14, .wo, 0⟩, ⟨13, 12, .rsv, 0⟩, ⟨11, 8, .wo, 0⟩, ⟨7, 0, .wo, 0⟩]⟩
def ldrArgLo : CardInfo := ⟨0xE01008, 1, (.at 0), 1, 0, .warm, false,
  [⟨31, 0, .rw, 0⟩]⟩
def ldrArgHi : CardInfo := ⟨0xE0100C, 1, (.at 0), 1, 0, .warm, false,
  [⟨31, 0, .rw, 0⟩]⟩
def ldrJstat : CardInfo := ⟨0xE01020, 4, (.at 4), 1, 0, .warm, false,
  [⟨31, 29, .ro, 0⟩, ⟨28, 25, .ro, 0⟩, ⟨24, 0, .rsv, 0⟩]⟩
def ldrJprog : CardInfo := ⟨0xE01030, 4, (.at 4), 1, 0, .warm, false,
  [⟨31, 0, .ro, 0⟩]⟩
def wtAct : CardInfo := ⟨0xE01100, 16, (.at 4), 1, 0, .part, false,
  [⟨31, 24, .ro, 0⟩, ⟨23, 16, .ro, 0⟩, ⟨15, 8, .ro, 0⟩, ⟨7, 0, .ro, 0⟩]⟩
def tktQcfg : CardInfo := ⟨0x800000, 17, .func, 1, 0, .func, false,
  [⟨31, 31, .rw, 0⟩, ⟨30, 28, .rsv, 0⟩, ⟨27, 24, .rw, 6⟩, ⟨23, 20, .rw, 8⟩, ⟨19, 16, .rsv, 0⟩, ⟨15, 0, .rw, 0⟩]⟩
def tktSqBaseLo : CardInfo := ⟨0x800008, 17, .func, 1, 0, .func, false,
  [⟨31, 0, .rw, 0⟩]⟩
def tktSqBaseHi : CardInfo := ⟨0x80000C, 17, .func, 1, 0, .func, false,
  [⟨31, 0, .rw, 0⟩]⟩
def tktCqBaseLo : CardInfo := ⟨0x800010, 17, .func, 1, 0, .func, false,
  [⟨31, 0, .rw, 0⟩]⟩
def tktCqBaseHi : CardInfo := ⟨0x800014, 17, .func, 1, 0, .func, false,
  [⟨31, 0, .rw, 0⟩]⟩
def tktSqTail : CardInfo := ⟨0x800018, 17, .func, 1, 0, .func, true,
  [⟨31, 16, .rsv, 0⟩, ⟨15, 0, .wo, 0⟩]⟩
def tktCqHead : CardInfo := ⟨0x80001C, 17, .func, 1, 0, .func, true,
  [⟨31, 16, .rsv, 0⟩, ⟨15, 0, .wo, 0⟩]⟩
def tktQptr : CardInfo := ⟨0x800020, 17, .func, 1, 0, .func, false,
  [⟨31, 16, .ro, 0⟩, ⟨15, 0, .ro, 0⟩]⟩
def tktQerr : CardInfo := ⟨0x800024, 17, .func, 1, 0, .func, false,
  [⟨31, 4, .rsv, 0⟩, ⟨3, 3, .w1c, 0⟩, ⟨2, 2, .w1c, 0⟩, ⟨1, 1, .w1c, 0⟩, ⟨0, 0, .w1c, 0⟩]⟩
def tktRailStat : CardInfo := ⟨0x900000, 1, (.at 0), 1, 0, .warm, false,
  [⟨31, 29, .rsv, 0⟩, ⟨28, 16, .ro, 0⟩, ⟨15, 13, .rsv, 0⟩, ⟨12, 0, .ro, 0⟩]⟩
def partCmd : CardInfo := ⟨0xA00000, 16, (.at 4096), 1, 0, .warm, true,
  [⟨31, 28, .wo, 0⟩, ⟨27, 24, .ro, 0⟩, ⟨23, 20, .ro, 0⟩, ⟨19, 16, .ro, 0⟩, ⟨15, 0, .rsv, 0⟩]⟩
def partStat : CardInfo := ⟨0xA00004, 16, (.at 4096), 1, 0, .warm, false,
  [⟨31, 29, .ro, 0⟩, ⟨28, 28, .w1c, 0⟩, ⟨27, 20, .rsv, 0⟩, ⟨19, 12, .ro, 0⟩, ⟨11, 0, .ro, 0⟩]⟩
def partShape : CardInfo := ⟨0xA00008, 16, (.at 4096), 1, 0, .warm, false,
  [⟨31, 16, .rsv, 0⟩, ⟨15, 12, .rw, 0⟩, ⟨11, 8, .rw, 0⟩, ⟨7, 4, .rw, 0⟩, ⟨3, 0, .rw, 0⟩]⟩
def partDrip : CardInfo := ⟨0xA0000C, 16, (.at 4096), 1, 0, .warm, false,
  [⟨31, 0, .rw, 0⟩]⟩
def partTickets : CardInfo := ⟨0xA00010, 16, (.at 4096), 1, 0, .warm, false,
  [⟨31, 28, .rsv, 0⟩, ⟨27, 16, .rw, 0⟩, ⟨15, 13, .rsv, 0⟩, ⟨12, 0, .rw, 0⟩]⟩
def partKv : CardInfo := ⟨0xA00014, 16, (.at 4096), 1, 0, .warm, false,
  [⟨31, 24, .rsv, 0⟩, ⟨23, 0, .rw, 0⟩]⟩
def partTier : CardInfo := ⟨0xA00018, 16, (.at 4096), 1, 0, .warm, false,
  [⟨31, 24, .rsv, 0⟩, ⟨23, 0, .rw, 0⟩]⟩
def partStepev : CardInfo := ⟨0xA0001C, 16, (.at 4096), 1, 0, .part, false,
  [⟨31, 16, .rsv, 0⟩, ⟨15, 8, .rw, 0⟩, ⟨7, 6, .rsv, 0⟩, ⟨5, 0, .rw, 0⟩]⟩
def partStepLo : CardInfo := ⟨0xA00020, 16, (.at 4096), 1, 0, .warm, false,
  [⟨31, 0, .ro, 0⟩]⟩
def partStepHi : CardInfo := ⟨0xA00024, 16, (.at 4096), 1, 0, .warm, false,
  [⟨31, 0, .ro, 0⟩]⟩
def partAmapLo : CardInfo := ⟨0xA00080, 16, (.at 4096), 8, 16, .part, false,
  [⟨31, 0, .rw, 0⟩]⟩
def partAmapHi : CardInfo := ⟨0xA00084, 16, (.at 4096), 8, 16, .part, false,
  [⟨31, 0, .rw, 0⟩]⟩
def partAmapCtl : CardInfo := ⟨0xA00088, 16, (.at 4096), 8, 16, .part, false,
  [⟨31, 31, .rw, 0⟩, ⟨30, 30, .rw, 0⟩, ⟨29, 29, .rw, 0⟩, ⟨28, 24, .rsv, 0⟩, ⟨23, 0, .rw, 0⟩]⟩
def partIfStepsLo : CardInfo := ⟨0xA00100, 16, (.at 4096), 1, 0, .part, false,
  [⟨31, 0, .ro, 0⟩]⟩
def partIfStepsHi : CardInfo := ⟨0xA00104, 16, (.at 4096), 1, 0, .part, false,
  [⟨31, 0, .ro, 0⟩]⟩
def partIfStepNsLo : CardInfo := ⟨0xA00108, 16, (.at 4096), 1, 0, .part, false,
  [⟨31, 0, .ro, 0⟩]⟩
def partIfStepNsHi : CardInfo := ⟨0xA0010C, 16, (.at 4096), 1, 0, .part, false,
  [⟨31, 0, .ro, 0⟩]⟩
def partIfForeignNsLo : CardInfo := ⟨0xA00110, 16, (.at 4096), 1, 0, .part, false,
  [⟨31, 0, .ro, 0⟩]⟩
def partIfForeignNsHi : CardInfo := ⟨0xA00114, 16, (.at 4096), 1, 0, .part, false,
  [⟨31, 0, .ro, 0⟩]⟩
def partIfHoldNsLo : CardInfo := ⟨0xA00118, 16, (.at 4096), 1, 0, .part, false,
  [⟨31, 0, .ro, 0⟩]⟩
def partIfHoldNsHi : CardInfo := ⟨0xA0011C, 16, (.at 4096), 1, 0, .part, false,
  [⟨31, 0, .ro, 0⟩]⟩
def partIfPreemptNsLo : CardInfo := ⟨0xA00120, 16, (.at 4096), 1, 0, .part, false,
  [⟨31, 0, .ro, 0⟩]⟩
def partIfPreemptNsHi : CardInfo := ⟨0xA00124, 16, (.at 4096), 1, 0, .part, false,
  [⟨31, 0, .ro, 0⟩]⟩
def partIfThrottleNsLo : CardInfo := ⟨0xA00128, 16, (.at 4096), 1, 0, .part, false,
  [⟨31, 0, .ro, 0⟩]⟩
def partIfThrottleNsHi : CardInfo := ⟨0xA0012C, 16, (.at 4096), 1, 0, .part, false,
  [⟨31, 0, .ro, 0⟩]⟩
def partIfLast : CardInfo := ⟨0xA00130, 16, (.at 4096), 1, 0, .part, false,
  [⟨31, 0, .ro, 65536⟩]⟩
def partIfAvg : CardInfo := ⟨0xA00134, 16, (.at 4096), 1, 0, .part, false,
  [⟨31, 0, .ro, 65536⟩]⟩
def fmfPortStat : CardInfo := ⟨0x400000, 32, (.at 256), 1, 0, .warm, false,
  [⟨31, 29, .ro, 0⟩, ⟨28, 27, .ro, 0⟩, ⟨26, 26, .w1s, 0⟩, ⟨25, 25, .ro, 0⟩, ⟨24, 20, .ro, 0⟩, ⟨19, 18, .ro, 0⟩, ⟨17, 13, .rsv, 0⟩, ⟨12, 0, .ro, 0⟩]⟩
def fmfStat : CardInfo := ⟨0x404000, 1, (.at 0), 1, 0, .warm, false,
  [⟨31, 31, .ro, 0⟩, ⟨30, 30, .w1c, 0⟩, ⟨29, 17, .rsv, 0⟩, ⟨16, 0, .ro, 0⟩]⟩
def fmfErr : CardInfo := ⟨0x404004, 1, (.at 0), 1, 0, .warm, false,
  [⟨31, 5, .rsv, 0⟩, ⟨4, 4, .w1c, 0⟩, ⟨3, 3, .w1c, 0⟩, ⟨2, 2, .w1c, 0⟩, ⟨1, 1, .w1c, 0⟩, ⟨0, 0, .w1c, 0⟩]⟩
def fmfEntCmd : CardInfo := ⟨0x404010, 1, (.at 0), 1, 0, .warm, true,
  [⟨31, 28, .wo, 0⟩, ⟨27, 24, .ro, 0⟩, ⟨23, 20, .ro, 0⟩, ⟨19, 16, .ro, 0⟩, ⟨15, 12, .rsv, 0⟩, ⟨11, 0, .wo, 0⟩]⟩
def fmfEntData : CardInfo := ⟨0x404020, 8, (.at 4), 1, 0, .warm, false,
  [⟨31, 0, .rw, 0⟩]⟩
def fmfCqCmd : CardInfo := ⟨0x408000, 16, (.at 64), 1, 0, .part, true,
  [⟨31, 28, .wo, 0⟩, ⟨27, 24, .ro, 0⟩, ⟨23, 20, .ro, 0⟩, ⟨19, 0, .rsv, 0⟩]⟩
def fmfCqStat : CardInfo := ⟨0x408004, 16, (.at 64), 1, 0, .part, false,
  [⟨31, 30, .ro, 0⟩, ⟨29, 26, .ro, 0⟩, ⟨25, 0, .rsv, 0⟩]⟩
def fmfCqRingLo : CardInfo := ⟨0x408010, 16, (.at 64), 1, 0, .part, false,
  [⟨31, 0, .rw, 0⟩]⟩
def fmfCqRingHi : CardInfo := ⟨0x408014, 16, (.at 64), 1, 0, .part, false,
  [⟨31, 0, .rw, 0⟩]⟩
def fmfCqCfg : CardInfo := ⟨0x408018, 16, (.at 64), 1, 0, .part, false,
  [⟨31, 4, .rsv, 0⟩, ⟨3, 0, .rw, 6⟩]⟩
def fmfCqHead : CardInfo := ⟨0x408020, 16, (.at 64), 1, 0, .part, false,
  [⟨31, 16, .rw, 0⟩, ⟨15, 12, .rsv, 0⟩, ⟨11, 0, .rw, 0⟩]⟩
def errlogPtr : CardInfo := ⟨0x300000, 17, .func, 1, 0, .warm, false,
  [⟨31, 16, .rw, 0⟩, ⟨15, 0, .ro, 0⟩]⟩
def errlogCfg : CardInfo := ⟨0x300004, 1, (.at 0), 1, 0, .warm, false,
  [⟨31, 31, .rw, 0⟩, ⟨30, 0, .rsv, 0⟩]⟩
def errlogOvfFullLo : CardInfo := ⟨0x300008, 1, (.at 0), 1, 0, .warm, false,
  [⟨31, 0, .ro, 0⟩]⟩
def errlogOvfFullHi : CardInfo := ⟨0x30000C, 1, (.at 0), 1, 0, .warm, false,
  [⟨31, 0, .ro, 0⟩]⟩
def errlogOvfRateLo : CardInfo := ⟨0x300010, 1, (.at 0), 1, 0, .warm, false,
  [⟨31, 0, .ro, 0⟩]⟩
def errlogOvfRateHi : CardInfo := ⟨0x300014, 1, (.at 0), 1, 0, .warm, false,
  [⟨31, 0, .ro, 0⟩]⟩
def fltStat : CardInfo := ⟨0x300020, 1, (.at 0), 1, 0, .warm, false,
  [⟨31, 29, .ro, 0⟩, ⟨28, 16, .rsv, 0⟩, ⟨15, 0, .ro, 0⟩]⟩
def fltPimgLo : CardInfo := ⟨0x300100, 16, (.at 16), 1, 0, .warm, false,
  [⟨31, 0, .rw, 0⟩]⟩
def fltPimgHi : CardInfo := ⟨0x300104, 16, (.at 16), 1, 0, .warm, false,
  [⟨31, 0, .rw, 0⟩]⟩
def fltPimgN : CardInfo := ⟨0x300108, 16, (.at 16), 1, 0, .warm, false,
  [⟨31, 9, .rsv, 0⟩, ⟨8, 0, .rw, 0⟩]⟩
def pwrStat : CardInfo := ⟨0x200000, 1, (.at 0), 1, 0, .warm, false,
  [⟨31, 30, .ro, 1⟩, ⟨29, 28, .ro, 0⟩, ⟨27, 26, .ro, 0⟩, ⟨25, 25, .ro, 0⟩, ⟨24, 24, .ro, 0⟩, ⟨23, 20, .ro, 0⟩, ⟨19, 14, .ro, 0⟩, ⟨13, 13, .ro, 0⟩, ⟨12, 12, .ro, 0⟩, ⟨11, 11, .ro, 0⟩, ⟨10, 10, .ro, 0⟩, ⟨9, 0, .rsv, 0⟩]⟩
def pwrCap : CardInfo := ⟨0x200004, 1, (.at 0), 1, 0, .warm, false,
  [⟨31, 28, .ro, 3⟩, ⟨27, 12, .rsv, 0⟩, ⟨11, 0, .ro, 1500⟩]⟩
def pwrDom : CardInfo := ⟨0x200010, 4, (.at 4), 1, 0, .warm, false,
  [⟨31, 16, .ro, 0⟩, ⟨15, 0, .ro, 0⟩]⟩
def pwrEvt : CardInfo := ⟨0x200020, 1, (.at 0), 1, 0, .warm, false,
  [⟨31, 9, .rsv, 0⟩, ⟨8, 8, .w1c, 0⟩, ⟨7, 7, .w1c, 0⟩, ⟨6, 6, .w1c, 0⟩, ⟨5, 5, .w1c, 0⟩, ⟨4, 4, .w1c, 0⟩, ⟨3, 3, .w1c, 0⟩, ⟨2, 2, .w1c, 0⟩, ⟨1, 1, .w1c, 0⟩, ⟨0, 0, .w1c, 0⟩]⟩
def thmStat : CardInfo := ⟨0x200040, 1, (.at 0), 1, 0, .warm, false,
  [⟨31, 24, .ro, 0⟩, ⟨23, 16, .ro, 0⟩, ⟨15, 8, .ro, 0⟩, ⟨7, 0, .ro, 0⟩]⟩
def apxCmd : CardInfo := ⟨0x2C00000, 17, .func, 1, 0, .func, true,
  [⟨31, 28, .wo, 0⟩, ⟨27, 24, .ro, 0⟩, ⟨23, 20, .ro, 0⟩, ⟨19, 13, .rsv, 0⟩, ⟨12, 0, .wo, 0⟩]⟩
def apxStat : CardInfo := ⟨0x2C00004, 17, .func, 1, 0, .func, false,
  [⟨31, 31, .ro, 0⟩, ⟨30, 29, .ro, 0⟩, ⟨28, 27, .ro, 0⟩, ⟨26, 13, .rsv, 0⟩, ⟨12, 0, .ro, 0⟩]⟩
def dbgCmd : CardInfo := ⟨0x2E00000, 1, (.at 0), 1, 0, .warm, true,
  [⟨31, 28, .wo, 0⟩, ⟨27, 24, .ro, 0⟩, ⟨23, 20, .ro, 0⟩, ⟨19, 16, .ro, 0⟩, ⟨15, 0, .rsv, 0⟩]⟩
def dbgStat : CardInfo := ⟨0x2E00004, 1, (.at 0), 1, 0, .warm, false,
  [⟨31, 30, .ro, 0⟩, ⟨29, 28, .ro, 0⟩, ⟨27, 27, .ro, 0⟩, ⟨26, 16, .rsv, 0⟩, ⟨15, 0, .ro, 0⟩]⟩
def dbgNonce : CardInfo := ⟨0x2E00040, 12, (.at 4), 1, 0, .warm, false,
  [⟨31, 0, .ro, 0⟩]⟩
def dbgBuf : CardInfo := ⟨0x2E00100, 128, (.at 4), 1, 0, .warm, false,
  [⟨31, 0, .wo, 0⟩]⟩
def dictCmd : CardInfo := ⟨0x100000, 17, .func, 1, 0, .func, true,
  [⟨31, 28, .wo, 0⟩, ⟨27, 24, .ro, 0⟩, ⟨23, 20, .ro, 0⟩, ⟨19, 11, .rsv, 0⟩, ⟨10, 0, .wo, 0⟩]⟩
def dictStat : CardInfo := ⟨0x100004, 17, .func, 1, 0, .func, false,
  [⟨31, 31, .ro, 0⟩, ⟨30, 30, .ro, 0⟩, ⟨29, 11, .rsv, 0⟩, ⟨10, 0, .ro, 0⟩]⟩
def dictReq : CardInfo := ⟨0x101000, 17, .func, 262, 4, .func, false,
  [⟨31, 0, .rw, 0⟩]⟩
def dictRsp : CardInfo := ⟨0x102000, 17, .func, 262, 4, .func, false,
  [⟨31, 0, .ro, 0⟩]⟩
def bootStat : CardInfo := ⟨0x20, 1, (.at 0), 1, 0, .warm, false,
  [⟨31, 31, .ro, 0⟩, ⟨30, 30, .ro, 0⟩, ⟨29, 29, .ro, 0⟩, ⟨28, 28, .ro, 0⟩, ⟨27, 27, .ro, 0⟩, ⟨26, 24, .ro, 0⟩, ⟨23, 0, .rsv, 0⟩]⟩
def sbCfg : CardInfo := ⟨0x108000, 10, (.at 4), 1, 0, .cold, false,
  [⟨31, 28, .rw, 0⟩, ⟨27, 27, .rw, 0⟩, ⟨26, 26, .ro, 0⟩, ⟨25, 0, .rsv, 0⟩]⟩
def sbStat : CardInfo := ⟨0x108040, 1, (.at 0), 1, 0, .warm, false,
  [⟨31, 24, .rsv, 0⟩, ⟨23, 16, .w1c, 0⟩, ⟨15, 8, .w1c, 0⟩, ⟨7, 0, .ro, 0⟩]⟩
def regoLatch : CardInfo := ⟨0x200080, 1, (.at 0), 1, 0, .cold, false,
  [⟨31, 16, .ro, 0⟩, ⟨15, 0, .ro, 0⟩]⟩
def regoCmd : CardInfo := ⟨0x200084, 1, (.at 0), 1, 0, .cold, true,
  [⟨31, 28, .wo, 0⟩, ⟨27, 24, .ro, 0⟩, ⟨23, 20, .ro, 0⟩, ⟨19, 8, .rsv, 0⟩, ⟨7, 6, .ro, 0⟩, ⟨5, 0, .wo, 0⟩]⟩

end Cards

/-- What each card says. -/
def cardInfo : Card → CardInfo
  | .identPart => Cards.identPart
  | .identPkgid => Cards.identPkgid
  | .fctCmd => Cards.fctCmd
  | .fctStat => Cards.fctStat
  | .fctErr => Cards.fctErr
  | .fctGccLo => Cards.fctGccLo
  | .fctGccHi => Cards.fctGccHi
  | .fctMcfg => Cards.fctMcfg
  | .fctImemSrcLo => Cards.fctImemSrcLo
  | .fctImemSrcHi => Cards.fctImemSrcHi
  | .fctImemLen => Cards.fctImemLen
  | .fctSb => Cards.fctSb
  | .fctAstat => Cards.fctAstat
  | .fctXcfg => Cards.fctXcfg
  | .fctAccl => Cards.fctAccl
  | .fctArcst => Cards.fctArcst
  | .crfStat => Cards.crfStat
  | .drpCmd => Cards.drpCmd
  | .drpStat => Cards.drpStat
  | .drpErr => Cards.drpErr
  | .drpRingLo => Cards.drpRingLo
  | .drpRingHi => Cards.drpRingHi
  | .drpRingCfg => Cards.drpRingCfg
  | .drpCfg => Cards.drpCfg
  | .drpHead => Cards.drpHead
  | .drpAstat => Cards.drpAstat
  | .drpArcst => Cards.drpArcst
  | .kvPgcmd => Cards.kvPgcmd
  | .kvPgarg0 => Cards.kvPgarg0
  | .kvPgarg1 => Cards.kvPgarg1
  | .kvPginfo => Cards.kvPginfo
  | .kvLayout => Cards.kvLayout
  | .trCmd => Cards.trCmd
  | .trVaLo => Cards.trVaLo
  | .trVaHi => Cards.trVaHi
  | .trLen => Cards.trLen
  | .trAttr => Cards.trAttr
  | .trInfo => Cards.trInfo
  | .trRootLo => Cards.trRootLo
  | .trRootHi => Cards.trRootHi
  | .trCfg => Cards.trCfg
  | .pfCtl => Cards.pfCtl
  | .pfBaseLo => Cards.pfBaseLo
  | .pfBaseHi => Cards.pfBaseHi
  | .pfCursorLo => Cards.pfCursorLo
  | .pfCursorHi => Cards.pfCursorHi
  | .pfStat => Cards.pfStat
  | .tierStat => Cards.tierStat
  | .blmCmd => Cards.blmCmd
  | .blmSrcLo => Cards.blmSrcLo
  | .blmSrcHi => Cards.blmSrcHi
  | .blmDstLo => Cards.blmDstLo
  | .blmDstHi => Cards.blmDstHi
  | .blmDstlen => Cards.blmDstlen
  | .blmOut => Cards.blmOut
  | .blmErr => Cards.blmErr
  | .blmStat => Cards.blmStat
  | .hopStat => Cards.hopStat
  | .hopCmd => Cards.hopCmd
  | .ldrCmd => Cards.ldrCmd
  | .ldrArgLo => Cards.ldrArgLo
  | .ldrArgHi => Cards.ldrArgHi
  | .ldrJstat => Cards.ldrJstat
  | .ldrJprog => Cards.ldrJprog
  | .wtAct => Cards.wtAct
  | .tktQcfg => Cards.tktQcfg
  | .tktSqBaseLo => Cards.tktSqBaseLo
  | .tktSqBaseHi => Cards.tktSqBaseHi
  | .tktCqBaseLo => Cards.tktCqBaseLo
  | .tktCqBaseHi => Cards.tktCqBaseHi
  | .tktSqTail => Cards.tktSqTail
  | .tktCqHead => Cards.tktCqHead
  | .tktQptr => Cards.tktQptr
  | .tktQerr => Cards.tktQerr
  | .tktRailStat => Cards.tktRailStat
  | .partCmd => Cards.partCmd
  | .partStat => Cards.partStat
  | .partShape => Cards.partShape
  | .partDrip => Cards.partDrip
  | .partTickets => Cards.partTickets
  | .partKv => Cards.partKv
  | .partTier => Cards.partTier
  | .partStepev => Cards.partStepev
  | .partStepLo => Cards.partStepLo
  | .partStepHi => Cards.partStepHi
  | .partAmapLo => Cards.partAmapLo
  | .partAmapHi => Cards.partAmapHi
  | .partAmapCtl => Cards.partAmapCtl
  | .partIfStepsLo => Cards.partIfStepsLo
  | .partIfStepsHi => Cards.partIfStepsHi
  | .partIfStepNsLo => Cards.partIfStepNsLo
  | .partIfStepNsHi => Cards.partIfStepNsHi
  | .partIfForeignNsLo => Cards.partIfForeignNsLo
  | .partIfForeignNsHi => Cards.partIfForeignNsHi
  | .partIfHoldNsLo => Cards.partIfHoldNsLo
  | .partIfHoldNsHi => Cards.partIfHoldNsHi
  | .partIfPreemptNsLo => Cards.partIfPreemptNsLo
  | .partIfPreemptNsHi => Cards.partIfPreemptNsHi
  | .partIfThrottleNsLo => Cards.partIfThrottleNsLo
  | .partIfThrottleNsHi => Cards.partIfThrottleNsHi
  | .partIfLast => Cards.partIfLast
  | .partIfAvg => Cards.partIfAvg
  | .fmfPortStat => Cards.fmfPortStat
  | .fmfStat => Cards.fmfStat
  | .fmfErr => Cards.fmfErr
  | .fmfEntCmd => Cards.fmfEntCmd
  | .fmfEntData => Cards.fmfEntData
  | .fmfCqCmd => Cards.fmfCqCmd
  | .fmfCqStat => Cards.fmfCqStat
  | .fmfCqRingLo => Cards.fmfCqRingLo
  | .fmfCqRingHi => Cards.fmfCqRingHi
  | .fmfCqCfg => Cards.fmfCqCfg
  | .fmfCqHead => Cards.fmfCqHead
  | .errlogPtr => Cards.errlogPtr
  | .errlogCfg => Cards.errlogCfg
  | .errlogOvfFullLo => Cards.errlogOvfFullLo
  | .errlogOvfFullHi => Cards.errlogOvfFullHi
  | .errlogOvfRateLo => Cards.errlogOvfRateLo
  | .errlogOvfRateHi => Cards.errlogOvfRateHi
  | .fltStat => Cards.fltStat
  | .fltPimgLo => Cards.fltPimgLo
  | .fltPimgHi => Cards.fltPimgHi
  | .fltPimgN => Cards.fltPimgN
  | .pwrStat => Cards.pwrStat
  | .pwrCap => Cards.pwrCap
  | .pwrDom => Cards.pwrDom
  | .pwrEvt => Cards.pwrEvt
  | .thmStat => Cards.thmStat
  | .apxCmd => Cards.apxCmd
  | .apxStat => Cards.apxStat
  | .dbgCmd => Cards.dbgCmd
  | .dbgStat => Cards.dbgStat
  | .dbgNonce => Cards.dbgNonce
  | .dbgBuf => Cards.dbgBuf
  | .dictCmd => Cards.dictCmd
  | .dictStat => Cards.dictStat
  | .dictReq => Cards.dictReq
  | .dictRsp => Cards.dictRsp
  | .bootStat => Cards.bootStat
  | .sbCfg => Cards.sbCfg
  | .sbStat => Cards.sbStat
  | .regoLatch => Cards.regoLatch
  | .regoCmd => Cards.regoCmd

/-- Every card, in the order of the spec files. -/
def allCards : List Card :=
  List.flatten [
    [.identPart, .identPkgid, .fctCmd, .fctStat, .fctErr, .fctGccLo, .fctGccHi, .fctMcfg, .fctImemSrcLo, .fctImemSrcHi, .fctImemLen, .fctSb],
    [.fctAstat, .fctXcfg, .fctAccl, .fctArcst, .crfStat, .drpCmd, .drpStat, .drpErr, .drpRingLo, .drpRingHi, .drpRingCfg, .drpCfg],
    [.drpHead, .drpAstat, .drpArcst, .kvPgcmd, .kvPgarg0, .kvPgarg1, .kvPginfo, .kvLayout, .trCmd, .trVaLo, .trVaHi, .trLen],
    [.trAttr, .trInfo, .trRootLo, .trRootHi, .trCfg, .pfCtl, .pfBaseLo, .pfBaseHi, .pfCursorLo, .pfCursorHi, .pfStat, .tierStat],
    [.blmCmd, .blmSrcLo, .blmSrcHi, .blmDstLo, .blmDstHi, .blmDstlen, .blmOut, .blmErr, .blmStat, .hopStat, .hopCmd, .ldrCmd],
    [.ldrArgLo, .ldrArgHi, .ldrJstat, .ldrJprog, .wtAct, .tktQcfg, .tktSqBaseLo, .tktSqBaseHi, .tktCqBaseLo, .tktCqBaseHi, .tktSqTail, .tktCqHead],
    [.tktQptr, .tktQerr, .tktRailStat, .partCmd, .partStat, .partShape, .partDrip, .partTickets, .partKv, .partTier, .partStepev, .partStepLo],
    [.partStepHi, .partAmapLo, .partAmapHi, .partAmapCtl, .partIfStepsLo, .partIfStepsHi, .partIfStepNsLo, .partIfStepNsHi, .partIfForeignNsLo, .partIfForeignNsHi, .partIfHoldNsLo, .partIfHoldNsHi],
    [.partIfPreemptNsLo, .partIfPreemptNsHi, .partIfThrottleNsLo, .partIfThrottleNsHi, .partIfLast, .partIfAvg, .fmfPortStat, .fmfStat, .fmfErr, .fmfEntCmd, .fmfEntData, .fmfCqCmd],
    [.fmfCqStat, .fmfCqRingLo, .fmfCqRingHi, .fmfCqCfg, .fmfCqHead, .errlogPtr, .errlogCfg, .errlogOvfFullLo, .errlogOvfFullHi, .errlogOvfRateLo, .errlogOvfRateHi, .fltStat],
    [.fltPimgLo, .fltPimgHi, .fltPimgN, .pwrStat, .pwrCap, .pwrDom, .pwrEvt, .thmStat, .apxCmd, .apxStat, .dbgCmd, .dbgStat],
    [.dbgNonce, .dbgBuf, .dictCmd, .dictStat, .dictReq, .dictRsp, .bootStat, .sbCfg, .sbStat, .regoLatch, .regoCmd]]

/-- A card's number in that order. -/
def cardIdx : Card → Nat
  | .identPart => 0
  | .identPkgid => 1
  | .fctCmd => 2
  | .fctStat => 3
  | .fctErr => 4
  | .fctGccLo => 5
  | .fctGccHi => 6
  | .fctMcfg => 7
  | .fctImemSrcLo => 8
  | .fctImemSrcHi => 9
  | .fctImemLen => 10
  | .fctSb => 11
  | .fctAstat => 12
  | .fctXcfg => 13
  | .fctAccl => 14
  | .fctArcst => 15
  | .crfStat => 16
  | .drpCmd => 17
  | .drpStat => 18
  | .drpErr => 19
  | .drpRingLo => 20
  | .drpRingHi => 21
  | .drpRingCfg => 22
  | .drpCfg => 23
  | .drpHead => 24
  | .drpAstat => 25
  | .drpArcst => 26
  | .kvPgcmd => 27
  | .kvPgarg0 => 28
  | .kvPgarg1 => 29
  | .kvPginfo => 30
  | .kvLayout => 31
  | .trCmd => 32
  | .trVaLo => 33
  | .trVaHi => 34
  | .trLen => 35
  | .trAttr => 36
  | .trInfo => 37
  | .trRootLo => 38
  | .trRootHi => 39
  | .trCfg => 40
  | .pfCtl => 41
  | .pfBaseLo => 42
  | .pfBaseHi => 43
  | .pfCursorLo => 44
  | .pfCursorHi => 45
  | .pfStat => 46
  | .tierStat => 47
  | .blmCmd => 48
  | .blmSrcLo => 49
  | .blmSrcHi => 50
  | .blmDstLo => 51
  | .blmDstHi => 52
  | .blmDstlen => 53
  | .blmOut => 54
  | .blmErr => 55
  | .blmStat => 56
  | .hopStat => 57
  | .hopCmd => 58
  | .ldrCmd => 59
  | .ldrArgLo => 60
  | .ldrArgHi => 61
  | .ldrJstat => 62
  | .ldrJprog => 63
  | .wtAct => 64
  | .tktQcfg => 65
  | .tktSqBaseLo => 66
  | .tktSqBaseHi => 67
  | .tktCqBaseLo => 68
  | .tktCqBaseHi => 69
  | .tktSqTail => 70
  | .tktCqHead => 71
  | .tktQptr => 72
  | .tktQerr => 73
  | .tktRailStat => 74
  | .partCmd => 75
  | .partStat => 76
  | .partShape => 77
  | .partDrip => 78
  | .partTickets => 79
  | .partKv => 80
  | .partTier => 81
  | .partStepev => 82
  | .partStepLo => 83
  | .partStepHi => 84
  | .partAmapLo => 85
  | .partAmapHi => 86
  | .partAmapCtl => 87
  | .partIfStepsLo => 88
  | .partIfStepsHi => 89
  | .partIfStepNsLo => 90
  | .partIfStepNsHi => 91
  | .partIfForeignNsLo => 92
  | .partIfForeignNsHi => 93
  | .partIfHoldNsLo => 94
  | .partIfHoldNsHi => 95
  | .partIfPreemptNsLo => 96
  | .partIfPreemptNsHi => 97
  | .partIfThrottleNsLo => 98
  | .partIfThrottleNsHi => 99
  | .partIfLast => 100
  | .partIfAvg => 101
  | .fmfPortStat => 102
  | .fmfStat => 103
  | .fmfErr => 104
  | .fmfEntCmd => 105
  | .fmfEntData => 106
  | .fmfCqCmd => 107
  | .fmfCqStat => 108
  | .fmfCqRingLo => 109
  | .fmfCqRingHi => 110
  | .fmfCqCfg => 111
  | .fmfCqHead => 112
  | .errlogPtr => 113
  | .errlogCfg => 114
  | .errlogOvfFullLo => 115
  | .errlogOvfFullHi => 116
  | .errlogOvfRateLo => 117
  | .errlogOvfRateHi => 118
  | .fltStat => 119
  | .fltPimgLo => 120
  | .fltPimgHi => 121
  | .fltPimgN => 122
  | .pwrStat => 123
  | .pwrCap => 124
  | .pwrDom => 125
  | .pwrEvt => 126
  | .thmStat => 127
  | .apxCmd => 128
  | .apxStat => 129
  | .dbgCmd => 130
  | .dbgStat => 131
  | .dbgNonce => 132
  | .dbgBuf => 133
  | .dictCmd => 134
  | .dictStat => 135
  | .dictReq => 136
  | .dictRsp => 137
  | .bootStat => 138
  | .sbCfg => 139
  | .sbStat => 140
  | .regoLatch => 141
  | .regoCmd => 142

/-- The card of a number. -/
def cardOf (k : Nat) : Card := allCards.getD k .identPart

/-- A word made of fields. -/
def packFields : List FieldInfo → Nat
  | [] => 0
  | f :: t => putBits (packFields t) f.hi f.lo f.rst

/-- The value the card's Reset column gives (spec/00 R7). -/
def cardReset (c : Card) : Word := BitVec.ofNat 32 (packFields (cardInfo c).fields)

/-- The pairs of registers, low then high (spec/01 R26); every one is marked 64-bit atomic. -/
def regPairs : List (Card × Card) :=
  List.flatten [
    [(.fctGccLo, .fctGccHi), (.fctImemSrcLo, .fctImemSrcHi), (.drpRingLo, .drpRingHi), (.trVaLo, .trVaHi), (.trRootLo, .trRootHi)],
    [(.pfBaseLo, .pfBaseHi), (.pfCursorLo, .pfCursorHi), (.blmSrcLo, .blmSrcHi), (.blmDstLo, .blmDstHi), (.ldrArgLo, .ldrArgHi)],
    [(.tktSqBaseLo, .tktSqBaseHi), (.tktCqBaseLo, .tktCqBaseHi), (.partStepLo, .partStepHi), (.partAmapLo, .partAmapHi), (.partIfStepsLo, .partIfStepsHi)],
    [(.partIfStepNsLo, .partIfStepNsHi), (.partIfForeignNsLo, .partIfForeignNsHi), (.partIfHoldNsLo, .partIfHoldNsHi), (.partIfPreemptNsLo, .partIfPreemptNsHi), (.partIfThrottleNsLo, .partIfThrottleNsHi)],
    [(.partIfLast, .partIfAvg), (.fmfCqRingLo, .fmfCqRingHi), (.errlogOvfFullLo, .errlogOvfFullHi), (.errlogOvfRateLo, .errlogOvfRateHi), (.fltPimgLo, .fltPimgHi)]]

namespace R

def identPart_PART : Fld := ⟨.identPart, 31, 16⟩
def identPart_VARIANT : Fld := ⟨.identPart, 15, 12⟩
def identPart_BASE_STEP : Fld := ⟨.identPart, 11, 8⟩
def identPart_METAL_STEP : Fld := ⟨.identPart, 7, 4⟩
def identPkgid_VALID : Fld := ⟨.identPkgid, 31, 31⟩
def identPkgid_PKG_ID : Fld := ⟨.identPkgid, 14, 0⟩
def fctCmd_CMD : Fld := ⟨.fctCmd, 31, 28⟩
def fctCmd_LAST : Fld := ⟨.fctCmd, 27, 24⟩
def fctCmd_STATUS : Fld := ⟨.fctCmd, 23, 20⟩
def fctCmd_ENTRY : Fld := ⟨.fctCmd, 12, 0⟩
def fctStat_STATE : Fld := ⟨.fctStat, 31, 30⟩
def fctStat_DETACHED : Fld := ⟨.fctStat, 29, 29⟩
def fctStat_ARC_BOUNDS : Fld := ⟨.fctStat, 28, 28⟩
def fctStat_IMEM_BUSY : Fld := ⟨.fctStat, 27, 27⟩
def fctStat_POUR_OUT : Fld := ⟨.fctStat, 26, 22⟩
def fctStat_PC : Fld := ⟨.fctStat, 12, 0⟩
def fctErr_HOSTW : Fld := ⟨.fctErr, 11, 11⟩
def fctErr_CFG : Fld := ⟨.fctErr, 10, 10⟩
def fctErr_SP_UC : Fld := ⟨.fctErr, 9, 9⟩
def fctErr_IMEM_UC : Fld := ⟨.fctErr, 8, 8⟩
def fctErr_ILLEGAL : Fld := ⟨.fctErr, 7, 7⟩
def fctErr_ACCESS : Fld := ⟨.fctErr, 6, 6⟩
def fctErr_DESC : Fld := ⟨.fctErr, 5, 5⟩
def fctErr_POUR_OVF : Fld := ⟨.fctErr, 4, 4⟩
def fctErr_SEAM_OVF : Fld := ⟨.fctErr, 3, 3⟩
def fctErr_LINK : Fld := ⟨.fctErr, 2, 2⟩
def fctErr_WAIT_ERR : Fld := ⟨.fctErr, 1, 1⟩
def fctErr_SCHED : Fld := ⟨.fctErr, 0, 0⟩
def fctGccLo_GCC : Fld := ⟨.fctGccLo, 31, 0⟩
def fctGccHi_GCC : Fld := ⟨.fctGccHi, 31, 0⟩
def fctMcfg_PROMO : Fld := ⟨.fctMcfg, 8, 0⟩
def fctImemSrcLo_FGA : Fld := ⟨.fctImemSrcLo, 31, 0⟩
def fctImemSrcHi_FGA : Fld := ⟨.fctImemSrcHi, 31, 0⟩
def fctImemLen_COUNT : Fld := ⟨.fctImemLen, 13, 0⟩
def fctSb_ERR : Fld := ⟨.fctSb, 31, 31⟩
def fctSb_SAT : Fld := ⟨.fctSb, 30, 30⟩
def fctSb_COUNT : Fld := ⟨.fctSb, 23, 0⟩
def fctAstat_INT_SAT : Fld := ⟨.fctAstat, 4, 4⟩
def fctAstat_FP8_SAT : Fld := ⟨.fctAstat, 3, 3⟩
def fctAstat_INF_OUT : Fld := ⟨.fctAstat, 2, 2⟩
def fctAstat_NAN_OUT : Fld := ⟨.fctAstat, 1, 1⟩
def fctAstat_SPECIAL_IN : Fld := ⟨.fctAstat, 0, 0⟩
def fctXcfg_XBLK : Fld := ⟨.fctXcfg, 5, 0⟩
def fctAccl_INTOK : Fld := ⟨.fctAccl, 7, 4⟩
def fctAccl_REFL : Fld := ⟨.fctAccl, 3, 0⟩
def fctArcst_RELOADS : Fld := ⟨.fctArcst, 11, 8⟩
def fctArcst_TBL_FAULT : Fld := ⟨.fctArcst, 7, 7⟩
def fctArcst_BOUNDS_USED : Fld := ⟨.fctArcst, 6, 6⟩
def fctArcst_CTRL_BAD : Fld := ⟨.fctArcst, 5, 5⟩
def fctArcst_ROW_INF : Fld := ⟨.fctArcst, 4, 4⟩
def fctArcst_ROW_FULLMASK : Fld := ⟨.fctArcst, 3, 3⟩
def fctArcst_ROW_NAN : Fld := ⟨.fctArcst, 2, 2⟩
def fctArcst_ELEM_SPECIAL : Fld := ⟨.fctArcst, 1, 1⟩
def fctArcst_TBL_CORR : Fld := ⟨.fctArcst, 0, 0⟩
def crfStat_PRESENT : Fld := ⟨.crfStat, 31, 31⟩
def crfStat_SELF_REFRESH : Fld := ⟨.crfStat, 30, 30⟩
def crfStat_TEMP : Fld := ⟨.crfStat, 23, 16⟩
def drpCmd_CMD : Fld := ⟨.drpCmd, 31, 28⟩
def drpCmd_LAST : Fld := ⟨.drpCmd, 27, 24⟩
def drpCmd_STATUS : Fld := ⟨.drpCmd, 23, 20⟩
def drpStat_STATE : Fld := ⟨.drpStat, 31, 30⟩
def drpStat_ARC_BOUNDS : Fld := ⟨.drpStat, 29, 29⟩
def drpStat_LANE_BUSY : Fld := ⟨.drpStat, 28, 28⟩
def drpStat_XFER_BUSY : Fld := ⟨.drpStat, 27, 27⟩
def drpStat_ARC_BUSY : Fld := ⟨.drpStat, 26, 26⟩
def drpErr_HOSTW : Fld := ⟨.drpErr, 5, 5⟩
def drpErr_REMOTE : Fld := ⟨.drpErr, 4, 4⟩
def drpErr_BLOOM : Fld := ⟨.drpErr, 3, 3⟩
def drpErr_SRAM_UC : Fld := ⟨.drpErr, 2, 2⟩
def drpErr_ECC_UC : Fld := ⟨.drpErr, 1, 1⟩
def drpErr_DESC : Fld := ⟨.drpErr, 0, 0⟩
def drpRingLo_FGA : Fld := ⟨.drpRingLo, 31, 0⟩
def drpRingHi_FGA : Fld := ⟨.drpRingHi, 31, 0⟩
def drpRingCfg_SIZE : Fld := ⟨.drpRingCfg, 3, 0⟩
def drpCfg_PROMO : Fld := ⟨.drpCfg, 8, 0⟩
def drpHead_SEQ : Fld := ⟨.drpHead, 31, 16⟩
def drpHead_SLOT : Fld := ⟨.drpHead, 11, 0⟩
def drpAstat_INT_SAT : Fld := ⟨.drpAstat, 4, 4⟩
def drpAstat_FP8_SAT : Fld := ⟨.drpAstat, 3, 3⟩
def drpAstat_INF_OUT : Fld := ⟨.drpAstat, 2, 2⟩
def drpAstat_NAN_OUT : Fld := ⟨.drpAstat, 1, 1⟩
def drpAstat_SPECIAL_IN : Fld := ⟨.drpAstat, 0, 0⟩
def drpArcst_RELOADS : Fld := ⟨.drpArcst, 11, 8⟩
def drpArcst_TBL_FAULT : Fld := ⟨.drpArcst, 7, 7⟩
def drpArcst_BOUNDS_USED : Fld := ⟨.drpArcst, 6, 6⟩
def drpArcst_CTRL_BAD : Fld := ⟨.drpArcst, 5, 5⟩
def drpArcst_ROW_INF : Fld := ⟨.drpArcst, 4, 4⟩
def drpArcst_ROW_FULLMASK : Fld := ⟨.drpArcst, 3, 3⟩
def drpArcst_ROW_NAN : Fld := ⟨.drpArcst, 2, 2⟩
def drpArcst_ELEM_SPECIAL : Fld := ⟨.drpArcst, 1, 1⟩
def drpArcst_TBL_CORR : Fld := ⟨.drpArcst, 0, 0⟩
def kvPgcmd_CMD : Fld := ⟨.kvPgcmd, 31, 28⟩
def kvPgcmd_LAST : Fld := ⟨.kvPgcmd, 27, 24⟩
def kvPgcmd_STATUS : Fld := ⟨.kvPgcmd, 23, 20⟩
def kvPgcmd_CODE : Fld := ⟨.kvPgcmd, 19, 16⟩
def kvPgarg0_HANDLE : Fld := ⟨.kvPgarg0, 31, 0⟩
def kvPgarg1_LAYER : Fld := ⟨.kvPgarg1, 31, 24⟩
def kvPgarg1_POS : Fld := ⟨.kvPgarg1, 17, 0⟩
def kvPginfo_MAPPED : Fld := ⟨.kvPginfo, 31, 31⟩
def kvPginfo_SHARED : Fld := ⟨.kvPginfo, 30, 30⟩
def kvPginfo_SIZE : Fld := ⟨.kvPginfo, 29, 26⟩
def kvPginfo_ENGINE : Fld := ⟨.kvPginfo, 25, 21⟩
def kvLayout_EN : Fld := ⟨.kvLayout, 31, 31⟩
def kvLayout_ESZ : Fld := ⟨.kvLayout, 30, 28⟩
def trCmd_CMD : Fld := ⟨.trCmd, 31, 28⟩
def trCmd_LAST : Fld := ⟨.trCmd, 27, 24⟩
def trCmd_STATUS : Fld := ⟨.trCmd, 23, 20⟩
def trCmd_CODE : Fld := ⟨.trCmd, 19, 16⟩
def trVaLo_FGA : Fld := ⟨.trVaLo, 31, 0⟩
def trVaHi_FGA : Fld := ⟨.trVaHi, 31, 0⟩
def trLen_PAGES : Fld := ⟨.trLen, 31, 0⟩
def trAttr_PSIZE : Fld := ⟨.trAttr, 31, 30⟩
def trAttr_TIER : Fld := ⟨.trAttr, 29, 28⟩
def trAttr_HINT : Fld := ⟨.trAttr, 27, 25⟩
def trAttr_RO : Fld := ⟨.trAttr, 24, 24⟩
def trInfo_MAPPED : Fld := ⟨.trInfo, 31, 31⟩
def trInfo_TIER : Fld := ⟨.trInfo, 30, 29⟩
def trInfo_PSIZE : Fld := ⟨.trInfo, 28, 27⟩
def trInfo_RO : Fld := ⟨.trInfo, 26, 26⟩
def trInfo_CMP : Fld := ⟨.trInfo, 25, 25⟩
def trInfo_D : Fld := ⟨.trInfo, 24, 24⟩
def trInfo_MIG : Fld := ⟨.trInfo, 23, 23⟩
def trInfo_HINT : Fld := ⟨.trInfo, 22, 20⟩
def trInfo_LOWER : Fld := ⟨.trInfo, 19, 19⟩
def trRootLo_FGA : Fld := ⟨.trRootLo, 31, 0⟩
def trRootHi_FGA : Fld := ⟨.trRootHi, 31, 0⟩
def trCfg_HOLD : Fld := ⟨.trCfg, 31, 31⟩
def trCfg_LOWAT : Fld := ⟨.trCfg, 23, 0⟩
def pfCtl_EN : Fld := ⟨.pfCtl, 31, 31⟩
def pfCtl_NENT : Fld := ⟨.pfCtl, 12, 0⟩
def pfBaseLo_FGA : Fld := ⟨.pfBaseLo, 31, 0⟩
def pfBaseHi_FGA : Fld := ⟨.pfBaseHi, 31, 0⟩
def pfCursorLo_FGA : Fld := ⟨.pfCursorLo, 31, 0⟩
def pfCursorHi_FGA : Fld := ⟨.pfCursorHi, 31, 0⟩
def pfStat_NEXT : Fld := ⟨.pfStat, 31, 19⟩
def pfStat_ACTIVE : Fld := ⟨.pfStat, 18, 16⟩
def pfStat_ERRS : Fld := ⟨.pfStat, 15, 0⟩
def tierStat_URN_OK : Fld := ⟨.tierStat, 31, 31⟩
def tierStat_HOPPER_OK : Fld := ⟨.tierStat, 30, 30⟩
def blmCmd_CMD : Fld := ⟨.blmCmd, 31, 28⟩
def blmCmd_LAST : Fld := ⟨.blmCmd, 27, 24⟩
def blmCmd_STATUS : Fld := ⟨.blmCmd, 23, 20⟩
def blmCmd_REASON : Fld := ⟨.blmCmd, 19, 16⟩
def blmSrcLo_FGA : Fld := ⟨.blmSrcLo, 31, 0⟩
def blmSrcHi_FGA : Fld := ⟨.blmSrcHi, 31, 0⟩
def blmDstLo_FGA : Fld := ⟨.blmDstLo, 31, 0⟩
def blmDstHi_FGA : Fld := ⟨.blmDstHi, 31, 0⟩
def blmDstlen_BYTES : Fld := ⟨.blmDstlen, 31, 0⟩
def blmOut_OUTLEN : Fld := ⟨.blmOut, 31, 0⟩
def blmErr_REASON : Fld := ⟨.blmErr, 11, 1⟩
def blmStat_BUSY : Fld := ⟨.blmStat, 7, 0⟩
def hopStat_STATE : Fld := ⟨.hopStat, 31, 29⟩
def hopStat_REASON : Fld := ⟨.hopStat, 28, 25⟩
def hopStat_CH_OK : Fld := ⟨.hopStat, 15, 0⟩
def hopCmd_CMD : Fld := ⟨.hopCmd, 31, 28⟩
def hopCmd_LAST : Fld := ⟨.hopCmd, 27, 24⟩
def hopCmd_STATUS : Fld := ⟨.hopCmd, 23, 20⟩
def ldrCmd_CMD : Fld := ⟨.ldrCmd, 31, 28⟩
def ldrCmd_LAST : Fld := ⟨.ldrCmd, 27, 24⟩
def ldrCmd_STATUS : Fld := ⟨.ldrCmd, 23, 20⟩
def ldrCmd_CODE : Fld := ⟨.ldrCmd, 19, 16⟩
def ldrCmd_JOB : Fld := ⟨.ldrCmd, 15, 14⟩
def ldrCmd_PART : Fld := ⟨.ldrCmd, 11, 8⟩
def ldrCmd_GEN : Fld := ⟨.ldrCmd, 7, 0⟩
def ldrArgLo_ADDR : Fld := ⟨.ldrArgLo, 31, 0⟩
def ldrArgHi_ADDR : Fld := ⟨.ldrArgHi, 31, 0⟩
def ldrJstat_STATE : Fld := ⟨.ldrJstat, 31, 29⟩
def ldrJstat_CODE : Fld := ⟨.ldrJstat, 28, 25⟩
def ldrJprog_NEXT : Fld := ⟨.ldrJprog, 31, 0⟩
def wtAct_ACTIVE : Fld := ⟨.wtAct, 31, 24⟩
def wtAct_DRAINING : Fld := ⟨.wtAct, 23, 16⟩
def wtAct_STANDBY : Fld := ⟨.wtAct, 15, 8⟩
def wtAct_LOADING : Fld := ⟨.wtAct, 7, 0⟩
def tktQcfg_EN : Fld := ⟨.tktQcfg, 31, 31⟩
def tktQcfg_SQ_SIZE : Fld := ⟨.tktQcfg, 27, 24⟩
def tktQcfg_CQ_SIZE : Fld := ⟨.tktQcfg, 23, 20⟩
def tktQcfg_MOD : Fld := ⟨.tktQcfg, 15, 0⟩
def tktSqBaseLo_ADDR : Fld := ⟨.tktSqBaseLo, 31, 0⟩
def tktSqBaseHi_ADDR : Fld := ⟨.tktSqBaseHi, 31, 0⟩
def tktCqBaseLo_ADDR : Fld := ⟨.tktCqBaseLo, 31, 0⟩
def tktCqBaseHi_ADDR : Fld := ⟨.tktCqBaseHi, 31, 0⟩
def tktSqTail_TAIL : Fld := ⟨.tktSqTail, 15, 0⟩
def tktCqHead_HEAD : Fld := ⟨.tktCqHead, 15, 0⟩
def tktQptr_CQ_TAIL : Fld := ⟨.tktQptr, 31, 16⟩
def tktQptr_SQ_HEAD : Fld := ⟨.tktQptr, 15, 0⟩
def tktQerr_DMA : Fld := ⟨.tktQerr, 3, 3⟩
def tktQerr_CFG : Fld := ⟨.tktQerr, 2, 2⟩
def tktQerr_CQ_OVR : Fld := ⟨.tktQerr, 1, 1⟩
def tktQerr_SQ_OVR : Fld := ⟨.tktQerr, 0, 0⟩
def tktRailStat_LIVE : Fld := ⟨.tktRailStat, 28, 16⟩
def tktRailStat_QUEUED : Fld := ⟨.tktRailStat, 12, 0⟩
def partCmd_CMD : Fld := ⟨.partCmd, 31, 28⟩
def partCmd_LAST : Fld := ⟨.partCmd, 27, 24⟩
def partCmd_STATUS : Fld := ⟨.partCmd, 23, 20⟩
def partCmd_CODE : Fld := ⟨.partCmd, 19, 16⟩
def partStat_STATE : Fld := ⟨.partStat, 31, 29⟩
def partStat_HALT : Fld := ⟨.partStat, 28, 28⟩
def partStat_HALTFCT : Fld := ⟨.partStat, 19, 12⟩
def partStat_FRAMES : Fld := ⟨.partStat, 11, 0⟩
def partShape_ROW0 : Fld := ⟨.partShape, 15, 12⟩
def partShape_NROWS : Fld := ⟨.partShape, 11, 8⟩
def partShape_COL0 : Fld := ⟨.partShape, 7, 4⟩
def partShape_NCOLS : Fld := ⟨.partShape, 3, 0⟩
def partDrip_MASK : Fld := ⟨.partDrip, 31, 0⟩
def partTickets_TBASE : Fld := ⟨.partTickets, 27, 16⟩
def partTickets_TCOUNT : Fld := ⟨.partTickets, 12, 0⟩
def partKv_FRAMES : Fld := ⟨.partKv, 23, 0⟩
def partTier_FRAMES : Fld := ⟨.partTier, 23, 0⟩
def partStepev_CFACET : Fld := ⟨.partStepev, 15, 8⟩
def partStepev_CTR : Fld := ⟨.partStepev, 5, 0⟩
def partStepLo_FGA : Fld := ⟨.partStepLo, 31, 0⟩
def partStepHi_FGA : Fld := ⟨.partStepHi, 31, 0⟩
def partAmapLo_FGA : Fld := ⟨.partAmapLo, 31, 0⟩
def partAmapHi_FGA : Fld := ⟨.partAmapHi, 31, 0⟩
def partAmapCtl_EN : Fld := ⟨.partAmapCtl, 31, 31⟩
def partAmapCtl_W : Fld := ⟨.partAmapCtl, 30, 30⟩
def partAmapCtl_R : Fld := ⟨.partAmapCtl, 29, 29⟩
def partAmapCtl_LEN : Fld := ⟨.partAmapCtl, 23, 0⟩
def partIfStepsLo_STEPS : Fld := ⟨.partIfStepsLo, 31, 0⟩
def partIfStepsHi_STEPS : Fld := ⟨.partIfStepsHi, 31, 0⟩
def partIfStepNsLo_STEP_NS : Fld := ⟨.partIfStepNsLo, 31, 0⟩
def partIfStepNsHi_STEP_NS : Fld := ⟨.partIfStepNsHi, 31, 0⟩
def partIfForeignNsLo_FOREIGN_NS : Fld := ⟨.partIfForeignNsLo, 31, 0⟩
def partIfForeignNsHi_FOREIGN_NS : Fld := ⟨.partIfForeignNsHi, 31, 0⟩
def partIfHoldNsLo_HOLD_NS : Fld := ⟨.partIfHoldNsLo, 31, 0⟩
def partIfHoldNsHi_HOLD_NS : Fld := ⟨.partIfHoldNsHi, 31, 0⟩
def partIfPreemptNsLo_PREEMPT_NS : Fld := ⟨.partIfPreemptNsLo, 31, 0⟩
def partIfPreemptNsHi_PREEMPT_NS : Fld := ⟨.partIfPreemptNsHi, 31, 0⟩
def partIfThrottleNsLo_THROTTLE_NS : Fld := ⟨.partIfThrottleNsLo, 31, 0⟩
def partIfThrottleNsHi_THROTTLE_NS : Fld := ⟨.partIfThrottleNsHi, 31, 0⟩
def partIfLast_LAST : Fld := ⟨.partIfLast, 31, 0⟩
def partIfAvg_AVG : Fld := ⟨.partIfAvg, 31, 0⟩
def fmfPortStat_STATE : Fld := ⟨.fmfPortStat, 31, 29⟩
def fmfPortStat_MODE : Fld := ⟨.fmfPortStat, 28, 27⟩
def fmfPortStat_DOWN : Fld := ⟨.fmfPortStat, 26, 26⟩
def fmfPortStat_MACSEC : Fld := ⟨.fmfPortStat, 25, 25⟩
def fmfPortStat_PLANE : Fld := ⟨.fmfPortStat, 24, 20⟩
def fmfPortStat_LEVEL : Fld := ⟨.fmfPortStat, 19, 18⟩
def fmfPortStat_OUTST : Fld := ⟨.fmfPortStat, 12, 0⟩
def fmfStat_TLOCK : Fld := ⟨.fmfStat, 31, 31⟩
def fmfStat_CLAIM_LOST : Fld := ⟨.fmfStat, 30, 30⟩
def fmfStat_OUTST : Fld := ⟨.fmfStat, 16, 0⟩
def fmfErr_HOSTW : Fld := ⟨.fmfErr, 4, 4⟩
def fmfErr_DESC : Fld := ⟨.fmfErr, 3, 3⟩
def fmfErr_REFUSED : Fld := ⟨.fmfErr, 2, 2⟩
def fmfErr_POISON : Fld := ⟨.fmfErr, 1, 1⟩
def fmfErr_MACSEC : Fld := ⟨.fmfErr, 0, 0⟩
def fmfEntCmd_CMD : Fld := ⟨.fmfEntCmd, 31, 28⟩
def fmfEntCmd_LAST : Fld := ⟨.fmfEntCmd, 27, 24⟩
def fmfEntCmd_STATUS : Fld := ⟨.fmfEntCmd, 23, 20⟩
def fmfEntCmd_CODE : Fld := ⟨.fmfEntCmd, 19, 16⟩
def fmfEntCmd_INDEX : Fld := ⟨.fmfEntCmd, 11, 0⟩
def fmfEntData_DATA : Fld := ⟨.fmfEntData, 31, 0⟩
def fmfCqCmd_CMD : Fld := ⟨.fmfCqCmd, 31, 28⟩
def fmfCqCmd_LAST : Fld := ⟨.fmfCqCmd, 27, 24⟩
def fmfCqCmd_STATUS : Fld := ⟨.fmfCqCmd, 23, 20⟩
def fmfCqStat_STATE : Fld := ⟨.fmfCqStat, 31, 30⟩
def fmfCqStat_RUNNING : Fld := ⟨.fmfCqStat, 29, 26⟩
def fmfCqRingLo_FGA : Fld := ⟨.fmfCqRingLo, 31, 0⟩
def fmfCqRingHi_FGA : Fld := ⟨.fmfCqRingHi, 31, 0⟩
def fmfCqCfg_SIZE : Fld := ⟨.fmfCqCfg, 3, 0⟩
def fmfCqHead_SEQ : Fld := ⟨.fmfCqHead, 31, 16⟩
def fmfCqHead_SLOT : Fld := ⟨.fmfCqHead, 11, 0⟩
def errlogPtr_RD : Fld := ⟨.errlogPtr, 31, 16⟩
def errlogPtr_WR : Fld := ⟨.errlogPtr, 15, 0⟩
def errlogCfg_IE : Fld := ⟨.errlogCfg, 31, 31⟩
def errlogOvfFullLo_COUNT : Fld := ⟨.errlogOvfFullLo, 31, 0⟩
def errlogOvfFullHi_COUNT : Fld := ⟨.errlogOvfFullHi, 31, 0⟩
def errlogOvfRateLo_COUNT : Fld := ⟨.errlogOvfRateLo, 31, 0⟩
def errlogOvfRateHi_COUNT : Fld := ⟨.errlogOvfRateHi, 31, 0⟩
def fltStat_STATE : Fld := ⟨.fltStat, 31, 29⟩
def fltStat_TORN : Fld := ⟨.fltStat, 15, 0⟩
def fltPimgLo_FGA : Fld := ⟨.fltPimgLo, 31, 0⟩
def fltPimgHi_FGA : Fld := ⟨.fltPimgHi, 31, 0⟩
def fltPimgN_N : Fld := ⟨.fltPimgN, 8, 0⟩
def pwrStat_ASTATE : Fld := ⟨.pwrStat, 31, 30⟩
def pwrStat_SSTATE : Fld := ⟨.pwrStat, 29, 28⟩
def pwrStat_PRESET : Fld := ⟨.pwrStat, 27, 26⟩
def pwrStat_FIXED : Fld := ⟨.pwrStat, 25, 25⟩
def pwrStat_BOOST : Fld := ⟨.pwrStat, 24, 24⟩
def pwrStat_FORCED : Fld := ⟨.pwrStat, 23, 20⟩
def pwrStat_ALERT : Fld := ⟨.pwrStat, 19, 14⟩
def pwrStat_BRAKE : Fld := ⟨.pwrStat, 13, 13⟩
def pwrStat_COOL : Fld := ⟨.pwrStat, 12, 12⟩
def pwrStat_LEASE : Fld := ⟨.pwrStat, 11, 11⟩
def pwrStat_TELEM_LOST : Fld := ⟨.pwrStat, 10, 10⟩
def pwrCap_SRC : Fld := ⟨.pwrCap, 31, 28⟩
def pwrCap_CAP : Fld := ⟨.pwrCap, 11, 0⟩
def pwrDom_AVG : Fld := ⟨.pwrDom, 31, 16⟩
def pwrDom_CAPW : Fld := ⟨.pwrDom, 15, 0⟩
def pwrEvt_AGE : Fld := ⟨.pwrEvt, 8, 8⟩
def pwrEvt_INRUSH : Fld := ⟨.pwrEvt, 7, 7⟩
def pwrEvt_OVERCAP : Fld := ⟨.pwrEvt, 6, 6⟩
def pwrEvt_THERM : Fld := ⟨.pwrEvt, 5, 5⟩
def pwrEvt_CALIB : Fld := ⟨.pwrEvt, 4, 4⟩
def pwrEvt_TELEM : Fld := ⟨.pwrEvt, 3, 3⟩
def pwrEvt_LEASE_EXP : Fld := ⟨.pwrEvt, 2, 2⟩
def pwrEvt_FACILITY : Fld := ⟨.pwrEvt, 1, 1⟩
def pwrEvt_ALERT : Fld := ⟨.pwrEvt, 0, 0⟩
def thmStat_LAT0 : Fld := ⟨.thmStat, 31, 24⟩
def thmStat_LAT1 : Fld := ⟨.thmStat, 23, 16⟩
def thmStat_VTX : Fld := ⟨.thmStat, 15, 8⟩
def thmStat_CRF : Fld := ⟨.thmStat, 7, 0⟩
def apxCmd_CMD : Fld := ⟨.apxCmd, 31, 28⟩
def apxCmd_LAST : Fld := ⟨.apxCmd, 27, 24⟩
def apxCmd_STATUS : Fld := ⟨.apxCmd, 23, 20⟩
def apxCmd_LEN : Fld := ⟨.apxCmd, 12, 0⟩
def apxStat_READY : Fld := ⟨.apxStat, 31, 31⟩
def apxStat_LIFE : Fld := ⟨.apxStat, 30, 29⟩
def apxStat_DBG : Fld := ⟨.apxStat, 28, 27⟩
def apxStat_RLEN : Fld := ⟨.apxStat, 12, 0⟩
def dbgCmd_CMD : Fld := ⟨.dbgCmd, 31, 28⟩
def dbgCmd_LAST : Fld := ⟨.dbgCmd, 27, 24⟩
def dbgCmd_STATUS : Fld := ⟨.dbgCmd, 23, 20⟩
def dbgCmd_CODE : Fld := ⟨.dbgCmd, 19, 16⟩
def dbgStat_LEVEL : Fld := ⟨.dbgStat, 31, 30⟩
def dbgStat_LIFE : Fld := ⟨.dbgStat, 29, 28⟩
def dbgStat_ZEROING : Fld := ⟨.dbgStat, 27, 27⟩
def dbgStat_PMASK : Fld := ⟨.dbgStat, 15, 0⟩
def dbgNonce_NONCE : Fld := ⟨.dbgNonce, 31, 0⟩
def dbgBuf_DATA : Fld := ⟨.dbgBuf, 31, 0⟩
def dictCmd_CMD : Fld := ⟨.dictCmd, 31, 28⟩
def dictCmd_LAST : Fld := ⟨.dictCmd, 27, 24⟩
def dictCmd_STATUS : Fld := ⟨.dictCmd, 23, 20⟩
def dictCmd_LEN : Fld := ⟨.dictCmd, 10, 0⟩
def dictStat_READY : Fld := ⟨.dictStat, 31, 31⟩
def dictStat_EVTPEND : Fld := ⟨.dictStat, 30, 30⟩
def dictStat_RLEN : Fld := ⟨.dictStat, 10, 0⟩
def dictReq_DATA : Fld := ⟨.dictReq, 31, 0⟩
def dictRsp_DATA : Fld := ⟨.dictRsp, 31, 0⟩
def bootStat_READY : Fld := ⟨.bootStat, 31, 31⟩
def bootStat_RECOVERY : Fld := ⟨.bootStat, 30, 30⟩
def bootStat_SLOT : Fld := ⟨.bootStat, 29, 29⟩
def bootStat_TRIAL : Fld := ⟨.bootStat, 28, 28⟩
def bootStat_FALLBACK : Fld := ⟨.bootStat, 27, 27⟩
def bootStat_CAUSE : Fld := ⟨.bootStat, 26, 24⟩
def sbCfg_FUNC : Fld := ⟨.sbCfg, 31, 28⟩
def sbCfg_OUT : Fld := ⟨.sbCfg, 27, 27⟩
def sbCfg_IN : Fld := ⟨.sbCfg, 26, 26⟩
def sbStat_STORM : Fld := ⟨.sbStat, 23, 16⟩
def sbStat_STUCK : Fld := ⟨.sbStat, 15, 8⟩
def sbStat_LEVEL : Fld := ⟨.sbStat, 7, 0⟩
def regoLatch_VCCQ : Fld := ⟨.regoLatch, 31, 16⟩
def regoLatch_VCC : Fld := ⟨.regoLatch, 15, 0⟩
def regoCmd_CMD : Fld := ⟨.regoCmd, 31, 28⟩
def regoCmd_LAST : Fld := ⟨.regoCmd, 27, 24⟩
def regoCmd_STATUS : Fld := ⟨.regoCmd, 23, 20⟩
def regoCmd_LASER : Fld := ⟨.regoCmd, 7, 6⟩
def regoCmd_OUT : Fld := ⟨.regoCmd, 5, 0⟩

end R

end Sys2Proof.Machine
end

