-- ==== Sys2Proof/Machine/Entries.lean ====
section
/-! DEFINITION. The parameter dictionary's entries (spec/17 R386, R387, R407 and the entry tables of every chapter). -/

namespace Sys2Proof.Machine

/-- Type encodings (spec/17 R387). -/
inductive DType where
  | bool | u8 | u16 | u32 | u64 | i32 | i64 | f32 | time64
  | vstr (n : Nat)
  | ostr (n : Nat)
deriving DecidableEq, Repr

/-- Access classes (spec/00 R9). -/
inductive DClass where
  | ro | rw | rwp | rwl | wo | cmd
deriving DecidableEq, Repr

/-- The value of an entry: a number (two's complement where its type is signed) or octets. -/
inductive DVal where
  | num (n : Nat)
  | oct (l : List Byte)
deriving DecidableEq, Repr

/-- One row of a dictionary table, for subindices `lo` to `hi`: type, class, whether it is a VAR entry (R387), whether it
takes effect at the next warm reset, default and admitted ranges (none: any value of the type). A default that the
table leaves to the part, board, configuration or strap is 0 here; the voltage-frequency table is 800 mV throughout (log
entry 6). -/
structure DEntry where
  index : Nat
  lo : Nat
  hi : Nat
  typ : DType
  cls : DClass
  isVar : Bool
  atWarm : Bool
  dflt : DVal
  range : List (Nat × Nat)
deriving DecidableEq, Repr

def entries10a : List DEntry :=
  [⟨0x1000, 1, 1, (.vstr 32), .ro, false, false, (.oct []), []⟩,
   ⟨0x1000, 2, 2, (.vstr 4), .ro, false, false, (.oct [0x42, 0x31]), []⟩,
   ⟨0x1000, 3, 3, .u16, .ro, false, false, (.num 0), [(240, 240), (256, 256)]⟩,
   ⟨0x1000, 4, 4, (.ostr 32), .ro, false, false, (.oct (zeros 32)), []⟩,
   ⟨0x1000, 5, 5, .u8, .ro, false, false, (.num 0), []⟩,
   ⟨0x1000, 6, 6, .u64, .ro, false, false, (.num 0), []⟩,
   ⟨0x1000, 7, 7, .u16, .ro, false, false, (.num 65535), [(0, 32767), (65535, 65535)]⟩,
   ⟨0x1000, 8, 8, .u8, .ro, false, false, (.num 0), [(127, 127), (255, 255)]⟩,
   ⟨0x1000, 9, 9, .u32, .ro, false, false, (.num 1800000), [(600000, 1800000)]⟩,
   ⟨0x1001, 1, 1, .u16, .ro, false, false, (.num 1), []⟩,
   ⟨0x1001, 2, 2, .u32, .ro, false, false, (.num 0), []⟩,
   ⟨0x1001, 3, 3, .u16, .ro, false, false, (.num 0), []⟩,
   ⟨0x1001, 4, 4, .u8, .cmd, false, false, (.num 0), [(1, 1)]⟩,
   ⟨0x1001, 5, 5, .u8, .ro, false, false, (.num 0), [(0, 2)]⟩,
   ⟨0x1010, 1, 1, .u32, .ro, false, false, (.num 1572864), []⟩,
   ⟨0x1010, 2, 2, .u16, .ro, false, false, (.num 8192), []⟩,
   ⟨0x1010, 3, 3, .u8, .ro, false, false, (.num 64), []⟩,
   ⟨0x1010, 4, 4, .u8, .ro, false, false, (.num 2), [(2, 2), (3, 3)]⟩,
   ⟨0x1010, 5, 5, .u8, .ro, false, false, (.num 2), []⟩,
   ⟨0x1010, 6, 6, .u32, .ro, false, false, (.num 16384), []⟩]

def entries10b : List DEntry :=
  [⟨0x1011, 1, 1, .u8, .ro, false, false, (.num 18), []⟩,
   ⟨0x1011, 2, 2, .u8, .ro, false, false, (.num 48), []⟩,
   ⟨0x1011, 3, 3, .u16, .ro, false, false, (.num 640), []⟩,
   ⟨0x1011, 4, 4, .u8, .ro, false, false, (.num 16), []⟩,
   ⟨0x1011, 5, 5, .u8, .ro, false, false, (.num 255), []⟩,
   ⟨0x1011, 6, 6, .u8, .ro, false, false, (.num 8), []⟩,
   ⟨0x1011, 7, 7, .u8, .ro, false, false, (.num 64), []⟩,
   ⟨0x1011, 8, 8, (.ostr 12), .ro, false, false, (.oct [0, 0, 0, 0, 0, 0, 0, 85, 68, 0, 0, 0]), []⟩,
   ⟨0x1012, 1, 1, .u32, .ro, false, false, (.num 0), []⟩,
   ⟨0x1012, 2, 2, .u32, .ro, false, false, (.num 49152), []⟩,
   ⟨0x1012, 3, 3, .u32, .ro, false, false, (.num 24576), []⟩,
   ⟨0x1012, 4, 4, .u16, .ro, false, false, (.num 0), [(0, 288)]⟩,
   ⟨0x1012, 5, 5, .u16, .ro, false, false, (.num 1), []⟩,
   ⟨0x1013, 1, 1, .u8, .ro, false, false, (.num 0), [(28, 28), (32, 32)]⟩,
   ⟨0x1013, 2, 2, .u16, .ro, false, false, (.num 10240), []⟩,
   ⟨0x1013, 3, 3, .u8, .ro, false, false, (.num 8), []⟩,
   ⟨0x1013, 4, 4, .u32, .ro, false, false, (.num 2097152), []⟩,
   ⟨0x1013, 5, 5, .u16, .ro, false, false, (.num 2500), []⟩,
   ⟨0x1013, 6, 6, .u32, .ro, false, false, (.num 1200000), []⟩,
   ⟨0x1014, 1, 1, .u8, .ro, false, false, (.num 1), []⟩]

def entries10c : List DEntry :=
  [⟨0x1014, 2, 2, .u8, .ro, false, false, (.num 8), []⟩,
   ⟨0x1014, 3, 3, .u32, .ro, false, false, (.num 192000), []⟩,
   ⟨0x1014, 4, 4, .u16, .ro, false, false, (.num 2720), []⟩]

def entries20a : List DEntry :=
  [⟨0x2000, 1, 1, .u16, .ro, false, false, (.num 2600), []⟩,
   ⟨0x2000, 2, 2, .u8, .rwp, false, false, (.num 0), [(0, 3)]⟩,
   ⟨0x2000, 3, 3, .u16, .ro, false, false, (.num 1200), []⟩,
   ⟨0x2000, 4, 4, .u16, .ro, false, false, (.num 3100), []⟩,
   ⟨0x2001, 1, 1, .u8, .cmd, false, false, (.num 0), [(0, 3)]⟩,
   ⟨0x2001, 2, 2, .u32, .rwp, false, false, (.num 1000), [(0, 1000000)]⟩,
   ⟨0x2002, 1, 1, .u16, .cmd, false, false, (.num 0), [(1200, 2600)]⟩,
   ⟨0x2002, 2, 2, .u32, .ro, false, false, (.num 0), [(0, 60000)]⟩,
   ⟨0x2002, 3, 3, .u16, .rwp, false, false, (.num 1500), [(1200, 2600)]⟩,
   ⟨0x2002, 4, 4, .u8, .rwp, false, false, (.num 255), [(0, 255)]⟩,
   ⟨0x2003, 1, 1, .u16, .rwp, false, false, (.num 1300), [(1200, 2600)]⟩,
   ⟨0x2003, 2, 2, .u16, .rwp, false, false, (.num 1200), [(1200, 2600)]⟩,
   ⟨0x2003, 3, 3, .u32, .rwp, false, false, (.num 100), [(10, 10000)]⟩,
   ⟨0x2004, 1, 1, (.ostr 6), .rwp, false, false, (.oct (zeros 6)), []⟩,
   ⟨0x2004, 2, 2, (.ostr 8), .ro, false, false, (.oct (zeros 8)), []⟩,
   ⟨0x2004, 3, 3, .u8, .rwp, false, false, (.num 3), [(0, 7)]⟩,
   ⟨0x2004, 4, 4, .u16, .rwp, false, false, (.num 100), [(10, 1000)]⟩,
   ⟨0x2004, 5, 5, (.ostr 34), .ro, false, false, (.oct (zeros 34)), []⟩,
   ⟨0x2005, 1, 1, .u16, .rwp, false, false, (.num 200), [(50, 1000)]⟩,
   ⟨0x2005, 2, 2, .u64, .ro, false, false, (.num 0), []⟩]

def entries20b : List DEntry :=
  [⟨0x2005, 3, 3, .u32, .ro, false, false, (.num 0), []⟩,
   ⟨0x2006, 1, 1, .bool, .rwp, false, false, (.num 0), [(0, 1)]⟩,
   ⟨0x2006, 2, 2, .bool, .rwp, false, false, (.num 1), [(0, 1)]⟩]

def entries30 : List DEntry :=
  [⟨0x3000, 1, 1, (.ostr 4), .ro, false, false, (.oct (zeros 4)), []⟩,
   ⟨0x3001, 1, 1, .u8, .rwp, false, false, (.num 100), [(85, 102)]⟩,
   ⟨0x3001, 2, 2, .u8, .ro, false, false, (.num 104), []⟩,
   ⟨0x3001, 3, 3, .u8, .ro, false, false, (.num 110), []⟩]

def entries40a : List DEntry :=
  [⟨0x4000, 1, 1, .u64, .cmd, false, false, (.num 0), []⟩,
   ⟨0x4000, 2, 2, .u16, .ro, false, false, (.num 0), []⟩,
   ⟨0x4000, 3, 3, .u16, .rwp, false, false, (.num 65535), [(0, 32767), (65535, 65535)]⟩,
   ⟨0x4001, 1, 1, .u32, .rwp, false, false, (.num 200), [(10, 100000)]⟩,
   ⟨0x4001, 2, 2, .u32, .rwp, false, false, (.num 20000), [(1000, 1000000)]⟩,
   ⟨0x4002, 1, 64, (.ostr 12), .rwp, false, false, (.oct (zeros 12)), []⟩,
   ⟨0x4003, 1, 1, (.ostr 32), .rwp, false, false, (.oct (zeros 32)), []⟩,
   ⟨0x4003, 2, 2, .u16, .rwp, false, false, (.num 1), [(1, 4094)]⟩,
   ⟨0x4004, 1, 1, (.ostr 48), .wo, false, false, (.oct (zeros 48)), []⟩,
   ⟨0x4004, 2, 2, .u64, .ro, false, false, (.num 0), []⟩,
   ⟨0x4005, 1, 1, .bool, .ro, false, false, (.num 0), [(0, 1)]⟩,
   ⟨0x4005, 2, 2, .i32, .ro, false, false, (.num 0), []⟩,
   ⟨0x4006, 1, 1, .u64, .ro, false, false, (.num 0), []⟩,
   ⟨0x4010, 1, 1, .u8, .rwp, false, true, (.num 0), [(0, 254)]⟩,
   ⟨0x4010, 2, 2, .u8, .rwp, false, true, (.num 8), [(1, 255)]⟩,
   ⟨0x4010, 3, 3, .bool, .rwp, false, true, (.num 1), [(0, 1)]⟩,
   ⟨0x4010, 4, 4, .u8, .rwp, false, true, (.num 32), [(1, 255)]⟩,
   ⟨0x4010, 5, 5, (.ostr 6), .ro, false, false, (.oct (zeros 6)), []⟩,
   ⟨0x4011, 1, 1, (.ostr 32), .rwl, false, false, (.oct (List.replicate 32 0xFF)), []⟩,
   ⟨0x4011, 2, 2, .u32, .rwp, false, false, (.num 5000), [(100, 60000)]⟩]

def entries40b : List DEntry :=
  [⟨0x4012, 1, 1, .u8, .rwp, false, false, (.num 0), [(0, 0), (8, 254)]⟩,
   ⟨0x4012, 2, 2, .u8, .ro, false, false, (.num 0), []⟩]

def entries50a : List DEntry :=
  [⟨0x5010, 1, 1, .u32, .ro, false, false, (.num 32768), []⟩,
   ⟨0x5010, 2, 2, .u64, .rwp, false, true, (.num 2147483648), [(268435456, 17179869184)]⟩,
   ⟨0x5010, 3, 3, .u64, .ro, false, false, (.num 0), []⟩,
   ⟨0x5020, 1, 1, .u64, .ro, false, false, (.num 0), []⟩,
   ⟨0x5020, 2, 2, .u16, .rwp, false, true, (.num 384), [(0, 768)]⟩,
   ⟨0x5020, 3, 3, (.ostr 4), .rwp, false, false, (.oct [30, 30, 30, 10]), []⟩,
   ⟨0x5020, 4, 4, .u32, .rwp, false, false, (.num 1024), [(0, 524288)]⟩,
   ⟨0x5021, 1, 1, .u64, .ro, false, false, (.num 0), []⟩,
   ⟨0x5030, 1, 1, .u32, .rwp, false, false, (.num 20000), [(100, 1000000)]⟩,
   ⟨0x5030, 2, 2, .u8, .rwp, false, false, (.num 75), [(0, 100)]⟩,
   ⟨0x5040, 1, 1, .u64, .ro, false, false, (.num 0), []⟩,
   ⟨0x5040, 2, 2, .u8, .rwp, false, false, (.num 25), [(15, 15), (25, 25), (35, 35)]⟩,
   ⟨0x5040, 3, 3, .u32, .rwp, false, false, (.num 604800), [(3600, 2592000)]⟩,
   ⟨0x5040, 4, 4, .u32, .rwp, false, false, (.num 50000), [(10000, 1000000)]⟩,
   ⟨0x5040, 5, 5, .u32, .rwl, false, false, (.num 0), [(100, 100000)]⟩,
   ⟨0x5040, 6, 6, .u8, .rwp, false, false, (.num 15), [(10, 30)]⟩,
   ⟨0x5040, 7, 7, .u16, .ro, false, false, (.num 3600), [(1600, 3600)]⟩,
   ⟨0x5040, 8, 8, .u8, .ro, false, false, (.num 0), [(0, 255)]⟩,
   ⟨0x5040, 9, 9, .u8, .ro, false, false, (.num 0), [(0, 100)]⟩,
   ⟨0x5060, 1, 1, .u32, .ro, false, false, (.num 0), []⟩]

def entries50b : List DEntry :=
  [⟨0x5060, 2, 2, .u32, .ro, false, false, (.num 0), []⟩,
   ⟨0x5060, 3, 3, .u64, .ro, false, false, (.num 0), []⟩,
   ⟨0x5060, 4, 4, .u64, .ro, false, false, (.num 0), []⟩,
   ⟨0x5061, 1, 1, .u32, .rwp, false, false, (.num 86400), [(0, 2592000)]⟩,
   ⟨0x5061, 2, 2, .u32, .rwp, false, false, (.num 60), [(1, 86400)]⟩,
   ⟨0x5061, 3, 3, .u32, .rwp, false, false, (.num 900), [(1, 2592000)]⟩,
   ⟨0x5061, 4, 4, .u32, .ro, false, false, (.num 0), [(0, 65535)]⟩]

def entries60a : List DEntry :=
  [⟨0x6000, 1, 1, .u16, .ro, false, false, (.num 4096), []⟩,
   ⟨0x6000, 2, 2, .u8, .ro, false, false, (.num 16), []⟩,
   ⟨0x6002, 1, 16, .u16, .rw, false, false, (.num 65535), [(0, 32767), (65535, 65535)]⟩,
   ⟨0x6003, 1, 16, .u16, .rwp, false, false, (.num 256), [(1, 4096)]⟩,
   ⟨0x6004, 1, 16, .u32, .rwp, false, false, (.num 16384), [(64, 262144)]⟩,
   ⟨0x6005, 1, 1, .u16, .rwp, false, false, (.num 4096), [(1, 4096)]⟩,
   ⟨0x6006, 1, 16, .u32, .rwp, false, false, (.num 7), []⟩,
   ⟨0x6007, 1, 1, .u32, .rwp, false, false, (.num 30000), [(100, 3600000)]⟩,
   ⟨0x6007, 2, 2, .u32, .rwp, false, false, (.num 25000), [(100, 1000000)]⟩,
   ⟨0x6008, 1, 16, .time64, .ro, false, false, (.num 0), []⟩,
   ⟨0x6020, 1, 1, .u16, .rwp, false, false, (.num 41216), [(1024, 65535)]⟩,
   ⟨0x6020, 2, 2, (.ostr 16), .rwp, false, false, (.oct (zeros 16)), []⟩,
   ⟨0x6020, 3, 3, (.ostr 16), .rwp, false, false, (.oct (zeros 16)), []⟩,
   ⟨0x6020, 4, 4, .u32, .rwp, false, false, (.num 100), [(1, 10000)]⟩,
   ⟨0x6020, 5, 5, .u32, .rwp, false, false, (.num 10), [(0, 600)]⟩,
   ⟨0x6021, 1, 64, (.ostr 24), .rwp, false, false, (.oct (zeros 24)), []⟩,
   ⟨0x6080, 1, 1, .u8, .rwp, false, false, (.num 1), [(0, 1)]⟩,
   ⟨0x6090, 1, 1, .u32, .ro, false, false, (.num 1048576), []⟩,
   ⟨0x6090, 2, 2, .bool, .rwp, false, false, (.num 1), [(0, 1)]⟩,
   ⟨0x6090, 3, 3, .u16, .cmd, false, false, (.num 0), [(1, 65535)]⟩]

def entries60b : List DEntry :=
  [⟨0x6091, 1, 1, .u16, .ro, false, false, (.num 0), []⟩,
   ⟨0x6091, 2, 2, .u16, .cmd, false, false, (.num 0), [(1, 65535)]⟩,
   ⟨0x6091, 3, 3, .u32, .ro, false, false, (.num 65536), []⟩]

def entries61 : List DEntry :=
  [⟨0x6100, 1, 1, .u8, .ro, false, false, (.num 2), []⟩,
   ⟨0x6100, 2, 2, .u16, .ro, false, false, (.num 256), []⟩,
   ⟨0x6100, 3, 3, .u8, .ro, false, false, (.num 4), []⟩,
   ⟨0x6100, 4, 4, .u32, .rwp, false, false, (.num 30000), [(1000, 600000)]⟩,
   ⟨0x6100, 5, 5, .u8, .rwp, false, false, (.num 0), [(0, 1)]⟩,
   ⟨0x6100, 6, 6, .u32, .rwp, false, false, (.num 600), [(0, 86400)]⟩,
   ⟨0x6100, 7, 7, .u32, .rwp, false, false, (.num 10000), [(100, 600000)]⟩,
   ⟨0x6110, 1, 1, .u32, .rwp, false, false, (.num 100), [(20, 10000)]⟩,
   ⟨0x6110, 2, 2, .u32, .ro, false, false, (.num 2359296), []⟩,
   ⟨0x6110, 3, 3, .u32, .ro, false, false, (.num 2105344), []⟩,
   ⟨0x6111, 1, 16, .u32, .ro, false, false, (.num 65536), []⟩]

def entries70 : List DEntry :=
  [⟨0x7000, 1, 1, .u8, .ro, false, false, (.num 0), [(0, 3)]⟩,
   ⟨0x7000, 2, 2, (.ostr 360), .cmd, false, false, (.num 0), []⟩,
   ⟨0x7000, 3, 3, (.ostr 48), .ro, false, false, (.oct (zeros 48)), []⟩,
   ⟨0x7000, 4, 4, (.ostr 8192), .rwl, true, false, (.oct []), []⟩,
   ⟨0x7000, 5, 5, (.ostr 1024), .ro, true, false, (.oct []), []⟩,
   ⟨0x7010, 1, 1, (.ostr 768), .ro, false, false, (.oct (zeros 768)), []⟩,
   ⟨0x7010, 2, 2, (.ostr 49), .cmd, false, false, (.num 0), []⟩]

def entries80a : List DEntry :=
  [⟨0x8010, 1, 1, .u64, .ro, false, false, (.num 0), []⟩,
   ⟨0x8010, 2, 2, .u64, .ro, false, false, (.num 0), []⟩,
   ⟨0x8011, 1, 1, .u64, .ro, false, false, (.num 0), []⟩,
   ⟨0x8011, 2, 2, .u64, .ro, false, false, (.num 0), []⟩,
   ⟨0x8012, 1, 1, .u64, .ro, false, false, (.num 0), []⟩,
   ⟨0x8012, 2, 2, .u64, .ro, false, false, (.num 0), []⟩,
   ⟨0x8012, 3, 3, .u64, .ro, false, false, (.num 0), []⟩,
   ⟨0x8012, 4, 4, .u64, .ro, false, false, (.num 0), []⟩,
   ⟨0x8012, 5, 5, .u16, .cmd, false, false, (.num 0), [(0, 287), (65535, 65535)]⟩,
   ⟨0x8013, 1, 1, .u64, .ro, false, false, (.num 0), []⟩,
   ⟨0x8013, 2, 2, .u64, .ro, false, false, (.num 0), []⟩,
   ⟨0x8013, 3, 3, .u64, .ro, false, false, (.num 0), []⟩,
   ⟨0x8013, 4, 4, .u64, .ro, false, false, (.num 0), []⟩,
   ⟨0x8014, 1, 1, .u64, .ro, false, false, (.num 0), []⟩,
   ⟨0x8014, 2, 2, .u64, .ro, false, false, (.num 0), []⟩,
   ⟨0x8014, 3, 3, .u64, .ro, false, false, (.num 0), []⟩,
   ⟨0x8014, 4, 4, .u64, .ro, false, false, (.num 0), []⟩,
   ⟨0x8015, 1, 1, .u64, .ro, false, false, (.num 0), []⟩,
   ⟨0x8015, 2, 2, .u64, .ro, false, false, (.num 0), []⟩,
   ⟨0x8015, 3, 3, .u64, .ro, false, false, (.num 0), []⟩]

def entries80b : List DEntry :=
  [⟨0x8015, 4, 4, .u64, .ro, false, false, (.num 0), []⟩,
   ⟨0x8015, 5, 5, .u64, .ro, false, false, (.num 0), []⟩,
   ⟨0x8015, 6, 6, .u64, .ro, false, false, (.num 0), []⟩,
   ⟨0x8016, 1, 1, .u64, .ro, false, false, (.num 0), []⟩,
   ⟨0x8016, 2, 2, .u8, .ro, false, false, (.num 0), [(0, 11)]⟩,
   ⟨0x8017, 1, 1, .u64, .ro, false, false, (.num 0), []⟩,
   ⟨0x8017, 2, 2, .u64, .ro, false, false, (.num 0), []⟩,
   ⟨0x8017, 3, 3, .u64, .ro, false, false, (.num 0), []⟩,
   ⟨0x8017, 4, 4, .u32, .ro, false, false, (.num 0), []⟩,
   ⟨0x8017, 5, 5, .u64, .ro, false, false, (.num 0), []⟩,
   ⟨0x8017, 6, 6, .u64, .ro, false, false, (.num 0), []⟩,
   ⟨0x8017, 7, 7, .u64, .ro, false, false, (.num 0), []⟩,
   ⟨0x8018, 1, 1, .u64, .ro, false, false, (.num 0), []⟩,
   ⟨0x8018, 2, 2, .u64, .ro, false, false, (.num 0), []⟩,
   ⟨0x8018, 3, 3, .u64, .ro, false, false, (.num 0), []⟩,
   ⟨0x8019, 1, 1, .u64, .ro, false, false, (.num 0), []⟩,
   ⟨0x8019, 2, 2, .u64, .ro, false, false, (.num 0), []⟩,
   ⟨0x8019, 3, 3, .u64, .ro, false, false, (.num 0), []⟩,
   ⟨0x8019, 4, 4, .u64, .ro, false, false, (.num 0), []⟩,
   ⟨0x8019, 5, 5, .u64, .ro, false, false, (.num 0), []⟩]

def entries80c : List DEntry :=
  [⟨0x8019, 6, 6, .u64, .ro, false, false, (.num 0), []⟩,
   ⟨0x8019, 7, 7, .u64, .ro, false, false, (.num 0), []⟩,
   ⟨0x801A, 1, 1, .u64, .ro, false, false, (.num 0), []⟩,
   ⟨0x801A, 2, 2, .u64, .ro, false, false, (.num 0), []⟩,
   ⟨0x801A, 3, 3, .u64, .ro, false, false, (.num 0), []⟩,
   ⟨0x801A, 4, 4, .u64, .ro, false, false, (.num 0), []⟩,
   ⟨0x801B, 1, 1, .u64, .ro, false, false, (.num 0), []⟩,
   ⟨0x801B, 2, 2, .u64, .ro, false, false, (.num 0), []⟩,
   ⟨0x801B, 3, 3, .u64, .ro, false, false, (.num 0), []⟩,
   ⟨0x801B, 4, 4, .u64, .ro, false, false, (.num 0), []⟩,
   ⟨0x801B, 5, 5, .u64, .ro, false, false, (.num 0), []⟩,
   ⟨0x801B, 6, 6, .u64, .ro, false, false, (.num 0), []⟩,
   ⟨0x801B, 7, 7, .u32, .ro, false, false, (.num 0), []⟩,
   ⟨0x8020, 1, 1, (.ostr 24), .cmd, false, false, (.num 0), []⟩,
   ⟨0x8020, 2, 2, (.ostr 40), .cmd, false, false, (.num 0), []⟩,
   ⟨0x8020, 3, 3, .u16, .cmd, false, false, (.num 0), []⟩,
   ⟨0x8020, 4, 4, .u32, .rwp, false, false, (.num 2000), [(100, 100000)]⟩,
   ⟨0x8020, 5, 5, .u32, .rwp, false, false, (.num 5000), [(100, 100000)]⟩,
   ⟨0x8020, 6, 6, .u32, .rwp, false, false, (.num 10000), [(100, 600000)]⟩,
   ⟨0x8020, 7, 7, .u32, .rwp, false, false, (.num 100), [(10, 60000)]⟩]

def entries80d : List DEntry :=
  [⟨0x8021, 1, 8, .u16, .rw, false, false, (.num 65535), [(0, 32767), (65535, 65535)]⟩,
   ⟨0x8021, 9, 9, .u64, .ro, false, false, (.num 0), []⟩,
   ⟨0x8021, 10, 10, .u8, .ro, false, false, (.num 0), [(0, 1)]⟩,
   ⟨0x8022, 1, 16, .u64, .ro, false, false, (.num 0), []⟩,
   ⟨0x8023, 1, 1, .u32, .rwp, false, false, (.num 1000), [(0, 60000)]⟩,
   ⟨0x8023, 2, 2, .u16, .rwp, false, false, (.num 64), [(1, 10000)]⟩,
   ⟨0x8023, 3, 3, .u8, .rwp, false, false, (.num 16), [(1, 255)]⟩,
   ⟨0x8024, 1, 1, (.ostr 268435456), .ro, true, false, (.oct []), []⟩,
   ⟨0x8024, 2, 2, .u8, .cmd, false, false, (.num 0), [(1, 2)]⟩,
   ⟨0x8024, 3, 3, .u8, .ro, false, false, (.num 0), []⟩,
   ⟨0x8025, 1, 1, .u64, .ro, false, false, (.num 0), []⟩,
   ⟨0x8025, 2, 2, .u64, .ro, false, false, (.num 0), []⟩,
   ⟨0x8025, 3, 3, .u64, .ro, false, false, (.num 0), []⟩,
   ⟨0x8025, 4, 4, .u64, .ro, false, false, (.num 0), []⟩,
   ⟨0x8025, 5, 5, .u64, .ro, false, false, (.num 0), []⟩,
   ⟨0x8025, 6, 6, .u64, .ro, false, false, (.num 0), []⟩,
   ⟨0x8025, 7, 7, .u64, .ro, false, false, (.num 0), []⟩,
   ⟨0x8025, 8, 8, .u64, .ro, false, false, (.num 0), []⟩,
   ⟨0x8030, 1, 1, .u64, .ro, false, false, (.num 0), []⟩,
   ⟨0x8030, 2, 2, .u64, .ro, false, false, (.num 0), []⟩]

def entries80e : List DEntry :=
  [⟨0x8030, 3, 3, .u64, .ro, false, false, (.num 0), []⟩,
   ⟨0x8030, 4, 4, .u64, .ro, false, false, (.num 0), []⟩,
   ⟨0x8030, 5, 5, .u8, .ro, false, false, (.num 0), [(0, 1)]⟩,
   ⟨0x8030, 6, 6, .u64, .ro, false, false, (.num 0), []⟩,
   ⟨0x8030, 7, 7, .u64, .ro, false, false, (.num 0), []⟩,
   ⟨0x8030, 8, 8, .u64, .ro, false, false, (.num 0), []⟩,
   ⟨0x8040, 1, 1, .u64, .ro, false, false, (.num 0), []⟩,
   ⟨0x8040, 2, 2, .u64, .ro, false, false, (.num 0), []⟩,
   ⟨0x8040, 3, 3, .u64, .ro, false, false, (.num 0), []⟩,
   ⟨0x8050, 1, 1, .u64, .ro, false, false, (.num 0), []⟩,
   ⟨0x8050, 2, 2, .u64, .ro, false, false, (.num 0), []⟩,
   ⟨0x8050, 3, 3, .u64, .ro, false, false, (.num 0), []⟩,
   ⟨0x8050, 4, 4, .u64, .ro, false, false, (.num 0), []⟩,
   ⟨0x8050, 5, 5, .u32, .ro, false, false, (.num 0), []⟩,
   ⟨0x8050, 6, 6, .u64, .ro, false, false, (.num 0), []⟩]

def entries90 : List DEntry :=
  [⟨0x9000, 1, 1, (.ostr 8), .ro, false, false, (.oct (zeros 8)), []⟩,
   ⟨0x9000, 2, 2, (.ostr 4), .ro, false, false, (.oct (zeros 4)), []⟩,
   ⟨0x9000, 3, 3, (.ostr 32), .ro, false, false, (.oct (zeros 32)), []⟩,
   ⟨0x9000, 4, 4, (.ostr 228), .ro, false, false, (.oct (List.replicate 114 [(0x20 : Byte), 3]).flatten), []⟩,
   ⟨0x9001, 1, 1, .u32, .rwp, false, false, (.num 168), [(24, 2160)]⟩,
   ⟨0x9001, 2, 2, .u8, .cmd, false, false, (.num 0), [(1, 1)]⟩,
   ⟨0x9001, 3, 3, .time64, .ro, false, false, (.num 0), []⟩]

def entriesA0 : List DEntry :=
  [⟨0xA000, 1, 1, .u8, .cmd, false, false, (.num 0), [(1, 1)]⟩,
   ⟨0xA000, 2, 2, .u8, .ro, false, false, (.num 0), [(0, 1)]⟩,
   ⟨0xA000, 3, 3, .u16, .ro, false, false, (.num 0), []⟩,
   ⟨0xA000, 4, 4, (.ostr 36), .ro, false, false, (.oct (zeros 36)), []⟩,
   ⟨0xA000, 5, 5, .u32, .rwp, false, false, (.num 20000), [(5000, 300000)]⟩,
   ⟨0xA000, 6, 6, .u8, .ro, false, false, (.num 0), [(0, 64)]⟩,
   ⟨0xA001, 1, 1, (.ostr 50331648), .wo, true, false, (.oct []), []⟩,
   ⟨0xA001, 2, 2, .u8, .cmd, false, false, (.num 0), [(1, 4)]⟩,
   ⟨0xA001, 3, 3, .u8, .ro, false, false, (.num 0), [(0, 5)]⟩,
   ⟨0xA001, 4, 4, .u8, .ro, false, false, (.num 0), [(0, 11)]⟩,
   ⟨0xA002, 1, 1, (.ostr 4096), .rwl, true, false, (.oct []), []⟩,
   ⟨0xA003, 1, 1, .u32, .ro, false, false, (.num 0), []⟩,
   ⟨0xA003, 2, 2, .u32, .ro, false, false, (.num 0), []⟩]

def entriesB0 : List DEntry :=
  [⟨0xB000, 1, 1, .u8, .ro, false, false, (.num 0), [(0, 3)]⟩,
   ⟨0xB000, 2, 2, .u8, .cmd, false, false, (.num 0), [(1, 1)]⟩,
   ⟨0xB000, 3, 3, (.ostr 48), .ro, false, false, (.oct (zeros 48)), []⟩,
   ⟨0xB000, 4, 4, (.ostr 360), .cmd, false, false, (.num 0), []⟩,
   ⟨0xB000, 5, 5, .u8, .cmd, false, false, (.num 0), [(1, 1)]⟩,
   ⟨0xB000, 6, 6, (.ostr 32), .ro, false, false, (.oct (zeros 32)), []⟩,
   ⟨0xB000, 7, 7, (.ostr 144), .cmd, false, false, (.num 0), []⟩,
   ⟨0xB000, 8, 8, .u32, .ro, false, false, (.num 0), [(0, 86400)]⟩,
   ⟨0xB000, 9, 9, .u32, .ro, false, false, (.num 0), [(0, 86400)]⟩]

/-- Every entry, indices rising. -/
def allEntries : List DEntry :=
  entries10a ++ entries10b ++ entries10c ++ entries20a ++ entries20b ++ entries30 ++ entries40a ++ entries40b ++
  entries50a ++ entries50b ++ entries60a ++ entries60b ++ entries61 ++ entries70 ++ entries80a ++ entries80b ++
  entries80c ++ entries80d ++ entries80e ++ entries90 ++ entriesA0 ++ entriesB0

/-- The row that defines an index and subindex, if one does (R386). -/
def entryOf (index sub : Nat) : Option DEntry :=
  allEntries.find? (fun e => e.index == index && decide (e.lo ≤ sub) && decide (sub ≤ e.hi))

/-- The highest subindex defined under an index: the value of its subindex 0 (R386); `none` for an undefined index. -/
def highestSub (index : Nat) : Option Nat :=
  match (allEntries.filter (fun e => e.index == index)).map DEntry.hi with
  | [] => none
  | h :: t => some (t.foldl max h)

/-- The key of an entry's value in the store. -/
def dkey (index sub : Nat) : Nat := index * 256 + sub

/-- What an entry holds when nothing has been written to it. -/
def dictDefault (k : Nat) : DVal :=
  match entryOf (k / 256) (k % 256) with
  | some e => e.dflt
  | none => .num 0

end Sys2Proof.Machine
end

