-- ==== Sys2Proof/Machine/Sparse.lean ====
section
/-! DEFINITION. Sparse tables in one canonical form: a list of key and value pairs, keys strictly rising, no value equal to
what an unlisted key reads as. Memory, the register file and every table of slots use it. -/

namespace Sys2Proof.Machine.Sparse

/-- What key `k` holds; `d` says what an unlisted key reads as. -/
def get {α : Type} (d : Nat → α) : List (Nat × α) → Nat → α
  | [], k => d k
  | (a, v) :: t, k => if k = a then v else get d t k

/-- The table without the keys that `p` selects. -/
def drop {α : Type} (p : Nat → Bool) (m : List (Nat × α)) : List (Nat × α) :=
  m.filter (fun x => !p x.1)

/-- Consecutive entries from key `k`, leaving out the values an unlisted key reads as. -/
def listing {α : Type} [DecidableEq α] (d : Nat → α) (k : Nat) : List α → List (Nat × α)
  | [] => []
  | v :: t => if v = d k then listing d (k + 1) t else (k, v) :: listing d (k + 1) t

/-- Write consecutive keys from `k`. -/
def blit {α : Type} [DecidableEq α] (d : Nat → α) (m : List (Nat × α)) (k : Nat) (vs : List α) : List (Nat × α) :=
  m.filter (fun x => decide (x.1 < k)) ++ listing d k vs ++ m.filter (fun x => decide (k + vs.length ≤ x.1))

/-- Write key `k`. -/
def put {α : Type} [DecidableEq α] (d : Nat → α) (m : List (Nat × α)) (k : Nat) (v : α) : List (Nat × α) :=
  blit d m k [v]

/-- Forget the keys from `k` to `k + n - 1`: they read as unlisted. -/
def erase {α : Type} (m : List (Nat × α)) (k n : Nat) : List (Nat × α) :=
  drop (fun a => decide (k ≤ a) && decide (a < k + n)) m

/-- Read `n` consecutive keys from `k`. -/
def gets {α : Type} (d : Nat → α) (m : List (Nat × α)) (k : Nat) : Nat → List α
  | 0 => []
  | n + 1 => get d m k :: gets d m (k + 1) n

/-- The entries from `k` to `k + n - 1`, renumbered from 0. -/
def slice {α : Type} (m : List (Nat × α)) (k n : Nat) : List (Nat × α) :=
  (m.filter (fun x => decide (k ≤ x.1) && decide (x.1 < k + n))).map (fun x => (x.1 - k, x.2))

/-- The keys rise strictly and no entry equals what its key reads as unlisted. -/
def wf {α : Type} [DecidableEq α] (d : Nat → α) : List (Nat × α) → Bool
  | [] => true
  | [(a, v)] => decide (v ≠ d a)
  | (a, v) :: (b, w) :: t => decide (a < b) && decide (v ≠ d a) && wf d ((b, w) :: t)

end Sys2Proof.Machine.Sparse
end

