-- ==== Sys2Proof/Machine/State.lean ====
section
/-! DEFINITION. The state of the block: every register, memory, queue, table, mode and pin the spec gives it, as plain
data, and the state right after a cold reset is asserted. -/

namespace Sys2Proof.Machine

/-! ### Error log, events and what leaves the device -/

/-- An error-log entry (spec/14 R312). -/
structure LogEntry where
  first : Nat
  last : Nat
  seq : Nat
  count : Nat
  valid : Bool
  partv : Bool
  part : Nat
  cls : Nat
  code : Nat
  source : Nat
  detail : Nat
deriving DecidableEq, Repr

/-- An entry of the ring that nothing has written. -/
def LogEntry.blank : LogEntry := ⟨0, 0, 0, 0, false, false, 0, 0, 0, 0, 0⟩

/-- An event for a subscriber (spec/17 R399, R400). -/
structure Ev where
  seq : Nat
  cls : Nat
  time : Nat
  detail : List Byte
  lost : Bool
  tries : Nat
  sent : Bool
deriving DecidableEq, Repr

/-- A subscriber: its path, class mask, watched entries with the value tags last seen, next event number, queue (at
most 64), and whether an event was dropped since the last one queued (spec/17 R399, R400). -/
structure Subscriber where
  path : DapPath
  mask : Nat
  watches : List (Nat × Nat × Nat)
  next : Nat
  queue : List Ev
  lost : Bool
deriving DecidableEq, Repr

/-- What leaves the block. -/
inductive Output where
  /-- A completion of a register read (spec/01 R24). -/
  | readData (r : Requester) (addr len : Nat) (val : Nat)
  /-- Unsupported Request, or a bus error for the management core (spec/01 R22). -/
  | rejected (r : Requester) (addr : Nat) (write : Bool)
  | msix (fn vec : Nat)
  | event (path : DapPath) (ev : Ev)
  /-- Broadcast to DST 0xFF on the management segment (spec/17 R399, R400). -/
  | broadcast (cls : Nat) (time : Nat) (detail : List Byte)
  /-- A DAP response: path, TID, service, index, subindex, STATUS, offset, VTAG, MORE, payload (spec/17 R393). -/
  | dap (path : DapPath) (tid svc index sub status offset vtag : Nat) (more stale : Bool) (payload : List Byte)
  | spdm (path : SpdmPath) (body : List Byte)
  | mctp (pcie : Bool) (body : List Byte)
  /-- A fabric frame sent on a port (spec/13 R289). -/
  | frame (port : Nat) (fr : Frame)
  /-- A package's hello: port, home identifier, EUI-48 base, claimed identifier and epoch, IDENT_PART (spec/13 R288). -/
  | hello (port home eui : Nat) (claim : Option (Nat × Nat)) (part : Nat)
  /-- A link-layer keepalive (spec/14 R318) or another link message on a port. -/
  | link (port : Nat) (kind : String) (val : Nat)
  /-- A payload sent from a front port (spec/11 R248). -/
  | front (port addr udp : Nat) (payload : List Byte)
  /-- A 32-byte record of four words returned through an entry path (spec/11 R246). -/
  | record (e : Entry) (w0 w1 w2 w3 : Nat)
  /-- A message between the packages of a serving group (spec/11 R255, spec/12, spec/14). -/
  | group (p : Nat) (kind : String) (val : Nat)
  /-- Bytes written to a shadow peer's Mosaic region: peer, its local offset (spec/14 R319 to R322). -/
  | shadow (peer at_ : Nat) (bytes : List Byte)
  /-- The lead's rail, token and radix stores written to their units (spec/14 R321, R323). -/
  | stores (st : RailStores)
  /-- A report to the fabric manager (spec/14 R318). -/
  | report (kind : String) (val : Nat)
  /-- A pin or regulated output changes level. -/
  | pin (name : String) (n : Nat) (level : Bool)
  /-- Data shifted out of the JTAG port (spec/16 R384). -/
  | tdo (val : Nat)
deriving DecidableEq, Repr

/-- What is fixed at manufacture (spec/00 R3, R6): the LD variant and what it lost, the EUI-48 base. -/
structure Part where
  ld : Bool
  disCol : Nat
  disStack : Nat
  eui : Nat
deriving DecidableEq, Repr

/-- A requester's shadow of an atomic pair (spec/01 R26): the pair's low card and instance, a held low write or a
captured high half. -/
structure Shadow where
  r : Requester
  card : Card
  inst : Nat
  write : Bool
  be : Nat
  val : Word
deriving DecidableEq, Repr

/-! ### Facets (spec/02, spec/03, spec/04) -/

/-- The class of an L640 cell (spec/03 R83). -/
inductive RefCls where
  | finite | posInf | negInf | nan
deriving DecidableEq, Repr

/-- An accumulator cell: W48, or L640 as a multiple of 2^-300 with its class (spec/03 R71, R83). -/
inductive Cell where
  | w48 (v : Nat)
  | ref (cls : RefCls) (v : Int)
deriving DecidableEq, Repr

/-- A loaded stationary buffer: FMT, the error-control entry kept with it, the 64 tile lines and the scale lines
(spec/02 R45, R46; spec/03 R78). -/
structure Tile where
  fmt : Nat
  xc0 : Nat
  xc1 : Nat
  data : List Host.Cell
  scales : List Host.Cell
deriving DecidableEq, Repr

/-- An open LOOP level: first and last bundle of the body, passes left including the present one (spec/02 R443). -/
structure LoopLevel where
  first : Nat
  last : Nat
  left : Nat
deriving DecidableEq, Repr

/-- A WAIT that has issued and is not satisfied (spec/02 R56): scope, condition code, counter and the bound, and since when it stalls
(spec/12 R282). -/
structure WaitRec where
  grp : Bool
  cond : Nat
  ctr : Nat
  bound : Nat
  since : Nat
deriving DecidableEq, Repr

/-- A Pour descriptor of the queue (spec/02 R58 to R61), with the destination bytes that another running descriptor, not
ordered with it, also writes, and the time it has been held (spec/12 R282). -/
structure PourDesc where
  uid : Nat
  w0 : Nat
  w1 : Nat
  w2 : Nat
  w3 : Nat
  running : Bool
  clash : List (Nat × Nat)
  held : Nat
deriving DecidableEq, Repr

/-- What a cycle-scheduled operation delivers to, for the data that a broken schedule leaves undefined: a register, a line, a
row or a buffer of the Facet. -/
inductive Dest where
  | vreg (r : Nat)
  | preg (p : Nat)
  | line (l : Nat)
  | row (b r : Nat)
  | buf (b : Nat)
deriving DecidableEq, Repr

/-- What an operation writes to a register: lanes of a vector register from lane `off` on, those that a mask keeps left out,
or the bits `m` of a predicate register. -/
inductive Put where
  | vreg (r off : Nat) (vs : List Word) (mask : Option Nat)
  | preg (p v m : Nat)
deriving DecidableEq, Repr

/-- A result on its way to a register: `age` cycles have passed since its operation issued; it may be read on cycle `lat`
after the issue, and is written from cycle `first` on (spec/02 R48 to R50, R63). It occupies the Arc unit for `occ`
cycles. `quiet`: reading the register before then reads its old contents, as the state register of a row operation does
(spec/04 R102), or a later operation's result. `spoilt`: the schedule was broken, so the result is undefined. -/
structure Land where
  put : Put
  age : Nat
  lat : Nat
  first : Nat
  occ : Nat
  quiet : Bool
  spoilt : Bool
deriving DecidableEq, Repr

/-- An operation that uses scheduled ports on cycles to come (spec/02 R41 to R58): its slot word, the cycles since it
issued, the Facet a transfer writes to, the number of a transfer across the Seam, the promotion interval and the two
tiles of an MMA, whether an MMA has met a special operand, the bytes it has read or will write, whether the schedule was
broken. -/
structure Flight where
  w : Nat
  age : Nat
  dest : Nat
  uid : Nat
  promo : Nat
  tile : Option Tile
  side : Option Tile
  met : Bool
  data : List Host.Cell
  spoilt : Bool
deriving DecidableEq, Repr

/-- One Facet. Registers that cards define are in `State.regs`; the scratchpad is in `State.mem`, the instruction memory
in `State.imem`. `slot` is how many slots of its bundle have issued, `rest` the cycles until its next bundle may issue,
`haltReq` that a HALT waits for the bundle boundary (spec/02 R65), `solo` that FCT_CMD started it as a group of one
(spec/02 R34). `hid` holds FD and HD by counter (spec/12 R282). `flights` and `lands` are what its operations still do on
cycles to come, oldest first; `busy` the cycles until an accumulator row or a stationary buffer may be read, and `arcBusy`
those until the Arc unit is free (spec/02 R50, R63). -/
structure Facet where
  vregs : List (Nat × Word)
  pregs : List (Nat × Nat)
  sregs : List (Nat × Word)
  acc : List (Nat × Cell)
  buf0 : Option Tile
  buf1 : Option Tile
  loops : List LoopLevel
  wait : Option WaitRec
  pourQ : List PourDesc
  flights : List Flight
  lands : List Land
  busy : List (Dest × Nat)
  arcBusy : Nat
  rest : Nat
  slot : Nat
  haltReq : Bool
  solo : Bool
  arcValid : Bool
  stepBounds : Bool
  selfTest : Bool
  imemLoad : Option (Nat × Nat × Nat)
  hid : List (Nat × Nat × Nat)
  fenced : Nat
deriving DecidableEq, Repr

/-- A Facet after a partition reset (spec/18 R418). -/
def Facet.blank : Facet :=
  { vregs := [], pregs := [], sregs := [], acc := [], buf0 := none, buf1 := none, loops := [], wait := none, pourQ := [],
    flights := [], lands := [], busy := [], arcBusy := 0, rest := 0, slot := 0, haltReq := false, solo := false,
    arcValid := false, stepBounds := false, selfTest := false, imemLoad := none, hid := [], fenced := 0 }

/-- A group's cycle counter (spec/02 R34): its value on the present cycle, and, while no member issues and the group is not
stalled, the number of the free values by which each passing of time takes it on (`State.spin`; log entry 24). -/
structure Group where
  gcc : Nat
  idle : Option Nat
deriving DecidableEq, Repr

/-- A result of a token-scheduled operation that a program may not use yet (spec/01 R14, R15): the Facet whose counters tell of
it, the local offsets it writes, the Facet whose Pour engine writes them (256: another engine), the operation's number and
the part of it that its own counter tells of, and the counters that have told. It stands until a wait on one of those is
satisfied. -/
structure Unwaited where
  facet : Nat
  lo : Nat
  len : Nat
  by_ : Nat
  uid : Nat
  run : Nat
  told : List Nat
deriving DecidableEq, Repr

/-- A transfer in a Seam buffer (spec/02 R53, R54): its number, sender, receiver, first destination line, counters, the
beats the sender has still to read, the beats kept (by number, each two lines), whether beats were discarded, whether the
receiver has written it. -/
structure SeamXfer where
  uid : Nat
  src : Nat
  dst : Nat
  line : Nat
  ctr : Nat
  ack : Nat
  left : Nat
  kept : List Nat
  data : List Host.Cell
  overrun : Bool
  delivered : Bool
deriving DecidableEq, Repr

/-! ### Memory tiers and the key-value cache (spec/06, spec/07) -/

/-- Who waits for a held access (spec/07 R179): a Pour descriptor, a Drip descriptor, a copy-ring chunk or a STAGE; `inbox` is
the Apex core answering a fabric inbox slot (spec/17 R405). `job` is a load job's member, which reads another package's staging area
(spec/10 R231). -/
inductive Issuer where
  | pour (f uid : Nat)
  | drip (e uid : Nat)
  | copy (p uid : Nat)
  | stage (p uid : Nat)
  | inbox (slot : Nat)
  | job (ctx : Nat)
deriving DecidableEq, Repr

/-- A use of a Vertex Bloom unit: the promotion of a compressed page, one segment of a STAGE (by its page), the chunk of a load job, the
EXPAND command (spec/08 R204). -/
inductive BloomFor where
  | promotion (p va : Nat)
  | stage (uid va : Nat)
  | load (ctx : Nat)
  | expand
deriving DecidableEq, Repr

/-- A use that waits, or with the unit that has taken it. -/
structure BloomUse where
  who : BloomFor
  unit : Option Nat
deriving DecidableEq, Repr

/-- A page that a MIGRATE (`cmd`) or the prefetch schedule has asked to move to a tier, the attempts made, and whether it
failed (spec/07 R181, R183, R189). -/
structure Move where
  p : Nat
  va : Nat
  tier : Nat
  cmd : Bool
  tries : Nat
  failed : Bool
deriving DecidableEq, Repr

/-- A held access (spec/07 R179). -/
structure Hold where
  p : Nat
  va : Nat
  write : Bool
  who : Issuer
  at_ : Nat
deriving DecidableEq, Repr

/-- A running STAGE action (spec/07 R189). -/
structure Stage where
  uid : Nat
  p : Nat
  src : Nat
  dst : Nat
  units : Nat
  cfacet : Nat
  ctr : Nat
deriving DecidableEq, Repr

/-- An entry of the block-hash index (spec/06 R162). -/
structure HashEntry where
  h : Nat
  tenant : Nat
  block : Nat
  range : Nat
  gen : Nat
  part : Nat
  way : Nat
  lastUse : Nat
deriving DecidableEq, Repr


/-! ### The Ticket rail (spec/11) -/

/-- What a package keeps of a partition's steps (spec/11 R252, R255; spec/12 R270 to R272, R282; spec/14 R322 to R331):
whether a step runs, its number and when it started; whether it has ended; the admission sequence; the means L and T in
nanoseconds (0: not yet taken from 0x6007); the last steps; when the last header arrived, when the partition froze and for
how long since that header; the sealed step; the steps still to be replayed, whether the replay is local, whether it has
met a difference-free result, since when a halt report waits for its holdoff; and at the start of the last steps the LASTSEQ of the reduction groups. -/
structure Rail where
  running : Bool
  step : Nat
  start : Nat
  done : Bool
  admseq : Nat
  meanL : Nat
  meanT : Nat
  hist : List StepRec
  arrive : Option Nat
  frozenAt : Option Nat
  frozenNs : Nat
  sealedStep : Nat
  replay : List StepRec
  localReplay : Bool
  halted : Option Nat
  waiting : Bool
  headerDue : Bool
  seqs : List (Nat × List (Nat × Nat))
  credits : List (Nat × Nat × Nat)
  clk : Nat
deriving DecidableEq, Repr

/-- A partition's rail after every reset. -/
def Rail.blank : Rail :=
  { running := false, step := 0, start := 0, done := false, admseq := 0, meanL := 0, meanT := 0, hist := [], arrive := none,
    frozenAt := none, frozenNs := 0, sealedStep := 0, replay := [], localReplay := false, halted := none, waiting := false, headerDue := false, seqs := [], credits := [], clk := 0 }

/-- A function's rings beside their registers (spec/11 R244, R245): the posted tail, the returned head, records
reserved, the records that wait for a slot, an interrupt owed, the time of the last one. -/
structure Ring where
  sqTail : Nat
  cqHead : Nat
  resv : Nat
  waiting : List (List Nat)
  irqDue : Bool
  irqAt : Option Nat
deriving DecidableEq, Repr

def Ring.blank : Ring := ⟨0, 0, 0, [], false, none⟩

/-- A SUBMIT whose datagrams are being reassembled (spec/11 R248). -/
structure Reassembly where
  port : Nat
  addr : Nat
  udp : Nat
  hdr : ReqHdr
  toks : List (Nat × Nat)
  t0 : Nat
deriving DecidableEq, Repr

/-- A ticket that has retired, kept for the duplicate window (spec/11 R249). -/
structure Retired where
  t : Ticket
  slot : Nat
  at_ : Nat
deriving DecidableEq, Repr

/-- A forwarded request at its entry package: the path its records leave by, until the last of them (spec/01 R29), and for a
SUBMIT or CANCEL what is forwarded again (`due`), with the handle it returned, until the boundary seal that follows it
(spec/14 R324). `left` counts the records of a QUERY still to come, `ended` says that no record follows, `answer` is the record returned. -/
structure Kept where
  e : Entry
  h : ReqHdr
  tokens : List Nat
  handle : Nat
  part : Nat
  answered : Bool
  due : Bool
  left : Nat
  ended : Bool
  answer : List Nat
deriving DecidableEq, Repr
/-! ### Drip engines, copy rings and the fabric (spec/04, spec/05, spec/13) -/

/-- A Drip engine's Arc unit (spec/04 R101, R115, R116): valid bit, self-test running, the latch of the step. -/
structure EngineArc where
  valid : Bool
  selfTest : Bool
  stepBounds : Bool
deriving DecidableEq, Repr

def EngineArc.blank : EngineArc := ⟨false, false, false⟩

/-- A descriptor that a Drip engine or a copy engine has taken (spec/05 R129 to R131, spec/13 R300): its eight words, ring
slot and SEQ, whether it runs, the row blocks, tiles, rows or blocks done, row blocks since the last RCTR increment,
whether an increment must carry ERR, the failed stretches of its transfer already taken up, for a REDUCE the chunks that have
not completed, the SRAM bytes that an unordered descriptor also uses (spec/05 R131), whether it has met an uncorrectable SRAM
read (spec/05 R135), whether an ABORT has ended its work (spec/05 R142), the time it has been held (spec/12 R282), and the destination bytes that an ATOMIC has also written (spec/13 R299). -/
structure RingDesc where
  uid : Nat
  w : List Nat
  slot : Nat
  seq : Nat
  running : Bool
  done : Nat
  run : Nat
  err : Bool
  poison : Nat
  left : List Nat
  clash : List (Nat × Nat)
  late : Bool
  aborted : Bool
  held : Nat
  torn : List (Nat × Nat)
deriving DecidableEq, Repr

/-- Bytes that an engine reads while its operation runs, so that a write to them leaves results undefined (spec/05 R140,
spec/06 R160, spec/08 R206): the operation's number (none: the EXPAND), the row block or the position they serve, and whether
they have been written since the operation started. -/
structure Watch where
  owner : Option Nat
  idx : Nat
  lo : Nat
  len : Nat
  hit : Bool
deriving DecidableEq, Repr

/-- An entry of the region, grant or reduction-group table: four 64-bit words (spec/13 R292, R294, R302). -/
structure Ent where
  w0 : Nat
  w1 : Nat
  w2 : Nat
  w3 : Nat
deriving DecidableEq, Repr

def Ent.blank : Ent := ⟨0, 0, 0, 0⟩

/-- The effective route of an entry: identifier range and route set (spec/13 R293). -/
structure Route where
  lo : Nat
  hi : Nat
  ports : List Nat
deriving DecidableEq, Repr

def Route.blank : Route := ⟨0, 0, []⟩

/-- What a port holds of its partner and their secure association (spec/13 R287 to R289, R307): Ethernet address, whether it offers
PTP, SCI, SAK, the lowest packet number it accepts and the next it sends. -/
structure Link where
  addr : Nat
  ptp : Bool
  sci : Nat
  sak : List Byte
  rx : Nat
  tx : Nat
deriving DecidableEq, Repr

def Link.blank : Link := ⟨0, false, 0, [], 1, 1⟩

/-- An operation this package has issued, or will issue when the limits of spec/13 R293 and R305 allow (`port` none): its
issuer, route entry (1,000 + the port for a reduction chunk), tag, header fields, place in the issuer's transfer, the data
it carries, whether it waits to be sent again after EPOCH (spec/14 R327), and when it was issued (R297, R302). -/
structure FabOp where
  uid : Nat
  who : Issuer
  entry : Nat
  port : Option Nat
  tag : Nat
  op : Nat
  dst : Nat
  off : Nat
  len : Nat
  key : Nat
  comb : Bool
  pos : Nat
  data : List Byte
  retry : Bool
  at_ : Nat
deriving DecidableEq, Repr

/-- A stretch of a transfer at another package: address, bytes, place in the transfer, explicit key (0 none). -/
structure Seg where
  fga : Nat
  len : Nat
  pos : Nat
  key : Nat
deriving DecidableEq, Repr

/-- A transfer with an end on another package, or with held accesses that failed: bytes received, first bad status, the
stretches that could not be moved, and the stores, or
reduction chunks, to issue when every load has returned. -/
structure Xfer where
  who : Issuer
  buf : List Host.Cell
  status : Nat
  failed : List Seg
  stores : List Seg
  red : Bool
deriving DecidableEq, Repr

/-! ### Partitions (spec/12) -/

/-- A save image (spec/12 R277, R279): the Facets and the descriptors taken, with the registers, scratchpads, instruction
memory and Drip SRAM of the rectangle and share, and the error-control units they hold. The bytes of its place in the
carved frames are out of every access's reach (R267), so the content stands for them. -/
structure SaveImage where
  facets : List (Nat × Facet)
  groups : List (Nat × Group)
  regs : List (Nat × Word)
  mem : List Host.Cell
  imem : List Host.Cell
  sram : List Host.Cell
  lost : List (Nat × Nat)
  ucMem : List Nat
  ucImem : List Nat
  ucSram : List Nat
  ecMem : List Nat
  ecImem : List Nat
  ecSram : List Nat
  taken : List (Nat × List RingDesc)
  past : List (Nat × List RingDesc)
  ops : List FabOp
  xfers : List Xfer
  seams : List (Nat × List SeamXfer)
  unwaited : List Unwaited
deriving DecidableEq, Repr

/-- A formed partition: the shape, share and carving FORM fixed (spec/12 R261 to R264), the command that is busy, the
TR command that is busy with the pages of its range and, of one that waits for migrations to end, its code, its hint and the pages it
has still to act on (spec/07 R181), the pre-emption state (spec/12 R274 to R281): frozen, quiesced, the save image, the holds abandoned at the freeze; and the halts the
Barista has yet to take up, in order (spec/12 R273), and the Facets whose HALT it has been told of in this step (spec/02 R62). Frames are local offsets divided by 2 MiB. -/
structure Partition where
  shape : Nat
  mask : Nat
  tbase : Nat
  tcount : Nat
  kvPool : List Nat
  kvCarve : List (Nat × Nat)
  tierAll : List Nat
  stepFrame : Nat
  save : List Nat
  busy : Nat
  trBusy : Bool
  trRange : List Nat
  trWait : Option (Nat × Nat)
  trLeft : List Nat
  frozen : Bool
  quiesced : Bool
  image : Option SaveImage
  aside : List Hold
  haltDue : List Nat
  told : List Nat
deriving DecidableEq, Repr

/-- A partition that is not formed. -/
def Partition.free : Partition :=
  { shape := 0, mask := 0, tbase := 0, tcount := 0, kvPool := [], kvCarve := [], tierAll := [], stepFrame := 0, save := [],
    busy := 0, trBusy := false, trRange := [], trWait := none, trLeft := [], frozen := false, quiesced := false, image := none, aside := [], haltDue := [], told := [] }

/-! ### Weights (spec/10) -/

/-- An occupied key slot (R227): model key (`kind` 0) or adapter key. -/
structure KeySlot where
  kind : Nat
  mid : Nat
  gen : Nat
  tenant : Nat
  key : List Byte
deriving DecidableEq, Repr

/-- A load job context (R230, R231): the descriptor, the tenant of its adapter key, the reader's and the member's next
chunk and state, the staging slots the reader has published and that are not free (slot, chunk, when), whether one was freed
by timeout; of the member, when it last saw a new SEQ, and what it does with its chunk: 0 nothing, 1 it reads the entry, 2 it pulls the
chunk, 3 it acknowledges, with the DONE word it expects, 4 it reads the chunk's header. -/
structure Job where
  ctx : Nat
  loadid : Nat
  reader : Bool
  member : Bool
  adapter : Bool
  p : Nat
  mid : Nat
  gen : Nat
  aslot : Nat
  tenant : Nat
  stage : Nat
  skey : Nat
  myidx : Nat
  nmemb : Nat
  nchunk : Nat
  mlist : Nat
  clist : Nat
  root : Nat
  rnext : Nat
  mnext : Nat
  rstate : Nat
  rcode : Nat
  mstate : Nat
  mcode : Nat
  slots : List (Nat × Nat × Nat)
  timedOut : Bool
  seen : Nat
  phase : Nat
  expect : Nat
deriving DecidableEq, Repr

/-- An ACTIVATE at the lead: being checked, or accepted and waiting for its boundary; whether LDR_CMD still shows it. -/
structure Activation where
  p : Nat
  gen : Nat
  accepted : Bool
  shown : Bool
deriving DecidableEq, Repr

/-! ### Hopper media (spec/09) -/

/-- A flash block: erase count, reads and units written since its last erase, bad, and what its units are to be moved for (0 nothing, 1 a
refresh, 2 read disturb, 3 wear or collection). -/
structure FlashBlock where
  erases : Nat
  reads : Nat
  fill : Nat
  bad : Bool
  due : Nat
deriving DecidableEq, Repr

def FlashBlock.blank : FlashBlock := ⟨0, 0, 0, false, 0⟩

/-- A valid unit, the block that holds it and its stripe (spec/09 R211). -/
structure Placed where
  unit : Nat
  blk : Nat
  sid : Nat
deriving DecidableEq, Repr

/-- A parity stripe: its stream (0 without expiry, 1 + the band of an expiry), the block of its parity unit, and whether it takes
no more units. -/
structure Stripe where
  sid : Nat
  stream : Nat
  parity : Option Nat
  full : Bool
deriving DecidableEq, Repr

/-- The Hopper media: the NAND found at the last mount, the blocks, the valid units with their blocks and stripes, the stripes,
the next stripe's number, the open blocks (by stream × 16 + channel), the units being moved with the block they move to, the
blocks that a SCAN has still to sample; and what the NAND keeps: OP of the last FORMAT, whether the tier has become read-only,
the channels retired, whether a FORMAT has left the metadata invalid, and whether the NAND has been replaced since the last FORMAT. -/
structure Flash where
  nand : Nand
  blks : List (Nat × FlashBlock)
  placed : List Placed
  stripes : List Stripe
  nextSid : Nat
  opens : List (Nat × Nat)
  moving : List (Nat × Nat)
  scan : List Nat
  op : Nat
  worn : Bool
  retired : Nat
  unformed : Bool
  swapped : Bool
deriving DecidableEq, Repr

def Flash.blank : Flash := ⟨Nand.none, [], [], [], 0, [], [], [], 0, false, 0, false, false⟩

/-- What a reset that empties the tier pool leaves of the media (spec/09 R222). -/
def Flash.emptied (f : Flash) : Flash := { f with placed := [], stripes := [], opens := [], moving := [], scan := [] }

/-! ### Faults, power, security, boot, pins, the dictionary's transport (spec/14 to spec/19) -/

/-- An adoption under way: the dead identifier, the epoch, the rotation secret, the eight peers (spec/14 R332). -/
structure Adoption where
  dead : Nat
  epoch : Nat
  secret : Nat
  peers : List Nat
deriving DecidableEq, Repr

/-- A command that waits for the exit from a sleep state it has triggered (spec/15 R352). -/
inductive Parked where
  | start (r : Requester) (f entry : Nat)
  | imem (r : Requester) (f entry : Nat)
  | form (r : Requester) (p : Nat)
  | resume (r : Requester) (p : Nat)
  | adopt (v : List Byte) (found : AdoptView)
  | identity (v : Nat)
  | wake
deriving DecidableEq, Repr

/-- Power and sleep beside the registers (spec/15): the sleep state (0 none, 1 S1, 2 S2, 3 S3), one being entered, an exit
under way and the commands that wait for it (R351, R352); the domains forced by temperature and those in their hold (R350,
R356); the brake hold; the lease with its start (R354); the silent rail groups with the valid readings since (R348); the
factors k by domain in units of 2^-28 (R347); the calibrated estimates of the last 100 ms, newest first; by domain the
microseconds above the cap, and the working cap temperature has lowered it to (0 none); the dies' clocks in MHz, the
domains whose limiter throttles, the MHz the limiter has taken off the setpoint (R344, R346); power requests (watts, when) and those granted (R353); a re-plan asked for. -/
structure Power where
  sleep : Nat
  entering : Option Nat
  exiting : Bool
  parked : List Parked
  thermal : Nat
  holding : Nat
  brakeHold : Bool
  lease : Option (Nat × Nat)
  silent : Nat
  good : List Nat
  factors : List Nat
  window : List (List Nat)
  overCap : List Nat
  work : List Nat
  clocks : List Nat
  clkSum : Nat
  clkAt : Nat
  limited : Nat
  lower : Nat
  requests : List (Nat × Nat)
  grants : List (Nat × Nat)
  replan : Bool
deriving DecidableEq, Repr

/-- After a reset: k is 1.0, the clocks stand at the setpoint. -/
def Power.blank : Power :=
  { sleep := 0, entering := none, exiting := false, parked := [], thermal := 0, holding := 0, brakeHold := false,
    lease := none, silent := 0, good := [0, 0, 0, 0, 0, 0], factors := [268435456, 268435456, 268435456, 268435456],
    window := [], overCap := [0, 0, 0, 0], work := [0, 0, 0, 0], clocks := [1800, 1800], clkSum := 0, clkAt := 0, limited := 0, lower := 0, requests := [], grants := [], replan := false }

/-- A debug level that zeroisation or its check keeps from opening: level, partition mask, duration, credential kind and
digest (spec/16 R377). -/
structure Opening where
  level : Nat
  mask : Nat
  duration : Nat
  kind : Nat
  digest : List Byte
deriving DecidableEq, Repr

/-- The Apex core (spec/16): lifecycle state in OTP, whether the UDS stands, the two authority hashes with their revocation
bits, password verifier and salt, consecutive failures, whether locked out, since when and the present wait in seconds, the
nonce, the open level with its mask, seconds and start, one being opened, the 16 measurement slots, the SPDM messages of the present
exchange, the keys of the Urn and of the Hopper pool (R365). -/
structure Secure where
  life : Nat
  uds : Bool
  authorities : List (List Byte × Bool)
  password : Option (List Byte × List Byte)
  fails : Nat
  locked : Bool
  lockedAt : Nat
  wait : Nat
  nonce : Option (List Byte)
  level : Nat
  mask : Nat
  duration : Nat
  openedAt : Nat
  opening : Option Opening
  slots : List (List Byte)
  transcript : List Byte
  urnKey : List Byte
  hopKey : List Byte
deriving DecidableEq, Repr

/-- A boot control record (spec/18 R414). -/
structure BootRec where
  seq : Nat
  active : Nat
  trial : Nat
  tslot : Nat
  burn : Bool
  target : Nat
deriving DecidableEq, Repr

/-- Boot and update (spec/18): where the device is (0 cold reset held, 1 cold boot, 2 warm reset held, 3 warm reset, 4
running, 5 recovery mode), the straps, the SPI NOR bytes (part `n` at `n` × 64 MiB), the journal's values, the record in
force, the fuse pairs blown, the firmware authority hashes, whether VERIFY runs, the bytes downloaded, and the slots whose
content passes R413 apart from the rollback floor. -/
structure Boot where
  phase : Nat
  bootSel : Nat
  node : Nat
  nor : List Host.Cell
  journal : List (Nat × DVal)
  recd : BootRec
  fuses : Nat
  authorities : List (List Byte × Bool)
  verifying : Bool
  loaded : Nat
  good : Nat
deriving DecidableEq, Repr

/-- A regulated output (spec/19 R436 to R438): its number, state (0 off, 1 ramping, 2 on, 3 retry wait, 4 latched), restarts
made, when the ramp or the wait began, and whether it is to start again when its supply has recovered. -/
structure Rego where
  k : Nat
  state : Nat
  restarts : Nat
  at_ : Nat
  due : Bool
deriving DecidableEq, Repr

/-- The pins (spec/19): recent assertions of the warning inputs (pin, when), inputs held in their safe state, the raw levels
of the inputs, SB pins at high impedance before a function is taken, the functions taken, the indicator pins driven high,
the regulated outputs that are not off since the last start, low supplies (bit 0 VAUX, bit 1 VLAS_IN), THERMTRIP_N, whether PERST_N is
held, the JTAG instruction in force (0 IDCODE, 1 BYPASS, 2 SAMPLE/PRELOAD, 3 EXTEST). -/
structure Pins where
  asserts : List (Nat × Nat)
  storm : Nat
  raw : Nat
  floating : Nat
  funcs : List (Nat × Nat)
  lit : Nat
  rego : List Rego
  low : Nat
  trip : Bool
  perst : Bool
  jtag : Nat
deriving DecidableEq, Repr

def Pins.blank : Pins :=
  { asserts := [], storm := 0, raw := 0, floating := 0, funcs := [], lit := 0, rego := [], low := 0, trip := false, perst := false, jtag := 0 }

/-- A segmented write under way (spec/17 R398). -/
structure Session where
  path : DapPath
  index : Nat
  sub : Nat
  data : List Byte
  at_ : Nat
deriving DecidableEq, Repr

/-- A response kept for a repeated request (spec/17 R396). -/
structure Answer where
  path : DapPath
  tid : Nat
  svc : Nat
  index : Nat
  sub : Nat
  offset : Nat
  out : Output
deriving DecidableEq, Repr


/-! ### The state -/

/-- The block. -/
structure State where
  part : Part
  /-- Fabric time in nanoseconds (spec/13 R307). -/
  time : Nat
  /-- Every register a card defines, keyed by card and instance (`Sys2Proof.Machine.regKey`). -/
  regs : List (Nat × Word)
  shadows : List Shadow
  /-- Carafe, Urn and scratchpads by physical local offset (spec/01 R18). -/
  mem : List Host.Cell
  /-- Instruction memory: Facet `n` at `n` × 262,144 (spec/02 R30). -/
  imem : List Host.Cell
  /-- Drip activation SRAM: engine `e` at `e` × 2,097,152 (spec/05 R121). -/
  sram : List Host.Cell
  /-- Units whose memory has lost its contents: Facet `n`'s scratchpad at `n`, its instruction memory at 256 + `n`, engine
  `e`'s SRAM at 512 + `e`, with 1 + the number of the free value that stands for the bytes not written since. -/
  lost : List (Nat × Nat)
  /-- Hopper logical units by byte (spec/09 R207). -/
  hop : List Host.Cell
  /-- Host memory as the device's DMA sees it (spec/11 R244). -/
  host : List Host.Cell
  /-- First bytes of the ECC units that hold an uncorrectable error (spec/02 R40, spec/05 R120, R441). -/
  ucMem : List Nat
  ucImem : List Nat
  ucSram : List Nat
  /-- First bytes of the ECC units that hold a correctable error (spec/02 R40). -/
  ecMem : List Nat
  ecImem : List Nat
  ecSram : List Nat
  /-- Dictionary values and value tags, keyed by index and subindex (spec/17 R386, R397). -/
  dict : List (Nat × DVal)
  tags : List (Nat × Nat)
  errlog : List (Nat × LogEntry)
  /-- Entries each SOURCE has spent of its budget, and since when the refill of one runs (spec/14 R315). -/
  spent : List (Nat × Nat × Nat)
  subs : List Subscriber
  facets : List (Nat × Facet)
  /-- Groups by number: 2p + die for a partition's, 32 + f for a Facet on its own (spec/02 R34). -/
  groups : List (Nat × Group)
  unwaited : List Unwaited
  /-- Arc units of the Drip engines, by unit 256 + engine (spec/04 R115). -/
  engineArcs : List (Nat × EngineArc)
  /-- What stands in the table memory of an Arc unit: 0 nothing written since its reset, 1 the measured image, k + 2 what a
  write that did not match left, the free value k (spec/04 R101, R113, R114). -/
  arcTabs : List (Nat × Nat)
  /-- Words of 8 bytes of an Arc unit's table memory that hold an uncorrectable, or a correctable, error (spec/04 R101, R114). -/
  arcUc : List (Nat × Nat)
  arcEc : List (Nat × Nat)
  /-- Failed reloads of a unit since its tables were last valid, and the unit a test of every unit has reached, with whether one has failed
  (spec/04 R114, R115). -/
  arcFails : List (Nat × Nat)
  selfAll : Option (Nat × Bool)
  /-- Seam buffers by lane: column × 2 + direction (0 south, 1 north) (spec/02 R54). -/
  seams : List (Nat × List SeamXfer)
  /-- Descriptors taken and not completed, by ring: Drip engine e, or 32 + p for a copy ring. -/
  taken : List (Nat × List RingDesc)
  /-- Descriptors that a Drip engine has completed since the last one with FENCE started (spec/05 R131). -/
  past : List (Nat × List RingDesc)
  watches : List Watch
  /-- Regions from 0, grants from 4,096, reduction groups from 8,192. -/
  tables : List (Nat × Ent)
  routes : List (Nat × Route)
  ops : List FabOp
  xfers : List Xfer
  portTags : List (Nat × Nat)
  /-- By port, what it holds of its partner (spec/13 R287 to R289). -/
  links : List (Nat × Link)
  /-- When the last TEARDOWN was accepted, and its partition mask (spec/14 R326, R327). -/
  tearAt : Option Nat
  tearMask : Nat
  /-- Whether fabric time has locked since the last cold reset, the nanoseconds still to be slewed, and the ticks since the
  last slewed one (spec/13 R307). -/
  everLocked : Bool
  slew : Int
  slewTicks : Nat
  parts : List (Nat × Partition)
  leaves : List Leaf
  /-- Where the tables stand in the page-table pool, and the tables marked faulty: owner (partition, or 100 + slot), level and
  index (spec/07 R174, R175, R177). -/
  ptPlaces : List ((Nat × Nat × Nat) × Nat)
  tableFaulty : List (Nat × Nat × Nat)
  /-- Bytes of the page-table pool as re-formed at the last reset (spec/07 R175, R194). -/
  ptPool : Nat
  /-- GiB of the Mosaic shadow region as taken at the last reset (spec/07 R191). -/
  shadowGib : Nat
  holds : List Hold
  stages : List Stage
  moves : List Move
  /-- The low-water clocks' hands: partition × 8 + hint, or 1,000 + hint for the Urn (spec/07 R184). -/
  clocks : List (Nat × Nat)
  /-- Hopper logical units that have been lost, and stay unreadable until they are written (spec/09). -/
  hopLost : List Nat
  /-- Physical ranges that freed weight pages have left, until they are written over (spec/10 R224). -/
  wtLeft : List (Nat × Nat)
  flash : Flash
  /-- Segments that the Vertex Bloom units expand or have still to take, in arrival order (spec/08 R204). -/
  bloom : List BloomUse
  /-- A running EXPAND: source, destination, space (spec/08 R205). -/
  blmJob : Option (Nat × Nat × Nat)
  /-- The last cursor word read, by partition (spec/07 R187). -/
  cursor : List (Nat × Nat)
  kvPages : List KvPage
  ranges : List KvRange
  hashes : List HashEntry
  radix : List RadixNode
  /-- Tenants' salts, by the number of the free value that holds them; tenants whose salt is to be replaced (spec/06 R162). -/
  salts : List (Nat × Nat)
  saltDue : List Nat
  keys : List KeySlot
  gens : List Gen
  aslots : List ASlot
  jobs : List Job
  activations : List Activation
  tickets : List (Nat × Ticket)
  rails : List (Nat × Rail)
  rings : List (Nat × Ring)
  reasm : List Reassembly
  retired : List Retired
  kept : List Kept
  /-- Records waiting at a front port: port, address, UDP port, words (spec/11 R248). -/
  frontQ : List (Nat × Nat × Nat × List Nat)
  /-- The Mosaic shadows as this package has written them to its peers (spec/14 R320, R321). -/
  mosaic : Mosaic
  /-- Whether a package of the domain has been adopted since the reset, as this one knows from a RESUME after a TEARDOWN or from its own
  rebuild (spec/14 R324). -/
  adoptionSeen : Bool
  /-- The Vertex memories with an uncorrectable error (spec/14 R311): 0 region table, 1 grant table, 2 Ticket rail, 3 translation
  cache. -/
  ucVertex : List Nat
  /-- The adoption under way (spec/14 R333). -/
  adoption : Option Adoption
  /-- Dump copies by Hopper slot, newest last, whether the Urn's dump has been copied, and the slot being written, which becomes
  valid with its closing record (spec/14 R338, spec/09 R222). -/
  dumps : List (Nat × List Host.Cell)
  dumpCopied : Bool
  dumping : Option Nat
  /-- Drip engines halted through the Debug gate (spec/16 R373). -/
  dbgHeld : List Nat
  power : Power
  sec : Secure
  boot : Boot
  pins : Pins
  sessions : List Session
  answers : List Answer
  /-- When journal commits were made within the last second (spec/17 R390). -/
  commits : List Nat
  /-- The sequence number last taken from each inbox slot, and the answers to send (spec/17 R405). -/
  inbox : List (Nat × Nat)
  /-- The Apex mailbox buffers, function `n` at `n` × 4,096 (spec/16). -/
  apxReq : List Host.Cell
  apxRsp : List Host.Cell
  /-- The management island's own clock in nanoseconds, which no fabric time step moves (spec/15 R354). -/
  mclk : Nat
  uid : Nat
  out : List Output
  /-- The model's own counter behind the free values (DESIGN CHOICE, unsafe; log entry 2). -/
  freeCtr : Nat
  /-- The commands waiting, first in, first out. -/
  pending : List Instr
deriving DecidableEq, Repr

/-! ### Reset -/

/-- The part the model is run on: an LC part with EUI-48 base 0 (DESIGN CHOICE, unsafe; log entry 4). -/
def Part.lc : Part := ⟨false, 0, 0, 0⟩

/-- Cold reset held: nothing written anywhere, the straps not yet sampled (spec/18 R408, R416). What outlives a cold reset
(OTP, SPI NOR, sealed store) is as on a part that nothing has been done to (DESIGN CHOICE, unsafe; log entry 5). -/
def State.reset : State :=
  { part := Part.lc, time := 0, regs := [], shadows := [], mem := [], imem := [], sram := [], lost := [], hop := [], host := [], ucMem := [],
    ucImem := [], ucSram := [], ecMem := [], ecImem := [], ecSram := [], dict := [], tags := [], errlog := [], spent := [],
    subs := [], facets := [], groups := [], unwaited := [], engineArcs := [], arcTabs := [], arcUc := [], arcEc := [], arcFails := [], selfAll := none, seams := [],
    taken := [], past := [], watches := [], tables := [], routes := [], ops := [], xfers := [], portTags := [], links := [], tearAt := none, tearMask := 0,
    everLocked := false, slew := 0, slewTicks := 0, parts := [], leaves := [], ptPlaces := [], tableFaulty := [],
    ptPool := 2147483648, shadowGib := 384, holds := [], stages := [], moves := [], clocks := [], hopLost := [], wtLeft := [], flash := Flash.blank,
    bloom := [], blmJob := none, cursor := [], kvPages := [], ranges := [], hashes := [], radix := [], salts := [], saltDue := [],
    keys := [], gens := [], aslots := [], jobs := [], activations := [], tickets := [], rails := [], rings := [], reasm := [],
    retired := [], kept := [], frontQ := [], mosaic := Mosaic.blank, adoptionSeen := false, ucVertex := [], adoption := none, dumps := [], dumpCopied := false, dumping := none, dbgHeld := [], power := Power.blank,
    sec :=
      { life := 1, uds := true, authorities := Config.debugAuthorities, password := none, fails := 0, locked := false, lockedAt := 0, wait := 0, nonce := none,
        level := 0, mask := 0, duration := 0, openedAt := 0, opening := none, slots := List.replicate 16 (zeros 48), transcript := [], urnKey := [], hopKey := [] }
    boot :=
      { phase := 0, bootSel := 0, node := 0, nor := [], journal := [], recd := ⟨0, 0, 0, 0, false, 0⟩, fuses := 0,
        authorities := Config.firmwareAuthorities, verifying := false, loaded := 0, good := 0 }
    pins := Pins.blank, sessions := [], answers := [], commits := [], inbox := [], apxReq := [], apxRsp := [], mclk := 0,
    uid := 0, out := [], freeCtr := 0, pending := [] }

/-! ### How a step can stop -/

/-- Why a step faults. No command of this block faults: what the spec leaves undefined is a free value, and what it
rejects is a next state. -/
inductive Fault where
  /-- Raised by nobody: the type needs a constructor. Safe. -/
  | none
deriving DecidableEq, Repr

/-- Why a command is refused. -/
inductive Refusal where
  /-- Raised by a dispatch arm of a command that has no meaning yet. Safe: the run stops. -/
  | notModelled (mnemonic : String)
deriving DecidableEq, Repr

end Sys2Proof.Machine
end

