-- ==== Sys2Proof/Machine/Ops.lean ====
section
/-! DEFINITION. The named operations over the state: registers, dictionary values, memories with their error correction,
events and the error log. -/

namespace Sys2Proof.Machine

/-! ### Registers -/

/-- The key of instance `i` of a card in the register file. -/
def regKey (c : Card) (i : Nat) : Nat := cardIdx c * 1048576 + i

/-- What a register reads that nothing has written since reset: its card's Reset column (spec/00 R7). -/
def regDefault (k : Nat) : Word := cardReset (cardOf (k / 1048576))

/-- A register as it is stored. -/
def State.rd (s : State) (c : Card) (i : Nat) : Word := Sparse.get regDefault s.regs (regKey c i)

def State.wr (s : State) (c : Card) (i : Nat) (w : Word) : State :=
  { s with regs := Sparse.put regDefault s.regs (regKey c i) w }

/-- A field of a register as a number. -/
def State.gf (s : State) (f : Fld) (i : Nat) : Nat := bits (s.rd f.card i).toNat f.hi f.lo

/-- Set a field of a register, whatever its access code: the device's own update. -/
def State.sf (s : State) (f : Fld) (i v : Nat) : State :=
  s.wr f.card i (BitVec.ofNat 32 (putBits (s.rd f.card i).toNat f.hi f.lo v))

/-- A pair of registers as one number. -/
def State.pair (s : State) (lo hi : Card) (i : Nat) : Nat := (s.rd lo i).toNat + (s.rd hi i).toNat * 4294967296

def State.setPair (s : State) (lo hi : Card) (i v : Nat) : State :=
  (s.wr lo i (BitVec.ofNat 32 v)).wr hi i (BitVec.ofNat 32 (v / 4294967296))

/-- Return every instance `i` of the cards that `sel` selects to its reset value (spec/00 R10). -/
def State.resetRegs (s : State) (sel : Card → Nat → Bool) : State :=
  { s with regs := Sparse.drop (fun k => sel (cardOf (k / 1048576)) (k % 1048576)) s.regs }

/-! ### Shape of the part (spec/00 R3, R4; spec/05 R121) -/

/-- IDENT_PART: its VARIANT is fixed at manufacture, so no reset changes it (spec/00 R6, R7). -/
def State.identPart (s : State) : Word :=
  BitVec.ofNat 32 (putBits (s.rd .identPart 0).toNat R.identPart_VARIANT.hi R.identPart_VARIANT.lo (b2n s.part.ld))

def State.cols (s : State) : Nat := if s.part.ld then 15 else 16
def State.facetCount (s : State) : Nat := 16 * s.cols
def State.stackCount (s : State) : Nat := if s.part.ld then 7 else 8
def State.engineCount (s : State) : Nat := 4 * s.stackCount

/-- The Lattice die of a Facet by logical index: mesh rows 0 to 7 are die 0. -/
def State.dieOf (s : State) (f : Nat) : Nat := f / s.cols / 8

/-- Physical stack of a logical one, and the Lattice die it is attached to (spec/01 R11, R12). -/
def State.physStack (s : State) (k : Nat) : Nat := if s.part.ld ∧ k ≥ s.part.disStack then k + 1 else k
def State.engineDie (s : State) (e : Nat) : Nat := s.physStack (e / 4) / 4

/-! ### Small updates -/

def State.emit (s : State) (o : Output) : State := { s with out := s.out ++ [o] }

def State.modBoot (s : State) (f : Boot → Boot) : State := { s with boot := f s.boot }

def State.emits (s : State) (os : List Output) : State := { s with out := s.out ++ os }

/-- Facet cycles pass with time: the counter of a group none of whose members issues goes on by a number of cycles that nothing
states (spec/02 R34; log entry 24). -/
def State.spin (s : State) : State :=
  { s with groups := s.groups.map (fun g => match g.2.idle with
      | some k => (g.1, { g.2 with gcc := g.2.gcc + Config.freeVal k s.mclk })
      | none => g) }

/-- An event that comes when a time has passed: where the clock has not got there, the idle time before it passes now
(DESIGN CHOICE, unsafe; log entry 20). -/
def State.until (s : State) (t : Nat) : State :=
  if s.time < t then State.spin { s with time := t, mclk := s.mclk + (t - s.time) } else s

/-- The same by the management island's own clock. -/
def State.untilM (s : State) (t : Nat) : State :=
  if s.mclk < t then State.spin { s with mclk := t, time := s.time + (t - s.mclk) } else s

/-- A frame on a near port: the sideband pins with the fabric activity indicator are driven high (spec/19 R431). -/
def State.portFrame (s : State) (n : Nat) : State :=
  if n ≥ 24 then s else
  let dark := (s.pins.funcs.filter (fun x => x.2 == 4 && !bit s.pins.lit x.1)).map Prod.fst
  { s with
    pins := { s.pins with lit := dark.foldl (fun m k => m ||| 2 ^ k) s.pins.lit }
    out := s.out ++ dark.map (fun k => .pin "SB" k true) }

/-- Send a frame, or a link-layer message, on a port. -/
def State.sendOut (s : State) (n : Nat) (o : Output) : State := (s.portFrame n).emit o

/-- Draw a free value: its number, and the state with the counter advanced. -/
def State.fresh (s : State) : Nat × State := (s.freeCtr, { s with freeCtr := s.freeCtr + 1 })

/-- A fresh operation number. -/
def State.newUid (s : State) : Nat × State := (s.uid, { s with uid := s.uid + 1 })

def State.facet (s : State) (f : Nat) : Facet := Sparse.get (fun _ => Facet.blank) s.facets f

def State.setFacet (s : State) (f : Nat) (x : Facet) : State :=
  { s with facets := Sparse.put (fun _ => Facet.blank) s.facets f x }

def State.modFacet (s : State) (f : Nat) (g : Facet → Facet) : State := s.setFacet f (g (s.facet f))

def State.prt (s : State) (p : Nat) : Partition := Sparse.get (fun _ => Partition.free) s.parts p

def State.setPrt (s : State) (p : Nat) (x : Partition) : State :=
  { s with parts := Sparse.put (fun _ => Partition.free) s.parts p x }

def State.modPrt (s : State) (p : Nat) (g : Partition → Partition) : State := s.setPrt p (g (s.prt p))

def State.rail (s : State) (p : Nat) : Rail := Sparse.get (fun _ => Rail.blank) s.rails p

def State.setRail (s : State) (p : Nat) (x : Rail) : State := { s with rails := Sparse.put (fun _ => Rail.blank) s.rails p x }

def State.modRail (s : State) (p : Nat) (g : Rail → Rail) : State := s.setRail p (g (s.rail p))

/-! ### Dictionary values (spec/17 R386, R397) -/

def State.dval (s : State) (index sub : Nat) : DVal := Sparse.get dictDefault s.dict (dkey index sub)

/-- An entry's value as a number. -/
def State.dnum (s : State) (index sub : Nat) : Nat :=
  match s.dval index sub with
  | .num n => n
  | .oct l => leNat l

/-- An entry's value as octets. -/
def State.doct (s : State) (index sub : Nat) : List Byte :=
  match s.dval index sub with
  | .num n => natLE 8 n
  | .oct l => l

/-- Store a value; the entry's 32-bit value tag advances when it changes (spec/17 R397). -/
def State.setD (s : State) (index sub : Nat) (v : DVal) : State :=
  if s.dval index sub = v then s else
  let k := dkey index sub
  { s with
    dict := Sparse.put dictDefault s.dict k v
    tags := Sparse.put (fun _ => 0) s.tags k ((Sparse.get (fun _ => 0) s.tags k + 1) % 4294967296) }

def State.setN (s : State) (index sub n : Nat) : State := s.setD index sub (.num n)

/-- Count an event in a dictionary counter (spec/17 R407: 0x8010 to 0x8050), a U64 or U32. -/
def State.bump (s : State) (index sub : Nat) : State := s.setN index sub ((s.dnum index sub + 1) % 18446744073709551616)

def State.bumpBy (s : State) (index sub n : Nat) : State :=
  s.setN index sub ((s.dnum index sub + n) % 18446744073709551616)

/-! ### Events (spec/17 R399, R400) -/

/-- Send the events a subscriber may have outstanding: the first four of its queue (R400). -/
def sendQueue (q : List Ev) (n : Nat) : List Ev × List Ev :=
  match q, n with
  | [], _ => ([], [])
  | q, 0 => (q, [])
  | e :: t, n + 1 =>
    let r := sendQueue t n
    if e.sent then (e :: r.1, r.2) else ({ e with sent := true } :: r.1, { e with sent := true } :: r.2)

/-- Queue one event for one subscriber: the new subscriber, whether it was dropped, and what is sent now. -/
def Subscriber.push (u : Subscriber) (cls time : Nat) (detail : List Byte) : Subscriber × Bool × List Output :=
  if u.queue.length ≥ 64 then ({ u with lost := true }, true, [])
  else
    let ev : Ev := ⟨u.next, cls, time, detail, u.lost, 0, false⟩
    let q := u.queue ++ [ev]
    match u.path with
    | .mailbox fn =>
      ({ u with next := u.next + 1, queue := q, lost := false }, false, if u.queue.isEmpty then [.msix fn 2] else [])
    | path =>
      let r := sendQueue q 4
      ({ u with next := u.next + 1, queue := r.1, lost := false }, false, r.2.map (fun e => .event path e))

/-- Queue an event for every subscriber whose mask names the class, or for all of them (R399, R400). -/
def State.pushEvent (s : State) (cls : Nat) (detail : List Byte) (all : Bool) : State :=
  s.subs.foldl (fun (t : State) (u : Subscriber) =>
    if all || bit u.mask cls then
      let r := u.push cls s.time detail
      have t : State := { t with subs := t.subs.map (fun v => if v.path = u.path then r.1 else v), out := t.out ++ r.2.2 }
      have t : State := match u.path with
        | .mailbox fn => t.sf R.dictStat_EVTPEND fn 1
        | _ => t
      if r.2.1 then t.bump 0x8050 2 else t
    else t) s

/-! ### The error log (spec/14 R312 to R316) -/

/-- An entry as four little-endian 64-bit words (R312). -/
def LogEntry.bytes (e : LogEntry) : List Byte :=
  natLE 8 e.first ++ natLE 8 e.last ++
  natLE 8 (e.source + e.code * 2 ^ 16 + e.cls * 2 ^ 24 + e.part * 2 ^ 26 + b2n e.partv * 2 ^ 30 + b2n e.valid * 2 ^ 31
    + e.count * 2 ^ 32 + e.seq * 2 ^ 48) ++
  natLE 8 e.detail

def State.logAt (s : State) (i : Nat) : LogEntry := Sparse.get (fun _ => LogEntry.blank) s.errlog (i % 1024)

/-- SOURCE of a kind and index (R313). -/
def source (kind index : Nat) : Nat := kind * 4096 + index % 4096

/-- The CODE of a report for which the spec names the kind and no code (DESIGN CHOICE, unsafe; log entry 63). -/
def unstatedCode (k : Nat) : Nat := Config.openCode k % 256

/-- How many entries ago an entry was written. -/
def State.logAge (s : State) (e : LogEntry) : Nat := (s.gf R.errlogPtr_WR 0 + 65535 - e.seq) % 65536

/-- The newest entry of a SOURCE (R314). -/
def State.newestOf (s : State) (src : Nat) : Option (Nat × LogEntry) :=
  s.errlog.foldl (fun acc x =>
    if x.2.valid && x.2.source == src then
      match acc with
      | none => some x
      | some y => if s.logAge x.2 < s.logAge y.2 then some x else acc
    else acc) none

/-- Entries written and not consumed: WR - RD of function 0 (R316). -/
def State.logUsed (s : State) : Nat := (s.gf R.errlogPtr_WR 0 + 65536 - s.gf R.errlogPtr_RD 0) % 65536

/-- Entries a SOURCE has spent of its burst (R315), and the time since which the refill of one runs. -/
def State.spentSince (s : State) (src : Nat) : Nat × Nat := Sparse.get (fun _ => (0, 0)) s.spent src
def State.spentOf (s : State) (src : Nat) : Nat := (s.spentSince src).1

def State.setSpent (s : State) (src n since : Nat) : State :=
  { s with spent := Sparse.put (fun _ => (0, 0)) s.spent src (if n = 0 then (0, 0) else (n, since)) }

/-- The event classes a new entry is sent under (spec/17 R399): 5 for CLASS 1 and 2; 2, 3, 4 by the board's code; 6 for
the Apex core. -/
def entryEvents (e : LogEntry) : List Nat :=
  let kind := e.source / 4096
  (if e.cls ≥ 1 then [5] else []) ++
  (if kind = 0xB ∧ (e.code = 0x01 ∨ e.code = 0x11 ∨ e.code = 0x12) then [2] else []) ++
  (if kind = 0xB ∧ (e.code = 0x21 ∨ e.code = 0x22) then [3] else []) ++
  (if kind = 0xB ∧ e.code = 0x13 then [4] else []) ++
  (if kind = 0x9 then [6] else [])

/-- Write a new entry: WR advances, the entry is counted, MSI-X vector 1 of function 0 if enabled, events (R312, R316). -/
def State.logWrite (s : State) (e : LogEntry) : State :=
  let wr := s.gf R.errlogPtr_WR 0
  let e := { e with seq := wr }
  have s : State := { s with errlog := Sparse.put (fun _ => LogEntry.blank) s.errlog (wr % 1024) e }
  have s : State := s.sf R.errlogPtr_WR 0 (wr + 1)
  have s : State := s.bump 0x8025 1
  have s : State := if s.gf R.errlogCfg_IE 0 = 1 then s.emit (.msix 0 1) else s
  (entryEvents e).foldl (fun (t : State) c => t.pushEvent c e.bytes false) s

/-- Count a report that is not recorded. -/
def State.logLost (s : State) (lo hi : Card) : State := s.setPair lo hi 0 (s.pair lo hi 0 + 1)

/-- One report of a detected error: it coalesces, or meets the budget, or meets the ring, in that order (R314 to R316). -/
def State.report (s : State) (src code cls : Nat) (part : Option Nat) (detail : Nat) : State :=
  let fresh : LogEntry := ⟨s.time, s.time, 0, 1, true, part.isSome, part.getD 0, cls, code, src, detail⟩
  let merge : Option (Nat × LogEntry) := match s.newestOf src with
    | none => none
    | some x =>
      if cls ≠ 2 ∧ x.2.cls = cls ∧ x.2.partv = fresh.partv ∧ x.2.part = fresh.part ∧ x.2.detail = detail ∧ x.2.code = code
        ∧ s.logAge x.2 < s.logUsed ∧ s.time ≤ x.2.last + s.dnum 0x8023 1 * 1000000
      then some x else none
  match merge with
  | some x =>
    let e := { x.2 with count := min 65535 (x.2.count + 1), last := s.time }
    ({ s with errlog := Sparse.put (fun _ => LogEntry.blank) s.errlog x.1 e }).bump 0x8025 2
  | none =>
    if cls ≠ 2 ∧ s.spentOf src ≥ s.dnum 0x8023 3 then s.logLost .errlogOvfRateLo .errlogOvfRateHi
    else if cls ≠ 2 ∧ s.logUsed ≥ 1024 then s.logLost .errlogOvfFullLo .errlogOvfFullHi
    else if cls = 2 then
      have s : State := if s.logUsed ≥ 1024 then
          (s.logLost .errlogOvfFullLo .errlogOvfFullHi).sf R.errlogPtr_RD 0 (s.gf R.errlogPtr_RD 0 + 1)
        else s
      s.logWrite fresh
    else
      (s.setSpent src (s.spentOf src + 1) (if s.spentOf src = 0 then s.time else (s.spentSince src).2)).logWrite fresh

/-- FLT_STAT.STATE; a change sends a FAULT event (spec/17 R399). -/
def State.setFlt (s : State) (v : Nat) : State :=
  if s.gf R.fltStat_STATE 0 = v then s else
  have s : State := s.sf R.fltStat_STATE 0 v
  s.pushEvent 8 (natLE 4 (s.rd .fltStat 0).toNat ++ zeros 28) false

/-! ### Memories and their error correction (spec/01 R18; spec/02 R40; spec/05 R120, R441) -/

def zeroByte : Nat → Byte := fun _ => 0

/-- Bases of the local offset map (R18). -/
def urnBase : Nat := 0x010000000000
def apertureBase : Nat := 0x020000000000
def tieredBase : Nat := 0x200000000000
def kvBase : Nat := 0x400000000000

/-- Local offset of byte `b` of Facet `f`'s scratchpad (R18). -/
def spAddr (f b : Nat) : Nat := apertureBase + f * 0x200000 + b

/-- The ECC unit's size at a physical local offset: 8 bytes in a scratchpad, 32 in Carafe; 64 in the Urn, whose unit the
spec leaves to the controller (R441; DEDUCED, unsafe; log entry 10). -/
def unitSize (a : Nat) : Nat := if a ≥ apertureBase then 8 else if a ≥ urnBase then 64 else 32

def unitBase (a : Nat) : Nat := a - a % unitSize a

/-- The units of `uc` that `n` bytes from `a` touch. -/
def hits (size : Nat → Nat) (uc : List Nat) (a n : Nat) : List Nat :=
  uc.filter (fun u => decide (u < a + n) && decide (a < u + size u))

/-- The units of `uc` that `n` bytes from `a` cover whole. -/
def covered (size : Nat → Nat) (a n : Nat) (u : Nat) : Bool := decide (a ≤ u) && decide (u + size u ≤ a + n)

/-- What a byte of a unit's memory that is not listed reads as: 0, or a free byte once the unit has lost its contents. -/
def lostByte (l : List (Nat × Nat)) (key a : Nat) : Byte :=
  match Sparse.get (fun _ => 0) l key with
  | 0 => 0
  | k + 1 => BitVec.ofNat 8 (Config.freeVal k a)

def State.memD (s : State) (a : Nat) : Byte :=
  if a < apertureBase ∨ (a - apertureBase) / 0x200000 ≥ 256 then 0 else lostByte s.lost ((a - apertureBase) / 0x200000) a
def State.imemD (s : State) (a : Nat) : Byte := if a / 262144 ≥ 256 then 0 else lostByte s.lost (256 + a / 262144) a
def State.sramD (s : State) (a : Nat) : Byte := lostByte s.lost (512 + a / 2097152) a

/-- The bytes a write leaves: a partial write does not take effect in a unit that holds an uncorrectable error (R441). -/
def maskWrite (size : Nat → Nat) (bad : List Nat) (old : Nat → Byte) (a : Nat) : List Byte → List Byte
  | [] => []
  | b :: t => (if bad.any (fun u => decide (u ≤ a) && decide (a < u + size u)) then old a else b) ::
      maskWrite size bad old (a + 1) t

/-- A memory after a write, its uncorrectable units after it, and the units the write failed in (R441). -/
def writeEcc (dflt : Nat → Byte) (size : Nat → Nat) (m : List Host.Cell) (uc : List Nat) (a : Nat) (bs : List Byte) :
    List Host.Cell × List Nat × List Nat :=
  let bad := (hits size uc a bs.length).filter (fun u => !covered size a bs.length u)
  let bs' := if bad.isEmpty then bs else maskWrite size bad (Sparse.get dflt m) a bs
  (Sparse.blit dflt m a bs', uc.filter (fun u => !covered size a bs.length u), bad)

def State.readMem (s : State) (a n : Nat) : List Byte := Sparse.gets s.memD s.mem a n

/-- Whether a read of `n` bytes at `a` meets an uncorrectable unit. -/
def State.ucAt (s : State) (a n : Nat) : List Nat := hits unitSize s.ucMem a n

/-- Note a write of `n` bytes at `a` in the bytes that running operations read. -/
def markWatches (l : List Watch) (a n : Nat) : List Watch :=
  l.map (fun w => if w.lo < a + n ∧ a < w.lo + w.len then { w with hit := true } else w)

/-- Write bytes at a physical local offset: the state and the units in which the write failed. -/
def State.writeMem (s : State) (a : Nat) (bs : List Byte) : State × List Nat :=
  let r := writeEcc s.memD unitSize s.mem s.ucMem a bs
  ({ s with
     mem := r.1, ucMem := r.2.1, ecMem := s.ecMem.filter (fun u => !covered unitSize a bs.length u)
     watches := markWatches s.watches a bs.length }, r.2.2)

/-- The listed bytes of a range, renumbered from 0. -/
def State.sliceMem (s : State) (a n : Nat) : List Host.Cell :=
  if s.lost.isEmpty then Sparse.slice s.mem a n else Sparse.listing zeroByte 0 (s.readMem a n)

/-- Zero a range of Carafe or the Urn with valid check bits (spec/18 R440). -/
def State.zeroMem (s : State) (a n : Nat) : State :=
  { s with
    mem := Sparse.erase s.mem a n
    ucMem := s.ucMem.filter (fun u => !(decide (a ≤ u) && decide (u < a + n)))
    ecMem := s.ecMem.filter (fun u => !(decide (a ≤ u) && decide (u < a + n)))
    watches := markWatches s.watches a n }

def size8 : Nat → Nat := fun _ => 8

/-- A list of ECC units without those in `n` bytes from `a`. -/
def clearUnits (l : List Nat) (a n : Nat) : List Nat := l.filter (fun u => !(decide (a ≤ u) && decide (u < a + n)))

/-- Give up the contents of a Facet's scratchpad: `v` is 0 when it is zeroed, 1 + a free value's number when they are lost (no mesh has a Facet above 255). -/
def State.clearScratch (s : State) (f v : Nat) : State :=
  if f ≥ 256 then s else
  { s with
    mem := Sparse.erase s.mem (spAddr f 0) 0x200000
    lost := Sparse.put (fun _ => 0) s.lost f v
    ucMem := clearUnits s.ucMem (spAddr f 0) 0x200000
    ecMem := clearUnits s.ecMem (spAddr f 0) 0x200000 }

/-- The same of its instruction memory. -/
def State.clearImem (s : State) (f v : Nat) : State :=
  if f ≥ 256 then s else
  { s with
    imem := Sparse.erase s.imem (f * 262144) 262144
    lost := Sparse.put (fun _ => 0) s.lost (256 + f) v
    ucImem := clearUnits s.ucImem (f * 262144) 262144
    ecImem := clearUnits s.ecImem (f * 262144) 262144 }

/-- The same of an engine's activation SRAM. -/
def State.clearSram (s : State) (e v : Nat) : State :=
  { s with
    sram := Sparse.erase s.sram (e * 2097152) 2097152
    lost := Sparse.put (fun _ => 0) s.lost (512 + e) v
    ucSram := clearUnits s.ucSram (e * 2097152) 2097152
    ecSram := clearUnits s.ecSram (e * 2097152) 2097152 }

/-- Instruction memory in the list of results that nothing has waited for: it lies apart from the local offset map. -/
def imemAt (f : Nat) : Nat := 2 ^ 60 + f * 262144

/-- Whether two ranges of bytes share one. -/
def overlaps (a n b m : Nat) : Bool := decide (a < b + m) && decide (b < a + n)

def State.readImem (s : State) (f b n : Nat) : List Byte := Sparse.gets s.imemD s.imem (f * 262144 + b) n

def State.writeImem (s : State) (f b : Nat) (bs : List Byte) : State × List Nat :=
  let a := f * 262144 + b
  let r := writeEcc s.imemD size8 s.imem s.ucImem a bs
  ({ s with imem := r.1, ucImem := r.2.1, ecImem := s.ecImem.filter (fun u => !covered size8 a bs.length u) }, r.2.2)

def State.readSram (s : State) (e b n : Nat) : List Byte := Sparse.gets s.sramD s.sram (e * 2097152 + b) n

def State.writeSram (s : State) (e b : Nat) (bs : List Byte) : State × List Nat :=
  let a := e * 2097152 + b
  let r := writeEcc s.sramD size8 s.sram s.ucSram a bs
  ({ s with sram := r.1, ucSram := r.2.1, ecSram := s.ecSram.filter (fun u => !covered size8 a bs.length u) }, r.2.2)

/-- The package's own identifier as it stands (spec/01 R20), and an FGA of it. -/
def State.pkg (s : State) : Nat := s.gf R.identPkgid_PKG_ID 0

def State.fga (s : State) (off : Nat) : Nat := s.pkg * 2 ^ 49 + off

/-- The SOURCE and CODE of an uncorrectable error of the memory at a physical local offset (R40, R120; spec/14 R313; the
Urn channel is offset bits [11:8], spec/07 R191). -/
def ucSource (a : Nat) : Nat × Nat :=
  if a ≥ apertureBase then (source 0 ((a - apertureBase) / 0x200000), 0x0A)
  else if a ≥ urnBase then (source 3 (bits a 11 8), 0x02)
  else (source 2 (a / 0x1000000000), 0x02)

/-- Report an uncorrectable unit of memory, with the FGA in DETAIL. -/
def State.reportUc (s : State) (a : Nat) (part : Option Nat) : State :=
  let sc := ucSource a
  have s : State := if a < urnBase then s.bump 0x8013 2 else s
  s.report sc.1 sc.2 1 part (s.fga a)

/-- Report the corrected errors that a read met (R40, R120). -/
def State.reportEc (s : State) (a n : Nat) : State :=
  (hits unitSize s.ecMem a n).foldl (fun (t : State) u =>
    if u ≥ apertureBase then t.report (source 0 ((u - apertureBase) / 0x200000)) 0x40 0 none (t.fga u)
    else if u ≥ urnBase then t.report (source 3 (bits u 11 8)) 0x01 0 none (t.fga u)
    else (t.bump 0x8013 1).report (source 2 (u / 0x1000000000)) 0x01 0 none (t.fga u)) s

/-- `n` free bytes. -/
def freeBytes (k n : Nat) : List Byte := (List.range n).map (fun i => BitVec.ofNat 8 (Config.freeVal k i))

/-! ### Bytes that a running operation reads (spec/05 R140; spec/06 R160; spec/08 R206) -/

/-- Watch ranges for part `idx` of an operation. -/
def State.watch (s : State) (owner : Option Nat) (idx : Nat) (l : List (Nat × Nat)) : State :=
  { s with watches := s.watches ++ l.map (fun x => ⟨owner, idx, x.1, x.2, false⟩) }

/-- The written ranges of part `idx`, and the parts of which some have been written. -/
def State.hitsOf (s : State) (owner : Option Nat) (idx : Nat) : List (Nat × Nat) :=
  (s.watches.filter (fun w => w.hit && decide (w.owner = owner) && w.idx == idx)).map (fun w => (w.lo, w.len))
def State.hitParts (s : State) (owner : Option Nat) : List Nat :=
  ((s.watches.filter (fun w => w.hit && decide (w.owner = owner))).map (fun w => w.idx)).eraseDups

def State.unwatch (s : State) (owner : Option Nat) : State :=
  { s with watches := s.watches.filter (fun w => decide (w.owner ≠ owner)) }

/-- The canonical form of every memory: addresses strictly rising, no entry equal to what an unlisted address reads as. -/
def Memory.wf (s : State) : Bool :=
  Sparse.wf s.memD s.mem && Sparse.wf s.imemD s.imem && Sparse.wf s.sramD s.sram && Sparse.wf zeroByte s.hop &&
  Sparse.wf zeroByte s.host && Sparse.wf zeroByte s.boot.nor && Sparse.wf zeroByte s.apxReq && Sparse.wf zeroByte s.apxRsp

/-! ### Who owns what (spec/12 R261 to R266) -/

/-- Partition states (PART_STAT.STATE). -/
def State.pstate (s : State) (p : Nat) : Nat := s.gf R.partStat_STATE p

/-- The rectangle of a PART_SHAPE word: first row, last row, first column, last column. -/
def rectOf (w : Nat) : Nat × Nat × Nat × Nat :=
  (bits w 15 12, bits w 15 12 + bits w 11 8, bits w 7 4, bits w 7 4 + bits w 3 0)

/-- Whether logical Facet `f` lies in a rectangle. -/
def State.inRect (s : State) (w f : Nat) : Bool :=
  let r := rectOf w
  let row := f / s.cols
  let col := f % s.cols
  decide (f < s.facetCount) && decide (r.1 ≤ row) && decide (row ≤ r.2.1) && decide (r.2.2.1 ≤ col) && decide (col ≤ r.2.2.2)

/-- Whether Facet `f` belongs to partition `p` (formed). -/
def State.facetIn (s : State) (p f : Nat) : Bool := decide (s.pstate p ≠ 0) && s.inRect (s.prt p).shape f

/-- The first of the partitions 0 to 15 that satisfies `q`. -/
def findPart (q : Nat → Bool) : Option Nat := (List.range 16).find? q

/-- The partition a Facet belongs to: one that is not SAVED first (spec/12 R266); none is the free domain (R442). -/
def State.facetPart (s : State) (f : Nat) : Option Nat :=
  match findPart (fun p => s.facetIn p f && decide (s.pstate p ≠ 4)) with
  | some p => some p
  | none => findPart (fun p => s.facetIn p f)

/-- Whether engine `e` is in the share of formed partition `p`. -/
def State.engineIn (s : State) (p e : Nat) : Bool := decide (s.pstate p ≠ 0) && bit (s.prt p).mask e

def State.enginePart (s : State) (e : Nat) : Option Nat :=
  match findPart (fun p => s.engineIn p e && decide (s.pstate p ≠ 4)) with
  | some p => some p
  | none => findPart (fun p => s.engineIn p e)

/-- The engines of a mask, ascending (R262). -/
def engineList (mask : Nat) : List Nat := (List.range 32).filter (fun e => bit mask e)

/-- The Facets of a partition, ascending. -/
def State.facetsOf (s : State) (p : Nat) : List Nat := (List.range s.facetCount).filter (fun f => s.inRect (s.prt p).shape f)

/-- Whether a Facet or an engine of `p` belongs to another partition that has been formed on it since `p` was saved
(spec/12 R266): no reset of `p` reaches it (spec/00 R10), and nothing of `p` accesses it (R267). -/
def State.facetTaken (s : State) (p f : Nat) : Bool :=
  (List.range 16).any (fun q => q != p && s.pstate q != 4 && s.facetIn q f)
def State.engineTaken (s : State) (p e : Nat) : Bool :=
  (List.range 16).any (fun q => q != p && s.pstate q != 4 && s.engineIn q e)

/-- The partition of a virtual function: VF 1 to 16 serve partitions 0 to 15 (DEDUCED, unsafe; log entry 11). -/
def vfPart (n : Nat) : Nat := n - 1

/-! ### Scoreboard counters (spec/02 R55, R56) -/

def maxCount : Nat := 16777215

/-- Add to a counter; a sum that would pass 0xFF_FFFF leaves it there and sets SAT (R55, R56). -/
def State.sbAdd (s : State) (f c n : Nat) : State :=
  let i := f * 64 + c
  let v := s.gf R.fctSb_COUNT i + n
  if v > maxCount then (s.sf R.fctSb_COUNT i maxCount).sf R.fctSb_SAT i 1 else s.sf R.fctSb_COUNT i v

/-- One increment, with ERR when the operation ended in error (R55). -/
def State.sbInc (s : State) (f c : Nat) (err : Bool) : State :=
  have s : State := s.sbAdd f c 1
  if err then s.sf R.fctSb_ERR (f * 64 + c) 1 else s

end Sys2Proof.Machine
end

