-- ==== Sys2Proof/Machine/Operands.lean ====
section
/-! DEFINITION. Addresses and rights: the local offset map (spec/01 R17 to R20), the access map (spec/12 R265, R442),
translation and residency (spec/06 R146, R147; spec/07 R173 to R178), and the fabric statuses they end in
(spec/13 R296). -/

namespace Sys2Proof.Machine

/-! ### Statuses (spec/13 R296) -/

def stOk : Nat := 0x00
def stNoGrant : Nat := 0x01
def stUnreachable : Nat := 0x02
def stEpoch : Nat := 0x03
def stBadOp : Nat := 0x04
def stKey : Nat := 0x05
def stRights : Nat := 0x06
def stBounds : Nat := 0x07
def stAccess : Nat := 0x08
def stNotMapped : Nat := 0x09
def stReadOnly : Nat := 0x0A
def stNotResident : Nat := 0x0B
def stPreempted : Nat := 0x0C
def stMedia : Nat := 0x0D
def stTableUc : Nat := 0x0E
def stTimeout : Nat := 0x0F
def stLinkDown : Nat := 0x10
def stReduce : Nat := 0x11

/-! ### FGAs (R17, R20) -/

def fgaPkg (a : Nat) : Nat := bits a 63 49
def fgaOff (a : Nat) : Nat := bits a 48 0

/-- Whether an FGA names the device's own package, VALID or not (R20). -/
def State.own (s : State) (a : Nat) : Bool := decide (fgaPkg a = s.pkg)

/-! ### The local offset map (R18, R19) -/

/-- A row of the local offset map, with the Facet of an aperture slot or the ticket slot of a key-value range. -/
inductive Region where
  | carafe | urn
  | scratch (f : Nat)
  | tiered
  | kv (slot : Nat)
  | none
deriving DecidableEq, Repr

def State.carafeSize (s : State) : Nat := s.stackCount * 0x1000000000

/-- The row in which `n` bytes from `off` lie whole; `none` where R19 refuses them. -/
def State.region (s : State) (off n : Nat) : Region :=
  if off + n ≤ s.carafeSize then .carafe
  else if urnBase ≤ off ∧ off + n ≤ apertureBase then .urn
  else if apertureBase ≤ off ∧ off + n ≤ 0x020020000000 then
    let f := (off - apertureBase) / 0x200000
    if f < s.facetCount ∧ (off - apertureBase) % 0x200000 + n ≤ 1572864 then .scratch f else .none
  else if tieredBase ≤ off ∧ off + n ≤ kvBase then .tiered
  else if kvBase ≤ off ∧ off + n ≤ 0x1400000000000 then
    let k := (off - kvBase) / 0x1000000000
    if (off - kvBase) % 0x1000000000 + n ≤ 0x1000000000 then .kv k else .none
  else .none

/-! ### Reserved Carafe space, frames (spec/07 R175; spec/12 R263; DESIGN CHOICE, unsafe; log entry 12) -/

/-- The first byte of the space the device keeps for itself at the top of Carafe: the page-table pool, and below it
1 GiB for the rail, token, radix and index stores and the fabric inbox. -/
def State.reservedFrom (s : State) : Nat := s.carafeSize - s.ptPool - 0x40000000

/-- The fabric inbox's local offset (spec/17 R405, 0x4006:01). -/
def State.inboxBase (s : State) : Nat := s.reservedFrom

/-- Frames of 2 MiB that partition `p` holds carved. -/
def Partition.frames (x : Partition) : List Nat :=
  x.kvPool ++ x.tierAll ++ (if x.tcount = 0 then [] else [x.stepFrame]) ++ x.save

/-- Whether a frame is carved by any partition. -/
def State.carved (s : State) (fr : Nat) : Bool := s.parts.any (fun x => x.2.frames.contains fr)

/-- AMAP entry `n` of partition `p`: base offset, end, read and write rights, when enabled. -/
def State.amap (s : State) (p n : Nat) : Option (Nat × Nat × Bool × Bool) :=
  let i := p * 8 + n
  if s.gf R.partAmapCtl_EN i = 1 then
    let base := fgaOff (s.pair .partAmapLo .partAmapHi i)
    some (base, base + (s.gf R.partAmapCtl_LEN i + 1) * 0x200000, s.gf R.partAmapCtl_R i == 1, s.gf R.partAmapCtl_W i == 1)
  else none

/-- The Urn's parts (spec/07 R191): the dump region, the Mosaic shadow region, the tier pool. -/
def dumpBase : Nat := urnBase
def dumpSize : Nat := 0x10000000
def shadowBase : Nat := urnBase + dumpSize
def State.shadowSize (s : State) : Nat := s.shadowGib * 0x40000000
def State.urnPool (s : State) : Nat := shadowBase + s.shadowSize

/-! ### Tickets -/

def State.ticket (s : State) (k : Nat) : Ticket := Sparse.get (fun _ => Ticket.blank) s.tickets k

def State.setTicket (s : State) (k : Nat) (x : Ticket) : State :=
  { s with tickets := Sparse.put (fun _ => Ticket.blank) s.tickets k x }

def State.modTicket (s : State) (k : Nat) (g : Ticket → Ticket) : State := s.setTicket k (g (s.ticket k))

/-- The live slots of a partition (STATE not FREE). -/
def State.liveSlots (s : State) (p : Nat) : List Nat :=
  (s.tickets.filter (fun x => decide (x.2.state ≠ 0) && decide (x.2.part = p))).map Prod.fst

/-! ### The access map (spec/12 R265, R442) -/

/-- The places a partition may access locally with a right, as offset ranges; of a SAVED partition's scratchpads those that no other
partition holds now (R267). -/
def State.mapRanges (s : State) (p : Nat) (write : Bool) : List (Nat × Nat) :=
  let x := s.prt p
  let sf := x.stepFrame * 0x200000
  (if s.pstate p = 4 then (s.facetsOf p).filter (fun f => !s.facetTaken p f) else s.facetsOf p).map
    (fun f => (spAddr f 0, spAddr f 1572864)) ++
  [(tieredBase, kvBase)] ++
  (s.liveSlots p).map (fun k => (kvBase + k * 0x1000000000, kvBase + (k + 1) * 0x1000000000)) ++
  (if write then [(sf + 0x80000, sf + 0x90040)] else [(sf, sf + 0x80000)]) ++
  ((List.range 8).filterMap (fun n => s.amap p n)).filterMap
    (fun (a : Nat × Nat × Bool × Bool) => if (if write then a.2.2.2 else a.2.2.1) then some (a.1, a.2.1) else none)

/-- Whether `[lo, hi)` lies in the union of the ranges: each round extends the covered prefix. -/
def coverFrom (rs : List (Nat × Nat)) (hi : Nat) : Nat → Nat → Bool
  | 0, lo => decide (hi ≤ lo)
  | k + 1, lo =>
    if hi ≤ lo then true else
    match rs.find? (fun r => decide (r.1 ≤ lo) && decide (lo < r.2)) with
    | some r => coverFrom rs hi k r.2
    | none => false

def covers (rs : List (Nat × Nat)) (lo hi : Nat) : Bool := coverFrom rs hi rs.length lo

/-- The physical Carafe and Urn memory that the free domain may not reach: reserved space and pool, carved frames,
enabled AMAP ranges, the dump and shadow regions (R442). -/
def State.freeBarred (s : State) : List (Nat × Nat) :=
  (s.reservedFrom, s.carafeSize) :: (dumpBase, s.urnPool) ::
  (s.parts.flatMap (fun x => x.2.frames.map (fun f => (f * 0x200000, (f + 1) * 0x200000)))) ++
  (List.range 128).filterMap (fun i => (s.amap (i / 8) (i % 8)).map (fun a => (a.1, a.2.1)))

/-- Whether the access map of a partition, or of the free domain (`none`), allows an access of `n` bytes, R19 included. -/
def State.allowed (s : State) (p : Option Nat) (off n : Nat) (write : Bool) : Bool :=
  match s.region off n with
  | .none => false
  | r =>
    match p with
    | some p =>
      covers (s.mapRanges p write) off (off + n) &&
        -- the page-table pool and the reserved space are out of reach of every program (spec/07 R175)
        (match r with
         | .carafe => decide (off + n ≤ s.reservedFrom)
         | _ => true)
    | none =>
      match r with
      | .scratch f => (s.facetPart f).isNone
      | .carafe => s.freeBarred.all (fun b => decide (off + n ≤ b.1) || decide (b.2 ≤ off))
      | .urn => s.freeBarred.all (fun b => decide (off + n ≤ b.1) || decide (b.2 ≤ off))
      | _ => false

/-! ### Translation (spec/07 R173, R177; spec/06 R146, R147) -/

def pageBytes (psize : Nat) : Nat := if psize = 0 then 4096 else if psize = 1 then 2097152 else 1073741824

/-- The leaf that maps a byte of a partition's tiered range. -/
def State.leafAt (s : State) (p va : Nat) : Option Leaf :=
  s.leaves.find? (fun l => decide (l.p = p) && decide (l.va ≤ va) && decide (va < l.va + pageBytes l.psize))

/-- Page `n` of a layer window: its offset and bytes (R146). -/
def kvPageOff (n : Nat) : Nat := if n = 0 then 0 else if n ≤ 9 then 4096 * 2 ^ (n - 1) else 2097152 * (n - 9)
def kvPageSize (n : Nat) : Nat := if n = 0 then 4096 else if n ≤ 9 then 4096 * 2 ^ (n - 1) else 2097152

/-- The page of the sequence that holds a byte of a layer window. -/
def kvPageOf (o : Nat) : Nat :=
  if o < 4096 then 0 else if o < 2097152 then (o / 4096).log2 + 1 else 9 + o / 2097152

/-- The size class of page `n` (R149). -/
def kvClass (n : Nat) : Nat := if n = 0 then 0 else if n ≤ 9 then n - 1 else 9

/-- The key-value page that maps byte `va` of a slot's range. -/
def State.kvAt (s : State) (slot va : Nat) : Option KvPage :=
  s.kvPages.find? (fun g => decide (g.slot = slot) && decide (g.layer = va / 0x10000000) &&
    decide (g.n = kvPageOf (va % 0x10000000)))

/-- The tables a walk reads: owner, level, index (R173). -/
def walkTables (owner first depth va : Nat) : List (Nat × Nat × Nat) :=
  ((List.range 5).filter (fun l => decide (first ≤ l) && decide (l ≤ depth))).map
    (fun l => (owner, l, if l ≤ first then 0 else va / 2 ^ (48 - 9 * (l - 1))))

/-- The tables that stand in the pool: the root of a partition from its first MAP on, the root of each live slot, and what the
mappings need below them. -/
def State.tablesInUse (s : State) : List (Nat × Nat × Nat) :=
  let roots : List (Nat × Nat × Nat) :=
    ((List.range 16).filter (fun p => s.pair .trRootLo .trRootHi p != 0)).map (fun p => (p, 1, 0)) ++
    (s.tickets.filter (fun x => x.2.state != 0)).map (fun x => (100 + x.1, 2, 0))
  let tiered := s.leaves.flatMap (fun l => walkTables l.p 1 (if l.psize = 2 then 2 else if l.psize = 1 then 3 else 4) l.va)
  let kv := s.kvPages.flatMap (fun g =>
    walkTables (100 + g.slot) 2 (if g.z = 9 then 3 else 4) (g.layer * 0x10000000 + kvPageOff g.n))
  (roots ++ tiered ++ kv).eraseDups

def State.ptFree (s : State) : Nat := s.ptPool - 4096 * s.tablesInUse.length

/-- Where a table stands: a local offset. -/
def State.tableAt (s : State) (t : Nat × Nat × Nat) : Option Nat := (s.ptPlaces.find? (fun x => x.1 == t)).map Prod.snd

/-- Tables that nothing needs go back to the pool. -/
def State.pruneTables (s : State) : State :=
  let need := s.tablesInUse
  { s with ptPlaces := s.ptPlaces.filter (fun x => need.contains x.1) }

/-- The first page of a pool of `n` from page `i` on that is not used. -/
def freePlace (used : List Nat) (n : Nat) : Nat → Nat → Option Nat
  | 0, _ => none
  | k + 1, i => if used.contains i then freePlace used n k ((i + 1) % n) else some i

/-- Give every table in use a page of the pool, zeroed; the spec leaves open which (a free value; log entry 33). -/
def State.placeTables (s : State) : State :=
  have s : State := s.pruneTables
  (s.tablesInUse.filter (fun t => (s.tableAt t).isNone)).foldl (fun (s : State) t =>
    let base := s.carafeSize - s.ptPool
    let n := s.ptPool / 4096
    let used := s.ptPlaces.map (fun x => (x.2 - base) / 4096)
    let k := s.fresh
    match freePlace used n (used.length + 1) (Config.freeVal k.1 0 % n) with
    | none => s
    | some i => State.zeroMem { k.2 with ptPlaces := k.2.ptPlaces ++ [(t, base + 4096 * i)] } (base + 4096 * i) 4096) s

/-- The 64-bit entry of a tiered leaf (R174). A frame in the Hopper tier, and the lower copy of a compressed page, is named by its
first 4 KiB unit, any other by its local offset: both are the offset divided by 4,096. FRAME of a compressed page whose home is Carafe,
to which the table gives two meanings, names the Carafe frame (DESIGN CHOICE, unsafe; log entry 107). -/
def Leaf.word (l : Leaf) : Nat :=
  2 ^ 63 + 2 ^ 62 + l.tier * 2 ^ 60 + b2n l.ro * 2 ^ 55 + b2n l.cmp * 2 ^ 54 + b2n l.d * 2 ^ 53 + b2n l.a * 2 ^ 52 + l.hint * 2 ^ 49 +
  (if l.tier = 2 then l.frame else l.frame / 4096) % 2 ^ 37 * 2 ^ 12 + (if l.cmp then l.clen % 1024 else 0) * 4 + b2n l.mig.isSome * 2

/-- The 64-bit entry of the part of a key-value page that begins at byte `o` of the page (R174; spec/06 R147). -/
def KvPage.word (g : KvPage) (o : Nat) : Nat :=
  2 ^ 63 + 2 ^ 62 + (if g.z = 9 then 0 else g.z) * 2 ^ 56 + b2n g.shared.isSome * 2 ^ 55 + b2n (bit g.d (o / 4096)) * 2 ^ 53 +
  b2n (bit g.a (o / 4096)) * 2 ^ 52 + (g.addr + o) / 4096 % 2 ^ 37 * 2 ^ 12

/-- Entry `i` of a table, as it stands in the pool: a leaf, the next table, or nothing valid (R173, R174). -/
def State.tableWord (s : State) (t : Nat × Nat × Nat) (i : Nat) : Nat :=
  let lo := t.2.2 * 2 ^ (57 - 9 * t.2.1) + i * 2 ^ (48 - 9 * t.2.1)
  let leaf :=
    if t.1 < 100 then
      (s.leafAt t.1 lo).bind (fun l => if (if l.psize = 2 then 2 else if l.psize = 1 then 3 else 4) = t.2.1 then some l.word else none)
    else (s.kvAt (t.1 - 100) lo).bind (fun g => if (if g.z = 9 then 3 else 4) = t.2.1 then some (g.word (lo % 0x10000000 - kvPageOff g.n)) else none)
  match leaf with
  | some w => w
  | none =>
    match s.tableAt (t.1, t.2.1 + 1, lo / 2 ^ (48 - 9 * t.2.1)) with
    | some a => if t.2.1 < 4 then 2 ^ 63 + a else 0
    | none => 0

/-- Bytes of local memory as one sees them who reads all of it: the tables of the pool stand there as their words (R174, R175). -/
def State.poolRead (s : State) (a n : Nat) : List Byte :=
  (s.readMem a n).mapIdx (fun i b =>
    match s.ptPlaces.find? (fun x => decide (x.2 ≤ a + i) && decide (a + i < x.2 + 4096)) with
    | some x => BitVec.ofNat 8 (s.tableWord x.1 ((a + i - x.2) / 8) / 2 ^ (8 * ((a + i) % 8)))
    | none => b)

/-- Whether a walk for `va` fails at a table: it is marked, or the entry read is uncorrectable (R177). -/
def State.tableBad (s : State) (va : Nat) (t : Nat × Nat × Nat) : Bool :=
  s.tableFaulty.contains t ||
  (match s.tableAt t with
   | some a => !(s.ucAt (a + 8 * (va / 2 ^ (48 - 9 * t.2.1) % 512)) 8).isEmpty
   | none => false)

/-- What one page of an access comes to. -/
inductive Xl where
  | at (phys left : Nat)
  | hold (va : Nat)
  | bad (st : Nat)
  | table (t : Nat × Nat × Nat)
deriving DecidableEq, Repr

/-- One byte of the tiered range for an access issued on this package (`fabric` false) or from another (R178): the
physical offset and the bytes left in its page, or what the access meets. -/
def State.xlTiered (s : State) (p va : Nat) (write fabric : Bool) : Xl :=
  let depth := match s.leafAt p va with
    | some l => if l.psize = 2 then 2 else if l.psize = 1 then 3 else 4
    | none => 4
  match (walkTables p 1 depth va).find? (s.tableBad va) with
  | some t => .table t
  | none =>
    match s.leafAt p va with
    | none => .bad stNotMapped
    | some l =>
      let here := Xl.at (l.frame + (va - l.va)) (l.va + pageBytes l.psize - va)
      let promoting := match l.mig with
        | some m => decide (m.tier < l.tier)
        | none => false
      if write && l.ro then .bad stReadOnly
      else if promoting then
        if !write && l.tier = 1 && !l.cmp then here
        else if fabric then .bad stNotResident else .hold l.va
      else if l.tier = 0 then here
      else if l.tier = 1 && !l.cmp then here
      else if !fabric && s.gf R.trCfg_HOLD p = 1 then .hold l.va
      else .bad stNotResident

/-- One byte of a ticket's key-value range (R147, R178). -/
def State.xlKv (s : State) (slot va : Nat) (write : Bool) : Xl :=
  let depth := if kvPageOf (va % 0x10000000) ≥ 10 then 3 else 4
  match (walkTables (100 + slot) 2 depth va).find? (s.tableBad va) with
  | some t => .table t
  | none =>
    match s.kvAt slot va with
    | none => .bad stNotMapped
    | some g =>
      if write && g.shared.isSome then .bad stReadOnly
      else
        let o := va % 0x10000000 - kvPageOff g.n
        .at (g.addr + o) (kvPageSize g.n - o)

/-- What an access comes to: physical pieces, a hold on a page, a status, or a faulty table. -/
inductive Res where
  | pieces (l : List (Nat × Nat))
  | hold (va : Nat)
  | bad (st : Nat)
  | table (t : Nat × Nat × Nat)
deriving DecidableEq, Repr

/-- Translate `n` bytes page by page. -/
def walkPages (f : Nat → Xl) : Nat → Nat → Nat → List (Nat × Nat) → Res
  | 0, _, n, acc => if n = 0 then .pieces acc.reverse else .bad stAccess
  | k + 1, va, n, acc =>
    if n = 0 then .pieces acc.reverse else
    match f va with
    | .at ph left =>
      let m := min n left
      if m = 0 then .bad stAccess else walkPages f k (va + m) (n - m) ((ph, m) :: acc)
    | .hold v => .hold v
    | .bad st => .bad st
    | .table t => .table t

/-- Resolve a local access of partition `p` (no rights are checked here): untranslated places map to themselves. -/
def State.resolve (s : State) (p off n : Nat) (write fabric : Bool) : Res :=
  match s.region off n with
  | .none => .bad stAccess
  | .carafe => .pieces [(off, n)]
  | .urn => .pieces [(off, n)]
  | .scratch _ => .pieces [(off, n)]
  | .tiered => walkPages (fun va => s.xlTiered p va write fabric) (n / 4096 + 2) (off - tieredBase) n []
  | .kv k =>
    walkPages (fun va => s.xlKv k va write) (n / 4096 + 2) ((off - kvBase) % 0x1000000000) n []

/-- The bytes of the pieces, one after another. -/
def State.readPieces (s : State) (l : List (Nat × Nat)) : List Byte := l.flatMap (fun x => s.readMem x.1 x.2)

/-- The uncorrectable units that a read of the pieces meets. -/
def State.ucPieces (s : State) (l : List (Nat × Nat)) : List Nat := l.flatMap (fun x => s.ucAt x.1 x.2)

/-- Write bytes over pieces: the state, and the units in which the write failed (R441). -/
def State.writePieces (s : State) : List (Nat × Nat) → List Byte → State × List Nat
  | [], _ => (s, [])
  | (a, n) :: t, bs =>
    let r := s.writeMem a (bs.take n)
    let q := r.1.writePieces t (bs.drop n)
    (q.1, r.2 ++ q.2)

/-- The entries of a key-value page that bytes `[a, b)` of its slot's range meet, as a mask (R147, R174). -/
def KvPage.parts (g : KvPage) (a b : Nat) : Nat :=
  let lo := g.layer * 0x10000000 + kvPageOff g.n
  let u := if g.z = 9 then 2097152 else 4096
  (List.range (kvPageSize g.n / u)).foldl (fun m i => if lo + i * u < b ∧ a < lo + (i + 1) * u then m ||| 2 ^ i else m) 0

/-- Set A, and on a write D, on the entries of the key-value pages that an access reached (R174). Which of a page's entries a walk
fills a cache with is not stated: every one that the access meets (DESIGN CHOICE, unsafe; log entry 33). -/
def State.touchKv (s : State) (off n : Nat) (write : Bool) : State :=
  let k := (off - kvBase) / 0x1000000000
  let va := (off - kvBase) % 0x1000000000
  { s with kvPages := s.kvPages.map (fun g =>
      let lo := g.layer * 0x10000000 + kvPageOff g.n
      if g.slot = k ∧ lo < va + n ∧ va < lo + kvPageSize g.n then
        let m := g.parts va (va + n)
        { g with a := g.a ||| m, d := if write then g.d ||| m else g.d }
      else g) }

/-- Set A on every leaf an access reached; on a write set D and cancel a demotion of the page (R174, R178, R183). A cached entry
has A = 1 already, since clearing it removes the leaf from every cache (R176): so every access leaves A = 1. A demotion of the
schedule that is cancelled is not tried again (R183). -/
def State.touch (s : State) (p off n : Nat) (write : Bool) : State :=
  if off < tieredBase then s else if off ≥ kvBase then s.touchKv off n write else
  let va := off - tieredBase
  let meets := fun (l : Leaf) => decide (l.p = p) && decide (l.va < va + n) && decide (va < l.va + pageBytes l.psize)
  let demoting := fun (l : Leaf) => match l.mig with
    | some m => decide (m.tier > l.tier)
    | none => false
  let cut := if write then s.leaves.filter (fun l => meets l && demoting l) else []
  have s : State := { s with
    leaves := s.leaves.map (fun l =>
      if meets l then { l with a := true, d := l.d || write, mig := if write && demoting l then none else l.mig } else l)
    moves := s.moves.filter (fun m => m.cmd || !cut.any (fun l => l.p == m.p && l.va == m.va)) }
  s.bumpBy 0x8015 4 cut.length

/-- Mark the table a walk found uncorrectable, and count the event; a table that is marked already is not read (R177). -/
def State.markTable (s : State) (t : Nat × Nat × Nat) : State :=
  if s.tableFaulty.contains t then s else State.bump { s with tableFaulty := t :: s.tableFaulty } 0x8015 5

/-- Whether a Facet exists and its logical index is in the domain of `p` (`none`: the free domain) (spec/12 R262, R442). -/
def State.facetOfDomain (s : State) (p : Option Nat) (f : Nat) : Bool :=
  match p with
  | some p => s.facetIn p f
  | none => decide (f < s.facetCount) && (s.facetPart f).isNone

end Sys2Proof.Machine
end

