-- ==== Sys2Proof/Machine/Flags.lean ====
section
/-! DEFINITION. Error flags and what setting one brings with it: the error-log entry, the counters, a halt
(spec/02 R33, R40, R57, R64; spec/14 R313), and the arithmetic status of a conversion (spec/03 R87). -/

namespace Sys2Proof.Machine

/-- Bit positions of FCT_ERR. -/
def eSched : Nat := 0
def eWaitErr : Nat := 1
def eLink : Nat := 2
def eSeamOvf : Nat := 3
def ePourOvf : Nat := 4
def eDesc : Nat := 5
def eAccess : Nat := 6
def eIllegal : Nat := 7
def eImemUc : Nat := 8
def eSpUc : Nat := 9
def eCfg : Nat := 10
def eHostw : Nat := 11

/-- Set a one-bit flag of a register. -/
def State.setBit (s : State) (c : Card) (i k : Nat) : State := s.sf ⟨c, k, k⟩ i 1

/-- A detected break (R64): the flag, the count of 0x8010:01 and an error-log entry of the Facet (CODE = bit + 1). -/
def State.facetErr (s : State) (f k detail : Nat) : State :=
  have s : State := s.setBit .fctErr f k
  have s : State := if k ≤ eIllegal then s.bump 0x8010 1 else s
  s.report (source 0 f) (k + 1) 1 (s.facetPart f) detail

/-- FCT_STAT.STATE values. -/
def fsIdle : Nat := 0
def fsRunning : Nat := 1
def fsStalled : Nat := 2
def fsHalted : Nat := 3

/-- Whether a partition's groups are frozen (spec/12 R275): its Facets issue nothing. -/
def State.facetFrozen (s : State) (f : Nat) : Bool :=
  match s.facetPart f with
  | some p => (s.prt p).frozen
  | none => false

/-- The Barista has a halt of Facet `f` to take up (spec/12 R273). -/
def State.haltOwed (s : State) (p f : Nat) : State := s.modPrt p (fun x => { x with haltDue := x.haltDue ++ [f] })

/-- The Facet halts on an error: issue stops, the Barista is told (spec/12 R273). -/
def State.haltErr (s : State) (f k detail : Nat) : State :=
  have s : State := s.facetErr f k detail
  have s : State := (s.sf R.fctStat_STATE f fsHalted).bump 0x8010 2
  have s : State := s.modFacet f (fun x => { x with wait := none })
  match s.facetPart f with
  | some p => s.haltOwed p f
  | none => s

/-- An FCT_ARCST flag: it is set, and each time the error is detected it is reported with CODE 0x20 + bit position (spec/14 R312,
R313). The class is 1 and the detail is what the caller names (DESIGN CHOICE, unsafe; log entry 63). -/
def State.arcFlag (s : State) (f k detail : Nat) : State :=
  (s.setBit .fctArcst f k).report (source 0 f) (0x20 + k) 1 (s.facetPart f) detail

/-- Set the FCT_ASTAT or DRP_ASTAT flags a conversion raised (spec/03 R87). -/
def State.astat (s : State) (c : Card) (i : Nat) (g : CvtFlags) : State :=
  have s : State := if g.nanOut then s.setBit c i 1 else s
  have s : State := if g.infOut then s.setBit c i 2 else s
  have s : State := if g.fp8Sat then s.setBit c i 3 else s
  if g.intSat then s.setBit c i 4 else s

end Sys2Proof.Machine
end

