-- ==== Sys2Proof/Machine/Access.lean ====
section
/-! DEFINITION. Register access: who may reach which register, what a write leaves and a read returns, and how an access
is rejected (spec/01 R21 to R28; spec/18 "Until READY = 1"). -/

namespace Sys2Proof.Machine

/-! ### Fields under a write and a read (spec/00 R8, spec/01 R24) -/

/-- The bits that the byte enables `be` (4 bits) name. -/
def byteMask (be : Nat) : Word :=
  BitVec.ofNat 32 (b2n (bit be 0) * 0xFF + b2n (bit be 1) * 0xFF00 + b2n (bit be 2) * 0xFF0000 + b2n (bit be 3) * 0xFF000000)

/-- The bits of a field. -/
def fieldMask (f : FieldInfo) : Word := BitVec.ofNat 32 ((2 ^ (f.hi + 1 - f.lo) - 1) * 2 ^ f.lo)

/-- The bits of a card whose access code is in `accs`. -/
def accMask (fs : List FieldInfo) (accs : List Acc) : Word :=
  (fs.filter (fun f => accs.contains f.acc)).foldl (fun m f => m ||| fieldMask f) 0

/-- A register after a write of `val` under the enabled bits `m`: RW and RWL take the written bits, W1C clears, W1S sets,
all else stays (R24). -/
def mergeWrite (fs : List FieldInfo) (old m val : Word) : Word :=
  let rw := accMask fs [.rw, .rwl] &&& m
  let c := accMask fs [.w1c] &&& m &&& val
  let st := accMask fs [.w1s] &&& m &&& val
  (((old &&& ~~~rw) ||| (val &&& rw)) &&& ~~~c) ||| st

/-- What a read shows: WO and reserved fields read zero (R8). -/
def readMask (fs : List FieldInfo) (w : Word) : Word := w &&& ~~~(accMask fs [.wo, .rsv])

/-- A register after a read of the enabled bits: RC fields clear in the bytes returned (R24). -/
def afterRead (fs : List FieldInfo) (old m : Word) : Word := old &&& ~~~(accMask fs [.rc] &&& m)

/-! ### Where an instance lies -/

/-- Physical mesh column of a logical column (spec/00 R3). -/
def State.physCol (s : State) (c : Nat) : Nat := if s.part.ld ∧ c ≥ s.part.disCol then c + 1 else c

/-- The BAR0 address of instance `i` of a card (spec/01 R21; spec/05 for stacks and engines). -/
def State.cardAddr (s : State) (c : Card) (i : Nat) : Nat :=
  let x := cardInfo c
  let a := i / x.n2
  let b := i % x.n2
  let home := match x.place with
    | .at st => x.base + a * st
    | .facet => 0x01000000 + s.dieOf a * 0x800000 + (a / s.cols % 8 * 16 + s.physCol (a % s.cols)) * 0x1000 + x.base
    | .stack => 0x02000000 + a * 0x40000 + x.base
    | .engine => 0x02000000 + a / 4 * 0x40000 + 0x8000 * (a % 4 + 1) + x.base
    | .func => x.base
  home + b * x.s2

/-- Whether instance `i` of a card exists: on an LD part indices 240 to 255 name no Facet (spec/00 R3). -/
def State.exists_ (s : State) (c : Card) (i : Nat) : Bool :=
  let x := cardInfo c
  decide (i < x.n1 * x.n2) && (match x.place with
    | .facet => decide (i / x.n2 < s.facetCount)
    | .engine => decide (i / x.n2 < s.engineCount)
    | _ => true)

/-- The function index of a requester, whose own instance of a function-domain card an access reaches; the management
core's window shows function 0's (DEDUCED, unsafe; log entry 13). -/
def reqFn : Requester → Nat
  | .pf => 0
  | .vf n => n
  | .mc => 0

/-! ### Who may reach what -/

/-- Whether virtual function `n` may reach instance `i` of a card (R21, the VF column; spec/05, 07, 11, 12, 14, 16). -/
def State.vfMay (s : State) (n : Nat) (c : Card) (i : Nat) (write : Bool) : Bool :=
  let x := cardInfo c
  let a := i / x.n2
  match x.place with
  | .facet => s.facetIn (vfPart n) a
  | .engine => s.engineIn (vfPart n) a
  | .stack => false
  | .func => decide (a = n)
  | .at _ =>
    match c with
    | .identPart => !write
    | .identPkgid => !write
    | .bootStat => !write
    | .fltStat => true
    | .errlogOvfFullLo => true
    | .errlogOvfFullHi => true
    | .errlogOvfRateLo => true
    | .errlogOvfRateHi => true
    | .kvLayout => false
    | _ =>
      let inTr := decide (0x00C00000 ≤ x.base) && decide (x.base < 0x00C01000)
      let inPart := decide (0x00A00000 ≤ x.base) && decide (x.base < 0x00A01000)
      (inTr || inPart) && decide (a = vfPart n)

def State.mayReach (s : State) (r : Requester) (c : Card) (i : Nat) (write : Bool) : Bool :=
  match r with
  | .vf n => s.vfMay n c i write
  | .pf => match (cardInfo c).place with
    | .func => decide (i / (cardInfo c).n2 = 0)
    | _ => true
  | .mc => match (cardInfo c).place with
    | .func => decide (i / (cardInfo c).n2 = 0)
    | _ => true

/-- The partition whose view an access shows: a virtual function's own. -/
def reqPart : Requester → Option Nat
  | .vf n => some (vfPart n)
  | _ => none

/-- A rejected access has no effect: an error-log entry and an Unsupported Request, or a bus error for the core (R22). -/
def State.rejectAccess (s : State) (r : Requester) (addr : Nat) (write : Bool) : State :=
  have s : State := match r with
    | .mc => s.report (source 0xA 0) 0x04 1 none addr
    | _ => s.report (source 0x7 (reqFn r)) 0x01 1 (reqPart r) addr
  s.emit (.rejected r addr write)

/-- Whether BAR0 is served outside the identity block and the mailboxes (spec/18). -/
def State.ready (s : State) : Bool := s.gf R.bootStat_READY 0 == 1

/-- Whether the device is in the fatal state (spec/14 R311). -/
def State.fatalNow (s : State) : Bool := decide (s.gf R.fltStat_STATE 0 ≥ 4)

/-! ### The fatal state (spec/14 R311) -/

/-- Ports go down and send nothing more; partitions stop without increments. -/
def State.stopAll (s : State) : State :=
  have s : State := { s with ops := [], xfers := [], holds := [], frontQ := [] }
  have s : State := (List.range 32).foldl (fun (t : State) n => t.wr .fmfPortStat n 0) s
  have s : State := s.sf R.fmfStat_OUTST 0 0
  { s with parts := s.parts.map (fun x => (x.1, { x.2 with frozen := true })) }

/-- The newest fatal entry of the log. -/
def State.fatalEntry (s : State) : LogEntry :=
  (s.errlog.foldl (fun (acc : LogEntry) x =>
    if x.2.valid ∧ x.2.cls = 2 ∧ (!acc.valid ∨ s.logAge x.2 < s.logAge acc) then x.2 else acc) LogEntry.blank)

/-- A fatal-class error: the report, and once the fatal state with its event to every subscriber and to all nodes. -/
def State.fatal (s : State) (src code detail : Nat) : State :=
  have s : State := (s.report src code 2 none detail).bump 0x8025 8
  if s.fatalNow then s else
  have s : State := s.stopAll.setFlt 4
  let e := s.fatalEntry.bytes
  (s.pushEvent 1 e true).emit (.broadcast 1 s.time e)

/-- An uncorrectable error met in a Vertex memory that has no error path to an issuer: 0 region table, 1 grant table, 2 Ticket rail,
3 translation cache. The report names the block that uses the memory (DESIGN CHOICE, unsafe; log entry 63). -/
def State.fatalVertex (s : State) (k : Nat) : State :=
  s.fatal (source 8 (if k = 2 then 8 else if k = 3 then 0xC else 4)) (unstatedCode 15) k

/-- Cards served before READY: the identity block, the dictionary and Apex mailboxes. -/
def earlyCard (c : Card) : Bool :=
  let b := (cardInfo c).base
  match (cardInfo c).place with
  | .at _ => decide (b < 0x100000)
  | .func => decide (0x100000 ≤ b ∧ b < 0x108000) || decide (0x02C00000 ≤ b ∧ b < 0x02E00000)
  | _ => false

/-- Whether no access comes from the host: the PCIe link is down in S3 (spec/15 R351), and accesses to a function in reset
are dropped (spec/18 R419). -/
def State.linkOff (s : State) : Bool := s.power.sleep == 3 || s.pins.perst

/-- An accepted write to a register, before what it does: rejected where the requester may not reach it, ignored before
READY, and where the index names no Facet or engine, so that no register is there (spec/00 R3, spec/01 R22). -/
def State.gate (s : State) (r : Requester) (c : Card) (i : Nat) (k : State → State) : State :=
  if s.boot.phase = 0 ∨ (s.linkOff ∧ r ≠ .mc) ∨ !s.exists_ c i then s
  else if s.mayReach r c i true then
    if s.ready || earlyCard c then k s else s
  else s.rejectAccess r (s.cardAddr c i) true

/-- Record a command's code in LAST and its result in STATUS, and in CODE where the card has one (R28). -/
def State.cmdDone (s : State) (c : Card) (i code status : Nat) : State :=
  (s.sf ⟨c, 27, 24⟩ i code).sf ⟨c, 23, 20⟩ i status

def State.cmdCode (s : State) (c : Card) (i code status res : Nat) : State :=
  (s.cmdDone c i code status).sf ⟨c, 19, 16⟩ i res

/-- A plain register write through the merge of its card. -/
def State.mergeReg (s : State) (c : Card) (i be : Nat) (val : Word) : State :=
  s.wr c i (mergeWrite (cardInfo c).fields (s.rd c i) (byteMask be) val)

/-! ### Atomic pairs (spec/01 R26) -/

/-- The pair a register belongs to. -/
def pairOf (c : Card) : Option (Card × Card) := regPairs.find? (fun p => p.1 = c ∨ p.2 = c)

/-- A requester's shadow of a pair. -/
def State.shadowOf (s : State) (r : Requester) (lo : Card) (i : Nat) : Option Shadow :=
  s.shadows.find? (fun x => decide (x.r = r) && x.card == lo && x.inst == i)

def State.unshadow (s : State) (r : Requester) (lo : Card) (i : Nat) : State :=
  { s with shadows := s.shadows.filter (fun x => !(decide (x.r = r) && x.card == lo && x.inst == i)) }

def State.shadow (s : State) (x : Shadow) : State :=
  { s.unshadow x.r x.card x.inst with shadows := (s.unshadow x.r x.card x.inst).shadows ++ [x] }

/-- A 4-byte write of a half of an atomic pair: the low half is held, the high half commits both at one instant, or is
written alone. `go` makes a write under the rules of the pair's registers. -/
def State.pairHold (s : State) (r : Requester) (lo hi c : Card) (i be : Nat) (val : Word) (go : Card → (State → State) → State → State) :
    State :=
  let sh := s.shadowOf r lo i
  have s : State := s.unshadow r lo i
  if c = lo then s.shadow ⟨r, lo, i, true, be, val⟩
  else match sh with
    | some x =>
      if x.write then go lo (fun t => (t.mergeReg lo i x.be x.val).mergeReg hi i be val) s else go hi (fun t => t.mergeReg hi i be val) s
    | none => go hi (fun t => t.mergeReg hi i be val) s

/-- Whether a write of a register reaches it: nothing else may fill a shadow. -/
def State.reaches (s : State) (r : Requester) (c : Card) (i : Nat) : Bool :=
  s.boot.phase != 0 && !(s.linkOff && decide (r ≠ .mc)) && s.exists_ c i && s.mayReach r c i true && (s.ready || earlyCard c)

/-- A 4-byte write of a register that may be a half of an atomic pair. -/
def State.write4 (s : State) (r : Requester) (c : Card) (i be : Nat) (val : Word) (go : Card → (State → State) → State → State) : State :=
  match pairOf c with
  | some q => if s.reaches r c i then s.pairHold r q.1 q.2 c i be val go else go c (fun t => t.mergeReg c i be val) s
  | none => go c (fun t => t.mergeReg c i be val) s

end Sys2Proof.Machine
end

