-- ==== Sys2Proof/Machine/Lattice.lean ====
section
/-! DEFINITION. Bundles: the slots of the bundle at PC, what makes a bundle illegal or an access error, how issue goes on, and
undefined data (spec/02 R15, R30 to R37, R62, R443). -/

namespace Sys2Proof.Machine

/-! ### Fetching a bundle (R31) -/

def State.pc (s : State) (f : Nat) : Nat := s.gf R.fctStat_PC f

/-- Instruction bytes as issue reads them: those that a POUR writes, and that no wait on its counter has made usable, are
undefined (R61; spec/01 R15). -/
def State.code (s : State) (f b n : Nat) : List Byte :=
  let us := s.unwaited.filter (fun u => overlaps u.lo u.len (imemAt f + b) n)
  if us.isEmpty then s.readImem f b n
  else ((s.readImem f b n).zipIdx).map (fun x =>
    match us.find? (fun u => overlaps u.lo u.len (imemAt f + b + x.2) 1) with
    | some u => BitVec.ofNat 8 (Config.earlyCode u.uid (f * 262144 + b + x.2))
    | none => x.1)

/-- Slot `k` (0 M, 1 V, 2 A, 3 C) of bundle `b`. -/
def State.slotWord (s : State) (f b k : Nat) : Nat := leNat (s.code f (b * 32 + k * 8) 8)

def opc (w : Nat) : Nat := bits w 63 58

/-- Whether bundle `b` is four no-ops. -/
def State.noopBundle (s : State) (f b : Nat) : Bool := (List.range 4).all (fun k => s.slotWord f b k == 0)

/-! ### Loops and the next bundle (R62, R443) -/

/-- Sequential flow from bundle `pc`: levels that end there count a pass, innermost first. -/
def loopAdvance : List LoopLevel → Nat → List LoopLevel × Nat
  | [], pc => ([], pc + 1)
  | l :: t, pc =>
    if pc = l.last then
      if l.left > 1 then ({ l with left := l.left - 1 } :: t, l.first) else loopAdvance t pc
    else (l :: t, pc + 1)

/-- The levels a taken jump leaves open: one whose body the target leaves is closed with every level inside it. -/
def closeLoops (target : Nat) : List LoopLevel → List LoopLevel
  | [] => []
  | l :: t =>
    let t' := closeLoops target t
    if t'.length < t.length then t'
    else if l.first ≤ target ∧ target ≤ l.last then l :: t else t'

/-- The bundle at PC has issued and flow goes on in sequence. -/
def State.flowSeq (s : State) (f : Nat) : State :=
  let x := s.facet f
  let r := loopAdvance x.loops (s.pc f)
  (s.setFacet f { x with loops := r.1, rest := 1, slot := 0 }).sf R.fctStat_PC f r.2

/-- A taken jump: two idle cycles follow, over which the GCC advances (R62). -/
def State.flowJump (s : State) (f target : Nat) : State :=
  let x := s.facet f
  (s.setFacet f { x with loops := closeLoops target x.loops, rest := 3, slot := 0 }).sf R.fctStat_PC f target

/-- A JMP or BR that is not taken still idles two cycles. -/
def State.flowIdle (s : State) (f : Nat) : State :=
  (s.flowSeq f).modFacet f (fun x => { x with rest := 3 })

/-! ### Formats at the matrix engine (R44) -/

def tileK (fmt : Nat) : Nat := if fmt = 0 then 64 else if fmt ≤ 6 then 128 else if fmt ≤ 8 then 256 else if fmt ≤ 10 then 512 else 1024
def rowLines (fmt : Nat) : Nat := if fmt ≤ 6 then 1 else if fmt ≤ 8 then 2 else if fmt ≤ 10 then 4 else 8
def scaleLines (fmt : Nat) : Nat :=
  if fmt ≤ 3 then 0 else if fmt ≤ 6 then 2 else if fmt = 7 then 4 else if fmt = 8 then 2 else if fmt ≤ 10 then 4 else 8
/-- The legal promotion limit (spec/03 R76). -/
def promoLimit (fmt : Nat) : Nat := if fmt = 7 then 85 else if fmt = 8 then 68 else 256

/-- Error-control entry fields (spec/03 R78). -/
def xcOutn (w0 : Nat) : Nat := bits w0 63 60
def xcRank (w0 : Nat) : Nat := bits w0 59 53
def xcIdx (w0 w1 j : Nat) : Nat :=
  if j < 5 then bits w0 (49 - 10 * j) (40 - 10 * j) else bits w1 (29 - 10 * (j - 5)) (20 - 10 * (j - 5))
def Tile.sideK (t : Tile) : Nat := xcOutn t.xc0 + xcRank t.xc0
/-- The masked K positions of a tile (spec/03 R81). -/
def Tile.masked (t : Tile) : List Nat := (List.range (xcOutn t.xc0)).map (xcIdx t.xc0 t.xc1)

/-- The entry an MLW with XC = n reads from instruction memory (spec/03 R78, R91). -/
def State.xcEntry (s : State) (f n : Nat) : Nat × Nat :=
  let a := s.gf R.fctXcfg_XBLK f * 4096 + 16 * n
  (leNat (s.code f a 8), leNat (s.code f (a + 8) 8))

/-- Whether an error-control entry makes its MLW illegal (spec/03 R79). -/
def xcIllegal (fmt w0 w1 : Nat) : Bool :=
  let n := xcOutn w0
  fmt == 0 || bits w0 52 50 != 0 || bits w1 63 30 != 0 || decide (n > 8) || decide (xcRank w0 > 64) ||
  decide (n + xcRank w0 > 64) ||
  (List.range 8).any (fun j =>
    if j < n then
      decide (xcIdx w0 w1 j ≥ tileK fmt) || (decide (j + 1 < n) && decide (xcIdx w0 w1 j ≥ xcIdx w0 w1 (j + 1)))
    else xcIdx w0 w1 j != 0)

def State.buf (s : State) (f b : Nat) : Option Tile := if b = 0 then (s.facet f).buf0 else (s.facet f).buf1

/-- Whether bank `b` is in reference layout (spec/03 R84). -/
def State.refLayout (s : State) (f b : Nat) : Bool := bit (s.gf R.fctAccl_REFL f) b

/-- The promotion interval of an MMA (R47, spec/03 R74). -/
def State.effPromo (s : State) (f w : Nat) : Nat := if bits w 14 6 = 0 then s.gf R.fctMcfg_PROMO f else bits w 14 6

/-- Lines between row starts of an MMA, 0 meaning the row length with its side line (R46, spec/03 R80). -/
def mmaStride (w : Nat) (t : Tile) : Nat :=
  if bits w 22 17 = 0 then rowLines t.fmt + (if t.sideK > 0 then 1 else 0) else bits w 22 17

/-- Lines of one activation row, side line included (spec/03 R80). -/
def mmaRowLines (t : Tile) : Nat := rowLines t.fmt + (if t.sideK > 0 then 1 else 0)

/-- Lines of a vector register in a memory format (R49). -/
def memLines (m : Nat) : Nat := if m = 0 ∨ m = 5 then 16 else if m = 1 then 8 else 4

/-- Lines an MST writes. -/
def mstLines (w : Nat) : Nat :=
  let n := bits w 47 40 + 1
  let o := bits w 25 23
  if o = 0 ∨ o = 4 then 2 * n else if o = 1 then n else (n + 1) / 2

/-- Mesh row and column of a Facet. -/
def State.meshRow (s : State) (f : Nat) : Nat := f / s.cols
def State.meshCol (s : State) (f : Nat) : Nat := f % s.cols

/-- The neighbour in a direction (0 N, 1 E, 2 S, 3 W), if the mesh has one (spec/02 NXFER). -/
def State.neighbour (s : State) (f dir : Nat) : Option Nat :=
  let r := s.meshRow f
  let c := s.meshCol f
  if dir = 0 then (if r = 0 then none else some (f - s.cols))
  else if dir = 1 then (if c + 1 < s.cols then some (f + 1) else none)
  else if dir = 2 then (if r = 15 then none else some (f + s.cols))
  else (if c = 0 then none else some (f - 1))

/-- Whether a direction crosses the Seam (R53). -/
def State.crossesSeam (s : State) (f dir : Nat) : Bool :=
  (dir == 2 && s.meshRow f == 7) || (dir == 0 && s.meshRow f == 8)

/-- Arc function codes of the table (R50). -/
def arcFn (fn : Nat) : Bool := decide (fn ≤ 0xC) || (decide (0x10 ≤ fn) && decide (fn ≤ 0x13))

/-! ### Illegal encodings (R33 and the rules that name one) -/

def State.mIllegal (s : State) (f w : Nat) : Bool :=
  if w = 0 then false else
  match opc w with
  | 1 =>
    let fmt := bits w 57 54
    decide (fmt > 11) || bits w 16 0 != 0 ||
    (bits w 24 17 != 0 && let e := s.xcEntry f (bits w 24 17); xcIllegal fmt e.1 e.2)
  | 2 =>
    bits w 5 0 != 0 || (decide (0 < bits w 14 6) && decide (bits w 14 6 < 16)) || decide (bits w 14 6 > 256) ||
    decide (bits w 52 45 + bits w 44 37 > 255) ||
    (bits w 15 15 == 1 && decide (bits w 52 45 + bits w 44 37 > 15)) ||
    (bits w 16 16 == 1 && s.refLayout f (bits w 54 53) != (bits w 15 15 == 1)) ||
    (match s.buf f (bits w 57 57) with
     | none => true
     | some t =>
       (bits w 56 55 == 3) != (t.fmt == 0) || decide (s.effPromo f w > promoLimit t.fmt) ||
       (decide (t.sideK > 0) && match s.buf f (1 - bits w 57 57) with
         | none => true
         | some u => u.fmt != 0))
  | 3 =>
    let b := bits w 57 56
    decide (bits w 25 23 > 4) || bits w 13 0 != 0 ||
    decide (bits w 55 48 + bits w 47 40 > (if s.refLayout f b then 15 else 255)) ||
    (bits w 19 19 == 1 && decide (bits w 47 40 > 7)) ||
    (bits w 25 23 == 4 && !bit (s.gf R.fctAccl_INTOK f) b)
  | _ => true

def vIllegal (w : Nat) : Bool :=
  if w = 0 then false else
  let op := opc w
  if op = 0x08 then
    let m := bits w 57 56
    m == 3 || bits w 55 54 == 3 || (bits w 25 25 == 1 && m != 2) || (m == 1 && bits w 19 8 == 0) ||
    (m == 2 && bits w 53 40 % 16 != 0) || bits w 3 0 != 0
  else if op = 0x09 then decide (bits w 57 55 > 5) || bits w 35 34 != 0 || bits w 33 0 != 0
  else if op = 0x0A then decide (bits w 57 55 > 5) || bits w 33 0 != 0
  else if 0x10 ≤ op ∧ op ≤ 0x1F then
    bits w 32 0 != 0 || (op == 0x16 && (bits w 56 55 != 0 || decide (bits w 41 37 > 5)))
  else true

def aIllegal (w : Nat) : Bool :=
  if w = 0 then false else
  let fn := bits w 57 52
  opc w != 0x20 || !arcFn fn || decide (bits w 51 50 > 1) || bits w 30 0 != 0 ||
  -- spec/04 R97, R102
  (bits w 51 50 == 1 && (fn == 0x0B || fn == 0x0C || fn == 0x13)) ||
  ((fn == 0x10 || fn == 0x11) && bits w 49 45 == bits w 39 35)

def State.cIllegal (s : State) (f w : Nat) : Bool :=
  if w = 0 then false else
  match opc w with
  | 0x30 => bits w 8 0 != 0 || (bits w 9 9 == 1) != s.crossesSeam f (bits w 57 56)
  | 0x31 => bits w 37 0 != 0
  | 0x32 => bits w 57 56 == 3 || bits w 25 0 != 0
  | 0x33 => bits w 56 55 == 3 || bits w 20 0 != 0
  | 0x34 =>
    bits w 20 0 != 0 || bits w 57 45 == 0 || bits w 44 21 == 0 || decide (s.pc f + bits w 57 45 > 8191) ||
    decide ((s.facet f).loops.length ≥ 4)
  | 0x35 => bits w 44 0 != 0
  | 0x36 => bits w 38 0 != 0
  | 0x37 => bits w 57 0 != 0
  | 0x38 => bits w 21 0 != 0
  | 0x39 => bits w 21 0 != 0
  | 0x3A => bits w 47 0 != 0
  | _ => true

/-- Whether the bundle at PC is illegal (R33). -/
def State.bundleIllegal (s : State) (f : Nat) : Bool :=
  let b := s.pc f
  s.mIllegal f (s.slotWord f b 0) || vIllegal (s.slotWord f b 1) || aIllegal (s.slotWord f b 2) ||
    s.cIllegal f (s.slotWord f b 3)

/-! ### Access errors (R37) -/

/-- Byte address of piece `p` of a strided gather (R42). -/
def gatherAddr (w p : Nat) : Nat := bits w 53 40 * 128 + bits w 7 4 * 8 + p * bits w 19 8 * 8

/-- The highest line a slot names, plus one; lines run from 0 to 12,287. -/
def State.lineTop (s : State) (f k w : Nat) : Nat :=
  if w = 0 then 0 else
  match k, opc w with
  | 0, 1 => max (bits w 52 39 + 64)
      (if scaleLines (bits w 57 54) = 0 then 0 else bits w 38 25 + scaleLines (bits w 57 54))
  | 0, 2 => match s.buf f (bits w 57 57) with
    | some t => bits w 36 23 + bits w 44 37 * mmaStride w t + mmaRowLines t
    | none => 0
  | 0, 3 => if bits w 19 19 = 1 then 0 else bits w 39 26 + mstLines w
  | 1, 0x08 =>
    let m := bits w 57 56
    if m = 0 then max (bits w 53 40) (bits w 39 26) + 1
    else if m = 1 then max ((gatherAddr w 15 + 7) / 128) (bits w 39 26) + 1
    else max (bits w 53 40 + 16) (if bits w 25 25 = 1 then 0 else bits w 39 26 + 16)
  | 1, 0x09 => bits w 49 36 + memLines (bits w 57 55)
  | 1, 0x0A => bits w 49 36 + memLines (bits w 57 55)
  | 3, 0x30 => max (bits w 49 36) (bits w 35 22) + 2 * (bits w 55 50 + 1)
  | 3, 0x31 => (bits w 57 42 * 32 + (bits w 41 38 + 1) * 32 + 127) / 128
  | _, _ => 0

def State.bundleAccess (s : State) (f : Nat) : Bool :=
  (List.range 4).any (fun k => decide (s.lineTop f k (s.slotWord f (s.pc f) k) > 12288))

/-! ### Undefined data (R15, R39, R64) -/

/-- Leave a destination undefined: free values. -/
def State.scramble (s : State) (f : Nat) (d : Dest) : State :=
  let r := s.fresh
  let k := r.1
  have s : State := r.2
  match d with
  | .vreg v =>
    let vs := (List.range 512).map (fun i => BitVec.ofNat 32 (Config.freeVal k i))
    s.modFacet f (fun x => { x with vregs := Sparse.blit (fun _ => 0) x.vregs (v * 512) vs })
  | .preg p => s.modFacet f (fun x => { x with pregs := Sparse.put (fun _ => 0) x.pregs p (Config.freeVal k 0 % 2 ^ 512) })
  | .line l => (s.writeMem (spAddr f (l * 128)) (freeBytes k 128)).1
  | .row b r =>
    let isRef := s.refLayout f b
    let cls := fun (n : Nat) => if n % 4 = 0 then RefCls.finite else if n % 4 = 1 then .posInf else if n % 4 = 2 then .negInf else .nan
    let cs := (List.range 64).map (fun i =>
      if isRef then Cell.ref (cls (Config.freeVal k (64 + i))) (toSigned 640 (Config.freeVal k i))
      else Cell.w48 (Config.freeVal k i % 2 ^ 48))
    s.modFacet f (fun x => { x with acc := Sparse.blit (fun _ => Cell.w48 0) x.acc ((b * 256 + r) * 64) cs })
  | .buf b =>
    let scr := fun (t : Option Tile) => t.map (fun t : Tile =>
      { t with data := Sparse.blit zeroByte [] 0 (freeBytes k 8192), scales := Sparse.blit zeroByte [] 0 ((List.range 1024).map (fun i => BitVec.ofNat 8 (Config.freeVal k (8192 + i)))) })
    s.modFacet f (fun x => if b = 0 then { x with buf0 := scr x.buf0 } else { x with buf1 := scr x.buf1 })

def State.scrambleAll (s : State) (f : Nat) (ds : List Dest) : State := ds.foldl (fun t d => t.scramble f d) s

/-- Whether the Facet can issue: running, and its group not frozen (R32, spec/12 R275). -/
def State.issuing (s : State) (f : Nat) : Bool := s.gf R.fctStat_STATE f == fsRunning && !s.facetFrozen f && s.power.sleep == 0

end Sys2Proof.Machine
end

