-- ==== Sys2Proof/Machine/Cells.lean ====
section
/-! DEFINITION. What the matrix engine computes: elements, one cell and one row in normal and reference mode, special results,
and conversion on store (spec/02 R44; spec/03 R68 to R88). -/

namespace Sys2Proof.Machine

/-! ### Elements (spec/03 R68 to R70) -/

/-- Element `k` of a `w`-bit format in a byte table whose bit string starts at byte `base` (R69). -/
def elemAt (m : List Host.Cell) (base w k : Nat) : Nat :=
  if w = 16 then (Sparse.get zeroByte m (base + 2 * k)).toNat + 256 * (Sparse.get zeroByte m (base + 2 * k + 1)).toNat
  else (Sparse.get zeroByte m (base + w * k / 8)).toNat / 2 ^ (w * k % 8) % 2 ^ w

/-- Bits of a weight element. -/
def weightBits (fmt : Nat) : Nat := if fmt = 0 then 16 else if fmt ≤ 6 then 8 else if fmt ≤ 8 then 4 else if fmt ≤ 10 then 2 else 1

/-- Group size in K positions (R69); a format without scales has one group. -/
def groupSize (fmt : Nat) : Nat := if fmt ≤ 3 then 1024 else if fmt ≤ 7 then 32 else 64

def intVal (x : Int) : FVal := dyVal ⟨x, 0⟩ false

/-- w_int of a sub-8-bit code (R70). -/
def wInt (fmt c : Nat) : Int :=
  if fmt = 7 then
    let m : Int := match c % 8 with
      | 0 => 0 | 1 => 1 | 2 => 2 | 3 => 3 | 4 => 4 | 5 => 6 | 6 => 8 | _ => 12
    if c ≥ 8 then -m else m
  else if fmt = 8 then 2 * (c : Int) - 15
  else if fmt = 9 then 2 * (c : Int) - 3
  else if fmt = 10 then (if c = 1 then 1 else if c = 3 then -1 else 0)
  else if c = 0 then -1 else 1

/-- Exponent of the format factor f (R70). -/
def fExp (fmt : Nat) : Int := if fmt ≤ 9 then -1 else 0

/-- A weight before its scale. -/
def weightVal (fmt c : Nat) : FVal :=
  if fmt = 0 then decodeBF16 c
  else if fmt = 1 ∨ fmt = 4 then decodeE4M3 c
  else if fmt = 2 ∨ fmt = 5 then decodeE5M2 c
  else if fmt = 3 then intVal (toSigned 8 c)
  else if fmt = 6 then dyVal ⟨toSigned 8 c, -6⟩ false
  else dyVal ⟨wInt fmt c, fExp fmt⟩ false

/-- The E8M0 code of a column's group; 127, which is 1.0, where the format has no scales (R69). -/
def Tile.scale (t : Tile) (g c : Nat) : Nat :=
  if scaleLines t.fmt = 0 then 127 else (Sparse.get zeroByte t.scales (g * 64 + c)).toNat

/-- Weight code `k` of column `c`. -/
def Tile.code (t : Tile) (k c : Nat) : Nat := elemAt t.data (128 * c) (weightBits t.fmt) k

/-- An activation element: AFMT 0 E4M3, 1 E5M2, 2 INT8, 3 BF16. -/
def actVal (afmt c : Nat) : FVal :=
  if afmt = 0 then decodeE4M3 c else if afmt = 1 then decodeE5M2 c else if afmt = 2 then intVal (toSigned 8 c) else decodeBF16 c

def scaleBy (v : FVal) (e : Int) : FVal :=
  match v with
  | .fin n m x => .fin n m (x + e)
  | v => v

/-- One K position of one column: whether it is masked, the activation, the weight code's value, its w_int, its group. -/
structure Pos where
  act : FVal
  aInt : Int
  w : FVal
  wi : Int
  grp : Nat
deriving DecidableEq, Repr

/-! ### Special results (R86) -/

/-- What one product or operand contributes to the special cases: NaN, +∞, -∞ seen. -/
structure Spec where
  nan : Bool
  pos : Bool
  neg : Bool
deriving DecidableEq, Repr

def Spec.none : Spec := ⟨false, false, false⟩
def Spec.or (a b : Spec) : Spec := ⟨a.nan || b.nan, a.pos || b.pos, a.neg || b.neg⟩
def Spec.any (a : Spec) : Bool := a.nan || a.pos || a.neg

def specOf : FVal → Spec
  | .nan => ⟨true, false, false⟩
  | .inf n => ⟨false, !n, n⟩
  | .fin _ _ _ => Spec.none

/-- The special result, if the rows 1 to 4 of the table apply: the class of the cell. -/
def Spec.result (a : Spec) : Option RefCls :=
  if a.nan || (a.pos && a.neg) then some .nan else if a.pos then some .posInf else if a.neg then some .negInf else Option.none

/-! ### One cell in normal mode (R74 to R76) -/

/-- a_int of an activation for a row exponent (R75). -/
def aIntOf (afmt : Nat) (eRow : Int) (v : FVal) : Int :=
  match v with
  | .fin n m e => if afmt = 2 then v.dy.m * (pow2 e : Nat) else roundInt .nearest (.fin n m (e + 6 - eRow))
  | _ => 0

/-- floor(log2 |a|) of a finite non-zero activation. -/
def expOf : FVal → Option Int
  | .fin _ m e => if m = 0 then none else some ((m.log2 : Int) + e)
  | _ => none

/-- e_row (R75): the largest exponent of the row's finite, non-zero, unmasked activations; 0 if there are none. -/
def eRowOf (acts : List FVal) : Int :=
  match acts.filterMap expOf with
  | [] => 0
  | h :: t => t.foldl max h

def w48Dy (w : Nat) : Dy := (decodeW48 w).dy

/-- The wide path: blocks of 32 products, each block promoted once (R74). -/
def widePath (acc : Nat) : Nat → List Dy → Nat
  | 0, _ => acc
  | k + 1, ps => if ps.isEmpty then acc else widePath (round48 ((w48Dy acc).add (Dy.sum (ps.take 32)))) k (ps.drop 32)

/-- The narrow path (R74): `run` and `n` since the last promotion, the present scale code. -/
def narrowPath (prom : Int → Nat → Dy) (pmax : Nat) (scale : Nat → Nat) : List Pos → Nat → Int → Nat → Nat → Nat
  | [], acc, run, _, sc => round48 ((w48Dy acc).add (prom run sc))
  | p :: t, acc, run, n, sc =>
    if n = pmax ∨ scale p.grp ≠ sc then
      narrowPath prom pmax scale t (round48 ((w48Dy acc).add (prom run sc))) (p.aInt * p.wi) 1 (scale p.grp)
    else narrowPath prom pmax scale t acc (run + p.aInt * p.wi) (n + 1) sc

/-- What a column's operands show of NaN and infinity (R86): products, side products, scales of its groups. -/
def specials (main side : List (FVal × FVal)) (scales : List Nat) : Spec :=
  let pr := fun (x : FVal × FVal) => (specOf (mulV x.1 x.2))
  let s := (main ++ side).foldl (fun a x => a.or (pr x)) Spec.none
  if scales.contains 0xFF then { s with nan := true } else s

/-- A W48 cell of a special class (R73). -/
def clsW48 : RefCls → Nat
  | .nan => w48Nan
  | .posInf => w48Inf false
  | .negInf => w48Inf true
  | .finite => 0

/-- The start value's special class. -/
def specOfCell (w : Nat) : Spec := specOf (decodeW48 w)

/-- A column's operands: K positions, side products, scale code by group, groups. -/
structure Column where
  pos : List Pos
  side : List (FVal × FVal)
  scale : List Nat
deriving DecidableEq, Repr

def Column.spec (c : Column) : Spec := specials (c.pos.map (fun p => (p.act, p.w))) c.side c.scale

/-- A cell after one normal-mode row, and whether a special condition was met (R74, R86). -/
def cellNormal (fmt afmt pmax : Nat) (eRow : Int) (start : Nat) (c : Column) : Nat × Bool :=
  let sp := (specOfCell start).or c.spec
  match sp.result with
  | some k => (clsW48 k, true)
  | none =>
    let acc := if c.side.isEmpty then start
      else round48 ((w48Dy start).add (Dy.sum (c.side.map (fun x => (mulV x.1 x.2).dy))))
    let sc := fun g => c.scale.getD g 127
    if fmt ≤ 6 then
      let ps := c.pos.map (fun p => (scaleBy (mulV p.act p.w) ((sc p.grp : Int) - 127)).dy)
      (widePath acc (ps.length + 1) ps, false)
    else
      let alpha : Int := if afmt = 2 then 0 else eRow - 6
      let prom := fun (run : Int) (x : Nat) => (⟨run, fExp fmt + (x : Int) - 127 + alpha⟩ : Dy)
      (narrowPath prom pmax sc c.pos acc 0 0 (sc 0), false)

/-! ### One cell in reference mode (R83, R86) -/

/-- A dyadic number in units of 2^-300. -/
def toUnits (d : Dy) : Int := if d.e + 300 ≥ 0 then d.m * (pow2 (d.e + 300) : Nat) else d.m / (pow2 (-(d.e + 300)) : Nat)

def cellRef (start : RefCls × Int) (c : Column) : (RefCls × Int) × Bool :=
  let s0 : Spec := match start.1 with
    | .nan => ⟨true, false, false⟩
    | .posInf => ⟨false, true, false⟩
    | .negInf => ⟨false, false, true⟩
    | .finite => Spec.none
  match (s0.or c.spec).result with
  | some k => ((k, 0), true)
  | none =>
    let main := c.pos.map (fun p => toUnits (scaleBy (mulV p.act p.w) ((c.scale.getD p.grp 127 : Int) - 127)).dy)
    let side := c.side.map (fun x => toUnits (mulV x.1 x.2).dy)
    ((.finite, start.2 + main.foldl (· + ·) 0 + side.foldl (· + ·) 0), false)

def Cell.asW48 : Cell → Nat
  | .w48 v => v
  | .ref _ _ => 0

def Cell.asRef : Cell → RefCls × Int
  | .w48 _ => (.finite, 0)
  | .ref k v => (k, v)

/-! ### A row -/

/-- The K positions of a row for a tile: activations with the masked positions taken as zero (R81). -/
def rowActs (t : Tile) (afmt : Nat) (line : List Host.Cell) : List FVal :=
  let m := t.masked
  (List.range (tileK t.fmt)).map (fun k =>
    if m.contains k then .fin false 0 0 else actVal afmt (elemAt line 0 (if afmt = 3 then 16 else 8) k))

/-- Column `c` of a tile against a row. A masked position contributes nothing, whatever its weight code (R81). -/
def columnOf (t : Tile) (side : Option Tile) (afmt : Nat) (eRow : Int) (acts : List FVal) (sideLine : List Host.Cell) (c : Nat) : Column :=
  let m := t.masked
  let pos := (acts.zipIdx).map (fun (ak : FVal × Nat) =>
    let code := if m.contains ak.2 then 0 else t.code ak.2 c
    let w := if m.contains ak.2 then FVal.fin false 0 0 else weightVal t.fmt code
    (⟨ak.1, aIntOf afmt eRow ak.1, w, if m.contains ak.2 then 0 else wInt t.fmt code, ak.2 / groupSize t.fmt⟩ : Pos))
  let sides := match side with
    | some u => (List.range t.sideK).map (fun j => (decodeBF16 (elemAt sideLine 0 16 j), decodeBF16 (u.code j c)))
    | none => []
  let groups := (tileK t.fmt + groupSize t.fmt - 1) / groupSize t.fmt
  ⟨pos, sides, (List.range groups).map (fun g => t.scale g c)⟩

/-- The side tile an MMA of tile `t` uses (R80). -/
def sideTile (t : Tile) (other : Option Tile) : Option Tile := if t.sideK > 0 then other else none

/-- Row `i` of an MMA: 64 cells from their start values, and whether a special condition was met. -/
def rowNormal (t : Tile) (other : Option Tile) (afmt pmax : Nat) (start : List Cell) (main side : List Host.Cell) : List Cell × Bool :=
  let acts := rowActs t afmt main
  let e := eRowOf acts
  let rs := (start.zipIdx).map (fun x => cellNormal t.fmt afmt pmax e x.1.asW48 (columnOf t (sideTile t other) afmt e acts side x.2))
  (rs.map (fun r => .w48 r.1), rs.any Prod.snd)

def rowRef (t : Tile) (other : Option Tile) (afmt : Nat) (start : List Cell) (main side : List Host.Cell) : List Cell × Bool :=
  let acts := rowActs t afmt main
  let rs := (start.zipIdx).map (fun x => cellRef x.1.asRef (columnOf t (sideTile t other) afmt 0 acts side x.2))
  (rs.map (fun r => .ref r.1.1 r.1.2), rs.any Prod.snd)

/-- Accumulator cells of row `r` of bank `b`. -/
def Facet.accRow (x : Facet) (b r : Nat) : List Cell := Sparse.gets (fun _ => Cell.w48 0) x.acc ((b * 256 + r) * 64) 64

def State.putRow (s : State) (f b r : Nat) (cs : List Cell) : State :=
  s.modFacet f (fun x => { x with acc := Sparse.blit (fun _ => Cell.w48 0) x.acc ((b * 256 + r) * 64) cs })

/-- A finite zero of the reference layout is stored as the zero cell that an unwritten cell reads as. -/
def normCell : Cell → Cell
  | .ref .finite 0 => .w48 0
  | c => c

/-- Whether an MMA keeps its bank storable as INT32 (R88). -/
def intOk (w : Nat) (t : Tile) : Bool :=
  bits w 56 55 == 2 && (t.fmt == 3 || t.fmt == 6 || decide (t.fmt ≥ 8)) && t.sideK == 0

/-! ### Conversion on store (spec/03 R85, R87) -/

/-- The exact value of a cell. -/
def Cell.val (isRef : Bool) (c : Cell) : FVal :=
  if isRef then
    match c.asRef with
    | (.nan, _) => .nan
    | (.posInf, _) => .inf false
    | (.negInf, _) => .inf true
    | (.finite, v) => dyVal ⟨v, -300⟩ false
  else decodeW48 c.asW48

/-- Bytes of an output element. -/
def outBytes (ofmt : Nat) : Nat := if ofmt = 0 ∨ ofmt = 4 then 4 else if ofmt = 1 then 2 else 1

/-- A row converted to OFMT: its codes and the flags raised. -/
def convertRow (isRef : Bool) (ofmt : Nat) (r : Rnd) (cs : List Cell) : List Nat × CvtFlags :=
  let xs := cs.map (fun c => cvtOut ofmt r (c.val isRef))
  (xs.map Prod.fst, xs.foldl (fun g x => g.or x.2) {})

/-- The FP32 or INT32 lane of an MST with VDST = 1: an OFMT result widened exactly (R48). -/
def widenOut (ofmt c : Nat) : Word :=
  if ofmt = 0 ∨ ofmt = 4 then BitVec.ofNat 32 c else toF (decodeElem ofmt c)

end Sys2Proof.Machine
end

