-- ==== Sys2Proof/Machine/Lanes.lean ====
section
/-! DEFINITION. What the vector unit and the scratchpad moves compute, lane by lane and byte by byte (spec/02 R42, R43, R49;
spec/03 R89, R90). -/

namespace Sys2Proof.Machine

/-! ### Lane arithmetic (R89) -/

def shiftCount (b : Word) : Nat := b.toNat % 32

/-- Lanes whose predicate bit is 0 keep their old value when PEN = 1 (R49). -/
def maskLanes (pen : Bool) (p : Nat) (old new : List Word) : List Word :=
  if pen then ((old.zip new).zipIdx).map (fun x => if bit p x.2 then x.1.2 else x.1.1) else new

/-- One tree level of a reduction: lanes 2j and 2j+1 (R49). -/
def treeLevel (op : Word → Word → Word) : List Word → List Word
  | a :: b :: t => op a b :: treeLevel op t
  | l => l

/-- A reduction over `n` levels of the fixed tree. -/
def treeReduce (op : Word → Word → Word) : Nat → List Word → Word
  | 0, l => l.headD 0
  | n + 1, l => treeReduce op n (treeLevel op l)

def smaxW (a b : Word) : Word := if a.toInt < b.toInt then b else a
def sminW (a b : Word) : Word := if a.toInt < b.toInt then a else b

/-- The relation of a CMP code on FP32 and INT32 lanes (R49, R89). -/
def cmpLane (int : Bool) (code : Nat) (a b : Word) : Bool :=
  let x := ofF a
  let y := ofF b
  let ok := int || (!x.isNan && !y.isNan)
  let lt := if int then decide (a.toInt < b.toInt) else ltV x y
  let gt := if int then decide (b.toInt < a.toInt) else ltV y x
  ok && (match code with
    | 0 => !lt && !gt
    | 1 => lt || gt
    | 2 => lt
    | 3 => !gt
    | 4 => gt
    | _ => !lt)

/-- A vector of lane results as a predicate value. -/
def lanesToPred : List Bool → Nat
  | [] => 0
  | b :: t => b2n b + 2 * lanesToPred t

/-! ### Operand fields (R49) -/

def vTy (w : Nat) : Bool := bit w 57
def vDst (w : Nat) : Nat := bits w 56 52
def vS1 (w : Nat) : Nat := bits w 51 47
def vS2 (w : Nat) : Nat := bits w 46 42
def vS3 (w : Nat) : Nat := bits w 41 37
def vPred (w : Nat) : Nat := bits w 36 34
def vPen (w : Nat) : Bool := bit w 33

def predSrc (w : Nat) : List Dest := if vPen w then [.preg (vPred w)] else []

/-! ### VLD and VST (R49, R90) -/

/-- Bytes of an element of a MEMFMT. -/
def memBytes (m : Nat) : Nat := if m = 0 ∨ m = 5 then 4 else if m = 1 then 2 else 1

/-- A lane as VLD widens it. -/
def vldLane (m c : Nat) : Word :=
  if m = 0 ∨ m = 5 then BitVec.ofNat 32 c
  else if m = 4 then BitVec.ofNat 32 (ofSigned 32 (toSigned 8 c))
  else toF (decodeElem m c)

/-- A lane as VST stores it, with the flags raised. -/
def vstLane (m : Nat) (r : Rnd) (v : Word) : Nat × CvtFlags :=
  if m = 0 then (v.toNat, { nanOut := (ofF v).isNan, infOut := (ofF v).isInf })
  else if m = 5 then (v.toNat, {})
  else if m = 4 then
    let x := satInt (-128) 127 v.toInt
    (ofSigned 8 x.1, { intSat := x.2 })
  else cvtOut m r (ofF v)

/-- Elements of `n` bytes from a byte string. -/
def elemsOf (n : Nat) : Nat → List Byte → List Nat
  | 0, _ => []
  | k + 1, bs => leNat (bs.take n) :: elemsOf n k (bs.drop n)

/-! ### Moves (R42, R43) -/

/-- The lines of a gather, each once, in ascending order. -/
def gatherLines (w : Nat) : List Nat := ((List.range 16).map (fun p => gatherAddr w p / 128)).eraseDups

/-- The cycle offset on which a gather reads a line: its rank among the lines of its bank (R42). -/
def gatherRank (ls : List Nat) (l : Nat) : Nat := (ls.filter (fun m => m % 16 == l % 16 && decide (m < l))).length

/-- Slice `sl` of a transposed block of 16 lines whose bytes are `blk`, with elements of `e` bytes (R43). -/
def transposeSlice (blk : List Byte) (e sl : Nat) : List Byte :=
  (List.range (128 / e)).flatMap (fun k => (blk.drop ((k % 16) * 128 + (sl * (8 / e) + k / 16) * e)).take e)

end Sys2Proof.Machine
end

