-- ==== Sys2Proof/Machine/Cycle.lean ====
section
/-! DEFINITION. Facet cycles: the groups and their cycle counters, what the operations in flight read and write on each cycle,
the scheduled ports, how results land, and the issue of a slot (spec/02 R32 to R41, R45 to R64). A command of a slot's row is
the issue of that slot; the slots of one bundle issue on one cycle, and the last of them closes the bundle. The cycles that
must pass before the event a command names can occur pass first, as long as no Facet of the group has a bundle to issue on
the present one. -/

namespace Sys2Proof.Machine

/-! ### Groups (R34, R36) -/

/-- The group of a Facet: 2p + die for the Facets of partition p on a die, 32 + f for a group of one. -/
def State.groupOf (s : State) (f : Nat) : Nat :=
  if (s.facet f).solo then 32 + f else
  match s.facetPart f with
  | some p => 2 * p + s.dieOf f
  | none => 32 + f

def State.members (s : State) (g : Nat) : List Nat := (List.range s.facetCount).filter (fun f => s.groupOf f == g)

def State.group (s : State) (g : Nat) : Group := Sparse.get (fun _ => ⟨0, none⟩) s.groups g

def State.setGroup (s : State) (g : Nat) (x : Group) : State :=
  { s with groups := Sparse.put (fun _ => ⟨0, none⟩) s.groups g x }

/-- The GCC of a group on the present cycle (R34). While no member issues and the group is not stalled it goes on as time passes
(`State.spin`). -/
def State.gcc (s : State) (g : Nat) : Nat := (s.group g).gcc

/-- Fix the GCC of a group at its present value. -/
def State.wakeGroup (s : State) (g : Nat) : State := s.setGroup g ⟨s.gcc g, none⟩

/-- Facets whose FCT_STAT has a STATE other than idle: those of a group. -/
def State.atWork (s : State) (g : Nat) : List Nat :=
  ((s.regs.filter (fun x => decide (x.1 / 1048576 = cardIdx .fctStat))).map (fun x => x.1 % 1048576)).filter
    (fun f => decide (f < s.facetCount) && s.groupOf f == g && s.gf R.fctStat_STATE f != fsIdle)

/-- The members of a group that issue. -/
def State.runners (s : State) (g : Nat) : List Nat := (s.atWork g).filter (fun f => s.gf R.fctStat_STATE f == fsRunning)

/-- Whether a Facet has arrived at a group wait. -/
def State.atGroupWait (s : State) (f : Nat) : Bool :=
  s.gf R.fctStat_STATE f == fsStalled && (match (s.facet f).wait with
    | some v => v.grp
    | none => false)

/-- Whether a group stalls: an aligned member is at its group wait, or every member is (R36). -/
def State.stalledGroup (s : State) (g : Nat) : Bool :=
  let ws := (s.atWork g).filter (fun f => s.atGroupWait f)
  ws.any (fun f => s.gf R.fctStat_DETACHED f == 0) || (!ws.isEmpty && (s.members g).all (fun f => s.atGroupWait f))

/-- Whether a freeze or sleep holds a group's pipelines (R32, spec/12 R275, spec/15 R351). -/
def State.groupHeld (s : State) (g : Nat) : Bool :=
  s.power.sleep != 0 || (if g < 32 then (s.prt (g / 2)).frozen else s.facetFrozen (g - 32))

/-! ### Results that a program may not use yet (spec/01 R14, R15) -/

/-- The bytes a program reads from a local offset: those of a token-scheduled result whose counter wait has not been
satisfied are undefined. -/
def State.consume (s : State) (a : Nat) (bs : List Byte) : State × List Byte :=
  let us := s.unwaited.filter (fun u => decide (u.lo < a + bs.length) && decide (a < u.lo + u.len))
  if us.isEmpty then (s, bs)
  else
    let r := s.fresh
    (r.2, (bs.zipIdx).map (fun x =>
      if us.any (fun u => decide (u.lo ≤ a + x.2) && decide (a + x.2 < u.lo + u.len)) then BitVec.ofNat 8 (Config.freeVal r.1 x.2)
      else x.1))

/-- Bytes read from the local ranges `ps` by something other than a program: those of a token-scheduled result that nothing orders
before the read (`ord`) and that no wait has made usable are undefined (R15). -/
def State.unsettled (s : State) (ps : List (Nat × Nat)) (ord : Unwaited → Bool) (bs : List Byte) : State × List Byte :=
  let us := s.unwaited.filter (fun u => !ord u && ps.any (fun x => overlaps u.lo u.len x.1 x.2))
  if us.isEmpty then (s, bs)
  else
    let r := s.fresh
    let addrs := ps.flatMap (fun x => (List.range x.2).map (fun i => x.1 + i))
    (r.2, (bs.zipIdx).map (fun x =>
      if us.any (fun u => overlaps u.lo u.len (addrs.getD x.2 0) 1) then BitVec.ofNat 8 (Config.freeVal r.1 x.2) else x.1))

/-- Note what an operation will write: part `run` of it, told of by counters of Facet `f`. -/
def State.expect (s : State) (f by_ uid run : Nat) (rs : List (Nat × Nat)) : State :=
  { s with unwaited := s.unwaited ++ rs.map (fun x => ⟨f, x.1, x.2, by_, uid, run, []⟩) }

/-- A counter tells of the parts of an operation that `is` names. -/
def State.arrivedRuns (s : State) (uid ctr : Nat) (is : Nat → Bool) : State :=
  if s.unwaited.isEmpty then s else
  { s with unwaited := s.unwaited.map (fun u => if u.uid = uid ∧ is u.run then { u with told := u.told ++ [ctr] } else u) }

/-- The operation has completed, and a counter tells of all of it. -/
def State.arrivedAll (s : State) (uid ctr : Nat) : State := s.arrivedRuns uid ctr (fun _ => true)

/-- A wait on a counter has been satisfied. -/
def State.waited (s : State) (f ctr : Nat) : State :=
  { s with unwaited := s.unwaited.filter (fun u => !(u.facet == f && u.told.contains ctr)) }

/-! ### What waiting costs (spec/12 R282) -/

/-- FD and HD of a counter. -/
def Facet.hidden (x : Facet) (c : Nat) : Nat × Nat := Sparse.get (fun _ => (0, 0)) x.hid c

/-- A token-scheduled operation, held for `h`, is about to increment a counter of a partition's Facet. -/
def State.noteDelay (s : State) (f c h : Nat) : State :=
  if (s.facetPart f).isNone then s else
  s.modFacet f (fun x => { x with
    hid := Sparse.put (fun _ => (0, 0)) x.hid c (max (x.hidden c).1 (Config.foreignDelay s.time f c), max (x.hidden c).2 h) })

/-- A wait on a counter has been satisfied after it stalled for `n`: its group is credited, FD and HD clear. -/
def State.credit (s : State) (f c n : Nat) : State :=
  match s.facetPart f with
  | none => s
  | some p =>
    let d := (s.facet f).hidden c
    let a := min n d.1
    let g := s.groupOf f
    have s : State := s.modFacet f (fun x => { x with hid := Sparse.put (fun _ => (0, 0)) x.hid c (0, 0) })
    s.modRail p (fun r =>
      let y := Sparse.get (fun _ => (0, 0)) r.credits g
      { r with credits := Sparse.put (fun _ => (0, 0)) r.credits g (y.1 + a, y.2 + min (n - a) d.2) })

/-! ### Waits (R36, R57) -/

/-- Whether a wait meets a counter with ERR set; a group wait with COND = none tests no counter (R57). -/
def State.waitErr (s : State) (f : Nat) (v : WaitRec) : Bool :=
  !(v.grp && v.cond == 0) && s.gf R.fctSb_ERR (f * 64 + v.ctr) == 1

def State.waitOk (s : State) (f : Nat) (v : WaitRec) : Bool := v.cond == 0 || decide (s.gf R.fctSb_COUNT (f * 64 + v.ctr) ≥ v.bound)

/-- Whether a member has arrived at its group wait and its condition holds. -/
def State.arrived (s : State) (f : Nat) : Bool :=
  s.gf R.fctStat_STATE f == fsStalled && (match (s.facet f).wait with
    | some v => v.grp && !s.waitErr f v && s.waitOk f v
    | none => false)

/-! ### What an operation in flight does on a cycle (R41 to R58, R63) -/

def opMlw : Nat := 1
def opMma : Nat := 2
def opMst : Nat := 3
def opSpmov : Nat := 8
def opVld : Nat := 9
def opVst : Nat := 10
def opNxfer : Nat := 0x30
def opPour : Nat := 0x31

/-- Consecutive lines. -/
def linesFrom (l n : Nat) : List Nat := (List.range n).map (fun i => l + i)

/-- Whether a transfer crosses the Seam. -/
def nxSeam (w : Nat) : Bool := bit w 9

/-- Work that is token-scheduled, and so goes on while a group stalls: descriptor reads and beats into a Seam buffer (R36). -/
def Flight.token (x : Flight) : Bool := opc x.w == opPour || (opc x.w == opNxfer && nxSeam x.w)

/-- Cycles between the rows of an MMA (R47). -/
def mmaStep (w : Nat) : Nat := if bits w 15 15 = 1 then 16 else 1

/-- The descriptor lines of a POUR (R58). -/
def pourLines (w : Nat) : List Nat :=
  let a := bits w 57 42 * 32
  linesFrom (a / 128) ((a + (bits w 41 38 + 1) * 32 + 127) / 128 - a / 128)

/-- Cycles on which a gather reads (R42). -/
def gatherK (w : Nat) : Nat := ((gatherLines w).map (fun l => gatherRank (gatherLines w) l + 1)).foldl max 0

/-- The cycle of an MST's last write, counted from the issue: FP8 rows go to their lines in pairs (R48). -/
def mstLast (w : Nat) : Nat := 2 + (if bits w 19 19 = 0 ∧ outBytes (bits w 25 23) = 1 then bits w 47 40 / 2 else bits w 47 40)

/-- The last cycle, counted from the issue, on which the operation does something or keeps its unit (R63). -/
def Flight.lastAge (lat : Nat) (x : Flight) : Nat :=
  let w := x.w
  if opc w = opMlw then (if scaleLines (bits w 57 54) = 0 then 7 else 8)
  else if opc w = opMma then mmaStep w * (bits w 44 37 + 1) - 1
  else if opc w = opMst then mstLast w
  else if opc w = opSpmov then
    (if bits w 57 56 = 0 then 1 else if bits w 57 56 = 1 then gatherK w else if bits w 25 25 = 1 then 0 else 16)
  else if opc w = opVld then 0
  else if opc w = opVst then 2
  else if opc w = opNxfer then bits w 55 50 + (if nxSeam w then 0 else lat)
  else (pourLines w).length - 1

/-- The lines the operation reads on its present cycle. -/
def Flight.reads (x : Flight) : List Nat :=
  let w := x.w
  let a := x.age
  if opc w = opMlw then
    (if a < 8 then linesFrom (bits w 52 39 + 8 * a) 8 else if a = 8 then linesFrom (bits w 38 25) (scaleLines (bits w 57 54)) else [])
  else if opc w = opMma then
    match x.tile with
    | some t => if a % mmaStep w = 0 ∧ a / mmaStep w ≤ bits w 44 37 then linesFrom (bits w 36 23 + a / mmaStep w * mmaStride w t) (mmaRowLines t) else []
    | none => []
  else if opc w = opSpmov then
    (if bits w 57 56 = 1 then (gatherLines w).filter (fun l => gatherRank (gatherLines w) l == a)
     else if a = 0 then linesFrom (bits w 53 40) (if bits w 57 56 = 0 then 1 else 16) else [])
  else if opc w = opVld then (if a = 0 then linesFrom (bits w 49 36) (memLines (bits w 57 55)) else [])
  else if opc w = opNxfer then (if a ≤ bits w 55 50 then linesFrom (bits w 49 36 + 2 * a) 2 else [])
  else if opc w = opPour then ((pourLines w)[a]?).toList
  else []

/-- The lines of its destination the operation writes on its present cycle; `lat` is L of a transfer. -/
def Flight.writes (lat : Nat) (x : Flight) : List Nat :=
  let w := x.w
  let a := x.age
  if opc w = opMst then
    (if bits w 19 19 = 1 ∨ a < 2 then [] else
     (linesFrom (bits w 39 26) (mstLines w)).filter (fun l =>
       let o := bits w 25 23
       (if o = 0 ∨ o = 4 then (l - bits w 39 26) / 2 else l - bits w 39 26) == a - 2))
  else if opc w = opSpmov then
    (if bits w 57 56 = 0 then (if a = 1 then [bits w 39 26] else [])
     else if bits w 57 56 = 1 then (if a = gatherK w then [bits w 39 26] else [])
     else if bits w 25 25 = 1 ∨ a = 0 then [] else [bits w 39 26 + (a - 1)])
  else if opc w = opVst then (if a = 2 then linesFrom (bits w 49 36) (memLines (bits w 57 55)) else [])
  else if opc w = opNxfer then (if nxSeam w ∨ a < lat then [] else linesFrom (bits w 35 22 + 2 * (a - lat)) 2)
  else []

/-- The bytes the operation writes to a line: those it has read, by their scratchpad address, or those it took from a
register or the accumulators, from 0. -/
def Flight.bytesOf (x : Flight) (l : Nat) : List Byte :=
  let w := x.w
  let get := fun (a n : Nat) => Sparse.gets (fun _ => (0 : Byte)) x.data a n
  if opc w = opMst then
    (let n := (bits w 47 40 + 1) * 64 * outBytes (bits w 25 23)
     get ((l - bits w 39 26) * 128) (min 128 (n - (l - bits w 39 26) * 128)))
  else if opc w = opSpmov then
    (if bits w 57 56 = 0 then get (bits w 53 40 * 128) 128
     else if bits w 57 56 = 1 then (List.range 16).flatMap (fun p => get (gatherAddr w p) 8)
     else transposeSlice (get (bits w 53 40 * 128) 2048) (2 ^ bits w 55 54) (l - bits w 39 26))
  else if opc w = opVst then get ((l - bits w 49 36) * 128) 128
  else get ((l - bits w 35 22 + bits w 49 36) * 128) 128

/-- L of a transfer: 2, and 3 for East and West on an LD part (R51). -/
def State.linkLatency (s : State) (dir : Nat) : Nat := if (dir = 1 ∨ dir = 3) ∧ s.part.ld then 3 else 2

def State.flightLat (s : State) (x : Flight) : Nat := s.linkLatency (bits x.w 57 56)

/-! ### Reading a line (R40) -/

/-- A read through the scheduled port: an uncorrectable unit halts the Facet on this cycle and gives undefined data, a
corrected one is logged. -/
def State.takeLine (s : State) (f l : Nat) : State × List Byte :=
  let a := spAddr f (l * 128)
  have s : State := if s.ecMem.isEmpty then s else s.reportEc a 128
  if !(s.ucAt a 128).isEmpty then
    have s : State := if s.gf R.fctStat_STATE f = fsRunning ∨ s.gf R.fctStat_STATE f = fsStalled then s.haltErr f eSpUc (s.fga a)
      else s.facetErr f eSpUc (s.fga a)
    let r := s.fresh
    (r.2, freeBytes r.1 128)
  else s.consume a (s.readMem a 128)

/-- Lines in order. -/
def State.takeLines (s : State) (f : Nat) (ls : List Nat) : State × List Byte :=
  ls.foldl (fun (acc : State × List Byte) l =>
    let r := acc.1.takeLine f l
    (r.1, acc.2 ++ r.2)) (s, [])

/-! ### What is read, by operation -/

/-- Lines of a tile enter its buffer (R45). -/
def State.fillTile (s : State) (f : Nat) (x : Flight) (bs : List Byte) : State :=
  let r := s.fresh
  let bs := if x.spoilt then freeBytes r.1 bs.length else bs
  let fill := fun (t : Tile) =>
    if x.age < 8 then { t with data := Sparse.blit zeroByte t.data (x.age * 1024) bs }
    else { t with scales := Sparse.blit zeroByte t.scales 0 bs }
  (if x.spoilt then r.2 else s).modFacet f (fun y =>
    if bits x.w 53 53 = 0 then { y with buf0 := y.buf0.map fill } else { y with buf1 := y.buf1.map fill })

/-- A row of an MMA (R47, spec/03 R74, R83, R86): FCT_ASTAT and 0x8011:01 once for the operation that meets a special operand. -/
def State.mmaRow (s : State) (f : Nat) (x : Flight) (bs : List Byte) : State × Flight :=
  match x.tile with
  | none => (s, x)
  | some t =>
    let b := bits x.w 54 53
    let r := bits x.w 52 45 + x.age / mmaStep x.w
    if x.spoilt then (s.scramble f (.row b r), x)
    else
      let n := rowLines t.fmt * 128
      let main := Sparse.listing zeroByte 0 (bs.take n)
      let side := Sparse.listing zeroByte 0 (bs.drop n)
      let start := if bits x.w 16 16 = 1 then (s.facet f).accRow b r else List.replicate 64 (Cell.w48 0)
      let q := if bits x.w 15 15 = 1 then rowRef t x.side (bits x.w 56 55) start main side
        else rowNormal t x.side (bits x.w 56 55) x.promo start main side
      have s : State := s.putRow f b r (q.1.map normCell)
      have s : State := if q.2 && !x.met then (s.setBit .fctAstat f 0).bump 0x8011 1 else s
      (s, { x with met := x.met || q.2 })

def State.seam (s : State) (lane : Nat) : List SeamXfer := Sparse.get (fun _ => []) s.seams lane

def State.setSeam (s : State) (lane : Nat) (l : List SeamXfer) : State :=
  { s with seams := Sparse.put (fun _ => []) s.seams lane l }

/-- Beats that count against the limit of 64 (R54). -/
def seamBeats (l : List SeamXfer) : Nat := (l.map (fun x => x.kept.length)).foldl (· + ·) 0

/-- A Facet's lane in a direction. -/
def State.seamLane (s : State) (f dir : Nat) : Nat := s.meshCol f * 2 + (if dir = 2 then 0 else 1)

/-- A beat enters the Seam buffer, or is discarded beyond the limit: SEAM_OVF, and ERR of both counters (R53, R54). -/
def State.seamBeat (s : State) (f : Nat) (x : Flight) (bs : List Byte) : State :=
  let lane := s.seamLane f (bits x.w 57 56)
  let q := s.seam lane
  match q.find? (fun y => decide (y.uid = x.uid)) with
  | none => s
  | some y =>
    let room := decide (seamBeats q < 64)
    let y' : SeamXfer := { y with
      left := y.left - 1
      kept := if room then y.kept ++ [x.age] else y.kept
      data := if room then Sparse.blit zeroByte y.data (x.age * 256) bs else y.data
      overrun := y.overrun || !room }
    have s : State := s.setSeam lane (q.map (fun z => if z.uid = x.uid then y' else z))
    if !room && !y.overrun then
      ((s.facetErr f eSeamOvf lane).sf R.fctSb_ERR (y.dst * 64 + y.ctr) 1).sf R.fctSb_ERR (f * 64 + y.ack) 1
    else s

def pourDescAt (bs : List Byte) (uid i : Nat) : PourDesc :=
  let w := fun (k : Nat) => leNat ((bs.drop (32 * i + 8 * k)).take 8)
  ⟨uid, w 0, w 1, w 2, w 3, false, [], 0⟩

/-- Show the count of descriptors that have not completed (R59). -/
def State.showPour (s : State) (f : Nat) : State := s.sf R.fctStat_POUR_OUT f (s.facet f).pourQ.length

def State.setPourQ (s : State) (f : Nat) (q : List PourDesc) : State :=
  (s.modFacet f (fun x => { x with pourQ := q })).showPour f

/-- The descriptors that lie in a line enter the Pour engine's queue; those beyond sixteen are dropped (R58, R59). -/
def State.pourLine (s : State) (f : Nat) (x : Flight) (bs : List Byte) : State × Flight :=
  let a := bits x.w 57 42 * 32
  let n := bits x.w 41 38 + 1
  let l := a / 128 + x.age
  let here := (List.range n).filter (fun i => (a + 32 * i) / 128 == l)
  let q := (s.facet f).pourQ
  let ds := (here.zipIdx).map (fun i => pourDescAt bs (s.uid + i.2) ((a + 32 * i.1) % 128 / 32))
  have s : State := { s with uid := s.uid + ds.length }
  have s : State := s.setPourQ f (q ++ ds.take (16 - q.length))
  if q.length + ds.length > 16 ∧ !x.met then (s.facetErr f ePourOvf n, { x with met := true }) else (s, x)

/-- A result on its way to a register: an earlier one no longer makes the register unready. -/
def Put.dest : Put → Dest
  | .vreg r _ _ _ => .vreg r
  | .preg p _ _ => .preg p

def State.addLand (s : State) (f : Nat) (l : Land) : State :=
  s.modFacet f (fun x => { x with
    lands := x.lands.map (fun y => if !l.quiet && y.put.dest == l.put.dest then { y with quiet := true } else y) ++ [l] })

/-- The lanes a VLD has read (R49, R90). -/
def vldLanes (w : Nat) (bs : List Byte) : List Word :=
  (elemsOf (memBytes (bits w 57 55)) 512 bs).map (vldLane (bits w 57 55))

/-- A block transposed into a register (R43). -/
def transLanes (w : Nat) (bs : List Byte) : List Word :=
  (elemsOf 4 512 ((List.range 16).flatMap (transposeSlice bs (2 ^ bits w 55 54)))).map (BitVec.ofNat 32)

/-- Bytes read, by scratchpad address. -/
def keepLines : List Nat → List Byte → List Host.Cell → List Host.Cell
  | [], _, m => m
  | l :: ls, bs, m => keepLines ls (bs.drop 128) (Sparse.blit zeroByte m (l * 128) (bs.take 128))

/-- The reads of one operation on the present cycle, and what becomes of them. -/
def State.readStep (s : State) (f : Nat) (x : Flight) : State × Flight :=
  if x.reads.isEmpty then (s, x) else
  let r := s.takeLines f x.reads
  let w := x.w
  if opc w = opMlw then (r.1.fillTile f x r.2, x)
  else if opc w = opMma then r.1.mmaRow f x r.2
  else if opc w = opVld then (r.1.addLand f ⟨.vreg (bits w 54 50) 0 (vldLanes w r.2) none, 0, 4, 3, 0, false, x.spoilt⟩, x)
  else if opc w = opNxfer ∧ nxSeam w then
    (let q := r.1.fresh
     if x.spoilt then (q.2.seamBeat f x (freeBytes q.1 256), x) else (r.1.seamBeat f x r.2, x))
  else if opc w = opPour then r.1.pourLine f x r.2
  else if opc w = opSpmov ∧ bits w 57 56 = 2 ∧ bits w 25 25 = 1 then
    (r.1.addLand f ⟨.vreg (bits w 24 20) 0 (transLanes w r.2) none, 0, 18, 17, 0, false, x.spoilt⟩, x)
  else (r.1, { x with data := keepLines x.reads r.2 x.data })

/-- Whether a transfer breaks the schedule: an end is detached, or the ends lie in two groups (R35, R36, spec/12 R442). -/
def State.broken (s : State) (f : Nat) (x : Flight) : Bool :=
  opc x.w == opNxfer && (s.groupOf f != s.groupOf x.dest || s.gf R.fctStat_DETACHED f == 1 || s.gf R.fctStat_DETACHED x.dest == 1)

/-- Write one line; a line of an operation whose schedule was broken is undefined (R15). -/
def State.writeLine (s : State) (f l : Nat) (bs : List Byte) (bad : Bool) : State :=
  if bad then
    let r := s.fresh
    (r.2.writeMem (spAddr f (l * 128)) (freeBytes r.1 bs.length)).1
  else (s.writeMem (spAddr f (l * 128)) bs).1

/-- The writes of one operation on the present cycle. -/
def State.writeStep (s : State) (f : Nat) (x : Flight) : State :=
  (x.writes (s.flightLat x)).foldl (fun (t : State) l => t.writeLine x.dest l (x.bytesOf l) (x.spoilt || s.broken f x)) s

/-! ### Landing (R48 to R50, R63, spec/04 R102) -/

/-- The numbers of a `Put` as a register's new contents. -/
def Facet.putReg (x : Facet) : Put → Facet
  | .vreg r off vs mask =>
    let old := Sparse.gets (fun _ => (0 : Word)) x.vregs (r * 512 + off) vs.length
    let new := match mask with
      | some m => maskLanes true m old vs
      | none => vs
    { x with vregs := Sparse.blit (fun _ => 0) x.vregs (r * 512 + off) new }
  | .preg p v m => { x with pregs := Sparse.put (fun _ => 0) x.pregs p ((v &&& m) ||| (Sparse.get (fun _ => 0) x.pregs p &&& (2 ^ 512 - 1 - m))) }

/-- The register it writes on the present cycle. -/
def Land.writing (l : Land) : Bool := decide (l.first ≤ l.age) && decide (l.age < l.lat)

/-- A result is written: where another one is written to the same register on the same cycle, the register is undefined. -/
def State.landOne (s : State) (f : Nat) (ls : List Land) (l : Land) : State :=
  let clash := decide (1 < (ls.filter (fun y => y.writing && y.put.dest == l.put.dest)).length)
  if l.spoilt || clash then s.scramble f l.put.dest else s.modFacet f (fun x => x.putReg l.put)

/-- What a Facet's results do at the end of a cycle. -/
def State.landAll (s : State) (f : Nat) : State :=
  let ls := (s.facet f).lands
  let due := ls.filter (fun l => l.age + 1 == l.lat)
  have s : State := due.foldl (fun (t : State) l => t.landOne f ls l) s
  let hit := fun (l : Land) => l.writing && due.any (fun d => d.put.dest == l.put.dest)
  s.modFacet f (fun x => { x with
    lands := (ls.filter (fun l => !(l.age + 1 == l.lat))).map (fun l => { l with age := l.age + 1, spoilt := l.spoilt || hit l }) })

/-- A Facet's own counts at the end of a cycle. -/
def Facet.tick (x : Facet) : Facet :=
  { x with
    busy := (x.busy.map (fun b => (b.1, b.2 - 1))).filter (fun b => decide (0 < b.2))
    arcBusy := x.arcBusy - 1
    rest := x.rest - 1 }

/-- Operations in flight a cycle later: those that move, without the ones that are through. -/
def State.ageFlights (s : State) (f : Nat) (all : Bool) : State :=
  let go := fun (x : Flight) => all || x.token
  s.modFacet f (fun y => { y with
    flights := (y.flights.filter (fun x => !go x || decide (x.age < x.lastAge (s.flightLat x)))).map
      (fun x => if go x then { x with age := x.age + 1 } else x) })

def State.endCycle (s : State) (f : Nat) (all : Bool) : State :=
  have s : State := s.ageFlights f all
  if all then (s.landAll f).modFacet f Facet.tick else s

/-! ### The scheduled ports (R38, R39, R64) -/

/-- The port uses of a Facet's operations on the present cycle: Facet and line. -/
def State.portUses (s : State) (f : Nat) (all : Bool) : List (Nat × Nat) :=
  ((s.facet f).flights.filter (fun x => all || x.token)).flatMap (fun x =>
    x.reads.map (fun l => (f, l)) ++ (x.writes (s.flightLat x)).map (fun l => (x.dest, l)))

/-- The lines whose bank's port is taken twice. -/
def clashes (ls : List Nat) : List Nat := ls.filter (fun l => decide (1 < (ls.filter (fun m => m % 16 == l % 16)).length))

/-- One detected case for each bank taken twice, and undefined data in the lines concerned. -/
def State.clashOf (s : State) (f : Nat) (ls : List Nat) (tell : Bool) : State :=
  have s : State := if tell then ((ls.map (fun l => l % 16)).eraseDups).foldl (fun (t : State) b => t.facetErr f eSched b) s else s
  s.scrambleAll f (ls.eraseDups.map Dest.line)

/-- One cycle of some Facets, each with whether all of its pipelines move or its token-scheduled work alone: the reads, the
writes, and the results that land at its end. -/
def State.cycle (s : State) (ms : List (Nat × Bool)) : State :=
  let uses := ms.flatMap (fun m => s.portUses m.1 m.2)
  let bad := ((uses.map Prod.fst).eraseDups.map (fun f => (f, clashes ((uses.filter (fun u => u.1 == f)).map Prod.snd)))).filter (fun x => !x.2.isEmpty)
  have s : State := bad.foldl (fun (t : State) x => t.clashOf x.1 x.2 true) s
  have s : State := ms.foldl (fun (t : State) m =>
    let r := (t.facet m.1).flights.foldl (fun (acc : State × List Flight) x =>
      if m.2 || x.token then
        let q := acc.1.readStep m.1 x
        (q.1, acc.2 ++ [q.2])
      else (acc.1, acc.2 ++ [x])) (t, [])
    r.1.modFacet m.1 (fun y => { y with flights := r.2 })) s
  have s : State := ms.foldl (fun (t : State) m =>
    ((t.facet m.1).flights.filter (fun x => m.2 || x.token)).foldl (fun (u : State) x => u.writeStep m.1 x) t) s
  have s : State := bad.foldl (fun (t : State) x => t.clashOf x.1 x.2 false) s
  ms.foldl (fun (t : State) m => t.endCycle m.1 m.2) s

/-! ### Cycles of a group -/

/-- The Facets of a group that hold anything, each with whether its pipelines move: while the group stalls, those of a
detached member that issues (R35, R36; DEDUCED, unsafe; log entry 24). -/
def State.movers (s : State) (g : Nat) : List (Nat × Bool) :=
  let st := s.stalledGroup g
  ((s.facets.map Prod.fst).filter (fun f => decide (f < s.facetCount) && s.groupOf f == g)).map
    (fun f => (f, !st || s.gf R.fctStat_STATE f == fsRunning && s.gf R.fctStat_DETACHED f == 1))

/-- A Facet cycle of a group; the GCC does not advance while it stalls (R34, R36). -/
def State.groupTick (s : State) (g : Nat) : State :=
  let st := s.stalledGroup g
  have s : State := s.cycle (s.movers g)
  if st then s else s.setGroup g { s.group g with gcc := (s.group g).gcc + 1 }

/-- Whether a Facet has anything that cycles still move. -/
def Facet.pending (x : Facet) (all : Bool) : Bool :=
  if all then !x.flights.isEmpty || !x.lands.isEmpty || !x.busy.isEmpty || decide (0 < x.arcBusy) else x.flights.any (fun y => y.token)

/-- Cycles of a group none of whose members issues, until nothing moves. -/
def State.drain (g : Nat) : Nat → State → State
  | 0, s => s
  | n + 1, s => if (s.movers g).any (fun m => (s.facet m.1).pending m.2) then State.drain g n (s.groupTick g) else s

/-- More cycles than any operation takes. -/
def drainFuel : Nat := 8192

/-- The token-scheduled work of a group that stalls goes on: for the four cycles of R36 where every condition already holds, and
otherwise for as many more as nothing states. -/
def State.stallOn (s : State) (g : Nat) : State :=
  if !(s.movers g).any (fun m => (s.facet m.1).pending m.2) then s
  else if (s.members g).all (fun f => s.arrived f) then State.drain g 4 s
  else
    let r := s.fresh
    State.drain g (4 + Config.freeVal r.1 0) r.2

/-- What follows when a member may have stopped: where none issues any more, the pipelines run to their end, and the GCC goes
on as time passes; a group that stalls moves its token-scheduled work alone (R36). -/
def State.settle (s : State) (g : Nat) : State :=
  if s.groupHeld g || !(s.runners g).isEmpty then s
  else if s.stalledGroup g then s.stallOn g
  else
  have s : State := State.drain g drainFuel s
  if (s.group g).idle.isSome then s
  else
    let r := s.fresh
    r.2.setGroup g { s.group g with idle := some r.1 }

/-- Cycles until `ready`, as far as no member has a bundle to issue. -/
def State.pass (g : Nat) (ready : State → Bool) : Nat → State → State
  | 0, s => s
  | n + 1, s =>
    if ready s || s.groupHeld g || ((s.runners g).isEmpty && !s.stalledGroup g) || (s.runners g).any (fun f => (s.facet f).rest == 0) then s
    else State.pass g ready n (s.groupTick g)

/-- Run a Facet's own pipelines to their end. -/
def State.flush (f : Nat) : Nat → State → State
  | 0, s => s
  | n + 1, s => if (s.facet f).pending true then State.flush f n (s.cycle [(f, true)]) else s

/-! ### Issue -/

/-- HALT at a bundle boundary (R65). -/
def State.stopFacet (s : State) (f : Nat) : State :=
  (s.modFacet f (fun x => { x with wait := none, slot := 0, haltReq := false })).sf R.fctStat_STATE f fsHalted

/-- A bundle has closed: a HALT that waited for it takes effect. -/
def State.boundary (s : State) (f : Nat) : State :=
  if (s.facet f).haltReq ∧ (s.gf R.fctStat_STATE f = fsRunning ∨ s.gf R.fctStat_STATE f = fsStalled) then s.stopFacet f else s

/-- The corrected errors that issuing a bundle met (R40). -/
def State.imemEc (s : State) (f a n b : Nat) : State :=
  (hits size8 s.ecImem (f * 262144 + a) n).foldl (fun (t : State) _ => t.report (source 0 f) 0x41 0 none b) s

/-- Whether bytes of a Facet's instruction memory hold an uncorrectable error. -/
def State.imemBad (s : State) (f a n : Nat) : Bool := !(hits size8 s.ucImem (f * 262144 + a) n).isEmpty

/-- A bundle of four no-ops issues. -/
def State.nopStep (s : State) (f : Nat) : State :=
  let b := s.pc f
  have s : State := s.imemEc f (b * 32) 32 b
  if s.imemBad f (b * 32) 32 then s.haltErr f eImemUc b else (s.flowSeq f).boundary f

/-- Whether a Facet has a bundle of no-ops to issue on the present cycle. -/
def State.nopDue (s : State) (f : Nat) : Bool :=
  (s.facet f).rest == 0 && (s.facet f).slot == 0 && s.noopBundle f (s.pc f)

/-- Bring Facet `f` to its next bundle that holds an operation: bundles of no-ops issue, and cycles pass while no member of
its group has an operation to issue. -/
def State.bringUp (f g : Nat) : Nat → State → State
  | 0, s => s
  | n + 1, s =>
    if !s.issuing f then s
    else if (s.facet f).rest = 0 ∧ !s.nopDue f then s
    else
      let nops := (s.runners g).filter (fun h => s.nopDue h)
      if !nops.isEmpty then State.bringUp f g n (nops.foldl (fun (t : State) h => t.nopStep h) s)
      else if (s.runners g).any (fun h => (s.facet h).rest == 0) then s
      else State.bringUp f g n (s.groupTick g)

/-- More bundles than a nest of four loops can run. -/
def bringFuel : Nat := 2 ^ 128

/-- Whether instruction memory holds no operation at all: no-ops issue for ever. -/
def State.noCode (s : State) (f : Nat) : Bool :=
  s.imem.all (fun x => x.1 / 262144 != f) && Sparse.get (fun _ => 0) s.lost (256 + f) == 0 &&
  s.unwaited.all (fun u => !overlaps u.lo u.len (imemAt f) 262144)

/-- Close the bundle when no later slot holds an operation: `flow` says where issue goes on, and a HALT that waited takes effect. -/
def State.closeBundle (s : State) (f k : Nat) (flow : State → State) : State :=
  if (List.range 4).all (fun j => decide (j ≤ k) || s.slotWord f (s.pc f) j == 0) then ((flow s).boundary f).settle (s.groupOf f)
  else s.modFacet f (fun x => { x with slot := k + 1 })

/-- The error-control entry that the bundle at PC reads: its place in instruction memory (spec/03 R78). -/
def State.bundleEntry (s : State) (f : Nat) : Option Nat :=
  let w := s.slotWord f (s.pc f) 0
  if opc w = opMlw ∧ bits w 24 17 ≠ 0 then some (s.gf R.fctXcfg_XBLK f * 4096 + 16 * bits w 24 17) else none

/-- Why the bundle at PC does not execute: the flag it sets (R33, R37, R40; spec/03 R78). An MLW whose entry read is
uncorrectable so leaves its buffer's old tile (DESIGN CHOICE, unsafe; log entry 103). -/
def State.bundleStop (s : State) (f : Nat) : Option Nat :=
  if s.imemBad f (s.pc f * 32) 32 then some eImemUc
  else if (match s.bundleEntry f with
    | some a => s.imemBad f a 16
    | none => false) then some eImemUc
  else if s.bundleIllegal f then some eIllegal
  else if s.bundleAccess f then some eAccess
  else none

/-- The corrected errors of the bundle at PC, logged once. -/
def State.bundleEc (s : State) (f : Nat) : State :=
  let b := s.pc f
  have s : State := s.imemEc f (b * 32) 32 b
  match s.bundleEntry f with
  | some a => s.imemEc f a 16 b
  | none => s

/-- The issue of slot `k` of the next bundle of Facet `f`, when it holds an operation that `is` recognises: an uncorrectable
instruction word, an illegal encoding or an access error halts the Facet before anything executes (R33, R37, R40);
otherwise `act` takes effect and the bundle goes on or closes. In any other case the command's event does not occur. -/
def State.issue (s0 : State) (f k : Nat) (is : Nat → Bool) (act : State → Nat → State) (flow : State → Nat → State) : State :=
  if !s0.issuing f || s0.noCode f then s0 else
  have s : State := State.bringUp f (s0.groupOf f) bringFuel s0
  if !s.issuing f then s.settle (s.groupOf f)
  else if (s.facet f).rest ≠ 0 then s0
  else
    let b := s.pc f
    let w := s.slotWord f b k
    match (if (s.facet f).slot = 0 then s.bundleStop f else none) with
    | some e => ((s.bundleEc f).haltErr f e b).settle (s.groupOf f)
    | none =>
      if k < (s.facet f).slot ∨ !((List.range k).all (fun j => decide (j < (s.facet f).slot) || s.slotWord f b j == 0)) ∨ !is w
      then s0
      else (act (if (s.facet f).slot = 0 then s.bundleEc f else s) w).closeBundle f k (fun t => flow t w)

/-- Sequential flow for the slots other than control. -/
def seqFlow (f : Nat) : State → Nat → State := fun t _ => t.flowSeq f

/-! ### Reading registers, rows and buffers (R15, R63) -/

/-- Whether something may not be read yet on the present cycle. -/
def Facet.unready (x : Facet) (d : Dest) : Bool :=
  x.lands.any (fun l => !l.quiet && decide (0 < l.age) && l.put.dest == d) || x.busy.any (fun b => b.1 == d)

/-- Keep a row or a buffer from being read for `n` cycles. -/
def State.busyFor (s : State) (f : Nat) (ds : List Dest) (n : Nat) : State :=
  s.modFacet f (fun x => { x with busy := ds.map (fun d => (d, n)) ++ x.busy.filter (fun b => !ds.contains b.1) })

/-- An operation enters the pipelines. -/
def State.addFlight (s : State) (f : Nat) (x : Flight) : State :=
  s.modFacet f (fun y => { y with flights := y.flights ++ [x] })

/-- An operation of Facet `f`, issued on the present cycle. -/
def flightOf (f w : Nat) (spoilt : Bool) : Flight := ⟨w, 0, f, 0, 0, none, none, false, [], spoilt⟩

/-- The rows an MMA in flight has written so far. -/
def Flight.rowsDone (x : Flight) : List Dest :=
  if opc x.w = opMma then
    (List.range (bits x.w 44 37 + 1)).filterMap (fun i => if mmaStep x.w * i < x.age then some (Dest.row (bits x.w 54 53) (bits x.w 52 45 + i)) else none)
  else []

/-- The schedule of the operations that `p` selects is broken: what they have delivered, and will deliver, is undefined. -/
def State.spoil (s : State) (f : Nat) (p : Flight → Bool) : State :=
  let hit := (s.facet f).flights.filter p
  if hit.isEmpty then s else
  let regs := (hit.filter (fun x => opc x.w == opMst && bits x.w 19 19 == 1)).map (fun x => Dest.vreg (bits x.w 18 14))
  have s : State := s.modFacet f (fun x => { x with
    flights := x.flights.map (fun y => if p y then { y with spoilt := true } else y)
    lands := x.lands.map (fun l => if l.first == 2 && regs.contains l.put.dest then { l with spoilt := true } else l) })
  s.scrambleAll f (hit.flatMap Flight.rowsDone)

end Sys2Proof.Machine
end

