-- ==== Sys2Proof/Machine/Matrix.lean ====
section
/-! DEFINITION. The matrix engine: MLW, MMA and MST as they issue (spec/02 R44 to R48; spec/03 R74 to R91). -/

namespace Sys2Proof.Machine

/-! ### MLW (R45, R46, spec/03 R78) -/

/-- Load a weight tile: the buffer is loaded from now on, its lines come on the cycles that follow. An MLW still under way keeps
the unit, and an unfinished MMA that reads the buffer uses undefined weights. -/
def State.mlw (f : Nat) (s : State) (w : Nat) : State :=
  let b := bits w 53 53
  let e := if bits w 24 17 = 0 then (0, 0) else s.xcEntry f (bits w 24 17)
  let t : Tile := ⟨bits w 57 54, e.1, e.2, [], []⟩
  let twice := (s.facet f).flights.any (fun x => opc x.w == opMlw)
  let uses := fun (x : Flight) => opc x.w == opMma && (bits x.w 57 57 == b || x.side.isSome)
  have s : State := s.spoil f (fun x => opc x.w == opMlw || uses x)
  have s : State := s.modFacet f (fun y => if b = 0 then { y with buf0 := some t } else { y with buf1 := some t })
  (s.busyFor f [.buf b] 10).addFlight f (flightOf f w twice)

/-- MLW (R45). -/
def execMlw (f : Nat) (s : State) : Host.Outcome State Fault Refusal :=
  .next (s.issue f 0 (fun w => opc w == opMlw) (State.mlw f) (seqFlow f))

/-! ### MMA (R47; spec/03 R74, R83, R84, R88) -/

/-- The rows an MMA writes. -/
def mmaDests (w : Nat) : List Dest := (List.range (bits w 44 37 + 1)).map (fun i => Dest.row (bits w 54 53) (bits w 52 45 + i))

/-- Whether an MST in flight still reads or clears a row of a list (R48). -/
def Flight.readsRow (x : Flight) (ds : List Dest) : Bool :=
  opc x.w == opMst && decide (x.age + 2 ≤ mstLast x.w) &&
  (List.range (bits x.w 47 40 + 1)).any (fun i => ds.contains (Dest.row (bits x.w 57 56) (bits x.w 55 48 + i)))

/-- ACCUM = 0 sets the layout of the bank; a change leaves every other row of the bank undefined (R84). -/
def State.setLayout (s : State) (f b : Nat) (isRef : Bool) (rows : List Dest) : State :=
  let v := s.gf R.fctAccl_REFL f
  have s : State := s.sf R.fctAccl_REFL f (if isRef then v ||| 2 ^ b else v &&& (15 - 2 ^ b))
  s.scrambleAll f (((List.range (if isRef then 16 else 256)).map (Dest.row b)).filter (fun d => !rows.contains d))

/-- Whether the bank can be stored as INT32 (R88). -/
def State.setIntok (s : State) (f w : Nat) (t : Tile) : State :=
  let b := bits w 54 53
  let io := s.gf R.fctAccl_INTOK f
  if intOk w t then (if bits w 16 16 = 0 then s.sf R.fctAccl_INTOK f (io ||| 2 ^ b) else s)
  else s.sf R.fctAccl_INTOK f (io &&& (15 - 2 ^ b))

/-- An MMA begins: its rows are read, multiplied and added on the cycles that follow, with the tiles as they stand now. The layout
and INTOK are set here, so that an uncorrectable line met later finds them set (DESIGN CHOICE, unsafe; log entry 103). -/
def State.mma (isRef : Bool) (f : Nat) (s : State) (w : Nat) : State :=
  match s.buf f (bits w 57 57) with
  | none => s
  | some t =>
    let x := s.facet f
    let b := bits w 54 53
    let n := bits w 44 37 + 1
    let rows := mmaDests w
    let side := if t.sideK > 0 then s.buf f (1 - bits w 57 57) else none
    let bufs := if t.sideK > 0 then [Dest.buf 0, Dest.buf 1] else [Dest.buf (bits w 57 57)]
    let meets := fun (y : Flight) => opc y.w == opMma || y.readsRow rows
    let bad := bufs.any (fun d => x.unready d) || x.flights.any meets
    have s : State := s.spoil f meets
    have s : State := if bits w 16 16 = 0 ∧ s.refLayout f b ≠ isRef then s.setLayout f b isRef rows else s
    have s : State := s.setIntok f w t
    have s : State := s.busyFor f rows (if isRef then 16 * n + 8 else n + 9)
    s.addFlight f { flightOf f w bad with promo := s.effPromo f w, tile := some t, side := side }

/-- MMA, normal mode (R74). -/
def execMma (f : Nat) (s : State) : Host.Outcome State Fault Refusal :=
  .next (s.issue f 0 (fun w => opc w == opMma && bits w 15 15 == 0) (State.mma false f) (seqFlow f))

/-- MMA with REF = 1, the single-rounding reference mode (R83). -/
def execMmaRef (f : Nat) (s : State) : Host.Outcome State Fault Refusal :=
  .next (s.issue f 0 (fun w => opc w == opMma && bits w 15 15 == 1) (State.mma true f) (seqFlow f))

/-! ### MST (R48, spec/03 R85, R87) -/

/-- The rows an MST reads. -/
def mstDests (w : Nat) : List Dest := (List.range (bits w 47 40 + 1)).map (fun i => Dest.row (bits w 57 56) (bits w 55 48 + i))

/-- The rows of an MST, converted: codes, and the flags raised. -/
def State.mstCodes (s : State) (f w : Nat) : List Nat × CvtFlags :=
  let b := bits w 57 56
  let rs := (List.range (bits w 47 40 + 1)).map (fun i =>
    convertRow (s.refLayout f b) (bits w 25 23) (rndOf (bits w 22 21)) ((s.facet f).accRow b (bits w 55 48 + i)))
  (rs.flatMap Prod.fst, rs.foldl (fun g r => g.or r.2) {})

/-- CLR: the rows become zero. -/
def State.clearRows (s : State) (f w : Nat) : State :=
  (List.range (bits w 47 40 + 1)).foldl (fun (t : State) i => t.putRow f (bits w 57 56) (bits w 55 48 + i) (List.replicate 64 (Cell.w48 0))) s

/-- An MST begins: the rows it reads, and clears, are taken now, and written from the second cycle on. Rows of an MMA that is
not through are undefined, and so is what is stored of them. -/
def State.mst (f : Nat) (s : State) (w : Nat) : State :=
  let x := s.facet f
  let rows := mstDests w
  let toReg := bits w 19 19 == 1
  let mmaOn := fun (y : Flight) => opc y.w == opMma && (mmaDests y.w).any (fun d => rows.contains d)
  -- the unit is free again on the cycle of the last write (R63)
  let mstOn := fun (y : Flight) => opc y.w == opMst && decide (y.age < mstLast y.w)
  let early := rows.any (fun d => x.unready d)
  let bad := early || x.flights.any (fun y => mmaOn y || mstOn y)
  let c := s.mstCodes f w
  have s : State := s.astat .fctAstat f c.2
  have s : State := if c.2.fp8Sat || c.2.intSat then s.bump 0x8011 2 else s
  have s : State := s.spoil f (fun y => mmaOn y || mstOn y)
  have s : State := if bits w 20 20 = 1 then (if early then s.scrambleAll f rows else s.clearRows f w) else s
  have s : State := if toReg then
      s.addLand f ⟨.vreg (bits w 18 14) 0 (c.1.map (widenOut (bits w 25 23))) none, 0, bits w 47 40 + 3, 2, 0, false, bad⟩
    else s
  s.addFlight f { flightOf f w bad with
    data := if toReg then [] else Sparse.listing zeroByte 0 (c.1.flatMap (natLE (outBytes (bits w 25 23)))) }

/-- MST (R48). -/
def execMst (f : Nat) (s : State) : Host.Outcome State Fault Refusal :=
  .next (s.issue f 0 (fun w => opc w == opMst) (State.mst f) (seqFlow f))

end Sys2Proof.Machine
end

