-- ==== Sys2Proof/Machine/Vector.lean ====
section
/-! DEFINITION. The vector unit and the scratchpad moves as they issue: vector arithmetic, VLD, VST, SPMOV (spec/02 R41 to R43,
R49; spec/03 R89, R90). -/

namespace Sys2Proof.Machine

/-! ### Registers -/

/-- The 512 lanes of a vector register on the present cycle. -/
def Facet.vreg (x : Facet) (r : Nat) : List Word := Sparse.gets (fun _ => 0) x.vregs (r * 512) 512

/-- A predicate register of 512 bits. -/
def Facet.preg (x : Facet) (p : Nat) : Nat := Sparse.get (fun _ => 0) x.pregs p

/-- A result that may be read `lat` cycles after the issue; undefined where a source was not ready (R15, R63). -/
def State.land (s : State) (f : Nat) (srcs : List Dest) (p : Put) (lat : Nat) : State :=
  s.addLand f ⟨p, 0, lat, lat - 1, 0, false, srcs.any (fun d => (s.facet f).unready d)⟩

/-- The lanes of a vector operation under PRED and PEN (R49). -/
def lanesPut (x : Facet) (w : Nat) (vs : List Word) : Put :=
  .vreg (vDst w) 0 vs (if vPen w then some (x.preg (vPred w)) else none)

/-- A one-source operation, lane by lane. -/
def State.vec1 (s : State) (f w : Nat) (op : Word → Word) : State :=
  let x := s.facet f
  s.land f (.vreg (vS1 w) :: predSrc w) (lanesPut x w ((x.vreg (vS1 w)).map op)) 4

/-- A two-source operation. -/
def State.vec2 (s : State) (f w : Nat) (op : Word → Word → Word) : State :=
  let x := s.facet f
  s.land f (.vreg (vS1 w) :: .vreg (vS2 w) :: predSrc w) (lanesPut x w (List.zipWith op (x.vreg (vS1 w)) (x.vreg (vS2 w)))) 4

/-- A three-source operation. -/
def State.vec3 (s : State) (f w : Nat) (op : Word → Word → Word → Word) : State :=
  let x := s.facet f
  s.land f (.vreg (vS1 w) :: .vreg (vS2 w) :: .vreg (vS3 w) :: predSrc w)
    (lanesPut x w (List.zipWith (fun g c => g c) (List.zipWith op (x.vreg (vS1 w)) (x.vreg (vS2 w))) (x.vreg (vS3 w)))) 4

/-- A reduction into lane 0, with +0 in the other lanes (R49). -/
def State.vecRed (s : State) (f w : Nat) (op : Word → Word → Word) : State :=
  let x := s.facet f
  s.land f (.vreg (vS1 w) :: predSrc w) (lanesPut x w (treeReduce op 9 (x.vreg (vS1 w)) :: List.replicate 511 0)) 12

/-- CMP: the predicate register's bits; lanes that PEN masks keep theirs. -/
def State.vecCmp (s : State) (f w : Nat) : State :=
  let x := s.facet f
  let new := lanesToPred (List.zipWith (cmpLane (vTy w) (vS3 w)) (x.vreg (vS1 w)) (x.vreg (vS2 w)))
  s.land f (.vreg (vS1 w) :: .vreg (vS2 w) :: predSrc w)
    (.preg (bits w 54 52) new (if vPen w then x.preg (vPred w) else 2 ^ 512 - 1)) 4

/-- The issue of a vector operation with opcode `op`. -/
def State.vecIssue (s : State) (f op : Nat) (act : State → Nat → State) : State :=
  s.issue f 1 (fun w => opc w == op) act (seqFlow f)

/-! ### The sixteen operations -/

/-- ADD. -/
def execAdd (f : Nat) (s : State) : Host.Outcome State Fault Refusal :=
  .next (s.vecIssue f 0x10 (fun s w => s.vec2 f w (if vTy w then (· + ·) else faddW)))

/-- SUB. -/
def execSub (f : Nat) (s : State) : Host.Outcome State Fault Refusal :=
  .next (s.vecIssue f 0x11 (fun s w => s.vec2 f w (if vTy w then (· - ·) else fsubW)))

/-- MUL. -/
def execMul (f : Nat) (s : State) : Host.Outcome State Fault Refusal :=
  .next (s.vecIssue f 0x12 (fun s w => s.vec2 f w (if vTy w then (· * ·) else fmulW)))

/-- FMA. -/
def execFma (f : Nat) (s : State) : Host.Outcome State Fault Refusal :=
  .next (s.vecIssue f 0x13 (fun s w => s.vec3 f w (if vTy w then (fun a b c => a * b + c) else ffmaW)))

/-- MAX. -/
def execMax (f : Nat) (s : State) : Host.Outcome State Fault Refusal :=
  .next (s.vecIssue f 0x14 (fun s w => s.vec2 f w (if vTy w then smaxW else fmaxW)))

/-- MIN. -/
def execMin (f : Nat) (s : State) : Host.Outcome State Fault Refusal :=
  .next (s.vecIssue f 0x15 (fun s w => s.vec2 f w (if vTy w then sminW else fminW)))

/-- CMP. -/
def execCmp (f : Nat) (s : State) : Host.Outcome State Fault Refusal :=
  .next (s.vecIssue f 0x16 (fun s w => s.vecCmp f w))

/-- SEL: SRC1 where SRC3's lane is non-zero, else SRC2. -/
def execSel (f : Nat) (s : State) : Host.Outcome State Fault Refusal :=
  .next (s.vecIssue f 0x17 (fun s w => s.vec3 f w (fun a b c => if c = 0 then b else a)))

/-- CVT: FP32 to INT32 with TYPE = FP32, INT32 to FP32 with TYPE = INT32. -/
def execCvt (f : Nat) (s : State) : Host.Outcome State Fault Refusal :=
  .next (s.vecIssue f 0x18 (fun s w => s.vec1 f w (if vTy w then cvtToF else cvtToInt)))

/-- AND. -/
def execAnd (f : Nat) (s : State) : Host.Outcome State Fault Refusal :=
  .next (s.vecIssue f 0x19 (fun s w => s.vec2 f w (· &&& ·)))

/-- OR. -/
def execOr (f : Nat) (s : State) : Host.Outcome State Fault Refusal :=
  .next (s.vecIssue f 0x1A (fun s w => s.vec2 f w (· ||| ·)))

/-- XOR. -/
def execXor (f : Nat) (s : State) : Host.Outcome State Fault Refusal :=
  .next (s.vecIssue f 0x1B (fun s w => s.vec2 f w (· ^^^ ·)))

/-- SHL. -/
def execShl (f : Nat) (s : State) : Host.Outcome State Fault Refusal :=
  .next (s.vecIssue f 0x1C (fun s w => s.vec2 f w (fun a b => a <<< shiftCount b)))

/-- SHR: logical for TYPE = FP32, arithmetic for TYPE = INT32. -/
def execShr (f : Nat) (s : State) : Host.Outcome State Fault Refusal :=
  .next (s.vecIssue f 0x1D (fun s w =>
    s.vec2 f w (fun a b => if vTy w then a.sshiftRight (shiftCount b) else a >>> shiftCount b)))

/-- RSUM. -/
def execRsum (f : Nat) (s : State) : Host.Outcome State Fault Refusal :=
  .next (s.vecIssue f 0x1E (fun s w => s.vecRed f w (if vTy w then (· + ·) else faddW)))

/-- RMAX. -/
def execRmax (f : Nat) (s : State) : Host.Outcome State Fault Refusal :=
  .next (s.vecIssue f 0x1F (fun s w => s.vecRed f w (if vTy w then smaxW else fmaxW)))

/-! ### VLD and VST (R49, R90) -/

/-- VLD: its lines are read on this cycle. -/
def execVld (f : Nat) (s : State) : Host.Outcome State Fault Refusal :=
  .next (s.vecIssue f opVld (fun s w => s.addFlight f (flightOf f w false)))

/-- The codes a VST writes, with the flags raised. -/
def Facet.vstCodes (x : Facet) (w : Nat) : List Nat × CvtFlags :=
  let rs := (x.vreg (bits w 54 50)).map (vstLane (bits w 57 55) (rndOf (bits w 35 34)))
  (rs.map Prod.fst, rs.foldl (fun (g : CvtFlags) y => g.or y.2) {})

/-- A VST takes its register now, and writes its lines two cycles later. -/
def State.vst (f : Nat) (s : State) (w : Nat) : State :=
  let x := s.facet f
  let c := x.vstCodes w
  have s : State := s.astat .fctAstat f c.2
  have s : State := if c.2.fp8Sat || c.2.intSat then s.bump 0x8011 2 else s
  s.addFlight f { flightOf f w (x.unready (.vreg (bits w 54 50))) with
    data := Sparse.listing zeroByte 0 (c.1.flatMap (natLE (memBytes (bits w 57 55)))) }

/-- VST. -/
def execVst (f : Nat) (s : State) : Host.Outcome State Fault Refusal := .next (s.vecIssue f opVst (State.vst f))

/-! ### SPMOV (R41 to R43) -/

/-- The issue of an SPMOV in a mode: its reads begin on this cycle. -/
def State.spmov (s : State) (f mode : Nat) : State :=
  s.issue f 1 (fun w => opc w == opSpmov && bits w 57 56 == mode) (fun s w => s.addFlight f (flightOf f w false)) (seqFlow f)

/-- SPMOV, MODE 0. -/
def execSpmovLinear (f : Nat) (s : State) : Host.Outcome State Fault Refusal := .next (s.spmov f 0)

/-- SPMOV, MODE 1. -/
def execSpmovStrided (f : Nat) (s : State) : Host.Outcome State Fault Refusal := .next (s.spmov f 1)

/-- SPMOV, MODE 2. -/
def execSpmovTranspose (f : Nat) (s : State) : Host.Outcome State Fault Refusal := .next (s.spmov f 2)

end Sys2Proof.Machine
end

