-- ==== Sys2Proof/Machine/ArcFn.lean ====
section
/-! DEFINITION. What the Arc unit computes: element functions on every path, and the row operations over a tile and its
state register (spec/04 R92 to R111). Facets and Drip engines share it. -/

namespace Sys2Proof.Machine

/-! ### Correctly rounded quotient and square root -/

/-- FP32 nearest-even rounding of `num / den × 2^e` for natural numbers: a quotient of many bits with a sticky bit. -/
def roundQuot (neg : Bool) (num den : Nat) (e : Int) : Word :=
  if num = 0 ∨ den = 0 then toF (.fin neg 0 0) else
  let k := 64 + den.log2
  let q := num * 2 ^ k / den
  let sticky := if num * 2 ^ k % den = 0 then 0 else 1
  toF (.fin neg (2 * q + sticky) (e - k - 1))

/-- FP32 division. -/
def fdivW (a b : Word) : Word :=
  match ofF a, ofF b with
  | .nan, _ => 0x7FC00000
  | _, .nan => 0x7FC00000
  | .inf _, .inf _ => 0x7FC00000
  | .inf n, y => toF (.inf (n != y.sign))
  | x, .inf k => toF (.fin (x.sign != k) 0 0)
  | .fin n m e, .fin k j g =>
    if j = 0 then (if m = 0 then 0x7FC00000 else toF (.inf (n != k)))
    else roundQuot (n != k) m j (e - g)

/-- FP32 square root of a positive finite value. -/
def fsqrtV (m : Nat) (e : Int) : Word :=
  let m' := if e % 2 = 0 then m else 2 * m
  let e' := if e % 2 = 0 then e else e - 1
  let n := m' * 2 ^ 64
  let q := Nat.sqrt n
  let sticky := if q * q = n then 0 else 1
  toF (.fin false (2 * q + sticky) (e' / 2 - 33))

/-! ### Special values (R95) -/

def fpNan : Word := 0x7FC00000
def fpOne : Word := 0x3F800000
def fpHalf : Word := 0x3F000000
def fpInf (neg : Bool) : Word := if neg then 0xFF800000 else 0x7F800000
def fpZero (neg : Bool) : Word := if neg then 0x80000000 else 0

/-- The exponential underflow bound: FP32 operands at or below it give a result below 2^-149. The greatest such operand
is -103.278931..., 0xC2CE8ED0. -/
def expLow : FVal := ofF 0xC2CE8ED0

/-- The results that the special-value table names; `none` where it says "normal result". -/
def arcSpecial (fn : Nat) (x : Word) : Option Word :=
  match fn, ofF x with
  | _, .nan => some fpNan
  | 0, .inf n => some (if n then 0 else fpInf false)
  | 0, .fin n m e =>
    if m = 0 then some fpOne
    else if !n ∧ Dy.le ⟨128, 0⟩ ⟨m, e⟩ then some (fpInf false)
    else if n ∧ Dy.lt ⟨149, 0⟩ ⟨m, e⟩ then some 0 else none
  | 1, .inf n => some (if n then 0 else fpInf false)
  | 1, .fin n m e =>
    if m = 0 then some fpOne
    else if !n ∧ ltV (ofF 0x42B17218) (.fin n m e) then some (fpInf false)
    else if n ∧ !ltV expLow (.fin n m e) then some 0 else none
  | 2, .inf n => some (if n then fpNan else fpInf false)
  | 2, .fin n m _ => if m = 0 then some (fpInf true) else if n then some fpNan else none
  | 3, .inf n => some (if n then fpNan else fpInf false)
  | 3, .fin n m _ => if m = 0 then some (fpInf true) else if n then some fpNan else none
  | 4, .inf n => some (fpZero n)
  | 4, .fin n m _ => if m = 0 then some (fpInf n) else none
  | 5, .inf n => some (if n then fpNan else 0)
  | 5, .fin n m _ => if m = 0 then some (fpInf n) else if n then some fpNan else none
  | 6, .inf n => some (if n then fpNan else fpInf false)
  | 6, .fin n m _ => if m = 0 then some (fpZero n) else if n then some fpNan else none
  | 7, .inf n => some (if n then 0xBF800000 else fpOne)
  | 7, .fin n m _ => if m = 0 then some (fpZero n) else none
  | 8, .inf n => some (if n then 0 else fpOne)
  | 8, .fin n m e =>
    if m = 0 then some fpHalf else if n ∧ !ltV expLow (.fin n m e) then some 0 else none
  | 9, .inf n => some (if n then fpZero true else fpInf false)
  | 9, .fin n m _ => if m = 0 then some (fpZero n) else none
  | 10, .inf n => some (if n then fpZero true else fpInf false)
  | 10, .fin n m _ => if m = 0 then some (fpZero n) else none
  | 11, .inf _ => some fpNan
  | 11, .fin n m _ => if m = 0 then some (fpZero n) else none
  | 12, .inf _ => some fpNan
  | 12, .fin _ m _ => if m = 0 then some fpOne else none
  | _, _ => none

/-! ### The Dexdy-exact coefficients (R100) -/

/-- The coefficient area of a table image: the published set, then zeros. -/
def dexdyArea (k : Nat) : Byte := if k < 21504 then Config.dexdySet k else 0

/-- Coefficient `c` of entry `i` of block `b`: FP32, little-endian. -/
def dexdyCoef (b i c : Nat) : Word :=
  BitVec.ofNat 32 (leNat ((List.range 4).map (fun k => dexdyArea (3072 * b + 12 * i + 4 * c + k))))

/-- An entry that a reduction has reached, with the offset from it. -/
structure DexEntry where
  b : Nat
  i : Nat
  d : Word
deriving DecidableEq, Repr

/-- quad(b, i, d), innermost product first. An index of 256, which rounding can reach, names no entry: no result
(DESIGN CHOICE, safe: a free value stands for it; log entry 9). -/
def DexEntry.quad (x : DexEntry) : Option Word :=
  if x.i < 256 then
    some (faddW (dexdyCoef x.b x.i 0) (fmulW x.d (faddW (dexdyCoef x.b x.i 1) (fmulW x.d (dexdyCoef x.b x.i 2)))))
  else none

/-- The 8-byte units of the coefficient area that an entry lies in. -/
def DexEntry.units (x : DexEntry) : List Nat := [(3072 * x.b + 12 * x.i) / 8, (3072 * x.b + 12 * x.i + 11) / 8].eraseDups

/-! ### Dexdy-exact reductions (R98, R99) -/

/-- The floor of a finite value. -/
def floorV (v : FVal) : Int :=
  let d := v.dy
  if d.e ≥ 0 then d.m * (pow2 d.e : Nat) else d.m / (pow2 (-d.e) : Nat)

/-- `v - k / 2^j`, rounded to FP32 as every arithmetic step is (R99; DEDUCED, unsafe; log entry 102). -/
def subFrac (v : FVal) (k : Int) (j : Nat) : Word := toF (dyVal (v.dy.add ⟨-k, -(j : Int)⟩) false)

def mulPow (v : Word) (k : Int) : Word :=
  match ofF v with
  | .fin n m e => toF (.fin n m (e + k))
  | _ => v

/-- The entry at floor(2^j × v), and the offset. -/
def entryAt (b j : Nat) (v : FVal) : DexEntry :=
  let i := floorV (scaleBy v j)
  ⟨b, i.toNat, subFrac v i j⟩

/-- 2^y: f = y - n, rounded. -/
def redExp2 (y : Word) : DexEntry := entryAt 0 8 (ofF (subFrac (ofF y) (floorV (ofF y)) 0))

/-- m × 2^k with 1 ≤ m < 2: k, and m - 1 as an exact value. -/
def split2 (v : FVal) : Int × FVal :=
  match v with
  | .fin _ m e => ((m.log2 : Int) + e, .fin false (m - 2 ^ m.log2) (-(m.log2 : Int)))
  | _ => (0, .fin false 0 0)

/-- m × 2^k with 1 ≤ m < 4 and k even: k and m. -/
def split4 (v : FVal) : Int × FVal :=
  match v with
  | .fin _ m e =>
    let k := (m.log2 : Int) + e
    let k' := if k % 2 = 0 then k else k - 1
    (k', .fin false m (e - k'))
  | _ => (0, .fin false 1 0)

/-- log2 x and 1/x. -/
def redSplit (b : Nat) (x : Word) : DexEntry := entryAt b 8 (split2 (ofF x)).2

/-- 1/√x and √x. -/
def redRoot (b : Nat) (x : Word) : DexEntry :=
  let m := (split4 (ofF x)).2
  if ltV m (intVal 2) then entryAt b 7 (ofF (subFrac m 1 0))
  else
    let y := entryAt b 6 (ofF (subFrac m 2 0))
    { y with i := 128 + y.i }

def redTanh (x : Word) : DexEntry :=
  let v := ofF x
  entryAt 5 5 (if v.sign then negV v else v)

def redSigmoid (x : Word) : DexEntry := entryAt 6 3 (ofF (faddW x 0x41800000))

/-- Give a result the sign of the operand. -/
def withSign (x r : Word) : Word := if (ofF x).sign then toF (negV (ofF r)) else r

/-- 2^y for a finite y. -/
def dexExp2 (y : Word) : Option Word :=
  match arcSpecial 0 y with
  | some r => some r
  | none => (redExp2 y).quad.map (fun q => mulPow q (floorV (ofF y)))

def dexLog2 (x : Word) : Option Word := (redSplit 1 x).quad.map (fun q => faddW (toF (intVal (split2 (ofF x)).1)) q)

def dexRecip (x : Word) : Option Word := (redSplit 2 x).quad.map (fun q => withSign x (mulPow q (-(split2 (ofF x)).1)))

def dexRsqrt (x : Word) : Option Word := (redRoot 3 x).quad.map (fun q => mulPow q (-((split4 (ofF x)).1 / 2)))

def dexSqrt (x : Word) : Option Word := (redRoot 4 x).quad.map (fun q => mulPow q ((split4 (ofF x)).1 / 2))

/-- Whether |x| ≥ 8, where tanh is ±1. -/
def tanhFlat (x : Word) : Bool := !ltV (ofF (x &&& 0x7FFFFFFF)) (intVal 8)

def dexTanh (x : Word) : Option Word :=
  match arcSpecial 7 x with
  | some r => some r
  | none => (if tanhFlat x then some fpOne else (redTanh x).quad).map (withSign x)

/-- e^x: y = x × log2 e, then 2^y; the table's own bounds for e^x come first. -/
def dexExp (x : Word) : Option Word :=
  match arcSpecial 1 x with
  | some r => some r
  | none => dexExp2 (fmulW x 0x3FB8AA3B)

def dexSigmoid (x : Word) : Option Word :=
  match arcSpecial 8 x with
  | some r => some r
  | none =>
    if !ltV (ofF x) (intVal 16) then some fpOne
    else if ltV (ofF x) (intVal (-16)) then dexExp x
    else (redSigmoid x).quad

/-- GELU's argument of tanh. -/
def geluArg (x : Word) : Word := fmulW 0x3F4C422A (faddW x (fmulW (fmulW (fmulW 0x3D372713 x) x) x))

def dexGelu (x : Word) : Option Word := (dexTanh (geluArg x)).map (fun t => fmulW (fmulW fpHalf x) (faddW fpOne t))

/-- A Dexdy-exact element function where the special-value table names no result; none where its index names no entry. -/
def dexdyFn (fn : Nat) (x : Word) : Option Word :=
  match fn with
  | 0 => dexExp2 x
  | 1 => dexExp x
  | 2 => dexLog2 x
  | 3 => (dexLog2 x).map (fun r => fmulW r 0x3F317218)
  | 4 => dexRecip x
  | 5 => dexRsqrt x
  | 6 => dexSqrt x
  | 7 => dexTanh x
  | 8 => dexSigmoid x
  | 9 => dexGelu x
  | _ => (dexSigmoid x).map (fun r => fmulW x r)

/-- The entry that a Dexdy-exact element function reads on an operand. -/
def dexReads (fn : Nat) (x : Word) : Option DexEntry :=
  let exp2 := fun (y : Word) => if (arcSpecial 0 y).isSome then none else some (redExp2 y)
  let exp := fun (x : Word) => if (arcSpecial 1 x).isSome then none else exp2 (fmulW x 0x3FB8AA3B)
  let tanh := fun (x : Word) => if (arcSpecial 7 x).isSome || tanhFlat x then none else some (redTanh x)
  if (arcSpecial fn x).isSome then none else
  match fn with
  | 0 => exp2 x
  | 1 => exp x
  | 2 => some (redSplit 1 x)
  | 3 => some (redSplit 1 x)
  | 4 => some (redSplit 2 x)
  | 5 => some (redRoot 3 x)
  | 6 => some (redRoot 4 x)
  | 7 => tanh x
  | 9 => tanh (geluArg x)
  | _ => if !ltV (ofF x) (intVal 16) then none else if ltV (ofF x) (intVal (-16)) then exp x else some (redSigmoid x)

/-! ### Paths -/

/-- Native results: 1/x and √x are correctly rounded, and every other one lies within a bound that the spec states and has no
stated value (DESIGN CHOICE, safe; log entry 9). -/
def nativeFn (fn : Nat) (x : Word) : Word :=
  match fn, ofF x with
  | 4, .fin n m e => roundQuot n 1 m (-e)
  | 6, .fin _ m e => fsqrtV m e
  | _, _ => arcFree .native fn x (Config.arcNative fn x)

/-- An element function on one operand (R92 to R99). -/
def arcEval (p : ArcPath) (fn : Nat) (x : Word) : Word :=
  match arcSpecial fn x with
  | some r => r
  | none =>
    match p with
    | .native => nativeFn fn x
    | .dexdy => (dexdyFn fn x).getD (arcFree .dexdy fn x (Config.dexdyOpen fn x))
    | .fallback => arcFree .fallback fn x (Config.arcFallback fn x)

def isSpecialW (x : Word) : Bool := (ofF x).isNan || (ofF x).isInf

/-! ### Row operations (R102 to R110) -/

/-- MASKV (R105). -/
def maskv : Word := 0xFF7FFFFF

def liveW (x : Word) : Bool := x != maskv && x != 0xFF800000

def ctlSeg (c : Nat) : Nat := bits c 2 0
def ctlPhase (c : Nat) : Nat := bits c 4 3
def ctlOut (c : Nat) : Nat := bits c 6 5
def ctlOseg (c : Nat) : Nat := bits c 9 7
def ctlRowoff (c : Nat) : Nat := bits c 13 10

/-- Segment width W, and rows R in a register. -/
def ctlW (c : Nat) : Nat := 32 * 2 ^ ctlSeg c
def ctlR (c : Nat) : Nat := 512 / ctlW c
def ctlWo (c : Nat) : Nat := 32 * 2 ^ ctlOseg c

/-- Whether a control word is invalid for FN and MODE (R104). -/
def ctlBad (fn mode c : Nat) : Bool :=
  let offUsed := fn == 0x11 && (ctlOut c == 0 || ctlOut c == 2)
  bits c 31 14 != 0 || decide (ctlSeg c > 4) || decide (ctlOseg c > 4) ||
  (fn == 0x11 && ctlOut c == 3) || ((fn == 0x12 || fn == 0x13) && bit c 6) ||
  (fn == 0x10 && mode == 1 && decide (ctlPhase c > 1)) || (fn == 0x11 && ctlOut c == 2 && mode == 1) ||
  (!offUsed && ctlRowoff c != 0) || (offUsed && decide (ctlRowoff c + 512 / ctlWo c > ctlR c))

/-- What a row operation gives: DST if it is written, the state register, the flags of the rows it met, and PDST's bits
where the spec states them. -/
structure ArcRes where
  dst : Option (List Word)
  st : List Word
  met : Nat
  pred : Option Nat
deriving DecidableEq, Repr

/-- Row flags. -/
def rfNan : Nat := 1
def rfInf : Nat := 2
def rfFull : Nat := 4
def rfBounds : Nat := 8

/-- Lane `i` of a register. -/
def lane (st : List Word) (i : Nat) : Word := st.getD i 0

/-- A state with its row lanes replaced: `g` gives lanes r, 16 + r, 32 + r, 48 + r, 64 + r where it writes them. -/
def putRows (st : List Word) (g : Nat → Option Word) : List Word :=
  (st.zipIdx).map (fun x => (g x.2).getD x.1)

/-- One row of a soft-maximum step: m, l, c, flags, probabilities. -/
structure SmRow where
  m : Word
  l : Word
  c : Word
  f : Nat
  p : List Word
deriving DecidableEq, Repr

def treeSum (w : Nat) (xs : List Word) : Word := treeReduce faddW w.log2 xs

def countW (n : Nat) : Word := toF (intVal n)

/-- The probabilities of a row for a maximum `m` (R106). -/
def smProb (p : ArcPath) (m : Word) (xs : List Word) : List Word :=
  if m = fpInf true then xs.map (fun _ => 0)
  else if m = fpInf false then xs.map (fun x => if x = fpInf false then fpOne else 0)
  else xs.map (fun x => if liveW x then arcEval p 1 (fsubW x m) else 0)

/-- The maximum of the live lanes, or -∞. -/
def liveMax (xs : List Word) : Word := (xs.filter liveW).foldl fmaxW (fpInf true)

/-- FN 0x10, native (R106). -/
def smStep (p : ArcPath) (w : Nat) (m0 l0 : Word) (f : Nat) (xs : List Word) : SmRow :=
  if bit f 0 ∨ xs.any (fun x => (ofF x).isNan) then ⟨fpNan, fpNan, fpNan, f ||| rfNan, xs.map (fun _ => fpNan)⟩
  else
    let m := fmaxW m0 (liveMax xs)
    let ps := smProb p m xs
    if m = fpInf true then ⟨m, l0, fpOne, f, ps⟩
    else if m = fpInf false then
      let c := if m0 = fpInf false then fpOne else 0
      ⟨m, faddW (fmulW l0 c) (countW (xs.filter (fun x => x == fpInf false)).length), c, f ||| rfInf, ps⟩
    else
      let c := arcEval p 1 (fsubW m0 m)
      ⟨m, faddW (fmulW l0 c) (treeSum w ps), c, f, ps⟩

/-- FN 0x10, MODE = 1, pass 1 (R109): m and the flags. -/
def smMaxPass (m0 l0 c0 : Word) (f : Nat) (xs : List Word) : SmRow :=
  if bit f 0 ∨ xs.any (fun x => (ofF x).isNan) then ⟨fpNan, l0, c0, f ||| rfNan, []⟩
  else
    let m := fmaxW m0 (liveMax xs)
    ⟨m, l0, c0, if m = fpInf false then f ||| rfInf else f, []⟩

/-- FN 0x10, MODE = 1, pass 2 (R109): p, l, c = 1; m stays. -/
def smSumPass (p : ArcPath) (w : Nat) (m0 l0 : Word) (f : Nat) (xs : List Word) : SmRow :=
  if bit f 0 ∨ xs.any (fun x => (ofF x).isNan) then
    ⟨m0, fpNan, fpOne, f ||| rfNan, xs.map (fun _ => fpNan)⟩
  else
    let ps := smProb p m0 xs
    ⟨m0, faddW l0 (treeSum w ps), fpOne, if m0 = fpInf false then f ||| rfInf else f, ps⟩

/-- Segment `r` of width `w`. -/
def segment (xs : List Word) (w r : Nat) : List Word := (xs.drop (r * w)).take w

/-- PDST's bits: lane i is 1 when its row has NAN, INF or FULLMASK set (R107). -/
def rowPred (w : Nat) (fs : List Nat) : Nat :=
  lanesToPred (fs.flatMap (fun f => List.replicate w (f % 8 != 0)))

def boundsFlag (p : ArcPath) : Nat := if p = .fallback then rfBounds else 0

/-- FN 0x10 over a tile (R106, R109). -/
def arcSoftmax (p : ArcPath) (mode : Nat) (xs st : List Word) : ArcRes :=
  let c := (lane st 511).toNat
  let w := ctlW c
  let rows := (List.range (ctlR c)).map (fun r =>
    let f := (lane st (64 + r)).toNat % 16
    let x := segment xs w r
    let o :=
      if mode = 0 then smStep p w (lane st r) (lane st (16 + r)) f x
      else if ctlPhase c = 0 then smMaxPass (lane st r) (lane st (16 + r)) (lane st (32 + r)) f x
      else smSumPass p w (lane st r) (lane st (16 + r)) f x
    { o with f := o.f ||| boundsFlag p })
  let at' := fun r => rows.getD r ⟨0, 0, 0, 0, []⟩
  let st' := putRows st (fun i =>
    let r := i % 16
    if r < ctlR c then
      (match i / 16 with
       | 0 => some (at' r).m
       | 1 => some (at' r).l
       | 2 => some (at' r).c
       | 4 => some (BitVec.ofNat 32 (at' r).f)
       | _ => none)
    else none)
  let fs := rows.map (fun o => o.f)
  ⟨if mode = 1 ∧ ctlPhase c = 0 then none else some (rows.flatMap (fun o => o.p)), st', fs.foldl (· ||| ·) 0, some (rowPred w fs)⟩

/-- One row of FN 0x11: its lanes, LSE and flags (R107). -/
def finalRow (p : ArcPath) (out : Nat) (m l c : Word) (f : Nat) (xs : List Word) : List Word × Word × Nat :=
  let g := arcEval p 4 l
  if bit f 0 then (xs.map (fun _ => fpNan), fpNan, f)
  else
    let scaled := xs.map (fun v => fmulW v (if out = 2 then c else g))
    if m = fpInf false then
      (if out = 1 then xs.map (fun x => if x = fpInf false then g else 0) else scaled, fpInf false, f)
    else if m = fpInf true then
      (if out = 2 then scaled else xs.map (fun _ => 0), fpInf true, f ||| rfFull)
    else
      (if out = 1 then xs.map (fun x => if liveW x then fmulW (arcEval p 1 (fsubW x m)) g else 0) else scaled,
       faddW m (arcEval p 3 l), f)

/-- FN 0x11 over a tile (R107). -/
def arcFinal (p : ArcPath) (xs st : List Word) : ArcRes :=
  let c := (lane st 511).toNat
  let out := ctlOut c
  let w := if out = 1 then ctlW c else ctlWo c
  let off := if out = 1 then 0 else ctlRowoff c
  let n := 512 / w
  let rows := (List.range n).map (fun k =>
    let q := off + k
    let o := finalRow p out (lane st q) (lane st (16 + q)) (lane st (32 + q)) ((lane st (64 + q)).toNat % 16) (segment xs w k)
    (o.1, o.2.1, o.2.2 ||| boundsFlag p))
  let at' := fun q => rows.getD (q - off) ([], 0, 0)
  let st' := putRows st (fun i =>
    let q := i % 16
    if off ≤ q ∧ q < off + n then
      (match i / 16 with
       | 3 => some (at' q).2.1
       | 4 => some (BitVec.ofNat 32 (at' q).2.2)
       | _ => none)
    else none)
  let fs := rows.map (fun o => o.2.2)
  ⟨some (rows.flatMap (fun o => o.1)), st', fs.foldl (· ||| ·) 0, some (rowPred w fs)⟩

/-- Lanes with the excluded ones as +0. -/
def included (xs : List Word) : List Word := xs.filter (fun x => x != maskv)

/-- FN 0x12 and 0x13, accumulate: one row's lanes 0, 1, 2 and flags (R110). -/
def statsRow (fn w : Nat) (a b n : Word) (f : Nat) (xs : List Word) : Word × Word × Word × Nat :=
  let nt := countW (included xs).length
  let f' := if (included xs).any isSpecialW then f ||| rfNan else f
  let n' := faddW n nt
  if fn = 0x12 then
    (faddW a (treeSum w (xs.map (fun x => if x = maskv then 0 else fmulW x x))), b, n', f')
  else if (included xs).isEmpty then (a, b, n, f')
  else
    let mt := fdivW (treeSum w (xs.map (fun x => if x = maskv then 0 else x))) nt
    let m2t := treeSum w (xs.map (fun x => if x = maskv then 0 else fmulW (fsubW x mt) (fsubW x mt)))
    let d := fsubW mt a
    (faddW a (fmulW d (fdivW nt n')),
     faddW (faddW b m2t) (fmulW (fmulW d d) (fdivW (fmulW n nt) n')), n', f')

def arcStats (p : ArcPath) (fn : Nat) (xs st : List Word) : ArcRes :=
  let c := (lane st 511).toNat
  let w := ctlW c
  let rows := (List.range (ctlR c)).map (fun r =>
    let o := statsRow fn w (lane st r) (lane st (16 + r)) (lane st (32 + r)) ((lane st (64 + r)).toNat % 16) (segment xs w r)
    (o.1, o.2.1, o.2.2.1, o.2.2.2 ||| boundsFlag p))
  let at' := fun r => rows.getD r (0, 0, 0, 0)
  let st' := putRows st (fun i =>
    let r := i % 16
    if r < ctlR c then
      (match i / 16 with
       | 0 => some (at' r).1
       | 1 => if fn = 0x13 then some (at' r).2.1 else none
       | 2 => some (at' r).2.2.1
       | 4 => some (BitVec.ofNat 32 (at' r).2.2.2)
       | _ => none)
    else none)
  ⟨none, st', (rows.map (fun o => o.2.2.2)).foldl (· ||| ·) 0, none⟩

/-- FN 0x12 and 0x13, apply: one row and the flags it met (R110). The state's NAN flag alone makes a row NaN: the rule does not say
whether a NaN or an infinity in the tile that is applied does so too, and a lane that holds one goes through the arithmetic
(DESIGN CHOICE, unsafe; log entry 106). -/
def applyRow (p : ArcPath) (fn : Nat) (a b n eps : Word) (f : Nat) (xs : List Word) : List Word × Nat :=
  if bit f 0 then (xs.map (fun _ => fpNan), f)
  else if (ofF n).isZero then (xs.map (fun _ => 0), f ||| rfFull)
  else
    let r := arcEval p 5 (faddW (fdivW (if fn = 0x12 then a else b) n) eps)
    (xs.map (fun x => if x = maskv then 0 else if fn = 0x12 then fmulW x r else fmulW (fsubW x a) r), f)

def arcApply (p : ArcPath) (fn : Nat) (xs st : List Word) : ArcRes :=
  let c := (lane st 511).toNat
  let w := ctlW c
  let rows := (List.range (ctlR c)).map (fun r =>
    applyRow p fn (lane st r) (lane st (16 + r)) (lane st (32 + r)) (lane st 510) ((lane st (64 + r)).toNat % 16) (segment xs w r))
  ⟨some (rows.flatMap (fun o => o.1)), st, (rows.map (fun o => o.2)).foldl (· ||| ·) 0, none⟩

/-- A row operation with a valid control word. -/
def arcRow (p : ArcPath) (fn mode : Nat) (xs st : List Word) : ArcRes :=
  if fn = 0x10 then arcSoftmax p mode xs st
  else if fn = 0x11 then arcFinal p xs st
  else if bit (lane st 511).toNat 5 then arcApply p fn xs st
  else arcStats p fn xs st

/-- Whether a row operation with a valid control word writes SRC2: all but the apply forms (R102). -/
def arcPuts (fn ctl : Nat) : Bool := decide (fn ≤ 0x11) || !bit ctl 5

/-- A state as a row operation writes it once every output is forced to NaN (spec/05 R135): NaN in each FP32 lane that the operation
writes, the NAN flag in the row flags. Row flags are integers whose bits [31:4] are written as zero (R103), so that they cannot hold a
NaN (DEDUCED, unsafe; log entry 106). -/
def lateState (fn mode ctl : Nat) (st : List Word) : List Word :=
  let lo := if fn = 0x11 then (if ctlOut ctl = 1 then 0 else ctlRowoff ctl) else 0
  let n := if fn = 0x11 then 512 / (if ctlOut ctl = 1 then ctlW ctl else ctlWo ctl) else ctlR ctl
  let fp := if fn = 0x11 then [3] else if fn = 0x12 then [0, 2]
    else if mode = 0 then [0, 1, 2] else if ctlPhase ctl = 0 then [0] else [1, 2]
  putRows st (fun i =>
    if lo ≤ i % 16 ∧ i % 16 < lo + n then
      if fp.contains (i / 16) then some fpNan
      else if i / 16 = 4 then some (lane st i ||| BitVec.ofNat 32 rfNan) else none
    else none)

/-- FCT_ARCST or DRP_ARCST bits for the row flags met. -/
def metBits (met : Nat) : List Nat :=
  (if bit met 0 then [2] else []) ++ (if bit met 2 then [3] else []) ++ (if bit met 1 then [4] else [])

end Sys2Proof.Machine
end

