-- ==== Sys2Proof/Machine/Arc.lean ====
section
/-! DEFINITION. The Arc units: ARC on a Facet, the table memory and its errors, loads and self-tests
(spec/02 R49, R50; spec/04 R92 to R116). A unit is a Facet's logical index, or 256 + a Drip engine's index (R115). -/

namespace Sys2Proof.Machine

/-! ### The unit (R101, R112) -/

def State.engineArc (s : State) (u : Nat) : EngineArc := Sparse.get (fun _ => EngineArc.blank) s.engineArcs u

def State.arcValid (s : State) (u : Nat) : Bool := if u < 256 then (s.facet u).arcValid else (s.engineArc u).valid
def State.arcTesting (s : State) (u : Nat) : Bool := if u < 256 then (s.facet u).selfTest else (s.engineArc u).selfTest

/-- The unit's ARC_BOUNDS field and status card. -/
def boundsFld (u : Nat) : Fld := if u < 256 then R.fctStat_ARC_BOUNDS else R.drpStat_ARC_BOUNDS
def arcstCard (u : Nat) : Card := if u < 256 then .fctArcst else .drpArcst
def reloadsFld (u : Nat) : Fld := if u < 256 then R.fctArcst_RELOADS else R.drpArcst_RELOADS
def unitIdx (u : Nat) : Nat := if u < 256 then u else u - 256
def unitSource (u : Nat) : Nat := if u < 256 then source 0 u else source 1 (u - 256)
def State.unitPart (s : State) (u : Nat) : Option Nat := if u < 256 then s.facetPart u else s.enginePart (u - 256)

/-- Whether the unit exists on the part. -/
def State.unitExists (s : State) (u : Nat) : Bool :=
  if u < 256 then decide (u < s.facetCount) else decide (u - 256 < s.engineCount)

/-- Set the valid bit and the self-test flag; ARC_BOUNDS shows the fallback path (R112). -/
def State.setArc (s : State) (u : Nat) (valid testing : Bool) : State :=
  have s : State := if u < 256 then s.modFacet u (fun x => { x with arcValid := valid, selfTest := testing })
    else
      let y := s.engineArc u
      { s with engineArcs := Sparse.put (fun _ => EngineArc.blank) s.engineArcs u { y with valid := valid, selfTest := testing } }
  s.sf (boundsFld u) (unitIdx u) (b2n (!valid || testing))

/-- Record that the unit completed an operation on the fallback path: BOUNDS_USED, its class 1 report (spec/14 R310, R313) and the
latch of R116. -/
def State.usedBounds (s : State) (u : Nat) : State :=
  have s : State := (s.setBit (arcstCard u) (unitIdx u) 6).report (unitSource u) 0x26 1 (s.unitPart u) u
  if u < 256 then s.modFacet u (fun x => { x with stepBounds := true })
  else
    let y := s.engineArc u
    { s with engineArcs := Sparse.put (fun _ => EngineArc.blank) s.engineArcs u { y with stepBounds := true } }

/-- An uncorrectable table error (R114, steps 1 and 2). -/
def State.arcFault (s : State) (u : Nat) : State :=
  have s : State := ((s.setArc u false (s.arcTesting u)).setBit (arcstCard u) (unitIdx u) 7).setBit (arcstCard u) (unitIdx u) 6
  (s.bump 0x8012 2).report (unitSource u) 0x27 1 (s.unitPart u) u

/-! ### The table memory (R100, R101) -/

/-- Bytes of native tables, before the Dexdy-exact coefficient area. -/
def nativeSize (u : Nat) : Nat := if u < 256 then 24576 else 12288

/-- Bytes of table memory. -/
def tableSize (u : Nat) : Nat := 2 * nativeSize u

/-- Byte `k` of the image that is measured for a unit. -/
def imageByte (u k : Nat) : Byte :=
  if k < nativeSize u then Config.arcImage (decide (256 ≤ u)) k else dexdyArea (k - nativeSize u)

def State.arcTab (s : State) (u : Nat) : Nat := Sparse.get (fun _ => 0) s.arcTabs u

/-- Byte `k` of a unit's table memory; none while nothing has been written there. -/
def State.arcByte (s : State) (u k : Nat) : Option Byte :=
  if tableSize u ≤ k then none else
  match s.arcTab u with
  | 0 => none
  | 1 => some (imageByte u k)
  | q + 2 => some (BitVec.ofNat 8 (Config.freeVal q k))

/-- The words of one unit, taken out of a list of erroneous words. -/
def dropUnit (l : List (Nat × Nat)) (u : Nat) : List (Nat × Nat) := l.filter (fun x => x.1 != u)

/-- The table memory of a unit is written whole: with the image, or so that its check fails. -/
def State.writeTables (s : State) (u : Nat) (ok : Bool) : State :=
  let k := s.fresh
  have s : State := if ok then s else k.2
  { s with
    arcTabs := Sparse.put (fun _ => 0) s.arcTabs u (if ok then 1 else k.1 + 2)
    arcUc := dropUnit s.arcUc u, arcEc := dropUnit s.arcEc u }

/-- The table memory of a unit is lost: it stays on the fallback path until it has been loaded (R112). -/
def State.loseTables (s : State) (u : Nat) : State :=
  State.setArc { s with
    arcTabs := Sparse.put (fun _ => 0) s.arcTabs u 0, arcUc := dropUnit s.arcUc u, arcEc := dropUnit s.arcEc u } u false false

/-- Which of a unit's erroneous words an operation reads: those of its own tables, all that `words` names where the rules
say which entries are read; elsewhere each is met or not, freely (DESIGN CHOICE, safe; log entry 7). -/
def State.arcMet (s : State) (u mode : Nat) (words : Option (List Nat)) (errs : List (Nat × Nat)) : List Nat × State :=
  let here := (errs.filter (fun x => x.1 == u && decide (8 * x.2 < nativeSize u) == (mode == 0))).map Prod.snd
  if here.isEmpty then ([], s) else
  match words with
  | some l => (here.filter l.contains, s)
  | none => (here.filter (fun w => Config.freeVal s.fresh.1 w % 2 == 1), s.fresh.2)

/-- The path an operation of unit `u` runs on, after the table reads it makes: each corrected error is logged, an
uncorrectable one sends the operation to the fallback path (R112, R114). -/
def State.arcPath (s : State) (u mode : Nat) (words : Option (List Nat)) : State × ArcPath :=
  if !s.arcValid u || s.arcTesting u then (s.usedBounds u, .fallback) else
  let e := s.arcMet u mode words s.arcEc
  have s : State := e.1.foldl (fun (t : State) _ =>
    ((t.setBit (arcstCard u) (unitIdx u) 0).bump 0x8012 1).report (unitSource u) 0x20 0 (t.unitPart u) u) e.2
  let b := s.arcMet u mode words s.arcUc
  if b.1.isEmpty then (b.2, if mode = 0 then .native else .dexdy) else ((b.2.arcFault u).usedBounds u, .fallback)

/-- The words that a Dexdy-exact element function reads on its operands. -/
def dexWords (u fn mode : Nat) (xs : List Word) : Option (List Nat) :=
  if mode = 0 then none else some (xs.flatMap (fun x => match dexReads fn x with
    | some y => y.units.map (fun w => nativeSize u / 8 + w)
    | none => []))

/-! ### Self-tests (R115) -/

/-- The enabled units, in the order a test of all of them takes. -/
def State.arcUnits (s : State) : List Nat :=
  List.range s.facetCount ++ (List.range s.engineCount).map (fun e => 256 + e)

/-- Put a unit into its self-test. -/
def State.beginTest (s : State) (u : Nat) : State := s.setArc u (s.arcValid u) true

/-- Whether some unit is being tested. -/
def State.anyTesting (s : State) : Bool := s.arcUnits.any s.arcTesting

/-- The test of a unit is over; a test of every unit goes on with the next, and shows a failure at its end. -/
def State.testOver (s : State) (ok : Bool) : State :=
  match s.selfAll with
  | none => s.setN 0x8012 5 (if ok then 0 else 2)
  | some (k, failed) =>
    match s.arcUnits[k + 1]? with
    | some v => State.beginTest { s with selfAll := some (k + 1, failed || !ok) } v
    | none => State.setN { s with selfAll := none } 0x8012 5 (if failed || !ok then 2 else 0)

/-- The table memories of some units are lost; the test of one of them ends as failed (DESIGN CHOICE, unsafe; log entry 61). -/
def State.loseUnits (s : State) (units : List Nat) : State :=
  let tested := units.any s.arcTesting
  have s : State := units.foldl (fun (t : State) u => t.loseTables u) s
  if tested then s.testOver false else s

/-! ### ARC on a Facet -/

def arFn (w : Nat) : Nat := bits w 57 52
def arMode (w : Nat) : Nat := bits w 51 50
def arDst (w : Nat) : Nat := bits w 49 45
def arS1 (w : Nat) : Nat := bits w 44 40
def arS2 (w : Nat) : Nat := bits w 39 35
def arPdst (w : Nat) : Nat := bits w 34 32
def arPen (w : Nat) : Bool := bit w 31

/-- Cycles an ARC occupies the unit. -/
def arOcc (w : Nat) : Nat := if arMode w = 1 then 8 else 4

/-- Results of an ARC: they may be read `lat` cycles after the issue; `quiet` is a state register. An ARC issued while the unit
is occupied sets SCHED and leaves the registers of both undefined (R50, R64). -/
def State.arcLand (s : State) (f w lat : Nat) (bad : Bool) (ps : List (Put × Bool)) : State :=
  let twice := decide (0 < (s.facet f).arcBusy)
  have s : State := if twice then
      (s.facetErr f eSched 0).modFacet f (fun x => { x with
        lands := x.lands.map (fun l => if l.age < l.occ then { l with spoilt := true } else l) })
    else s
  have s : State := ps.foldl (fun (t : State) p => t.addLand f ⟨p.1, 0, lat, lat - 1, arOcc w, p.2, bad || twice⟩) s
  s.modFacet f (fun y => { y with arcBusy := arOcc w })

/-- A vector register as a whole. -/
def wholeReg (r : Nat) (vs : List Word) : Put := .vreg r 0 vs none

/-- A predicate register as a whole. -/
def wholePred (p v : Nat) : Put := .preg p v (2 ^ 512 - 1)

/-- An element function: lane by lane, with the special flags of R96. -/
def State.arcElem (f : Nat) (s : State) (w : Nat) : State :=
  let x := s.facet f
  let xs := x.vreg (arS1 w)
  let r := s.arcPath f (arMode w) (dexWords f (arFn w) (arMode w) xs)
  have s : State := r.1
  let ys := xs.map (arcEval r.2 (arFn w))
  let sp := List.zipWith (fun a b => isSpecialW a || isSpecialW b) xs ys
  have s : State := if sp.any id then s.arcFlag f 1 0 else s
  s.arcLand f w (if arMode w = 1 then 24 else 16) (x.unready (.vreg (arS1 w)))
    ((wholeReg (arDst w) ys, false) :: (if arPen w then [(wholePred (arPdst w) (lanesToPred sp), false)] else []))

/-- The state register as a row operation writes it: all of it, but for FN 0x11 the LSE and flag lanes alone (R102, R103). -/
def statePut (fn r : Nat) (vs : List Word) : Put :=
  .vreg r 0 vs (if fn = 0x11 then some (lanesToPred ((List.range 512).map (fun i => decide (48 ≤ i ∧ i < 80)))) else none)

/-- A row operation. -/
def State.arcRowOp (f : Nat) (s : State) (w : Nat) : State :=
  let x := s.facet f
  let fn := arFn w
  let r := s.arcPath f (arMode w) none
  have s : State := r.1
  let xs := x.vreg (arS1 w)
  let st := x.vreg (arS2 w)
  let bad := ctlBad fn (arMode w) (lane st 511).toNat
  let o : ArcRes := if bad then ⟨some (List.replicate 512 fpNan), st, 0, some (2 ^ 512 - 1)⟩ else arcRow r.2 fn (arMode w) xs st
  have s : State := if bad then s.arcFlag f 5 (arS2 w)
    else (metBits o.met).foldl (fun (t : State) k => t.arcFlag f k 0) s
  let q := s.fresh
  have s : State := if arPen w && o.pred.isNone then q.2 else s
  let pred := match o.pred with
    | some v => v
    | none => Config.freeVal q.1 0 % 2 ^ 512
  s.arcLand f w (if arMode w = 1 then 28 else 20) (x.unready (.vreg (arS1 w)) || x.unready (.vreg (arS2 w)))
    ((match o.dst with
      | some d => [(wholeReg (arDst w) d, false)]
      | none => []) ++
     (if bad || !arcPuts fn (lane st 511).toNat then [] else [(statePut fn (arS2 w) o.st, true)]) ++
     (if arPen w then [(wholePred (arPdst w) pred, false)] else []))

/-- The issue of an ARC whose function code is `fn`. -/
def State.arcIssue (s : State) (f fn : Nat) : State :=
  s.issue f 2 (fun w => opc w == 0x20 && arFn w == fn) (State.arcElem f) (seqFlow f)

/-- The issue of a row operation: `p` looks at MODE and the control word as it stands on the issue cycle. -/
def State.arcRowIssue (s : State) (f fn : Nat) (p : Nat → Nat → Bool) : State :=
  let x := (State.bringUp f (s.groupOf f) bringFuel s).facet f
  s.issue f 2 (fun w => opc w == 0x20 && arFn w == fn && p (arMode w) (lane (x.vreg (arS2 w)) 511).toNat)
    (State.arcRowOp f) (seqFlow f)

def execArcExp2 (f : Nat) (s : State) : Host.Outcome State Fault Refusal := .next (s.arcIssue f 0x00)
def execArcExp (f : Nat) (s : State) : Host.Outcome State Fault Refusal := .next (s.arcIssue f 0x01)
def execArcLog2 (f : Nat) (s : State) : Host.Outcome State Fault Refusal := .next (s.arcIssue f 0x02)
def execArcLn (f : Nat) (s : State) : Host.Outcome State Fault Refusal := .next (s.arcIssue f 0x03)
def execArcRecip (f : Nat) (s : State) : Host.Outcome State Fault Refusal := .next (s.arcIssue f 0x04)
def execArcRsqrt (f : Nat) (s : State) : Host.Outcome State Fault Refusal := .next (s.arcIssue f 0x05)
def execArcSqrt (f : Nat) (s : State) : Host.Outcome State Fault Refusal := .next (s.arcIssue f 0x06)
def execArcTanh (f : Nat) (s : State) : Host.Outcome State Fault Refusal := .next (s.arcIssue f 0x07)
def execArcSigmoid (f : Nat) (s : State) : Host.Outcome State Fault Refusal := .next (s.arcIssue f 0x08)
def execArcGelu (f : Nat) (s : State) : Host.Outcome State Fault Refusal := .next (s.arcIssue f 0x09)
def execArcSilu (f : Nat) (s : State) : Host.Outcome State Fault Refusal := .next (s.arcIssue f 0x0A)
def execArcSin (f : Nat) (s : State) : Host.Outcome State Fault Refusal := .next (s.arcIssue f 0x0B)
def execArcCos (f : Nat) (s : State) : Host.Outcome State Fault Refusal := .next (s.arcIssue f 0x0C)

/-- FN 0x10, native (R106). -/
def execArcSoftmaxStep (f : Nat) (s : State) : Host.Outcome State Fault Refusal :=
  .next (s.arcRowIssue f 0x10 (fun m _ => m == 0))

/-- FN 0x10, MODE = 1, PHASE = 0 (R109); a PHASE above 1 is an invalid control word of either pass (R104). -/
def execArcSoftmaxMaxPass (f : Nat) (s : State) : Host.Outcome State Fault Refusal :=
  .next (s.arcRowIssue f 0x10 (fun m c => m == 1 && ctlPhase c != 1))

/-- FN 0x10, MODE = 1, PHASE = 1 (R109). -/
def execArcSoftmaxSumPass (f : Nat) (s : State) : Host.Outcome State Fault Refusal :=
  .next (s.arcRowIssue f 0x10 (fun m c => m == 1 && ctlPhase c != 0))

/-- FN 0x11, OUT = 0 (R107); OUT = 3 is an invalid control word of all three. -/
def execArcFinalNormalise (f : Nat) (s : State) : Host.Outcome State Fault Refusal :=
  .next (s.arcRowIssue f 0x11 (fun _ c => ctlOut c == 0 || ctlOut c == 3))

/-- FN 0x11, OUT = 1 (R107). -/
def execArcFinalProbabilities (f : Nat) (s : State) : Host.Outcome State Fault Refusal :=
  .next (s.arcRowIssue f 0x11 (fun _ c => ctlOut c == 1 || ctlOut c == 3))

/-- FN 0x11, OUT = 2 (R107). -/
def execArcFinalRescale (f : Nat) (s : State) : Host.Outcome State Fault Refusal :=
  .next (s.arcRowIssue f 0x11 (fun _ c => ctlOut c == 2 || ctlOut c == 3))

/-- FN 0x12, accumulate (R110). -/
def execArcRmsAccumulate (f : Nat) (s : State) : Host.Outcome State Fault Refusal :=
  .next (s.arcRowIssue f 0x12 (fun _ c => !bit c 5))

/-- FN 0x12, apply (R110). -/
def execArcRmsApply (f : Nat) (s : State) : Host.Outcome State Fault Refusal :=
  .next (s.arcRowIssue f 0x12 (fun _ c => bit c 5))

/-- FN 0x13, accumulate (R110). -/
def execArcLayernormAccumulate (f : Nat) (s : State) : Host.Outcome State Fault Refusal :=
  .next (s.arcRowIssue f 0x13 (fun _ c => !bit c 5))

/-- FN 0x13, apply (R110). -/
def execArcLayernormApply (f : Nat) (s : State) : Host.Outcome State Fault Refusal :=
  .next (s.arcRowIssue f 0x13 (fun _ c => bit c 5))

end Sys2Proof.Machine
end

