-- ==== Sys2Proof/Machine/Digest.lean ====
section
/-! DEFINITION. The digests that rules name by their public standards: CRC-32C (spec/08 R195), SipHash-2-4 (spec/06 R162),
SHA-384 with HMAC, HKDF and PBKDF2 over it (spec/10, spec/16). -/

namespace Sys2Proof.Machine

/-! ### CRC-32C -/

/-- One bit of the reflected Castagnoli division. -/
def crcBit (c : Nat) : Nat := if c % 2 = 1 then (c / 2) ^^^ 0x82F63B78 else c / 2

def crcByte (c b : Nat) : Nat := crcBit (crcBit (crcBit (crcBit (crcBit (crcBit (crcBit (crcBit (c ^^^ b))))))))

/-- CRC-32C: initial value and final exclusive-or all ones. -/
def crc32c (bs : List Byte) : Nat := (bs.foldl (fun c b => crcByte c b.toNat) 0xFFFFFFFF) ^^^ 0xFFFFFFFF

/-! ### SipHash-2-4 -/

structure Sip where
  a : DWord
  b : DWord
  c : DWord
  d : DWord
deriving DecidableEq, Repr

def Sip.round (v : Sip) : Sip :=
  let a := v.a + v.b
  let b := (v.b.rotateLeft 13) ^^^ a
  let a := a.rotateLeft 32
  let c := v.c + v.d
  let d := (v.d.rotateLeft 16) ^^^ c
  let a := a + d
  let d := (d.rotateLeft 21) ^^^ a
  let c := c + b
  let b := (b.rotateLeft 17) ^^^ c
  let c := c.rotateLeft 32
  ⟨a, b, c, d⟩

def Sip.word (v : Sip) (m : DWord) : Sip :=
  let v := (({ v with d := v.d ^^^ m } : Sip).round).round
  { v with a := v.a ^^^ m }

/-- The 8-byte words of a message, the last one holding the length (modulo 256) in its top byte. -/
def sipWords : Nat → List Byte → Nat → List DWord
  | 0, _, _ => []
  | n + 1, bs, len =>
    if bs.length < 8 then [BitVec.ofNat 64 (leNat bs + (len % 256) * 2 ^ 56)]
    else BitVec.ofNat 64 (leNat (bs.take 8)) :: sipWords n (bs.drop 8) len

/-- SipHash-2-4 with a 128-bit key. -/
def siphash (key : Nat) (bs : List Byte) : Nat :=
  let k0 : DWord := BitVec.ofNat 64 key
  let k1 : DWord := BitVec.ofNat 64 (key / 2 ^ 64)
  let v : Sip := ⟨k0 ^^^ 0x736f6d6570736575, k1 ^^^ 0x646f72616e646f6d, k0 ^^^ 0x6c7967656e657261, k1 ^^^ 0x7465646279746573⟩
  let v := (sipWords (bs.length / 8 + 1) bs bs.length).foldl Sip.word v
  let v : Sip := { v with c := v.c ^^^ 0xff }
  let v := v.round.round.round.round
  (v.a ^^^ v.b ^^^ v.c ^^^ v.d).toNat

/-! ### SHA-384 -/

/-- The largest `r` below `2 ^ n` above a start with `r ^ k` at most `v`. -/
def rootFrom (k v : Nat) : Nat → Nat → Nat
  | 0, r => r
  | n + 1, r => rootFrom k v n (if (r + 2 ^ n) ^ k ≤ v then r + 2 ^ n else r)

/-- The primes below a bound. -/
def primesBelow (n : Nat) : List Nat :=
  ((List.range n).drop 2).filter (fun q => (List.range 21).all (fun d => decide (d < 2) || decide (q ≤ d) || q % d != 0))

/-- The first 64 bits of the fraction of the `k`-th root of a prime. -/
def rootBits (k q : Nat) : DWord := BitVec.ofNat 64 (rootFrom k (q * 2 ^ (64 * k)) 69 0)

/-- The round constants: cube roots of the first 80 primes (FIPS 180-4). -/
def shaK : List DWord := (primesBelow 410).map (rootBits 3)

/-- The first chaining value of SHA-384: square roots of the ninth to sixteenth primes. -/
def shaH : List DWord := ((primesBelow 54).drop 8).map (rootBits 2)

def sha0 (x : DWord) : DWord := x.rotateRight 1 ^^^ x.rotateRight 8 ^^^ x >>> 7
def sha1 (x : DWord) : DWord := x.rotateRight 19 ^^^ x.rotateRight 61 ^^^ x >>> 6
def shaS0 (x : DWord) : DWord := x.rotateRight 28 ^^^ x.rotateRight 34 ^^^ x.rotateRight 39
def shaS1 (x : DWord) : DWord := x.rotateRight 14 ^^^ x.rotateRight 18 ^^^ x.rotateRight 41

/-- The message schedule, newest word first. -/
def shaSchedule : Nat → List DWord → List DWord
  | 0, w => w
  | n + 1, w => shaSchedule n ((sha1 (w.getD 1 0) + w.getD 6 0 + sha0 (w.getD 14 0) + w.getD 15 0) :: w)

def shaRound (v : List DWord) (kw : DWord × DWord) : List DWord :=
  match v with
  | [a, b, c, d, e, f, g, h] =>
    let t1 := h + shaS1 e + ((e &&& f) ^^^ (~~~e &&& g)) + kw.1 + kw.2
    let t2 := shaS0 a + ((a &&& b) ^^^ (a &&& c) ^^^ (b &&& c))
    [t1 + t2, a, b, c, d + t1, e, f, g]
  | v => v

def beNat (bs : List Byte) : Nat := bs.foldl (fun n b => n * 256 + b.toNat) 0
def natBE (n v : Nat) : List Byte := (natLE n v).reverse

def shaBlock (v : List DWord) (blk : List Byte) : List DWord :=
  let w := (List.range 16).map (fun i => (BitVec.ofNat 64 (beNat ((blk.drop (8 * i)).take 8)) : DWord))
  let ws := (shaSchedule 64 w.reverse).reverse
  List.zipWith (· + ·) v ((shaK.zip ws).foldl shaRound v)

def shaBlocks : Nat → List DWord → List Byte → List DWord
  | 0, v, _ => v
  | n + 1, v, bs => if bs.isEmpty then v else shaBlocks n (shaBlock v (bs.take 128)) (bs.drop 128)

/-- SHA-384 (FIPS 180-4). -/
def sha384 (bs : List Byte) : List Byte :=
  let pad := (239 - bs.length % 128) % 128
  let m := bs ++ 0x80 :: zeros pad ++ natBE 16 (8 * bs.length)
  ((shaBlocks (m.length / 128) shaH m).take 6).flatMap (fun w => natBE 8 w.toNat)

/-- HMAC-SHA-384 (RFC 2104). -/
def hmac384 (key msg : List Byte) : List Byte :=
  let k := padTo 128 (if key.length > 128 then sha384 key else key)
  sha384 (k.map (· ^^^ 0x5c) ++ sha384 (k.map (· ^^^ 0x36) ++ msg))

def hkdfBlocks (prk info : List Byte) : Nat → Nat → List Byte → List Byte
  | 0, _, _ => []
  | n + 1, i, t =>
    let t' := hmac384 prk (t ++ info ++ [BitVec.ofNat 8 i])
    t' ++ hkdfBlocks prk info n (i + 1) t'

/-- HKDF-SHA-384 (RFC 5869) with an empty salt. -/
def hkdf (ikm info : List Byte) (len : Nat) : List Byte :=
  (hkdfBlocks (hmac384 (zeros 48) ikm) info (len / 48 + 1) 1 []).take len

def pbkdfIter (pw : List Byte) : Nat → List Byte → List Byte → List Byte
  | 0, _, acc => acc
  | n + 1, u, acc => let u' := hmac384 pw u; pbkdfIter pw n u' (List.zipWith (· ^^^ ·) acc u')

/-- PBKDF2-HMAC-SHA-384 (RFC 8018) with 100,000 iterations and 48 bytes of output (spec/16 R376). -/
def pbkdf2 (pw salt : List Byte) : List Byte :=
  let u := hmac384 pw (salt ++ natBE 4 1)
  pbkdfIter pw 99999 u u

end Sys2Proof.Machine
end

