-- ==== Sys2Proof/Machine/Control.lean ====
section
/-! DEFINITION. The control slot but for transfers: SBOP, WAIT and its end, LOOP, JMP, BR, HALT and the scalar operations
(spec/02 R34 to R36, R55 to R57, R62, R443). -/

namespace Sys2Proof.Machine

/-- The issue of a control operation with opcode `op`. -/
def State.ctlIssue (s : State) (f : Nat) (is : Nat → Bool) (act flow : State → Nat → State) : State := s.issue f 3 is act flow

/-! ### Scalars -/

def Facet.sreg (x : Facet) (r : Nat) : Word := Sparse.get (fun _ => 0) x.sregs r

def State.setSreg (s : State) (f r : Nat) (v : Word) : State :=
  s.modFacet f (fun x => { x with sregs := Sparse.put (fun _ => 0) x.sregs r v })

/-- SMOV (R62). -/
def execSmov (f : Nat) (s : State) : Host.Outcome State Fault Refusal :=
  .next (s.ctlIssue f (fun w => opc w == 0x38)
    (fun s w => s.setSreg f (bits w 57 54) (BitVec.ofNat 32 (bits w 53 22))) (seqFlow f))

/-- SADD, modulo 2^32 (R62). -/
def execSadd (f : Nat) (s : State) : Host.Outcome State Fault Refusal :=
  .next (s.ctlIssue f (fun w => opc w == 0x39)
    (fun s w => s.setSreg f (bits w 57 54) ((s.facet f).sreg (bits w 57 54) + BitVec.ofNat 32 (bits w 53 22))) (seqFlow f))

/-- SRDC: COUNT as it stands at the end of the issue cycle (R62). -/
def execSrdc (f : Nat) (s : State) : Host.Outcome State Fault Refusal :=
  .next (s.ctlIssue f (fun w => opc w == 0x3A)
    (fun s w => s.setSreg f (bits w 57 54) (BitVec.ofNat 32 (s.gf R.fctSb_COUNT (f * 64 + bits w 53 48)))) (seqFlow f))

/-! ### SBOP (R56) -/

/-- SBOP SET: COUNT := IMM, SAT clears. -/
def execSbopSet (f : Nat) (s : State) : Host.Outcome State Fault Refusal :=
  .next (s.ctlIssue f (fun w => opc w == 0x32 && bits w 57 56 == 0)
    (fun s w => (s.sf R.fctSb_COUNT (f * 64 + bits w 55 50) (bits w 49 26)).sf R.fctSb_SAT (f * 64 + bits w 55 50) 0) (seqFlow f))

/-- SBOP ADD: COUNT + IMM, saturating. -/
def execSbopAdd (f : Nat) (s : State) : Host.Outcome State Fault Refusal :=
  .next (s.ctlIssue f (fun w => opc w == 0x32 && bits w 57 56 == 1)
    (fun s w => s.sbAdd f (bits w 55 50) (bits w 49 26)) (seqFlow f))

/-- SBOP clear ERR. -/
def execSbopClearErr (f : Nat) (s : State) : Host.Outcome State Fault Refusal :=
  .next (s.ctlIssue f (fun w => opc w == 0x32 && bits w 57 56 == 2)
    (fun s w => s.sf R.fctSb_ERR (f * 64 + bits w 55 50) 0) (seqFlow f))

/-! ### WAIT (R36, R56, R57) -/

/-- The wait a WAIT word asks for. -/
def waitOf (x : Facet) (w now : Nat) : WaitRec :=
  { grp := bit w 57, cond := bits w 56 55, ctr := bits w 54 49,
    bound := if bits w 56 55 = 2 then (x.sreg (bits w 24 21)).toNat else bits w 48 25, since := now }

/-- A wait whose condition holds has been satisfied: what its counter told of may be used (spec/01 R14). -/
def State.waitDone (s : State) (f : Nat) (v : WaitRec) : State :=
  if v.cond = 0 then s else (s.credit f v.ctr (s.time - v.since)).waited f v.ctr

/-- A wait at the end of its issue cycle: ERR halts the Facet instead of the next bundle; a local wait whose condition
holds goes on; every other one stalls. -/
def State.enterWait (s : State) (f : Nat) (v : WaitRec) : State :=
  if s.waitErr f v then s.haltErr f eWaitErr v.ctr
  else if !v.grp && s.waitOk f v then s.waitDone f v
  else (s.modFacet f (fun x => { x with wait := some v })).sf R.fctStat_STATE f fsStalled

/-- WAIT with SCOPE = local: the Facet detaches (R35). -/
def execWaitLocal (f : Nat) (s : State) : Host.Outcome State Fault Refusal :=
  .next (s.ctlIssue f (fun w => opc w == 0x33 && bits w 57 57 == 0)
    (fun s _ => s.sf R.fctStat_DETACHED f 1)
    (fun s w => (s.flowSeq f).enterWait f (waitOf (s.facet f) w s.time)))

/-- WAIT with SCOPE = group. -/
def execWaitGroup (f : Nat) (s : State) : Host.Outcome State Fault Refusal :=
  .next (s.ctlIssue f (fun w => opc w == 0x33 && bits w 57 57 == 1)
    (fun s _ => s)
    (fun s w => (s.flowSeq f).enterWait f (waitOf (s.facet f) w s.time)))

/-- Facets go on after a wait: their next bundle issues on the next cycle. -/
def State.goOn (s : State) (fs : List Nat) : State :=
  fs.foldl (fun (t : State) f => (t.modFacet f (fun x => { x with wait := none, rest := 1 })).sf R.fctStat_STATE f fsRunning) s

/-- The counter of a waiting Facet reaches the condition, or has ERR: a local wait resumes on the next cycle; a wait of
either scope whose counter has ERR halts the Facet (R56, R57). -/
def State.waitSatisfied (s : State) (f : Nat) : State :=
  if s.gf R.fctStat_STATE f ≠ fsStalled ∨ s.facetFrozen f then s else
  match (s.facet f).wait with
  | none => s
  | some v =>
    if s.waitErr f v then (s.haltErr f eWaitErr v.ctr).settle (s.groupOf f)
    else if !v.grp && s.waitOk f v then ((s.waitDone f v).wakeGroup (s.groupOf f)).goOn [f]
    else s

def execWaitSatisfied (f : Nat) (s : State) : Host.Outcome State Fault Refusal := .next (s.waitSatisfied f)

/-- The waits of some Facets have been satisfied. -/
def State.waitsDone (s : State) (fs : List Nat) : State :=
  fs.foldl (fun (t : State) f => match (t.facet f).wait with
    | some v => t.waitDone f v
    | none => t) s

/-- A group whose members have all arrived, with every condition true, goes on, aligned, on G + 1 (R36). The four cycles it takes
pass with the GCC at rest. -/
def State.groupResume (s : State) (g : Nat) : State :=
  let ms := s.members g
  if ms.isEmpty ∨ !(ms.all (fun f => s.arrived f && !s.facetFrozen f)) then s else
  have s : State := ((s.waitsDone ms).wakeGroup g).goOn ms
  ms.foldl (fun (t : State) f => t.sf R.fctStat_DETACHED f 0) s

def execGroupResume (g : Nat) (s : State) : Host.Outcome State Fault Refusal := .next (s.groupResume g)

/-! ### LOOP, JMP, BR, HALT (R62, R443) -/

/-- LOOP: open a level over the bundles that follow. Where the LOOP is itself the last bundle of open bodies, those count their
pass as at any other last bundle, beneath the new level (DEDUCED, unsafe; log entry 23). -/
def State.openLoop (s : State) (f w : Nat) : State :=
  let pc := s.pc f
  let r := loopAdvance (s.facet f).loops pc
  have s : State := s.modFacet f (fun x =>
    { x with loops := ⟨pc + 1, pc + bits w 57 45, bits w 44 21⟩ :: r.1, rest := 1, slot := 0 })
  s.sf R.fctStat_PC f r.2

def execLoop (f : Nat) (s : State) : Host.Outcome State Fault Refusal :=
  .next (s.ctlIssue f (fun w => opc w == 0x34) (fun s _ => s) (fun s w => s.openLoop f w))

def execJmp (f : Nat) (s : State) : Host.Outcome State Fault Refusal :=
  .next (s.ctlIssue f (fun w => opc w == 0x35) (fun s _ => s) (fun s w => s.flowJump f (bits w 57 45)))

/-- BR's condition on a scalar: zero, non-zero, negative, non-negative. -/
def brTaken (c : Nat) (v : Word) : Bool :=
  if c = 0 then v == 0 else if c = 1 then v != 0 else if c = 2 then v.msb else !v.msb

/-- BR detaches the Facet (R35), taken or not. -/
def execBr (f : Nat) (s : State) : Host.Outcome State Fault Refusal :=
  .next (s.ctlIssue f (fun w => opc w == 0x36)
    (fun s _ => s.sf R.fctStat_DETACHED f 1)
    (fun s w => if brTaken (bits w 53 52) ((s.facet f).sreg (bits w 57 54)) then s.flowJump f (bits w 51 39) else s.flowIdle f))

/-- The Barista is notified of a HALT (R62). -/
def State.tellHalt (s : State) (f : Nat) : State :=
  match s.facetPart f with
  | some p => s.modPrt p (fun x => { x with told := if x.told.contains f then x.told else x.told ++ [f] })
  | none => s

def execHalt (f : Nat) (s : State) : Host.Outcome State Fault Refusal :=
  .next (s.ctlIssue f (fun w => opc w == 0x37) (fun s _ => s) (fun s _ => ((s.flowSeq f).sf R.fctStat_STATE f fsHalted).tellHalt f))

end Sys2Proof.Machine
end

