-- ==== Sys2Proof/Machine/Neighbour.lean ====
section
/-! DEFINITION. Neighbour transfers: within a Lattice die on the static schedule, and across the Seam (spec/02 R51 to R54). -/

namespace Sys2Proof.Machine

/-- The receiver of a transfer, when the link is open: the neighbour exists and belongs to the sender's partition, or
both are in the free domain (R52, spec/12 R442). -/
def State.openLink (s : State) (f dir : Nat) : Option Nat :=
  match s.neighbour f dir with
  | some g => if s.facetPart g = s.facetPart f then some g else none
  | none => none

/-- A transfer within a die begins; one that runs in the same direction keeps the unit (R51, R63). -/
def State.nxferAct (f : Nat) (s : State) (w : Nat) : State :=
  let dir := bits w 57 56
  match s.openLink f dir with
  | none => s.facetErr f eLink dir
  | some g =>
    let busy := fun (x : Flight) => opc x.w == opNxfer && bits x.w 57 56 == dir && decide (x.age ≤ bits x.w 55 50)
    let twice := (s.facet f).flights.any busy
    (s.spoil f busy).addFlight f { flightOf f w twice with dest := g }

/-- NXFER with SEAM = 0. -/
def execNxfer (f : Nat) (s : State) : Host.Outcome State Fault Refusal :=
  .next (s.ctlIssue f (fun w => opc w == opNxfer && bits w 9 9 == 0) (State.nxferAct f) (seqFlow f))

/-! ### Across the Seam (R53, R54) -/

/-- A transfer across the Seam begins: its beats enter the buffer of the column and direction on the cycles that follow. -/
def State.nxferSeam (f : Nat) (s : State) (w : Nat) : State :=
  let dir := bits w 57 56
  let n := bits w 55 50 + 1
  match s.openLink f dir with
  | none => s.facetErr f eLink dir
  | some g =>
    let lane := s.seamLane f dir
    let busy := fun (x : Flight) => opc x.w == opNxfer && bits x.w 57 56 == dir && decide (x.age ≤ bits x.w 55 50)
    let twice := (s.facet f).flights.any busy
    let r := s.newUid
    have s : State := r.2.setSeam lane (r.2.seam lane ++ [⟨r.1, f, g, bits w 35 22, bits w 21 16, bits w 15 10, n, [], [], false, false⟩])
    have s : State := s.expect g 256 r.1 0 [(spAddr g (bits w 35 22 * 128), n * 256)]
    (s.spoil f busy).addFlight f { flightOf f w twice with dest := g, uid := r.1 }

/-- NXFER with SEAM = 1. -/
def execNxferSeam (f : Nat) (s : State) : Host.Outcome State Fault Refusal :=
  .next (s.ctlIssue f (fun w => opc w == opNxfer && bits w 9 9 == 1) (State.nxferSeam f) (seqFlow f))

/-- Mark the first transfer that `p` holds of. -/
def markFirst (p : SeamXfer → Bool) (g : SeamXfer → SeamXfer) : List SeamXfer → List SeamXfer
  | [] => []
  | x :: t => if p x then g x :: t else x :: markFirst p g t

/-- Write the beats a transfer has kept to its receiver, through the background port. -/
def State.putBeats (s : State) (x : SeamXfer) : State :=
  x.kept.foldl (fun (t : State) b => (t.writeMem (spAddr x.dst ((x.line + 2 * b) * 128)) (Sparse.gets zeroByte x.data (b * 256) 256)).1) s

/-- Let the cycles pass that the oldest undelivered transfer of a lane needs to enter the buffer. -/
def State.seamReady (s : State) (lane : Nat) : State :=
  match (s.seam lane).find? (fun x => !x.delivered) with
  | none => s
  | some x => State.pass (s.groupOf x.src)
      (fun t => (((t.seam lane).find? (fun y => decide (y.uid = x.uid))).map (fun y => decide (y.left = 0))).getD true) 64 s

/-- The receiver has written the last beat of the oldest undelivered transfer of a lane: CTR increments. -/
def State.seamDelivery (s0 : State) (lane : Nat) : State :=
  have s : State := s0.seamReady lane
  match (s.seam lane).find? (fun x => !x.delivered) with
  | none => s
  | some x =>
    if x.left ≠ 0 then s else
    have s : State := s.putBeats x
    have s : State := s.setSeam lane (markFirst (fun y => !y.delivered) (fun y => { y with delivered := true }) (s.seam lane))
    (s.arrivedAll x.uid x.ctr).sbInc x.dst x.ctr x.overrun

def execSeamDelivery (lane : Nat) (s : State) : Host.Outcome State Fault Refusal := .next (s.seamDelivery lane)

/-- The sender learns that the oldest transfer of a lane was written: ACK increments, its beats stop counting. -/
def State.seamAck (s : State) (lane : Nat) : State :=
  match s.seam lane with
  | [] => s
  | x :: t => if x.delivered then (s.setSeam lane t).sbInc x.src x.ack x.overrun else s

def execSeamAck (lane : Nat) (s : State) : Host.Outcome State Fault Refusal := .next (s.seamAck lane)

end Sys2Proof.Machine
end

