-- ==== Sys2Proof/Machine/Routes.lean ====
section
/-! DEFINITION. The issuer's side of the fabric: grants, routes, operations outstanding and their completion
(spec/13 R290 to R297, R305). -/

namespace Sys2Proof.Machine

/-! ### Frames (R289) -/

def frameHead (op : Nat) (comb noret poison : Bool) (tc len aop tag epoch : Nat) : Nat :=
  1 + op % 64 * 2 ^ 4 + b2n comb * 2 ^ 10 + b2n noret * 2 ^ 11 + b2n poison * 2 ^ 12 + tc % 4 * 2 ^ 13 +
    (len - 1) % 4096 * 2 ^ 16 + aop % 16 * 2 ^ 28 + tag % 65536 * 2 ^ 32 + epoch % 65536 * 2 ^ 48

def mkFrame (w0 w1 w2 w3 : Nat) (payload : List Byte) : Frame :=
  ⟨BitVec.ofNat 64 w0, BitVec.ofNat 64 w1, BitVec.ofNat 64 w2, BitVec.ofNat 64 w3, payload, true, ⟨0, 0, none, 0, 1, true⟩⟩

/-- The fabric epoch (0x4000:02). -/
def State.epoch (s : State) : Nat := s.dnum 0x4000 2

/-- Whether the package may send frames: its identifier is valid (spec/01 R20). -/
def State.idValid (s : State) : Bool := s.gf R.identPkgid_VALID 0 == 1

/-- A message to the other packages of a partition's serving group: a package without a valid identifier sends none (spec/01
R20). -/
def State.tell (s : State) (p : Nat) (kind : String) (v : Nat) : State := if s.idValid then s.emit (.group p kind v) else s

/-! ### Links (R287, R289) -/

def State.linkOf (s : State) (n : Nat) : Link := Sparse.get (fun _ => Link.blank) s.links n

def State.modLink (s : State) (n : Nat) (g : Link → Link) : State :=
  { s with links := Sparse.put (fun _ => Link.blank) s.links n (g (s.linkOf n)) }

/-- A frame as it leaves on a port: addresses, in fallback mode the 802.1Q tag (`resp`: PCP 4), SCI and packet number. The SCI is the
port's address with port identifier 1 (PRESUMED, unsafe; log entry 109). -/
def State.wired (s : State) (n : Nat) (resp : Bool) (f : Frame) : Frame :=
  { f with wire := ⟨(s.linkOf n).addr, s.part.eui + n,
    if s.gf R.fmfPortStat_MODE n = 1 then some (s.dnum 0x4003 2, if resp then 4 else 3) else none,
    (s.part.eui + n) * 65536 + 1, (s.linkOf n).tx, true⟩ }

/-- Send a frame on a port. -/
def State.sendFrame (s : State) (n : Nat) (resp : Bool) (f : Frame) : State :=
  (s.modLink n (fun l => { l with tx := l.tx + 1 })).sendOut n (.frame n (s.wired n resp f))

/-! ### Ports and routes (R286, R293) -/

/-- A port is up, and carries more than link training: it does not while L3 is open (spec/16 R380). -/
def State.portUp (s : State) (n : Nat) : Bool := s.gf R.fmfPortStat_STATE n == 4 && decide (s.sec.level < 3)

/-- A byte of a dictionary octet string. -/
def octAt (l : List Byte) (i : Nat) : Nat := (l.getD i 0).toNat

/-- Route entry `e` as the dictionary and the ports that are up give it now. -/
def State.routeNow (s : State) (e : Nat) : Route :=
  let b := s.doct 0x4002 e
  let near := octAt b 4 + octAt b 5 * 256 + octAt b 6 * 65536
  ⟨octAt b 0 + octAt b 1 * 256, octAt b 2 + octAt b 3 * 256,
   ((List.range 24).filter (fun n => bit near n && s.portUp n)) ++
   (((List.range 8).filter (fun n => bit (octAt b 7) n && s.portUp (24 + n))).map (fun n => 24 + n))⟩

def State.route (s : State) (e : Nat) : Route := Sparse.get (fun _ => Route.blank) s.routes e

/-- Whether a change of the entry waits for the operations outstanding on the old set (R293). -/
def State.routePending (s : State) (e : Nat) : Bool := s.routeNow e != s.route e

/-- The first entry whose identifier range contains a target. -/
def State.routeFor (s : State) (dst : Nat) : Option Nat :=
  ((List.range 64).map (· + 1)).find? (fun e => decide ((s.route e).lo ≤ dst) && decide (dst ≤ (s.route e).hi))

/-- The port of an operation (R293). -/
def portFor (ports : List Nat) (dst off : Nat) : Nat :=
  ports.getD (crc32c (natLE 8 (dst * 2 ^ 37 + off / 4096)) % ports.length) 0

/-! ### Keys (R292) -/

def State.ent (s : State) (k : Nat) : Ent := Sparse.get (fun _ => Ent.blank) s.tables k

def State.setEnt (s : State) (k : Nat) (e : Ent) : State :=
  { s with tables := Sparse.put (fun _ => Ent.blank) s.tables k e }

/-- The first valid grant, in ascending index, of partition `p` for an access. -/
def State.grantFor (s : State) (p dst off n : Nat) : Option Ent :=
  ((s.tables.filter (fun x => decide (4096 ≤ x.1) && decide (x.1 < 8192))).map Prod.snd).find? (fun g =>
    bit g.w0 63 && decide (bits g.w0 61 58 = p) && decide (bits g.w0 57 43 ≤ dst) && decide (dst ≤ bits g.w0 42 28) &&
    decide (bits g.w1 48 0 ≤ off) && decide (off + n ≤ bits g.w1 48 0 + (bits g.w2 36 0 + 1) * 4096))

/-- What an access to another package meets before any frame is sent: OK, NO_GRANT or UNREACHABLE (R20, R292, R293). -/
def State.issuerStatus (s : State) (p : Option Nat) (fga n key : Nat) : Nat :=
  let dst := fgaPkg fga
  if !s.idValid then stUnreachable else
  let granted := key != 0 || (match p with
    | some p => (s.grantFor p dst (fgaOff fga) n).isSome
    | none => false)
  if !granted then stNoGrant else
  match s.routeFor dst with
  | none => stUnreachable
  | some e => if (s.route e).ports.isEmpty && !s.routePending e then stUnreachable else stOk

/-! ### Transfers -/

/-- Cut a stretch at the target's 4 KiB boundaries (R290). -/
def cutSeg : Nat → Seg → List Seg
  | 0, _ => []
  | k + 1, g =>
    if g.len = 0 then [] else
    let m := min g.len (4096 - fgaOff g.fga % 4096)
    { g with len := m } :: cutSeg k { g with fga := g.fga + m, len := g.len - m, pos := g.pos + m }

def State.xferOf (s : State) (who : Issuer) : Option Xfer := s.xfers.find? (fun x => decide (x.who = who))

/-- Change a transfer's record, making one if there is none. -/
def State.modXfer (s : State) (who : Issuer) (g : Xfer → Xfer) : State :=
  match s.xferOf who with
  | some _ => { s with xfers := s.xfers.map (fun x => if x.who = who then g x else x) }
  | none => { s with xfers := s.xfers ++ [g ⟨who, [], 0, [], [], false⟩] }

def State.dropXfer (s : State) (who : Issuer) : State :=
  { s with xfers := s.xfers.filter (fun x => decide (x.who ≠ who)), ops := s.ops.filter (fun o => decide (o.who ≠ who)) }

/-- The status a transfer has met so far. -/
def State.xferStatus (s : State) (who : Issuer) : Nat :=
  match s.xferOf who with
  | some x => x.status
  | none => 0

/-- Whether a transfer waits for no held page, no operation and no store still to be issued. -/
def State.xferIdle (s : State) (who : Issuer) : Bool :=
  s.holds.all (fun h => decide (h.who ≠ who)) && s.ops.all (fun o => decide (o.who ≠ who)) &&
  (match s.xferOf who with
   | some x => x.stores.isEmpty
   | none => true)

/-- A stretch of the transfer fails with a status. -/
def State.failSeg (s : State) (who : Issuer) (st : Nat) (g : Seg) : State :=
  s.modXfer who (fun x => { x with status := if x.status = 0 then st else x.status, failed := x.failed ++ [g] })

/-- Operations outstanding on a port, and in all (R305). -/
def State.onPort (s : State) (n : Nat) : Nat := (s.ops.filter (fun o => decide (o.port = some n))).length
def State.outst (s : State) : Nat := (s.ops.filter (fun o => o.port.isSome)).length

/-- Show the outstanding counts in FMF_STAT and FMF_PORTn_STAT. -/
def State.showOutst (s : State) (n : Nat) : State :=
  (s.sf R.fmfStat_OUTST 0 s.outst).sf R.fmfPortStat_OUTST n (s.onPort n)

/-- The port an operation goes out on: its reduction plane, or its route set's choice. -/
def State.opPort (s : State) (o : FabOp) : Nat :=
  if o.entry ≥ 1000 then o.entry - 1000 else portFor (s.route o.entry).ports o.dst o.off

/-- The partition a transfer belongs to. -/
def State.whoPart (s : State) : Issuer → Option Nat
  | .pour f _ => s.facetPart f
  | .drip e _ => s.enginePart e
  | .copy p _ => some p
  | .stage p _ => some p
  | .inbox _ => none
  | .job c => (s.jobs.find? (fun j => j.ctx == c)).map (fun j => j.p)

/-- Whether an issuer is held by the freeze of its partition; copy rings and the loader are Vertex-side work and go on (spec/12 R275,
R276). -/
def State.whoFrozen (s : State) : Issuer → Bool
  | .copy _ _ => false
  | .job _ => false
  | who => match s.whoPart who with
    | some p => (s.prt p).frozen
    | none => false

/-- Whether an operation can be sent now: the identifier is valid (spec/01 R20), its route set stands, the limits allow it, and no operation of its issuer to the
same 4 KiB block waits to be sent again (R293, R305; spec/14 R327). A RED frame leaves on a native port only (R304). -/
def State.sendable (s : State) (o : FabOp) : Bool :=
  s.idValid && o.port.isNone && !o.retry && !s.whoFrozen o.who &&
  (if o.entry ≥ 1000 then s.portUp (o.entry - 1000) && s.gf R.fmfPortStat_MODE (o.entry - 1000) == 0
   else !s.routePending o.entry && !(s.route o.entry).ports.isEmpty) &&
  !s.ops.any (fun x => x.retry && decide (x.who = o.who) && x.dst == o.dst && x.off / 4096 == o.off / 4096 && x.op != 6) &&
  decide (s.outst < 65536) && decide (s.onPort (s.opPort o) < 4096)

/-- Send an operation: its port, tag and frame (R289, R291, R293, R302). The one ATOMIC that the device issues is the
compare-and-swap of a load job (spec/10 R231). -/
def State.sendOp (s : State) (o : FabOp) : State :=
  let n := s.opPort o
  let tag := Sparse.get (fun _ => 0) s.portTags n
  let fr := mkFrame (frameHead o.op o.comb false false (if o.op = 6 then 2 else 1) o.len (if o.op = 3 then 9 else 0) tag s.epoch)
    (s.pkg + o.dst * 2 ^ 16) o.key o.off o.data
  have s : State := { s with
    ops := s.ops.map (fun x => if x.uid = o.uid then { x with port := some n, tag := tag, retry := false, at_ := if x.op = 6 then x.at_ else s.time } else x)
    portTags := Sparse.put (fun _ => 0) s.portTags n ((tag + 1) % 65536) }
  (s.showOutst n).sendFrame n false fr

/-- Send what the limits allow, oldest first (R305). -/
def State.pump (s : State) : State :=
  s.ops.foldl (fun (t : State) o => if t.sendable o then t.sendOp o else t) s

/-- A stretch that ends before any frame is sent: a poisoned completion, which is logged (R296). No port carries it: the entry
names port 0 (DESIGN CHOICE, unsafe; log entry 63). -/
def State.refuseSeg (s : State) (who : Issuer) (st : Nat) (g : Seg) : State :=
  ((s.sf R.fmfErr_POISON 0 1).report (source 5 0) st 1 (s.whoPart who) g.fga).failSeg who st g

/-- Issue one operation of a transfer of partition `p`, or fail its stretch (R292, R293). -/
def State.launch1 (s : State) (p : Option Nat) (who : Issuer) (op : Nat) (g : Seg) (data : List Byte) : State :=
  -- a grant table that cannot be read (spec/14 R311)
  if s.ucVertex.contains 1 ∧ p.isSome ∧ g.key = 0 then s.fatalVertex 1 else
  let st := s.issuerStatus p g.fga g.len g.key
  if st ≠ 0 then s.refuseSeg who st g else
  match s.routeFor (fgaPkg g.fga) with
  | none => s.refuseSeg who stUnreachable g
  | some e =>
    let gr := match p with
      | some p => s.grantFor p (fgaPkg g.fga) (fgaOff g.fga) g.len
      | none => none
    let key := if g.key ≠ 0 then g.key else (gr.map Ent.w3).getD 0
    -- the entry reads of a load job are combined, though their key is explicit (spec/10 R231; DESIGN CHOICE, unsafe; log entry 35)
    let comb := op == 1 && (match who with
      | .job _ => true
      | _ => decide (g.key = 0) && (gr.map (fun x => bit x.w0 62)).getD false)
    let r := s.newUid
    { r.2 with ops := r.2.ops ++
      [⟨r.1, who, e, none, 0, op, fgaPkg g.fga, fgaOff g.fga, g.len, key, comb, g.pos, data, false, s.time⟩] }

/-- Issue loads, or stores of bytes taken from `src` at each stretch's place. -/
def State.launch (s : State) (p : Option Nat) (who : Issuer) (op : Nat) (gs : List Seg) (src : List Host.Cell) : State :=
  ((gs.flatMap (fun g => cutSeg (g.len / 4096 + 2) g)).foldl (fun (t : State) g =>
    t.launch1 p who op g (if op = 2 ∨ op = 5 then Sparse.gets zeroByte src g.pos g.len
      else if op = 3 then Sparse.gets zeroByte src g.pos (2 * g.len) else [])) s).pump

/-- Issue the chunks of a reduction as RED frames: a segment's address holds its plane and word 3, its key word 2 (R302). -/
def State.launchRed (s : State) (who : Issuer) (gs : List Seg) (src : List Host.Cell) : State :=
  (gs.foldl (fun (t : State) g =>
    let r := t.newUid
    { r.2 with ops := r.2.ops ++
      [⟨r.1, who, 1000 + g.fga % 32, none, 0, 6, 0, g.fga / 32, g.len, g.key, false, g.pos,
        Sparse.gets zeroByte src g.pos g.len, false, s.time⟩] }) s).pump

/-- After the last load of a transfer has returned, its stores go out, but for the stretches whose loads failed; of a load job, the
second read of the entry. -/
def State.secondHalf (s : State) (who : Issuer) : State :=
  match s.xferOf who with
  | none => s
  | some x =>
    if x.stores.isEmpty ∨ s.ops.any (fun o => decide (o.who = who)) then s else
    let op := match who with
      | .copy _ _ => 5
      | .job _ => 1
      | _ => 2
    let good := x.stores.filter (fun g => !x.failed.any (fun b => decide (b.pos < g.pos + g.len) && decide (g.pos < b.pos + b.len)))
    have s : State := s.modXfer who (fun x => { x with stores := [] })
    if x.red then s.launchRed who x.stores x.buf else s.launch (s.whoPart who) who op good x.buf

/-- Complete an outstanding operation with a status and the bytes it returned (R296, R297). -/
def State.completeOp (s : State) (o : FabOp) (st : Nat) (data : List Byte) : State :=
  have s : State := { s with ops := s.ops.filter (fun x => decide (x.uid ≠ o.uid)) }
  let n := o.port.getD 0
  have s : State := s.showOutst n
  have s : State :=
    if st ≠ 0 then
      have s : State := (s.sf R.fmfErr_POISON 0 1).report (source 5 n) st 1 (s.whoPart o.who) (o.dst * 2 ^ 49 + o.off)
      have s : State := if st = stTimeout ∨ st = stLinkDown then s.emit (.report "completion" (st * 2 ^ 16 + o.dst)) else s
      s.failSeg o.who st ⟨o.dst * 2 ^ 49 + o.off, o.len, o.pos, o.key⟩
    else if o.op = 1 ∨ o.op = 3 ∨ o.op = 4 then
      s.modXfer o.who (fun x => { x with buf := Sparse.blit zeroByte x.buf o.pos (padTo o.len data) })
    else s
  (s.secondHalf o.who).pump

end Sys2Proof.Machine
end

