-- ==== Sys2Proof/Machine/Pour.lean ====
section
/-! DEFINITION. Accesses by descriptor: the checks and the moving of rows that Pour, Drip and copy engines share, and the
Pour engine (spec/02 R58 to R61; spec/01 R17, R19; spec/07 R178, R179; spec/05 R441). -/

namespace Sys2Proof.Machine

/-! ### Checking one row of an access -/

/-- Translation that passes over a page that would be held: such a page is not refused. -/
def State.softXl (s : State) (p va : Nat) (write : Bool) : Xl :=
  match s.xlTiered p va write false with
  | .hold v => match s.leafAt p va with
    | some l => .at l.frame (v + pageBytes l.psize - va)
    | none => .bad stNotMapped
  | x => x

/-- The status an access by this package's own engine for a domain (`none`: the free domain) meets before it moves a
byte: 0, or why it is refused; TABLE_UC comes with its table. -/
def State.rowStatus (s : State) (dom : Option Nat) (fga n : Nat) (write : Bool) (key : Nat) : Nat × List (Nat × Nat × Nat) :=
  if !s.own fga then (s.issuerStatus dom fga n key, []) else
  let off := fgaOff fga
  if !s.allowed dom off n write then (stAccess, []) else
  match dom with
  | none => (0, [])
  | some p =>
    let r := if s.region off n = .tiered then walkPages (fun va => s.softXl p va write) (n / 4096 + 2) (off - tieredBase) n []
      else s.resolve p off n write false
    match r with
    | .pieces _ => (0, [])
    | .hold _ => (0, [])
    | .bad st => (st, [])
    | .table t => (stTableUc, [t])

/-- The pages of an access that hold it (R178, rows 3 and 7). -/
def State.heldPages (s : State) (dom : Option Nat) (fga n : Nat) (write : Bool) : List Nat :=
  match dom with
  | none => []
  | some p =>
    let off := fgaOff fga
    if !s.own fga ∨ off < tieredBase ∨ off ≥ kvBase then [] else
    let va := off - tieredBase
    (s.leaves.filter (fun l => decide (l.p = p) && decide (l.va < va + n) && decide (va < l.va + pageBytes l.psize) &&
      (match s.xlTiered p (max va l.va) write false with
       | .hold _ => true
       | _ => false))).map (fun l => l.va)

/-- Hold an access on pages, each counted once (R179): what one descriptor reads, or what it writes, of one page is one access (DESIGN
CHOICE, unsafe; log entry 107). -/
def State.addHolds (s : State) (p : Nat) (who : Issuer) (write : Bool) (pages : List Nat) : State :=
  let hs : List Hold := pages.map (fun va => ⟨p, va, write, who, s.time⟩)
  let new := hs.filter (fun h => !s.holds.any (fun x => x.p == h.p && x.va == h.va && x.write == h.write && decide (x.who = h.who)))
  ({ s with holds := s.holds ++ new }).bumpBy 0x8015 1 new.length

/-! ### Moving one row -/

/-- What an access of a domain (`none`: the free domain) comes to when its bytes move (R178). -/
def State.rowRes (s : State) (dom : Option Nat) (fga n : Nat) (write : Bool) : Res :=
  match dom with
  | some p => s.resolve p (fgaOff fga) n write false
  | none => .pieces [(fgaOff fga, n)]

def Res.ranges : Res → List (Nat × Nat)
  | .pieces l => l
  | _ => []

/-- An access that was refused only when its bytes came to move: the log records the status, and a table that is found uncorrectable is
marked (R177, R178). The entry names the tier registers' block (DESIGN CHOICE, unsafe; log entry 107). -/
def State.refuseRow (s : State) (dom : Option Nat) (fga : Nat) (r : Res) : State :=
  match r with
  | .pieces _ => s
  | .hold _ => s.report (source 8 0xC) stNotResident 1 dom fga
  | .bad st => s.report (source 8 0xC) st 1 dom fga
  | .table t => (s.markTable t).report (source 8 0xC) stTableUc 1 dom fga

/-- A read of a domain leaves A on its pages and counts and logs the corrected errors it met. -/
def State.noteRead (s : State) (dom : Option Nat) (fga n : Nat) (ps : List (Nat × Nat)) : State :=
  have s : State := match dom with
    | some p => s.touch p (fgaOff fga) n false
    | none => s
  if s.ecMem.isEmpty then s else ps.foldl (fun (t : State) x => t.reportEc x.1 x.2) s

/-- Whether an access goes through the translation cache while that is uncorrectable (spec/14 R311). -/
def State.cacheUc (s : State) (dom : Option Nat) (off n : Nat) : Bool :=
  s.ucVertex.contains 3 && dom.isSome && (match s.region off n with
    | .tiered => true
    | .kv _ => true
    | _ => false)

/-- Read `n` bytes at an address of this package: the bytes, the units that were uncorrectable (of an access that is refused, its own
offset), and the state after what reading leaves (A bits, corrected errors, reports). A read that meets an uncorrectable unit, or is
refused, supplies free bytes. -/
def State.readRow (s : State) (dom : Option Nat) (fga n : Nat) : State × List Byte × List Nat :=
  if s.cacheUc dom (fgaOff fga) n then
    let r := (s.fatalVertex 3).fresh
    (r.2, freeBytes r.1 n, [fgaOff fga])
  else match s.rowRes dom fga n false with
  | .pieces ps =>
    let bad := s.ucPieces ps
    have s : State := s.noteRead dom fga n ps
    have s : State := bad.foldl (fun (t : State) u => t.reportUc u dom) s
    if bad.isEmpty then (s, s.readPieces ps, [])
    else
      let r := s.fresh
      (r.2, freeBytes r.1 n, bad)
  | x =>
    let r := (s.refuseRow dom fga x).fresh
    (r.2, freeBytes r.1 n, [fgaOff fga])

/-- Write bytes at an address of this package: the state, and the units in which the write failed (R441). A write that is refused
changes no memory and answers its own offset. -/
def State.writeRow (s : State) (dom : Option Nat) (fga : Nat) (bs : List Byte) : State × List Nat :=
  if s.cacheUc dom (fgaOff fga) bs.length then (s.fatalVertex 3, [fgaOff fga])
  else match s.rowRes dom fga bs.length true with
  | .pieces ps =>
    have s : State := match dom with
      | some p => s.touch p (fgaOff fga) bs.length true
      | none => s
    let r := s.writePieces ps bs
    (r.2.foldl (fun (t : State) u => t.reportUc u dom) r.1, r.2)
  | x => (s.refuseRow dom fga x, [fgaOff fga])

/-- The physical ranges a write to an address would cover, for finding overlaps. -/
def State.physOf (s : State) (dom : Option Nat) (fga n : Nat) : List (Nat × Nat) := (s.rowRes dom fga n true).ranges

/-! ### The Pour engine -/

def pdLen (d : PourDesc) : Nat := bits d.w2 63 40
def pdRows (d : PourDesc) : Nat := bits d.w2 39 24 + 1
def pdCfacet (d : PourDesc) : Nat := bits d.w2 23 16
def pdCtr (d : PourDesc) : Nat := bits d.w2 15 10
def pdImem (d : PourDesc) : Bool := bit d.w2 9
def pdFence (d : PourDesc) : Bool := bit d.w2 8
def pdSrc (d : PourDesc) (r : Nat) : Nat := (d.w0 + r * bits d.w3 63 32) % 2 ^ 64
def pdDst (d : PourDesc) (r : Nat) : Nat := (d.w1 + r * bits d.w3 31 0) % 2 ^ 64

/-- POUR: the descriptor lines are read from this cycle on (R58, R59). -/
def execPour (f : Nat) (s : State) : Host.Outcome State Fault Refusal :=
  .next (s.ctlIssue f (fun w => opc w == opPour) (fun s w => s.addFlight f (flightOf f w false)) (seqFlow f))

/-- The rows of a descriptor, by number. -/
def pdRange (d : PourDesc) : List Nat := List.range (pdRows d)

/-- The first status that is not OK, with the tables to mark. -/
def firstBad (l : List (Nat × List (Nat × Nat × Nat))) : Nat × List (Nat × Nat × Nat) :=
  (l.find? (fun x => x.1 != 0)).getD (0, [])

/-- The check of a descriptor before it moves a byte (R60): 0 when it passes. -/
def State.pourCheck (s : State) (f : Nat) (d : PourDesc) : Nat × List (Nat × Nat × Nat) :=
  let dom := s.facetPart f
  if bits d.w2 7 0 ≠ 0 ∨ pdLen d = 0 ∨ !s.facetOfDomain dom (pdCfacet d) then (stBadOp, [])
  else
    let src := firstBad ((pdRange d).map (fun r => s.rowStatus dom (pdSrc d r) (pdLen d) false 0))
    if src.1 ≠ 0 then src
    else if pdImem d then
      (if (pdRange d).all (fun r => decide (pdDst d r + pdLen d ≤ 262144)) then (0, []) else (stBounds, []))
    else firstBad ((pdRange d).map (fun r => s.rowStatus dom (pdDst d r) (pdLen d) true 0))

/-- The rows whose source, or whose destination, is on another package. -/
def State.farRows (s : State) (d : PourDesc) (src : Bool) : List Seg :=
  ((pdRange d).filter (fun r => if src then !s.own (pdSrc d r) else !pdImem d && !s.own (pdDst d r))).map
    (fun r => ⟨if src then pdSrc d r else pdDst d r, pdLen d, r * pdLen d, 0⟩)

/-- The bytes of one row's source on this package. Those that another operation writes, and that neither FENCE nor a wait orders
before the descriptor, are undefined (R15). -/
def State.pourSource (s : State) (f : Nat) (d : PourDesc) (r : Nat) : State × List Byte × List Nat :=
  let dom := s.facetPart f
  let q := s.readRow dom (pdSrc d r) (pdLen d)
  let x := q.1.unsettled (s.physOf dom (pdSrc d r) (pdLen d))
    (fun u => decide (u.uid = d.uid) || (decide (u.by_ = f) && decide (u.uid < min d.uid (s.facet f).fenced))) q.2.1
  (x.1, x.2, q.2.2)

/-- Issue what a running descriptor moves to and from other packages, once none of its accesses is held: loads of its
remote sources, and stores to its remote destinations when every load has returned. -/
def State.pourLaunch (s : State) (f : Nat) (d : PourDesc) : State :=
  let who := Issuer.pour f d.uid
  let loads := s.farRows d true
  let stores := s.farRows d false
  if loads.isEmpty ∧ stores.isEmpty then s else
  let dom := s.facetPart f
  -- the bytes of the local sources, for the remote destinations
  let local' := if stores.isEmpty then [] else (pdRange d).filter (fun r => s.own (pdSrc d r))
  let r := local'.foldl (fun (acc : State × List Host.Cell × Bool) r =>
    let q := acc.1.pourSource f d r
    (q.1, Sparse.blit zeroByte acc.2.1 (r * pdLen d) q.2.1, acc.2.2 || !q.2.2.isEmpty)) (s, [], false)
  have s : State := r.1
  have s : State := s.modXfer who (fun x =>
    { x with buf := r.2.1, stores := stores, status := if r.2.2 then stMedia else x.status })
  (s.launch dom who 1 loads []).secondHalf who

/-- End a descriptor: it leaves the queue and its counter increments (R55). -/
def State.pourEnd (s : State) (f : Nat) (d : PourDesc) (ctrFacet : Nat) (err : Bool) : State :=
  have s : State := s.setPourQ f ((s.facet f).pourQ.filter (fun x => decide (x.uid ≠ d.uid)))
  (((s.dropXfer (.pour f d.uid)).arrivedAll d.uid (pdCtr d)).noteDelay ctrFacet (pdCtr d) d.held).sbInc ctrFacet (pdCtr d) err

/-- Destination ranges of a descriptor; instruction memory lies apart. -/
def State.pourDest (s : State) (f : Nat) (d : PourDesc) : List (Nat × Nat) :=
  (pdRange d).flatMap (fun r =>
    if pdImem d then [(imemAt f + pdDst d r, pdLen d)]
    else if s.own (pdDst d r) then s.physOf (s.facetPart f) (pdDst d r) (pdLen d) else [])

/-- The bytes that two lists of ranges share. -/
def shared (a b : List (Nat × Nat)) : List (Nat × Nat) :=
  a.flatMap (fun x => b.filterMap (fun y =>
    let lo := max x.1 y.1
    let hi := min (x.1 + x.2) (y.1 + y.2)
    if lo < hi then some (lo, hi - lo) else none))

/-- Let the cycles pass that a POUR needs to put a descriptor into the queue. -/
def State.pourReady (s : State) (f : Nat) : State :=
  State.pass (s.groupOf f) (fun t => (t.facet f).pourQ.any (fun d => !d.running) || !(t.facet f).flights.any (fun x => opc x.w == opPour)) 8 s

/-- The next descriptor of the queue starts: queue order, FENCE behind every earlier one, the check of R60, then its
accesses are held or go out (R60, R61, R178, R179). Bytes that an earlier descriptor, ordered with it neither by FENCE nor by a
wait, writes or has written will be undefined. -/
def State.pourStart (s0 : State) (f : Nat) : State :=
  have s : State := s0.pourReady f
  let q := (s.facet f).pourQ
  match q.find? (fun d => !d.running) with
  | none => s
  | some d =>
    if s.facetFrozen f ∨ pdFence d ∧ (q.headD d).uid ≠ d.uid then s else
    have s : State := if pdFence d then s.modFacet f (fun x => { x with fenced := d.uid }) else s
    let c := s.pourCheck f d
    if c.1 ≠ 0 then
      have s : State := c.2.foldl (fun (t : State) x => t.markTable x) s
      have s : State := s.facetErr f eDesc d.w0
      let own := s.facetOfDomain (s.facetPart f) (pdCfacet d)
      s.pourEnd f d (if own then pdCfacet d else f) true
    else
      let dom := s.facetPart f
      let mine := s.pourDest f d
      -- descriptors before the last FENCE are ordered before this one
      let before := if pdFence d then [] else
        (s.unwaited.filter (fun u => decide (u.by_ = f) && decide (u.uid ≠ d.uid) && decide ((s.facet f).fenced ≤ u.uid))).map (fun u => (u.lo, u.len))
      let run := fun (x : PourDesc) =>
        if x.uid = d.uid then { x with running := true, clash := shared mine before }
        else if x.running then { x with clash := x.clash ++ shared mine (s.pourDest f x) }
        else x
      have s : State := (s.setPourQ f (q.map run)).expect (pdCfacet d) f d.uid 0 mine
      match dom with
      | none => s.pourLaunch f d
      | some p =>
        let rd := (pdRange d).flatMap (fun r => s.heldPages dom (pdSrc d r) (pdLen d) false)
        let wrp := if pdImem d then [] else (pdRange d).flatMap (fun r => s.heldPages dom (pdDst d r) (pdLen d) true)
        have s : State := (s.addHolds p (.pour f d.uid) false rd.eraseDups).addHolds p (.pour f d.uid) true wrp.eraseDups
        if rd.isEmpty ∧ wrp.isEmpty then s.pourLaunch f d else s

def execPourDescriptorStart (f : Nat) (s : State) : Host.Outcome State Fault Refusal := .next (s.pourStart f)

/-- Leave ranges undefined. -/
def State.freeRanges (s : State) (l : List (Nat × Nat)) : State :=
  l.foldl (fun (t : State) x =>
    let r := t.fresh
    let bs := freeBytes r.1 x.2
    if x.1 ≥ 2 ^ 60 then (r.2.writeImem 0 (x.1 - 2 ^ 60) bs).1 else (r.2.writeMem x.1 bs).1) s

/-- Move one row to a destination on this package: its bytes come from memory, or from what the loads returned. -/
def State.pourRow (s : State) (f : Nat) (d : PourDesc) (r : Nat) : State × Bool :=
  let dom := s.facetPart f
  let buf := ((s.xferOf (.pour f d.uid)).map (fun x => x.buf)).getD []
  let q := if s.own (pdSrc d r) then s.pourSource f d r else (s, Sparse.gets zeroByte buf (r * pdLen d) (pdLen d), [])
  if pdImem d then
    let x := q.1.writeImem f (pdDst d r) q.2.1
    (x.2.foldl (fun (t : State) u => t.report (source 0 f) (eImemUc + 1) 1 dom u) x.1, !q.2.2.isEmpty || !x.2.isEmpty)
  else
    let x := q.1.writeRow dom (pdDst d r) q.2.1
    (x.1, !q.2.2.isEmpty || !x.2.isEmpty)

/-- Pages that still, or again, hold a running descriptor. -/
def State.pourHeld (s : State) (f : Nat) (d : PourDesc) : List Nat × List Nat :=
  let dom := s.facetPart f
  ((pdRange d).flatMap (fun r => s.heldPages dom (pdSrc d r) (pdLen d) false),
   if pdImem d then [] else (pdRange d).flatMap (fun r => s.heldPages dom (pdDst d r) (pdLen d) true))

/-- The transfer of the `idx`-th queued descriptor completes: every row is written, or its error is known, and its counter
increments. Bytes that another descriptor, not ordered with it, also wrote are undefined, and so is the destination of a
transfer that a remote end refused (R55, R60, R61). -/
def State.pourComplete (s : State) (f idx : Nat) : State :=
  match (s.facet f).pourQ[idx]? with
  | none => s
  | some d =>
    let who := Issuer.pour f d.uid
    if !d.running ∨ s.facetFrozen f ∨ !s.xferIdle who then s else
    let st := s.xferStatus who
    let again := s.pourHeld f d
    if st = 0 ∧ (again.1 ≠ [] ∨ again.2 ≠ []) then
      match s.facetPart f with
      | some p => (s.addHolds p who false again.1.eraseDups).addHolds p who true again.2.eraseDups
      | none => s
    else if st ≠ 0 then
      -- what a failed access had already written is undefined (R60)
      (s.freeRanges (s.pourDest f d)).pourEnd f d (pdCfacet d) true
    else
      let rows := (pdRange d).filter (fun r => pdImem d || s.own (pdDst d r))
      let r := rows.foldl (fun (acc : State × Bool) r =>
        let x := acc.1.pourRow f d r
        (x.1, acc.2 || x.2)) (s, false)
      (r.1.freeRanges d.clash).pourEnd f d (pdCfacet d) r.2

def execPourComplete (f idx : Nat) (s : State) : Host.Outcome State Fault Refusal := .next (s.pourComplete f idx)

end Sys2Proof.Machine
end

