-- ==== Sys2Proof/Machine/Rings.lean ====
section
/-! DEFINITION. Descriptor rings: the polling and taking that Drip engines and copy engines share, and what a Drip engine
does when a descriptor starts, fails and ends (spec/05 R129 to R132, R135; spec/13 R300). Ring `e` below 32 is Drip engine
e's; ring 32 + p is partition p's copy ring. -/

namespace Sys2Proof.Machine

/-! ### The registers of a ring -/

def ringCopy (r : Nat) : Bool := decide (32 ≤ r)
def ringIdx (r : Nat) : Nat := if ringCopy r then r - 32 else r

def ringState (r : Nat) : Fld := if ringCopy r then R.fmfCqStat_STATE else R.drpStat_STATE
def ringSlot (r : Nat) : Fld := if ringCopy r then R.fmfCqHead_SLOT else R.drpHead_SLOT
def ringSeq (r : Nat) : Fld := if ringCopy r then R.fmfCqHead_SEQ else R.drpHead_SEQ
def ringSizeF (r : Nat) : Fld := if ringCopy r then R.fmfCqCfg_SIZE else R.drpRingCfg_SIZE

def State.ringBase (s : State) (r : Nat) : Nat :=
  if ringCopy r then s.pair .fmfCqRingLo .fmfCqRingHi (ringIdx r) else s.pair .drpRingLo .drpRingHi (ringIdx r)

def State.ringPart (s : State) (r : Nat) : Option Nat := if ringCopy r then some (ringIdx r) else s.enginePart (ringIdx r)

def State.takenOf (s : State) (r : Nat) : List RingDesc := Sparse.get (fun _ => []) s.taken r

def State.setTaken (s : State) (r : Nat) (l : List RingDesc) : State :=
  { s with taken := Sparse.put (fun _ => []) s.taken r l }

/-- The descriptors of a ring that have completed, and that no FENCE orders before the next (R131; spec/13 R300). -/
def State.pastOf (s : State) (e : Nat) : List RingDesc := Sparse.get (fun _ => []) s.past e

def State.setPast (s : State) (e : Nat) (l : List RingDesc) : State :=
  { s with past := Sparse.put (fun _ => []) s.past e l }

/-- Whether an expected result is one that a descriptor of ring `r` may read: its own, or that of a descriptor of the ring that
FENCE orders before it (R131; spec/13 R300). -/
def State.ringOrd (s : State) (r uid : Nat) (u : Unwaited) : Bool :=
  u.uid == uid || (u.by_ == 257 + r && !((s.pastOf r ++ (s.takenOf r).filter (fun x => x.running)).any (fun x => x.uid == u.uid)))

def State.modDesc (s : State) (r uid : Nat) (g : RingDesc → RingDesc) : State :=
  s.setTaken r ((s.takenOf r).map (fun d => if d.uid = uid then g d else d))

/-- The local offset of the slot a ring reads next. -/
def State.slotOff (s : State) (r : Nat) : Nat := fgaOff (s.ringBase r) + s.gf (ringSlot r) (ringIdx r) * 64

/-- Whether a frozen partition holds an engine, or the Debug gate has halted it: it takes and starts nothing (spec/12 R275, R276;
spec/16 R373). -/
def State.engineFrozen (s : State) (e : Nat) : Bool :=
  s.dbgHeld.contains e || match s.enginePart e with
  | some p => (s.prt p).frozen
  | none => false

/-- Whether a ring is being processed: STATE running, or waiting for a matching slot; none is in the fatal state (spec/14 R311). -/
def State.ringRuns (s : State) (r : Nat) : Bool :=
  let st := s.gf (ringState r) (ringIdx r)
  (st == 1 || st == 2) && !s.fatalNow && (ringCopy r || (!s.engineFrozen (ringIdx r) && s.power.sleep == 0))

def State.slotMatches (s : State) (r : Nat) : Bool :=
  decide (leNat (s.readMem (s.slotOff r + 56) 2) = s.gf (ringSeq r) (ringIdx r)) && (s.ucAt (s.slotOff r) 64).isEmpty

/-- Flag an engine error: the flag, and an error-log entry (spec/14 R313). -/
def State.dripErr (s : State) (e k detail : Nat) : State :=
  (s.setBit .drpErr e k).report (source 1 e) (k + 1) 1 (s.enginePart e) detail

/-- An uncorrectable read of a ring slot (spec/05 R120, R135). -/
def State.slotUc (s : State) (r : Nat) : State :=
  match s.ucAt (s.slotOff r) 64 with
  | [] => s
  | u :: _ => (if ringCopy r then s else s.dripErr (ringIdx r) 1 (s.fga u)).reportUc u (s.ringPart r)

/-- The ring reads its slot and finds no match: it waits (R129). -/
def State.ringPoll (s : State) (r : Nat) : State :=
  if !s.ringRuns r ∨ s.slotMatches r then s
  else ((s.slotUc r).reportEc (s.slotOff r) 64).sf (ringState r) (ringIdx r) 2

def execRingPoll (ring : Nat) (s : State) : Host.Outcome State Fault Refusal := .next (s.ringPoll ring)

/-- The ring takes the descriptor whose SEQ matched; SLOT and SEQ advance (R129). -/
def State.descriptorTake (s : State) (r : Nat) : State :=
  if !s.ringRuns r ∨ !s.slotMatches r then s else
  let i := ringIdx r
  let bs := s.readMem (s.slotOff r) 64
  let ws := (List.range 8).map (fun k => leNat ((bs.drop (8 * k)).take 8))
  let u := s.newUid
  let slot := s.gf (ringSlot r) i
  have s : State := (u.2.reportEc (s.slotOff r) 64).setTaken r (s.takenOf r ++ [⟨u.1, ws, slot, s.gf (ringSeq r) i, false, 0, 0, false, 0, [], [], false, false, 0, []⟩])
  have s : State := s.sf (ringSlot r) i ((slot + 1) % 2 ^ s.gf (ringSizeF r) i)
  have s : State := s.sf (ringSeq r) i (s.gf (ringSeq r) i + 1)
  s.sf (ringState r) i 1

def execDescriptorTake (ring : Nat) (s : State) : Host.Outcome State Fault Refusal := .next (s.descriptorTake ring)

/-! ### Fields that every kind has (R131) -/

def dw (d : RingDesc) (k : Nat) : Nat := d.w.getD k 0
def dKind (d : RingDesc) : Nat := bits (dw d 0) 63 60
def dFence (d : RingDesc) : Bool := bit (dw d 0) 59
def dCfacet (d : RingDesc) : Nat := bits (dw d 6) 63 56
def dCctr (d : RingDesc) : Nat := bits (dw d 6) 49 44

/-! ### Drip classes -/

/-- The classes a Drip descriptor holds: 0 lane, 1 transfer, 2 Arc; a value pour with SOFT = 1 holds lane and Arc. -/
def dClasses (d : RingDesc) : List Nat :=
  match dKind d with
  | 1 => [0]
  | 2 => [1]
  | 3 => [1]
  | 4 => [2]
  | 5 => [0]
  | 6 => if bit (dw d 0) 38 then [0, 2] else [0]
  | _ => []

/-- Show LANE_BUSY, XFER_BUSY and ARC_BUSY. -/
def State.showBusy (s : State) (e : Nat) : State :=
  let cs := ((s.takenOf e).filter (fun d => d.running)).flatMap dClasses
  ((s.sf R.drpStat_LANE_BUSY e (b2n (cs.contains 0))).sf R.drpStat_XFER_BUSY e (b2n (cs.contains 1))).sf
    R.drpStat_ARC_BUSY e (b2n (cs.contains 2))

/-- The next Drip descriptor in ring order, when it may start: its classes are free, and FENCE finds it first. -/
def State.startable (s : State) (e : Nat) (is : RingDesc → Bool) : Option RingDesc :=
  let q := s.takenOf e
  match q.find? (fun d => !d.running) with
  | none => none
  | some d =>
    let busy := (q.filter (fun x => x.running)).flatMap dClasses
    let st := s.gf R.drpStat_STATE e
    if is d ∧ !s.engineFrozen e ∧ (st = 1 ∨ st = 2) ∧ (dClasses d).all (fun c => !busy.contains c) ∧ (!dFence d ∨ (q.headD d).uid = d.uid)
    then some d else none

/-! ### Counters of an engine (R55, spec/12 R273) -/

/-- An increment by a Drip engine; one that carries ERR is a halt the Barista takes up. -/
def State.engineInc (s : State) (e : Nat) (d : RingDesc) (ctr : Nat) (err : Bool) : State :=
  have s : State := (s.noteDelay (dCfacet d) ctr d.held).sbInc (dCfacet d) ctr err
  if !err then s else
  match s.enginePart e with
  | some p => s.haltOwed p (dCfacet d)
  | none => s

/-- A descriptor that fails its check: counters with ERR, DESC, the log, the next descriptor (R132). An engine in no partition has
no counters (spec/12 R442). -/
def State.dripFail (s : State) (e : Nat) (d : RingDesc) : State :=
  have s : State := s.setTaken e ((s.takenOf e).filter (fun x => decide (x.uid ≠ d.uid)))
  have s : State :=
    if (s.enginePart e).isSome ∧ s.facetOfDomain (s.enginePart e) (dCfacet d) then
      have s : State := if dKind d = 1 ∧ bits (dw d 6) 43 32 ≠ 0 then s.engineInc e d (bits (dw d 6) 55 50) true else s
      s.engineInc e d (dCctr d) true
    else s
  (s.dripErr e 0 d.slot).bump 0x8013 3

/-- A descriptor ends: it leaves the ring's list, and CCTR increments (R136). -/
def State.dripEnd (s : State) (e : Nat) (d : RingDesc) (err : Bool) : State :=
  have s : State := s.setTaken e ((s.takenOf e).filter (fun x => decide (x.uid ≠ d.uid)))
  have s : State := (((s.freeRanges d.torn).dropXfer (.drip e d.uid)).unwatch (some d.uid)).arrivedAll d.uid (dCctr d)
  have s : State := s.setPast e (s.pastOf e ++ [d])
  (s.engineInc e d (dCctr d) err).showBusy e

end Sys2Proof.Machine
end

