-- ==== Sys2Proof/Machine/TampFmt.lean ====
section
/-! DEFINITION. The Tamp segment format and its expansion (spec/08 R195 to R200), for every Bloom unit. -/

namespace Sys2Proof.Machine

/-! ### Code tables (R197) -/

/-- The code lengths of a 128-byte table, by symbol. -/
def tableLens (t : List Byte) : List Nat := t.flatMap (fun b => [b.toNat % 16, b.toNat / 16])

/-- Whether a table is valid: a complete prefix code, or one symbol of length 1. -/
def tableOk (t : List Byte) : Bool :=
  let ls := (tableLens t).filter (fun l => l != 0)
  ls.all (fun l => decide (l ≤ 12)) && (decide ((ls.map (fun l => 2 ^ (12 - l))).foldl (· + ·) 0 = 4096) || ls == [1])

/-- A canonical code: how many symbols have each length from 1 to 12, and the symbols by length and value. -/
structure Canon where
  counts : List Nat
  syms : List Nat
deriving DecidableEq, Repr

def canonOf (t : List Byte) : Canon :=
  let ls := (tableLens t).zipIdx
  let by' := fun (n : Nat) => (ls.filter (fun x => x.1 == n)).map Prod.snd
  ⟨(List.range 12).map (fun n => (by' (n + 1)).length), (List.range 12).flatMap (fun n => by' (n + 1))⟩

/-! ### Bit streams (R198) -/

/-- What decoding a body came to. -/
inductive Dec (α : Type) where
  | ok (v : α) (pos : Nat)
  | overrun
  | code
deriving DecidableEq, Repr

/-- Bit `i` of a body, taken from the least significant end of each byte. -/
def bodyBit (b : List Byte) (i : Nat) : Option Nat := (b[i / 8]?).map (fun x => x.toNat / 2 ^ (i % 8) % 2)

/-- Read a canonical code, most significant bit first; a bit that no longer code continues is invalid at once, as the bit 1 of a
code of one symbol. -/
def readSym (syms : List Nat) (body : List Byte) : List Nat → Nat → Nat → Nat → Nat → Dec Nat
  | [], _, _, _, _ => .code
  | n :: t, pos, code, first, idx =>
    match bodyBit body pos with
    | none => .overrun
    | some x =>
      let c := code + x
      if c < first + n then (match syms[idx + (c - first)]? with
        | some v => .ok v (pos + 1)
        | none => .code)
      else if t.all (fun k => k == 0) then .code
      else readSym syms body t (pos + 1) (2 * c) (2 * (first + n)) (idx + n)

def Canon.read (k : Canon) (body : List Byte) (pos : Nat) : Dec Nat := readSym k.syms body k.counts pos 0 0 0

/-- Read a raw field of `n` bits, least significant bit first. -/
def readRaw (body : List Byte) : Nat → Nat → Option Nat
  | 0, _ => some 0
  | n + 1, pos =>
    match bodyBit body pos, readRaw body n (pos + 1) with
    | some b, some r => some (b + 2 * r)
    | _, _ => none

/-- Decode `n` bytes of a BYTE block from output byte `q` (R199). -/
def decodeBytes (a b : Canon) (pc ps : Nat) (body : List Byte) : Nat → Nat → Nat → List Byte → Dec (List Byte)
  | 0, _, pos, acc => .ok acc.reverse pos
  | n + 1, q, pos, acc =>
    match (if q % (pc + ps) ≥ pc then b else a).read body pos with
    | .ok v p => decodeBytes a b pc ps body n (q + 1) p (BitVec.ofNat 8 v :: acc)
    | .overrun => .overrun
    | .code => .code

/-- Decode `n` elements of a BF16X block (R199). -/
def decodeBf (a : Canon) (body : List Byte) : Nat → Nat → List Byte → Dec (List Byte)
  | 0, pos, acc => .ok acc.reverse pos
  | n + 1, pos, acc =>
    match a.read body pos with
    | .ok e p =>
      match readRaw body 8 p with
      | some r =>
        decodeBf a body n (p + 8) (BitVec.ofNat 8 (r / 128 * 128 + e / 2) :: BitVec.ofNat 8 (r % 128 + e % 2 * 128) :: acc)
      | none => .overrun
    | .overrun => .overrun
    | .code => .code

/-! ### Segments (R195, R196, R200) -/

/-- Uncorrectable read: reason MEDIA (R200). -/
def tampMedia : Nat := 0xA

/-- What a use requires: OUTLEN, P_C, P_S and KIND when it fixes them, the space for the segment, the space for the
output, whether external tables are allowed. -/
structure TampUse where
  shape : Option (Nat × Nat × Nat × Nat)
  outlen : Option Nat
  maxBody : Nat
  maxOut : Nat
  ext : Bool
deriving DecidableEq, Repr

/-- The result: reason code (0 good), expanded bytes, OUTLEN. -/
structure TampRes where
  reason : Nat
  out : List Byte
  outlen : Nat
deriving DecidableEq, Repr

/-- Header field `[hi:lo]` of word `k`. -/
def hdrFld (h : List Byte) (k hi lo : Nat) : Nat := bits (leNat ((h.drop (8 * k)).take 8)) hi lo

def tampKind (h : List Byte) : Nat := hdrFld h 0 23 20
def tampTloc (h : List Byte) : Nat := hdrFld h 0 24 24
def tampTblb (h : List Byte) : Nat := hdrFld h 0 25 25
def tampOutlen (h : List Byte) : Nat := hdrFld h 0 63 32
def tampPc (h : List Byte) : Nat := hdrFld h 1 31 0
def tampPs (h : List Byte) : Nat := hdrFld h 1 63 32
def tampNblk (h : List Byte) : Nat := hdrFld h 2 31 0
def tampBodylen (h : List Byte) : Nat := hdrFld h 2 63 32
def tampBack (h : List Byte) : Nat := hdrFld h 3 31 0
def tampOutcrc (h : List Byte) : Nat := hdrFld h 4 31 0
def tampHcrc (h : List Byte) : Nat := hdrFld h 7 63 32

/-- Bytes of the code tables. -/
def tampTables (h : List Byte) : Nat := 128 + 128 * tampTblb h

/-- Whether the header meets R196 but for MAGIC and VER. -/
def headerOk (h : List Byte) : Bool :=
  (tampKind h == 1 || tampKind h == 2) && hdrFld h 0 31 26 == 0 && hdrFld h 3 63 32 == 0 && hdrFld h 4 63 32 == 0 &&
  hdrFld h 5 63 0 == 0 && hdrFld h 6 63 0 == 0 && hdrFld h 7 31 0 == 0 && tampOutlen h != 0 && tampPc h != 0 &&
  tampNblk h == (tampOutlen h + 4095) / 4096 && (tampTblb h == 1) == decide (tampPs h > 0) &&
  (tampKind h != 2 || (tampPs h == 0 && tampPc h % 2 == 0)) && (tampTloc h == 1) == (tampBack h != 0) &&
  tampBack h % 64 == 0

/-- Whether the use refuses the header (reason LAYOUT). -/
def layoutBad (u : TampUse) (h : List Byte) : Bool :=
  (match u.shape with
   | some (o, pc, ps, k) => tampOutlen h != o || tampPc h != pc || tampPs h != ps || tampKind h != k
   | none => false) ||
  (match u.outlen with
   | some o => tampOutlen h != o
   | none => false) ||
  decide (tampBodylen h > u.maxBody) || decide (tampOutlen h > u.maxOut)

/-- The block index: for each block whether it is stored, its offset, and its end. -/
def blockIndex (h idx : List Byte) : List (Bool × Nat × Nat) :=
  let n := tampNblk h
  let e := fun (j : Nat) => leNat ((idx.drop (4 * j)).take 4)
  (List.range n).map (fun j =>
    (bit (e j) 31, bits (e j) 30 0, if j + 1 < n then bits (e (j + 1)) 30 0 else tampBodylen h))

/-- Output bytes of block `j`. -/
def blockLen (h : List Byte) (j : Nat) : Nat := min 4096 (tampOutlen h - 4096 * j)

/-- The bodies of an index (R198): a STORED body has exactly its block's length, and that of the last block ends at BODYLEN (DEDUCED,
unsafe; log entry 107). -/
def indexOk (h : List Byte) (idxEnd : Nat) (bs : List (Bool × Nat × Nat)) : Bool :=
  (bs.zipIdx).all (fun x =>
    x.1.2.1 % 4 == 0 && decide (idxEnd ≤ x.1.2.1) && decide (x.1.2.1 < x.1.2.2) && decide (x.1.2.2 ≤ tampBodylen h) &&
    (!x.1.1 || (if x.2 + 1 = bs.length then x.1.2.1 + blockLen h x.2 == x.1.2.2 else decide (x.1.2.1 + blockLen h x.2 ≤ x.1.2.2))))

/-- Decode every block of a segment whose bytes are `seg`. -/
def decodeBlocks (h seg : List Byte) (a b : Canon) (bs : List (Bool × Nat × Nat)) : List (Dec (List Byte)) :=
  (bs.zipIdx).map (fun x =>
    let n := blockLen h x.2
    let body := (seg.drop x.1.2.1).take (x.1.2.2 - x.1.2.1)
    if x.1.1 then .ok (body.take n) 0
    else if tampKind h = 1 then decodeBytes a b (tampPc h) (tampPs h) body n (4096 * x.2) 0 []
    else match decodeBf a body ((n + 1) / 2) 0 [] with
      | .ok l p => .ok (l.take n) p
      | r => r)

/-- Bytes of a segment that are read: to the end of its body, and of an index that runs past it, when the header gives one. -/
def tampLen (h : List Byte) : Nat :=
  max (max 64 (tampBodylen h)) (if headerOk h then 64 + (if tampTloc h = 1 then 0 else tampTables h) + 4 * tampNblk h else 0)

/-- Expand the segment at `base`: `rd` reads bytes (`none` on an uncorrectable error), `place` says whether a range lies
where the use allows (R200: the first reason that applies). -/
def tampExpand (rd : Nat → Nat → Option (List Byte)) (place : Nat → Nat → Bool) (base : Nat) (u : TampUse) : TampRes :=
  if !place base 64 then ⟨0xB, [], 0⟩ else
  match rd base 64 with
  | none => ⟨tampMedia, [], 0⟩
  | some h =>
    let nt := tampTables h
    let ext := tampTloc h == 1
    let tab := if ext then base - tampBack h else base + 64
    let fail := fun (r : Nat) => (⟨r, [], tampOutlen h⟩ : TampRes)
    if !place base (tampBodylen h) ∨ (ext ∧ (!u.ext ∨ tampBack h > base ∨ !place tab nt)) then fail 0xB else
    match rd base (tampLen h), rd tab nt with
    | some seg, some tb =>
      if hdrFld h 0 15 0 ≠ 0x7A3C ∨ hdrFld h 0 19 16 ≠ 1 then fail 0x1
      else if !headerOk h then fail 0x2
      else if layoutBad u h then fail 0x8
      else
        let i0 := if ext then 64 else 64 + nt
        let idx := (seg.drop i0).take (4 * tampNblk h)
        if crc32c (h.take 60 ++ tb ++ idx) ≠ tampHcrc h then fail 0x3
        else if !tableOk (tb.take 128) ∨ (tampTblb h = 1 ∧ !tableOk (tb.drop 128)) then fail 0x4
        else
          let bs := blockIndex h idx
          if !indexOk h (i0 + 4 * tampNblk h) bs then fail 0x5
          else
            let ds := decodeBlocks h seg (canonOf (tb.take 128)) (canonOf (tb.drop 128)) bs
            if ds.any (fun d => d == .overrun) then fail 0x6
            else if ds.any (fun d => d == .code) then fail 0x7
            else
              let out := ds.flatMap (fun d => match d with
                | .ok l _ => l
                | _ => [])
              if crc32c out ≠ tampOutcrc h then fail 0x9 else ⟨0, out, tampOutlen h⟩
    | _, _ => fail tampMedia

end Sys2Proof.Machine
end

