-- ==== Sys2Proof/Machine/DripFmt.lean ====
section
/-! DEFINITION. Drip descriptors: their fields, the checks of spec/05 R132 and spec/06 R160, the memory they reach. -/

namespace Sys2Proof.Machine

/-! ### WPOUR fields (R131) -/

def wFmt (d : RingDesc) : Nat := bits (dw d 0) 58 55
def wAfmt (d : RingDesc) : Nat := bits (dw d 0) 54 53
def wPw (d : RingDesc) : Nat := bits (dw d 0) 52 50 + 1
def wTamp (d : RingDesc) : Bool := bit (dw d 0) 49
def wOfmt (d : RingDesc) : Nat := bits (dw d 0) 48 48
def wRnd (d : RingDesc) : Nat := bits (dw d 0) 47 46
def wPromo (d : RingDesc) : Nat := bits (dw d 0) 45 37
def wOutn (d : RingDesc) : Nat := bits (dw d 0) 36 33
def wRank (d : RingDesc) : Nat := bits (dw d 0) 32 26
def wSideK (d : RingDesc) : Nat := wOutn d + wRank d
def wNb (d : RingDesc) : Nat := bits (dw d 1) 63 48 + 1
def wG (d : RingDesc) : Nat := bits (dw d 1) 47 36 + 1
def wAsram (d : RingDesc) : Nat := bits (dw d 1) 35 21 * 64
def wSsram (d : RingDesc) : Nat := bits (dw d 1) 20 6 * 64
def wCode (d : RingDesc) : Nat := dw d 2
def wScale (d : RingDesc) : Nat := dw d 3
def wSide (d : RingDesc) : Nat := dw d 4
def wDst (d : RingDesc) : Nat := dw d 5
def wRctr (d : RingDesc) : Nat := bits (dw d 6) 55 50
def wRchunk (d : RingDesc) : Nat := bits (dw d 6) 43 32
def wXsram (d : RingDesc) : Nat := bits (dw d 6) 31 17 * 64
def wNlast (d : RingDesc) : Nat := bits (dw d 6) 16 9
def wVstride (d : RingDesc) : Nat := bits (dw d 7) 63 32

/-- Formats a WPOUR accepts, rows per block, code bytes per row and group, scale bytes per row and group (R122). -/
def wFmtOk (f : Nat) : Bool := decide (f ≤ 3) || (decide (7 ≤ f) && decide (f ≤ 11))
def wRb (f : Nat) : Nat := if f = 0 then 20 else if f ≤ 3 then 40 else if f ≤ 8 then 80 else 160
def wC (f : Nat) : Nat := if f = 0 then 128 else if f ≤ 3 then 64 else if f ≤ 8 then 32 else if f ≤ 10 then 16 else 8
def wS (f : Nat) : Nat := wRb f * wC f
def wSr (f : Nat) : Nat := if f ≤ 3 then 0 else if f = 7 then 2 else 1

/-- Rows a WPOUR writes, and bytes of an output (R136). -/
def wRows (d : RingDesc) : Nat := (wNb d - 1) * wRb (wFmt d) + wNlast d + 1
def wOut (d : RingDesc) : Nat := if wOfmt d = 0 then 4 else 2

/-- The activation set, side activations and outlier list in the SRAM (R127). -/
def wActBytes (d : RingDesc) : Nat := wG d * wPw d * 64 * (if wFmt d = 0 then 2 else 1)
def wSramReads (d : RingDesc) : List (Nat × Nat) :=
  (wAsram d, wActBytes d) :: (if wSideK d > 0 then [(wSsram d, wPw d * 128)] else []) ++
    (if wOutn d > 0 then [(wXsram d, 32)] else [])

/-- The promotion interval in effect (R133): DRP_CFG.PROMO as it stands at each row block (DESIGN CHOICE, unsafe; log entry 95). -/
def State.wP (s : State) (e : Nat) (d : RingDesc) : Nat := if wPromo d = 0 then s.gf R.drpCfg_PROMO e else wPromo d

/-- The outlier list (R127). -/
def State.wOutliers (s : State) (e : Nat) (d : RingDesc) : List Nat :=
  (List.range 8).map (fun i => leNat (s.readSram e (wXsram d + 4 * i) 4))

def outliersOk (l : List Nat) (n k : Nat) : Bool :=
  (l.zipIdx).all (fun x => if x.2 < n then decide (x.1 < k) && (decide (x.2 + 1 ≥ n) || decide (x.1 < l.getD (x.2 + 1) 0)) else x.1 == 0)

/-- Whether an address range of this package lies in a Drip engine's quadrant (R118, R126). -/
def State.inQuadrant (s : State) (e fga n : Nat) : Bool :=
  s.own fga && decide (fgaOff fga + n ≤ s.carafeSize) && decide (fgaOff fga / 2 ^ 34 = e) &&
    decide ((fgaOff fga + n - 1) / 2 ^ 34 = e)

/-- Whether an address of a plane names Carafe memory of this package (R126). -/
def State.inCarafe (s : State) (fga : Nat) : Bool := s.own fga && decide (fgaOff fga < s.carafeSize)

/-- The planes a WPOUR reads: address and bytes. SCALE and SIDE are not looked at where no byte of them is read (DESIGN CHOICE,
unsafe; log entry 95). -/
def wPlanes (d : RingDesc) : List (Nat × Nat) :=
  let f := wFmt d
  (if wTamp d then [(wScale d, 8 * wNb d)]
   else (wCode d, wNb d * wG d * wS f) :: (if wSr f = 0 then [] else [(wScale d, wNb d * wG d * wRb f * wSr f)])) ++
  (if wSideK d > 0 then [(wSide d, wNb d * wRb f * 128)] else [])

/-! ### ALOAD and ASTORE fields -/

def tSram (d : RingDesc) : Nat := bits (dw d 0) 58 44 * 64
def tLen (d : RingDesc) : Nat := bits (dw d 1) 63 40
def tRows (d : RingDesc) : Nat := bits (dw d 1) 39 24 + 1
def tFga (d : RingDesc) (r : Nat) : Nat := (dw d 2 + r * bits (dw d 3) 63 32) % 2 ^ 64
def tSramRow (d : RingDesc) (r : Nat) : Nat := tSram d + r * bits (dw d 3) 31 0

/-! ### ARC fields -/

def cFn (d : RingDesc) : Nat := bits (dw d 0) 58 53
def cMode (d : RingDesc) : Nat := bits (dw d 0) 52 51
def cSrc (d : RingDesc) : Nat := bits (dw d 0) 50 41
def cSrc2 (d : RingDesc) : Nat := bits (dw d 0) 40 31
def cDst (d : RingDesc) : Nat := bits (dw d 0) 30 21
def cCount (d : RingDesc) : Nat := bits (dw d 0) 20 13 + 1
def cRow (d : RingDesc) : Bool := decide (cFn d ≥ 0x10)

/-! ### Attention pour fields (spec/06 R156 to R158) -/

def aNh (d : RingDesc) : Nat := bits (dw d 0) 58 52 + 1
def aDl (d : RingDesc) : Nat := 64 * (bits (dw d 0) 51 48 + 1)
def aRg (d : RingDesc) : Nat := bits (dw d 0) 47 46
def aDr (d : RingDesc) : Nat := 64 * aRg d
def aEsz (d : RingDesc) : Nat := bits (dw d 0) 45 43
def aEsize (d : RingDesc) : Nat := 128 * (aEsz d + 1)
def aCfmt (d : RingDesc) : Nat := bits (dw d 0) 42 42
def aSeg (d : RingDesc) : Nat := bits (dw d 0) 41 39
def aW (d : RingDesc) : Nat := 32 * 2 ^ aSeg d
def aR (d : RingDesc) : Nat := 512 / aW d
def aHg (d : RingDesc) : Nat := (aNh d + aR d - 1) / aR d
def aT0 (d : RingDesc) : Nat := bits (dw d 1) 63 46
def aNt (d : RingDesc) : Nat := bits (dw d 1) 45 28 + 1
def aTiles (d : RingDesc) : Nat := (aNt d + aW d - 1) / aW d
def aQsram (d : RingDesc) : Nat := bits (dw d 1) 27 13 * 64
def aCache (d : RingDesc) : Nat := dw d 2
def aLen (d : RingDesc) : Nat := bits (dw d 3) 63 45
def aWin (d : RingDesc) : Nat := bits (dw d 3) 44 26
/-- SSRAM of a score pour, OSRAM of a value pour. -/
def aOut (d : RingDesc) : Nat := bits (dw d 3) 25 11 * 64
def aSoft (d : RingDesc) : Bool := bit (dw d 0) 38
def aInit (d : RingDesc) : Bool := bit (dw d 0) 37
def aFinal (d : RingDesc) : Bool := bit (dw d 0) 36
def aStsram (d : RingDesc) : Nat := bits (dw d 4) 63 49 * 64
/-- Bytes an entry uses (R143). -/
def aUsed (d : RingDesc) : Nat := if aCfmt d = 0 then aDl d + 2 * aDr d + aDl d / 64 else 2 * aDl d + 2 * aDr d

/-- Whether a position is masked (R156). -/
def aMasked (d : RingDesc) (t : Nat) : Bool := decide (t ≥ aLen d) || (aWin d != 0 && decide (t + aWin d < aLen d))

/-- The unmasked positions of the range. -/
def aLive (d : RingDesc) : List Nat := ((List.range (aNt d)).map (fun i => aT0 d + i)).filter (fun t => !aMasked d t)

/-- Score blocks of the pour. -/
def aBlocks (d : RingDesc) : Nat × Nat := ((if dKind d = 5 then aOut d else aQsram d), aTiles d * aHg d * 2048)

/-- Slot, layer window and window offset of a cache address. -/
def aSlot (d : RingDesc) : Nat := (fgaOff (aCache d) - kvBase) / 0x1000000000
def aLayer (d : RingDesc) : Nat := (fgaOff (aCache d) - kvBase) / 0x10000000 % 256

/-- The pages that hold an unmasked position, as physical ranges; `none` where one is unmapped. -/
def State.aPages (s : State) (d : RingDesc) : List (Option KvPage) :=
  (((aLive d).flatMap (fun t => [t * aEsize d, t * aEsize d + aEsize d - 1])).map kvPageOf).eraseDups.map
    (fun n => s.kvPages.find? (fun g => decide (g.slot = aSlot d) && decide (g.layer = aLayer d) && decide (g.n = n)))

/-! ### SRAM ranges a descriptor reads and writes -/

def sramReads (d : RingDesc) : List (Nat × Nat) :=
  match dKind d with
  | 1 => wSramReads d
  | 3 => (List.range (tRows d)).map (fun r => (tSramRow d r, tLen d))
  | 4 => (cSrc d * 2048, cCount d * 2048) :: (if cRow d then [(cSrc2 d * 2048, 2048)] else [])
  | 5 => [(aQsram d, aNh d * 2 * (aDl d + aDr d))]
  | 6 => [aBlocks d, (aOut d, aNh d * 4 * aDl d)] ++ (if aSoft d then [(aStsram d, aHg d * 2048)] else [])
  | _ => []

def sramWrites (d : RingDesc) : List (Nat × Nat) :=
  match dKind d with
  | 2 => (List.range (tRows d)).map (fun r => (tSramRow d r, tLen d))
  | 4 => (cDst d * 2048, cCount d * 2048) :: (if cRow d then [(cSrc2 d * 2048, 2048)] else [])
  | 5 => [aBlocks d]
  | 6 => [(aOut d, aNh d * 4 * aDl d)] ++ (if aSoft d then [aBlocks d, (aStsram d, aHg d * 2048)] else [])
  | _ => []

/-! ### Accesses at FGAs, for the check and for holds -/

/-- The ranges at FGAs that the descriptor's transfer reaches: address, bytes, write, place in the transfer. -/
def dripRanges (d : RingDesc) : List (Nat × Nat × Bool × Nat) :=
  match dKind d with
  | 1 => (List.range (wPw d)).map (fun v => ((wDst d + v * wVstride d) % 2 ^ 64, wRows d * wOut d, true, v * wRows d * wOut d))
  | 2 => (List.range (tRows d)).map (fun r => (tFga d r, tLen d, false, r * tLen d))
  | 3 => (List.range (tRows d)).map (fun r => (tFga d r, tLen d, true, r * tLen d))
  | _ => []

/-! ### Checks (R132, R160) -/

/-- Bits that a kind leaves reserved, by word. -/
def dripReserved (d : RingDesc) : Bool :=
  let w := dw d
  let tail := bits (w 6) 55 50 != 0 || bits (w 6) 43 0 != 0 || bits (w 7) 63 16 != 0
  match dKind d with
  | 0 => bits (w 0) 58 0 != 0 || w 1 != 0 || w 2 != 0 || w 3 != 0 || w 4 != 0 || w 5 != 0 || tail
  | 1 => bits (w 0) 25 0 != 0 || bits (w 1) 5 0 != 0 || bits (w 6) 8 0 != 0 || bits (w 7) 31 16 != 0
  | 2 => bits (w 0) 43 0 != 0 || bits (w 1) 23 0 != 0 || w 4 != 0 || w 5 != 0 || tail
  | 3 => bits (w 0) 43 0 != 0 || bits (w 1) 23 0 != 0 || w 4 != 0 || w 5 != 0 || tail
  | 4 => bits (w 0) 12 0 != 0 || w 1 != 0 || w 2 != 0 || w 3 != 0 || w 4 != 0 || w 5 != 0 || tail
  | 5 => bits (w 0) 38 0 != 0 || bits (w 1) 12 0 != 0 || bits (w 3) 10 0 != 0 || w 4 != 0 || w 5 != 0 || tail
  | 6 => bits (w 0) 35 0 != 0 || bits (w 1) 12 0 != 0 || bits (w 3) 10 0 != 0 || bits (w 4) 48 0 != 0 || w 5 != 0 || tail
  | _ => true

/-- Illegal field values of a WPOUR, and planes that break R126. SCALE of a format without scales and SIDE of a pour without a side
plane name nothing that is read: they are not checked (DESIGN CHOICE, unsafe; log entry 95). -/
def State.wIllegal (s : State) (e : Nat) (d : RingDesc) : Bool :=
  !wFmtOk (wFmt d) || (wAfmt d == 3) != (wFmt d == 0) || (wPromo d != 0 && (decide (wPromo d < 16) || decide (wPromo d > 256))) ||
  decide (wOutn d > 8) || decide (wRank d > 64) || decide (wSideK d > 64) || wVstride d % 128 != 0 ||
  decide (wNlast d ≥ wRb (wFmt d)) || decide (s.wP e d > promoLimit (wFmt d)) ||
  (decide (wOutn d > 0) && !outliersOk (s.wOutliers e d) (wOutn d) (64 * wG d)) ||
  (wTamp d && (wCode d % 128 != 0 || !s.inCarafe (wCode d))) ||
  -- a segment table outside the quadrant is corrupt at use, by R202
  (wPlanes d).any (fun x => x.1 % 128 != 0 || !s.inCarafe x.1 || !(s.inQuadrant e x.1 x.2 || (wTamp d && x.1 == wScale d)) ||
    !s.allowed (s.enginePart e) (fgaOff x.1) x.2 false)

/-- Two ranges overlap. -/
def overlap (a b : Nat × Nat) : Bool := decide (a.1 < b.1 + b.2) && decide (b.1 < a.1 + a.2)

/-- The conditions an attention pour breaks (R160). -/
def State.aIllegalPour (s : State) (e : Nat) (d : RingDesc) : Bool :=
  let off := fgaOff (aCache d)
  aRg d == 3 || decide (aSeg d > 4) || aLen d == 0 || decide (aLen d > 262144) || decide (aWin d > 262144) ||
  decide (aUsed d > aEsize d) || decide (aT0 d + aNt d > 262144) ||
  !s.own (aCache d) || decide (off < kvBase) || decide (off ≥ 0x1400000000000) || (off - kvBase) % 0x10000000 != 0 ||
  decide ((s.ticket (aSlot d)).state = 0) || some (s.ticket (aSlot d)).part != s.enginePart e ||
  (match s.enginePart e with
   | some p => s.gf R.kvLayout_EN (p * 256 + aLayer d) != 1 || s.gf R.kvLayout_ESZ (p * 256 + aLayer d) != aEsz d
   | none => true) ||
  (s.aPages d).any (fun g => match g with
    | some g => g.addr / 2 ^ 34 != e
    | none => true) ||
  (dKind d == 6 && ((aSoft d && aT0 d % aW d != 0) || (aFinal d && !aSoft d))) ||
  (dKind d == 5 && overlap (aBlocks d) (aQsram d, aNh d * 2 * (aDl d + aDr d))) ||
  (dKind d == 6 && (overlap (aOut d, aNh d * 4 * aDl d) (aBlocks d) ||
    (aSoft d && (overlap (aOut d, aNh d * 4 * aDl d) (aStsram d, aHg d * 2048) || overlap (aBlocks d) (aStsram d, aHg d * 2048)))))

/-- The check of a descriptor: whether it fails, with the tables whose walk was uncorrectable. An engine in no partition has no
access map: every descriptor fails there (spec/12 R442). -/
def State.dripCheck (s : State) (e : Nat) (d : RingDesc) : Bool × List (Nat × Nat × Nat) :=
  let dom := s.enginePart e
  let sram := (sramReads d ++ sramWrites d).any (fun x => decide (x.1 + x.2 > 2097152))
  if dom.isNone || dripReserved d || !s.facetOfDomain dom (dCfacet d) || sram then (true, []) else
  let bad := match dKind d with
    | 0 => false
    | 1 => s.wIllegal e d
    | 2 => tLen d % 64 != 0 || tLen d == 0 || decide (tLen d > 2097152) || bits (dw d 3) 31 0 % 64 != 0
    | 3 => tLen d % 64 != 0 || tLen d == 0 || decide (tLen d > 2097152) || bits (dw d 3) 31 0 % 64 != 0
    | 4 => !([0x00, 0x01, 0x04, 0x05, 0x10, 0x11, 0x12].contains (cFn d)) || decide (cMode d > 1) ||
      (cRow d && decide (cDst d ≤ cSrc2 d) && decide (cSrc2 d < cDst d + cCount d))
    | 5 => s.aIllegalPour e d
    | 6 => s.aIllegalPour e d
    | _ => true
  if bad then (true, []) else
  let r := firstBad ((dripRanges d).map (fun x => s.rowStatus dom x.1 x.2.1 x.2.2.1 0))
  (r.1 != 0, r.2)

end Sys2Proof.Machine
end

