-- ==== Sys2Proof/Machine/Drip.lean ====
section
/-! DEFINITION. The Drip engines at work: weight pours, transfers, Arc blocks, attention pours, and the engine's commands
(spec/05 R127 to R142; spec/06 R143, R144, R156 to R160; spec/08 R201, R202). A descriptor's work is done block by block
when its returns and its completion are counted; a weight pour that writes to another package does its blocks as soon as
it starts each run, since the run's return waits for their acknowledgement (DEDUCED, unsafe; log entry 31). -/

namespace Sys2Proof.Machine

/-! ### Reading and writing the activation SRAM (R120, R135, R441) -/

/-- Log the corrected errors of an SRAM read. -/
def State.sramEc (s : State) (e b n : Nat) : State :=
  (hits size8 s.ecSram (e * 2097152 + b) n).foldl (fun (t : State) u => t.report (source 1 e) 0x40 0 none u) s

/-- Read `n` bytes of an engine's SRAM: corrected errors are logged, an uncorrectable one sets SRAM_UC and supplies free
bytes for its units. -/
def State.sramTake (s : State) (e b n : Nat) : State × List Byte × Bool :=
  let a := e * 2097152 + b
  have s : State := s.sramEc e b n
  let bad := hits size8 s.ucSram a n
  let bs := s.readSram e b n
  if bad.isEmpty then (s, bs, false) else
  let r := (s.dripErr e 2 b).fresh
  (r.2, (bs.zipIdx).map (fun x => if bad.any (fun u => decide (u ≤ a + x.2) && decide (a + x.2 < u + 8))
    then BitVec.ofNat 8 (Config.freeVal r.1 x.2) else x.1), true)

/-- Write an engine's SRAM: whether a partial write met an uncorrectable unit. -/
def State.sramPut (s : State) (e b : Nat) (bs : List Byte) : State × Bool :=
  let r := s.writeSram e b bs
  (r.2.foldl (fun (t : State) u => t.report (source 1 e) 3 1 (s.enginePart e) u) r.1, !r.2.isEmpty)

/-- Leave SRAM ranges undefined (R131). -/
def State.freeSram (s : State) (e : Nat) (l : List (Nat × Nat)) : State :=
  l.foldl (fun (t : State) x =>
    let r := t.fresh
    { r.2 with sram := Sparse.blit r.2.sramD r.2.sram (e * 2097152 + x.1) (freeBytes r.1 x.2) }) s

/-- Read a row of memory for descriptor `uid` of an engine: an uncorrectable unit supplies free bytes, and sets ECC_UC (R135); so does
a result that nothing orders before the read (spec/01 R15). A read that is refused when its bytes move supplies free bytes (spec/07
R177, R178). -/
def State.dripTake (s : State) (e uid fga n : Nat) : State × List Byte × Bool :=
  let dom := s.enginePart e
  if s.cacheUc dom (fgaOff fga) n then
    let r := (s.fatalVertex 3).fresh
    (r.2, freeBytes r.1 n, true)
  else match s.rowRes dom fga n false with
  | .pieces ps =>
    let bad := s.ucPieces ps
    have s : State := s.noteRead dom fga n ps
    if bad.isEmpty then
      let x := s.unsettled ps (s.ringOrd e uid) (s.readPieces ps)
      (x.1, x.2, false) else
    have s : State := bad.foldl (fun (t : State) u => (t.dripErr e 1 (t.fga u)).reportUc u dom) s
    let r := s.fresh
    let addrs := ps.flatMap (fun x => (List.range x.2).map (fun i => x.1 + i))
    (r.2, ((r.2.readPieces ps).zip addrs.zipIdx).map (fun x =>
      if bad.any (fun u => decide (u ≤ x.2.1) && decide (x.2.1 < u + unitSize u)) then BitVec.ofNat 8 (Config.freeVal r.1 x.2.2)
      else x.1), true)
  | x =>
    let r := (s.refuseRow dom fga x).fresh
    (r.2, freeBytes r.1 n, true)

/-- Write a row of memory for an engine: whether a unit of it failed (R441). -/
def State.dripPut (s : State) (e fga : Nat) (bs : List Byte) : State × Bool :=
  let r := s.writeRow (s.enginePart e) fga bs
  (r.1, !r.2.isEmpty)

/-! ### A weight pour (R123 to R128, R133 to R138) -/

/-- The activations of vector `v`, the outlier positions taken as zero (R81, R127). -/
def State.wActs (s : State) (e : Nat) (d : RingDesc) (v : Nat) : List FVal :=
  let out := (s.wOutliers e d).take (wOutn d)
  let sz := if wFmt d = 0 then 2 else 1
  (List.range (64 * wG d)).map (fun k =>
    if out.contains k then FVal.fin false 0 0
    else actVal (wAfmt d) (leNat (s.readSram e (wAsram d + ((k / 64 * wPw d + v) * 64 + k % 64) * sz) sz)))

/-- Where a row block's codes and scales lie: the bytes, the first stripe, its step by group, the first scale, its step. -/
structure WPlane where
  m : List Host.Cell
  cb : Nat
  cs : Nat
  sb : Nat
  ss : Nat
deriving DecidableEq, Repr

/-- Code `k` of row `j` of a block (R123). -/
def wCodeAt (f : Nat) (q : WPlane) (j k : Nat) : Nat := elemAt q.m (q.cb + k / 64 * q.cs + j * wC f) (weightBits f) (k % 64)

/-- The scale codes of row `j`, by group of 32 for MXFP4 and of 64 for the others (R124). -/
def wScales (d : RingDesc) (q : WPlane) (j : Nat) : List Nat :=
  let f := wFmt d
  if wSr f = 0 then [127] else
  (List.range (wG d * wSr f)).map (fun i =>
    (Sparse.get zeroByte q.m (q.sb + i / wSr f * q.ss + j * wSr f + i % wSr f)).toNat)

/-- The operands of output row `j` of block `b` for one vector. -/
def State.wColumn (s : State) (e : Nat) (d : RingDesc) (q : WPlane) (b j v : Nat) (eRow : Int) (acts : List FVal) : Column :=
  let f := wFmt d
  let out := (s.wOutliers e d).take (wOutn d)
  let pos := (acts.zipIdx).map (fun ak =>
    let masked := out.contains ak.2
    let c := if masked then 0 else wCodeAt f q j ak.2
    (⟨ak.1, aIntOf (wAfmt d) eRow ak.1, if masked then .fin false 0 0 else weightVal f c, if masked then 0 else wInt f c,
      if wSr f = 0 then 0 else if f = 7 then ak.2 / 32 else ak.2 / 64⟩ : Pos))
  let side := (List.range (wSideK d)).map (fun i =>
    (decodeBF16 (leNat (s.readSram e (wSsram d + v * 128 + 2 * i) 2)),
     decodeBF16 (leNat (s.readMem (fgaOff (wSide d) + (b * wRb f + j) * 128 + 2 * i) 2))))
  ⟨pos, side, wScales d q j⟩

/-- The plane of row block `b`, or why it cannot be used: its uncorrectable units, or a corrupt segment. -/
inductive WSource where
  | ok (q : WPlane)
  | uc (l : List Nat)
  | bloom
deriving DecidableEq, Repr

/-- Read a range of the quadrant; nothing where it meets an uncorrectable unit. -/
def State.rdQ (s : State) (off n : Nat) : Option (List Byte) := if (s.ucAt off n).isEmpty then some (s.readMem off n) else none

/-- The segment-table entry of row block `b`, and the address of its segment (R137). -/
def wEntryAt (d : RingDesc) (b : Nat) : Nat := fgaOff (wScale d) + 8 * b
def State.wEntry (s : State) (d : RingDesc) (b : Nat) : Nat := leNat (s.readMem (wEntryAt d b) 8)
def State.wSegAt (s : State) (d : RingDesc) (b : Nat) : Nat := fgaOff (wCode d) + bits (s.wEntry d b) 47 0

/-- The bytes that the Bloom unit reads for row block `b`: the segment, and an external table. -/
def State.wSegBytes (s : State) (d : RingDesc) (b : Nat) : List (Nat × Nat) × List (Nat × Nat) :=
  let base := s.wSegAt d b
  let h := s.readMem base 64
  ([(base, tampLen h)], if tampTloc h = 1 then [(base - tampBack h, tampTables h)] else [])

/-- The side-plane bytes of row block `b`. -/
def wSideBytes (d : RingDesc) (b : Nat) : List (Nat × Nat) :=
  if wSideK d > 0 then [(fgaOff (wSide d) + b * wRb (wFmt d) * 128, wRb (wFmt d) * 128)] else []

/-- The units of an external table that an earlier row block has read (R202). -/
def State.wTablesSeen (s : State) (d : RingDesc) (b : Nat) : List (Nat × Nat) :=
  if wTamp d then (List.range b).flatMap (fun k => (s.wSegBytes d k).2) else []

/-- The plane bytes that row block `b` reads: codes and scales, or the table entry, the segment and its table; then the side
plane. -/
def State.wBlockBytes (s : State) (d : RingDesc) (b : Nat) : List (Nat × Nat) :=
  let f := wFmt d
  let sb := wRb f * wSr f
  (if wTamp d then (wEntryAt d b, 8) :: (s.wSegBytes d b).1 ++ (s.wSegBytes d b).2
   else (fgaOff (wCode d) + b * wG d * wS f, wG d * wS f) :: (if sb = 0 then [] else [(fgaOff (wScale d) + b * wG d * sb, wG d * sb)])) ++
  wSideBytes d b

/-- Count and log the corrected errors that row block `b` meets (R120); an external table is read once for the pour (R202). -/
def State.wReportEc (s : State) (d : RingDesc) (b : Nat) : State :=
  if s.ecMem.isEmpty then s else
  let seen := s.wTablesSeen d b
  ((s.wBlockBytes d b).filter (fun x => !seen.contains x)).foldl (fun (t : State) x => t.reportEc x.1 x.2) s

/-- The codes and scales of row block `b`, the side plane apart (R123, R124, R137, R138, R201, R202). A reserved bit of a table entry makes its segment
corrupt (DESIGN CHOICE, unsafe; log entry 95). -/
def State.wSource (s : State) (e : Nat) (d : RingDesc) (b : Nat) : WSource :=
  let f := wFmt d
  let sb := wRb f * wSr f
  let ucOf := fun (l : List (Nat × Nat)) => (l.flatMap (fun x => s.ucAt x.1 x.2)).eraseDups
  if !wTamp d then
    match ucOf ((s.wBlockBytes d b).filter (fun x => !(wSideBytes d b).contains x)) with
    | [] => .ok ⟨s.mem, fgaOff (wCode d) + b * wG d * wS f, wS f, fgaOff (wScale d) + b * wG d * sb, sb⟩
    | l => .uc l
  else
    let len := wG d * (wS f + sb)
    let place := fun (o n : Nat) => decide (o + n ≤ s.carafeSize) && decide (o / 2 ^ 34 = e) &&
      decide ((o + n - 1) / 2 ^ 34 = e) && s.allowed (s.enginePart e) o n false
    let u : TampUse := ⟨some (len, wS f, sb, if f = 0 then 2 else 1), some len, 2 ^ 34, len, true⟩
    let r := tampExpand s.rdQ place (s.wSegAt d b) u
    let bytes := s.wSegBytes d b
    if !place (wEntryAt d b) 8 then .bloom
    else if !(s.ucAt (wEntryAt d b) 8).isEmpty then .uc (s.ucAt (wEntryAt d b) 8)
    else if r.reason = 0xA then .uc (ucOf (bytes.1 ++ bytes.2))
    else if bits (s.wEntry d b) 63 48 ≠ 0 ∨ r.reason ≠ 0 then .bloom
    else .ok ⟨Sparse.blit zeroByte [] 0 r.out, 0, wS f + sb, wS f, wS f + sb⟩

/-- Rows of block `b` that are written (R136). -/
def wBlockRows (d : RingDesc) (b : Nat) : Nat := if b + 1 = wNb d then wNlast d + 1 else wRb (wFmt d)

/-- The outputs of vector `v` in block `b` as encodings, the flags they raised, and whether a special was met. -/
def State.wVector (s : State) (e : Nat) (d : RingDesc) (q : WPlane) (b v : Nat) : List Nat × CvtFlags × Bool :=
  let acts := s.wActs e d v
  let er := eRowOf acts
  (List.range (wBlockRows d b)).foldl (fun acc j =>
    let c := cellNormal (wFmt d) (wAfmt d) (s.wP e d) er 0 (s.wColumn e d q b j v er acts)
    let o := cvtOut (wOfmt d) (rndOf (wRnd d)) (decodeW48 c.1)
    (acc.1 ++ [o.1], acc.2.1.or o.2, acc.2.2 || c.2)) ([], {}, false)

/-- Whether an SRAM operand of a weight pour holds an uncorrectable error. -/
def State.wSramUc (s : State) (e : Nat) (d : RingDesc) : Bool :=
  (wSramReads d).any (fun x => !(hits size8 s.ucSram (e * 2097152 + x.1) x.2).isEmpty)

/-- Write the outputs of block `b`, or send them as fabric stores. -/
def State.wWrite (s : State) (e : Nat) (d : RingDesc) (b : Nat) (outs : List (List Nat)) : State × Bool :=
  (outs.zipIdx).foldl (fun (acc : State × Bool) x =>
    let fga := (wDst d + x.2 * wVstride d + b * wRb (wFmt d) * wOut d) % 2 ^ 64
    let bs := x.1.flatMap (natLE (wOut d))
    if acc.1.own fga then
      let r := acc.1.dripPut e fga bs
      (r.1, acc.2 || r.2)
    else
      let pos := x.2 * wRows d * wOut d + b * wRb (wFmt d) * wOut d
      (acc.1.launch (acc.1.enginePart e) (.drip e d.uid) 2 [⟨fga, bs.length, pos, 0⟩] (Sparse.blit zeroByte [] pos bs), acc.2)) (s, false)

/-- Outputs of block `b` that are undefined. -/
def wFreeOuts (k : Nat) (d : RingDesc) (b : Nat) : List (List Nat) :=
  (List.range (wPw d)).map (fun v => (List.range (wBlockRows d b)).map (fun j =>
    Config.freeVal k (v * wRb (wFmt d) + j) % 2 ^ (8 * wOut d)))

/-- Write undefined outputs of block `b`. A free output that is a NaN sets NAN_OUT, as every NaN that a WPOUR writes does (R134);
the other DRP_ASTAT flags tell of values that are not known, and are not set (DESIGN CHOICE, unsafe; log entry 106). -/
def State.wFree (s : State) (e : Nat) (d : RingDesc) (b : Nat) : State × Bool :=
  let k := s.fresh
  let outs := wFreeOuts k.1 d b
  let nan := outs.any (fun v => v.any (fun x => if wOut d = 4 then (ofF (BitVec.ofNat 32 x)).isNan else (decodeBF16 x).isNan))
  (if nan then k.2.setBit .drpAstat e 1 else k.2).wWrite e d b outs

/-- A descriptor has met an uncorrectable SRAM read (R135). -/
def State.setLate (s : State) (e : Nat) (d : RingDesc) (on : Bool) : State :=
  if on then s.modDesc e d.uid (fun x => { x with late := true }) else s

/-- An uncorrectable unit of a plane, at the FGA that names it. -/
def State.wReportUc (s : State) (e : Nat) (l : List Nat) : State :=
  l.foldl (fun (t : State) u => (t.dripErr e 1 (t.fga u)).reportUc u (t.enginePart e)) s

/-- Row block `b` of a weight pour: its state, and whether its counters carry ERR (R133 to R138). Every error that the block meets is
reported; an external table's once for the pour (R202). A write to its planes since the pour started, or a result of another operation
there that nothing orders before the pour (spec/01 R15), leaves its outputs undefined, or shows as a corrupt segment (R140, R206). -/
def State.wBlock (s : State) (e : Nat) (d : RingDesc) (b : Nat) : State × Bool :=
  let nan := (cvtOut (wOfmt d) .nearest .nan).1
  let nans := List.replicate (wPw d) (List.replicate (wBlockRows d b) nan)
  have s : State := if s.ecSram.isEmpty then s else (wSramReads d).foldl (fun (t : State) x => t.sramEc e x.1 x.2) s
  have s : State := s.wReportEc d b
  let sramUc := s.wSramUc e d
  let bytes := s.wBlockBytes d b
  let written := !(s.hitsOf (some d.uid) b).isEmpty ||
    s.unwaited.any (fun u => !s.ringOrd e d.uid u && bytes.any (fun x => overlaps u.lo u.len x.1 x.2))
  let src := s.wSource e d b
  let side := ((wSideBytes d b).flatMap (fun x => s.ucAt x.1 x.2)).eraseDups
  let seen := s.wTablesSeen d b
  let k := s.fresh
  have s : State := if sramUc then (s.dripErr e 2 b).setLate e d true else s
  have s : State := s.wReportUc e side
  let sub := match src with
    | .uc l =>
      ((s.wReportUc e (l.filter (fun u => !seen.any (fun x => overlaps u (unitSize u) x.1 x.2)))), true)
    | _ =>
      if src = WSource.bloom ∨ (wTamp d ∧ written ∧ Config.freeVal k.1 0 % 2 = 1) then
        (((if written then s.fresh.2 else s).dripErr e 3 b).bump 0x8013 4, true)
      else (s, false)
  if sub.2 || !side.isEmpty || sramUc || d.late then
    ((State.wWrite (sub.1.setBit .drpAstat e 1) e d b nans).1, true)
  else match src with
    | .ok q =>
      if written then s.fresh.2.wFree e d b else
      let vs := (List.range (wPw d)).map (fun v => s.wVector e d q b v)
      have s : State := if vs.any (fun v => v.2.2) then s.setBit .drpAstat e 0 else s
      have s : State := vs.foldl (fun (t : State) v => t.astat .drpAstat e v.2.1) s
      s.wWrite e d b (vs.map (fun v => v.1))
    | _ => (s, true)

/-! ### Transfers -/

/-- Unit `i` of an ALOAD or ASTORE is one 64-byte piece: its row, and the byte within the row. -/
def tUnit (d : RingDesc) (i : Nat) : Nat × Nat := (i / (tLen d / 64), i % (tLen d / 64) * 64)

/-- 64 bytes of an ALOAD: from memory, or from what the loads returned; bytes of a failed load are undefined. -/
def State.aloadUnit (s : State) (e : Nat) (d : RingDesc) (i : Nat) : State × Bool :=
  let u := tUnit d i
  let pos := u.1 * tLen d + u.2
  let x := s.xferOf (.drip e d.uid)
  let failed := ((x.map (fun x => x.failed)).getD []).filter (fun g => decide (g.pos < pos + 64) && decide (pos < g.pos + g.len))
  let fga := tFga d u.1 + u.2
  let q :=
    if s.own fga then s.dripTake e d.uid fga 64 else
    let got := Sparse.gets zeroByte ((x.map (fun x => x.buf)).getD []) pos 64
    if failed.isEmpty then (s, got, false) else
    let k := s.fresh
    (k.2, (got.zipIdx).map (fun b =>
      if failed.any (fun g => decide (g.pos ≤ pos + b.2) && decide (pos + b.2 < g.pos + g.len)) then BitVec.ofNat 8 (Config.freeVal k.1 b.2)
      else b.1), true)
  let w := q.1.sramPut e (tSramRow d u.1 + u.2) q.2.1
  (w.1, q.2.2 || w.2)

/-- 64 bytes of an ASTORE to this package; those for another went out as stores. -/
def State.astoreUnit (s : State) (e : Nat) (d : RingDesc) (i : Nat) : State × Bool :=
  let u := tUnit d i
  let fga := tFga d u.1 + u.2
  if !s.own fga then (s, false) else
  let q := s.sramTake e (tSramRow d u.1 + u.2) 64
  let w := q.1.dripPut e fga q.2.1
  (w.1, q.2.2 || w.2)

/-! ### Arc blocks (R139) -/

/-- A 2 KiB block as 512 lanes: the state, the lanes, whether a unit was uncorrectable. -/
def State.blockTake (s : State) (e b : Nat) : State × List Word × Bool :=
  let r := s.sramTake e b 2048
  (r.1, (elemsOf 4 512 r.2.1).map (BitVec.ofNat 32), r.2.2)

def State.blockPut (s : State) (e b : Nat) (ws : List Word) : State × Bool :=
  s.sramPut e b (ws.flatMap (fun w => natLE 4 w.toNat))

/-- A DRP_ARCST flag, with its report (as State.arcFlag). -/
def State.drpFlag (s : State) (e k detail : Nat) : State :=
  (s.setBit .drpArcst e k).report (source 1 e) (0x20 + k) 1 (s.enginePart e) detail

/-- Block `i` of an ARC descriptor. After an uncorrectable SRAM read every output is NaN (R135). -/
def State.arcUnit (s : State) (e : Nat) (d : RingDesc) (i : Nat) : State × Bool :=
  let nans := List.replicate 512 fpNan
  let x0 := s.blockTake e ((cSrc d + i) * 2048)
  let p := x0.1.arcPath (256 + e) (cMode d) (if cFn d < 0x10 then dexWords (256 + e) (cFn d) (cMode d) x0.2.1 else none)
  let x := (p.1, x0.2)
  let late := d.late || x.2.2
  let dst := (cDst d + i) * 2048
  if cFn d < 0x10 then
    let ys := if late then nans else x.2.1.map (arcEval p.2 (cFn d))
    let special := (List.zipWith (fun a b => isSpecialW a || isSpecialW b) x.2.1 ys).any id
    let w := ((if special then x.1.drpFlag e 1 0 else x.1).setLate e d late).blockPut e dst ys
    (w.1, late || w.2)
  else
    let t := x.1.blockTake e (cSrc2 d * 2048)
    let st := t.2.1
    let late := late || t.2.2
    let bad := ctlBad (cFn d) (cMode d) (lane st 511).toNat
    let o : ArcRes := if bad then ⟨some nans, st, 0, none⟩ else arcRow p.2 (cFn d) (cMode d) (if late then nans else x.2.1) st
    have s : State := if bad then t.1.drpFlag e 5 (cSrc2 d)
      else (metBits o.met).foldl (fun (y : State) k => y.drpFlag e k 0) t.1
    have s : State := if late && !bad && arcPuts (cFn d) (lane st 511).toNat then s.drpFlag e 2 0 else s
    let w1 := match o.dst with
      | some v => (s.setLate e d late).blockPut e dst (if late then nans else v)
      | none => (s.setLate e d late, false)
    let w2 := if bad || !arcPuts (cFn d) (lane st 511).toNat then w1 else
      let w := w1.1.blockPut e (cSrc2 d * 2048) (if late then lateState (cFn d) (cMode d) (lane st 511).toNat o.st else o.st)
      (w.1, w1.2 || w.2)
    (w2.1, late || w2.2)

/-! ### Attention pours (spec/06 R143, R144, R156 to R159) -/

/-- The latent elements of an entry (R144). -/
def latentOf (d : RingDesc) (bs : List Byte) : List FVal :=
  if aCfmt d = 1 then (elemsOf 2 (aDl d) bs).map decodeBF16
  else
    let sc := bs.drop (aDl d + 2 * aDr d)
    ((bs.take (aDl d)).zipIdx).map (fun x =>
      let c := (sc.getD (x.2 / 64) 0).toNat
      if c = 0xFF then FVal.nan else scaleBy (decodeE4M3 x.1.toNat) ((c : Int) - 127))

/-- The rotary elements of an entry. -/
def rotaryOf (d : RingDesc) (bs : List Byte) : List FVal :=
  (elemsOf 2 (aDr d) (bs.drop (if aCfmt d = 1 then 2 * aDl d else aDl d))).map decodeBF16

/-- An exact sum of products rounded once to FP32, and whether a special condition was met (R86, R156). -/
def dotF (xs : List (FVal × FVal)) : Word × Bool :=
  match (specials xs [] []).result with
  | some .nan => (fpNan, true)
  | some .posInf => (fpInf false, true)
  | some .negInf => (fpInf true, true)
  | _ => (toF (dyVal (Dy.sum (xs.map (fun x => (mulV x.1 x.2).dy))) false), false)

/-- The entries of unmasked positions of tile `j`: position and bytes (R156, R158); an entry that has been written since the pour
started is undefined in its results (R160). -/
def State.aEntries (s : State) (e : Nat) (d : RingDesc) (ts : List Nat) : State × List (Nat × List Byte) × Bool :=
  let written := s.hitParts (some d.uid)
  ts.foldl (fun (acc : State × List (Nat × List Byte) × Bool) t =>
    let r := acc.1.dripTake e d.uid (aCache d + t * aEsize d) (aUsed d)
    let k := r.1.fresh
    if written.contains t then (k.2, acc.2.1 ++ [(t, freeBytes k.1 (aUsed d))], acc.2.2 || r.2.2)
    else (r.1, acc.2.1 ++ [(t, r.2.1)], acc.2.2 || r.2.2)) (s, [], false)

/-- Positions of tile `j`, and those unmasked. -/
def aTile (d : RingDesc) (j : Nat) : List Nat :=
  (List.range (min (aW d) (aNt d - j * aW d))).map (fun i => aT0 d + j * aW d + i)

def aTileLive (d : RingDesc) (j : Nat) : List Nat := (aTile d j).filter (fun t => !aMasked d t)

/-- Query `h`. -/
def qElems (d : RingDesc) (bs : List Byte) : List FVal := (elemsOf 2 (aDl d + aDr d) bs).map decodeBF16

/-- Tile `j` of a score pour (R156, R157); after an uncorrectable SRAM read every lane is NaN (R135). -/
def State.scoreUnit (s : State) (e : Nat) (d : RingDesc) (j : Nat) : State × Bool :=
  let en := s.aEntries e d (aTileLive d j)
  let qs := (List.range (aNh d)).foldl (fun (acc : State × List (List FVal) × Bool) h =>
    let r := acc.1.sramTake e (aQsram d + h * 2 * (aDl d + aDr d)) (2 * (aDl d + aDr d))
    (r.1, acc.2.1 ++ [qElems d r.2.1], acc.2.2 || r.2.2)) (en.1, [], false)
  let late := d.late || qs.2.2
  let dec := en.2.1.map (fun x => (x.1, latentOf d x.2 ++ rotaryOf d x.2))
  let score := fun (h t : Nat) =>
    if late then (fpNan, false) else if h ≥ aNh d then (maskv, false) else
    match dec.find? (fun x => decide (x.1 = t)) with
    | none => (maskv, false)
    | some x => dotF ((qs.2.1.getD h []).zip x.2)
  let blk := fun (g : Nat) => (List.range 512).map (fun l =>
    score (g * aR d + l / aW d) (if l % aW d < (aTile d j).length then aT0 d + j * aW d + l % aW d else 2 ^ 40))
  let r := (List.range (aHg d)).foldl (fun (acc : State × Bool) g =>
    let ls := blk g
    have t : State := if ls.any (fun x => x.2) then acc.1.setBit .drpAstat e 0 else acc.1
    let w := t.blockPut e (aOut d + (j * aHg d + g) * 2048) (ls.map (fun x => x.1))
    (w.1, acc.2 || w.2)) (qs.1.setLate e d late, false)
  (r.1, late || en.2.2 || r.2)

/-- One head's part of a tile of a value pour: p and the state row written, then o (R158); the LSE and the flags are written with
FINAL alone (DEDUCED, unsafe; log entry 96). `late` says that an SRAM read was uncorrectable: every output from there on is NaN
(R135). The result tells it on, and whether counters carry ERR. -/
def State.valueHead (s : State) (e : Nat) (d : RingDesc) (j h : Nat) (path : ArcPath) (dec : List (Nat × List FVal)) (late0 : Bool) :
    State × Bool × Bool :=
  let g := h / aR d
  let r := h % aR d
  let first := aInit d && j == 0
  let pb := aQsram d + (j * aHg d + g) * 2048 + r * aW d * 4
  let xs0 := s.sramTake e pb (4 * aW d)
  let stb := aStsram d + g * 2048
  -- SOFT = 1: the online soft maximum on the tile's scores (R106)
  let st := if aSoft d ∧ !first then xs0.1.sramTake e (stb + 4 * r) (4 * 80 - 4 * r) else (xs0.1, [], false)
  let late1 := late0 || xs0.2.2 || st.2.2
  let xs := (elemsOf 4 (aW d) xs0.2.1).map (BitVec.ofNat 32)
  let xs := if late1 then xs.map (fun _ => fpNan) else xs
  let live := (dec.filter (fun x => !aSoft d || liveW (xs.getD (x.1 - aT0 d - j * aW d) 0)))
  let stLane := fun (k : Nat) => if first then (if k = 0 then fpInf true else 0) else BitVec.ofNat 32 (leNat ((st.2.1.drop (64 * k)).take 4))
  let sm := smStep path (aW d) (stLane 0) (stLane 1) ((stLane 4).toNat % 16) xs
  let f := sm.f ||| boundsFlag path
  let put := fun (acc : State × Bool) (b : Nat) (ws : List Word) =>
    let w := acc.1.blockPut e b ws
    (w.1, acc.2 || w.2)
  let w1 : State × Bool := if aSoft d then
      let a := put (st.1, false) pb sm.p
      let a := put a (stb + 4 * r) [sm.m]
      let a := put a (stb + 4 * (16 + r)) [sm.l]
      let a := put a (stb + 4 * (32 + r)) [sm.c]
      let a := put a (stb + 4 * (64 + r)) [BitVec.ofNat 32 f]
      ((metBits f).foldl (fun (y : State) k => y.drpFlag e k 0) a.1, a.2)
    else (st.1, false)
  let ps := if aSoft d then sm.p else xs
  let ob := aOut d + h * 4 * aDl d
  let old := if first then (w1.1, [], false) else w1.1.sramTake e ob (4 * aDl d)
  let oldW := (elemsOf 4 (aDl d) old.2.1).map (BitVec.ofNat 32)
  let late := late1 || old.2.2
  let col := (List.range (aDl d)).map (fun k =>
    dotF (live.map (fun x => (ofF (ps.getD (x.1 - aT0 d - j * aW d) 0), x.2.getD k .nan))))
  let o := (col.zipIdx).map (fun v =>
    if late then fpNan else if first then v.1.1
    else if aSoft d then faddW (fmulW (oldW.getD v.2 0) sm.c) v.1.1 else faddW (oldW.getD v.2 0) v.1.1)
  have s : State := if col.any (fun v => v.2) then old.1.setBit .drpAstat e 0 else old.1
  -- FINAL after the last tile (R107, OUT = 0)
  if aFinal d ∧ j + 1 = aTiles d then
    let r2 := finalRow path 0 sm.m sm.l sm.c f o
    let a := put (s, w1.2) ob (if late then o else r2.1)
    let a := put a (stb + 4 * (48 + r)) [if late then fpNan else r2.2.1]
    let a := put a (stb + 4 * (64 + r)) [BitVec.ofNat 32 (r2.2.2 ||| boundsFlag path)]
    ((metBits r2.2.2).foldl (fun (y : State) k => y.drpFlag e k 0) a.1, late, a.2 || late)
  else
    let a := put (s, w1.2) ob o
    (a.1, late, a.2 || late)

/-- Tile `j` of a value pour. -/
def State.valueUnit (s : State) (e : Nat) (d : RingDesc) (j : Nat) : State × Bool :=
  let p := if aSoft d then s.arcPath (256 + e) 0 none else (s, ArcPath.native)
  -- entries masked for every head are not read
  let lv := (aTileLive d j).filter (fun t => !aSoft d || (List.range (aNh d)).any (fun h =>
    liveW (BitVec.ofNat 32 (leNat (s.readSram e (aQsram d + (j * aHg d + h / aR d) * 2048 + ((h % aR d) * aW d + (t - aT0 d - j * aW d)) * 4) 4)))))
  let en := p.1.aEntries e d lv
  let dec := en.2.1.map (fun x => (x.1, latentOf d x.2))
  let r := (List.range (aNh d)).foldl (fun (acc : State × Bool × Bool) h =>
    let q := acc.1.valueHead e d j h p.2 dec acc.2.1
    (q.1, q.2.1, acc.2.2 || q.2.2)) (en.1, d.late, false)
  (r.1.setLate e d r.2.1, en.2.2 || r.2.2)

/-! ### Units of a descriptor -/

/-- Row blocks, 64-byte rows, blocks or tiles (R142). -/
def dUnits (d : RingDesc) : Nat :=
  match dKind d with
  | 1 => wNb d
  | 2 => tRows d * (tLen d / 64)
  | 3 => tRows d * (tLen d / 64)
  | 4 => cCount d
  | 5 => aTiles d
  | 6 => aTiles d
  | _ => 0

def State.dripUnit (s : State) (e : Nat) (d : RingDesc) (i : Nat) : State × Bool :=
  match dKind d with
  | 1 => s.wBlock e d i
  | 2 => s.aloadUnit e d i
  | 3 => s.astoreUnit e d i
  | 4 => s.arcUnit e d i
  | 5 => s.scoreUnit e d i
  | 6 => s.valueUnit e d i
  | _ => (s, false)

def State.descOf (s : State) (r uid : Nat) : Option RingDesc := (s.takenOf r).find? (fun d => decide (d.uid = uid))

/-- Do the next `n` units of a descriptor. SRAM bytes that it shares with one that nothing orders with it are undefined
throughout (R131). -/
def dripAdvance (e uid : Nat) : Nat → State → State
  | 0, s => s
  | n + 1, s =>
    match s.descOf e uid with
    | none => s
    | some d =>
      if d.done ≥ dUnits d then s else
      let r := (s.freeSram e d.clash).dripUnit e d d.done
      dripAdvance e uid n (r.1.modDesc e uid (fun x => { x with done := x.done + 1, run := x.run + 1, err := x.err || r.2 }))

/-! ### Results that become undefined (R131, R140; spec/06 R160) -/

/-- The parts of ranges that lie in a vector's SRAM operands of a weight pour. -/
def wReadsOf (d : RingDesc) (v : Nat) : List (Nat × Nat) :=
  let n := 64 * (if wFmt d = 0 then 2 else 1)
  (List.range (wG d)).map (fun g => (wAsram d + (g * wPw d + v) * n, n)) ++
    (if wSideK d > 0 then [(wSsram d + v * 128, 128)] else []) ++ (if wOutn d > 0 then [(wXsram d, 32)] else [])

/-- What a descriptor has computed from some SRAM bytes: SRAM ranges, and ranges of memory on this package. -/
def State.computedFrom (s : State) (d : RingDesc) (l : List (Nat × Nat)) : List (Nat × Nat) × List (Nat × Nat) :=
  match dKind d with
  | 1 => ([], ((List.range (wPw d)).filter (fun v => !(shared (wReadsOf d v) l).isEmpty)).filterMap (fun v =>
      let a := (wDst d + v * wVstride d) % 2 ^ 64
      let n := min (d.done * wRb (wFmt d)) (wRows d) * wOut d
      if s.own a ∧ n ≠ 0 then some (a, n) else none))
  | 3 => ([], (List.range (min (tRows d) (d.done * 64 / max 1 (tLen d) + 1))).flatMap (fun r =>
      (shared [(tSramRow d r, min (tLen d) (d.done * 64 - r * tLen d))] l).filterMap (fun x =>
        if s.own (tFga d r) then some (tFga d r + (x.1 - tSramRow d r), x.2) else none)))
  | 4 =>
    if cRow d then ((cDst d * 2048, d.done * 2048) :: [(cSrc2 d * 2048, 2048)], [])
    else ((shared [(cSrc d * 2048, d.done * 2048)] l).map (fun x => (x.1 / 4 * 4 + cDst d * 2048 - cSrc d * 2048, (x.1 % 4 + x.2 + 3) / 4 * 4)), [])
  | 5 => ([(aOut d, d.done * aHg d * 2048)], [])
  | 6 => ((aOut d, aNh d * 4 * aDl d) :: (if aSoft d then [(aQsram d, d.done * aHg d * 2048), (aStsram d, aHg d * 2048)] else []), [])
  | _ => ([], [])

/-- Leave what a descriptor has computed from some SRAM bytes undefined. -/
def State.freeComputed (s : State) (e : Nat) (d : RingDesc) (l : List (Nat × Nat)) : State :=
  if l.isEmpty then s else
  let c := s.computedFrom d l
  c.2.foldl (fun (t : State) x =>
    let k := t.fresh
    (k.2.dripPut e x.1 (freeBytes k.1 x.2)).1) (s.freeSram e c.1)

/-- What a descriptor has computed, up to here, from memory that has been written since it started: the outputs of a weight
pour's row blocks, the scores of a position, the outputs of a value pour. -/
def State.freeWritten (s : State) (e : Nat) (d : RingDesc) : State :=
  let parts := s.hitParts (some d.uid)
  if parts.isEmpty then s else
  match dKind d with
  | 1 => ((parts.filter (fun b => decide (b < d.done))).foldl (fun (t : State) b =>
      if !(dripRanges d).all (fun x => t.own x.1) then t else (t.wFree e d b).1) s)
  | 5 => s.freeSram e ((parts.filter (fun t => decide ((t - aT0 d) / aW d < d.done))).flatMap (fun t =>
      let j := (t - aT0 d) / aW d
      (List.range (aNh d)).map (fun h => (aOut d + (j * aHg d + h / aR d) * 2048 + ((h % aR d) * aW d + (t - aT0 d - j * aW d)) * 4, 4))))
  | 6 => if parts.any (fun t => decide ((t - aT0 d) / aW d < d.done)) then s.freeSram e [(aOut d, aNh d * 4 * aDl d)] else s
  | _ => s

/-- The memory that a descriptor's units read, by row block or position. -/
def State.dripWatch (s : State) (e : Nat) (d : RingDesc) : State :=
  match dKind d with
  | 1 => (List.range (wNb d)).foldl (fun (t : State) b => t.watch (some d.uid) b (t.wBlockBytes d b)) s
  | k => if k = 5 ∨ k = 6 then
      (aLive d).foldl (fun (t : State) i => t.watch (some d.uid) i (t.physOf (t.enginePart e) (aCache d + i * aEsize d) (aUsed d))) s
    else s

/-- The runs of row blocks that RCTR tells of, and the memory on this package that each of them writes (R136; spec/01 R15). -/
def State.dripExpect (s : State) (e : Nat) (d : RingDesc) : State :=
  let dom := s.enginePart e
  let on := fun (a n : Nat) => if s.own a ∧ n ≠ 0 then s.physOf dom a n else []
  match dKind d with
  | 1 =>
    let c := if wRchunk d = 0 then wNb d else wRchunk d
    (List.range ((wNb d + c - 1) / c)).foldl (fun (t : State) k =>
      let lo := k * c * wRb (wFmt d)
      let hi := min (wRows d) ((k + 1) * c * wRb (wFmt d))
      t.expect (dCfacet d) (257 + e) d.uid k ((List.range (wPw d)).flatMap (fun v => on ((wDst d + v * wVstride d + lo * wOut d) % 2 ^ 64) ((hi - lo) * wOut d)))) s
  | 3 => s.expect (dCfacet d) (257 + e) d.uid 0 ((List.range (tRows d)).flatMap (fun r => on (tFga d r) (tLen d)))
  | _ => s

/-- Whether a weight pour has outputs on another package. -/
def State.wFar (s : State) (d : RingDesc) : Bool := dKind d == 1 && (dripRanges d).any (fun x => !s.own x.1)

/-- Blocks of the next run of a weight pour: RCHUNK, or all of them. -/
def wRun (d : RingDesc) : Nat := if wRchunk d = 0 then wNb d else wRchunk d

/-- Issue what a running descriptor moves to or from another package (R135, R136). -/
def State.dripLaunch (s : State) (e : Nat) (d : RingDesc) : State :=
  let who := Issuer.drip e d.uid
  let far := ((dripRanges d).filter (fun x => !s.own x.1)).map (fun x => (⟨x.1, x.2.1, x.2.2.2, 0⟩ : Seg))
  if far.isEmpty then s
  else match dKind d with
    | 1 => dripAdvance e d.uid (wRun d) s
    | 2 => s.launch (s.enginePart e) who 1 far []
    | 3 =>
      let rows := (List.range (tRows d)).filter (fun r => !s.own (tFga d r))
      let r := rows.foldl (fun (acc : State × List Host.Cell × Bool) r =>
        let q := acc.1.sramTake e (tSramRow d r) (tLen d)
        (q.1, Sparse.blit zeroByte acc.2.1 (r * tLen d) q.2.1, acc.2.2 || q.2.2)) (s, [], false)
      (r.1.modDesc e d.uid (fun x => { x with err := x.err || r.2.2 })).launch (s.enginePart e) who 2 far r.2.1
    | _ => s

/-- Pages that hold a running descriptor's accesses (R178). -/
def State.dripHeld (s : State) (e : Nat) (d : RingDesc) : List (Nat × Bool) :=
  (dripRanges d).flatMap (fun x => (s.heldPages (s.enginePart e) x.1 x.2.1 x.2.2.1).map (fun va => (va, x.2.2.1)))

def State.dripHold (s : State) (e : Nat) (d : RingDesc) : State :=
  match s.enginePart e with
  | none => s
  | some p => (s.dripHeld e d).eraseDups.foldl (fun (t : State) h => t.addHolds p (.drip e d.uid) h.2 [h.1]) s

/-- The next descriptor starts, when it is one that `is` names: its check, its clashes with descriptors that no FENCE orders
before it, running or completed, its holds and its first frames (R131, R132, R135, R178). What one of those has computed from
SRAM bytes that this one writes is undefined, as are the bytes. -/
def State.dripStart (s : State) (e : Nat) (is : RingDesc → Bool) : State :=
  match s.startable e is with
  | none => s
  | some d =>
    have s : State := if dFence d then s.setPast e [] else s
    let c := s.dripCheck e d
    if c.1 then (c.2.foldl (fun (t : State) x => t.markTable x) s).dripFail e d else
    let w := sramWrites d
    let a := sramReads d ++ w
    let meets := fun (x : RingDesc) => shared w (sramReads x ++ sramWrites x) ++ shared a (sramWrites x)
    let others := s.pastOf e ++ (s.takenOf e).filter (fun x => x.running)
    let clash := others.flatMap meets
    have s : State := s.setTaken e ((s.takenOf e).map (fun x =>
      if x.uid = d.uid then { x with running := true, clash := clash }
      else if x.running then { x with clash := x.clash ++ meets x } else x))
    have s : State := others.foldl (fun (t : State) x => t.freeComputed e x (shared w (sramReads x))) s
    have s : State := (((s.freeSram e clash).dripWatch e d).dripExpect e d).showBusy e
    if (s.dripHeld e d).isEmpty then s.dripLaunch e d else s.dripHold e d

/-- NOP completes at once, when it passes its check; a KIND that the table leaves out fails it (R131, R132). -/
def State.dripNop (s : State) (e : Nat) : State :=
  match s.startable e (fun d => decide (dKind d = 0) || decide (dKind d ≥ 7)) with
  | none => s
  | some d =>
    have s : State := if dFence d then s.setPast e [] else s
    if (s.dripCheck e d).1 then s.dripFail e d
    else s.setTaken e ((s.takenOf e).filter (fun x => decide (x.uid ≠ d.uid)))

def execDripNop (e : Nat) (s : State) : Host.Outcome State Fault Refusal := .next (s.dripNop e)
def execWpour (e : Nat) (s : State) : Host.Outcome State Fault Refusal := .next (s.dripStart e (fun d => dKind d == 1))
def execAload (e : Nat) (s : State) : Host.Outcome State Fault Refusal := .next (s.dripStart e (fun d => dKind d == 2))
def execAstore (e : Nat) (s : State) : Host.Outcome State Fault Refusal := .next (s.dripStart e (fun d => dKind d == 3))

/-- An ARC descriptor of function code `fn`. -/
def isArcFn (fn : Nat) (d : RingDesc) : Bool := dKind d == 4 && cFn d == fn

/-- FN 0x00; an FN that an engine does not have fails its check here (DEDUCED, unsafe; log entry 32). -/
def execDripArcExp2 (e : Nat) (s : State) : Host.Outcome State Fault Refusal :=
  .next (s.dripStart e (fun d => dKind d == 4 && (cFn d == 0 || !([0x01, 0x04, 0x05, 0x10, 0x11, 0x12].contains (cFn d)))))
def execDripArcExp (e : Nat) (s : State) : Host.Outcome State Fault Refusal := .next (s.dripStart e (isArcFn 0x01))
def execDripArcRecip (e : Nat) (s : State) : Host.Outcome State Fault Refusal := .next (s.dripStart e (isArcFn 0x04))
def execDripArcRsqrt (e : Nat) (s : State) : Host.Outcome State Fault Refusal := .next (s.dripStart e (isArcFn 0x05))
def execDripArcSoftmaxStep (e : Nat) (s : State) : Host.Outcome State Fault Refusal := .next (s.dripStart e (isArcFn 0x10))
def execDripArcSoftmaxFinal (e : Nat) (s : State) : Host.Outcome State Fault Refusal := .next (s.dripStart e (isArcFn 0x11))
def execDripArcRmsStats (e : Nat) (s : State) : Host.Outcome State Fault Refusal := .next (s.dripStart e (isArcFn 0x12))
def execScorePour (e : Nat) (s : State) : Host.Outcome State Fault Refusal := .next (s.dripStart e (fun d => dKind d == 5))
def execValuePour (e : Nat) (s : State) : Host.Outcome State Fault Refusal := .next (s.dripStart e (fun d => dKind d == 6))

/-! ### Returns and completion (R135, R136) -/

/-- Take up the accesses that have failed since the last time: ERR on what follows, and REMOTE with an entry for each that was
another package's (R135). -/
def State.dripPoison (s : State) (e : Nat) (d : RingDesc) : State :=
  match s.xferOf (.drip e d.uid) with
  | none => s
  | some x =>
    let new := x.failed.drop d.poison
    if x.status = 0 ∨ (new.isEmpty ∧ d.err) then s else
    have s : State := (new.filter (fun g => !s.own g.fga)).foldl (fun (t : State) _ => t.dripErr e 4 d.slot) s
    s.modDesc e d.uid (fun y => { y with err := true, poison := x.failed.length })

/-- RCTR increments for the run of row blocks just completed. -/
def State.wReturn (s : State) (e uid : Nat) : State :=
  match s.descOf e uid with
  | none => s
  | some d =>
    have s : State := (s.freeWritten e d).arrivedRuns uid (wRctr d) (fun k => decide (k * wRchunk d < d.done))
    (s.engineInc e d (wRctr d) d.err).modDesc e uid (fun x => { x with run := 0 })

def State.wpourReturn (s : State) (e : Nat) : State :=
  match (s.takenOf e).find? (fun d => d.running && !d.aborted && dKind d == 1 && decide (wRchunk d ≠ 0)) with
  | none => s
  | some d =>
    if s.engineFrozen e ∨ !s.xferIdle (.drip e d.uid) ∨ (d.run = 0 ∧ d.done ≥ wNb d) then s
    else if s.xferStatus (.drip e d.uid) = 0 ∧ !(s.dripHeld e d).isEmpty then s.dripHold e d
    else
      have s : State := if d.run = 0 then dripAdvance e d.uid (wRun d) s else s
      have s : State := s.dripPoison e d
      have s : State := s.wReturn e d.uid
      if s.wFar d then dripAdvance e d.uid (wRun d) s else s

def execWpourReturn (e : Nat) (s : State) : Host.Outcome State Fault Refusal := .next (s.wpourReturn e)

/-- A descriptor ends: the SRAM bytes it shares with others are undefined, what it computed from memory written meanwhile too;
RCTR increments for a run that ABORT has cut short, then CCTR. -/
def State.dripFinish (s : State) (e uid : Nat) : State :=
  match s.descOf e uid with
  | none => s
  | some d =>
    have s : State := (s.freeSram e d.clash).freeWritten e d
    have s : State := if d.aborted ∧ dKind d = 1 ∧ wRchunk d ≠ 0 ∧ d.run ≠ 0 then
        (s.engineInc e d (wRctr d) true).arrivedRuns uid (wRctr d) (fun k => decide (k * wRchunk d < d.done))
      else s
    s.dripEnd e d (d.err || d.aborted)

/-- The running descriptor of a class completes: the rest of its work is done and CCTR increments; one that ABORT has ended waits
for what it has sent. -/
def State.dripComplete (s : State) (e cls : Nat) : State :=
  match (s.takenOf e).find? (fun d => d.running && (dClasses d).contains cls) with
  | none => s
  | some d =>
    let returns := dKind d = 1 ∧ wRchunk d ≠ 0
    if s.engineFrozen e ∨ !s.xferIdle (.drip e d.uid) then s
    else if d.aborted then (s.dripPoison e d).dripFinish e d.uid
    else if returns ∧ (d.run ≠ 0 ∨ d.done < wNb d) then s
    else if s.xferStatus (.drip e d.uid) = 0 ∧ !(s.dripHeld e d).isEmpty then s.dripHold e d
    else ((dripAdvance e d.uid (dUnits d) s).dripPoison e d).dripFinish e d.uid

def execDripDescriptorComplete (e cls : Nat) (s : State) : Host.Outcome State Fault Refusal := .next (s.dripComplete e cls)

/-! ### Engine commands (R140 to R142) -/

/-- Descriptors taken but not started are returned: DRP_HEAD names the first of them (R142, R276). -/
def State.dripReturn (s : State) (e : Nat) : State :=
  match (s.takenOf e).find? (fun d => !d.running) with
  | none => s
  | some d =>
    ((s.setTaken e ((s.takenOf e).filter (fun x => x.running))).sf R.drpHead_SLOT e d.slot).sf R.drpHead_SEQ e d.seq

/-- The units that an ABORT may still let pass: those whose loads have returned, and none of a pour whose blocks have gone out. -/
def State.abortable (s : State) (e : Nat) (d : RingDesc) : Nat :=
  if !(s.dripHeld e d).isEmpty ∨ s.wFar d then 0
  else if dKind d = 2 then
    let wait := (s.ops.filter (fun o => decide (o.who = .drip e d.uid)))
    let ready := fun (i : Nat) =>
      let pos := (tUnit d i).1 * tLen d + (tUnit d i).2
      !wait.any (fun o => decide (o.pos < pos + 64) && decide (pos < o.pos + o.len))
    ((List.range (dUnits d)).drop d.done).takeWhile ready |>.length
  else dUnits d - d.done

/-- Do up to `n` more units of a descriptor, with the RCTR increment of each run of row blocks that they complete (R136). -/
def abortRuns (e uid : Nat) : Nat → State → State
  | 0, s => s
  | n + 1, s =>
    have s : State := dripAdvance e uid 1 s
    abortRuns e uid n (match s.descOf e uid with
      | none => s
      | some d => if dKind d = 1 ∧ wRchunk d ≠ 0 ∧ d.run = wRchunk d then s.wReturn e uid else s)

/-- A running descriptor ends at its next boundary: a free number of its units have been done (R142). Loads that have not returned,
and stores of an ASTORE that have not been sent, are given up; its increments wait for what it has sent (R136). -/
def State.dripAbort1 (s : State) (e : Nat) (d : RingDesc) : State :=
  if d.aborted then s else
  let who := Issuer.drip e d.uid
  let r := s.fresh
  have s : State := abortRuns e d.uid (Config.freeVal r.1 0 % (s.abortable e d + 1)) r.2
  have s : State := s.modDesc e d.uid (fun x => { x with aborted := true })
  have s : State := { s with
    holds := s.holds.filter (fun h => decide (h.who ≠ who))
    ops := s.ops.filter (fun o => decide (o.who ≠ who) || !(o.op == 1 || (dKind d == 3 && o.port.isNone))) }
  have s : State := (List.range 32).foldl (fun (t : State) n => t.showOutst n) s
  if s.xferIdle who then (s.dripPoison e d).dripFinish e d.uid else s

/-- STOP or ABORT: no further descriptor starts; the engine is stopping until DRP_STOPPED. -/
def State.dripHalt (s : State) (e : Nat) (abort : Bool) : State :=
  have s : State := s.dripReturn e
  have s : State := if abort then (s.takenOf e).foldl (fun (t : State) d => t.dripAbort1 e d) s else s
  if s.gf R.drpStat_STATE e = 0 then s else s.sf R.drpStat_STATE e 3

/-- The common part of a write to DRP_CMD: who may, and LAST and STATUS. -/
def State.drpCmd (s : State) (r : Requester) (e code : Nat) (k : State → State × Nat) : State :=
  s.gate r .drpCmd e fun s =>
    let q := k s
    q.1.cmdDone .drpCmd e code q.2

/-- Whether START's operands pass (R142). An engine in no partition takes no START, with STATUS = 3: the free domain holds no engine
(spec/12 R442), and the rule names no status (DESIGN CHOICE, unsafe; log entry 106). -/
def State.drpRingOk (s : State) (e : Nat) : Bool :=
  (s.enginePart e).isSome &&
  let b := s.ringBase e
  let n := s.gf R.drpRingCfg_SIZE e
  s.own b && decide (fgaOff b % 4096 = 0) && decide (fgaOff b / 2 ^ 36 = e / 4) && decide (fgaOff b + 64 * 2 ^ n ≤ (e / 4 + 1) * 2 ^ 36) &&
    decide (4 ≤ n) && decide (n ≤ 12) && decide (s.gf R.drpHead_SLOT e < 2 ^ n)

def execDrpStart (r : Requester) (e : Nat) (s : State) : Host.Outcome State Fault Refusal :=
  .next (s.drpCmd r e 1 fun s =>
    if s.gf R.drpStat_STATE e ≠ 0 then (s, 2)
    else if !s.drpRingOk e then (s, 3)
    else (s.sf R.drpStat_STATE e 1, 0))

def execDrpStop (r : Requester) (e : Nat) (s : State) : Host.Outcome State Fault Refusal :=
  .next (s.drpCmd r e 2 fun s => (s.dripHalt e false, if s.gf R.drpStat_STATE e = 0 then 0 else 1))

def execDrpAbort (r : Requester) (e : Nat) (s : State) : Host.Outcome State Fault Refusal :=
  .next (s.drpCmd r e 3 fun s => (s.dripHalt e true, if s.gf R.drpStat_STATE e = 0 then 0 else 1))

def execDrpZero (r : Requester) (e : Nat) (s : State) : Host.Outcome State Fault Refusal :=
  .next (s.drpCmd r e 4 fun s =>
    if s.gf R.drpStat_STATE e ≠ 0 then (s, 2)
    else
      (s.clearSram e 0, 0))

/-- The engine is stopped: STATE, and the command's STATUS (R142). -/
def State.drpStopped (s : State) (e : Nat) : State :=
  if s.gf R.drpStat_STATE e ≠ 3 ∨ !(s.takenOf e).isEmpty then s
  else
    -- a START or ZERO rejected meanwhile keeps its STATUS
    have s : State := (s.sf R.drpStat_STATE e 0).setPast e []
    if s.gf R.drpCmd_STATUS e = 1 then s.sf R.drpCmd_STATUS e 0 else s

def execDrpStopped (e : Nat) (s : State) : Host.Outcome State Fault Refusal := .next (s.drpStopped e)

/-- The ring's registers by their offset in the engine's block. -/
def drpRingCard (off : Nat) : Option Card :=
  if off = 0x10 then some .drpRingLo else if off = 0x14 then some .drpRingHi else if off = 0x18 then some .drpRingCfg
  else if off = 0x20 then some .drpHead else none

/-- A write to DRP_RING_LO, DRP_RING_HI, DRP_RING_CFG or DRP_HEAD (`put` merges it): only while the engine is stopped
(R141). -/
def State.drpRingWrite (s : State) (r : Requester) (e : Nat) (c : Card) (put : State → State) : State :=
  s.gate r c e fun s => if s.gf R.drpStat_STATE e ≠ 0 then s.setBit .drpErr e 5 else put s

def execDrpRingWrite (r : Requester) (e off be : Nat) (val : Word) (s : State) : Host.Outcome State Fault Refusal :=
  .next (match drpRingCard off with
    | none => s
    | some c => s.write4 r c e be val (fun c put t => t.drpRingWrite r e c put))

/-- A write to DRP_CFG: a merged PROMO outside 16 to 256 leaves the field and sets DESC. -/
def State.drpCfgWrite (s : State) (r : Requester) (e be : Nat) (val : Word) : State :=
  s.gate r .drpCfg e fun s =>
    let v := mergeWrite (cardInfo .drpCfg).fields (s.rd .drpCfg e) (byteMask be) val
    if fld v 8 0 < 16 ∨ fld v 8 0 > 256 then s.setBit .drpErr e 0 else s.wr .drpCfg e v

def execDrpCfgWrite (r : Requester) (e be : Nat) (val : Word) (s : State) : Host.Outcome State Fault Refusal :=
  .next (s.drpCfgWrite r e be val)

/-! ### Scrubbing (R120) -/

/-- The base die scrubs a quadrant: the corrected errors of `corrected`, local offsets in the quadrant, and every
correctable error the quadrant holds, are counted and logged. -/
def State.carafeScrub (s : State) (stack q : Nat) (corrected : List Nat) : State :=
  let e := 4 * stack + q
  if e ≥ s.engineCount ∨ q ≥ 4 then s else
  let lo := e * 2 ^ 34
  let found := (s.ecMem.filter (fun u => decide (lo ≤ u) && decide (u < lo + 2 ^ 34))) ++
    (corrected.filter (fun u => decide (u < 2 ^ 34))).map (fun u => lo + u)
  have s : State := found.foldl (fun (t : State) u => (t.bump 0x8013 1).report (source 2 stack) 0x01 0 none (t.fga u)) s
  { s with ecMem := s.ecMem.filter (fun u => !(decide (lo ≤ u) && decide (u < lo + 2 ^ 34))) }

def execCarafeScrub (stack quadrant : Nat) (corrected : List Nat) (s : State) : Host.Outcome State Fault Refusal :=
  .next (s.carafeScrub stack quadrant corrected)

end Sys2Proof.Machine
end

