-- ==== Sys2Proof/Machine/PowerCap.lean ====
section
/-! DEFINITION. The effective power cap, the active states, the Facet clock setpoint and the dies' clocks, as the registers
show them (spec/15 R340 to R350, R360, R361). -/

namespace Sys2Proof.Machine

/-! ### Inputs (R340, R342, R350; spec/19 R434) -/

/-- Whether a warning input counts as asserted: bits 0 to 5 VR_ALERT0 to 5, 6 SHELF_WARN, 7 COOL_WARN; an input in a storm
stays asserted. -/
def State.warned (s : State) (i : Nat) : Bool := bit s.pins.raw i || bit s.pins.storm i

/-- The domain that a rail group feeds (R340). -/
def railDomain (n : Nat) : Nat := if n ≤ 1 then 0 else if n = 2 then 1 else if n ≤ 4 then 2 else 3

/-- Whether an alert forces domain `d`. -/
def State.alertOn (s : State) (d : Nat) : Bool := (List.range 6).any (fun n => railDomain n == d && s.warned n)

/-- Domains in their lowest state: an alert, a temperature, or the hold after one (R350, R356). -/
def State.forced (s : State) (d : Nat) : Bool := s.alertOn d || bit s.power.thermal d || bit s.power.holding d

def State.forcedMask (s : State) : Nat := ((List.range 4).map (fun d => if s.forced d then 2 ^ d else 0)).foldl (· + ·) 0

/-! ### The cap (R341, R342) -/

/-- The preset in use. -/
def State.preset (s : State) : Nat := if s.gf R.fltStat_STATE 0 = 2 then 3 else s.dnum 0x2000 2

/-- A domain's share in percent. -/
def share (preset d : Nat) : Nat :=
  ((match preset with
    | 0 => [54, 17, 22, 7]
    | 1 => [44, 27, 22, 7]
    | 2 => [60, 12, 21, 7]
    | _ => [46, 17, 30, 7]).getD d 0)

/-- The sources in force, in R342's order: number and cap. -/
def State.capSources (s : State) : List (Nat × Nat) :=
  (if s.warned 7 then [(0, s.dnum 0x2003 2)] else []) ++
  (if s.warned 6 || s.power.brakeHold then [(1, s.dnum 0x2003 1)] else []) ++
  (if s.power.silent ≠ 0 then [(2, s.dnum 0x2002 3)] else []) ++
  [(3, match s.power.lease with
    | some l => l.1
    | none => s.dnum 0x2002 3)]

/-- The binding source: the least cap, the first listed of equal ones. -/
def State.capNow (s : State) : Nat × Nat :=
  let m := s.capSources.foldl (fun (acc : Nat × Nat) x => if x.2 < acc.2 then x else acc) (3, 100000)
  (m.1, max 1200 (min 2600 m.2))

/-- A domain's cap in watts, rounded down (DEDUCED, unsafe; log entry 62), and the working cap below it that temperature sets (R356). -/
def State.shareCap (s : State) (d : Nat) : Nat := share s.preset d * s.capNow.2 / 100

def State.domCap (s : State) (d : Nat) : Nat :=
  let w := s.power.work.getD d 0
  if w = 0 then s.shareCap d else min w (s.shareCap d)

/-! ### Clocks (R344, R346, R349, R360, R361) -/

/-- Voltage of point `k` of a die in mV; 0: removed. -/
def State.vfPoint (s : State) (die k : Nat) : Nat := leNat (((s.doct 0x9000 4).drop (2 * (57 * die + k))).take 2)

/-- The highest point of a die, in MHz, at or below a limit; 0 when none is left. -/
def State.topPoint (s : State) (die limit : Nat) : Nat :=
  (List.range 57).foldl (fun acc k => if 600 + 25 * k ≤ limit ∧ s.vfPoint die k ≠ 0 then 600 + 25 * k else acc) 0

/-- The two dies' clocks in MHz times the nanoseconds they have run at them (spec/12 R282). -/
def State.clkRun (s : State) : Nat := s.power.clkSum + s.power.clocks.foldl (· + ·) 0 * (s.time - s.power.clkAt)

/-- Set the dies' clocks. -/
def State.setClocks (s : State) (cs : List Nat) : State :=
  if s.power.clocks = cs then s
  else { s with power := { s.power with clkSum := s.clkRun, clkAt := s.time, clocks := cs } }

/-- The setpoint before the limiter: nominal, or the fixed frequency, under the ageing ceiling of both dies. -/
def State.baseClock (s : State) : Nat :=
  let limit := if s.dnum 0x2006 1 = 1 then 1600 else 1800
  min (s.topPoint 0 limit) (s.topPoint 1 limit)

/-- The common Facet setpoint in MHz, no lower than a third of that. -/
def State.setpoint (s : State) : Nat := max (s.baseClock / 3) (s.baseClock - s.power.lower)

/-- Whether a clock ramp waits for grants (R353). -/
def State.ramping (s : State) : Bool := s.power.requests.any (fun r => r.1 == 60)

/-- What a die's clock settles at: the divider while Lattice is forced, the ramp's progress, boost while nothing bars it. -/
def State.clockAfter (s : State) (die clock : Nat) : Nat :=
  let sp := s.setpoint
  if s.forced 0 then sp / 3
  else if clock < sp then (if s.ramping then clock else sp)
  else if s.dnum 0x2006 1 = 1 ∨ s.dnum 0x2006 2 = 0 ∨ bit s.power.limited 0 then sp
  else max sp (min clock (s.topPoint die 2000))

def State.settleClocks (s : State) : State :=
  s.setClocks [s.clockAfter 0 (s.power.clocks.getD 0 0), s.clockAfter 1 (s.power.clocks.getD 1 0)]

/-! ### What the registers show -/

def State.sstate (s : State) : Nat := if s.power.sleep ≥ 3 then 0 else s.power.sleep

/-- Bring PWR_STAT, PWR_CAP and the domain caps up to date with what they follow. -/
def State.recap (s : State) : State :=
  have s : State := s.settleClocks
  let c := s.capNow
  have s : State := (s.sf R.pwrCap_SRC 0 c.1).sf R.pwrCap_CAP 0 c.2
  have s : State := (List.range 4).foldl (fun (t : State) d => t.sf R.pwrDom_CAPW d (t.domCap d)) s
  have s : State := s.sf R.pwrStat_ASTATE 0 (if s.forcedMask ≠ 0 then 2 else if c.2 = 2600 then 0 else 1)
  have s : State := ((s.sf R.pwrStat_SSTATE 0 s.sstate).sf R.pwrStat_PRESET 0 s.preset).sf R.pwrStat_FIXED 0 (s.dnum 0x2006 1)
  have s : State := (s.sf R.pwrStat_BOOST 0 (b2n (s.power.clocks.any (fun c => decide (c > s.setpoint))))).sf R.pwrStat_FORCED 0 s.forcedMask
  have s : State := ((s.sf R.pwrStat_ALERT 0 (s.pins.raw % 64)).sf R.pwrStat_BRAKE 0 (b2n (s.warned 6 || s.power.brakeHold))).sf R.pwrStat_COOL 0 (b2n (s.warned 7))
  ((s.sf R.pwrStat_LEASE 0 (b2n s.power.lease.isSome)).sf R.pwrStat_TELEM_LOST 0 (b2n (s.power.silent != 0))).sf R.sbStat_LEVEL 0 (s.pins.raw % 256)

end Sys2Proof.Machine
end

