-- ==== Sys2Proof/Machine/Fabric.lean ====
section
/-! DEFINITION. The fabric: ports and their bring-up, identity, the target's side of an operation, responses, timeouts,
and the region, grant and group tables (spec/13 R284 to R299, R305 to R308; spec/14 R318, R327). -/

namespace Sys2Proof.Machine

/-! ### Ports (R284 to R288, R318) -/

def State.pst (s : State) (n : Nat) : Nat := s.gf R.fmfPortStat_STATE n

/-- A port's configured mode (0x4003:01): 0 native, 1 fallback, 2 disabled; a far port trains native only (R285). -/
def State.portMode (s : State) (n : Nat) : Nat :=
  let m := octAt (s.doct 0x4003 1) n
  if n ≥ 24 ∧ m = 1 then 0 else m

/-- A port starts bring-up at step 1, in its configured mode; a disabled port stays so. -/
def State.portStart (s : State) (n : Nat) : State :=
  let v := fun (st mode : Nat) => BitVec.ofNat 32 (st * 2 ^ 29 + mode * 2 ^ 27 + s.gf R.fmfPortStat_OUTST n)
  -- no port comes up in the fatal state (spec/14 R311)
  if s.fatalNow then s.wr .fmfPortStat n (v 0 0)
  else if s.portMode n ≥ 2 then s.wr .fmfPortStat n (v 7 0)
  else s.wr .fmfPortStat n (v 1 (if s.portMode n = 1 then 1 else 0))

/-- A bring-up step fails: the port is down for a second, the failure is counted and logged (R286). -/
def State.portFail (s : State) (n : Nat) : State :=
  have s : State := s.wr .fmfPortStat n (BitVec.ofNat 32 (s.gf R.fmfPortStat_OUTST n))
  (s.bump 0x801B 5).report (source 5 n) 0x23 1 none n

/-- Bring-up step 1: lane training and FEC lock (R285, R286). -/
def State.linkTrained (s : State) (n : Nat) (native all : Bool) : State :=
  if n ≥ 32 ∨ s.pst n ≠ 1 ∨ native ≠ (s.gf R.fmfPortStat_MODE n == 0) then s
  -- a far port whose laser supply is latched off fails (spec/19 R437)
  else if !all ∨ (n ≥ 24 ∧ bit (s.gf R.regoCmd_LASER 0) ((n - 24) / 4)) then s.portFail n
  else s.sf R.fmfPortStat_STATE n 2

def execLinkTrained (port : Nat) (native allLanes : Bool) (s : State) : Host.Outcome State Fault Refusal :=
  .next (s.linkTrained port native allLanes)

/-- No native answer within 200 ms: a near port trains 1.6 Tb/s Ethernet (R285). -/
def State.nativeTimeout (s : State) (n : Nat) : State :=
  if n ≥ 24 ∨ s.pst n ≠ 1 ∨ s.gf R.fmfPortStat_MODE n ≠ 0 then s else s.sf R.fmfPortStat_MODE n 1

def execNativeTrainingTimeout (port : Nat) (s : State) : Host.Outcome State Fault Refusal := .next (s.nativeTimeout port)

/-- Send a hello (R288). -/
def State.sendHello (s : State) (n : Nat) : State :=
  s.sendOut n (.hello n (s.dnum 0x4000 3) s.part.eui (if s.idValid then some (s.pkg, s.epoch) else none) s.identPart.toNat)

/-- Step 2: a secure association; the port sends its hello (R286 to R288). -/
def State.mkaSecure (s : State) (a : Assoc) : State :=
  let n := a.port
  if n ≥ 32 ∨ s.pst n ≠ 2 then s
  else
    have s : State := s.modLink n (fun _ => { Link.blank with sci := a.sci, sak := a.sak })
    ((s.sf R.fmfPortStat_MACSEC n 1).sf R.fmfPortStat_STATE n 3).sendHello n

def execMkaSecure (port : Assoc) (s : State) : Host.Outcome State Fault Refusal := .next (s.mkaSecure port)

/-- No secure association within 2 s (R286, step 2). -/
def State.mkaTimeout (s : State) (n : Nat) : State := if n ≥ 32 ∨ s.pst n ≠ 2 then s else s.portFail n

def execMkaTimeout (port : Nat) (s : State) : Host.Outcome State Fault Refusal := .next (s.mkaTimeout port)

/-- An operation that has waited for a route set takes the entry that serves its target now, or fails with UNREACHABLE (R293). -/
def State.reroute (s : State) (o : FabOp) : State :=
  match s.routeFor o.dst with
  | none => s.completeOp o stUnreachable []
  | some e =>
    if (s.route e).ports.isEmpty && !s.routePending e then s.completeOp o stUnreachable []
    else { s with ops := s.ops.map (fun x => if x.uid = o.uid then { x with entry := e } else x) }

/-- Apply the route entries that wait for no outstanding operation (R293). -/
def State.applyRoute (s : State) (e : Nat) : State :=
  if !s.routePending e ∨ s.ops.any (fun o => o.port.isSome && decide (o.entry = e)) then s
  else
    have s : State := { s with routes := Sparse.put (fun _ => Route.blank) s.routes e (s.routeNow e) }
    ((s.ops.filter (fun o => o.port.isNone && decide (o.entry = e))).foldl (fun (t : State) o => t.reroute o) s).pump

/-- Steps 3 and 4: the partner's hello is checked; the port comes up (R286, R288). A hello on a port that is up renews
what the partner reports. -/
def State.hello (s : State) (n : Nat) (h : Hello) : State :=
  if n ≥ 32 ∨ (s.pst n ≠ 3 ∧ s.pst n ≠ 4) then s
  else if h.isPackage ∨ !h.neighbourOk then (if s.pst n = 3 then s.portFail n else s)
  else ((((s.portFrame n).modLink n (fun l => { l with addr := h.addr, ptp := h.ptp })).sf R.fmfPortStat_PLANE n h.plane).sf R.fmfPortStat_LEVEL n h.level).sf R.fmfPortStat_STATE n 4

def execHello (port : Nat) (h : Hello) (s : State) : Host.Outcome State Fault Refusal := .next (s.hello port h)

/-- A second after a failed step the port returns to step 1 (R286). -/
def State.bringupRetry (s : State) (n : Nat) : State :=
  if n ≥ 32 ∨ s.pst n ≠ 0 ∨ !s.ready then s else s.portStart n

def execBringupRetry (port : Nat) (s : State) : Host.Outcome State Fault Refusal := .next (s.bringupRetry port)

/-- An up native port that has been idle sends a keepalive (R318). -/
def State.keepalive (s : State) (n : Nat) : State :=
  if n < 32 ∧ s.portUp n ∧ s.gf R.fmfPortStat_MODE n = 0 then s.sendOut n (.link n "keepalive" 0) else s

def execKeepalive (port : Nat) (s : State) : Host.Outcome State Fault Refusal := .next (s.keepalive port)

/-! ### Identity (R288, spec/01 R20) -/

/-- A new hello on every up port. -/
def State.helloAll (s : State) : State :=
  (List.range 32).foldl (fun (t : State) n => if t.portUp n then t.sendHello n else t) s

/-- VALID clears, by a release or a lost claim: what has not been sent, or would be sent again, is not (spec/01 R20). A chunk of a
REDUCE names no package: it stays unsent until its own time limit (R302). -/
def State.unclaim (s : State) : State :=
  let mine := s.ops.filter (fun o => (o.port.isNone || o.retry) && o.op != 6)
  mine.foldl (fun (t : State) o => t.completeOp o stUnreachable []) (s.sf R.identPkgid_VALID 0 0)

/-- 0x4000:01: bit 63 releases the identifier; otherwise bits [14:0] and [47:32] assign it and the epoch. -/
def State.identity (s : State) (v : Nat) : State :=
  have s : State :=
    if bit v 63 then s.unclaim
    else ((s.sf R.identPkgid_PKG_ID 0 (bits v 14 0)).sf R.identPkgid_VALID 0 1).setN 0x4000 2 (bits v 47 32)
  (s.setN 0x4000 1 0).helloAll

/-- The order of epochs: RFC 1982, and the larger value at a distance of 2^15. -/
def epochNewer (a b : Nat) : Bool :=
  let d := (a + 65536 - b) % 65536
  d != 0 && (decide (d < 32768) || (d == 32768 && decide (a > b)))

/-- A switch reports a competing claim to the package's identifier. -/
def State.claimConflict (s : State) (ep home eui : Nat) : State :=
  if !s.idValid then s else
  let mine := s.epoch
  let h := s.dnum 0x4000 3
  let win := epochNewer mine ep || (mine == ep && (decide (h < home) || (h == home && decide (s.part.eui ≤ eui))))
  if win then s else
  have s : State := (s.unclaim.setBit .fmfStat 0 30).bump 0x801B 7
  have s : State := (s.setN 0x4000 1 1).report (source 5 0) 0x24 1 none s.pkg
  -- a spare that adopts stays a spare (spec/14 R332, R336)
  if s.adoption.isSome then
    (((({ s with adoption := none }).setN 0x8020 2 6).bump 0x8025 5).setFlt 0).recap
  else s

def execClaimConflict (epoch home eui : Nat) (s : State) : Host.Outcome State Fault Refusal := .next (s.claimConflict epoch home eui)

/-- A new SAK from the key server (R287): packet numbers begin again. -/
def State.sakChange (s : State) (a : Assoc) : State :=
  let n := a.port
  if n < 32 ∧ s.gf R.fmfPortStat_MACSEC n = 1 then
    (s.modLink n (fun l => { l with sci := a.sci, sak := a.sak, rx := 1, tx := 1 })).bump 0x4004 2
  else s

def execSakChange (port : Assoc) (s : State) : Host.Outcome State Fault Refusal := .next (s.sakChange port)

/-- A packet number has reached 2^62: the device requests a new SAK (R287). -/
def State.sakRequest (s : State) (n : Nat) : State :=
  if n < 32 ∧ s.gf R.fmfPortStat_MACSEC n = 1 ∧ (2 ^ 62 ≤ (s.linkOf n).tx ∨ 2 ^ 62 < (s.linkOf n).rx) then s.sendOut n (.link n "sak request" 0) else s

def execSakRequest (port : Nat) (s : State) : Host.Outcome State Fault Refusal := .next (s.sakRequest port)

/-! ### Frames that arrive (R287, R289, R294) -/

def frOp (f : Frame) : Nat := fld f.w0 9 4
def frLen (f : Frame) : Nat := fld f.w0 27 16 + 1
def frAop (f : Frame) : Nat := fld f.w0 31 28
def frTag (f : Frame) : Nat := fld f.w0 47 32
def frStatus (f : Frame) : Nat := fld f.w1 39 32
def frOff (f : Frame) : Nat := fld f.w3 48 0

/-- The MACsec checks: the ICV, the explicit SCI, and a packet number not below the lowest acceptable one, the replay window
being 0 (R287). -/
def State.macOk (s : State) (n : Nat) (w : Wire) (sec : Bool) : Bool :=
  sec && w.sci == (s.linkOf n).sci && decide ((s.linkOf n).rx ≤ w.pn)

/-- A frame has passed: the lowest acceptable packet number is the next. -/
def State.heard (s : State) (n : Nat) (w : Wire) : State := (s.portFrame n).modLink n (fun l => { l with rx := w.pn + 1 })

/-- A frame fails FEC or its FCS: a native link has it sent again, a fallback link loses it (R284, R304). Its replay counts in
0x801B:04 (DESIGN CHOICE, unsafe; log entry 109). -/
def State.badFcs (s : State) (n : Nat) : State :=
  if s.gf R.fmfPortStat_MODE n = 0 then ((s.portFrame n).bump 0x801B 4).sendOut n (.link n "replay" 0) else s.portFrame n

/-- A frame that arrives on a port that is up; one that fails MACsec is dropped and counted (R286, R287). -/
def State.arrive (s : State) (n : Nat) (w : Wire) (sec : Bool) (k : State → State) : State :=
  if n ≥ 32 ∨ !s.portUp n then s
  else if !w.fcs then s.badFcs n
  else if !s.macOk n w sec then (((s.portFrame n).bump 0x801B 1).setBit .fmfErr 0 0).report (source 5 n) 0x21 1 none n
  else k (s.heard n w)

/-- The same of an FMF frame. -/
def State.receive (s : State) (n : Nat) (f : Frame) (k : State → State) : State := s.arrive n f.wire f.sec k

/-- What every FMF frame must satisfy (R289, R290): version, no reserved bit, AOP. -/
def frameBase (f : Frame) : Bool :=
  fld f.w0 3 0 == 1 && fld f.w0 15 15 == 0 && fld f.w1 15 15 == 0 && fld f.w1 31 31 == 0 && fld f.w1 63 40 == 0 &&
  fld f.w3 63 49 == 0 && decide (frAop f ≤ 9)

/-- Whether a response fits its request: LEN as the request, and the bytes that its row gives an answer with STATUS OK (R290). -/
def answerOk (o : FabOp) (f : Frame) : Bool :=
  frameBase f && frLen f == o.len &&
  (frStatus f != 0 || f.payload.length == (if o.op = 2 ∨ o.op = 5 then 0 else o.len))

/-- A response outside its row is refused: it completes nothing and is answered by nothing (R290; DESIGN CHOICE, unsafe; log entry
109). -/
def State.refuseAnswer (s : State) (n : Nat) (f : Frame) : State :=
  ((s.setBit .fmfErr 0 2).bump 0x801B 2).report (source 5 n) stBadOp 1 none (s.fga (frOff f))

/-- The RESP to a request (R289, R290). -/
def State.respond (s : State) (n : Nat) (f : Frame) (st : Nat) (payload : List Byte) : State :=
  s.sendFrame n true (mkFrame
    (frameHead 0x20 false false (st != 0) 0 (frLen f) (frAop f) (frTag f) s.epoch)
    (s.pkg + fld f.w1 14 0 * 2 ^ 16 + st * 2 ^ 32) 0 (frOff f) payload)

/-- Refuse a request: the RESP with POISON, FMF_ERR.REFUSED, the count and the log (R294). -/
def State.refuse (s : State) (n : Nat) (f : Frame) (st : Nat) (part : Option Nat) : State :=
  have s : State := ((s.setBit .fmfErr 0 2).bump 0x801B 2).report (source 5 n) st 1 part (s.fga (frOff f))
  s.respond n f st []

/-- The valid region entry that holds a key. -/
def State.regionFor (s : State) (key : Nat) : Option Ent :=
  ((s.tables.filter (fun x => decide (x.1 < 4096))).map Prod.snd).find? (fun g => bit g.w0 63 && g.w2 == key)

def entPart (g : Ent) : Nat := bits g.w0 58 55

/-- Check 7: whether partition `p`'s rectangle and ranges hold a local offset; the page-table pool is out of reach
(spec/07 R175). -/
def State.inboundOk (s : State) (p off n : Nat) : Bool :=
  match s.region off n with
  | .none => false
  | .carafe => decide (off + n ≤ s.carafeSize - s.ptPool)
  | .urn => true
  | .scratch f => s.facetIn p f
  | .tiered => true
  | .kv k => (s.ticket k).state != 0 && (s.ticket k).part == p

/-- Whether a partition's scratchpads are refused because it is saved, or between (R276). -/
def State.preempted (s : State) (p off n : Nat) : Bool :=
  match s.region off n with
  | .scratch _ => decide (3 ≤ s.pstate p) && decide (s.pstate p ≤ 5)
  | _ => false

/-- What the frame itself must satisfy (R290): a known operation and AOP, LEN and alignment, no reserved bit. -/
def frameOk (f : Frame) : Bool :=
  let op := frOp f
  let off := frOff f
  let atomic := op == 3
  frameBase f &&
  (if atomic then
     (frLen f == 4 || frLen f == 8) && off % frLen f == 0 &&
     f.payload.length == (if frAop f = 9 then 2 * frLen f else frLen f) && decide (off < apertureBase || off ≥ 0x020020000000)
   else
     (op == 1 || op == 2 || op == 4 || op == 5) && decide (frLen f ≤ 4096) && decide (off % 4096 + frLen f ≤ 4096) &&
     ((op == 1 || op == 4) || f.payload.length == frLen f))

/-- The right an operation needs: bit of word 0. -/
def rightBit (op : Nat) : Nat := if op = 1 then 62 else if op = 2 then 61 else if op = 3 then 60 else 59

/-- The checks of R294, then what is to be performed for partition `p`. -/
def State.inbound (s : State) (n : Nat) (f : Frame) (k : State → Nat → State) : State :=
  s.receive n f fun s =>
    if !s.idValid ∨ fld f.w1 30 16 ≠ s.pkg then s.bump 0x801B 2
    else if fld f.w0 63 48 ≠ s.epoch then s.refuse n f stEpoch none
    else if !frameOk f then s.refuse n f stBadOp none
    else if s.ucVertex.contains 0 then s.fatalVertex 0
    else match s.regionFor f.w2.toNat with
      | none => s.refuse n f stKey none
      | some g =>
        let p := entPart g
        let off := frOff f
        let len := frLen f
        let write := frOp f != 1 && frOp f != 4
        if off < bits g.w0 48 0 ∨ off + len > bits g.w0 48 0 + (bits g.w1 36 0 + 1) * 4096 then s.refuse n f stBounds (some p)
        else if !bit g.w0 (rightBit (frOp f)) then s.refuse n f stRights (some p)
        else if !s.inboundOk p off len then s.refuse n f stAccess (some p)
        else if s.cacheUc (some p) off len then s.fatalVertex 3
        else match s.resolve p off len write true with
          | .bad st => (if st = stNotResident then s.bump 0x8015 3 else s).refuse n f st (some p)
          | .hold _ => (s.bump 0x8015 3).refuse n f stNotResident (some p)
          | .table t => (s.markTable t).refuse n f stTableUc (some p)
          | .pieces l =>
            if s.preempted p off len then s.refuse n f 0x0C (some p)
            -- in S2 Carafe and the scratchpads are out of reach (spec/15 R351)
            else if s.power.sleep = 2 ∧ l.any (fun x => decide (x.1 < urnBase) || decide (apertureBase ≤ x.1)) then s.refuse n f stNotResident (some p)
            else k s p

/-- Whether a leaf maps bytes that a chunk of a generation or of an adapter has written (spec/10 R233). -/
def State.weightLeaf (s : State) (l : Leaf) : Bool :=
  s.gens.any (fun g => g.p == l.p && g.pages.contains l.va) || s.aslots.any (fun a => a.p == l.p && a.pages.contains l.va)

/-- The physical ranges that hold plaintext weight or adapter bytes (spec/10 R224): what chunks have written in Carafe, the frames and
lower copies of the tiered pages they have mapped, and what such pages have left behind. -/
def State.weightRanges (s : State) : List (Nat × Nat) :=
  s.wtLeft ++ s.gens.flatMap (fun g => g.ranges) ++
  (s.leaves.filter s.weightLeaf).flatMap (fun l =>
    (if l.tier < 2 then [(l.frame, pageBytes l.psize)] else []) ++
    (match l.lower with
     | some (t, f) => if t = 1 then [(f, pageBytes l.psize)] else []
     | none => []))

/-- Whether a partition's access reaches a byte that a chunk has written. -/
def State.holdsWeights (s : State) (p off n : Nat) : Bool :=
  match s.resolve p off n false true with
  | .pieces l => l.any (fun x => s.weightRanges.any (fun y => overlap x y))
  | _ => false

/-- An operation that returns bytes gives no weight byte to another package: it is refused with ACCESS (spec/10 R224; DESIGN CHOICE,
unsafe; log entry 100). -/
def State.outLoud (s : State) (n : Nat) (f : Frame) (p : Nat) (k : State → State) : State :=
  if s.holdsWeights p (frOff f) (frLen f) then s.refuse n f stAccess (some p) else k s

/-- Perform a LOAD or CLOAD. -/
def State.inLoad (s : State) (n : Nat) (f : Frame) : State :=
  s.inbound n f fun s p => s.outLoud n f p fun s =>
    let r := s.readRow (some p) (s.fga (frOff f)) (frLen f)
    if r.2.2.isEmpty then r.1.respond n f 0 r.2.1 else r.1.refuse n f stMedia (some p)

/-- Perform a STORE or CSTORE; one that fails in an uncorrectable unit receives poison (R441). -/
def State.inStore (s : State) (n : Nat) (f : Frame) : State :=
  s.inbound n f fun s p =>
    let r := s.writeRow (some p) (s.fga (frOff f)) f.payload
    if r.2.isEmpty then r.1.respond n f 0 [] else r.1.refuse n f stMedia (some p)

/-- The new value of an atomic on two's-complement integers of `w` bits: old value, operand, swap value (R290). -/
def atomicOp (aop w old x y : Nat) : Nat :=
  let lt := fun (a b : Nat) => decide (toSigned w a < toSigned w b)
  match aop with
  | 0 => (old + x) % 2 ^ w
  | 1 => old &&& x
  | 2 => old ||| x
  | 3 => old ^^^ x
  | 4 => if lt old x then x else old
  | 5 => if lt old x then old else x
  | 6 => max old x
  | 7 => min old x
  | 8 => x
  | _ => if old = x then y else old

/-- A descriptor of a Pour or Drip engine that is still running writes bytes that an ATOMIC writes: it leaves them undefined too
(R299). -/
def State.tearAt_ (s : State) (rs : List (Nat × Nat)) (u : Unwaited) : State :=
  if u.by_ < 256 then s.setPourQ u.by_ ((s.facet u.by_).pourQ.map (fun d => if d.uid = u.uid then { d with clash := d.clash ++ rs } else d))
  else s.modDesc (u.by_ - 257) u.uid (fun d => { d with torn := d.torn ++ rs })

/-- The results still being written by a Pour or Drip engine that share bytes with some ranges. -/
def State.rivals (s : State) (rs : List (Nat × Nat)) : List Unwaited :=
  s.unwaited.filter (fun u => u.told.isEmpty && decide (u.by_ < 289) && u.by_ != 256 && rs.any (fun x => overlaps u.lo u.len x.1 x.2))

/-- Perform an ATOMIC, indivisibly (R290, R299); a concurrent write of the same bytes by a local engine leaves them undefined. -/
def State.inAtomic (s : State) (n : Nat) (f : Frame) : State :=
  s.inbound n f fun s p => s.outLoud n f p fun s =>
    let len := frLen f
    let r := s.readRow (some p) (s.fga (frOff f)) len
    if !r.2.2.isEmpty then r.1.refuse n f stMedia (some p) else
    let new := atomicOp (frAop f) (8 * len) (leNat r.2.1) (leNat (f.payload.take len)) (leNat (f.payload.drop len))
    let rs := s.physOf (some p) (s.fga (frOff f)) len
    let us := s.rivals rs
    let k := if us.isEmpty then (0, r.1) else r.1.fresh
    have s : State := us.foldl (fun (t : State) u => t.tearAt_ (shared rs [(u.lo, u.len)]) u) k.2
    let open_ := freeBytes k.1 (2 * len)
    let w := s.writeRow (some p) (s.fga (frOff f)) (if us.isEmpty then natLE len new else open_.take len)
    let old := if us.isEmpty then r.2.1 else open_.drop len
    if w.2.isEmpty then w.1.respond n f 0 (if bit f.w0.toNat 11 then [] else old) else w.1.refuse n f stMedia (some p)

/-- A frame that a row handles: its OP, and for an atomic its AOP. -/
def State.onOp (s : State) (f : Frame) (op : Nat) (k : State → State) : State := if frOp f = op then k s else s
def State.onAop (s : State) (f : Frame) (a : Nat) (k : State → State) : State := if frOp f = 3 ∧ frAop f = a then k s else s

/-- LOAD, and every frame whose OP the table leaves out or that no target performs, which is refused (R290). -/
def execLoad (port : Nat) (fr : Frame) (s : State) : Host.Outcome State Fault Refusal :=
  .next (if [2, 3, 4, 5, 7, 0x20].contains (frOp fr) then s else s.inLoad port fr)
def execStore (port : Nat) (fr : Frame) (s : State) : Host.Outcome State Fault Refusal := .next (s.onOp fr 2 fun s => s.inStore port fr)
/-- ADD, and an AOP that the table leaves out, which is refused (R290). -/
def execAtomicAdd (port : Nat) (fr : Frame) (s : State) : Host.Outcome State Fault Refusal :=
  .next (s.onOp fr 3 fun s => if frAop fr = 0 ∨ frAop fr > 9 then s.inAtomic port fr else s)
def execAtomicAnd (port : Nat) (fr : Frame) (s : State) : Host.Outcome State Fault Refusal := .next (s.onAop fr 1 fun s => s.inAtomic port fr)
def execAtomicOr (port : Nat) (fr : Frame) (s : State) : Host.Outcome State Fault Refusal := .next (s.onAop fr 2 fun s => s.inAtomic port fr)
def execAtomicXor (port : Nat) (fr : Frame) (s : State) : Host.Outcome State Fault Refusal := .next (s.onAop fr 3 fun s => s.inAtomic port fr)
def execAtomicSmax (port : Nat) (fr : Frame) (s : State) : Host.Outcome State Fault Refusal := .next (s.onAop fr 4 fun s => s.inAtomic port fr)
def execAtomicSmin (port : Nat) (fr : Frame) (s : State) : Host.Outcome State Fault Refusal := .next (s.onAop fr 5 fun s => s.inAtomic port fr)
def execAtomicUmax (port : Nat) (fr : Frame) (s : State) : Host.Outcome State Fault Refusal := .next (s.onAop fr 6 fun s => s.inAtomic port fr)
def execAtomicUmin (port : Nat) (fr : Frame) (s : State) : Host.Outcome State Fault Refusal := .next (s.onAop fr 7 fun s => s.inAtomic port fr)
def execAtomicSwap (port : Nat) (fr : Frame) (s : State) : Host.Outcome State Fault Refusal := .next (s.onAop fr 8 fun s => s.inAtomic port fr)
def execAtomicCas (port : Nat) (fr : Frame) (s : State) : Host.Outcome State Fault Refusal := .next (s.onAop fr 9 fun s => s.inAtomic port fr)
def execCload (port : Nat) (fr : Frame) (s : State) : Host.Outcome State Fault Refusal := .next (s.onOp fr 4 fun s => s.inLoad port fr)
def execCstore (port : Nat) (fr : Frame) (s : State) : Host.Outcome State Fault Refusal := .next (s.onOp fr 5 fun s => s.inStore port fr)

/-! ### Responses and timeouts (R296, R297; spec/14 R327) -/

/-- Whether an operation that met EPOCH is sent again: its partition is not masked, and the window of 0x8020:04 runs. -/
def State.reissues (s : State) (o : FabOp) : Bool :=
  match s.tearAt with
  | none => false
  | some t =>
    decide (s.time ≤ t + s.dnum 0x8020 4 * 1000) &&
    (match s.whoPart o.who with
     | some p => !bit s.tearMask p
     | none => true)

/-- A response: it completes its operation; one that no operation waits for is dropped and counted. -/
def State.resp (s : State) (n : Nat) (f : Frame) : State :=
  s.receive n f fun s =>
    if !s.idValid ∨ fld f.w1 30 16 ≠ s.pkg then s.bump 0x801B 2
    else match s.ops.find? (fun o => decide (o.port = some n) && o.tag == frTag f && o.op != 6 && !o.retry) with
      | none => s.bump 0x801B 3
      | some o =>
        if frStatus f = stEpoch ∧ s.reissues o then
          { s with ops := s.ops.map (fun x => if x.uid = o.uid then { x with retry := true } else x) }
        else if !answerOk o f then s.refuseAnswer n f
        else s.completeOp o (frStatus f) f.payload

def execResp (port : Nat) (fr : Frame) (s : State) : Host.Outcome State Fault Refusal := .next (s.onOp fr 0x20 fun s => s.resp port fr)

/-- No response within 0x4001:01 µs: TIMEOUT, counted and reported (R297). -/
def State.requestTimeout (s : State) (uid : Nat) : State :=
  match s.ops.find? (fun o => decide (o.uid = uid) && o.port.isSome && o.op != 6 && !o.retry) with
  | none => s
  | some o => ((s.until (o.at_ + s.dnum 0x4001 1 * 1000)).bump 0x801B 3).completeOp o stTimeout []

def execRequestTimeout (op : Nat) (s : State) : Host.Outcome State Fault Refusal := .next (s.requestTimeout op)

/-- An operation that met EPOCH is sent again, or completes with EPOCH at the end of the window (spec/14 R327). -/
def State.epochReissue (s : State) (uid : Nat) : State :=
  match s.ops.find? (fun o => decide (o.uid = uid) && o.retry) with
  | none => s
  | some o => if s.reissues o ∧ s.portUp (s.opPort o) then s.sendOp o else s.completeOp o stEpoch []

def execEpochReissue (op : Nat) (s : State) : Host.Outcome State Fault Refusal := .next (s.epochReissue op)

def execRouteSetChange (entry : Nat) (s : State) : Host.Outcome State Fault Refusal :=
  .next (if 1 ≤ entry ∧ entry ≤ 64 then s.applyRoute entry else s)

def execOutstandingLimitRelease (s : State) : Host.Outcome State Fault Refusal := .next s.pump

/-! ### Table entries (R294, R295, R302, R308) -/

/-- FMF_ENT_DATA0 to 7 as an entry. -/
def State.entData (s : State) : Ent :=
  let w := fun (k : Nat) => (s.rd .fmfEntData (2 * k)).toNat + (s.rd .fmfEntData (2 * k + 1)).toNat * 2 ^ 32
  ⟨w 0, w 1, w 2, w 3⟩

def State.putEntData (s : State) (e : Ent) : State :=
  ([e.w0, e.w1, e.w2, e.w3].zipIdx).foldl (fun (t : State) x =>
    (t.wr .fmfEntData (2 * x.2) (BitVec.ofNat 32 x.1)).wr .fmfEntData (2 * x.2 + 1) (BitVec.ofNat 32 (x.1 / 2 ^ 32))) s

/-- A command to FMF_ENT_CMD: `k` answers the state and CODE; a CODE other than 0 is a rejection. -/
def State.entCmd (s : State) (r : Requester) (code : Nat) (k : State → State × Nat) : State :=
  s.gate r .fmfEntCmd 0 fun s =>
    let q := k s
    q.1.cmdCode .fmfEntCmd 0 code (if q.2 = 0 then 0 else 2) q.2

/-- Whether `n` bytes from `base` lie within one row of the local offset map (spec/01 R18). -/
def State.inOneRow (s : State) (base n : Nat) : Bool :=
  decide (base + n ≤ s.carafeSize) || (decide (urnBase ≤ base) && decide (base + n ≤ apertureBase)) ||
  (decide (apertureBase ≤ base) && decide (base + n ≤ 0x020020000000)) || (decide (tieredBase ≤ base) && decide (base + n ≤ kvBase)) ||
  (decide (kvBase ≤ base) && decide (base + n ≤ 0x1400000000000))

/-- The check of a region entry. -/
def State.regionBad (s : State) (idx : Nat) (e : Ent) : Nat :=
  let base := bits e.w0 48 0
  let n := (bits e.w1 36 0 + 1) * 4096
  if idx ≥ 4096 ∨ bits e.w0 54 49 ≠ 0 ∨ bits e.w1 63 37 ≠ 0 ∨ e.w3 ≠ 0 ∨ base % 4096 ≠ 0 then 1
  else if bit e.w0 63 ∧ (e.w2 = 0 ∨ !s.inOneRow base n) then 1
  else if bit e.w0 63 ∧ s.tables.any (fun x => decide (x.1 < 4096) && decide (x.1 ≠ idx) && bit x.2.w0 63 && x.2.w2 == e.w2) then 2
  else 0

def execWriteRegion (r : Requester) (idx : Nat) (s : State) : Host.Outcome State Fault Refusal :=
  .next (s.entCmd r 1 fun s =>
    let c := s.regionBad idx s.entData
    (if c = 0 then s.setEnt idx s.entData else s, c))

def execReadRegion (r : Requester) (idx : Nat) (s : State) : Host.Outcome State Fault Refusal :=
  .next (s.entCmd r 2 fun s =>
    if idx ≥ 4096 then (s, 1) else (s.putEntData { s.ent idx with w2 := 0 }, 0))

def grantBad (idx : Nat) (e : Ent) : Nat :=
  if idx ≥ 4096 ∨ bits e.w0 27 0 ≠ 0 ∨ bits e.w1 63 49 ≠ 0 ∨ bits e.w2 63 37 ≠ 0 ∨ bits e.w1 48 0 % 4096 ≠ 0 ∨ (bit e.w0 63 ∧ e.w3 = 0)
  then 1 else 0

def execWriteGrant (r : Requester) (idx : Nat) (s : State) : Host.Outcome State Fault Refusal :=
  .next (s.entCmd r 3 fun s =>
    let c := grantBad idx s.entData
    (if c = 0 then s.setEnt (4096 + idx) s.entData else s, c))

def execReadGrant (r : Requester) (idx : Nat) (s : State) : Host.Outcome State Fault Refusal :=
  .next (s.entCmd r 4 fun s =>
    if idx ≥ 4096 then (s, 1) else (s.putEntData { s.ent (4096 + idx) with w3 := 0 }, 0))

/-- Whether a REDUCE of a group runs. -/
def State.groupBusy (s : State) (g : Nat) : Bool :=
  (List.range 16).any (fun p => (s.takenOf (32 + p)).any (fun d => d.running && dKind d == 2 && bits (dw d 0) 47 40 == g))

def State.groupBad (s : State) (idx : Nat) (e : Ent) : Nat :=
  if idx ≥ 256 ∨ bits e.w0 58 48 ≠ 0 ∨ bits e.w0 31 16 ≠ 0 ∨ bits e.w1 63 24 ≠ 0 ∨ bits e.w2 63 16 ≠ 0 ∨ bits e.w3 63 32 ≠ 0 then 1
  else if s.groupBusy idx then 3
  else 0

def execWriteGroup (r : Requester) (idx : Nat) (s : State) : Host.Outcome State Fault Refusal :=
  .next (s.entCmd r 5 fun s =>
    let e := s.entData
    let c := s.groupBad idx e
    let last := if bit e.w0 63 then (s.ent (8192 + idx)).w3 else 0
    (if c = 0 then s.setEnt (8192 + idx) { e with w3 := last } else s, c))

def execReadGroup (r : Requester) (idx : Nat) (s : State) : Host.Outcome State Fault Refusal :=
  .next (s.entCmd r 6 fun s => if idx ≥ 256 then (s, 1) else (s.putEntData (s.ent (8192 + idx)), 0))

end Sys2Proof.Machine
end

