-- ==== Sys2Proof/Machine/Copy.lean ====
section
/-! DEFINITION. The copy engines: COPY and REDUCE descriptors, their rings' commands, reduced chunks (spec/13 R300 to
R304), and fabric time (R307). -/

namespace Sys2Proof.Machine

/-! ### Descriptor fields (R300) -/

def qEfmt (d : RingDesc) : Nat := bits (dw d 0) 55 52
def qRop (d : RingDesc) : Nat := bits (dw d 0) 51 48
def qGroup (d : RingDesc) : Nat := bits (dw d 0) 47 40
def qSrc (d : RingDesc) : Nat := dw d 1
def qDst (d : RingDesc) : Nat := dw d 2
def qLen (d : RingDesc) : Nat := bits (dw d 3) 39 0
def qSkey (d : RingDesc) : Nat := dw d 4
def qDkey (d : RingDesc) : Nat := dw d 5
def qRseq (d : RingDesc) : Nat := bits (dw d 6) 31 0

/-- Bits that every kind leaves reserved. -/
def copyUnused (d : RingDesc) : Bool :=
  bits (dw d 0) 58 56 != 0 || bits (dw d 0) 39 0 != 0 || bits (dw d 3) 63 40 != 0 || bits (dw d 6) 55 50 != 0 ||
  bits (dw d 6) 43 32 != 0 || bits (dw d 7) 63 16 != 0

/-- Bits that the kind leaves reserved. -/
def copyReserved (d : RingDesc) : Bool :=
  copyUnused d ||
  (dKind d == 1 && (bits (dw d 0) 55 40 != 0 || qRseq d != 0))

/-- Chunks of a transfer: place and bytes, none crossing a 4 KiB boundary of either address (R301). -/
def copyCuts : Nat → Nat → Nat → Nat → Nat → List (Nat × Nat)
  | 0, _, _, _, _ => []
  | k + 1, src, dst, pos, len =>
    if len = 0 then [] else
    let m := min len (min (4096 - src % 4096) (4096 - dst % 4096))
    (pos, m) :: copyCuts k (src + m) (dst + m) (pos + m) (len - m)

def copyChunks (d : RingDesc) : List (Nat × Nat) := copyCuts (qLen d / 2048 + 3) (qSrc d) (qDst d) 0 (qLen d)

/-- Ports of a reduction group, ascending. -/
def groupPorts (g : Ent) : List Nat := (List.range 24).filter (fun n => bit g.w1 n)

/-! ### Checks (R301, R302) -/

/-- What a REDUCE must satisfy. -/
def State.reduceOk (s : State) (p : Nat) (d : RingDesc) : Bool :=
  let g := s.ent (8192 + qGroup d)
  let es := if qEfmt d = 1 then 2 else if qEfmt d = 3 then 8 else 4
  decide (qEfmt d ≤ 3) && decide (qRop d ≤ 2) && qLen d % es == 0 && decide (qLen d ≤ 16777216) && s.own (qDst d) &&
  bit g.w0 63 && bits g.w0 62 59 == p && qRseq d == (g.w3 + 1) % 2 ^ 32 && !(groupPorts g).isEmpty &&
  (groupPorts g).all (fun n => s.portUp n && s.gf R.fmfPortStat_MODE n == 0)

/-- The check of a copy descriptor: whether it fails, with the tables whose walk was uncorrectable. -/
def State.copyCheck (s : State) (p : Nat) (d : RingDesc) : Bool × List (Nat × Nat × Nat) :=
  if copyReserved d || qLen d == 0 || !s.facetOfDomain (some p) (dCfacet d) || (dKind d == 2 && !s.reduceOk p d) then (true, [])
  else
    let a := if s.own (qSrc d) then s.rowStatus (some p) (qSrc d) (qLen d) false 0 else (0, [])
    let b := if s.own (qDst d) then s.rowStatus (some p) (qDst d) (qLen d) true 0 else (0, [])
    let r := firstBad [a, b]
    (r.1 != 0, r.2)

/-! ### Start (R300 to R302) -/

/-- Show RUNNING. -/
def State.showCopies (s : State) (p : Nat) : State :=
  s.sf R.fmfCqStat_RUNNING p ((s.takenOf (32 + p)).filter (fun d => d.running)).length

def State.copiesRunning (s : State) : Nat :=
  ((List.range 16).map (fun p => ((s.takenOf (32 + p)).filter (fun d => d.running)).length)).foldl (· + ·) 0

/-- Whether a local end of a descriptor lies in the scratchpads. -/
def State.copyScratch (s : State) (d : RingDesc) : Bool :=
  let at_ := fun (a : Nat) => s.own a && decide (apertureBase ≤ fgaOff a) && decide (fgaOff a < tieredBase)
  at_ (qSrc d) || at_ (qDst d)

/-- Whether a descriptor waits for its partition's pre-emption to be over: copies to and from the scratchpads start in no state from
FREEZING to RESTORING, and quiescence waits for those that run (spec/12 R267, R276; DESIGN CHOICE, unsafe; log entry 108). -/
def State.copyWaits (s : State) (p : Nat) (d : RingDesc) : Bool :=
  decide (2 ≤ s.pstate p) && decide (s.pstate p ≤ 5) && s.copyScratch d

/-- An increment by a copy engine; of a saved partition it is the save image's counter that takes it (spec/12 R276). -/
def State.copyInc (s : State) (p : Nat) (d : RingDesc) (err : Bool) : State :=
  match (s.prt p).image with
  | none => (s.noteDelay (dCfacet d) (dCctr d) d.held).sbInc (dCfacet d) (dCctr d) err
  | some im =>
    have t : State := State.sbInc { s with regs := im.regs } (dCfacet d) (dCctr d) err
    s.modPrt p (fun x => { x with image := some { im with regs := t.regs } })

/-- The next descriptor of a copy ring, when it may start. -/
def State.copyNext (s : State) (p : Nat) (is : RingDesc → Bool) : Option RingDesc :=
  let q := s.takenOf (32 + p)
  let st := s.gf R.fmfCqStat_STATE p
  match q.find? (fun d => !d.running) with
  | none => none
  | some d =>
    if is d ∧ !s.fatalNow ∧ !s.copyWaits p d ∧ (st = 1 ∨ st = 2) ∧ (q.filter (fun x => x.running)).length < 8 ∧ s.copiesRunning < 64 ∧
      (!dFence d ∨ (q.headD d).uid = d.uid) then some d else none

/-- Pages that hold a running descriptor's local ends. -/
def State.copyHeld (s : State) (p : Nat) (d : RingDesc) : List (Nat × Bool) :=
  (s.heldPages (some p) (qSrc d) (qLen d) false).map (fun v => (v, false)) ++
  (s.heldPages (some p) (qDst d) (qLen d) true).map (fun v => (v, true))

def State.copyHold (s : State) (p : Nat) (d : RingDesc) : State :=
  (s.copyHeld p d).eraseDups.foldl (fun (t : State) h => t.addHolds p (.copy p d.uid) h.2 [h.1]) s

/-- Read a chunk of a local source. Bytes that another operation writes, and that nothing orders before the descriptor, are undefined
(spec/01 R15). -/
def State.copyTake (s : State) (p : Nat) (d : RingDesc) (c : Nat × Nat) : State × List Byte × List Nat :=
  let r := s.readRow (some p) (qSrc d + c.1) c.2
  let x := r.1.unsettled (s.physOf (some p) (qSrc d + c.1) c.2) (s.ringOrd (32 + p) d.uid) r.2.1
  (x.1, x.2, r.2.2)

/-- Read the local source of a copy into its transfer: the state, the bytes, the stretches that were uncorrectable. -/
def State.copyRead (s : State) (p : Nat) (d : RingDesc) (cs : List (Nat × Nat)) : State × List Host.Cell × List Seg :=
  cs.foldl (fun (acc : State × List Host.Cell × List Seg) c =>
    let r := acc.1.copyTake p d c
    (r.1, Sparse.blit zeroByte acc.2.1 c.1 r.2.1, if r.2.2.isEmpty then acc.2.2 else acc.2.2 ++ [⟨qSrc d + c.1, c.2, c.1, 0⟩])) (s, [], [])

/-- The chunks of a reduction as segments: plane and word 3, word 2 (R302). -/
def State.redSegs (s : State) (d : RingDesc) : List Seg :=
  let g := s.ent (8192 + qGroup d)
  let ps := groupPorts g
  let w2 := bits g.w2 15 0 + qGroup d * 2 ^ 16 + qEfmt d * 2 ^ 24 + qRop d * 2 ^ 28 + qRseq d * 2 ^ 32
  (List.range ((qLen d + 4095) / 4096)).map (fun j =>
    let w3 := j % 65536 + bits g.w0 15 0 * 2 ^ 16 + bits g.w0 47 32 * 2 ^ 32
    ⟨w3 * 32 + ps.getD (j % ps.length) 0, min 4096 (qLen d - 4096 * j), 4096 * j, w2⟩)

/-- The ring stops once it is stopping and nothing runs (R142, R300). -/
def State.copySettle (s : State) (p : Nat) : State :=
  have s : State := s.showCopies p
  if s.gf R.fmfCqStat_STATE p = 3 ∧ (s.takenOf (32 + p)).isEmpty then
    ((s.sf R.fmfCqStat_STATE p 0).sf R.fmfCqCmd_STATUS p 0).setPast (32 + p) []
  else s

/-- A descriptor ends: CCTR increments. -/
def State.copyEnd (s : State) (p : Nat) (d : RingDesc) (err : Bool) : State :=
  have s : State := s.setTaken (32 + p) ((s.takenOf (32 + p)).filter (fun x => decide (x.uid ≠ d.uid)))
  have s : State := (s.dropXfer (.copy p d.uid)).arrivedAll d.uid (dCctr d)
  have s : State := s.setPast (32 + p) (s.pastOf (32 + p) ++ [d])
  (s.copyInc p d err).copySettle p

/-- A copy that would send weight or adapter bytes to another package fails as its check would (spec/10 R224; DESIGN CHOICE, unsafe; log
entry 100). -/
def State.copyLoud (s : State) (p : Nat) (d : RingDesc) : State :=
  ((s.setBit .fmfErr 0 3).report (source 8 4) 4 1 (some p) d.slot).copyEnd p d true

/-- Issue what a running descriptor moves over the fabric. -/
def State.copyLaunch (s : State) (p : Nat) (d : RingDesc) : State :=
  let who := Issuer.copy p d.uid
  let cs := copyChunks d
  let far := !s.own (qSrc d)
  let loads := if far then cs.map (fun c => (⟨qSrc d + c.1, c.2, c.1, qSkey d⟩ : Seg)) else []
  let red := decide (dKind d = 2)
  let stores := if red then s.redSegs d
    else if s.own (qDst d) then [] else cs.map (fun c => (⟨qDst d + c.1, c.2, c.1, qDkey d⟩ : Seg))
  if loads.isEmpty ∧ stores.isEmpty then s else
  if !far ∧ s.holdsWeights p (fgaOff (qSrc d)) (qLen d) then s.copyLoud p d else
  let r := if far ∨ stores.isEmpty then (s, [], []) else s.copyRead p d cs
  have s : State := r.1.modXfer who (fun x =>
    { x with buf := r.2.1, stores := stores, red := red, failed := r.2.2, status := if r.2.2.isEmpty then x.status else stMedia })
  (s.launch (some p) who 4 loads []).secondHalf who

/-- A descriptor that fails its check (R301). -/
def State.copyFail (s : State) (p : Nat) (d : RingDesc) : State :=
  have s : State := s.setTaken (32 + p) ((s.takenOf (32 + p)).filter (fun x => decide (x.uid ≠ d.uid)))
  have s : State := if s.facetOfDomain (some p) (dCfacet d) then s.copyInc p d true else s
  (s.setBit .fmfErr 0 3).report (source 8 4) 4 1 (some p) d.slot

/-- The next descriptor starts, when `is` names it. -/
def State.copyStart (s : State) (p : Nat) (is : RingDesc → Bool) : State :=
  match s.copyNext p is with
  | none => s
  | some d =>
    have s : State := if dFence d then s.setPast (32 + p) [] else s
    let c := s.copyCheck p d
    if c.1 then (c.2.foldl (fun (t : State) x => t.markTable x) s).copyFail p d else
    have s : State := s.modDesc (32 + p) d.uid (fun x => { x with running := true })
    have s : State := if dKind d = 2 then
        s.setEnt (8192 + qGroup d) { s.ent (8192 + qGroup d) with w3 := qRseq d }
      else s
    have s : State := if s.own (qDst d) then s.expect (dCfacet d) (289 + p) d.uid 0 (s.physOf (some p) (qDst d) (qLen d)) else s
    have s : State := s.showCopies p
    if (s.copyHeld p d).isEmpty then s.copyLaunch p d else s.copyHold p d

/-- NOP completes at once, unless it fails its check, of the bits that every kind reserves and CFACET (R301); a KIND that the table
leaves out fails it. -/
def State.copyNop (s : State) (p : Nat) : State :=
  match s.copyNext p (fun d => decide (dKind d = 0) || decide (dKind d ≥ 3)) with
  | none => s
  | some d =>
    if dKind d = 0 ∧ !copyUnused d ∧ s.facetOfDomain (some p) (dCfacet d) then s.setTaken (32 + p) ((s.takenOf (32 + p)).filter (fun x => decide (x.uid ≠ d.uid)))
    else s.copyFail p d

def execCopyNop (p : Nat) (s : State) : Host.Outcome State Fault Refusal := .next (s.copyNop p)
def execCopy (p : Nat) (s : State) : Host.Outcome State Fault Refusal := .next (s.copyStart p (fun d => dKind d == 1))
def execReduce (p : Nat) (s : State) : Host.Outcome State Fault Refusal := .next (s.copyStart p (fun d => dKind d == 2))

/-! ### Completion -/

/-- Move one chunk to a local destination: its bytes, or free ones where the read or load of the chunk failed. -/
def State.copyChunk (s : State) (p : Nat) (d : RingDesc) (c : Nat × Nat) : State × Bool :=
  let x := s.xferOf (.copy p d.uid)
  let failed := match x with
    | some x => x.failed.any (fun g => decide (g.pos < c.1 + c.2) && decide (c.1 < g.pos + g.len))
    | none => false
  let r := if s.own (qSrc d) then s.copyTake p d c
    else if failed then
      let k := s.fresh
      (k.2, freeBytes k.1 c.2, [0])
    else (s, Sparse.gets zeroByte ((x.map (fun x => x.buf)).getD []) c.1 c.2, [])
  let w := r.1.writeRow (some p) (qDst d + c.1) r.2.1
  (w.1, !r.2.2.isEmpty || !w.2.isEmpty)

/-- The `idx`-th descriptor taken completes: every chunk is written and acknowledged (R301). Overlapping ends leave the
destination undefined. -/
def State.copyComplete (s : State) (p idx : Nat) : State :=
  match (s.takenOf (32 + p))[idx]? with
  | none => s
  | some d =>
    let who := Issuer.copy p d.uid
    if !d.running ∨ dKind d ≠ 1 ∨ !s.xferIdle who ∨ s.fatalNow then s
    else if d.aborted then s.copyEnd p d true
    else if s.xferStatus who = 0 ∧ !(s.copyHeld p d).isEmpty then s.copyHold p d
    else
      let st := s.xferStatus who
      let clash := if s.own (qSrc d) ∧ s.own (qDst d) then
          shared (s.physOf (some p) (qSrc d) (qLen d)) (s.physOf (some p) (qDst d) (qLen d)) else []
      let all := s.physOf (some p) (qDst d) (qLen d)
      let r := if s.own (qDst d) then
          (copyChunks d).foldl (fun (acc : State × Bool) c =>
            let x := acc.1.copyChunk p d c
            (x.1, acc.2 || x.2)) (s, false)
        else (s, false)
      have s : State := if clash.isEmpty then r.1 else r.1.freeRanges all
      s.copyEnd p d (r.2 || st != 0)

def execCopyComplete (p idx : Nat) (s : State) : Host.Outcome State Fault Refusal := .next (s.copyComplete p idx)

/-! ### Reduced chunks (R302, R303) -/

/-- After the last chunk of a REDUCE, CCTR increments. -/
def State.reduceSettle (s : State) (p uid : Nat) : State :=
  match s.descOf (32 + p) uid with
  | none => s
  | some d => if s.xferIdle (.copy p uid) then s.copyEnd p d (d.err || s.xferStatus (.copy p uid) != 0) else s

/-- A chunk fails: counted, and ERR at the end. -/
def State.chunkFail (s : State) (o : FabOp) : State :=
  (s.bump 0x801B 6).completeOp o stReduce []

/-- The partition and number of a copy descriptor. -/
def copyOf : Issuer → Option (Nat × Nat)
  | .copy p u => some (p, u)
  | _ => none

/-- An RDRES frame: the chunk it answers is written at DST + 4,096 j. A fallback port carries none (R304). -/
def State.rdres (s : State) (n : Nat) (f : Frame) : State :=
  s.receive n f fun s =>
    if s.gf R.fmfPortStat_MODE n ≠ 0 then s else
    match s.ops.find? (fun o => decide (o.port = some n) && o.op == 6 && o.key == f.w2.toNat && o.off % 65536 == fld f.w3 15 0) with
    | none => s.bump 0x801B 3
    | some o =>
      if !(frameBase f && frLen f == o.len && (frStatus f != 0 || f.payload.length == o.len)) then s.refuseAnswer n f else
      match copyOf o.who with
      | none => s
      | some (p, uid) =>
        match s.descOf (32 + p) uid with
        | none => s
        | some d =>
          have s : State :=
            if frStatus f ≠ 0 then s.chunkFail o
            else
              let w := s.writeRow (some p) (qDst d + o.pos) (padTo o.len f.payload)
              (w.1.modDesc (32 + p) uid (fun x => { x with err := x.err || !w.2.isEmpty })).completeOp o 0 []
          s.reduceSettle p uid

def execRdres (port : Nat) (fr : Frame) (s : State) : Host.Outcome State Fault Refusal := .next (s.onOp fr 7 fun s => s.rdres port fr)

/-- A chunk that has not completed within 0x4001:02 µs of its issue writes nothing and sets ERR (R302). -/
def State.reductionTimeout (s : State) (p idx chunk : Nat) : State :=
  match (s.takenOf (32 + p))[idx]? with
  | none => s
  | some d =>
    match s.ops.find? (fun o => decide (o.who = .copy p d.uid) && o.op == 6 && o.pos == 4096 * chunk) with
    | none => s
    | some o => ((s.until (o.at_ + s.dnum 0x4001 2 * 1000)).chunkFail o).reduceSettle p d.uid

def execReductionTimeout (p idx chunk : Nat) (s : State) : Host.Outcome State Fault Refusal := .next (s.reductionTimeout p idx chunk)

/-! ### Links that go down (R286, R318) -/

/-- The link goes down: the port leaves every route set, its operations complete with LINK_DOWN, chunks of a
reduction among them, and it returns to step 1 (R286, R302). -/
def State.portDown (s : State) (n : Nat) : State :=
  let mine := s.ops.filter (fun o => decide (o.port = some n))
  have s : State := s.portStart n
  have s : State := (s.bump 0x801B 5).report (source 5 n) 0x22 1 none n
  mine.foldl (fun (t : State) o =>
    match copyOf o.who with
    | some (p, uid) => if o.op = 6 then ((t.bump 0x801B 6).completeOp o stLinkDown []).reduceSettle p uid else t.completeOp o stLinkDown []
    | none => t.completeOp o stLinkDown []) s

/-- No frame from the partner of a native link for 300 µs (R318). -/
def State.linkDown (s : State) (n : Nat) : State :=
  if n < 32 ∧ s.pst n = 4 ∧ s.gf R.fmfPortStat_MODE n = 0 then s.portDown n else s

def execLinkDown (port : Nat) (s : State) : Host.Outcome State Fault Refusal := .next (s.linkDown port)

/-- The link fault status of a fallback port (R318). -/
def State.linkFault (s : State) (n : Nat) : State :=
  if n < 32 ∧ s.pst n = 4 ∧ s.gf R.fmfPortStat_MODE n = 1 then s.portDown n else s

def execLinkFault (port : Nat) (s : State) : Host.Outcome State Fault Refusal := .next (s.linkFault port)

/-- A write to FMF_PORTn_STAT: DOWN = 1 takes the link down for a new bring-up; DOWN reads 0. -/
def State.portDownWrite (s : State) (r : Requester) (n be : Nat) (val : Word) : State :=
  s.gate r .fmfPortStat n fun s =>
    if !bit (val &&& byteMask be).toNat 26 then s
    else if s.pst n = 4 then s.portDown n else s.portStart n

def execPortDownWrite (r : Requester) (port be : Nat) (val : Word) (s : State) : Host.Outcome State Fault Refusal :=
  .next (if port < 32 then s.portDownWrite r port be val else s)

/-! ### Ring commands (R300) -/

/-- Descriptors taken but not started are returned. -/
def State.copyReturn (s : State) (p : Nat) : State :=
  match (s.takenOf (32 + p)).find? (fun d => !d.running) with
  | none => s
  | some d =>
    ((s.setTaken (32 + p) ((s.takenOf (32 + p)).filter (fun x => x.running))).sf R.fmfCqHead_SLOT p d.slot).sf R.fmfCqHead_SEQ p d.seq

/-- A running descriptor ends at its next chunk: a free number of chunks have been moved; CCTR increments with ERR. Operations
that have been issued complete first (R296); no other goes out. -/
def State.copyAbort1 (s : State) (p : Nat) (d : RingDesc) : State :=
  have s : State := { s with
    ops := s.ops.filter (fun o => o.port.isSome || decide (o.who ≠ .copy p d.uid))
    xfers := s.xfers.map (fun x => if x.who = .copy p d.uid then { x with stores := [] } else x) }
  if s.ops.any (fun o => decide (o.who = .copy p d.uid)) then
    s.modDesc (32 + p) d.uid (fun x => { x with aborted := true, err := true })
  else
  let r := s.fresh
  let cs := copyChunks d
  have s : State := if dKind d = 1 ∧ r.2.own (qDst d) ∧ (s.copyHeld p d).isEmpty ∧ r.2.xferIdle (.copy p d.uid) then
      (cs.take (Config.freeVal r.1 0 % (cs.length + 1))).foldl (fun (t : State) c => (t.copyChunk p d c).1) r.2
    else r.2
  ({ s with holds := s.holds.filter (fun h => decide (h.who ≠ Issuer.copy p d.uid)) }).copyEnd p d true

/-- STOP and ABORT. -/
def State.copyHalt (s : State) (p : Nat) (abort : Bool) : State :=
  have s : State := s.copyReturn p
  have s : State := if s.gf R.fmfCqStat_STATE p = 0 then s else s.sf R.fmfCqStat_STATE p 3
  have s : State := if abort then (s.takenOf (32 + p)).foldl (fun (t : State) d => t.copyAbort1 p d) s else s
  s.copySettle p

def State.cqCmd (s : State) (r : Requester) (p code : Nat) (k : State → State × Nat) : State :=
  s.gate r .fmfCqCmd p fun s =>
    let q := k s
    q.1.cmdDone .fmfCqCmd p code q.2

/-- Whether START's operands pass: base, size and slot. -/
def State.cqRingOk (s : State) (p : Nat) : Bool :=
  let b := s.ringBase (32 + p)
  let n := s.gf R.fmfCqCfg_SIZE p
  s.own b && decide (fgaOff b % 4096 = 0) && decide (4 ≤ n) && decide (n ≤ 12) && decide (s.region (fgaOff b) (64 * 2 ^ n) = .carafe) &&
    s.allowed (some p) (fgaOff b) (64 * 2 ^ n) false && decide (s.gf R.fmfCqHead_SLOT p < 2 ^ n)

def execCqStart (r : Requester) (p : Nat) (s : State) : Host.Outcome State Fault Refusal :=
  .next (s.cqCmd r p 1 fun s =>
    if s.gf R.fmfCqStat_STATE p ≠ 0 then (s, 2)
    else if !s.cqRingOk p then (s, 3)
    else (s.sf R.fmfCqStat_STATE p 1, 0))

def execCqStop (r : Requester) (p : Nat) (s : State) : Host.Outcome State Fault Refusal :=
  .next (s.cqCmd r p 2 fun s =>
    have s : State := s.copyHalt p false
    (s, if s.gf R.fmfCqStat_STATE p = 0 then 0 else 1))

def execCqAbort (r : Requester) (p : Nat) (s : State) : Host.Outcome State Fault Refusal :=
  .next (s.cqCmd r p 3 fun s =>
    have s : State := s.copyHalt p true
    (s, if s.gf R.fmfCqStat_STATE p = 0 then 0 else 1))

def cqCard (off : Nat) : Option Card :=
  if off = 0x10 then some .fmfCqRingLo else if off = 0x14 then some .fmfCqRingHi else if off = 0x18 then some .fmfCqCfg
  else if off = 0x20 then some .fmfCqHead else none

/-- A write to a copy ring's registers (`put` merges it): only while it is stopped (R300). -/
def State.cqWrite (s : State) (r : Requester) (p : Nat) (c : Card) (put : State → State) : State :=
  s.gate r c p fun s => if s.gf R.fmfCqStat_STATE p ≠ 0 then s.setBit .fmfErr 0 4 else put s

def execCqRegisterWrite (r : Requester) (p off be : Nat) (val : Word) (s : State) : Host.Outcome State Fault Refusal :=
  .next (match cqCard off with
    | none => s
    | some c => s.write4 r c p be val (fun c put t => t.cqWrite r p c put))

/-! ### Fabric time (R307) -/

/-- The port time comes from: the lowest up near port whose partner offers PTP, otherwise the lowest up far port. -/
def State.ptpPort (s : State) : Option Nat :=
  ((List.range 24).find? (fun n => s.portUp n && (s.linkOf n).ptp)).or (((List.range 8).map (24 + ·)).find? (fun n => s.portUp n))

/-- A PTP exchange with the grandmaster's time: the first lock steps, later ones only slew; TLOCK shows that the offset is
within 100 ns. -/
def State.ptp (s : State) (port : Nat) (x : PtpTime) : State :=
  s.arrive port x.wire x.sec fun s =>
  if s.ptpPort ≠ some port then s else
  let gm := x.gm
  let off : Int := (gm : Int) - (s.time : Int)
  have s : State := s.setN 0x4005 2 (ofSigned 32 off)
  if !s.everLocked then
    (({ s with time := gm % 2 ^ 64, everLocked := true, slew := 0 }).sf R.fmfStat_TLOCK 0 1).setN 0x4005 1 1
  else
    let ok := off.natAbs ≤ 100
    (({ s with slew := off }).sf R.fmfStat_TLOCK 0 (b2n ok)).setN 0x4005 1 (b2n ok)

def execPtpMessage (port : Nat) (gmTime : PtpTime) (s : State) : Host.Outcome State Fault Refusal := .next (s.ptp port gmTime)

/-- One nanosecond passes: fabric time advances, by two or by none on one tick in 10,000 while an offset is being slewed,
so that it slews at no more than 100 µs per second and never runs backward (DESIGN CHOICE, unsafe; log entry 14). -/
def State.tick (s : State) : State :=
  if s.boot.phase = 0 then s else
  have s : State := State.spin { s with mclk := s.mclk + 1 }
  if s.slew ≠ 0 ∧ s.slewTicks ≥ 9999 then
    { s with
      time := if s.slew > 0 then (s.time + 2) % 2 ^ 64 else s.time
      slew := if s.slew > 0 then s.slew - 1 else s.slew + 1
      slewTicks := 0 }
  else { s with time := (s.time + 1) % 2 ^ 64, slewTicks := if s.slew = 0 then 0 else s.slewTicks + 1 }

end Sys2Proof.Machine
end

