-- ==== Sys2Proof/Machine/Cipher.lean ====
section
/-! DEFINITION. The ciphers and the curve that rules name by their public standards (PRESUMED, unsafe; log entry 97: the spec
names the standards and does not print them): AES-256 (FIPS 197) with XTS (IEEE 1619) for spec/09 R209, spec/10 R224 and
spec/14 R321, GCM (NIST SP 800-38D) for spec/10 R229, key wrap (RFC 3394) and ECDH and ECDSA over P-384 (FIPS 186-5) for
spec/10 R226 and spec/16 R365 to R375. -/

namespace Sys2Proof.Machine

/-! ### The field of 256 elements -/

/-- Twice an element, modulo x^8 + x^4 + x^3 + x + 1. -/
def gfTwice (a : Nat) : Nat := if a < 128 then 2 * a else (2 * a) ^^^ 283

/-- The product of two elements, from the low bit of the first up. -/
def gfMul : Nat → Nat → Nat → Nat
  | 0, _, _ => 0
  | n + 1, a, b => (if a % 2 = 1 then b else 0) ^^^ gfMul n (a / 2) (gfTwice b)

/-- The inverse, and 0 for 0: the 254th power, as the product of the squares 2, 4, …, 128. -/
def gfInv (a : Nat) : Nat :=
  ((List.range 7).foldl (fun (q : Nat × Nat) _ => let t := gfMul 8 q.2 q.2; (gfMul 8 q.1 t, t)) (1, a)).1

/-- A byte turned left by `k` bits. -/
def turn (k a : Nat) : Nat := a * 2 ^ k % 256 + a / 2 ^ (8 - k)

def subByte (a : Nat) : Nat :=
  let b := gfInv a
  99 ^^^ b ^^^ turn 1 b ^^^ turn 2 b ^^^ turn 3 b ^^^ turn 4 b

def unsubByte (a : Nat) : Nat := gfInv (5 ^^^ turn 1 a ^^^ turn 3 a ^^^ turn 6 a)

/-- The substitution as tables, worked out once. -/
def subTable : List Nat := (List.range 256).map subByte
def unsubTable : List Nat := (List.range 256).map unsubByte

/-! ### AES-256 -/

def xorB (a b : List Nat) : List Nat := List.zipWith (· ^^^ ·) a b

/-- The next four-byte word of the key schedule; `w` holds the words so far, newest first. -/
def keyWord (i : Nat) (w : List (List Nat)) : List Nat :=
  let last := w.getD 0 []
  let sub := fun (x : List Nat) => x.map (fun b => subTable.getD b 0)
  let mixed := if i % 8 = 0 then xorB (sub (last.drop 1 ++ last.take 1)) [2 ^ (i / 8 - 1), 0, 0, 0] else if i % 8 = 4 then sub last else last
  xorB mixed (w.getD 7 [])

def keyWords : Nat → Nat → List (List Nat) → List (List Nat)
  | 0, _, w => w.reverse
  | n + 1, i, w => keyWords n (i + 1) (keyWord i w :: w)

/-- The fifteen round keys of a 32-byte key. -/
def roundKeys (key : List Byte) : List (List Nat) :=
  let w := keyWords 52 8 (((List.range 8).map (fun i => ((key.drop (4 * i)).take 4).map BitVec.toNat)).reverse)
  (List.range 15).map (fun r => (w.drop (4 * r)).take 4 |>.flatten)

/-- The rows of the state, one byte in four, turned by `k` times their number. -/
def turnRows (k : Nat) (s : List Nat) : List Nat := (List.range 16).map (fun i => s.getD ((i + 4 * (k * (i % 4))) % 16) 0)

/-- Each column multiplied by the circulant of the four factors. -/
def mixBy (m : List Nat) (s : List Nat) : List Nat :=
  (List.range 16).map (fun i =>
    ((List.range 4).map (fun j => gfMul 8 (m.getD ((j + 4 - i % 4) % 4) 0) (s.getD (4 * (i / 4) + j) 0))).foldl (· ^^^ ·) 0)

def aesUp (ks : List (List Nat)) (blk : List Nat) : List Nat :=
  let sub := fun (s : List Nat) => turnRows 1 (s.map (fun b => subTable.getD b 0))
  let mid := ((ks.drop 1).take 13).foldl (fun s k => xorB (mixBy [2, 3, 1, 1] (sub s)) k) (xorB blk (ks.headD []))
  xorB (sub mid) (ks.getD 14 [])

def aesDown (ks : List (List Nat)) (blk : List Nat) : List Nat :=
  let back := fun (s : List Nat) => (turnRows 3 s).map (fun b => unsubTable.getD b 0)
  let mid := ((ks.drop 1).take 13).reverse.foldl (fun s k => mixBy [14, 11, 13, 9] (xorB (back s) k)) (xorB blk (ks.getD 14 []))
  xorB (back mid) (ks.headD [])

def bytesOf (l : List Nat) : List Byte := l.map (BitVec.ofNat 8)

/-- One block of 16 bytes under a 32-byte key. -/
def aesEnc (key blk : List Byte) : List Byte := bytesOf (aesUp (roundKeys key) (blk.map BitVec.toNat))
def aesDec (key blk : List Byte) : List Byte := bytesOf (aesDown (roundKeys key) (blk.map BitVec.toNat))

/-! ### XTS -/

/-- The tweak of the next block: times x modulo x^128 + x^7 + x^2 + x + 1, little-endian. -/
def xtsNext (t : Nat) : Nat := let d := 2 * t; if d < 2 ^ 128 then d else (d - 2 ^ 128) ^^^ 135

def xtsBlocks (f : List Nat → List Nat) : Nat → Nat → List Byte → List Byte
  | 0, _, _ => []
  | n + 1, t, bs =>
    let m := (natLE 16 t).map BitVec.toNat
    bytesOf (xorB (f (xorB ((bs.take 16).map BitVec.toNat) m)) m) ++ xtsBlocks f n (xtsNext t) (bs.drop 16)

/-- AES-256-XTS under a 64-byte key: the tweak is the unit's number. Units here are whole blocks. -/
def xtsEnc (key : List Byte) (unit : Nat) (bs : List Byte) : List Byte :=
  xtsBlocks (aesUp (roundKeys (key.take 32))) (bs.length / 16) (leNat (aesEnc (key.drop 32) (natLE 16 unit))) bs

/-! ### GCM -/

/-- One step of the product in GCM's field: bit 0 is the most significant. -/
def ghMul : Nat → Nat → Nat → Nat
  | 0, _, _ => 0
  | n + 1, x, v => (if x.testBit n then v else 0) ^^^ ghMul n x (v / 2 ^^^ (if v % 2 = 1 then 225 * 2 ^ 120 else 0))

def ghash (h : Nat) : Nat → Nat → List Byte → Nat
  | 0, y, _ => y
  | n + 1, y, bs => ghash h n (ghMul 128 (y ^^^ beNat (padTo 16 (bs.take 16))) h) (bs.drop 16)

/-- Zero bytes up to the next whole block. -/
def fillBlock (bs : List Byte) : List Byte := bs ++ zeros ((16 - bs.length % 16) % 16)

def gcmStream (ks : List (List Nat)) (nonce : List Byte) : Nat → Nat → List Byte
  | 0, _ => []
  | n + 1, i => bytesOf (aesUp ks ((nonce ++ natBE 4 i).map BitVec.toNat)) ++ gcmStream ks nonce n (i + 1)

/-- The tag over associated data and ciphertext, with a 12-byte nonce. -/
def gcmTag (key nonce aad ct : List Byte) : List Byte :=
  let m := fillBlock aad ++ fillBlock ct ++ natBE 8 (8 * aad.length) ++ natBE 8 (8 * ct.length)
  List.zipWith (· ^^^ ·) (aesEnc key (nonce ++ natBE 4 1)) (natBE 16 (ghash (beNat (aesEnc key (zeros 16))) (m.length / 16) 0 m))

/-- AES-256-GCM opening: the plaintext, or nothing where the tag does not fit. -/
def gcmOpen (key nonce aad ct tag : List Byte) : Option (List Byte) :=
  if gcmTag key nonce aad ct = tag then some (List.zipWith (· ^^^ ·) ct (gcmStream (roundKeys key) nonce (ct.length / 16 + 1) 2)) else none

/-! ### Key wrap -/

/-- One step of unwrapping, counted down: the register and the two to eight semiblocks. -/
def unwrapStep (key : List Byte) (n t : Nat) (q : List Byte × List (List Byte)) : List Byte × List (List Byte) :=
  let i := (t - 1) % n
  let a := List.zipWith (· ^^^ ·) q.1 (natBE 8 t)
  let b := aesDec key (a ++ q.2.getD i [])
  (b.take 8, q.2.set i (b.drop 8))

def unwrapSteps (key : List Byte) (n : Nat) : Nat → List Byte × List (List Byte) → List Byte × List (List Byte)
  | 0, q => q
  | t + 1, q => unwrapSteps key n t (unwrapStep key n (t + 1) q)

/-- RFC 3394 unwrapping; nothing where the integrity value does not fit. -/
def keyUnwrap (key wrapped : List Byte) : Option (List Byte) :=
  let n := wrapped.length / 8 - 1
  let q := unwrapSteps key n (6 * n) (wrapped.take 8, (List.range n).map (fun i => (wrapped.drop (8 * i + 8)).take 8))
  if q.1 = List.replicate 8 0xA6 then some q.2.flatten else none

/-! ### P-384 -/

def p384P : Nat := 2 ^ 384 - 2 ^ 128 - 2 ^ 96 + 2 ^ 32 - 1
def p384B : Nat := 0xb3312fa7e23ee7e4988e056be3f82d19181d9c6efe8141120314088f5013875ac656398d8a2ed19d2a85c8edd3ec2aef
/-- The order of the group. -/
def p384N : Nat := 0xffffffffffffffffffffffffffffffffffffffffffffffffc7634d81f4372ddf581a0db248b0a77aecec196accc52973
/-- The base point. -/
def p384G : Option (Nat × Nat) :=
  some (0xaa87ca22be8b05378eb1c71ef320ad746e1d3b628ba79b9859f741e082542a385502f25dbf55296c3a545e3872760ab7,
    0x3617de4a96262c6f5d9e98bf9292dc29f8f41dbd289a147ce9da3113b5f0b8c00a60b1ce1d7e819d7a431d7c90ea0e5f)

/-- Whether 97 bytes are a point of P-384 in SEC1 uncompressed form. -/
def onCurve (bs : List Byte) : Bool :=
  let x := beNat ((bs.drop 1).take 48)
  let y := beNat ((bs.drop 49).take 48)
  bs.length == 97 && bs.headD 0 == 4 && decide (x < p384P) && decide (y < p384P) &&
  y * y % p384P == (x * x * x + (p384P - 3) * x + p384B) % p384P

/-- Power modulo `m`; the exponent has at most `n` bits. -/
def powMod (m : Nat) : Nat → Nat → Nat → Nat
  | 0, _, _ => 1
  | n + 1, a, e => (if e % 2 = 1 then a else 1) * powMod m n (a * a % m) (e / 2) % m

/-- The inverse modulo a prime of 384 bits. -/
def invMod (m a : Nat) : Nat := powMod m 384 (a % m) (m - 2)

/-- The third point of the line through two, mirrored; `none` is the neutral element. -/
def curveAdd (a b : Option (Nat × Nat)) : Option (Nat × Nat) :=
  match a, b with
  | none, b => b
  | a, none => a
  | some (x, y), some (u, v) =>
    if x = u ∧ (y + v) % p384P = 0 then none else
    let num := if x = u then 3 * x * x + p384P - 3 else v + p384P - y
    let den := if x = u then 2 * y else u + p384P - x
    let l := num * invMod p384P den % p384P
    let w := (l * l + 2 * p384P - x - u) % p384P
    some (w, (l * (x + p384P - w) + p384P - y) % p384P)

/-- A multiple of a point; the factor has at most `n` bits. -/
def curveMul : Nat → Nat → Option (Nat × Nat) → Option (Nat × Nat)
  | 0, _, _ => none
  | n + 1, k, a => curveAdd (if k % 2 = 1 then a else none) (curveMul n (k / 2) (curveAdd a a))

def pointOf (bs : List Byte) : Option (Nat × Nat) := some (beNat ((bs.drop 1).take 48), beNat ((bs.drop 49).take 48))

/-- A point in SEC1 uncompressed form. -/
def sec1 (a : Option (Nat × Nat)) : List Byte :=
  match a with
  | none => [0]
  | some q => 4 :: (natBE 48 q.1 ++ natBE 48 q.2)

/-- The x-coordinate of a private key times a public one. -/
def ecdh (d : Nat) (peer : List Byte) : List Byte := natBE 48 (((curveMul 384 d (pointOf peer)).map Prod.fst).getD 0)

/-- ECDSA with SHA-384: whether a signature r ‖ s of a message holds under a public key. -/
def ecdsaOk (pub msg sig : List Byte) : Bool :=
  let r := beNat (sig.take 48)
  let t := beNat ((sig.drop 48).take 48)
  let w := invMod p384N t
  let u := beNat (sha384 msg)
  let q := curveAdd (curveMul 384 (u * w % p384N) p384G) (curveMul 384 (r * w % p384N) (pointOf pub))
  onCurve pub && decide (0 < r) && decide (r < p384N) && decide (0 < t) && decide (t < p384N) &&
  (match q with
   | some x => x.1 % p384N == r
   | none => false)

/-- ECDSA with SHA-384 by a private key and a nonce. -/
def ecdsaBy (d k : Nat) (msg : List Byte) : List Byte :=
  let r := ((curveMul 384 k p384G).map Prod.fst).getD 0 % p384N
  natBE 48 r ++ natBE 48 (invMod p384N k * (beNat (sha384 msg) + r * d) % p384N)

/-- A private key from 56 random bytes, by the method of extra random bits (spec/16 R365). -/
def keyFrom (c : List Byte) : Nat := beNat c % (p384N - 1) + 1

/-! ### The keys that come from the UDS (spec/16 R365) -/

/-- ASCII labels. -/
def labelIdentity : List Byte := bytesOf [73, 68, 69, 78, 84, 73, 84, 89]
def labelAlias : List Byte := bytesOf [65, 76, 73, 65, 83]
def labelDump : List Byte := bytesOf [68, 85, 77, 80]

def udsKey (info : List Byte) (n : Nat) : List Byte := hkdf ((List.range 32).map Config.uds) info n

def identityKey : Nat := keyFrom (udsKey labelIdentity 56)

/-- The device identity public key, in SEC1 form. -/
def devicePublic : List Byte := sec1 (curveMul 384 identityKey p384G)

/-- DEVID. -/
def devId : List Byte := sha384 devicePublic

/-- The alias key of the measurements in slots 0 to 4. -/
def aliasKey (slots : List Byte) : Nat := keyFrom (udsKey (labelAlias ++ slots) 56)

def dumpKey : List Byte := udsKey labelDump 64

end Sys2Proof.Machine
end

