-- ==== Sys2Proof/Machine/Flash.lean ====
section
/-! DEFINITION. The NAND behind the Hopper tier: units as it holds them, the read ladder, stripes, blocks and placement
(spec/09 R209 to R214, R216, R218, R221). `State.hop` holds what the controller's cipher takes and gives: the plain bytes of
each unit. Where the spec leaves a place or an order to the firmware the choices are those of log entry 98. -/

namespace Sys2Proof.Machine

/-! ### Codewords (R209) -/

/-- The bytes of one unit, in the clear. -/
def State.hopUnit (s : State) (u : Nat) : List Byte := Sparse.gets zeroByte s.hop (u * 4096) 4096

/-- The unit as it is encrypted before encoding, under the pool's key and its own number (DESIGN CHOICE, unsafe; log entry 98). -/
def State.hopCipher (s : State) (u : Nat) : List Byte := xtsEnc s.sec.hopKey u (s.hopUnit u)

/-- A codeword: 4,096 bytes of encrypted data, 64 of metadata, 448 of LDPC parity; the spec states neither the metadata nor the
code (DESIGN CHOICE, safe: free values; log entry 105). -/
def State.codeword (s : State) (u : Nat) : List Byte :=
  let body := s.hopCipher u ++ (List.range 64).map (Config.unitMeta u)
  body ++ (List.range 448).map (Config.ldpc body)

/-- The parity unit of a stripe: the exclusive or of its encrypted data units (R211). -/
def State.parityUnit (s : State) (sid : Nat) : List Byte :=
  ((s.flash.placed.filter (fun x => x.sid == sid)).map (fun x => s.hopCipher x.unit)).foldl (List.zipWith (· ^^^ ·)) (zeros 4096)

/-! ### Geometry (R207) -/

/-- Main-area bytes of a die. -/
def Nand.dieBytes (n : Nand) : Nat := n.blocks * n.units * 4096

/-- Dies fitted on a channel: the LUNs of its chip enables. -/
def Nand.fitted (n : Nand) (c : Nat) : Nat := (n.chips.getD c []).foldl (· + ·) 0

/-- Dies in use on a channel: those within 2 TB (R208). -/
def Nand.perChan (n : Nand) (c : Nat) : Nat := if n.dieBytes = 0 then 0 else min (n.fitted c) (2000000000000 / n.dieBytes)

/-- Die `d` is number d / 16 of channel d mod 16; numbers run as far as the channel with the most dies needs. -/
def Nand.dies (n : Nand) : Nat := 16 * ((List.range 16).map n.perChan).foldl max 0
def Nand.has (n : Nand) (d : Nat) : Bool := decide (d / 16 < n.perChan (d % 16))
def Nand.count (n : Nand) : Nat := ((List.range 16).map n.perChan).foldl (· + ·) 0
def Nand.raw (n : Nand) : Nat := n.count * n.dieBytes
def Nand.allBlocks (n : Nand) : Nat := n.dies * n.blocks

/-- The rates at which an interface may train. -/
def nandRates : List Nat := [3600, 3200, 2400, 1600]

/-- The channels that have trained. -/
def Nand.trained (n : Nand) : Nat := ((List.range 16).map (fun c => if nandRates.contains (n.rates.getD c 0) then 2 ^ c else 0)).foldl (· + ·) 0

/-- The dump copy area (R212, R222). -/
def dumpCopyBytes : Nat := 2147483648

/-- Blocks that each die keeps for the dump copy area with its stripes' parity: its last ones (DESIGN CHOICE, unsafe; log entry 98). -/
def State.dumpBlocks (s : State) : Nat :=
  let n := s.flash.nand
  let all := n.count * n.units * 4096
  if all = 0 then 0 else (dumpCopyBytes * 16 / 15 + all - 1) / all

def State.isDump (s : State) (b : Nat) : Bool := decide (s.flash.nand.blocks ≤ b % s.flash.nand.blocks + s.dumpBlocks)

def State.blkDie (s : State) (b : Nat) : Nat := b / s.flash.nand.blocks
/-- The channel of a block's die. -/
def State.blkChannel (s : State) (b : Nat) : Nat := s.blkDie b % 16

/-! ### Blocks -/

def State.blk (s : State) (b : Nat) : FlashBlock := Sparse.get (fun _ => FlashBlock.blank) s.flash.blks b

def State.modFlash (s : State) (g : Flash → Flash) : State := { s with flash := g s.flash }

def State.modBlk (s : State) (b : Nat) (g : FlashBlock → FlashBlock) : State :=
  s.modFlash (fun f => { f with blks := Sparse.put (fun _ => FlashBlock.blank) f.blks b (g (s.blk b)) })

/-- The valid units of a block. -/
def State.unitsOf (s : State) (b : Nat) : List Nat := (s.flash.placed.filter (fun x => x.blk == b)).map (fun x => x.unit)

/-- The channels that serve. -/
def State.liveChans (s : State) : List Nat := (List.range 16).filter (fun c => bit (s.gf R.hopStat_CH_OK 0) c)

/-- Whether a block may be opened: erased, good, in use by nothing, and of the tier pool. -/
def State.openable (s : State) (b : Nat) : Bool :=
  s.flash.nand.has (s.blkDie b) && (s.blk b).fill == 0 && !(s.blk b).bad && !s.isDump b && bit (s.gf R.hopStat_CH_OK 0) (s.blkChannel b) &&
  !s.flash.opens.any (fun o => o.2 == b) && !s.flash.moving.any (fun m => m.2 == b)

/-- Of some blocks, the free one of lowest erase count, and of lowest address on a tie (R214). -/
def State.leastFree (s : State) (l : List Nat) : Option Nat :=
  match l.filter s.openable with
  | [] => none
  | b :: t => some (t.foldl (fun x y => if (s.blk y).erases < (s.blk x).erases then y else x) b)

def State.freeBlock (s : State) : Option Nat := s.leastFree (List.range s.flash.nand.allBlocks)

/-- The block of a stream that is open on a channel, or a new one. -/
def State.openBlock (s : State) (stream ch : Nat) : Option Nat :=
  match s.flash.opens.find? (fun o => o.1 == stream * 16 + ch && decide ((s.blk o.2).fill < s.flash.nand.units)) with
  | some o => some o.2
  | none => s.leastFree ((List.range s.flash.nand.allBlocks).filter (fun b => s.blkChannel b == ch))

def State.setOpen (s : State) (stream ch b : Nat) : State :=
  s.modFlash (fun f => { f with opens := f.opens.filter (fun o => o.1 != stream * 16 + ch) ++ [(stream * 16 + ch, b)] })

/-- An expiry band's length in nanoseconds: 1/16 of the retention limit, at most an hour (R213). -/
def State.bandNs (s : State) : Nat := max 1 (min (s.dnum 0x5061 1 * 62500000) 3600000000000)

/-- The blocks of bands whose interval has ended take no more units (R213). -/
def State.closeBands (s : State) : State :=
  s.modFlash (fun f => { f with opens := f.opens.filter (fun o => o.1 / 16 == 0 || decide (s.time / s.bandNs < o.1 / 16)) })

/-! ### Stripes (R211) -/

/-- The channels that a stripe uses. -/
def State.stripeChans (s : State) (x : Stripe) : List Nat :=
  ((s.flash.placed.filter (fun y => y.sid == x.sid)).map (fun y => s.blkChannel y.blk)) ++ (x.parity.map s.blkChannel).toList

/-- Write the parity unit of a stripe on a channel it does not use; `want` is tried first. -/
def State.writeParity (s : State) (x : Stripe) (want : List Nat) : State :=
  let chans := want ++ s.liveChans.filter (fun c => !(s.stripeChans x).contains c)
  let pick := chans.findSome? (fun c => (s.openBlock x.stream c).map (fun b => (c, b)))
  let put := fun (s : State) (y : Option Nat) =>
    s.modFlash (fun f => { f with stripes := f.stripes.map (fun z => if z.sid = x.sid then { z with parity := y, full := true } else z) })
  match pick with
  | none => put s none
  | some (c, b) => put ((s.setOpen x.stream c b).modBlk b (fun y => { y with fill := y.fill + 1 })) (some b)

/-- Write a unit into a block, as a member of the first stripe of the stream that does not use the block's channel yet; a stripe
is full when its data units and its parity take every channel that serves: 15 and 1, or 14 and 1 (R211, R219). -/
def State.placeIn (s : State) (stream u b : Nat) : State :=
  let ch := s.blkChannel b
  let old := s.flash.stripes.find? (fun x => x.stream == stream && !x.full && !(s.stripeChans x).contains ch)
  let sid := (old.map (fun x => x.sid)).getD s.flash.nextSid
  have s : State := s.modFlash (fun f => { f with
    placed := f.placed ++ [⟨u, b, sid⟩]
    stripes := if old.isSome then f.stripes else f.stripes ++ [⟨sid, stream, none, false⟩]
    nextSid := if old.isSome then f.nextSid else f.nextSid + 1 })
  have s : State := s.modBlk b (fun x => { x with fill := x.fill + 1 })
  if (s.flash.placed.filter (fun x => x.sid == sid)).length + 1 < s.liveChans.length then s
  else s.writeParity ⟨sid, stream, none, true⟩ []

/-- A unit's old place, its move and its stripe's claim on it go. -/
def State.unplace (s : State) (gone : Nat → Bool) : State :=
  s.modFlash (fun f =>
    let l := f.placed.filter (fun x => !gone x.unit)
    { f with
      placed := l, moving := f.moving.filter (fun x => !gone x.1)
      stripes := f.stripes.filter (fun x => !x.full || l.any (fun y => y.sid == x.sid)) })

/-- Write one unit in a stream: into the open block of the first channel its stripe does not use yet (R211, R213). -/
def State.placeUnit (s : State) (stream u : Nat) : State :=
  have s : State := s.unplace (fun x => x == u)
  let used := ((s.flash.stripes.find? (fun x => x.stream == stream && !x.full)).map s.stripeChans).getD []
  let chans := s.liveChans.filter (fun c => !used.contains c) ++ s.liveChans.filter (fun c => used.contains c)
  match chans.findSome? (fun c => (s.openBlock stream c).map (fun b => (c, b))) with
  | none => s
  | some (c, b) => (s.setOpen stream c b).placeIn stream u b

/-- The stream of a unit's stripe: 0 without an expiry, else 1 + its band. -/
def State.unitStream (s : State) (u : Nat) : Nat :=
  match s.flash.placed.find? (fun x => x.unit == u) with
  | some x => ((s.flash.stripes.find? (fun y => y.sid == x.sid)).map (fun y => y.stream)).getD 0
  | none => 0

/-! ### Writing and freeing units (R213, R216, R221) -/

/-- Write bytes from a unit on, in a stream. -/
def State.hopWrite (s : State) (stream frame : Nat) (bs : List Byte) : State :=
  have s : State := { s with
    hop := Sparse.blit zeroByte s.hop (frame * 4096) bs
    hopLost := s.hopLost.filter (fun u => !(decide (frame ≤ u) && decide (u < frame + (bs.length + 4095) / 4096))) }
  (List.range ((bs.length + 4095) / 4096)).foldl (fun (t : State) i => t.placeUnit stream (frame + i)) s

/-- The units that `n` bytes took from a unit on hold nothing any more: no block keeps them, no move of them goes on, and a lost
one is lost no longer. -/
def State.freeUnits (s : State) (frame n : Nat) : State :=
  let gone := fun (u : Nat) => decide (frame ≤ u) && decide (u < frame + (n + 4095) / 4096)
  State.unplace { s with hopLost := s.hopLost.filter (fun u => !gone u) } gone

/-! ### Reading (R210, R218) -/

/-- Whether a block serves: it is good and its channel is not retired. -/
def State.blkServes (s : State) (b : Nat) : Bool := !(s.blk b).bad && bit (s.gf R.hopStat_CH_OK 0) (s.blkChannel b)

/-- Whether a unit can be rebuilt: every other member of its stripe can be read, and the parity unit stands in a block that serves. The
parity of a stripe that still takes units is with the controller until it is written (R211; DESIGN CHOICE, unsafe; log entry 98). -/
def State.rebuildable (s : State) (u : Nat) : Bool :=
  match s.flash.placed.find? (fun x => x.unit == u) with
  | none => false
  | some x =>
    s.flash.stripes.any (fun y => y.sid == x.sid && (!y.full || y.parity.any s.blkServes)) &&
    (s.flash.placed.filter (fun y => y.sid == x.sid && y.unit != u)).all (fun y => !s.hopLost.contains y.unit)

/-- The other units of a stripe are read, its parity unit among them: each read counts for its block (R218). -/
def State.stripeReads (s : State) (x : Placed) : State :=
  let bs := ((s.flash.placed.filter (fun y => y.sid == x.sid && y.unit != x.unit)).map (fun y => y.blk)) ++
    s.flash.stripes.filterMap (fun y => if y.sid = x.sid then y.parity else none)
  bs.foldl (fun (t : State) b => t.modBlk b (fun y => { y with reads := y.reads + 1 })) s

/-- A unit is read. `rung` says how far its own codeword goes: 1 to 3 decode there; at 4 none of those does, and the stripe is
read; at 5 another unit of the stripe cannot be read either. A success beyond rung 1 makes the block due for refresh; a unit that
fails every rung is lost. -/
def State.readUnit (s : State) (u rung : Nat) : State :=
  match s.flash.placed.find? (fun x => x.unit == u) with
  | none => s
  | some x =>
    let ch := s.blkChannel x.blk
    have s : State := s.modBlk x.blk (fun y => { y with reads := y.reads + 1 })
    have s : State := if rung ≥ 4 ∧ !s.hopLost.contains u then s.stripeReads x else s
    if s.hopLost.contains u ∨ rung ≤ 1 then s
    else if rung ≤ 3 ∨ (rung = 4 ∧ s.rebuildable u) then
      have s : State := ((s.bump 0x8017 1).report (source 4 ch) 0x01 0 none x.blk).modBlk x.blk (fun y => { y with due := 1 })
      if rung = 4 then s.bump 0x8017 2 else s
    else State.report { s with hopLost := u :: s.hopLost } (source 4 ch) 0x02 1 none u

/-- The rung that a list gives for a unit: 1 where it names none. -/
def rungOf (rungs : List (Nat × Nat)) (u : Nat) : Nat := ((rungs.find? (fun x => x.1 == u)).map Prod.snd).getD 1

/-- Read units; `rungs` lists those whose read goes beyond rung 1. -/
def State.readUnits (s : State) (us : List Nat) (rungs : List (Nat × Nat)) : State :=
  us.foldl (fun (t : State) u => t.readUnit u (rungOf rungs u)) s

/-- The units that hold `n` bytes from a unit on. -/
def unitSpan (frame n : Nat) : List Nat := (List.range ((n + 4095) / 4096)).map (fun i => frame + i)

/-- Read the units that hold `n` bytes from a unit on. -/
def State.hopReads (s : State) (frame n : Nat) (rungs : List (Nat × Nat)) : State := s.readUnits (unitSpan frame n) rungs

end Sys2Proof.Machine
end

