-- ==== Sys2Proof/Machine/Tiers.lean ====
section
/-! DEFINITION. Memory tiers: frames of the three tiers, mapping commands, migration, holds, and the prefetch schedule
(spec/07 R172 to R194; spec/08 R204). -/

namespace Sys2Proof.Machine

/-! ### Frames (R182, R191) -/

/-- Bytes a page takes in a lower tier: its segment's units when it is compressed (R174). -/
def Leaf.lowLen (l : Leaf) : Nat := if l.cmp then (l.clen + 1) * 4096 else pageBytes l.psize

/-- Bytes of a range. -/
def KvRange.bytes (r : KvRange) : Nat := (r.pages.map (fun g => 2 ^ (12 + g.z))).foldl (· + ·) 0

/-- The ranges of a tier that pages, lower copies, migrations and demoted ranges occupy: bytes for Carafe and the Urn,
and for the Hopper tier units times 4,096. -/
def State.usedIn (s : State) (tier : Nat) : List (Nat × Nat) :=
  let at' := fun (f : Nat) => if tier = 2 then f * 4096 else f
  s.leaves.flatMap (fun l =>
    (if l.tier = tier then [(at' l.frame, if tier = 0 then pageBytes l.psize else l.lowLen)] else []) ++
    (match l.lower with
     | some (t, f) => if t = tier then [(at' f, l.lowLen)] else []
     | none => []) ++
    (match l.mig with
     | some m => if m.tier = tier then [(at' m.frame, if tier = 0 then pageBytes l.psize else l.lowLen)] else []
     | none => [])) ++
  s.ranges.filterMap (fun r =>
    if r.tier = tier ∧ tier ≠ 0 then some (at' r.lower, r.bytes) else none)

/-- Whether a range is free of every used one. -/
def isFree (used : List (Nat × Nat)) (a n : Nat) : Bool := used.all (fun u => decide (a + n ≤ u.1) || decide (u.1 + u.2 ≤ a))

def alignUp (a n : Nat) : Nat := (a + n - 1) / n * n

/-- The lowest aligned place of `n` bytes in a pool that no used range meets. -/
def allocIn (used : List (Nat × Nat)) (lo hi n al : Nat) : Option Nat :=
  let cands := (alignUp lo al :: used.map (fun u => alignUp (u.1 + u.2) al)).filter
    (fun a => decide (lo ≤ a) && decide (a + n ≤ hi) && isFree used a n)
  match cands with
  | [] => none
  | a :: t => some (t.foldl min a)

/-- Bytes of the Hopper tier pool (0x5021:01). -/
def State.hopPool (s : State) : Nat := s.dnum 0x5021 1

/-- Entry (VA[47:21] mod E) of the partition's share (R182). -/
def State.homeOf (s : State) (p va : Nat) : Nat :=
  let l := engineList (s.prt p).mask
  l.getD (va / 0x200000 % l.length) 0

/-- A place in Carafe for a page: a frame of the partition's tiered share in the page's quadrant, part of one for a 4 KiB
page, an aligned run of frames for a 1 GiB page (R182). Which free one is not stated: the first of the share's list, and within a
frame the lowest (DESIGN CHOICE, unsafe; log entry 107). -/
def State.allocCarafe (s : State) (p va psize : Nat) : Option Nat :=
  let used := s.usedIn 0
  let fr := (s.prt p).tierAll
  if psize = 2 then
    (fr.filter (fun f => f % 512 = 0 && (List.range 512).all (fun i => fr.contains (f + i) && isFree used ((f + i) * 0x200000) 0x200000))).head?.map
      (fun f => f * 0x200000)
  else
    let q := s.homeOf p va
    let mine := fr.filter (fun f => f / 8192 == q)
    if psize = 1 then (mine.find? (fun f => isFree used (f * 0x200000) 0x200000)).map (fun f => f * 0x200000)
    else
      -- frames that hold 4 KiB pages of this partition come first
      let small := mine.filter (fun f => s.leaves.any (fun l => l.p == p && l.psize == 0 && l.tier == 0 && l.frame / 0x200000 == f))
      let pick := fun (f : Nat) => allocIn used (f * 0x200000) ((f + 1) * 0x200000) 4096 4096
      match small.findSome? pick with
      | some a => some a
      | none => (mine.find? (fun f => isFree used (f * 0x200000) 0x200000)).map (fun f => f * 0x200000)

/-- A place in the Urn tier pool, or in the Hopper tier (a unit number): the lowest that is free (DESIGN CHOICE, unsafe; log entry
107). -/
def State.allocLow (s : State) (tier n : Nat) : Option Nat :=
  if tier = 1 then allocIn (s.usedIn 1) s.urnPool apertureBase n (if n = 0x200000 ∨ n = 0x40000000 then n else 4096)
  else (allocIn (s.usedIn 2) 0 s.hopPool n 4096).map (fun a => a / 4096)

def State.allocTier (s : State) (p : Nat) (l : Leaf) (tier : Nat) : Option Nat :=
  if tier = 0 then s.allocCarafe p l.va l.psize else s.allocLow tier l.lowLen

/-- Whether a tier is online (TIER_STAT). -/
def State.tierOn (s : State) (t : Nat) : Bool :=
  if t = 0 then true else if t = 1 then s.gf R.tierStat_URN_OK 0 == 1 else s.gf R.tierStat_HOPPER_OK 0 == 1

/-- Free 2 MiB frames of a partition's tiered share, and of the Urn pool. -/
def State.freeFrames (s : State) (p : Nat) : Nat :=
  let used := s.usedIn 0
  ((s.prt p).tierAll.filter (fun f => isFree used (f * 0x200000) 0x200000)).length

def State.freeUrn (s : State) : Nat :=
  (apertureBase - s.urnPool - ((s.usedIn 1).map Prod.snd).foldl (· + ·) 0) / 0x200000

/-! ### Bytes of a page where it lies (R186, R189) -/

/-- `n` bytes from byte `a` of a place of a tier; nothing when a unit that holds some of them is uncorrectable or lost. -/
def State.tierBytes (s : State) (tier frame a n : Nat) : Option (List Byte) :=
  if tier = 2 then
    if s.hopLost.any (fun u => decide (frame + a / 4096 ≤ u) && decide (u < frame + (a + n + 4095) / 4096)) then none
    else some (Sparse.gets zeroByte s.hop (frame * 4096 + a) n)
  else if (s.ucAt (frame + a) n).isEmpty then some (s.readMem (frame + a) n) else none

/-- Bytes at a place of a tier. -/
def State.tierRead (s : State) (tier frame n : Nat) : Option (List Byte) := s.tierBytes tier frame 0 n

/-- A range that is written holds no plaintext of a freed weight page any more (spec/10 R224). -/
def State.overwrite (s : State) (a n : Nat) : State :=
  { s with wtLeft := s.wtLeft.filter (fun x => decide (x.1 + x.2 ≤ a) || decide (a + n ≤ x.1)) }

def State.tierWrite (s : State) (tier frame : Nat) (bs : List Byte) : State :=
  if tier = 2 then s.hopWrite 0 frame bs else ((s.writeMem frame bs).1).overwrite frame bs.length

/-- Count and log the corrected errors that the device's own read of a place met (spec/05 R120). -/
def State.noteEc (s : State) (tier frame n : Nat) : State := if tier = 2 then s else s.reportEc frame n

/-- Whether a tier serves reads: the Hopper tier also while it is read-only (spec/09 R220). -/
def State.tierReads (s : State) (t : Nat) : Bool :=
  if t = 2 then s.gf R.hopStat_STATE 0 == 2 || s.gf R.hopStat_STATE 0 == 3 else s.tierOn t

/-- What expanding or copying a page's source gives: its bytes, a Bloom reason (R200), or a media error. -/
inductive PageBytes where
  | ok (bs : List Byte)
  | corrupt (reason : Nat)
  | media
deriving DecidableEq, Repr

/-- Expand the lower copy of a compressed page, of `n` bytes (R186, R204). The Bloom unit reads the header, the table, the index and the
bodies, and an error anywhere else in the copy is not met (spec/08 R200). -/
def State.expandAt (s : State) (tier frame n len : Nat) : PageBytes :=
  let rd := fun (a k : Nat) => s.tierBytes tier frame a (min k (n - a))
  let r := tampExpand rd (fun _ _ => true) 0 ⟨none, some len, n, len, false⟩
  if r.reason = 0 then .ok r.out else if r.reason = tampMedia then .media else .corrupt r.reason

/-- The bytes of a leaf, as a program would read them. -/
def State.leafBytes (s : State) (l : Leaf) : PageBytes :=
  if l.tier = 0 ∨ !l.cmp then
    match s.tierRead l.tier l.frame (pageBytes l.psize) with
    | some bs => .ok bs
    | none => .media
  else s.expandAt l.tier l.frame l.lowLen (pageBytes l.psize)

/-- A Vertex Bloom unit reports a reason (BLM_ERR). -/
def State.blmReason (s : State) (r : Nat) : State :=
  ((s.sf R.blmErr_REASON 0 (s.gf R.blmErr_REASON 0 ||| 2 ^ (r - 1))).bump 0x8016 1).setN 0x8016 2 r

/-! ### The Vertex Bloom units (spec/08 R204) -/

/-- The class of a use: promotions with held accesses, STAGE actions and PROMOTE entries, the weight loader, promotions without
demand, EXPAND. -/
def State.bloomClass (s : State) (x : BloomFor) : Nat :=
  match x with
  | .promotion p va =>
    if s.holds.any (fun h => h.p == p && h.va == va) then 1
    else if s.moves.any (fun m => m.p == p && m.va == va && !m.cmd) then 2 else 4
  | .stage _ _ => 2
  | .load _ => 3
  | .expand => 5

/-- Free units take the waiting segments: by class, then by arrival; the lowest free unit takes the next (DESIGN CHOICE, unsafe; log
entry 99). -/
def bloomFill : Nat → State → State
  | 0, s => s
  | k + 1, s =>
    let free := (List.range 8).find? (fun u => !s.bloom.any (fun x => x.unit == some u))
    let next := [1, 2, 3, 4, 5].findSome? (fun c => s.bloom.find? (fun x => x.unit.isNone && s.bloomClass x.who == c))
    match free, next with
    | some u, some x =>
      bloomFill k { s with bloom := s.bloom.map (fun y => if y.who = x.who then { y with unit := some u } else y) }
    | _, _ => s

/-- BLM_STAT.BUSY shows the units that expand. -/
def State.bloomShow (s : State) : State :=
  have s : State := bloomFill 8 s
  s.sf R.blmStat_BUSY 0 ((s.bloom.filterMap (fun x => x.unit)).foldl (fun m u => m ||| 2 ^ u) 0)

/-- The part number under which the bytes that a use reads are watched; EXPAND's is 0. -/
def BloomFor.key : BloomFor → Nat
  | .expand => 0
  | .promotion p va => 1 + 3 * (p * 2 ^ 36 + va / 4096)
  | .stage uid va => 2 + 3 * (uid * 2 ^ 36 + va / 4096)
  | .load ctx => 3 + 3 * ctx

/-- Ask for a unit, which will read the ranges `rs` of memory. -/
def State.bloomAsk (s : State) (x : BloomFor) (rs : List (Nat × Nat)) : State :=
  (State.bloomShow { s with bloom := s.bloom ++ [⟨x, none⟩] }).watch none x.key rs

/-- A use gives its unit up. -/
def State.bloomFree (s : State) (x : BloomFor) : State :=
  if s.bloom.any (fun y => decide (y.who = x)) then State.bloomShow { s with bloom := s.bloom.filter (fun y => decide (y.who ≠ x)) } else s

/-- A use ends: its unit is free, and what it reads is watched no more. -/
def State.bloomEnd (s : State) (x : BloomFor) : State :=
  have s : State := s.bloomFree x
  { s with watches := s.watches.filter (fun w => !(w.owner.isNone && w.idx == x.key)) }

/-- Whether a watched range belongs to a segment of a STAGE. -/
def Watch.ofStage (w : Watch) (uid : Nat) : Bool := w.owner.isNone && w.idx % 3 == 2 && (w.idx - 2) / 3 / 2 ^ 36 == uid

/-- What a use comes to: where the segment or its table was written while the unit was to read it, the unit reports it as corrupt or
its output is undefined, and a free value chooses (spec/08 R206). -/
def State.tampered (s : State) (x : BloomFor) (n : Nat) (b : PageBytes) : State × PageBytes :=
  if (s.hitsOf none x.key).isEmpty then (s, b) else
  let k := s.fresh
  let why := Config.freeVal k.1 0 % 12
  (k.2, if why = 0 then .ok (freeBytes k.1 n) else if why = tampMedia then .media else .corrupt why)

/-- Whether a segment still waits for a unit. -/
def State.bloomWaits (s : State) (x : BloomFor) : Bool := s.bloom.any (fun y => decide (y.who = x) && y.unit.isNone)

/-! ### Leaves -/

def State.setLeaf (s : State) (p va : Nat) (g : Leaf → Leaf) : State :=
  { s with leaves := s.leaves.map (fun l => if l.p = p ∧ l.va = va then g l else l) }

def State.leafOf (s : State) (p va : Nat) : Option Leaf := s.leaves.find? (fun l => decide (l.p = p ∧ l.va = va))

/-- The ranges of memory that a Bloom unit reads to expand a page. -/
def Leaf.segRanges (l : Leaf) : List (Nat × Nat) := if l.tier = 1 then [(l.frame, l.lowLen)] else []

/-- Insert a leaf, in ascending order of partition and address. -/
def insLeaf (x : Leaf) : List Leaf → List Leaf
  | [] => [x]
  | l :: t => if l.p < x.p ∨ (l.p = x.p ∧ l.va < x.va) then l :: insLeaf x t else x :: l :: t

/-- Replace a leaf by one whose home is another tier: promotion keeps a read-only source as the lower copy (R182 steps 3
and 4; R183). -/
def Leaf.moved (l : Leaf) (tier frame : Nat) : Leaf :=
  let lower := if tier = 0 then (if l.ro then some (l.tier, l.frame) else none) else none
  { l with tier := tier, frame := frame, mig := none, d := false, lower := lower }

/-- A place of a weight page that is given up: its plaintext stays there until it is written over (spec/10 R224). -/
def State.leaveBytes (s : State) (l : Leaf) (tier frame n : Nat) : State :=
  if tier < 2 ∧ s.weightLeaf l then { s with wtLeft := s.wtLeft ++ [(frame, n)] } else s

/-- What a page that is unmapped, and its lower copy, occupied is given up: units in the Hopper tier hold nothing any more (spec/09
R216). -/
def State.freeLeaf (s : State) (l : Leaf) : State :=
  have s : State := if l.tier = 2 then s.freeUnits l.frame l.lowLen
    else s.leaveBytes l l.tier l.frame (if l.tier = 0 then pageBytes l.psize else l.lowLen)
  match l.lower with
  | some (t, f) => if t = 2 then s.freeUnits f l.lowLen else s.leaveBytes l t f l.lowLen
  | none => s

/-! ### Holds (R179) -/

/-- A descriptor has been held since `t` (spec/12 R282). -/
def State.addHeld (s : State) (who : Issuer) (t : Nat) : State :=
  match who with
  | .pour f uid => s.setPourQ f ((s.facet f).pourQ.map (fun d => if d.uid = uid then { d with held := d.held + (s.time - t) } else d))
  | .drip e uid => s.modDesc e uid (fun d => { d with held := d.held + (s.time - t) })
  | .copy p uid => s.modDesc (32 + p) uid (fun d => { d with held := d.held + (s.time - t) })
  | _ => s

/-- Let an issuer, held since `t`, go on once nothing holds it. -/
def State.unhold (s : State) (who : Issuer) (t : Nat) : State :=
  if s.holds.any (fun h => decide (h.who = who)) then s else
  have s : State := s.addHeld who t
  match who with
  | .pour f uid =>
    match (s.facet f).pourQ.find? (fun d => decide (d.uid = uid)) with
    | some d => s.pourLaunch f d
    | none => s
  | .drip e uid =>
    match s.descOf e uid with
    | some d => s.dripLaunch e d
    | none => s
  | .copy p uid =>
    match s.descOf (32 + p) uid with
    | some d => s.copyLaunch p d
    | none => s
  | .stage _ _ => s
  | .inbox _ => s
  | .job _ => s

/-- Release the accesses held on a page, in arrival order (R182 step 5). -/
def State.release (s : State) (p va : Nat) : State :=
  let mine := s.holds.filter (fun h => h.p == p && h.va == va)
  have s : State := { s with holds := s.holds.filter (fun h => !(h.p == p && h.va == va)) }
  ((mine.map (fun h => (h.who, h.at_))).eraseDups).foldl (fun (t : State) w => t.unhold w.1 w.2) s

/-- The stretches of an issuer's transfer that lie in a page. -/
def State.heldSegs (s : State) (who : Issuer) (va n : Nat) : List Seg :=
  let lo := tieredBase + va
  let cut := fun (x : Nat × Nat × Nat) =>
    let a := fgaOff x.1
    let b := max a lo
    let e := min (a + x.2.1) (lo + n)
    if b < e then some (⟨x.1 + (b - a), e - b, x.2.2 + (b - a), 0⟩ : Seg) else none
  match who with
  | .drip e uid => match s.descOf e uid with
    | some d => (dripRanges d).filterMap (fun x => cut (x.1, x.2.1, x.2.2.2))
    | none => []
  | .copy p uid => match s.descOf (32 + p) uid with
    | some d => [(qSrc d, qLen d, 0), (qDst d, qLen d, 0)].filterMap cut
    | none => []
  | _ => []

/-- A held access ends with a status, which the log records. -/
def State.endHold (s : State) (h : Hold) (st : Nat) : State :=
  let src := match h.who with
    | .pour f _ => source 0 f
    | .drip e _ => source 1 e
    | _ => source 8 4
  State.report { s with holds := s.holds.filter (fun x => decide (x ≠ h)) } src st 1 (some h.p) (s.fga (tieredBase + h.va))

/-- A held access fails with a status: its issuer learns it as R19 says, the log records it, and the rest goes on. -/
def State.failHold (s : State) (h : Hold) (st : Nat) : State :=
  let n := match s.leafOf h.p h.va with
    | some l => pageBytes l.psize
    | none => 4096
  let segs := s.heldSegs h.who h.va n
  let segs := if segs.isEmpty then [⟨s.fga (tieredBase + h.va), n, 0, 0⟩] else segs
  have s : State := segs.foldl (fun (t : State) g => t.failSeg h.who st g) s
  (s.endHold h st).unhold h.who h.at_

def State.failHolds (s : State) (p va st : Nat) : State :=
  (s.holds.filter (fun h => h.p == p && h.va == va)).foldl (fun (t : State) h => t.failHold h st) s

/-- The `idx`-th held access has waited for the hold limit (R179): time has reached the end of its limit. -/
def State.holdTimeout (s : State) (idx : Nat) : State :=
  match s.holds[idx]? with
  | none => s
  | some h => ((s.until (h.at_ + s.dnum 0x5030 1 * 1000)).bump 0x8015 2).failHold h stNotResident

def execHoldTimeout (idx : Nat) (s : State) : Host.Outcome State Fault Refusal := .next (s.holdTimeout idx)

/-! ### Migration (R182 to R186) -/

/-- The move of a page has failed: a media error. -/
def State.failMove (s : State) (p va : Nat) : State :=
  { s with moves := s.moves.map (fun m => if m.p = p ∧ m.va = va then { m with failed := true } else m) }

/-- A failed promotion: counted, the page stays, its held accesses fail with MEDIA, its moves are marked (R181, R186). -/
def State.promoteFail (s : State) (l : Leaf) : State :=
  have s : State := (s.setLeaf l.p l.va (fun x => { x with mig := none })).bump 0x8015 6
  (s.failMove l.p l.va).failHolds l.p l.va stMedia

/-- Report the uncorrectable units that reading a place of the Carafe or the Urn met. -/
def State.noteUc (s : State) (tier frame n : Nat) : State :=
  if tier = 2 then s else (s.ucAt frame n).foldl (fun (t : State) u => t.reportUc u none) s

/-- What reading a page's source for a copy gives; the Hopper tier is not read unless it serves reads (spec/09 R220). Between the
lower tiers a segment moves unchanged (R186). -/
def State.sourceBytes (s : State) (l : Leaf) (expand : Bool) : PageBytes :=
  if !s.tierReads l.tier then .media
  else if l.cmp ∧ !expand then
    match s.tierRead l.tier l.frame l.lowLen with
    | some bs => .ok bs
    | none => .media
  else s.leafBytes l

/-- Copy a page that moves up into its new frame, and replace the leaf; `rungs` lists the Hopper units whose read goes beyond the
first rung (spec/09 R210). -/
def State.promoteInto (s : State) (l : Leaf) (tier frame : Nat) (rungs : List (Nat × Nat)) : State :=
  have s : State := if l.tier = 2 ∧ s.tierReads 2 then s.hopReads l.frame l.lowLen rungs else s.noteEc l.tier l.frame l.lowLen
  let q := s.tampered (.promotion l.p l.va) (pageBytes l.psize) (s.sourceBytes l (tier == 0))
  have s : State := q.1
  match q.2 with
  | .ok bs =>
    have s : State := s.tierWrite tier frame bs
    have s : State := s.setLeaf l.p l.va (fun x => if tier = 0 then x.moved tier frame else { x with tier := tier, frame := frame, mig := none })
    have s : State := if tier = 0 ∧ l.ro then s
      else if l.tier = 2 then s.freeUnits l.frame l.lowLen else s.leaveBytes l l.tier l.frame l.lowLen
    s.release l.p l.va
  | .corrupt r => (s.blmReason r).promoteFail l
  | .media =>
    have s : State := s.noteUc l.tier l.frame l.lowLen
    -- a Bloom unit that is given the segment reports what it cannot read (spec/08 R200)
    (if l.cmp ∧ tier = 0 then s.blmReason tampMedia else s).promoteFail l

/-- Demote a page at once or after its copy: to its lower copy when it has one and D = 0, else into a frame (R183). -/
def State.demoteInto (s : State) (l : Leaf) (tier frame : Nat) : State :=
  let n := if l.tier = 0 then pageBytes l.psize else l.lowLen
  have s : State := s.noteEc l.tier l.frame n
  match s.tierRead l.tier l.frame n with
  | none =>
    ((s.noteUc l.tier l.frame l.lowLen).setLeaf l.p l.va (fun x => { x with mig := none })).failMove l.p l.va
  | some bs =>
    ((s.leaveBytes l l.tier l.frame n).tierWrite tier frame bs).setLeaf l.p l.va (fun x =>
      if l.tier = 0 then { x with tier := tier, frame := frame, mig := none, lower := none }
      else { x with tier := tier, frame := frame, mig := none })

/-- Whether a leaf in Carafe can go back to its lower copy (R183, step 1). -/
def Leaf.drops (l : Leaf) : Bool := l.tier == 0 && l.lower.isSome && !l.d

def Leaf.dropTo (l : Leaf) : Leaf :=
  match l.lower with
  | some (t, f) => { l with tier := t, frame := f, lower := none, mig := none }
  | none => l

/-- A page goes back to its lower copy (R183, step 1). -/
def State.dropLeaf (s : State) (l : Leaf) : State :=
  (s.leaveBytes l l.tier l.frame (pageBytes l.psize)).setLeaf l.p l.va Leaf.dropTo

/-- Whether the tier that a page would be demoted to, its lower copy's or the one below, is online: a demotion that needs a tier that
is offline is not made (R184). -/
def State.canDrop (s : State) (l : Leaf) : Bool :=
  match l.lower with
  | some (t, _) => if l.drops then s.tierOn t else s.tierOn (l.tier + 1)
  | none => s.tierOn (l.tier + 1)

/-- Hints in the order in which their pages are demoted from Carafe, and from the Urn (R185). Of URN and HOPPER, both first from
Carafe, URN goes before (DESIGN CHOICE, unsafe; log entry 99). -/
def demoteOrder (fromUrn : Bool) : List Nat := if fromUrn then [3, 0, 1] else [2, 3, 0, 1]

/-- The clock over candidates of one hint from the hand: pages with A = 1 lose it and are passed over, the first with
A = 0 is taken; a second round finds one whose A the first has cleared (R184). -/
def clockRun : List Leaf → List (Nat × Nat) → Option Leaf × List (Nat × Nat)
  | [], cleared => (none, cleared)
  | l :: t, cleared => if l.a ∧ !cleared.contains (l.p, l.va) then clockRun t ((l.p, l.va) :: cleared) else (some l, cleared)

/-- Whether a page lies in the range of a command that is busy: no automatic migration starts there (R181). -/
def State.commanded (s : State) (l : Leaf) : Bool := (s.prt l.p).trBusy && (s.prt l.p).trRange.contains l.va

/-- The clock of one hint over the partition's Carafe pages, or over the Urn's; a 1 GiB page may not lie in the Hopper tier (R180). The
Urn's pool is of all partitions, and R184 gives ascending VA within one: its clock goes by partition and then by VA (DESIGN CHOICE,
unsafe; log entry 107). -/
def State.clockPick (s : State) (fromUrn : Bool) (p hint : Nat) : Option Leaf × State :=
  let tier := if fromUrn then 1 else 0
  let cand := s.leaves.filter (fun l => (fromUrn || l.p == p) && l.tier == tier && l.mig.isNone && l.hint == hint &&
    !(fromUrn && l.psize == 2) && !s.commanded l && s.canDrop l)
  let key := (if fromUrn then 1000 else p * 8) + hint
  let hand := Sparse.get (fun _ => 0) s.clocks key
  let pos := fun (l : Leaf) => if fromUrn then l.p * 2 ^ 48 + l.va else l.va
  let order := cand.filter (fun l => decide (pos l ≥ hand)) ++ cand.filter (fun l => decide (pos l < hand))
  let r := clockRun (order ++ order) []
  let s' : State := { s with leaves := s.leaves.map (fun l => if r.2.contains (l.p, l.va) then { l with a := false } else l) }
  match r.1 with
  | none => (none, s')
  | some l => (some l, { s' with clocks := Sparse.put (fun _ => 0) s'.clocks key (pos l + 1) })

/-- The page the clocks choose next: the first hint in order that yields one. -/
def lowPick (fromUrn : Bool) (p : Nat) : List Nat → State → Option Leaf × State
  | [], s => (none, s)
  | h :: t, s =>
    let r := s.clockPick fromUrn p h
    match r.1 with
    | some _ => r
    | none => lowPick fromUrn p t r.2

/-- A page goes down at once: to its lower copy, or into a frame of the tier below; left where it is when no frame is free. -/
def State.demoteNow (s : State) (l : Leaf) : State :=
  if l.drops then s.dropLeaf l else
  match s.allocLow (l.tier + 1) l.lowLen with
  | some f => s.demoteInto l (l.tier + 1) f
  | none => s

/-- While the Urn's free frames are below 0x5020:04, demote Urn pages to the Hopper tier (R184). -/
def urnRoom : Nat → State → State
  | 0, s => s
  | k + 1, s =>
    if s.freeUrn ≥ s.dnum 0x5020 4 then s else
    let r := lowPick true 0 (demoteOrder true) s
    match r.1 with
    | none => r.2
    | some l => urnRoom k (r.2.demoteNow l)

/-- While the partition's free frames are below LOWAT, demote its pages to the Urn (R184), or to the lower copies they have (R183). -/
def carafeRoom (p : Nat) : Nat → State → State
  | 0, s => s
  | k + 1, s =>
    if s.freeFrames p ≥ s.gf R.trCfg_LOWAT p then s else
    let r := lowPick false p (demoteOrder false) s
    match r.1 with
    | none => r.2
    | some l => carafeRoom p k ((urnRoom r.2.leaves.length r.2).demoteNow l)

/-- Whether placing a page takes a free frame: a 4 KiB page may go into one that is carved already (R182). -/
def State.takesFrame (s : State) (p : Nat) (l : Leaf) : Bool :=
  match s.allocCarafe p l.va l.psize with
  | some a => !(l.psize == 0 && !isFree (s.usedIn 0) (a / 0x200000 * 0x200000) 0x200000)
  | none => true

/-- Find a place in a tier, after the demotions that the need for it calls for (R184). A need that finds a free frame takes it, also
where the demotions that LOWAT asks for cannot be made (DESIGN CHOICE, unsafe; log entry 107). -/
def State.placeFor (s : State) (p : Nat) (l : Leaf) (tier : Nat) : State × Option Nat :=
  have s : State :=
    if tier = 0 then (if s.takesFrame p l then carafeRoom p s.leaves.length s else s)
    else if tier = 1 then urnRoom s.leaves.length s else s
  (s, s.allocTier p l tier)

/-- Whether a page has a reason to move to a tier: a command, the schedule, a held access; inside the range of a busy command only
the command. -/
def State.wanted (s : State) (l : Leaf) : Option Nat :=
  match s.moves.find? (fun m => decide (m.p = l.p ∧ m.va = l.va) && !m.failed && (m.cmd || !s.commanded l)) with
  | some m => some m.tier
  | none => if !s.commanded l && s.holds.any (fun h => h.p == l.p && h.va == l.va) then some 0 else none

/-- A page starts to move up: a frame is taken and MIG set (R182). -/
def State.pagePromotion (s : State) (p va : Nat) : State :=
  match s.leafOf p va with
  | none => s
  | some l =>
    match s.wanted l with
    | none => s
    | some t =>
      if l.mig.isSome ∨ t ≥ l.tier ∨ !s.tierOn t ∨ !s.tierReads l.tier then s else
      let r := s.placeFor p l t
      match r.2 with
      | none => r.1
      | some f =>
        have s : State := r.1.setLeaf p va (fun x => { x with mig := some ⟨t, f⟩ })
        if t = 0 ∧ l.cmp then s.bloomAsk (.promotion p va) l.segRanges else s

def execPagePromotion (p va : Nat) (s : State) : Host.Outcome State Fault Refusal := .next (s.pagePromotion p va)

/-- Forget the moves that have reached their tier, and those of the schedule that have failed. -/
def State.settleMoves (s : State) : State :=
  { s with moves := s.moves.filter (fun m => match s.leafOf m.p m.va with
    | some l => (l.tier != m.tier || l.mig.isSome) && !(m.failed && !m.cmd)
    | none => false) }

/-! ### Commands that wait for a migration (R181, R185) -/

/-- PIN of a page that is not in Carafe asks for its promotion: true once the page is there, or once the promotion has failed, whose
outcome R185 does not give: the page stays pinned in its tier and the command completes (DESIGN CHOICE, unsafe; log entry 107). -/
def State.pinMove (s : State) (p va : Nat) : State × Bool :=
  match s.leafOf p va with
  | none => (s, true)
  | some l =>
    if l.tier = 0 then (s, true) else
    match s.moves.find? (fun m => m.p == p && m.va == va && m.cmd) with
    | none => ({ s with moves := s.moves ++ [⟨p, va, 0, true, 0, false⟩] }, false)
    | some m => if m.failed then ({ s with moves := s.moves.filter (fun m => !(m.p == p && m.va == va)) }, true) else (s, false)

/-- UNMAP or HINT acts on one page; false while PIN waits for its promotion, in the place of which no move of the schedule goes on. -/
def State.trAct (s : State) (p code hint va : Nat) : State × Bool :=
  if code = 2 then
    have s : State := s.failHolds p va stNotMapped
    have s : State := (s.leaves.filter (fun l => l.p == p && l.va == va)).foldl (fun (t : State) l => t.freeLeaf l) s
    ({ s with
       leaves := s.leaves.filter (fun l => !(l.p == p && l.va == va))
       moves := s.moves.filter (fun m => !(m.p == p && m.va == va))
       -- a page of an adapter slot that is not valid belongs to it no longer (spec/10 R233)
       aslots := s.aslots.map (fun x => if x.p = p then { x with pages := x.pages.filter (fun y => y != va) } else x) }, true)
  else
    have s : State := s.setLeaf p va (fun l => { l with hint := hint })
    if hint = 4 then State.pinMove { s with moves := s.moves.filter (fun m => m.cmd || !(m.p == p && m.va == va)) } p va else (s, true)

/-- Whether a page of a partition is in a migration. -/
def State.migrating (s : State) (p va : Nat) : Bool := s.leaves.any (fun l => l.p == p && l.va == va && l.mig.isSome)

/-- UNMAP or HINT acts on the pages that are in no migration: the state, and the pages it has still to act on. -/
def trActs (p code hint : Nat) : List Nat → State → State × List Nat
  | [], s => (s, [])
  | va :: t, s =>
    if s.migrating p va then
      let q := trActs p code hint t s
      (q.1, va :: q.2)
    else
      let r := s.trAct p code hint va
      let q := trActs p code hint t r.1
      (q.1, if r.2 then q.2 else va :: q.2)

/-- A command that waits goes on with the pages whose migration has ended; when none is left, STATUS reads done. -/
def State.trResume (s : State) (p : Nat) : State :=
  match (s.prt p).trWait with
  | none => s
  | some (code, hint) =>
    let q := trActs p code hint (s.prt p).trLeft s
    if !q.2.isEmpty then q.1.modPrt p (fun x => { x with trLeft := q.2 })
    else
      have t : State := q.1.modPrt p (fun x => { x with trBusy := false, trRange := [], trWait := none, trLeft := [] })
      (t.placeTables.sf R.trCmd_STATUS p 0).sf R.trCmd_CODE p 0

/-- The copy of a promotion ends (R182, R186); `rungs` lists the Hopper units whose read goes beyond the first rung
(spec/09 R210). -/
def State.promotionComplete (s : State) (p va : Nat) (rungs : List (Nat × Nat)) : State :=
  match s.leafOf p va with
  | none => s
  | some l =>
    match l.mig with
    | none => s
    | some m =>
      if m.tier ≥ l.tier ∨ s.bloomWaits (.promotion p va) then s
      else (((s.promoteInto l m.tier m.frame rungs).bloomEnd (.promotion p va)).settleMoves).trResume p

def execPromotionComplete (p va : Nat) (rungs : List (Nat × Nat)) (s : State) : Host.Outcome State Fault Refusal :=
  .next (s.promotionComplete p va rungs)

/-- Whether a need waits for a Carafe frame of a partition, or (`fromUrn`) for an Urn frame (R184). -/
def State.needWaits (s : State) (fromUrn : Bool) (p : Nat) : Bool :=
  s.leaves.any (fun l => (fromUrn || l.p == p) && l.mig.isNone && (match s.wanted l with
    | some t => if fromUrn then t == 1 && l.tier != 1 else t == 0 && l.tier != 0
    | none => false))

/-- Whether a need and the low-water marks call for a demotion of a leaf, and the state its choice leaves (R184). -/
def State.lowWater (s : State) (l : Leaf) : Option State :=
  let fromUrn := l.tier == 1
  let below := if fromUrn then decide (s.freeUrn < s.dnum 0x5020 4) else decide (s.freeFrames l.p < s.gf R.trCfg_LOWAT l.p)
  if !below ∨ l.tier ≥ 2 ∨ !s.needWaits fromUrn l.p then none else
  let r := lowPick fromUrn l.p (demoteOrder fromUrn) s
  match r.1 with
  | some x => if x.p = l.p ∧ x.va = l.va then some r.2 else none
  | none => none

/-- A page starts towards tier `t`: it drops to its lower copy, or a frame is taken and MIG set; a command tries twice. What needs a
tier that is offline is not made (R184). -/
def State.demoteGo (s : State) (p : Nat) (l : Leaf) (va t : Nat) : State :=
  if l.drops then (if s.canDrop l then (s.dropLeaf l).settleMoves else s)
  else if !s.tierOn t then s
  else
    let tried := s.moves.any (fun m => decide (m.p = p ∧ m.va = va ∧ m.cmd) && decide (m.tries ≥ 2))
    if tried then s.failMove p va else
    let r := s.placeFor p l t
    match r.2 with
    | none => r.1
    | some f =>
      have s : State := { r.1 with moves := r.1.moves.map (fun m => if m.p = p ∧ m.va = va then { m with tries := m.tries + 1 } else m) }
      s.setLeaf p va (fun x => { x with mig := some ⟨t, f⟩ })

/-- A page starts to move down, for a command, the schedule or a low-water mark (R183, R184); the schedule's demotion of a page that is
pinned by now is not made (R185, R189). -/
def State.pageDemotion (s : State) (p va : Nat) : State :=
  match s.leafOf p va with
  | none => s
  | some l =>
    if l.mig.isSome then s else
    let go : Option (State × Nat) :=
      match s.moves.find? (fun m => decide (m.p = p ∧ m.va = va) && !m.failed && (m.cmd || !s.commanded l)) with
      | some m => if m.tier > l.tier ∧ (m.cmd ∨ l.hint ≠ 4) then some (s, m.tier) else none
      | none => (s.lowWater l).map (fun t => (t, l.tier + 1))
    match go with
    | none => s
    | some x => x.1.demoteGo p l va x.2

def execPageDemotion (p va : Nat) (s : State) : Host.Outcome State Fault Refusal := .next (s.pageDemotion p va)

/-- The copy of a demotion ends; `ok` false is a media error of the target or the source (R181, R183). -/
def State.demotionComplete (s : State) (p va : Nat) (ok : Bool) : State :=
  match s.leafOf p va with
  | none => s
  | some l =>
    match l.mig with
    | none => s
    | some m =>
      if m.tier ≤ l.tier then s
      else
        have s : State := if ok then s.demoteInto l m.tier m.frame
          else (s.setLeaf p va (fun x => { x with mig := none })).failMove p va
        s.settleMoves.trResume p

def execDemotionComplete (p va : Nat) (ok : Bool) (s : State) : Host.Outcome State Fault Refusal := .next (s.demotionComplete p va ok)

/-! ### TR_CMD (R180, R181) -/

def State.trVa (s : State) (p : Nat) : Nat := s.pair .trVaLo .trVaHi p
def State.trOff (s : State) (p : Nat) : Nat := fgaOff (s.trVa p) - tieredBase
def State.trSize (s : State) (p : Nat) : Nat := pageBytes (s.gf R.trAttr_PSIZE p)

/-- The pages a command names. -/
def State.trPages (s : State) (p : Nat) : List Nat := (List.range (s.gf R.trLen_PAGES p)).map (fun i => s.trOff p + i * s.trSize p)

/-- The leaf that maps a page at exactly the command's size. -/
def State.trLeaf (s : State) (p va : Nat) : Option Leaf :=
  (s.leafOf p va).filter (fun l => l.psize == s.gf R.trAttr_PSIZE p)

/-- Pinned Carafe bytes of a partition, and their limit (0x5030:02). -/
def State.pinned (s : State) (p : Nat) : Nat :=
  ((s.leaves.filter (fun l => l.p == p && l.hint == 4)).map (fun l => pageBytes l.psize)).foldl (· + ·) 0
def State.pinLimit (s : State) (p : Nat) : Nat := (s.prt p).tierAll.length * 0x200000 * s.dnum 0x5030 2 / 100

/-- BAD_ARG of a command (R180 row 3, R185). -/
def State.trBadArg (s : State) (p code : Nat) : Bool :=
  let ps := s.gf R.trAttr_PSIZE p
  let tier := s.gf R.trAttr_TIER p
  let hint := s.gf R.trAttr_HINT p
  let va := s.trVa p
  let n := if code = 5 then s.trSize p else s.gf R.trLen_PAGES p * s.trSize p
  ps == 3 || tier == 3 || (code != 5 && s.gf R.trLen_PAGES p == 0) || !s.own va || decide (fgaOff va < tieredBase) ||
  decide (fgaOff va + n > kvBase) || s.trOff p % s.trSize p != 0 ||
  (ps == 2 && tier == 2) || (code == 3 && ps == 2) ||
  ((code == 1 || code == 4) && decide (hint > 4)) || (code == 1 && hint == 4 && tier != 0)

/-- A new page as a leaf. -/
def State.newLeaf (s : State) (p va : Nat) : Leaf :=
  ⟨p, va, s.gf R.trAttr_PSIZE p, s.gf R.trAttr_TIER p, s.gf R.trAttr_RO p == 1, false, false, false, s.gf R.trAttr_HINT p, 0, 0, none, none⟩

/-- Map pages one by one; nothing when one finds no place. -/
def mapPages (p : Nat) : List Nat → State → Option State
  | [], s => some s
  | va :: t, s =>
    let l := s.newLeaf p va
    let r := s.placeFor p l l.tier
    match r.2 with
    | none => none
    | some f =>
      let n := pageBytes l.psize
      have s : State := if l.tier = 2 then r.1.hopWrite 0 f (zeros n) else (r.1.zeroMem f n).overwrite f n
      mapPages p t { s with leaves := insLeaf { l with frame := f } s.leaves }

/-- The first code that applies; `some 0xFF` stands for an accepted command's effect being possible. -/
def State.trCode (s : State) (r : Requester) (p code : Nat) : Nat :=
  let tier := s.gf R.trAttr_TIER p
  let pages := s.trPages p
  let vf := match r with
    | .vf _ => true
    | _ => false
  if (s.prt p).trBusy then 9
  else if vf && (code == 1 || code == 2 || code == 3) then 7
  else if s.trBadArg p code then 1
  else if (code == 1 || code == 3) && !s.tierOn tier then 8
  else if code == 1 && s.leaves.any (fun l => l.p == p && decide (l.va < s.trOff p + pages.length * s.trSize p) &&
      decide (s.trOff p < l.va + pageBytes l.psize)) then 2
  else if (code == 2 || code == 3 || code == 4) && pages.any (fun va => (s.trLeaf p va).isNone) then 3
  else if code == 2 && pages.any (fun va => s.gens.any (fun g => g.p == p && g.pages.contains va) ||
      s.aslots.any (fun x => x.p == p && x.valid && x.pages.contains va)) then 5
  else if code == 3 && tier != 0 && pages.any (fun va => match s.trLeaf p va with
      | some l => l.hint == 4
      | none => false) then 5
  else if ((code == 1 || code == 4) && s.gf R.trAttr_HINT p == 4) &&
      decide (s.pinned p + ((pages.filter (fun va => match s.trLeaf p va with
        | some l => l.hint != 4
        | none => true)).length) * s.trSize p > s.pinLimit p) then 6
  else 0

/-- Show TR_ROOT from the first MAP on: where the partition's level-1 table stands. -/
def State.trRoot (s : State) (p : Nat) : State :=
  match s.tableAt (p, 1, 0) with
  | some a => s.setPair .trRootLo .trRootHi p (s.fga a)
  | none => s

/-- Whether each page that PIN would promote finds a place. -/
def pinFits (p : Nat) : List Nat → State → Bool
  | [], _ => true
  | va :: t, s =>
    match s.leafOf p va with
    | none => pinFits p t s
    | some l =>
      if l.tier = 0 ∨ l.mig.isSome then pinFits p t s else
      let r := s.placeFor p l 0
      match r.2 with
      | none => false
      | some f => pinFits p t (r.1.setLeaf p va (fun x => { x with mig := some ⟨0, f⟩ }))

/-- Targets of a MIGRATE, placed one after another to see whether the tier holds them. -/
def moveFits (p tier : Nat) : List Nat → State → Bool
  | [], _ => true
  | va :: t, s =>
    match s.leafOf p va with
    | none => moveFits p tier t s
    | some l =>
      if l.tier = tier ∨ l.drops ∨ l.mig.isSome then moveFits p tier t s else
      let r := s.placeFor p l tier
      match r.2 with
      | none => false
      | some f => moveFits p tier t (r.1.setLeaf p va (fun x => { x with mig := some ⟨tier, f⟩ }))

/-- UNMAP or HINT over the range; a page under an automatic migration makes the command wait for it (R181). -/
def State.trRun (s : State) (p code hint : Nat) (pages : List Nat) : State × Nat × Nat :=
  let q := trActs p code hint pages s
  if q.2.isEmpty then (q.1.placeTables, 0, 0)
  else (q.1.modPrt p (fun x => { x with trBusy := true, trRange := pages, trWait := some (code, hint), trLeft := q.2 }), 1, 0)

/-- While a command is being done no automatic migration starts in its range (R181). -/
def State.barRange (s : State) (p : Nat) (pages : List Nat) : State := s.modPrt p (fun x => { x with trBusy := true, trRange := pages })

/-- What an accepted command does: the state, STATUS and CODE. QUERY shows a migration as MIG and waits for none (DEDUCED). -/
def State.trDo (s : State) (p code : Nat) : State × Nat × Nat :=
  let pages := s.trPages p
  match code with
  | 1 =>
    match mapPages p pages (s.barRange p pages) with
    | none => (s, 2, 4)
    | some t =>
      have t : State := t.modPrt p (fun x => { x with trBusy := false, trRange := [] })
      if 4096 * t.tablesInUse.length > t.ptPool then (s, 2, 4) else (t.placeTables.trRoot p, 0, 0)
  | 2 => s.trRun p 2 0 pages
  | 3 =>
    let tier := s.gf R.trAttr_TIER p
    if !moveFits p tier pages (s.barRange p pages) then (s, 2, 4) else
    let todo := pages.filter (fun va => match s.leafOf p va with
      | some l => l.tier != tier || l.mig.isSome
      | none => false)
    if todo.isEmpty then (s, 0, 0) else
    have t : State := { s with
      moves := s.moves.filter (fun m => !(m.p == p && todo.contains m.va)) ++ todo.map (fun va => ⟨p, va, tier, true, 0, false⟩) }
    (t.modPrt p (fun x => { x with trBusy := true, trRange := pages, trWait := none, trLeft := [] }), 1, 0)
  | 4 =>
    let hint := s.gf R.trAttr_HINT p
    if hint = 4 ∧ !pinFits p pages (s.barRange p pages) then (s, 2, 4) else s.trRun p 4 hint pages
  | _ =>
    let w := match s.leafAt p (s.trOff p) with
      | none => 0
      | some l => 2 ^ 31 + l.tier * 2 ^ 29 + l.psize * 2 ^ 27 + b2n l.ro * 2 ^ 26 + b2n l.cmp * 2 ^ 25 + b2n l.d * 2 ^ 24 +
          b2n l.mig.isSome * 2 ^ 23 + l.hint * 2 ^ 20 +
          b2n (l.lower.isSome || l.cmp) * 2 ^ 19
    (s.wr .trInfo p (BitVec.ofNat 32 w), 0, 0)

/-- A write of TR_CMD (R180). -/
def State.trCmd (s : State) (r : Requester) (p code : Nat) : State :=
  s.gate r .trCmd p fun s =>
    let c := s.trCode r p code
    -- a busy command keeps its STATUS; the later one is rejected in CODE
    if c ≠ 0 then s.cmdCode .trCmd p code 2 c
    else
      let d := s.trDo p code
      d.1.cmdCode .trCmd p code d.2.1 d.2.2

def execTrMap (r : Requester) (p : Nat) (s : State) : Host.Outcome State Fault Refusal := .next (s.trCmd r p 1)
def execTrUnmap (r : Requester) (p : Nat) (s : State) : Host.Outcome State Fault Refusal := .next (s.trCmd r p 2)
def execTrMigrate (r : Requester) (p : Nat) (s : State) : Host.Outcome State Fault Refusal := .next (s.trCmd r p 3)
def execTrHint (r : Requester) (p : Nat) (s : State) : Host.Outcome State Fault Refusal := .next (s.trCmd r p 4)
def execTrQuery (r : Requester) (p : Nat) (s : State) : Host.Outcome State Fault Refusal := .next (s.trCmd r p 5)

/-- Every page of a MIGRATE has moved or failed, or a command that waits for migrations can go on (R181). -/
def State.migrateComplete (s0 : State) (p : Nat) : State :=
  have s : State := s0.settleMoves
  if (s.prt p).trWait.isSome then s.trResume p else
  let mine := s.moves.filter (fun m => m.p == p && m.cmd)
  if !(s.prt p).trBusy ∨ mine.any (fun m => !m.failed) then s else
  let bad := !mine.isEmpty
  have s : State := ({ s with moves := s.moves.filter (fun m => !(m.p == p && m.cmd)) }).modPrt p (fun x => { x with trBusy := false, trRange := [] })
  (s.sf R.trCmd_STATUS p (if bad then 3 else 0)).sf R.trCmd_CODE p (if bad then 0xA else 0)

def execMigrateComplete (p : Nat) (s : State) : Host.Outcome State Fault Refusal := .next (s.migrateComplete p)

/-! ### The prefetch schedule (R187 to R190) -/

def State.pfBase (s : State) (p : Nat) : Nat := s.pair .pfBaseLo .pfBaseHi p
def State.pfCursor (s : State) (p : Nat) : Nat := s.pair .pfCursorLo .pfCursorHi p

/-- Words of a schedule entry. -/
structure PfEnt where
  w0 : Nat
  w1 : Nat
  w2 : Nat
  w3 : Nat
deriving DecidableEq, Repr

def State.pfEntry (s : State) (p i : Nat) : PfEnt :=
  let a := fgaOff (s.pfBase p) + 32 * i
  let w := fun (k : Nat) => leNat (s.readMem (a + 8 * k) 8)
  ⟨w 0, w 1, w 2, w 3⟩

def PfEnt.units (x : PfEnt) : Nat := bits x.w3 63 32
def PfEnt.act (x : PfEnt) : Nat := bits x.w0 62 61

/-- The leaves a schedule entry's range meets. -/
def State.pfLeaves (s : State) (p : Nat) (x : PfEnt) : List Leaf :=
  let va := fgaOff x.w1 - tieredBase
  s.leaves.filter (fun l => l.p == p && decide (l.va < va + x.units * 4096) && decide (va < l.va + pageBytes l.psize))

/-- Whether an entry fails (R190). LEN = 0 and a DST of a PROMOTE or DEMOTE that is not 0 break the table of R188, and count as failures
too (DESIGN CHOICE, unsafe; log entry 107). -/
def State.pfBad (s : State) (p : Nat) (x : PfEnt) : Bool :=
  let off := fgaOff x.w1
  let n := x.units * 4096
  let stage := x.act == 1
  let dst := fgaOff x.w2
  bits x.w0 30 0 != 0 || bits x.w3 31 0 != 0 || x.act == 3 || x.units == 0 || !s.own x.w1 || off % 4096 != 0 ||
  decide (off < tieredBase) || decide (off + n > kvBase) ||
  (if stage then
     !s.own x.w2 || dst % 128 != 0 || decide (s.region dst n ≠ .carafe) || !s.allowed (some p) dst n true ||
     !s.facetOfDomain (some p) (bits x.w0 44 37) ||
     (List.range x.units).any (fun i => (s.leafAt p (off - tieredBase + 4096 * i)).isNone)
   else x.w2 != 0)

/-- A failed entry (R190). -/
def State.pfFail (s : State) (p i : Nat) (x : PfEnt) : State :=
  have s : State := if x.act = 1 ∧ s.facetOfDomain (some p) (bits x.w0 44 37) then s.sbInc (bits x.w0 44 37) (bits x.w0 36 31) true else s
  have s : State := s.sf R.pfStat_ERRS p (min 65535 (s.gf R.pfStat_ERRS p + 1))
  s.report (source 8 0xC) (unstatedCode 10) 1 (some p) i

/-- Ask for the moves of a PROMOTE or DEMOTE entry. -/
def State.pfMoves (s : State) (p : Nat) (x : PfEnt) : State :=
  let tier := if x.act = 0 then 0 else 1
  let ls := (s.pfLeaves p x).filter (fun l => (if x.act = 0 then l.tier != 0 else l.tier == 0 && l.hint != 4) &&
    !s.moves.any (fun m => m.p == p && m.va == l.va))
  { s with moves := s.moves ++ ls.map (fun l => ⟨p, l.va, tier, false, 0, false⟩) }

def State.showStages (s : State) (p : Nat) : State :=
  s.sf R.pfStat_ACTIVE p (s.stages.filter (fun x => x.p == p)).length

/-- The device reads entry `i` of a schedule table: errors are reported (spec/05 R120). -/
def State.pfRead (s : State) (p i : Nat) : State :=
  let a := fgaOff (s.pfBase p) + 32 * i
  (s.noteEc 0 a 32).noteUc 0 a 32

/-- Fire the entries whose TRIG has been reached, in index order; a STAGE waits while four run (R189). What a STAGE writes may not be
read before a wait on its counter (spec/01 R15). An entry that cannot be read counts as a failed one (DESIGN CHOICE, unsafe; log entry
107). -/
def pfWalk (p mark : Nat) : Nat → State → State
  | 0, s => s
  | k + 1, s =>
    let i := s.gf R.pfStat_NEXT p
    if i ≥ s.gf R.pfCtl_NENT p then s else
    let x := s.pfEntry p i
    have s : State := s.pfRead p i
    let next := fun (t : State) => pfWalk p mark k (t.sf R.pfStat_NEXT p (i + 1))
    if !(s.ucAt (fgaOff (s.pfBase p) + 32 * i) 32).isEmpty then next (s.pfFail p i ⟨0, 0, 0, 0⟩)
    else if !bit x.w0 63 then next s
    else if bits x.w0 60 45 > mark then s
    else if s.pfBad p x then next (s.pfFail p i x)
    else if x.act = 1 then
      if (s.stages.filter (fun y => y.p == p)).length ≥ 4 then s else
      let u := s.newUid
      have t : State := { u.2 with
        stages := u.2.stages ++ [⟨u.1, p, fgaOff x.w1 - tieredBase, fgaOff x.w2, x.units, bits x.w0 44 37, bits x.w0 36 31⟩] }
      have t : State := ((s.pfLeaves p x).filter (fun l => l.cmp && l.tier != 0)).foldl
        (fun (t : State) l => t.bloomAsk (.stage u.1 l.va) l.segRanges) t
      next ((t.expect (bits x.w0 44 37) (305 + p) u.1 0 [(fgaOff x.w2, 4096 * x.units)]).showStages p)
    else next (s.pfMoves p x)

/-- Whether the cursor and the table lie where R187 and R188 allow. -/
def State.pfPlaced (s : State) (p : Nat) : Bool :=
  s.own (s.pfCursor p) && s.pfCursor p % 64 == 0 && decide (s.region (fgaOff (s.pfCursor p)) 8 = .carafe)

/-- The device reads the cursor word (R187). Before the first read the last value read counts as 0 (DESIGN CHOICE, unsafe; log entry 107). A
word that cannot be read is reported and leaves the walk where it is. -/
def State.cursorPoll (s0 : State) (p : Nat) : State :=
  if p ≥ 16 ∨ s0.gf R.pfCtl_EN p ≠ 1 ∨ (s0.prt p).frozen ∨ !s0.pfPlaced p then s0 else
  have s : State := (s0.noteEc 0 (fgaOff (s0.pfCursor p)) 8).noteUc 0 (fgaOff (s0.pfCursor p)) 8
  if !(s.ucAt (fgaOff (s.pfCursor p)) 8).isEmpty then s else
  let w := leNat (s.readMem (fgaOff (s.pfCursor p)) 8)
  have s : State := if bits (Sparse.get (fun _ => 0) s.cursor p) 63 32 ≠ bits w 63 32 then s.sf R.pfStat_NEXT p 0 else s
  have s : State := { s with cursor := Sparse.put (fun _ => 0) s.cursor p w }
  if s.own (s.pfBase p) ∧ s.pfBase p % 32 = 0 ∧ s.region (fgaOff (s.pfBase p)) (32 * s.gf R.pfCtl_NENT p) = .carafe then
    pfWalk p (bits w 31 0) (s.gf R.pfCtl_NENT p) s
  else s

def execCursorPoll (p : Nat) (s : State) : Host.Outcome State Fault Refusal := .next (s.cursorPoll p)

/-- A STAGE reads what its range needs of a page: the Hopper units that hold the bytes, or the whole segment of a compressed page,
and a Bloom unit reports a segment it cannot expand. The expansion of a segment that was written meanwhile is given back (spec/08
R206). -/
def State.stageRead (s : State) (uid va n : Nat) (rungs : List (Nat × Nat)) (l : Leaf) : State × Option PageBytes :=
  let lo := max va l.va
  let hi := min (va + n) (l.va + pageBytes l.psize)
  let packed := l.tier != 0 && l.cmp
  let at' := if packed then l.frame else l.frame + (lo - l.va) / (if l.tier = 2 then 4096 else 1)
  let len := if packed then l.lowLen else hi - lo
  have s : State := if l.tier = 2 ∧ s.tierReads 2 then s.hopReads at' len rungs else (s.noteEc l.tier at' len).noteUc l.tier at' len
  if !packed then (s, none) else
  let hit := !(s.hitsOf none (BloomFor.stage uid l.va).key).isEmpty
  let q := s.tampered (.stage uid l.va) (pageBytes l.psize) (s.sourceBytes l true)
  (match q.2 with
   | .ok _ => q.1
   | .corrupt r => q.1.blmReason r
   | .media => q.1.blmReason tampMedia, if hit then some q.2 else none)

/-- Read every page of a STAGE: the state, and what the pages whose segments were written meanwhile expand to. -/
def stageReads (uid va n : Nat) (rungs : List (Nat × Nat)) : List Leaf → State → State × List (Nat × PageBytes)
  | [], s => (s, [])
  | l :: t, s =>
    let r := s.stageRead uid va n rungs l
    let q := stageReads uid va n rungs t r.1
    (q.1, (r.2.map (fun b => (l.va, b))).toList ++ q.2)

/-- The bytes of one 4 KiB piece of a tiered range, from wherever its page lies, with the stretches that cannot be had: the
uncorrectable units or the lost Hopper unit of a page copied as it is, the piece whole where its segment is corrupt or unreadable
(R190). -/
def State.stagePiece (s : State) (hit : List (Nat × PageBytes)) (p va : Nat) : List Byte × List (Nat × Nat) :=
  let none' := (zeros 4096, [(0, 4096)])
  match s.leafAt p va with
  | none => none'
  | some l =>
    if !s.tierReads l.tier then none'
    else if l.tier ≠ 0 ∧ l.cmp then
      match ((hit.find? (fun x => x.1 == l.va)).map Prod.snd).getD (s.leafBytes l) with
      | .ok bs => ((bs.drop (va - l.va)).take 4096, [])
      | _ => none'
    else if l.tier = 2 then
      let u := l.frame + (va - l.va) / 4096
      if s.hopLost.contains u then none' else (s.hopUnit u, [])
    else
      let a := l.frame + (va - l.va)
      (s.readMem a 4096, (s.ucAt a 4096).map (fun u => (u - a, unitSize u)))

/-- Bytes of which some stretches are undefined. -/
def spoilBytes (k : Nat) (bad : List (Nat × Nat)) (bs : List Byte) : List Byte :=
  bs.mapIdx (fun i b => if bad.any (fun x => decide (x.1 ≤ i) && decide (i < x.1 + x.2)) then BitVec.ofNat 8 (Config.freeVal k i) else b)

/-- Whether a use is a segment of a STAGE. -/
def BloomFor.ofStage (x : BloomFor) (uid : Nat) : Bool :=
  match x with
  | .stage u _ => u == uid
  | _ => false

/-- The segments of a STAGE are expanded one after another, each by the unit it is given; what the free units take meanwhile follows
their order (spec/08 R204). -/
def stageExpand (uid : Nat) : Nat → State → State
  | 0, s => s
  | k + 1, s =>
    match s.bloom.find? (fun x => x.unit.isSome && x.who.ofStage uid) with
    | none => s
    | some x => stageExpand uid k (s.bloomFree x.who)

/-- The `idx`-th STAGE of a partition finishes, unless a segment of it still waits for a Bloom unit (R189, R190); `rungs` lists the
Hopper units whose read goes beyond the first rung (spec/09 R210). -/
def State.stageComplete (s : State) (p idx : Nat) (rungs : List (Nat × Nat)) : State :=
  match (s.stages.filter (fun x => x.p == p))[idx]? with
  | none => s
  | some g =>
    if (s.prt p).frozen then s else
    have s : State := stageExpand g.uid s.bloom.length s
    if s.bloom.any (fun x => x.who.ofStage g.uid) then s else
    let n := 4096 * g.units
    let u := stageReads g.uid g.src n rungs
      (s.leaves.filter (fun l => l.p == p && decide (l.va < g.src + n) && decide (g.src < l.va + pageBytes l.psize))) s
    have s : State := { u.1 with watches := u.1.watches.filter (fun w => !w.ofStage g.uid) }
    let r := (List.range g.units).foldl (fun (acc : State × Bool) i =>
      let q := acc.1.stagePiece u.2 p (g.src + 4096 * i)
      let k := acc.1.fresh
      let w := k.2.writeRow (some p) (k.2.fga (g.dst + 4096 * i)) (spoilBytes k.1 q.2 q.1)
      (w.1, acc.2 || !q.2.isEmpty || !w.2.isEmpty)) (s, false)
    have s : State := { r.1 with stages := r.1.stages.filter (fun x => decide (x.uid ≠ g.uid)) }
    have s : State := ((s.arrivedAll g.uid g.ctr).noteDelay g.cfacet g.ctr 0).sbInc g.cfacet g.ctr r.2
    let w := Sparse.get (fun _ => 0) s.cursor p
    (if s.gf R.pfCtl_EN p = 1 then pfWalk p (bits w 31 0) (s.gf R.pfCtl_NENT p) s else s).showStages p

def execStageComplete (p idx : Nat) (rungs : List (Nat × Nat)) (s : State) : Host.Outcome State Fault Refusal :=
  .next (s.stageComplete p idx rungs)

/-- A write to PF_CTL (R188): NENT above 4,096 leaves the field and is logged. -/
def State.pfCtlWrite (s : State) (r : Requester) (p be : Nat) (val : Word) : State :=
  s.gate r .pfCtl p fun s =>
    let old := s.gf R.pfCtl_NENT p
    have s : State := s.mergeReg .pfCtl p be val
    if s.gf R.pfCtl_NENT p > 4096 then (s.sf R.pfCtl_NENT p old).report (source 8 0xC) (unstatedCode 11) 1 (some p) p else s

def execPfCtlWrite (r : Requester) (p be : Nat) (val : Word) (s : State) : Host.Outcome State Fault Refusal := .next (s.pfCtlWrite r p be val)

def pfCard (off : Nat) : Option Card :=
  if off = 0x48 then some .pfBaseLo else if off = 0x4C then some .pfBaseHi else if off = 0x50 then some .pfCursorLo
  else if off = 0x54 then some .pfCursorHi else none

/-- A write to PF_BASE or PF_CURSOR (`put` merges it): ignored and logged while EN = 1. -/
def State.pfWrite (s : State) (r : Requester) (p : Nat) (c : Card) (put : State → State) : State :=
  s.gate r c p fun s =>
    if s.gf R.pfCtl_EN p = 1 then s.report (source 8 0xC) (unstatedCode 12) 1 (some p) (s.cardAddr c p) else put s

def execPfAddressWrite (r : Requester) (p off be : Nat) (val : Word) (s : State) : Host.Outcome State Fault Refusal :=
  .next (match pfCard off with
    | none => s
    | some c => s.write4 r c p be val (fun c put t => t.pfWrite r p c put))

/-! ### Reset of a partition's tiers (R194) -/

/-- End every mapping, migration, held access and STAGE of a partition: held accesses fail, with NOT_MAPPED in the log, since the rule
names no status (DESIGN CHOICE, unsafe; log entry 107), and units in the Hopper tier hold nothing any more. -/
def State.resetTiers (s : State) (p : Nat) : State :=
  have s : State := (s.holds.filter (fun h => h.p == p)).foldl (fun (t : State) h => t.endHold h stNotMapped) s
  have s : State := (s.leaves.filter (fun l => l.p == p)).foldl (fun (t : State) l => t.freeLeaf l) s
  let stays := fun (x : BloomFor) => match x with
    | .promotion q _ => q != p
    | .stage u _ => !s.stages.any (fun g => g.p == p && g.uid == u)
    | .load _ => true
    | .expand => true
  State.bloomShow { s with
    bloom := s.bloom.filter (fun x => stays x.who)
    watches := s.watches.filter (fun w => !s.stages.any (fun g => g.p == p && w.ofStage g.uid) &&
      !s.bloom.any (fun x => !stays x.who && w.owner.isNone && w.idx == x.who.key))
    leaves := s.leaves.filter (fun l => l.p != p)
    moves := s.moves.filter (fun m => m.p != p)
    stages := s.stages.filter (fun x => x.p != p)
    cursor := Sparse.put (fun _ => 0) s.cursor p 0
    ptPlaces := s.ptPlaces.filter (fun t => t.1.1 != p)
    tableFaulty := s.tableFaulty.filter (fun t => t.1 != p) }

end Sys2Proof.Machine
end

