-- ==== Sys2Proof/Machine/Hopper.lean ====
section
/-! DEFINITION. The Vertex Bloom units' validation command (spec/08 R204 to R206) and Hopper media management
(spec/09 R207 to R223). Which flash blocks the device samples, collects or finds failing, and when, is what the events
say; the placement rules and what each event brings about are the device's. -/

namespace Sys2Proof.Machine

/-! ### BLM_CMD (spec/08 R205) -/

/-- Whether a range is physical Carafe or Urn memory of this package, out of the page-table pool. -/
def State.plain (s : State) (fga n : Nat) : Bool :=
  s.own fga && (match s.region (fgaOff fga) n with
    | .carafe => decide (fgaOff fga + n ≤ s.carafeSize - s.ptPool)
    | .urn => true
    | _ => false)

def State.blmExpand (s : State) (r : Requester) : State :=
  s.gate r .blmCmd 0 fun s =>
    let src := s.pair .blmSrcLo .blmSrcHi 0
    let dst := s.pair .blmDstLo .blmDstHi 0
    let n := (s.rd .blmDstlen 0).toNat
    let body := if s.plain src 64 then max 64 (tampBodylen (s.readMem (fgaOff src) 64)) else 64
    if src % 64 ≠ 0 ∨ dst % 64 ≠ 0 ∨ !s.plain src body ∨ !s.plain dst n ∨ overlap (fgaOff src, body) (fgaOff dst, n) ∨ s.blmJob.isSome
    then s.cmdCode .blmCmd 0 1 2 0
    else
      let h := s.readMem (fgaOff src) 64
      -- the header apart, since what it says of OUTLEN stands while it is not written
      let read := (fgaOff src, 64) :: (fgaOff src + 64, tampLen h - 64) ::
        (if tampTloc h = 1 then [(fgaOff src - tampBack h, tampTables h)] else [])
      (State.bloomAsk { s with blmJob := some (fgaOff src, fgaOff dst, n) } .expand read).cmdCode .blmCmd 0 1 1 0

def execBlmExpand (r : Requester) (s : State) : Host.Outcome State Fault Refusal := .next (s.blmExpand r)

/-- The expansion ends (R200, R205). OUTLEN beyond the space, reason LAYOUT, writes nothing; any other corrupt segment leaves the
output undefined up to what its header gives, or the whole space where the header cannot be read. A write to the segment or its
table since the command ends it as corrupt or leaves the output undefined (R206): a free value chooses. Where the header was not
written it still bounds the output, and what it alone decides stands. -/
def State.blmDone (s : State) : State :=
  match s.blmJob with
  | none => s
  | some (src, dst, n) =>
    if s.bloomWaits .expand then s else
    let hits := s.hitsOf none 0
    have s : State := State.bloomEnd { s with blmJob := none } .expand
    let place := fun (a k : Nat) => decide (s.region a k = .carafe) || decide (s.region a k = .urn)
    let u : TampUse := ⟨none, none, 2 ^ 40, n, true⟩
    let r := tampExpand s.rdQ place src u
    let loose := hits.contains (src, 64)
    if loose ∨ (!hits.isEmpty ∧ r.reason ∉ [0xB, tampMedia, 0x1, 0x2, 0x8]) then
      let k := s.fresh
      let why := if loose then Config.freeVal k.1 0 % 12 else [0, 3, 4, 5, 6, 7, 9].getD (Config.freeVal k.1 0 % 7) 0
      let len := if loose then Config.freeVal k.1 1 % (n + 1) else min r.outlen n
      have s : State := if why = 8 then k.2 else k.2.freeRanges [(dst, len)]
      if why = 0 then (s.wr .blmOut 0 (BitVec.ofNat 32 len)).cmdCode .blmCmd 0 1 0 0
      else (s.blmReason why).cmdCode .blmCmd 0 1 3 why
    else if r.reason = 0 then
      let w := s.writeMem dst r.out
      ((w.2.foldl (fun (t : State) u => t.reportUc u none) w.1).wr .blmOut 0 (BitVec.ofNat 32 r.outlen)).cmdCode .blmCmd 0 1 0 0
    else
      have s : State := s.blmReason r.reason
      have s : State := if r.reason = 8 then s
        else s.freeRanges [(dst, if r.outlen = 0 ∧ (r.reason = tampMedia ∨ r.reason = 0xB) then n else min r.outlen n)]
      s.cmdCode .blmCmd 0 1 3 r.reason

def execBlmExpandDone (s : State) : Host.Outcome State Fault Refusal := .next s.blmDone

/-! ### State of the tier (R208, R212, R220) -/

def State.hopState (s : State) : Nat := s.gf R.hopStat_STATE 0

/-- The dies that serve: those of a retired channel, or retired whole, do not count. -/
def State.liveDies (s : State) : List Nat :=
  (List.range s.flash.nand.dies).filter (fun d => s.flash.nand.has d && bit (s.gf R.hopStat_CH_OK 0) (d % 16) &&
    !(List.range s.flash.nand.blocks).all (fun b => (s.blk (d * s.flash.nand.blocks + b)).bad))

/-- Spare of a die in percent: its usable blocks beyond those its share of the pool, among the dies that serve, and the stripes' parity
need; the collection headroom, which the spec does not give, is taken as none (DESIGN CHOICE, unsafe; log entry 34). -/
def State.spareOf (s : State) (die : Nat) : Nat :=
  let f := s.flash.nand
  let bad := ((List.range (f.blocks - s.dumpBlocks)).filter (fun b => (s.blk (die * f.blocks + b)).bad)).length
  let need := s.hopPool * 16 / 15 / s.liveDies.length / (f.units * 4096) + 1
  (f.blocks - s.dumpBlocks - bad - need) * 100 / f.blocks

def State.leastSpare (s : State) : Nat := (s.liveDies.map s.spareOf).foldl min 100

/-- Mean erase count in percent of the rated cycles (0x5040:08). -/
def State.wear (s : State) : Nat :=
  min 255 (((s.flash.blks.map (fun x => x.2.erases)).foldl (· + ·) 0) * 100 / (s.flash.nand.count * s.flash.nand.blocks) / s.dnum 0x5040 5)

/-- Enter a state: HOPPER_OK, and demotions that were being written are not made when the tier leaves online (R220). -/
def State.setHop (s : State) (st reason : Nat) : State :=
  have s : State := (s.sf R.hopStat_STATE 0 st).sf R.hopStat_REASON 0 reason
  have s : State := s.sf R.tierStat_HOPPER_OK 0 (b2n (st == 2))
  have s : State := if st = 3 then s.modFlash (fun f => { f with worn := true }) else s
  if st = 2 then s else
  let cut := s.leaves.filter (fun l => l.mig.any (fun m => m.tier == 2))
  have s : State := { s with leaves := s.leaves.map (fun l => if l.mig.any (fun m => m.tier == 2) then { l with mig := none } else l) }
  s.bumpBy 0x8017 7 cut.length

/-- Channels trained and not retired. -/
def channels (mask : Nat) : Nat := ((List.range 16).filter (fun c => bit mask c)).length

/-- Refresh spare and wear, and the states that follow from them. -/
def State.hopCheck (s : State) : State :=
  have s : State := (s.setN 0x5040 9 s.leastSpare).setN 0x5040 8 s.wear
  let lost := 16 - channels (s.gf R.hopStat_CH_OK 0)
  if s.hopState = 2 ∨ s.hopState = 3 then
    if lost ≥ 3 then s.setHop 4 0
    else if lost = 2 ∨ s.leastSpare < 2 then s.setHop 3 0
    else s
  else s

/-- The tier pool for the raw capacity and OP (R212). -/
def poolBytes (raw op : Nat) : Nat := raw * (100 - op) / 100 - dumpCopyBytes

/-! ### Mount and FORMAT (R207, R208, R222, R223) -/

/-- The reason for which a set of dies is refused, in the order of REASON; 0 when none is. -/
def Nand.refusal (n : Nand) (chOk : Nat) : Nat :=
  if n.dieBytes = 0 ∨ (List.range 16).all (fun c => n.fitted c == 0) then 1 else if !n.uniform then 2 else if !n.tlc then 3
  else if 16 - channels chOk > 1 then 4 else 0

/-- Whether the rest of R207's table allows the dies. -/
def Nand.fits (n : Nand) : Bool :=
  decide (n.chips.length = 16) && n.chips.all (fun c => decide (1 ≤ c.length) && decide (c.length ≤ 4) &&
    c.all (fun l => decide (1 ≤ l) && decide (l ≤ 4))) &&
  ((n.page == 16384 && decide (n.spare ≥ 2048)) || (n.page == 32768 && decide (n.spare ≥ 4096))) && n.units * 4096 % n.page == 0

/-- The tier is mounted: its pool is what the last FORMAT made it, and a tier that became read-only stays so (R220). -/
def State.hopOnline (s : State) : State :=
  have s : State := s.setN 0x5021 1 (poolBytes s.flash.nand.raw s.flash.op)
  (s.setHop (if s.flash.worn then 3 else 2) 0).hopCheck

/-- After a cold reset the dies are read and the channels trained; the tier is mounted, refused, offline where its metadata
cannot be read, or left preparing for the format that missing metadata calls for. Dies that R207's table does not allow for
another reason than those of R208 are refused with REASON 0 (DESIGN CHOICE, unsafe; log entry 98). -/
def State.hopMount (s : State) (nand : Nand) : State :=
  -- a channel whose regulated output is latched off counts as one that failed to train (spec/19 R437)
  let live := fun (c : Nat) => bit nand.trained c && !bit (s.rd .regoLatch 0).toNat c && !bit (s.rd .regoLatch 0).toNat (16 + c)
  let chOk := ((List.range 16).map (fun c => if live c then 2 ^ c else 0)).foldl (· + ·) 0
  if s.hopState ≠ 1 ∨ s.flash.nand.dies ≠ 0 then s else
  -- a tier that became read-only stays so on replaced NAND until a FORMAT (R220)
  have s : State := if nand.replaced then
      State.modFlash { s with dumps := [] } (fun f => { Flash.blank with worn := f.worn, swapped := true })
    else s
  have s : State := s.sf R.hopStat_CH_OK 0 (chOk &&& (65535 - s.flash.retired))
  let why := nand.refusal chOk
  if why ≠ 0 then s.setHop 0 why
  else if !nand.fits then s.setHop 0 0
  else
    have s : State := s.modFlash (fun f => { f with nand := nand, op := if f.op = 0 then nand.op else f.op })
    let cut := ((List.range 16).map (fun c => nand.fitted c - nand.perChan c)).foldl (· + ·) 0
    have s : State := if cut ≠ 0 then s.report (source 4 0) (unstatedCode 6) 0 none cut else s
    -- a committed value of the rated cycles stands (spec/17 R390)
    have s : State := if s.boot.journal.any (fun x => x.1 == dkey 0x5040 5) then s else s.setN 0x5040 5 nand.cycles
    -- factory bad blocks are never used (R219)
    have s : State := nand.factory.foldl (fun (t : State) b => t.modBlk b (fun x => { x with bad := true })) s
    have s : State := (s.setN 0x5040 1 nand.raw).setN 0x5040 7
      ((nand.rates.filter (fun r => nandRates.contains r)).foldl min 3600)
    have s : State := ((List.range 16).filter (fun c => !bit chOk c)).foldl (fun (t : State) c => t.report (source 4 c) 0x04 1 none c) s
    if s.flash.unformed ∨ nand.media = 0 then s.modFlash (fun f => { f with unformed := true })
    else if nand.media = 1 then s.hopOnline
    else s.setHop 4 0

def execHopperMount (nand : Nand) (s : State) : Host.Outcome State Fault Refusal := .next (s.hopMount nand)

/-- FORMAT (R223): from here to its end the metadata is not valid. -/
def State.hopFormat (s : State) (r : Requester) : State :=
  s.gate r .hopCmd 0 fun s =>
    let homes := s.leaves.any (fun l => l.tier == 2) || s.ranges.any (fun x => x.tier == 2)
    if homes ∨ s.hopState = 0 ∨ s.hopState = 1 then s.cmdDone .hopCmd 0 1 2
    else ((s.setHop 1 0).modFlash (fun f => { f with unformed := true, scan := [] })).cmdDone .hopCmd 0 1 1

def execHopFormat (r : Requester) (s : State) : Host.Outcome State Fault Refusal := .next (s.hopFormat r)

/-- FORMAT ends: every block but the dump copy area's is erased, factory bad blocks are never used, OP applies; lower copies
that lay in the tier are lost. -/
def State.formatDone (s : State) : State :=
  if s.hopState ≠ 1 ∨ s.flash.nand.dies = 0 ∨ !s.flash.unformed then s else
  let lower := s.leaves.flatMap (fun l => match l.lower with
    | some (t, u) => if t = 2 then (List.range ((l.lowLen + 4095) / 4096)).map (fun i => u + i) else []
    | none => [])
  let after := fun (b : Nat) =>
    let x := s.blk b
    let bad := x.bad || s.flash.nand.factory.contains b
    if s.isDump b then { x with bad := bad } else if bad then { x with fill := 0, due := 0, reads := 0, bad := true }
    else (⟨x.erases + 1, 0, 0, false, 0⟩ : FlashBlock)
  have s : State := State.modFlash { s with hop := [], hopLost := lower } (fun f => { f.emptied with
    op := s.dnum 0x5040 2, unformed := false, worn := f.worn && !f.swapped, swapped := false
    blks := (List.range f.nand.allBlocks).filterMap (fun b => if after b = FlashBlock.blank then none else some (b, after b)) })
  have s : State := s.hopOnline
  if s.gf R.hopCmd_STATUS 0 = 1 then s.sf R.hopCmd_STATUS 0 0 else s

def execFormatDone (s : State) : Host.Outcome State Fault Refusal := .next s.formatDone

/-! ### Moves of units (R214 to R218) -/

/-- Start moving every valid unit of a block into a free one, for a reason (1 refresh, 2 read disturb, 3 another); they commit one by one,
and a refresh or a read-disturb relocation counts when it starts. Without a free block the block stays due for it, and its collection
tries again. -/
def State.relocate (s : State) (b why : Nat) : State :=
  match s.freeBlock with
  | none => s.modBlk b (fun x => { x with due := why })
  | some n =>
    let us := (s.unitsOf b).filter (fun u => !s.flash.moving.any (fun m => m.1 == u))
    have s : State := (s.modFlash (fun f => { f with moving := f.moving ++ us.map (fun u => (u, n)) })).modBlk b (fun x => { x with due := 0 })
    if why = 1 then s.bump 0x8017 5 else if why = 2 then s.bump 0x8017 6 else s

/-- Erase a block that holds no valid unit; parity that other units still need is written elsewhere first (DESIGN CHOICE, unsafe;
log entry 98). -/
def State.eraseBlk (s : State) (b : Nat) : State :=
  if !(s.unitsOf b).isEmpty ∨ (s.blk b).bad ∨ s.isDump b then s else
  have s : State := s.modFlash (fun f => { f with opens := f.opens.filter (fun o => o.2 != b) })
  have s : State := (s.flash.stripes.filter (fun x => x.parity == some b)).foldl
    (fun (t : State) x => t.writeParity { x with parity := none } [t.blkChannel b]) s
  (s.modBlk b (fun x => ⟨x.erases + 1, 0, 0, x.bad, 0⟩)).hopCheck

/-- A moved unit, whose read has come to a rung (R210), commits: reads switch to the new copy, in a stripe of the same stream, and its
old block is erased once it is empty (R216). A unit that could not be read is lost, and no block holds it. -/
def State.unitCommit (s : State) (u rung : Nat) : State :=
  match s.flash.moving.find? (fun m => m.1 == u), s.flash.placed.find? (fun x => x.unit == u) with
  | some m, some old =>
    let stream := s.unitStream u
    have s : State := s.readUnit u rung
    let lost := s.hopLost.contains u
    have s : State := s.unplace (fun x => x == u)
    (if lost then s else s.placeIn stream u m.2).eraseBlk old.blk
  | _, _ => s

def execUnitMoveCommit (unit : UnitRead) (s : State) : Host.Outcome State Fault Refusal := .next (s.unitCommit unit.unit unit.rung)

/-- The latest expiry among a block's units, in fabric time; none when a unit has none. -/
def State.blkExpiry (s : State) (b : Nat) : Option Nat :=
  (s.unitsOf b).foldl (fun acc u =>
    match acc, s.ranges.find? (fun r => r.tier == 2 && decide (r.lower ≤ u) && decide (u < r.lower + (r.bytes + 4095) / 4096)) with
    | some t, some r => some (max t r.expiry)
    | _, _ => none) (some 0)

/-- A block is due for refresh: it is left to expire, or its units move (R217). -/
def State.refreshBlk (s : State) (b : Nat) : State :=
  let leave := match s.blkExpiry b with
    | some t => decide (t < s.time + s.dnum 0x5040 3 * 1000000000)
    | none => false
  if leave then s else s.relocate b 1

/-- A block's sample is read: the rung of R210 that its unit's read comes to (4: its stripe is read, 5: that fails too),
corrected bits in percent of the hard-decision capacity. A pass that SCAN has started ends with its last block. -/
def State.scanBlock (s : State) (b rung corrected : Nat) : State :=
  have s : State := if s.flash.scan.contains b then
      (have t : State := s.modFlash (fun f => { f with scan := f.scan.filter (fun x => x != b) })
       if t.flash.scan.isEmpty ∧ t.gf R.hopCmd_STATUS 0 = 1 ∧ t.gf R.hopCmd_LAST 0 = 2 then t.sf R.hopCmd_STATUS 0 0 else t)
    else s
  match s.unitsOf b with
  | [] => s
  | u :: _ =>
    have s : State := s.readUnit u rung
    have s : State := if s.hopLost.contains u then s.bump 0x8017 3 else s
    if rung < 2 ∧ corrected ≤ 60 then s else s.refreshBlk b

def execScanInterval (blk rung corrected : Nat) (s : State) : Host.Outcome State Fault Refusal := .next (s.scanBlock blk rung corrected)

/-- SCAN: a full pass over the blocks with valid units starts at once (R217). -/
def State.hopScan (s : State) (r : Requester) : State :=
  s.gate r .hopCmd 0 fun s =>
    if s.hopState ≠ 2 ∧ s.hopState ≠ 3 then s.cmdDone .hopCmd 0 2 2 else
    let bs := (s.flash.placed.map (fun x => x.blk)).eraseDups
    (s.modFlash (fun f => { f with scan := bs })).cmdDone .hopCmd 0 2 (b2n !bs.isEmpty)

def execHopScan (r : Requester) (s : State) : Host.Outcome State Fault Refusal := .next (s.hopScan r)

/-- A block's reads have reached the limit (R218). -/
def State.readDisturb (s : State) (b : Nat) : State :=
  if (s.blk b).reads < s.dnum 0x5040 4 ∨ (s.unitsOf b).isEmpty then s
  else s.relocate b 2

def execReadDisturbRelocate (blk : Nat) (s : State) : Host.Outcome State Fault Refusal := .next (s.readDisturb blk)

/-- The blocks of a die. -/
def State.dieBlocks (s : State) (die : Nat) : List Nat := (List.range s.flash.nand.blocks).map (fun b => die * s.flash.nand.blocks + b)

/-- Wear levelling of a die: the least-erased of its blocks in use gives up its units (R214). -/
def State.wearMove (s : State) (die : Nat) : State :=
  let bs := (s.dieBlocks die).filter (fun b => !(s.blk b).bad && !s.isDump b)
  let es := bs.map (fun b => (s.blk b).erases)
  if die ≥ s.flash.nand.dies ∨ !s.flash.nand.has die ∨ bs.isEmpty then s else
  -- both sides of the comparison with the mean, times the number of blocks
  if (es.foldl max 0 * bs.length - es.foldl (· + ·) 0) * 100 ≤ 5 * s.dnum 0x5040 5 * bs.length then s else
  match bs.filter (fun b => (s.blk b).fill != 0) with
  | [] => s
  | b :: t =>
    let least := t.foldl (fun x y => if (s.blk y).erases < (s.blk x).erases then y else x) b
    if (s.unitsOf least).isEmpty then s.eraseBlk least else s.relocate least 3

def execWearLevelMove (die : Nat) (s : State) : Host.Outcome State Fault Refusal := .next (s.wearMove die)

/-- Collection of a block: its valid units move, and it is erased; at once when none is valid (R213, R215). A block that is due
for a refresh or another relocation gets that one; one of a band whose interval has ended is open no more. -/
def State.collect (s0 : State) (b : Nat) : State :=
  have s : State := s0.closeBands
  if (s.blk b).fill = 0 ∨ (s.blk b).bad ∨ s.flash.opens.any (fun o => o.2 == b) then s
  else if (s.unitsOf b).isEmpty then s.eraseBlk b
  else match (s.blk b).due with
    | 1 => s.refreshBlk b
    | 0 => s.relocate b 3
    | why => s.relocate b why

def execCollection (blk : Nat) (s : State) : Host.Outcome State Fault Refusal := .next (s.collect blk)

/-! ### Failures (R219) -/

/-- Units of parts that are retired are rebuilt from their stripes and written elsewhere, each in its stream; one that cannot be
rebuilt, or whose stripe `rungs` says cannot be read, is lost (R211, R221). -/
def State.rebuildUnits (s : State) (us : List Nat) (rungs : List (Nat × Nat)) : State :=
  us.foldl (fun (t : State) u =>
    match t.flash.placed.find? (fun x => x.unit == u) with
    | none => t
    | some x =>
      if t.hopLost.contains u then t.unplace (fun y => y == u)
      else if t.rebuildable u ∧ rungOf rungs u < 5 then ((t.stripeReads x).placeUnit (t.unitStream u) u).bump 0x8017 2
      else State.unplace { t with hopLost := u :: t.hopLost } (fun y => y == u)) s

/-- Parity units in blocks that serve no more are written elsewhere (R211, R219). -/
def State.moveParity (s : State) (gone : Nat → Bool) : State :=
  (s.flash.stripes.filter (fun x => x.parity.any gone)).foldl (fun (t : State) x => t.writeParity { x with parity := none } []) s

/-- Blocks serve no more: they are no longer open, and no move goes into them. -/
def State.closeBlocks (s : State) (gone : Nat → Bool) : State :=
  s.modFlash (fun f => { f with opens := f.opens.filter (fun o => !gone o.2), moving := f.moving.filter (fun m => !gone m.2) })

/-- A die is retired whole. -/
def State.dieRetire (s : State) (die : Nat) (rungs : List (Nat × Nat)) : State :=
  let us := (s.flash.placed.filter (fun x => s.blkDie x.blk == die)).map (fun x => x.unit)
  have s : State := (s.dieBlocks die).foldl (fun (t : State) b => t.modBlk b (fun x => { x with bad := true })) s
  ((s.closeBlocks (fun b => s.blkDie b == die)).rebuildUnits us rungs).moveParity (fun b => s.blkDie b == die)

/-- A program or erase failure retires the block; its data is rewritten elsewhere, its parity units too. What it held before is read
there, and `rungs` lists the units whose reads go beyond rung 1. A die that fails repeatedly is retired. -/
def State.programFailure (s : State) (b : Nat) (rungs : List (Nat × Nat)) : State :=
  if (s.blk b).bad ∨ b ≥ s.flash.nand.allBlocks then s else
  let us := s.unitsOf b
  have s : State := (s.modBlk b (fun x => { x with bad := true })).closeBlocks (fun x => x == b)
  have s : State := (s.bump 0x8017 4).report (source 4 (s.blkChannel b)) 0x03 1 none b
  have s : State := s.readUnits (us.filter (fun u => rungs.any (fun x => x.1 == u))) rungs
  have s : State := us.foldl (fun (t : State) u =>
    if t.hopLost.contains u then t.unplace (fun y => y == u) else t.placeUnit (t.unitStream u) u) s
  have s : State := s.moveParity (fun x => x == b)
  let die := s.blkDie b
  let grown := ((s.dieBlocks die).filter (fun x => (s.blk x).bad && !s.flash.nand.factory.contains x)).length
  (if Config.dieRetires grown then s.dieRetire die rungs else s).hopCheck

def execProgramFailure (blk : MediaLoss) (s : State) : Host.Outcome State Fault Refusal := .next (s.programFailure blk.part blk.rungs)

/-- A channel is retired whole: its units are rebuilt into the others (R211, R219). -/
def State.channelRetire (s : State) (ch : Nat) (rungs : List (Nat × Nat)) : State :=
  if ch ≥ 16 ∨ !bit (s.gf R.hopStat_CH_OK 0) ch then s else
  let us := (s.flash.placed.filter (fun x => s.blkChannel x.blk == ch)).map (fun x => x.unit)
  have s : State := s.sf R.hopStat_CH_OK 0 (s.gf R.hopStat_CH_OK 0 - 2 ^ ch)
  have s : State := (s.modFlash (fun f => { f with retired := f.retired ||| 2 ^ ch })).closeBlocks (fun b => s.blkChannel b == ch)
  (((s.report (source 4 ch) 0x04 1 none ch).rebuildUnits us rungs).moveParity (fun b => s.blkChannel b == ch)).hopCheck

def execChannelRetire (ch : MediaLoss) (s : State) : Host.Outcome State Fault Refusal := .next (s.channelRetire ch.part ch.rungs)

end Sys2Proof.Machine
end

