-- ==== Sys2Proof/Machine/Kv.lean ====
section
/-! DEFINITION. The key-value cache's pages: pools and ownership, page commands, layouts, the block-hash index, the radix
tree, published and retained ranges (spec/06 R143 to R155, R161 to R171). -/

namespace Sys2Proof.Machine

/-! ### The lead, handles (spec/11 R239, R240) -/

/-- The lead package a partition's entry names (R239). -/
def State.leadOf (s : State) (p : Nat) : Nat := s.dnum 0x6002 (p + 1)

/-- Whether this package is the lead of a partition. -/
def State.isLead (s : State) (p : Nat) : Bool := s.idValid && s.leadOf p == s.pkg

def handleOf (gen slot part : Nat) : Nat := gen * 65536 + slot * 16 + part
def hGen (h : Nat) : Nat := bits h 31 16
def hSlot (h : Nat) : Nat := bits h 15 4
def hPart (h : Nat) : Nat := bits h 3 0

def Ticket.handle (t : Ticket) (slot : Nat) : Nat := handleOf t.gen slot t.part

/-- The check of an operation that names a handle: 5 NOT_ACTIVE, 1 STALE, 0 (R240). A handle of the slot's present generation
with another partition names no ticket: NOT_ACTIVE (DESIGN CHOICE, unsafe; log entry 54). -/
def State.handleCode (s : State) (h : Nat) : Nat :=
  let t := s.ticket (hSlot h)
  if t.state = 0 then 5 else if t.gen ≠ hGen h then 1 else if t.part ≠ hPart h then 5 else 0

/-- The step that runs, or that ran last. -/
def Rail.cur (r : Rail) : StepRec := r.hist.getLastD ⟨0, 0, 0, [], [], [], 0⟩

def StepRec.entries (x : StepRec) : List StepEntry := x.decode ++ x.prefill

/-- Whether a handle takes part in a step that has not ended: the one that runs, or in a torn partition the one that is still to be
replayed (spec/14 R329). -/
def State.inStep (s : State) (h : Nat) : Bool :=
  let r := s.rail (hPart h)
  (r.running || (bit (s.gf R.fltStat_TORN 0) (hPart h) && r.cur.results.isEmpty)) && r.cur.entries.any (fun e => e.handle == h)

/-! ### Layouts (R143, R145, R154) -/

def State.kvEn (s : State) (p l : Nat) : Bool := s.gf R.kvLayout_EN (p * 256 + l) == 1
def State.kvEsize (s : State) (p l : Nat) : Nat := 128 * (s.gf R.kvLayout_ESZ (p * 256 + l) + 1)

/-- The layer windows that hold pages. -/
def State.kvLayers (s : State) (p : Nat) : List Nat := (List.range 256).filter (fun l => s.kvEn p l)

/-- A ticket's home engine for a layer window (R148). -/
def State.kvHome (s : State) (p slot l : Nat) : Nat :=
  let es := engineList (s.prt p).mask
  es.getD ((slot + l) % es.length) 0

/-- A write of KV_LAYOUT (R154). -/
def State.kvLayoutWrite (s : State) (r : Requester) (p l be : Nat) (val : Word) : State :=
  s.gate r .kvLayout (p * 256 + l) fun s =>
    if !(s.liveSlots p).isEmpty ∨ s.ranges.any (fun x => x.p == p) then
      s.report (source 8 0xC) (unstatedCode 7) 1 (some p) (s.cardAddr .kvLayout (p * 256 + l))
    else s.mergeReg .kvLayout (p * 256 + l) be val

def execKvLayoutWrite (r : Requester) (p l be : Nat) (val : Word) (s : State) : Host.Outcome State Fault Refusal :=
  .next (s.kvLayoutWrite r p l be val)

/-! ### Pools (R149) -/

/-- The pages that hold places of the pools: private pages and the pages of ranges in Carafe, as place and class. -/
def State.kvHeld (s : State) : List (Nat × Nat) :=
  (s.kvPages.filter (fun g => g.shared.isNone)).map (fun g => (g.addr, g.z)) ++
  (s.ranges.filter (fun r => r.tier == 0)).flatMap (fun r => r.pages.map (fun g => (g.addr, g.z)))

/-- The places of one class in a frame. -/
def kvPlaces (fr z : Nat) : List Nat := (List.range (2 ^ (9 - z))).map (fun i => fr * 0x200000 + i * 2 ^ (12 + z))

/-- Frames of a pool that nothing holds and no class has carved. -/
def State.kvFreeFrames (s : State) (p e : Nat) : List Nat :=
  let held := s.kvHeld
  (s.prt p).kvPool.filter (fun f => f / 8192 == e && !(s.prt p).kvCarve.any (fun c => c.1 == f) &&
    !held.any (fun x => x.1 / 0x200000 == f))

/-- The lowest of a list of addresses. -/
def lowest : List Nat → Option Nat
  | [] => none
  | a :: t => some (t.foldl min a)

/-- Take a page of class `z` from engine `e`'s pool (R149); the shadow space must hold a newly used frame (`room`, R325). -/
def State.kvTake (s : State) (p e z : Nat) (room : Bool) : Option (Nat × State) :=
  let held := s.kvHeld
  let carved := ((s.prt p).kvCarve.filter (fun c => c.2 == z && c.1 / 8192 == e)).flatMap (fun c => kvPlaces c.1 z)
  match (if z = 9 then none else lowest (carved.filter (fun a => !held.any (fun x => x.1 == a)))) with
  | some a => some (a, s)
  | none =>
    match lowest (s.kvFreeFrames p e) with
    | none => none
    | some f =>
      if !room then none
      else some (f * 0x200000, if z = 9 then s else s.modPrt p (fun x => { x with kvCarve := x.kvCarve ++ [(f, z)] }))

/-- Carved frames whose pages are all free return to the pool (R149). -/
def State.kvUncarve (s : State) (p : Nat) : State :=
  let held := s.kvHeld
  s.modPrt p (fun x => { x with kvCarve := x.kvCarve.filter (fun c => held.any (fun h => h.1 / 0x200000 == c.1)) })

/-! ### The shadow space (spec/14 R319, R320, R325) -/

/-- The shadow peers; shadows are written while all eight are named and the identifier is valid (R319). -/
def State.shadowsOn (s : State) : Bool := s.idValid && (List.range 8).all (fun j => s.dnum 0x8021 (j + 1) != 0xFFFF)

/-- Units of 2 MiB in the shadow space. -/
def State.shadowUnits (s : State) : Nat := (8 * (s.shadowSize / 8 - 4096) - 0x40000000) / 0x200000

/-- The frames of the reserved space that hold a lead's stores (R321): how many is a free value, at most what the space has beside
the inbox; they are taken from its second frame on (DESIGN CHOICE, unsafe; log entry 110). -/
def State.storeFrames (s : State) : List Nat :=
  if (List.range 16).any (fun p => s.isLead p) then (List.range (Config.storeFrames % 512)).map (fun i => s.reservedFrom / 0x200000 + 1 + i) else []

/-- The frames that R321 has shadowed: those of the key-value pools other than retained ranges, the step frames, the page-table pool, a
lead's stores. -/
def State.shadowFrames (s : State) : List Nat :=
  let pools : List Nat := (s.kvPages.filter (fun g => g.shared.isNone)).map (fun g => g.addr / 0x200000)
  let published : List Nat := (s.ranges.filter (fun r => r.published)).flatMap (fun r => r.pages.map (fun g => g.addr / 0x200000))
  let steps : List Nat := (s.parts.filter (fun x => x.2.tcount != 0)).map (fun x => x.2.stepFrame)
  let tables : List Nat := (List.range (s.ptPool / 0x200000)).map (fun i => (s.carafeSize - s.ptPool) / 0x200000 + i)
  (pools ++ published ++ steps ++ tables ++ s.storeFrames).eraseDups

/-- Units in use: the frames of R321 and the weight stripes. -/
def State.shadowUsed (s : State) : Nat :=
  s.shadowFrames.length + (s.mosaic.stripes.map (fun x => x.n)).foldl (· + ·) 0

def State.shadowRoom (s : State) : Bool := !s.shadowsOn || decide (s.shadowUsed < s.shadowUnits)

/-! ### Ends and demotion of ranges (R152, R169, R170) -/

/-- Forget the ranges that have ended and whose pages no ticket maps; unmapped pages of ended ranges return at once. -/
def State.reapRanges (s : State) : State :=
  have s : State := { s with ranges := s.ranges.map (fun r =>
    if r.ended then { r with pages := r.pages.filter (fun g => g.refs != 0) } else r) }
  { s with ranges := s.ranges.filter (fun r => !(r.ended && r.pages.isEmpty)) }

def State.rangeOf (s : State) (id : Nat) : Option KvRange := s.ranges.find? (fun r => r.id == id)

/-- Whether two range pages, or a range page and what maps it, are the same page. -/
def RangePage.is (x : RangePage) (addr layer n : Nat) : Bool := x.addr == addr && x.layer == layer && x.n == n && x.owner == 0

/-- Add one reference to a page of the range that owns it (R152). -/
def State.addRef (s : State) (id addr layer n : Nat) : State :=
  { s with ranges := s.ranges.map (fun r => if r.id = id then
      { r with pages := r.pages.map (fun x => if x.is addr layer n then { x with refs := x.refs + 1 } else x) } else r) }

/-- Drop one reference. -/
def State.dropRef (s : State) (id addr layer n : Nat) : State :=
  { s with ranges := s.ranges.map (fun r => if r.id = id then
      { r with pages := r.pages.map (fun x => if x.is addr layer n then { x with refs := x.refs - 1 } else x) } else r) }

/-- Drop the references a range holds on pages of other ranges, and forget those pages. -/
def State.dropLent (s : State) (id : Nat) : State :=
  match s.rangeOf id with
  | none => s
  | some r =>
    have s : State := (r.pages.filter (fun g => g.owner != 0)).foldl (fun (t : State) g => t.dropRef g.owner g.addr g.layer g.n) s
    { s with ranges := s.ranges.map (fun x => if x.id = id then { x with pages := x.pages.filter (fun g => g.owner == 0) } else x) }

/-- End a range: its index entries become misses (R169); units it held in the Hopper tier hold nothing any more
(spec/09 R216). -/
def State.endRange (s : State) (id : Nat) : State :=
  have s : State := match s.rangeOf id with
    | some r => if r.tier = 2 then s.freeUnits r.lower r.bytes else s
    | none => s
  have s : State := s.dropLent id
  State.reapRanges { s with
    ranges := s.ranges.map (fun r => if r.id = id then { r with ended := true } else r)
    hashes := s.hashes.filter (fun h => h.range != id) }

/-- Whether a range may be demoted: retained, live, and mapped by no ticket (R170). -/
def KvRange.idle (r : KvRange) : Bool := !r.published && !r.ended && r.pages.all (fun g => g.refs == 0)

/-- Of two retained ranges, whether the first goes before the second: stale generation, oldest last match, lowest
identifier (R170). -/
def State.goesFirst (s : State) (a b : KvRange) : Bool :=
  let stale := fun (r : KvRange) => !s.gens.any (fun g => g.p == r.p && g.gen == r.gen && g.role == 1)
  if stale a != stale b then stale a
  else if a.lastMatch ≠ b.lastMatch then decide (a.lastMatch < b.lastMatch) else decide (a.id < b.id)

/-- Insert a range into a list in that order. -/
def State.insRange (s : State) (r : KvRange) : List KvRange → List KvRange
  | [] => [r]
  | x :: t => if s.goesFirst r x then r :: x :: t else x :: s.insRange r t

/-- The bytes of a range, where they lie; nothing when some are unreadable. -/
def State.rangeBytes (s : State) (r : KvRange) : Option (List Byte) :=
  if r.tier = 0 then
    let ps := r.pages.map (fun g => (g.addr, 2 ^ (12 + g.z)))
    if (s.ucPieces ps).isEmpty then some (s.readPieces ps) else none
  else s.tierRead r.tier r.lower r.bytes

/-- The oldest range of a lower tier: the one with the oldest last match, then the lowest identifier. The rule does not say by what
time a range is the oldest (DESIGN CHOICE, unsafe; log entry 54). -/
def State.oldestIn (s : State) (tier : Nat) : Option KvRange :=
  match s.ranges.filter (fun r => r.tier == tier && r.idle) with
  | [] => none
  | r :: t => some (t.foldl (fun x y => if y.lastMatch < x.lastMatch ∨ (y.lastMatch = x.lastMatch ∧ y.id < x.id) then y else x) r)

/-- Find a place in a lower tier; a tier that cannot take the range ends its oldest ranges early (R170). -/
def roomBelow (tier n : Nat) : Nat → State → State × Option Nat
  | 0, s => (s, s.allocLow tier n)
  | k + 1, s =>
    match s.allocLow tier n with
    | some f => (s, some f)
    | none =>
      match s.oldestIn tier with
      | some r => roomBelow tier n k ((s.endRange r.id).bump 0x8014 3)
      | none => (s, none)

/-- Demote a retained range to the next tier (R170): the bytes are copied, then its places and its references are given up. A
range whose bytes cannot be read, or that finds no place while the tier serves, stays where it is (DESIGN CHOICE, unsafe; log
entry 54). -/
def State.demoteRange (s : State) (r : KvRange) : State :=
  let tier := r.tier + 1
  if tier > 2 ∨ !r.idle then s else
  match (if s.tierOn tier then s.rangeBytes r else none) with
  | none => s
  | some bs =>
    let q := roomBelow tier r.bytes s.ranges.length s
    match q.2 with
    | none => q.1
    | some f =>
      have s : State := if tier = 2 then q.1.hopWrite (1 + r.expiry / q.1.bandNs) f bs else (q.1.writeMem f bs).1
      have s : State := (r.pages.filter (fun g => g.owner != 0)).foldl (fun (t : State) g => t.dropRef g.owner g.addr g.layer g.n) s
      State.reapRanges { s with ranges := s.ranges.map (fun x => if x.id = r.id then
        { x with tier := tier, lower := f, moved := s.time, pages := x.pages.map (fun g => { g with owner := 0 }) } else x) }

/-- Demote ranges of a quadrant, in their order, until a page of a pool can be had (R150, R170). -/
def kvTakeRoom (p e z : Nat) : List KvRange → State → State × Option Nat
  | [], s => (s, none)
  | r :: t, s =>
    have s : State := s.demoteRange r
    match s.kvTake p e z s.shadowRoom with
    | some x => (x.2, some x.1)
    | none => kvTakeRoom p e z t s

/-- A page of a pool: when the pool has no free frame, retained ranges of the quadrant are demoted first (R150). -/
def State.kvAlloc (s : State) (p e z : Nat) : State × Option Nat :=
  match s.kvTake p e z s.shadowRoom with
  | some x => (x.2, some x.1)
  | none =>
    if !(s.kvFreeFrames p e).isEmpty then (s, none) else
    let l := s.ranges.filter (fun r => r.p == p && r.tier == 0 && r.idle && r.pages.any (fun g => g.addr / 0x400000000 == e))
    kvTakeRoom p e z (l.foldl (fun a r => s.insRange r a) []) s

/-- A retained range has been idle past the limit of its tier (R170). -/
def State.rangeDemotion (s : State) (id : Nat) : State :=
  match s.rangeOf id with
  | none => s
  | some r =>
    let limit := if r.tier = 0 then s.dnum 0x5061 2 else s.dnum 0x5061 3
    if r.tier ≥ 2 then s else (s.until (max r.lastMatch r.moved + limit * 1000000000)).demoteRange r

def execRetainedRangeDemotion (id : Nat) (s : State) : Host.Outcome State Fault Refusal := .next (s.rangeDemotion id)

/-- A retained range ends at the step boundary after its expiry (R169). -/
def State.rangeExpiry (s : State) (id : Nat) : State :=
  match s.rangeOf id with
  | none => s
  | some r => if r.published then s else (s.until r.expiry).endRange id

def execRetainedRangeExpiry (id : Nat) (s : State) : Host.Outcome State Fault Refusal := .next (s.rangeExpiry id)

/-! ### Mapping (R150, R151) -/

def insKv (x : KvPage) (l : List KvPage) : List KvPage := l ++ [x]

/-- Map one private page; false when no place can be had or the page-table pool is full. -/
def State.kvMap (s : State) (p slot layer n : Nat) : State × Bool :=
  let q := s.kvAlloc p (s.kvHome p slot layer) (kvClass n)
  match q.2 with
  | none => (q.1, false)
  | some a =>
    have t : State := { q.1 with kvPages := insKv ⟨slot, layer, n, kvClass n, a, none, 0, 0⟩ q.1.kvPages }
    if 4096 * t.tablesInUse.length > t.ptPool then (q.1, false) else (t.placeTables, true)

/-- Map a list of pages of a slot, as far as places can be had. -/
def kvMapSome (p slot : Nat) : List (Nat × Nat) → State → State × Bool
  | [], s => (s, true)
  | (l, n) :: t, s =>
    if s.kvPages.any (fun g => g.slot == slot && g.layer == l && g.n == n) then kvMapSome p slot t s
    else
      let q := s.kvMap p slot l n
      if q.2 then kvMapSome p slot t q.1 else q

/-- Map a list of pages of a slot, all or none: a ticket left out keeps the pages it had (R150). Ranges demoted for it stay
demoted. -/
def kvMapAll (p slot : Nat) (l : List (Nat × Nat)) (s : State) : State × Bool :=
  let q := kvMapSome p slot l s
  if q.2 then q else (State.pruneTables { q.1 with kvPages := s.kvPages }, false)

/-- The pages that hold positions `lo` to `lo + a - 1` in the enabled layer windows. -/
def State.kvNeeds (s : State) (p lo a : Nat) : List (Nat × Nat) :=
  if a = 0 then [] else
  (s.kvLayers p).flatMap (fun l =>
    let e := s.kvEsize p l
    let first := kvPageOf (lo * e)
    (List.range (kvPageOf ((lo + a) * e - 1) + 1 - first)).map (fun i => (l, first + i)))

/-- Drop one reference of a shared page. -/
def State.unref (s : State) (g : KvPage) : State :=
  match g.shared with
  | none => s
  | some id => s.dropRef id g.addr g.layer g.n

/-- Unmap every page of a slot (R151). -/
def State.kvUnmapSlot (s : State) (slot : Nat) : State :=
  let mine := s.kvPages.filter (fun g => g.slot == slot)
  have s : State := mine.foldl (fun (t : State) g => t.unref g) s
  State.reapRanges { s with
    kvPages := s.kvPages.filter (fun g => g.slot != slot)
    ptPlaces := s.ptPlaces.filter (fun t => t.1.1 != 100 + slot || t.1.2.1 == 2)
    tableFaulty := s.tableFaulty.filter (fun t => t.1 != 100 + slot) }

/-- End every range and index entry of a partition (R171). -/
def State.kvResetPart (s : State) (p : Nat) : State :=
  have s : State := ((s.kvPages.map (fun g => g.slot)).eraseDups.filter (fun k => (s.ticket k).part == p)).foldl
    (fun (t : State) k => t.kvUnmapSlot k) s
  have s : State := (s.ranges.filter (fun r => r.p == p && r.tier == 2)).foldl (fun (t : State) r => t.freeUnits r.lower r.bytes) s
  (State.kvUncarve { s with
    ranges := s.ranges.filter (fun r => r.p != p)
    hashes := s.hashes.filter (fun h => h.part != p)
    radix := s.radix.filter (fun n => n.part != p) } p)

/-! ### KV_PGCMD (R153) -/

/-- The code of a page command; `free` and `query` tell which rows apply. -/
def State.pgCode (s : State) (free query : Bool) : Nat :=
  let h := (s.rd .kvPgarg0 0).toNat
  let l := s.gf R.kvPgarg1_LAYER 0
  let p := hPart h
  if !s.kvEn p l then 6
  else if s.handleCode h ≠ 0 then s.handleCode h
  else if s.inStep h then 4
  else if !free && !query then 0
  else match s.kvAt (hSlot h) (l * 0x10000000 + s.gf R.kvPgarg1_POS 0 * s.kvEsize p l) with
    | none => 2
    | some g => if free && g.shared.isSome then 3 else 0

/-- The page that holds the position a command names. -/
def State.pgPage (s : State) : Option KvPage :=
  let h := (s.rd .kvPgarg0 0).toNat
  let l := s.gf R.kvPgarg1_LAYER 0
  s.kvAt (hSlot h) (l * 0x10000000 + s.gf R.kvPgarg1_POS 0 * s.kvEsize (hPart h) l)

/-- A rejected page command (R153). -/
def State.pgReject (s : State) (cmd code : Nat) : State := (s.bump 0x8014 1).cmdCode .kvPgcmd 0 cmd 2 code

/-- KV_PGCMD FREE. -/
def State.kvFree (s : State) (r : Requester) : State :=
  s.gate r .kvPgcmd 0 fun s =>
    let c := s.pgCode true false
    if c ≠ 0 then s.pgReject 1 c else
    match s.pgPage with
    | none => s.pgReject 1 2
    | some g => State.cmdCode (State.pruneTables { s with kvPages := s.kvPages.filter (fun x => decide (x ≠ g)) }) .kvPgcmd 0 1 0 0

def execKvFree (r : Requester) (s : State) : Host.Outcome State Fault Refusal := .next (s.kvFree r)

/-- KV_PGCMD FREE_BELOW. -/
def State.kvFreeBelow (s : State) (r : Requester) : State :=
  s.gate r .kvPgcmd 0 fun s =>
    let c := s.pgCode false false
    if c ≠ 0 then s.pgReject 2 c else
    let h := (s.rd .kvPgarg0 0).toNat
    let l := s.gf R.kvPgarg1_LAYER 0
    let first := s.gf R.kvPgarg1_POS 0 * s.kvEsize (hPart h) l
    let goes := fun (g : KvPage) => g.slot == hSlot h && g.layer == l && g.shared.isNone && decide (kvPageOff g.n + kvPageSize g.n ≤ first)
    State.cmdCode (State.pruneTables { s with kvPages := s.kvPages.filter (fun g => !goes g) }) .kvPgcmd 0 2 0 0

def execKvFreeBelow (r : Requester) (s : State) : Host.Outcome State Fault Refusal := .next (s.kvFreeBelow r)

/-- KV_PGCMD QUERY. One that finds no page is a rejected command, which changes no state (R153): KV_PGINFO keeps the page that
the last performed QUERY found (DESIGN CHOICE, unsafe; log entry 54: the card's MAPPED could also read 0). -/
def State.kvQuery (s : State) (r : Requester) : State :=
  s.gate r .kvPgcmd 0 fun s =>
    let c := s.pgCode false true
    if c ≠ 0 then s.pgReject 3 c else
    match s.pgPage with
    | none => s.pgReject 3 2
    | some g =>
      (s.wr .kvPginfo 0 (BitVec.ofNat 32 (2 ^ 31 + b2n g.shared.isSome * 2 ^ 30 + g.z * 2 ^ 26 + g.addr / 0x400000000 * 2 ^ 21))).cmdCode
        .kvPgcmd 0 3 0 0

def execKvQuery (r : Requester) (s : State) : Host.Outcome State Fault Refusal := .next (s.kvQuery r)

/-! ### The block-hash index (R162 to R164) -/

/-- A tenant's salt: a free value, drawn when it is first needed (DESIGN CHOICE, safe; log entry 8). -/
def State.salt (s : State) (tenant : Nat) : Nat × State :=
  match s.salts.find? (fun x => x.1 == tenant) with
  | some x => (Config.freeVal x.2 0 % 2 ^ 128, s)
  | none =>
    let k := s.fresh
    (Config.freeVal k.1 0 % 2 ^ 128, { k.2 with salts := k.2.salts ++ [(tenant, k.1)] })

/-- Chain hashes of the whole blocks of a token sequence. -/
def chainHashes (salt gen : Nat) : Nat → Nat → List Nat → List Nat
  | 0, _, _ => []
  | k + 1, prev, toks =>
    let h := siphash salt (natLE 8 prev ++ natLE 4 gen ++ (toks.take 64).flatMap (fun t => natLE 4 t))
    h :: chainHashes salt gen k h (toks.drop 64)

/-- Insert one entry (R163). -/
def hashInsert (time : Nat) (e : HashEntry) (l : List HashEntry) : List HashEntry :=
  match l.find? (fun x => x.h == e.h && x.tenant == e.tenant && x.part == e.part) with
  | some _ => l.map (fun x => if x.h = e.h ∧ x.tenant = e.tenant ∧ x.part = e.part then
      { x with block := e.block, range := e.range, gen := e.gen, lastUse := time } else x)
  | none =>
    let set := l.filter (fun x => x.h % 131072 == e.h % 131072)
    match (List.range 8).find? (fun w => !set.any (fun x => x.way == w)) with
    | some w => l ++ [{ e with way := w, lastUse := time }]
    | none =>
      match set with
      | [] => l
      | x :: t =>
        let v := t.foldl (fun a b => if b.lastUse < a.lastUse ∨ (b.lastUse = a.lastUse ∧ b.way < a.way) then b else a) x
        l.filter (fun y => decide (y ≠ v)) ++ [{ e with way := v.way, lastUse := time }]

/-- Index a retained range (R163). -/
def State.indexRange (s : State) (r : KvRange) : State :=
  let k := s.salt r.tenant
  let hs := chainHashes k.1 r.gen (r.tokens.length / 64) 0 r.tokens
  have s : State := k.2
  { s with hashes := (hs.zipIdx).foldl (fun (l : List HashEntry) x =>
      hashInsert s.time ⟨x.1, r.tenant, x.2, r.id, r.gen, r.p, 0, s.time⟩ l) s.hashes }

/-- The leading blocks of a prompt that the index finds: each entry in turn. -/
def hashProbe (l : List HashEntry) (live : Nat → Bool) (tenant part gen : Nat) : List Nat → List HashEntry
  | [] => []
  | h :: t =>
    match l.find? (fun x => x.h == h && x.tenant == tenant && x.part == part && x.gen == gen && live x.range) with
    | some x => x :: hashProbe l live tenant part gen t
    | none => []

/-- Whole leading blocks on which two sequences agree, at most `n`. -/
def agreeBlocks : Nat → List Nat → List Nat → Nat
  | 0, _, _ => 0
  | n + 1, a, b => if a.take 64 = b.take 64 ∧ (b.take 64).length = 64 then 1 + agreeBlocks n (a.drop 64) (b.drop 64) else 0

/-- The match against the tenant's retained ranges: positions and range (R164). Every entry found takes its LASTUSE, also one
beyond the last agreeing block (DESIGN CHOICE, unsafe; log entry 54). -/
def State.hashMatch (s : State) (p tenant gen : Nat) (prompt : List Nat) : Nat × Nat × State :=
  if s.dnum 0x6090 2 = 0 then (0, 0, s) else
  let k := s.salt tenant
  let hs := chainHashes k.1 gen (prompt.length / 64) 0 prompt
  have s : State := k.2
  let live := fun (id : Nat) => s.ranges.any (fun r => r.id == id && !r.ended && !r.published)
  let found := hashProbe s.hashes live tenant p gen hs
  match found.getLast? with
  | none => (0, 0, s)
  | some x =>
    let toks := match s.rangeOf x.range with
      | some r => r.tokens
      | none => []
    let m := agreeBlocks found.length prompt toks
    have s : State := if m < found.length then s.bump 0x8014 2 else s
    have s : State := { s with hashes := s.hashes.map (fun y => if found.contains y then { y with lastUse := s.time } else y) }
    (64 * m, x.range, s)

/-! ### The radix tree (R165 to R167) -/

/-- Walk the tree: the nodes visited, root first (0), and the tokens matched (R166). Of several visible children whose tokens
match, the first in the order they were added is taken (DESIGN CHOICE, unsafe; log entry 54). `whole` descends only into nodes of
64 tokens, unless the sequence ends with the node, as publication does. -/
def radixWalk (l : List RadixNode) (part gen tenant : Nat) (whole : Bool) : Nat → Nat → List Nat → List RadixNode
  | 0, _, _ => []
  | k + 1, at_, toks =>
    match l.find? (fun n => n.part == part && n.parent == at_ && !n.tokens.isEmpty && n.tokens.isPrefixOf toks && n.gen == gen &&
        (n.allow.isEmpty || n.allow.contains tenant) && (!whole || n.tokens.length == 64 || n.tokens.length == toks.length)) with
    | some n => n :: radixWalk l part gen tenant whole k n.id (toks.drop n.tokens.length)
    | none => []

def State.radixMatch (s : State) (p tenant gen : Nat) (prompt : List Nat) : Nat × Nat × List Nat :=
  let ns := radixWalk s.radix p gen tenant false (prompt.length + 1) 0 prompt
  ((ns.map (fun n => n.tokens.length)).foldl (· + ·) 0, (ns.getLast?.map (fun n => n.range)).getD 0, ns.map (fun n => n.id))

/-- The prefix walker: M, the matched range, and the state the search leaves (R161). -/
def State.prefixWalk (s : State) (p tenant gen : Nat) (prompt : List Nat) : Nat × Nat × State :=
  let a := s.hashMatch p tenant gen prompt
  let b := s.radixMatch p tenant gen prompt
  let m := if b.1 ≥ a.1 then b.1 else a.1
  let id := if b.1 ≥ a.1 then b.2.1 else a.2.1
  let m := min m (prompt.length - 1)
  (m, if m = 0 then 0 else id, a.2.2)

/-- Nodes that a ticket's match went through gain or lose a reference (R165, REFS). -/
def State.radixRef (s : State) (p : Nat) (ids : List Nat) (up : Bool) : State :=
  { s with radix := s.radix.map (fun n => if n.part = p ∧ ids.contains n.id then
      { n with refs := if up then n.refs + 1 else n.refs - 1 } else n) }

/-- Record a match: the range's last match time, the references of the radix nodes a published match went through. -/
def State.noteMatch (s : State) (id p tenant gen : Nat) (prompt : List Nat) : State × List Nat :=
  match s.rangeOf id with
  | none => (s, [])
  | some r =>
    have s : State := { s with ranges := s.ranges.map (fun x => if x.id = id then { x with lastMatch := s.time } else x) }
    if r.published then
      let ids := (s.radixMatch p tenant gen prompt).2.2
      (s.radixRef p ids true, ids)
    else (s, [])

/-- Blocks of a sequence from a block number on, as new nodes below a parent (R165, R167). -/
def newNodes (p range gen : Nat) (allow : List Nat) : Nat → Nat → Nat → Nat → List Nat → List RadixNode
  | 0, _, _, _, _ => []
  | k + 1, id, parent, depth, toks =>
    if toks.isEmpty then [] else
    ⟨id, parent, p, toks.take 64, depth, 0, range, gen, 0, allow⟩ :: newNodes p range gen allow k (id + 1) id (depth + 1) (toks.drop 64)

/-- Whether a node, or a descendant, ends a published prefix. -/
def endsPrefix (l : List RadixNode) : Nat → RadixNode → Bool
  | 0, n => n.pfx != 0
  | k + 1, n => n.pfx != 0 || (l.filter (fun x => x.part == n.part && x.parent == n.id)).any (fun x => endsPrefix l k x)

/-- At a step boundary: remove the nodes no prefix needs, and end the published ranges no node names (R167). -/
def State.pruneRadix (s : State) (p : Nat) : State :=
  have s : State := { s with radix := s.radix.filter (fun n => n.part != p || n.refs != 0 || endsPrefix s.radix s.radix.length n) }
  (s.ranges.filter (fun r => r.p == p && r.published && !r.ended && !s.radix.any (fun n => n.part == p && n.range == r.id))).foldl
    (fun (t : State) r => t.endRange r.id) s

/-- Replace the salts that are due (R162). -/
def State.renewSalts (s : State) : State :=
  s.saltDue.foldl (fun (t : State) x =>
    let k := t.fresh
    { k.2 with salts := k.2.salts.filter (fun y => y.1 != x) ++ [(x, k.1)], hashes := k.2.hashes.filter (fun h => h.tenant != x) })
    { s with saltDue := [] }

/-! ### Ranges from tickets (R151, R167, R169) -/

/-- The lowest free range identifier; with none free nothing is retained (DESIGN CHOICE, unsafe; log entry 54). -/
def State.freeRange (s : State) : Option Nat := (((List.range (s.ranges.length + 1)).map (· + 1)).find? (fun i => !s.ranges.any (fun r => r.id == i))).filter (fun i => decide (i < 65536))

/-- The tokens whose positions a ticket's cache holds. -/
def Ticket.cached (t : Ticket) : List Nat := (t.prompt ++ t.gend.map (fun g => g % 4294967296)).take t.len

/-- Whether an END with this reason may carry RETAINED or PUBLISHED (R254, R257). -/
def Ticket.natural (t : Ticket) : Bool := t.reason == 0x20 || t.reason == 0x21 || t.reason == 0x22

/-- Seconds a ticket's conversation is retained. -/
def State.retainFor (s : State) (t : Ticket) : Nat := if t.retain ∧ t.natural then min t.ttl (s.dnum 0x5061 1) else 0

/-- A page a ticket maps, as a page of the range its cache becomes: its own, or one that another range lends it. -/
def KvPage.ranged (g : KvPage) : RangePage := ⟨g.layer, g.n, g.z, g.addr, g.addr / 0x400000000, 0, g.shared.getD 0⟩

/-- A ticket's cache becomes the retained range `id` (R151, R169): its private pages are handed over, and each shared page of
its prefix keeps one reference, now the range's. -/
def State.retainAs (s : State) (slot id : Nat) : State :=
  let t := s.ticket slot
  let mine := s.kvPages.filter (fun g => g.slot == slot)
  let r : KvRange :=
    { id := id, p := t.part, published := false, tenant := t.tenant, gen := t.modelgen, tokens := t.cached, home := slot,
      expiry := s.time + s.retainFor t * 1000000000, lastMatch := s.time, moved := s.time, tier := 0, lower := 0,
      pages := mine.map KvPage.ranged, ended := false }
  have s : State := { s with ranges := s.ranges ++ [r], kvPages := s.kvPages.filter (fun g => g.slot != slot) }
  if s.isLead t.part then s.indexRange r else s

/-- Retain a ticket's cache: at the lead under the lowest free identifier, and not at all when none is free (DESIGN CHOICE,
unsafe; log entry 54); elsewhere under the one the lead names. -/
def State.retainPages (s : State) (slot told : Nat) : State :=
  match (if s.isLead (s.ticket slot).part then s.freeRange else if told = 0 then none else some told) with
  | none => s
  | some id => s.retainAs slot id

/-- Copy one page into the quadrant of an engine, as a replica. -/
def State.replicate (s : State) (p e : Nat) (g : KvPage) : State × Option RangePage :=
  let q := s.kvAlloc p e g.z
  match q.2 with
  | none => (q.1, none)
  | some a => ((q.1.writeMem a (q.1.readMem g.addr (2 ^ (12 + g.z)))).1, some ⟨g.layer, g.n, g.z, a, e, 0, 0⟩)

/-- Replicas of pages, each added to the range before the next is placed; false when a pool cannot hold one. -/
def replicateAll (p id : Nat) : List (Nat × KvPage) → State → State × Bool
  | [], s => (s, true)
  | (e, g) :: t, s =>
    let q := s.replicate p e g
    match q.2 with
    | none => (q.1, false)
    | some x =>
      replicateAll p id t { q.1 with ranges := q.1.ranges.map (fun r => if r.id = id then { r with pages := r.pages ++ [x] } else r) }

/-- A ticket's pages become the published range `id`, with one replica in the quadrant of each engine of this package (R167,
steps 1 and 2); false, and nothing published, when a pool cannot hold a replica. -/
def State.publishPages (s : State) (slot id : Nat) : State × Bool :=
  let t := s.ticket slot
  let pages := s.kvPages.filter (fun g => g.slot == slot)
  let r : KvRange :=
    { id := id, p := t.part, published := true, tenant := t.tenant, gen := t.modelgen, tokens := t.cached, home := slot,
      expiry := 0, lastMatch := s.time, moved := s.time, tier := 0, lower := 0,
      pages := (pages.filter (fun g => g.shared.isNone)).map KvPage.ranged, ended := false }
  have s1 : State := { s with
    ranges := s.ranges ++ [r]
    kvPages := s.kvPages.filter (fun g => !(g.slot == slot && g.shared.isNone)) }
  let copies := (engineList (s.prt t.part).mask).flatMap (fun e =>
    (pages.filter (fun g => g.shared.isSome || g.addr / 0x400000000 != e)).map (fun g => (e, g)))
  let q := replicateAll t.part id copies s1
  if q.2 then q else ({ q.1 with ranges := q.1.ranges.filter (fun x => x.id != id), kvPages := s.kvPages }, false)

/-- Publish a retired ticket's sequence (R167): its pages become a range with one replica for each engine, the tree gains
the blocks that did not match, and the last node the PREFIX. Nothing when a pool, the nodes or the child area cannot hold
it. -/
def State.publish (s : State) (slot : Nat) : State × Bool :=
  let t := s.ticket slot
  let toks := t.cached
  match s.freeRange with
  | none => (s, false)
  | some id =>
    let walked := radixWalk s.radix t.part t.modelgen t.tenant true (toks.length + 1) 0 toks
    let done := (walked.map (fun n => n.tokens.length)).foldl (· + ·) 0
    let parent := (walked.getLast?.map (fun n => n.id)).getD 0
    let nextId := (s.radix.map (fun n => n.id)).foldl max 0 + 1
    let fresh := newNodes t.part id t.modelgen t.allow (toks.length + 1) nextId parent walked.length (toks.drop done)
    let mine := s.radix.filter (fun n => n.part == t.part)
    let full := !fresh.isEmpty && decide ((mine.filter (fun n => n.parent == parent)).length ≥ 4095)
    if mine.length + fresh.length > 65536 ∨ full then (s, false) else
    let q := s.publishPages slot id
    if !q.2 then q else
    let lastId := match fresh.getLast? with
      | some n => n.id
      | none => parent
    ({ q.1 with radix := (q.1.radix ++ fresh).map (fun n => if n.part = t.part ∧ n.id = lastId then { n with pfx := t.prefixid } else n) }, true)

/-- Whether a retired ticket still has to be published. -/
def State.publishDue (s : State) (slot : Nat) : Bool :=
  let t := s.ticket slot
  t.state == 4 && t.release && t.publish && !t.pubOver && t.natural

/-- A retired publishing ticket is published, or retires with PUBLISH_FAILED (R167). `others` is whether every other package of
the group holds its replicas; at another package than the lead, `told` is the range the lead names, 0 when the lead publishes
nothing, and the package reports whether it holds its own. -/
def State.prefixPublish (s : State) (slot told : Nat) (others : Bool) : State :=
  if !s.publishDue slot then s
  else if !s.isLead (s.ticket slot).part then
    let q := if told = 0 then (s, false) else s.publishPages slot told
    (q.1.modTicket slot (fun x => { x with pubOver := true })).tell (s.ticket slot).part "replicas" (b2n q.2)
  else
    let q := if others then s.publish slot else (s, false)
    if q.2 then q.1.modTicket slot (fun x => { x with pubOver := true, flags := 4 })
    else q.1.modTicket slot (fun x => { x with reason := 0x27, pubOver := true })

def execPrefixPublish (a : Publication) (s : State) : Host.Outcome State Fault Refusal := .next (s.prefixPublish a.slot a.range a.others)

/-! ### Mapping a match (R168, R171) -/

/-- A page of a range for (layer, n), with the range that owns it; of a published range the replica of the home engine. -/
def KvRange.pageFor (r : KvRange) (home layer n : Nat) : Option (Nat × RangePage) :=
  (r.pages.find? (fun g => g.layer == layer && g.n == n && (!r.published || g.engine == home))).map
    (fun g => (if g.owner = 0 then r.id else g.owner, g))

/-- Bytes of a range before a page of it, where it lies in a lower tier. -/
def KvRange.before (r : KvRange) (layer n : Nat) : Nat :=
  ((r.pages.takeWhile (fun g => !(g.layer == layer && g.n == n))).map (fun g => 2 ^ (12 + g.z))).foldl (· + ·) 0

/-- The first `k` bytes of a page of a range as it lies; none where the range has no such page. -/
def State.matchBytes (s : State) (r : KvRange) (home layer n k : Nat) : Option (List Byte) :=
  match r.pageFor home layer n with
  | none => none
  | some x => some (
    if r.tier = 0 then s.readMem x.2.addr k
    else if r.tier = 1 then s.readMem (r.lower + r.before layer n) k
    else Sparse.gets zeroByte s.hop (r.lower * 4096 + r.before layer n) k)

/-- The first unreadable byte among the first `k` of a page of a range; none where all can be read, or the page is missing:
a page that was freed under R153 is not there to be mapped or copied. -/
def State.matchBad (s : State) (r : KvRange) (home layer n k : Nat) : Option Nat :=
  match r.pageFor home layer n with
  | none => none
  | some x =>
    let first := fun (a : Nat) => lowest ((s.ucAt a k).map (fun u => u - a))
    if r.tier = 0 then first x.2.addr
    else if !s.tierReads r.tier then some 0
    else if r.tier = 1 then first (r.lower + r.before layer n)
    else
      let u := r.lower + r.before layer n / 4096
      lowest ((s.hopLost.filter (fun y => decide (u ≤ y) && decide (y < u + (k + 4095) / 4096))).map (fun y => 4096 * (y - u)))

/-- The pages that hold the first `m` positions of a layer window. -/
def matchPages (m esize : Nat) : List Nat := List.range (kvPageOf (m * esize - 1) + 1)

/-- Bytes of page `n` below the end of `m` entries. -/
def matchLen (m esize n : Nat) : Nat := min (kvPageSize n) (m * esize - kvPageOff n)

/-- The Hopper units that hold the first `m` positions of a match in every enabled layer window. -/
def State.matchUnits (s : State) (r : KvRange) (t : Ticket) (slot m : Nat) : List Nat :=
  (s.kvLayers t.part).flatMap (fun l => (matchPages m (s.kvEsize t.part l)).flatMap (fun n =>
    if (r.pageFor (s.kvHome t.part slot l) l n).isNone then []
    else unitSpan (r.lower + r.before l n / 4096) (matchLen m (s.kvEsize t.part l) n)))

/-- The positions of a match that every enabled layer window can give (R171): cut to whole blocks before the first position
with an unreadable byte. An unreadable byte in Carafe or the Urn cuts a match the same way, uncounted (DESIGN CHOICE, unsafe; log
entry 54). -/
def State.readableMatch (s : State) (r : KvRange) (t : Ticket) (slot m : Nat) : Nat :=
  let cut := (s.kvLayers t.part).map (fun l =>
    let e := s.kvEsize t.part l
    match (matchPages m e).findSome? (fun n => (s.matchBad r (s.kvHome t.part slot l) l n (matchLen m e n)).map (fun b => kvPageOff n + b)) with
    | some b => b / e / 64 * 64
    | none => m)
  cut.foldl min m

/-- Map one layer window of a match; false when a private page cannot be had. -/
def mapMatch (r : KvRange) (t : Ticket) (slot m l e home : Nat) : List Nat → State → State × Bool
  | [], s => (s, true)
  | n :: rest, s =>
    let inside := decide (kvPageOff n + kvPageSize n ≤ m * e)
    let sh := if r.tier = 0 ∧ inside then (r.pageFor home l n).filter (fun x => x.2.addr / 0x400000000 == home) else none
    match sh with
    | some (id, g) =>
      have q : State := State.addRef { s with kvPages := insKv ⟨slot, l, n, g.z, g.addr, some id, 0, 0⟩ s.kvPages } id g.addr l n
      if 4096 * q.tablesInUse.length > q.ptPool then (q, false) else mapMatch r t slot m l e home rest q.placeTables
    | none =>
      match s.matchBytes r home l n (matchLen m e n) with
      | none => mapMatch r t slot m l e home rest s
      | some bs =>
        let q := s.kvMap t.part slot l n
        if !q.2 then q else
        match q.1.kvAt slot (l * 0x10000000 + kvPageOff n) with
        | some g => mapMatch r t slot m l e home rest (q.1.writeMem g.addr bs).1
        | none => (q.1, false)

/-- Map one layer window after another. -/
def mapLayers (r : KvRange) (t : Ticket) (slot m : Nat) : List Nat → State → State × Bool
  | [], s => (s, true)
  | l :: rest, s =>
    let e := s.kvEsize t.part l
    let q := mapMatch r t slot m l e (s.kvHome t.part slot l) (matchPages m e) s
    if q.2 then mapLayers r t slot m rest q.1 else q

/-- Undo a mapping that could not be finished: the slot's new pages go, with their references. -/
def State.unmapNew (s : State) (old : List KvPage) : State :=
  have s : State := (s.kvPages.filter (fun g => !old.contains g)).foldl (fun (t : State) g => t.unref g) s
  State.pruneTables { s with kvPages := old }

/-- Map the first `m` positions of a match for a slot (R168); false, and nothing mapped, when a page cannot be had. -/
def State.mapPrefix (s : State) (slot : Nat) (r : KvRange) (m : Nat) : State × Bool :=
  let t := s.ticket slot
    let q := if m = 0 then (s, true) else mapLayers r t slot m (s.kvLayers t.part) s
  if q.2 then q else (q.1.unmapNew s.kvPages, false)

/-- Map a prefix match before the ticket's prefill starts (R168). `others` is the least number of positions that the other
packages of the group can give (R171), `rungs` lists the Hopper units whose read goes beyond the first rung (spec/09 R210). A range that has ended since the admission gives
no position: M becomes 0 and prefill computes them all (DESIGN CHOICE, unsafe; log entry 54). Another package than the lead tells the
lead how many positions it has mapped. -/
def State.prefixMatchMap (s : State) (slot others : Nat) (rungs : List (Nat × Nat)) : State :=
  let t := s.ticket slot
  if (t.state ≠ 1 ∧ t.state ≠ 2) ∨ t.mmapped ∨ t.mtch = 0 then s else
  match s.rangeOf t.mrange with
  | none => s.modTicket slot (fun x => { x with mtch := 0, mmapped := true })
  | some r =>
    have s : State := if r.tier = 2 ∧ s.tierReads 2 then s.readUnits (s.matchUnits r t slot t.mtch) rungs else s
    let m := min (s.readableMatch r t slot t.mtch) (if others ≥ t.mtch then t.mtch else others / 64 * 64)
    have s : State := if m < t.mtch ∧ r.tier = 2 then s.bump 0x8014 4 else s
    let q := s.mapPrefix slot r m
    -- a mirror's MATCH is the lead's, as of the last step start (spec/11 R239)
    if !q.2 then q.1
    else if s.isLead t.part then q.1.modTicket slot (fun x => { x with mtch := m, mmapped := true, len := m })
    else (q.1.modTicket slot (fun x => { x with mmapped := true })).tell t.part "match" (t.handle slot + m * 2 ^ 32)

def execPrefixMatchMap (a : MatchWord) (s : State) : Host.Outcome State Fault Refusal :=
  .next (s.prefixMatchMap a.slot a.others a.rungs)

end Sys2Proof.Machine
end

