-- ==== Sys2Proof/Machine/Mosaic.lean ====
section
/-! DEFINITION. The Mosaic shadow space as this package writes it to its peers: its layout, the configuration record, the frame table
and the weight stripes (spec/14 R319 to R322, R325, R335). -/

namespace Sys2Proof.Machine

/-! ### The layout (R319, R320) -/

/-- A slot of the shadow region: Z bytes. -/
def State.shadowZ (s : State) : Nat := s.shadowSize / 8

/-- Where slot `j` begins in the Urn of peer `j`. -/
def State.shadowSlot (s : State) (j : Nat) : Nat := shadowBase + j * s.shadowZ

/-- The peer that holds a shadow offset, and the offset in its slot. -/
def shadowPeer (x : Nat) : Nat := x / 65536 % 8
def shadowPlace (x : Nat) : Nat := x / 524288 * 65536 + x % 65536

/-- The package named as peer `j`. -/
def State.peerId (s : State) (j : Nat) : Nat := s.dnum 0x8021 (j + 1)

/-- Send bytes to the place in the peer's Urn where they belong. -/
def State.shadowSend (s : State) (x : Nat) (bs : List Byte) : State :=
  s.emit (.shadow (s.peerId (shadowPeer x)) (s.shadowSlot (shadowPeer x) + shadowPlace x) bs)

/-- Bring one 4 KiB unit of the shadow space up to date: it is written when it differs from what the peers hold. -/
def State.shadowUnit (s : State) (x : Nat) (bs : List Byte) : State :=
  if !s.shadowsOn ∨ Sparse.gets zeroByte s.mosaic.mem x 4096 = bs then s
  else State.shadowSend { s with mosaic := { s.mosaic with mem := Sparse.blit zeroByte s.mosaic.mem x bs } } x bs

/-- The same for `n` units from an offset; short bytes end in zeros. -/
def State.shadowWrite (s : State) (x n : Nat) (bs : List Byte) : State :=
  (List.range n).foldl (fun (t : State) i => t.shadowUnit (x + 4096 * i) (padTo 4096 (bs.drop (4096 * i)))) s

def unitArea (u : Nat) : Nat := 0x40000000 + u * 0x200000

/-- The header. -/
def State.shadowHeader (s : State) : List Byte :=
  natLE 4 0x4D534844 ++ natLE 2 s.pkg ++ natLE 2 s.epoch ++ natLE 4 s.identPart.toNat ++ natLE 8 s.shadowUsed

/-! ### The configuration record (R321) -/

/-- The registers of the configuration record. -/
def shadowedCard (c : Card) : Bool :=
  match c with
  | .partShape | .partDrip | .partTickets | .partKv | .partTier | .partStepev | .partAmapLo | .partAmapHi | .partAmapCtl => true
  | .kvLayout | .drpRingLo | .drpRingHi | .drpRingCfg | .fmfCqRingLo | .fmfCqRingHi | .fmfCqCfg => true
  | .pfCtl | .pfBaseLo | .pfBaseHi | .pfCursorLo | .pfCursorHi | .trCfg | .fltPimgLo | .fltPimgHi | .fltPimgN => true
  | _ => false

/-- The dictionary entries of the record. -/
def shadowedEntry (k : Nat) : Bool :=
  let i := k / 256
  match entryOf i (k % 256) with
  | some e => (decide (0x6000 ≤ i) && decide (i ≤ 0x6FFF) && (e.cls == .rw || e.cls == .rwp)) || (i == 0x8021 && decide (k % 256 ≤ 8))
  | none => false

def DVal.shadowBytes : DVal → List Byte
  | .num n => natLE 8 n
  | .oct l => l

/-- The record: registers, entries, the region, grant and reduction-group tables, each list behind its length. The order and the form
are the device's own (DESIGN CHOICE, unsafe; log entry 110). -/
def State.configRecord (s : State) : List Byte :=
  let regs := s.regs.filter (fun x => shadowedCard (cardOf (x.1 / 1048576)))
  let dict := s.dict.filter (fun x => shadowedEntry x.1)
  natLE 4 regs.length ++ regs.flatMap (fun x => natLE 4 (s.cardAddr (cardOf (x.1 / 1048576)) (x.1 % 1048576)) ++ natLE 4 x.2.toNat) ++
  natLE 4 dict.length ++ dict.flatMap (fun x => natLE 4 x.1 ++ natLE 4 (DVal.shadowBytes x.2).length ++ DVal.shadowBytes x.2) ++
  natLE 4 s.tables.length ++ s.tables.flatMap (fun x => natLE 4 x.1 ++ natLE 8 x.2.w0 ++ natLE 8 x.2.w1 ++ natLE 8 x.2.w2 ++ natLE 8 x.2.w3)

/-- Rewrite the header and the record. -/
def State.shadowConfig (s : State) : State := (s.shadowUnit 0 (padTo 4096 s.shadowHeader)).shadowWrite 0x1000 255 s.configRecord

/-! ### Units and the frame table (R320, R325) -/

/-- Whether a unit is free. -/
def Mosaic.freeUnit (m : Mosaic) (u : Nat) : Bool :=
  !m.frames.any (fun x => x.2 == u) && !m.stripes.any (fun x => decide (x.first ≤ u) && decide (u < x.first + x.n))

/-- The lowest run of `n` free units. -/
def State.unitRun (s : State) (n : Nat) : Option Nat :=
  (List.range (s.shadowUnits + 1 - n)).find? (fun u => (List.range n).all (fun i => s.mosaic.freeUnit (u + i)))

/-- Give a frame its unit. -/
def State.shadowFrameIn (s : State) (f : Nat) : State :=
  if s.mosaic.frames.any (fun x => x.1 == f) then s else
  match s.unitRun 1 with
  | none => s
  | some u => { s with mosaic := { s.mosaic with frames := s.mosaic.frames ++ [(f, u)] } }

/-- 4 KiB unit `k` of the frame table. -/
def Mosaic.tableUnit (m : Mosaic) (k : Nat) : List Byte :=
  (List.range 512).flatMap (fun i => natLE 8 (match m.frames.find? (fun x => x.1 == 512 * k + i) with
    | some x => 2 ^ 63 + x.2
    | none => 0))

/-- Bring the units of frames in line with the frames that are to be shadowed, and the frame table with them. -/
def State.shadowFramesIn (s : State) : State :=
  let fs := s.shadowFrames
  let old := s.mosaic.frames
  have s : State := { s with mosaic := { s.mosaic with frames := old.filter (fun x => fs.contains x.1) } }
  have s : State := fs.foldl (fun (t : State) f => t.shadowFrameIn f) s
  ((old ++ s.mosaic.frames).map (fun x => x.1 / 512)).eraseDups.foldl
    (fun (t : State) k => t.shadowUnit (0x1100000 + 4096 * k) (t.mosaic.tableUnit k)) s

/-! ### Weight stripes (R321, R325) -/

/-- 4 KiB unit `k` of the chunk index. -/
def Mosaic.indexUnit (m : Mosaic) (k : Nat) : List Byte :=
  (List.range 256).flatMap (fun i => match m.stripes.find? (fun x => x.idx == 256 * k + i) with
    | some x => natLE 4 x.mid ++ natLE 4 x.chunk ++ natLE 4 x.first ++ natLE 1 x.gen ++ natLE 1 1 ++ zeros 2
    | none => zeros 16)

def State.shadowIndex (s : State) (idxs : List Nat) : State :=
  (idxs.map (fun i => i / 256)).eraseDups.foldl (fun (t : State) k => t.shadowUnit (0x100000 + 4096 * k) (t.mosaic.indexUnit k)) s

/-- Free the stripes of what no longer holds weights. -/
def State.dropStripes (s : State) (is : ChunkStripe → Bool) : State :=
  let gone := s.mosaic.stripes.filter is
  State.shadowIndex { s with mosaic := { s.mosaic with stripes := s.mosaic.stripes.filter (fun x => !is x) } } (gone.map (fun x => x.idx))

/-- Units a chunk's stripe takes: its header and the bytes it writes. -/
def stripeUnits (n : Nat) : Nat := (64 + n + 0x1FFFFF) / 0x200000

/-- Whether the shadow space holds a stripe of `n` bytes more. -/
def State.stripeRoom (s : State) (n : Nat) : Bool :=
  !s.shadowsOn || (decide (s.shadowUsed + stripeUnits n ≤ s.shadowUnits) && (s.unitRun (stripeUnits n)).isSome)

/-- K_S of a model key, by MODELID and MODELGEN. -/
def stripeKey (key : List Byte) (mid gen : Nat) : List Byte := hkdf key (bytesOf [77, 79, 83, 65, 73, 67] ++ natLE 4 mid ++ natLE 1 gen) 64

/-- Write bytes into the shadow space as ciphertext, 4 KiB at a time; the tweak is the shadow offset ÷ 4,096. -/
def State.shadowCipher (s : State) (key : List Byte) (x : Nat) (bs : List Byte) : State :=
  (List.range ((bs.length + 4095) / 4096)).foldl (fun (t : State) i =>
    t.shadowUnit (x + 4096 * i) (xtsEnc key (x / 4096 + i) (padTo 4096 (bs.drop (4096 * i))))) s

/-- The lowest free entry of the chunk index's 1,048,576. -/
def Mosaic.freeEntry (m : Mosaic) : Option Nat :=
  ((List.range (m.stripes.length + 1)).find? (fun i => !m.stripes.any (fun x => x.idx == i))).filter (fun i => decide (i < 1048576))

/-- Write a stripe into the units from `u` on, `bs` the chunk's header and the bytes it wrote, and its entry `x.idx` of the chunk index. -/
def State.stripeAt (s : State) (x : ChunkStripe) (key bs : List Byte) : State :=
  State.shadowIndex (State.shadowCipher { s with mosaic := { s.mosaic with stripes := s.mosaic.stripes ++ [x] } }
    (stripeKey key x.mid x.gen) (unitArea x.first) bs) [x.idx]

/-- Write a stripe into the lowest free units that hold it. -/
def State.stripeIn (s : State) (x : ChunkStripe) (key bs : List Byte) : State :=
  (s.unitRun x.n).elim s (fun u => s.mosaic.freeEntry.elim s (fun i => s.stripeAt { x with idx := i, first := u } key bs))

/-- Write a stripe: the chunk's header `h` and the bytes it wrote, and its entry of the chunk index. `n` bytes are its destination's. -/
def State.shadowStripe (s : State) (p gen : Nat) (aslot : Option Nat) (mid chunk : Nat) (key h bs : List Byte) (n : Nat) : State :=
  if !s.shadowsOn then s else
  (s.dropStripes (fun x => x.p == p && x.gen == gen && x.aslot == aslot && x.mid == mid && x.chunk == chunk)).stripeIn
    ⟨0, p, gen, aslot, mid, chunk, 0, stripeUnits n⟩ key (h ++ bs)

/-! ### Seal records and re-protection (R319, R322, R335) -/

/-- A seal record. -/
def State.sealRecord (s : State) : List Byte :=
  padTo 256 (natLE 4 0x5345414C ++ natLE 2 s.pkg ++ zeros 2 ++ natLE 8 s.time ++
    (List.range 16).flatMap (fun p => natLE 8 (s.dnum 0x8022 (p + 1))))

/-- Write the seal record into the last 4 KiB of slot `j`. -/
def State.sealSlot (s : State) (j : Nat) : State :=
  s.emit (.shadow (s.peerId j) (s.shadowSlot j + s.shadowZ - 4096) s.sealRecord)

def State.sealSlots (s : State) : State := (List.range 8).foldl (fun (t : State) j => t.sealSlot j) s

/-- Rewrite the whole stripe for peer `j`, and seal it again. -/
def State.rewriteStripe (s : State) (j : Nat) : State :=
  if !s.shadowsOn then s else
  have s : State := if s.mosaic.stores = ⟨[], [], []⟩ then s else s.emit (.stores s.mosaic.stores)
  State.sealSlot (((s.mosaic.mem.map (fun x => x.1 / 4096)).eraseDups.filter (fun k => shadowPeer (4096 * k) == j)).foldl
    (fun (t : State) k => t.shadowSend (4096 * k) (Sparse.gets zeroByte t.mosaic.mem (4096 * k) 4096)) s) j

/-- Peer `j` is another package from now on: it holds none of what has been written. -/
def State.forgetPeer (s : State) (j : Nat) : State :=
  { s with mosaic := { s.mosaic with mem := s.mosaic.mem.filter (fun x => shadowPeer x.1 != j), stores := ⟨[], [], []⟩ } }

end Sys2Proof.Machine
end

