-- ==== Sys2Proof/Machine/Weights.lean ====
section
/-! DEFINITION. Model weights: keys, load jobs, generations, adapter slots and the switch (spec/10 R224 to R238). -/

namespace Sys2Proof.Machine

/-! ### The Urn's cipher (R224; spec/16 R365) -/

/-- What the Urn's memory holds of 4 KiB unit `u` from its base: the plain bytes under the dump key in the dump region, else under
the key drawn at cold reset, with the unit's number as tweak. `State.mem` holds what the controllers take and give. -/
def State.urnUnit (s : State) (u : Nat) : List Byte :=
  xtsEnc (if u < dumpSize / 4096 then dumpKey else s.sec.urnKey) u (s.readMem (urnBase + 4096 * u) 4096)

/-! ### LDR_CMD -/

def ldrBadArg : Nat := 1
def ldrDevice : Nat := 2
def ldrUnwrap : Nat := 3
def ldrNoSlot : Nat := 4
def ldrExists : Nat := 5
def ldrState : Nat := 6
def ldrNoKey : Nat := 7
def ldrGenLimit : Nat := 8
def ldrBusy : Nat := 9
def ldrNotReady : Nat := 10
def ldrInUse : Nat := 11

/-- A command of LDR_CMD: an ACTIVATE still being done no longer shows there (R28). -/
def State.ldr (s : State) (r : Requester) (k : State → State) : State :=
  s.gate r .ldrCmd 0 fun s => k { s with activations := s.activations.map (fun a => { a with shown := false }) }

/-- The end of a command: accepted with code 0, rejected otherwise. -/
def State.ldrEnd (s : State) (cmd code : Nat) : State := s.cmdCode .ldrCmd 0 cmd (if code = 0 then 0 else 2) code

def State.ldrArg (s : State) : Nat := s.pair .ldrArgLo .ldrArgHi 0

def State.readHost (s : State) (a n : Nat) : List Byte := Sparse.gets zeroByte s.host a n
def State.writeHost (s : State) (a : Nat) (bs : List Byte) : State := { s with host := Sparse.blit zeroByte s.host a bs }

/-! ### Keys (R225 to R227) -/

/-- The key of a blob: Z, the x-coordinate of the identity key times EPK, gives the KEK that unwraps WK (R226). -/
def blobKey (blob : List Byte) : Option (List Byte) :=
  let z := ecdh identityKey ((blob.drop 64).take 97)
  keyUnwrap (hkdf z (blob.take 16) 32) ((blob.drop 168).take 40)

/-- The refusal of a blob, or its key slot. -/
def State.unwrapCheck (s : State) (blob : List Byte) : Nat × KeySlot :=
  let b := fun (i n : Nat) => leNat ((blob.drop i).take n)
  let kind := b 9 1
  let k : KeySlot := ⟨kind, b 4 4, b 8 1, b 10 2, []⟩
  let bad := fun (c : Nat) => (c, k)
  if s.ldrArg % 64 ≠ 0 ∨ b 0 4 ≠ 0x4B570001 ∨ b 12 4 ≠ 0 ∨ b 161 7 ≠ 0 ∨ b 208 48 ≠ 0 ∨ k.gen = 0 ∨ kind > 1 ∨ k.mid = 0 ∨
    (kind = 0 ∧ k.tenant ≠ 0) then bad ldrBadArg
  else if (blob.drop 16).take 48 ≠ devId ∨ !onCurve ((blob.drop 64).take 97) then bad ldrDevice
  else match blobKey blob with
    | none => bad ldrUnwrap
    | some key =>
      if s.sec.life = 0 ∨ s.sec.life = 3 ∨ s.sec.level = 3 then bad ldrState
      else if s.keys.any (fun (x : KeySlot) => x.kind == kind && x.mid == k.mid && x.gen == k.gen && x.tenant == k.tenant) then bad ldrExists
      else if (s.keys.filter (fun x => x.kind == kind)).length ≥ (if kind = 0 then 2 else 64) then bad ldrNoSlot
      else (0, { k with key := key })

/-- Extend a measurement slot with a digest (spec/16 R367). -/
def State.extend (s : State) (n : Nat) (d : List Byte) : State :=
  { s with sec := { s.sec with slots := s.sec.slots.set n (sha384 (s.sec.slots.getD n (zeros 48) ++ d)) } }

def State.unwrap (s : State) (r : Requester) : State :=
  s.ldr r fun s =>
    let blob := s.readHost s.ldrArg 256
    let q := s.unwrapCheck blob
    if q.1 ≠ 0 then (s.bump 0x8018 2).ldrEnd 1 q.1
    else
      -- slot 8: MODELID, MODELGEN, KIND, TENANT (DEDUCED, unsafe; log entry 60)
      have s : State := { s with keys := s.keys ++ [q.2] }
      (s.extend 8 (sha384 ((blob.drop 4).take 8))).ldrEnd 1 0

def execUnwrap (r : Requester) (s : State) : Host.Outcome State Fault Refusal := .next (s.unwrap r)

/-! ### Generations (R236) -/

def State.genOf (s : State) (p gen : Nat) : Option Gen := s.gens.find? (fun g => g.p == p && g.gen == gen)
def State.gensOf (s : State) (p : Nat) : List Gen := s.gens.filter (fun g => g.p == p)

/-- A generation is complete when its member loads are (R232). -/
def Gen.complete (g : Gen) : Bool := !g.loads.isEmpty && g.loads.all (fun l => l.state == 2)

def State.activeGen (s : State) (p : Nat) : Nat := ((s.gensOf p).find? (fun g => g.role == 1)).map (fun g => g.gen) |>.getD 0
def State.drainGen (s : State) (p : Nat) : Nat := ((s.gensOf p).find? (fun g => g.role == 2)).map (fun g => g.gen) |>.getD 0

/-- Show the roles in WT_ACT. -/
def State.showGens (s : State) (p : Nat) : State :=
  let pick := fun (q : Gen → Bool) => (((s.gensOf p).find? q).map (fun g => g.gen)).getD 0
  s.wr .wtAct p (BitVec.ofNat 32 (pick (fun g => g.role == 1) * 2 ^ 24 + pick (fun g => g.role == 2) * 2 ^ 16 +
    pick (fun g => g.role == 0 && g.complete) * 2 ^ 8 + pick (fun g => g.role == 0 && !g.complete)))

def State.modGen (s : State) (p gen : Nat) (f : Gen → Gen) : State :=
  State.showGens { s with gens := s.gens.map (fun g => if g.p = p ∧ g.gen = gen then f g else g) } p

def State.aslotOf (s : State) (p k : Nat) : Option ASlot := s.aslots.find? (fun a => a.p == p && a.slot == k)

def State.modAslot (s : State) (p k : Nat) (f : ASlot → ASlot) : State :=
  { s with aslots := s.aslots.map (fun a => if a.p = p ∧ a.slot = k then f a else a) }

/-- Free the key slots that serve nothing any more: model keys of generations no partition holds (R227, R238). -/
def State.freeModelKey (s : State) (mid gen : Nat) : State :=
  if s.gens.any (fun g => (g.mid == mid || g.olds.contains mid) && g.gen == gen) then s
  else { s with keys := s.keys.filter (fun k => !(k.kind == 0 && k.mid == mid && k.gen == gen)) }

/-- Unmap and free tiered pages of a partition (R235, R238). -/
def State.freePages (s : State) (p : Nat) (vas : List Nat) : State :=
  have s : State := vas.foldl (fun (t : State) va => t.failHolds p va stNotMapped) s
  have s : State := (s.leaves.filter (fun l => l.p == p && vas.contains l.va)).foldl (fun (t : State) l =>
    (t.freeLeaf l).bloomEnd (.promotion p l.va)) s
  State.pruneTables { s with
    leaves := s.leaves.filter (fun l => !(l.p == p && vas.contains l.va))
    moves := s.moves.filter (fun m => !(m.p == p && vas.contains m.va)) }

/-! ### Job contexts (R230 to R232) -/

def State.jobOf (s : State) (c : Nat) : Option Job := s.jobs.find? (fun j => j.ctx == c)

/-- LDR_JSTAT and LDR_JPROG of a job that is reader, member or both. -/
def Job.shown (j : Job) : Nat × Nat × Nat :=
  let st := fun (use : Bool) (x : Nat) => if use then x else 2
  let m := st j.member j.mstate
  let r := st j.reader j.rstate
  let state := if m = 1 ∨ r = 1 then 1 else if m = 3 ∨ r = 3 then 3 else if r = 4 then 4 else 2
  let code := if state ≠ 3 then 0 else if m = 3 then j.mcode else j.rcode
  (state, code, if j.member then j.mnext else j.rnext)

/-- An adapter job has ended: its key slot is freed (R227). -/
def State.jobKeyEnd (s : State) (j : Job) : State :=
  if j.adapter then
    { s with keys := s.keys.filter (fun k => !(k.kind == 1 && k.mid == j.mid && k.gen == j.gen && k.tenant == j.tenant)) }
  else s

/-- Store a job's context and show it: one that ran and has ended on both sides gives its adapter key up, and one that pulls no chunk
needs no Bloom unit. -/
def State.putJob (s : State) (j : Job) : State :=
  have s : State := if j.shown.1 ≠ 1 ∧ (s.jobOf j.ctx).any (fun x => x.shown.1 == 1) then s.jobKeyEnd j else s
  have s : State := if j.phase = 2 then s else s.bloomEnd (.load j.ctx)
  have s : State := { s with jobs := s.jobs.filter (fun x => x.ctx != j.ctx) ++ [j] }
  ((s.sf R.ldrJstat_STATE j.ctx j.shown.1).sf R.ldrJstat_CODE j.ctx j.shown.2.1).wr .ldrJprog j.ctx (BitVec.ofNat 32 j.shown.2.2)

/-- Change the load a member job makes into its generation or adapter slot. -/
def State.modLoad (s : State) (j : Job) (f : Load → Load) : State :=
  let g := fun (l : List Load) => l.map (fun x => if x.id = j.loadid then f x else x)
  if j.adapter then s.modAslot j.p j.aslot (fun a => { a with loads := g a.loads })
  else s.modGen j.p j.gen (fun a => { a with loads := g a.loads })

def State.loadOf (s : State) (j : Job) : Option Load :=
  let l := if j.adapter then ((s.aslotOf j.p j.aslot).map (fun a => a.loads)).getD []
    else ((s.genOf j.p j.gen).map (fun a => a.loads)).getD []
  l.find? (fun x => x.id == j.loadid)

/-- The member side fails with a code (R232). -/
def State.memberFail (s : State) (j : Job) (code : Nat) : State :=
  have s : State := if code = 1 then s.bump 0x8018 1 else s
  (s.modLoad j (fun l => { l with state := 3, code := code })).putJob { j with mstate := 3, mcode := code }

/-- Staging addresses (R231). -/
def Job.entryAt (j : Job) (slot : Nat) : Nat := fgaOff j.stage + 64 * slot
def Job.slotAt (j : Job) (slot : Nat) : Nat := fgaOff j.stage + 0x1000 + slot * 0x1000000

def State.memWord (s : State) (a : Nat) : Nat := leNat (s.readMem a 8)

/-- The member reads the entry of its next chunk: over the fabric under SKEY when the staging area is another package's (R231). -/
def State.memberPoll (s : State) (j : Job) : State :=
  have s : State := s.dropXfer (.job j.ctx)
  if j.mnext ≥ j.nchunk then s.putJob { j with phase := 0 }
  else
    have s : State := s.putJob { j with phase := 1 }
    let k := j.mnext % 32
    if s.own j.stage then s
    else s.launch (some j.p) (.job j.ctx) 1 [⟨j.stage + 64 * k, 64, 0, j.skey⟩] []

/-- The member goes on to its next chunk, or has seen every chunk. -/
def State.memberSettle (s : State) (j : Job) : State :=
  if j.mstate ≠ 1 ∨ j.mnext < j.nchunk then s.memberPoll j else
  have s : State := s.modLoad j (fun l => { l with state := 2, code := 0 })
  have s : State := if j.adapter then s.modAslot j.p j.aslot (fun a => { a with valid := true }) else s
  s.memberPoll { j with mstate := 2 }

/-- Whether DONE has reached NDEST in a slot's entry. -/
def State.slotDone (s : State) (j : Job) (slot : Nat) : Bool :=
  decide (bits (s.memWord (j.entryAt slot + 8)) 31 0 ≥ bits (s.memWord (j.entryAt slot + 16)) 31 0)

/-- Forget the slots that DONE has freed, and end a reader that has published everything (R231, R232). -/
def State.readerSettle (s : State) (j : Job) : State × Job :=
  let j := { j with slots := j.slots.filter (fun x => !s.slotDone j x.1) }
  if j.rstate ≠ 1 ∨ j.rnext < j.nchunk then (s.putJob j, j)
  else if j.timedOut then
    let j := { j with rstate := 4 }
    (s.putJob j, j)
  else if j.slots.isEmpty then
    let j := { j with rstate := 2 }
    (s.putJob j, j)
  else (s.putJob j, j)

/-- Set ABORT in every entry of the slot table. -/
def State.setAborts (s : State) (j : Job) : State :=
  if !s.own j.stage then s else
  (List.range 32).foldl (fun (t : State) k =>
    (t.writeMem (j.entryAt k) (natLE 8 (putBits (t.memWord (j.entryAt k)) 32 32 1))).1) s

/-- The reader side fails with a code. -/
def State.readerFail (s : State) (j : Job) (code : Nat) : State := (s.setAborts j).putJob { j with rstate := 3, rcode := code }

/-! ### START and ABORT -/

/-- A job from its descriptor words. -/
def jobOfWords (ctx tenant : Nat) (w : Nat → Nat) : Job :=
  { ctx := ctx, loadid := bits (w 0) 31 0, reader := bit (w 0) 32, member := bit (w 0) 33, adapter := bit (w 0) 34,
    p := bits (w 0) 38 35, mid := bits (w 1) 31 0, gen := bits (w 1) 39 32, aslot := bits (w 1) 47 40, tenant := tenant,
    stage := w 2, skey := w 3, myidx := bits (w 4) 15 0, nmemb := bits (w 4) 31 16, nchunk := bits (w 4) 63 32, mlist := w 5,
    clist := w 6, root := w 7, rnext := 0, mnext := 0, rstate := if bit (w 0) 32 then 1 else 0, rcode := 0,
    mstate := if bit (w 0) 33 then 1 else 0, mcode := 0, slots := [], timedOut := false, seen := 0, phase := 0, expect := 0 }

/-- What refuses a START (R230; spec/16 R380 for an open debug level), in the order of its list after the descriptor itself. -/
def State.startCode (s : State) (w : Nat → Nat) (ctx : Nat) : Nat :=
  let j := jobOfWords ctx 0 w
  let gs := s.gensOf j.p
  if s.ldrArg % 64 ≠ 0 ∨ bits (w 0) 63 39 ≠ 0 ∨ bits (w 1) 63 48 ≠ 0 ∨ j.loadid = 0 ∨ j.nmemb = 0 ∨ j.nmemb > 4096 then ldrBadArg
  else if s.sec.level = 3 ∨ (s.sec.level = 2 ∧ bit s.sec.mask j.p) then ldrState
  else if !s.keys.any (fun k => k.kind == b2n j.adapter && k.mid == j.mid && k.gen == j.gen) then ldrNoKey
  else if gs.length ≥ 2 ∧ !gs.any (fun g => g.gen == j.gen) then ldrGenLimit
  -- a generation that an accepted ACTIVATE switches to at the coming boundary is as good as active: no byte of an incomplete job is named
  -- (R232, R237; DESIGN CHOICE, unsafe; log entry 35)
  else if gs.any (fun g => g.gen == j.gen && g.role != 0) ∨ s.activations.any (fun a => a.p == j.p && a.gen == j.gen && a.accepted) then ldrInUse
  else if s.jobs.any (fun x => x.ctx == ctx && (x.rstate == 1 || x.mstate == 1)) then ldrBusy
  else 0

/-- The loads of a list with one begun, or resumed: what it has committed stays when it failed with TIMEOUT, READER_ABORT or
ABORTED, and was of the same model (R232). -/
def beginLoad (l : List Load) (id : Nat) (same : Bool) : List Load :=
  let kept := match l.find? (fun x => x.id == id) with
    | some x => if same ∧ x.state = 3 ∧ (x.code = 5 ∨ x.code = 6 ∨ x.code = 8) then x.committed else []
    | none => []
  l.filter (fun x => x.id != id) ++ [⟨id, 1, 0, kept⟩]

/-- Begin the member side of a job. -/
def State.beginMember (s : State) (j : Job) : State :=
  if !j.member then s
  else if j.adapter then
    let old := (s.aslotOf j.p j.aslot).filter (fun a => a.mid == j.mid && a.gen == j.gen && a.tenant == j.tenant)
    { s with aslots := s.aslots.filter (fun a => !(a.p == j.p && a.slot == j.aslot)) ++
        [⟨j.p, j.aslot, j.tenant, j.mid, j.gen, j.root, false, ((s.aslotOf j.p j.aslot).map (fun a => a.pages)).getD [],
          beginLoad ((old.map (fun a => a.loads)).getD []) j.loadid true⟩] }
  else
    have s : State := if (s.genOf j.p j.gen).isSome then s
      else { s with gens := s.gens ++ [⟨j.p, j.mid, j.gen, j.root, 0, [], [], [], 0, false, []⟩] }
    s.modGen j.p j.gen (fun g => { g with mid := j.mid, olds := if g.mid = j.mid then g.olds else g.olds ++ [g.mid], root := j.root, loads := beginLoad g.loads j.loadid (g.mid == j.mid) })

def State.ldrStart (s : State) (r : Requester) (ctx : Nat) : State :=
  s.ldr r fun s =>
    let d := s.readHost s.ldrArg 64
    let w := fun (k : Nat) => leNat ((d.drop (8 * k)).take 8)
    let c := s.startCode w ctx
    if c ≠ 0 then s.ldrEnd 2 c else
    let probe := jobOfWords ctx 0 w
    let tenant := match s.keys.find? (fun k => k.kind == b2n probe.adapter && k.mid == probe.mid && k.gen == probe.gen) with
      | some k => k.tenant
      | none => 0
    let j := { jobOfWords ctx tenant w with seen := s.time }
    -- a job of no chunks has seen and published every one
    have s : State := (s.beginMember j).putJob j
    have s : State := if j.member then s.memberSettle j else s
    (match s.jobOf ctx with
     | some j => if j.reader then (s.readerSettle j).1 else s
     | none => s).ldrEnd 2 0

def execLdrStart (r : Requester) (job : Nat) (s : State) : Host.Outcome State Fault Refusal := .next (s.ldrStart r job)

/-- End both sides of a job that runs with ABORTED (R232). -/
def State.abortJob (s : State) (j : Job) : State :=
  have s : State := if j.mstate = 1 then s.memberFail j 8 else s
  match s.jobOf j.ctx with
  | some j => if j.rstate = 1 then s.readerFail j 8 else s
  | none => s

def State.ldrAbort (s : State) (r : Requester) (ctx : Nat) : State :=
  s.ldr r fun s =>
    (match s.jobOf ctx with
      | some j => s.abortJob j
      | none => s).ldrEnd 3 0

def execLdrAbort (r : Requester) (job : Nat) (s : State) : Host.Outcome State Fault Refusal := .next (s.ldrAbort r job)

/-! ### The reader (R231) -/

/-- The chunk header's fields (R228). -/
def chPlen (h : List Byte) : Nat := hdrFld h 0 63 32
def chKind (h : List Byte) : Nat := hdrFld h 0 23 20
def chSpace (h : List Byte) : Nat := hdrFld h 0 27 24
def chMode (h : List Byte) : Nat := hdrFld h 0 29 28
def chLo (h : List Byte) : Nat := hdrFld h 3 15 0
def chHi (h : List Byte) : Nat := hdrFld h 3 31 16
def chDst (h : List Byte) : Nat := hdrFld h 4 63 0
def chOut (h : List Byte) : Nat := hdrFld h 5 31 0
def chTier (h : List Byte) : Nat := hdrFld h 5 33 32
def chHint (h : List Byte) : Nat := hdrFld h 5 36 34
def chPsize (h : List Byte) : Nat := hdrFld h 5 38 37

/-- How many members a chunk names. -/
def chDest (nmemb : Nat) (h : List Byte) : Nat := if chMode h = 0 then nmemb else if chMode h = 1 then 1 else chHi h + 1 - chLo h

/-- Whether a chunk names a member. -/
def chNames (h : List Byte) (m : Nat) : Bool :=
  if chMode h = 0 then true else if chMode h = 1 then chLo h == m else decide (chLo h ≤ m) && decide (m ≤ chHi h)

/-- What the reader checks of a chunk. -/
def readerOk (j : Job) (h : List Byte) (n : Nat) : Bool :=
  hdrFld h 0 15 0 == 0x6C57 && hdrFld h 0 19 16 == 1 && hdrFld h 2 31 0 == j.rnext && hdrFld h 2 63 32 == j.nchunk &&
  n == chPlen h + 128 && decide (n ≤ 16777216)

/-- The reader publishes its next chunk when the slot is free; `hostOk` false is a host read error. -/
def State.readerPublish (s : State) (ctx : Nat) (hostOk : Bool) : State :=
  match s.jobOf ctx with
  | none => s
  | some j0 =>
    if !j0.reader ∨ j0.rstate ≠ 1 then s else
    let q := s.readerSettle j0
    have s : State := q.1
    let j := q.2
    let slot := j.rnext % 32
    if j.rstate ≠ 1 ∨ j.rnext ≥ j.nchunk ∨ j.slots.any (fun x => x.1 == slot) then s else
    let e := s.readHost (j.clist + 16 * j.rnext) 16
    let n := leNat ((e.drop 8).take 4)
    let h := s.readHost (leNat (e.take 8)) 64
    if !s.own j.stage then s.readerFail j 7 else
    have s : State := (s.writeMem (j.entryAt slot) (zeros 64)).1
    if !hostOk ∨ !readerOk j h n then s.readerFail j 7 else
    have s : State := (s.writeMem (j.slotAt slot) (s.readHost (leNat (e.take 8)) n)).1
    have s : State := (s.writeMem (j.entryAt slot)
      (natLE 8 (j.rnext + 1) ++ natLE 8 ((j.rnext + 1) * 2 ^ 32) ++ natLE 8 (chDest j.nmemb h) ++ zeros 40)).1
    (s.readerSettle { j with rnext := j.rnext + 1, slots := j.slots ++ [(slot, j.rnext, s.time)] }).1

def execReaderPublishChunk (job : Nat) (hostOk : Bool) (s : State) : Host.Outcome State Fault Refusal := .next (s.readerPublish job hostOk)

/-- A slot is freed by the staging slot timeout (0x6100:07). -/
def State.slotTimeout (s : State) (ctx slot : Nat) : State :=
  match s.jobOf ctx with
  | none => s
  | some j =>
    match j.slots.find? (fun x => x.1 == slot) with
    | none => s
    | some x =>
      if j.rstate ≠ 1 ∨ s.slotDone j slot then s
      else ((s.until (x.2.2 + s.dnum 0x6100 7 * 1000000)).readerSettle
        { j with slots := j.slots.filter (fun x => x.1 != slot), timedOut := true }).1

def execStagingSlotTimeout (job slot : Nat) (s : State) : Host.Outcome State Fault Refusal := .next (s.slotTimeout job slot)

/-! ### The member (R229, R231) -/

/-- The compare-and-swap on DONE goes out with the word it expects; in the package's own memory it is done at once. -/
def State.memberCas (s : State) (j : Job) : State :=
  let c := j.mnext
  let k := c % 32
  if s.own j.stage then
    let d := s.memWord (j.entryAt k + 8)
    have s : State := if bits d 63 32 = c + 1 then (s.writeMem (j.entryAt k + 8) (natLE 8 (putBits d 31 0 (bits d 31 0 + 1)))).1 else s
    s.memberSettle { j with mnext := c + 1 }
  else
    have s : State := (s.dropXfer (.job j.ctx)).putJob { j with phase := 3 }
    s.launch (some j.p) (.job j.ctx) 3 [⟨j.stage + 64 * k + 8, 8, 0, j.skey⟩]
      (Sparse.blit zeroByte [] 0 (natLE 8 j.expect ++ natLE 8 (putBits j.expect 31 0 (bits j.expect 31 0 + 1))))

/-- What the reads of a member's transfer have returned. -/
def State.jobBytes (s : State) (j : Job) (pos n : Nat) : List Byte :=
  Sparse.gets zeroByte (((s.xferOf (.job j.ctx)).map (fun x => x.buf)).getD []) pos n

/-- The compare-and-swap has returned: the chunk is acknowledged, or the swap is tried again while DONE still names it. A swap that
met an error is tried again (DESIGN CHOICE, unsafe; log entry 35). -/
def State.memberAcked (s : State) (j : Job) : State :=
  let old := leNat (s.jobBytes j 0 8)
  if s.xferStatus (.job j.ctx) ≠ 0 then s.memberCas j
  else if old = j.expect ∨ bits old 63 32 ≠ j.mnext + 1 then s.memberSettle { j with mnext := j.mnext + 1 }
  else s.memberCas { j with expect := old }

/-- The member has read the header of its next chunk: it goes on to the next, acknowledges, or pulls it. A segment that is to be
expanded is with the Bloom units from the pull on (spec/08 R204; DESIGN CHOICE, unsafe; log entry 99). -/
def State.memberHeader (s : State) (j : Job) (h : List Byte) : State :=
  if !chNames h j.myidx then s.memberSettle { j with mnext := j.mnext + 1 }
  else if j.mstate ≠ 1 ∨ ((s.loadOf j).any (fun l => l.committed.contains j.mnext)) then s.memberCas j
  else
    have s : State := (s.dropXfer (.job j.ctx)).putJob { j with phase := 2 }
    have s : State := if chKind h = 1 ∨ (chKind h = 2 ∧ chTier h = 0) then s.bloomAsk (.load j.ctx) [] else s
    if s.own j.stage then s else
    let k := j.mnext % 32
    let n := min 16777216 (chPlen h + 128)
    -- the pull, and after its last byte the entry once more
    (s.modXfer (.job j.ctx) (fun x => { x with stores := [⟨j.stage + 64 * k, 64, 0x2000000, j.skey⟩] })).launch (some j.p)
      (.job j.ctx) 4 [⟨j.stage + 0x1000 + k * 0x1000000, n, 0, j.skey⟩] []

/-- The member has read the entry of its next chunk (R231): once SEQ names the chunk it reads the chunk's header, else the entry
again. A member that has failed passes over a chunk whose slot another has taken already, since it can be acknowledged no more. -/
def State.memberEntry (s : State) (j : Job) (e : List Byte) : State :=
  let w0 := leNat (e.take 8)
  let j := { j with expect := leNat ((e.drop 8).take 8) }
  if bit w0 32 then
    (if j.mstate = 1 then
      have s : State := s.memberFail j 6
      s.memberPoll { j with mstate := 3, mcode := 6 }
     else s.memberPoll j)
  else if j.mstate ≠ 1 ∧ bits w0 31 0 > j.mnext + 1 then s.memberSettle { j with mnext := j.mnext + 1 }
  else if bits w0 31 0 ≠ j.mnext + 1 then s.memberPoll j
  else
    let j := { j with seen := s.time }
    if s.own j.stage then s.memberHeader j (s.readMem (j.slotAt (j.mnext % 32)) 64)
    else
      have s : State := (s.dropXfer (.job j.ctx)).putJob { j with phase := 4 }
      s.launch (some j.p) (.job j.ctx) 1 [⟨j.stage + 0x1000 + j.mnext % 32 * 0x1000000, 64, 0, j.skey⟩] []

/-- The member has the entry of its next chunk, its header, or the answer to its acknowledgement. A read over the fabric that met an error is
made again (DESIGN CHOICE, unsafe; log entry 35). -/
def State.memberSeen (s : State) (ctx : Nat) : State :=
  match s.jobOf ctx with
  | none => s
  | some j =>
    if !j.member ∨ !s.xferIdle (.job ctx) then s
    else if j.phase = 3 then s.memberAcked j
    else if j.phase ≠ 1 ∧ j.phase ≠ 4 then s
    else if s.own j.stage then s.memberEntry j (s.readMem (j.entryAt (j.mnext % 32)) 64)
    else if s.xferStatus (.job ctx) ≠ 0 then s.memberPoll j
    else if j.phase = 4 then s.memberHeader j (s.jobBytes j 0 64)
    else s.memberEntry j (s.jobBytes j 0 64)

/-- Whether the member is at that chunk: a command for another chunk has no event behind it (DESIGN CHOICE, unsafe; log entry 35). -/
def State.memberAt (s : State) (job chunk : Nat) : Bool := (s.jobOf job).any (fun j => j.mnext == chunk)

def execMemberChunkSeen (job chunk : Nat) (s : State) : Host.Outcome State Fault Refusal :=
  .next (if s.memberAt job chunk then s.memberSeen job else s)

/-- Bytes a chunk writes (R229). -/
def chWritten (h : List Byte) : Nat := if chKind h = 0 then chPlen h else if chKind h = 1 then chOut h else pageBytes (chPsize h)

/-- Whether a header breaks the table of R228. -/
def chBroken (h : List Byte) : Bool :=
  hdrFld h 0 15 0 != 0x6C57 || hdrFld h 0 19 16 != 1 || decide (chKind h > 2) || decide (chSpace h > 1) || decide (chMode h > 2) ||
  hdrFld h 0 31 30 != 0 || decide (chPlen h < 64) || decide (chPlen h > 16777088) || chPlen h % 64 != 0 || hdrFld h 1 63 49 != 0 ||
  (!bit (hdrFld h 1 63 0) 40 && hdrFld h 1 48 41 != 0) || decide (hdrFld h 2 31 0 ≥ hdrFld h 2 63 32) ||
  (chMode h != 2 && chHi h != 0) || hdrFld h 3 63 32 != 0 || decide (chDst h ≥ 2 ^ 49) || (chKind h == 0 && chOut h != 0) ||
  (chSpace h == 1 && (decide (chTier h > 1) || decide (chHint h > 4) || decide (chPsize h > 1))) || hdrFld h 5 63 39 != 0 ||
  hdrFld h 6 63 0 != 0 || hdrFld h 7 63 0 != 0

/-- Tiered pages a chunk maps. -/
def chPages (h : List Byte) : List Nat :=
  (List.range (chWritten h / pageBytes (chPsize h))).map (fun i => chDst h - tieredBase + i * pageBytes (chPsize h))

/-- The check of R229: 0, CHECK (2) or MAPPED (3). -/
def State.chunkCheck (s : State) (j : Job) (h : List Byte) : Nat :=
  let n := chWritten h
  let d := chDst h
  let pg := pageBytes (chPsize h)
  let adapter := hdrFld h 1 40 40
  if chBroken h then 2
  else if hdrFld h 1 31 0 ≠ j.mid ∨ hdrFld h 1 39 32 ≠ j.gen ∨ adapter ≠ b2n j.adapter ∨
    (j.adapter ∧ hdrFld h 1 48 41 ≠ j.aslot) ∨ hdrFld h 2 63 32 ≠ j.nchunk ∨ hdrFld h 2 31 0 ≠ j.mnext then 2
  else if chSpace h = 0 then
    if chKind h = 2 ∨ adapter = 1 ∨ s.region d n ≠ .carafe ∨ !s.allowed (some j.p) d n true ∨
      s.gens.any (fun g => g.p == j.p && g.gen != j.gen && g.ranges.any (fun x => decide (x.1 < d + n) && decide (d < x.1 + x.2))) then 2
    else 0
  else if s.region d n ≠ .tiered ∨ (d - tieredBase) % pg ≠ 0 ∨ n % pg ≠ 0 ∨ n = 0 then 2
  else if s.leaves.any (fun l => l.p == j.p && decide (l.va < d - tieredBase + n) && decide (d - tieredBase < l.va + pageBytes l.psize)) then 3
  else if (chTier h = 1 ∧ chPsize h = 1 ∧ chKind h ≠ 2) ∨ (chKind h = 2 ∧ (chOut h ≠ pg ∨ chPlen h > chOut h)) then 2
  else 0

/-- Map one page of a chunk from plain bytes (R229). -/
def State.chunkPlain (s : State) (p : Nat) (l : Leaf) (bs : List Byte) : Option State :=
  let r := s.placeFor p l l.tier
  r.2.map (fun f => State.tierWrite { r.1 with leaves := insLeaf { l with frame := f } r.1.leaves } l.tier f bs)

/-- Map one page of a chunk from a segment, kept as the lower copy; `s` has the segment's bytes at `f` (R229). -/
def State.chunkSeg (s : State) (p : Nat) (l : Leaf) (f : Nat) (bs : List Byte) : Option State :=
  if l.tier = 1 then some { s with leaves := insLeaf { l with frame := f } s.leaves }
  else
    let r := State.placeFor { s with leaves := insLeaf { l with tier := 1, frame := f } s.leaves } p l 0
    r.2.map (fun a => ((r.1.writeMem a bs).1).setLeaf p l.va (fun x => { x with tier := 0, frame := a, lower := some (1, f) }))

/-- Map one page of a chunk. -/
def State.chunkPage (s : State) (p : Nat) (h : List Byte) (va : Nat) (bs : List Byte) (seg : Option (List Byte)) : Option State :=
  let l : Leaf := ⟨p, va, chPsize h, chTier h, true, false, false, false, chHint h, 0, 0, none, none⟩
  match seg with
  | none => s.chunkPlain p l bs
  | some g =>
    let l := { l with cmp := true, clen := (g.length + 4095) / 4096 - 1 }
    let r := s.placeFor p l 1
    r.2.bind (fun f => (r.1.writeMem f (padTo l.lowLen g)).1.chunkSeg p l f bs)

/-- Map the pages of a chunk, all or none; nothing when frames or tables run out. -/
def mapChunk (p : Nat) (h : List Byte) (seg : Option (List Byte)) : List Nat → List Byte → State → Option State
  | [], _, s => if 4096 * s.tablesInUse.length > s.ptPool then none else some s.placeTables
  | va :: t, bs, s =>
    match s.chunkPage p h va (bs.take (pageBytes (chPsize h))) seg with
    | none => none
    | some u => mapChunk p h seg t (bs.drop (pageBytes (chPsize h))) u

/-- Expand a decrypted segment: its bytes, or the reason. -/
def expandSeg (bs : List Byte) : TampRes :=
  tampExpand (fun a k => some ((bs.drop a).take k)) (fun _ _ => true) 0 ⟨none, none, bs.length, 2 ^ 32, false⟩

/-- The key a job uses. -/
def State.jobKey (s : State) (j : Job) : List Byte :=
  match s.keys.find? (fun k => k.kind == b2n j.adapter && k.mid == j.mid && k.gen == j.gen && (!j.adapter || k.tenant == j.tenant)) with
  | some k => k.key
  | none => []

/-- Record what a chunk wrote for its generation or adapter slot; `bs` are the bytes it wrote, which go into a stripe of the shadows
under the key of the job (for an adapter job the key of the adapter: DESIGN CHOICE, unsafe; log entry 110). -/
def State.noteWritten (s : State) (j : Job) (h bs : List Byte) : State :=
  have s : State := s.shadowStripe j.p j.gen (if j.adapter then some j.aslot else none) j.mid j.mnext (s.jobKey j) h bs (chWritten h)
  if j.adapter then s.modAslot j.p j.aslot (fun a => { a with pages := a.pages ++ chPages h })
  else if chSpace h = 1 then s.modGen j.p j.gen (fun g => { g with pages := g.pages ++ chPages h })
  else s.modGen j.p j.gen (fun g => { g with ranges := g.ranges ++ [(chDst h, chWritten h)] })

def State.noteChunk (s : State) (j : Job) (h bs : List Byte) : State :=
  (s.modLoad j (fun l => { l with committed := l.committed ++ [j.mnext] })).noteWritten j h bs

/-- Check, authenticate and write a pulled chunk (R229): the code of a failure, 0 when it is committed. -/
def State.chunkCommit (s : State) (j : Job) (chunk : List Byte) : State × Nat :=
  let h := chunk.take 64
  let c := s.chunkCheck j h
  if c ≠ 0 then (s, c)
  else if !s.stripeRoom (chWritten h) then (s, 2)
  else
    let ct := (chunk.drop 64).take (chPlen h)
    let tag := (chunk.drop (64 + chPlen h)).take 16
    let nonce := natLE 4 j.mnext ++ natLE 4 j.mid ++ natLE 1 j.gen ++ natLE 1 (b2n j.adapter) ++ zeros 2
    match gcmOpen (s.jobKey j) nonce h ct tag with
    | none => (s, 1)
    | some pt0 =>
      let pt := padTo (chPlen h) pt0
      let x := if chKind h = 0 then (⟨0, pt, pt.length⟩ : TampRes) else expandSeg pt
      -- a segment kept compressed in the Urn is expanded only when it is promoted
      let lazy := decide (chKind h = 2 ∧ chTier h = 1)
      if !lazy ∧ (x.reason ≠ 0 ∨ x.outlen ≠ chWritten h) then
        have s : State := if x.reason ≠ 0 then s.blmReason x.reason else s
        -- what it has written at DST is undefined, and is the generation's to be zeroed
        ((if chSpace h = 0 then (s.freeRanges [(chDst h, chWritten h)]).modGen j.p j.gen (fun g =>
            { g with ranges := g.ranges ++ [(chDst h, chWritten h)] }) else s), 4)
      else if chSpace h = 0 then
        let w := s.writeMem (chDst h) x.out
        ((w.2.foldl (fun (t : State) u => t.reportUc u (some j.p)) w.1).noteChunk j h x.out, 0)
      else match mapChunk j.p h (if chKind h = 2 then some pt else none) (chPages h) x.out s with
        | none => (s, 2)
        | some t => (t.noteChunk j h (if chKind h = 2 then pt else x.out), 0)

/-- The member has pulled the chunk and read the entry again (R231). -/
def State.memberCommit (s : State) (ctx : Nat) : State :=
  match s.jobOf ctx with
  | none => s
  | some j =>
    if j.phase ≠ 2 ∨ !s.xferIdle (.job ctx) ∨ (j.mstate = 1 ∧ s.bloomWaits (.load ctx)) then s
    else if s.xferStatus (.job ctx) ≠ 0 then s.memberPoll j
    else
      let k := j.mnext % 32
      let own := s.own j.stage
      let n := chPlen (if own then s.readMem (j.slotAt k) 64 else s.jobBytes j 0 64) + 128
      let chunk := if own then s.readMem (j.slotAt k) n else s.jobBytes j 0 n
      let entry := if own then s.readMem (j.entryAt k) 64 else s.jobBytes j 0x2000000 64
      let j := { j with expect := leNat ((entry.drop 8).take 8) }
      if bits (leNat (entry.take 8)) 31 0 ≠ j.mnext + 1 then
        (if j.mstate = 1 then s.memberFail j 5 else s).memberSettle
          { j with mstate := 3, mcode := if j.mstate = 1 then 5 else j.mcode, mnext := j.mnext + 1 }
      else
        let r := if j.mstate = 1 then s.chunkCommit j chunk else (s, 0)
        if r.2 = 0 then r.1.memberCas j else (r.1.memberFail j r.2).memberCas { j with mstate := 3, mcode := r.2 }

def execMemberChunkCommit (job chunk : Nat) (s : State) : Host.Outcome State Fault Refusal :=
  .next (if s.memberAt job chunk then s.memberCommit job else s)

/-- No new SEQ within the limit (R232, 0x6100:04). -/
def State.loadInactive (s : State) (ctx : Nat) : State :=
  match s.jobOf ctx with
  | none => s
  | some j => if j.mstate = 1 ∧ j.mnext < j.nchunk then (s.until (j.seen + s.dnum 0x6100 4 * 1000000)).memberFail j 5 else s

def execLoadInactivityTimeout (job : Nat) (s : State) : Host.Outcome State Fault Refusal := .next (s.loadInactive job)

/-! ### DROP and ADROP (R235, R238) -/

/-- Forget a generation: its jobs end, its pages are freed, its ranges zeroed, its key slot freed. -/
def State.dropGen (s : State) (g : Gen) : State :=
  have s : State := (s.jobs.filter (fun j => j.p == g.p && j.gen == g.gen && !j.adapter)).foldl (fun (t : State) j => t.abortJob j) s
  have s : State := s.freePages g.p g.pages
  have s : State := g.ranges.foldl (fun (t : State) x => t.zeroMem x.1 x.2) s
  have s : State := s.dropStripes (fun x => x.p == g.p && x.gen == g.gen && x.aslot.isNone)
  ((g.mid :: g.olds).foldl (fun (t : State) m => t.freeModelKey m g.gen)
    { s with gens := s.gens.filter (fun x => !(x.p == g.p && x.gen == g.gen)) }).showGens g.p

def State.drop (s : State) (r : Requester) (p gen : Nat) : State :=
  s.ldr r fun s =>
    match s.genOf p gen with
    | none => s.ldrEnd 4 ldrBadArg
    | some g => if g.role ≠ 0 then s.ldrEnd 4 ldrInUse else (s.dropGen g).ldrEnd 4 0

def execDrop (r : Requester) (p gen : Nat) (s : State) : Host.Outcome State Fault Refusal := .next (s.drop r p gen)

/-- Forget an adapter slot: a job that still loads it ends with ABORTED (DESIGN CHOICE, unsafe; log entry 35), its pages are freed. -/
def State.dropAslot (s : State) (a : ASlot) : State :=
  have s : State := (s.jobs.filter (fun j => j.p == a.p && j.aslot == a.slot && j.adapter)).foldl (fun (t : State) j => t.abortJob j) s
  have s : State := s.freePages a.p (((s.aslotOf a.p a.slot).map (fun x => x.pages)).getD [])
  have s : State := s.dropStripes (fun x => x.p == a.p && x.aslot == some a.slot)
  { s with aslots := s.aslots.filter (fun x => !(x.p == a.p && x.slot == a.slot)) }

def State.adrop (s : State) (r : Requester) (p slot : Nat) : State :=
  s.ldr r fun s =>
    match s.aslotOf p slot with
    | none => s.ldrEnd 6 ldrBadArg
    | some a =>
      if (s.liveSlots p).any (fun k => (s.ticket k).avalid && (s.ticket k).aslot == slot) then s.ldrEnd 6 ldrInUse
      else (s.dropAslot a).ldrEnd 6 0

def execAdrop (r : Requester) (p slot : Nat) (s : State) : Host.Outcome State Fault Refusal := .next (s.adrop r p slot)

/-- Drop everything a partition holds, at its reset (R238). -/
def State.dropPart (s : State) (p : Nat) : State :=
  have s : State := { s with activations := s.activations.filter (fun a => a.p != p) }
  -- its jobs end and leave no state (R232)
  have s : State := (s.jobs.filter (fun j => j.p == p)).foldl (fun (t : State) j =>
    (((((if j.shown.1 = 1 then t.jobKeyEnd j else t).dropXfer (.job j.ctx)).bloomEnd (.load j.ctx)).sf R.ldrJstat_STATE j.ctx 0).sf R.ldrJstat_CODE j.ctx 0).wr .ldrJprog j.ctx 0) s
  have s : State := { s with jobs := s.jobs.filter (fun j => j.p != p) }
  have s : State := (s.gensOf p).foldl (fun (t : State) g => t.dropGen g) s
  (s.aslots.filter (fun a => a.p == p)).foldl (fun (t : State) a => t.dropAslot a) s

/-! ### ACTIVATE (R237) -/

/-- Whether a spare adoption touches a partition: from TEARDOWN until RESUME has completed (spec/14 R334). -/
def State.adopting (s : State) (p : Nat) : Bool := bit (s.gf R.fltStat_TORN 0) p || s.gf R.fltStat_STATE 0 == 2

def State.ldrActivate (s : State) (r : Requester) (p gen : Nat) : State :=
  s.ldr r fun s =>
    if !s.isLead p then s.ldrEnd 5 ldrNotReady
    else if s.activations.any (fun a => a.p == p) then s.ldrEnd 5 ldrBusy
    else State.cmdCode { s with activations := s.activations ++ [⟨p, gen, false, true⟩] } .ldrCmd 0 5 1 0

def execLdrActivate (r : Requester) (p gen : Nat) (s : State) : Host.Outcome State Fault Refusal := .next (s.ldrActivate r p gen)

/-- End an ACTIVATE, and show its code while LDR_CMD still shows it. -/
def State.activateEnd (s : State) (a : Activation) (code : Nat) : State :=
  have s : State := { s with activations := s.activations.filter (fun x => x.p != a.p) }
  if a.shown then s.ldrEnd 5 code else s

/-- The lead's check ends; `complete` says that GEN is complete on every other package of the group. -/
def State.activateCheck (s : State) (p : Nat) (complete : Bool) : State :=
  match s.activations.find? (fun a => a.p == p && !a.accepted) with
  | none => s
  | some a =>
    let standby := (s.genOf p a.gen).any (fun g => g.role == 0 && g.complete)
    if s.adopting p then s.activateEnd a ldrBusy
    else if !standby ∨ !complete then s.activateEnd a ldrNotReady
    else { s with activations := s.activations.map (fun x => if x.p = p then { x with accepted := true } else x) }

def execActivateCheckDone (p : Nat) (complete : Bool) (s : State) : Host.Outcome State Fault Refusal := .next (s.activateCheck p complete)

/-- The switch, at its boundary (R237). -/
def State.switchGen (s : State) (p : Nat) : State :=
  match s.activations.find? (fun a => a.p == p && a.accepted) with
  | none => s
  | some a =>
    have s : State := { s with gens := s.gens.map (fun g => if g.p ≠ p then g
      else if g.gen = a.gen then { g with role := 1 }
      else if g.role = 1 then { g with role := 2, since := s.time, overdue := false } else g) }
    ((s.tell p "generation" a.gen).showGens p).activateEnd a 0

/-- The drain limit passes (R238): the tickets still live retire at the next boundary. -/
def State.drainExpiry (s : State) (p : Nat) : State :=
  let drains := fun (g : Gen) => decide (g.p = p) && decide (g.role = 2) && decide (s.dnum 0x6100 5 = 0)
  have s : State := match s.gens.find? drains with
    | some g => s.until (g.since + s.dnum 0x6100 6 * 1000000000)
    | none => s
  { s with gens := s.gens.map (fun g =>
      if g.p = p ∧ g.role = 2 ∧ s.dnum 0x6100 5 = 0 ∧ s.time ≥ g.since + s.dnum 0x6100 6 * 1000000000 then { g with overdue := true } else g) }

def execDrainLimitExpiry (p : Nat) (s : State) : Host.Outcome State Fault Refusal := .next (s.drainExpiry p)

end Sys2Proof.Machine
end

