-- ==== Sys2Proof/Machine/Rail.lean ====
section
/-! DEFINITION. The Ticket rail: request rings and front ports, records, admission, cancellation, queries, and the release of
retired tickets (spec/11 R239 to R260; spec/06 R151; spec/01 R29). -/

namespace Sys2Proof.Machine

/-! ### Records and the host rings (R244 to R247) -/

def State.ring (s : State) (fn : Nat) : Ring := Sparse.get (fun _ => Ring.blank) s.rings fn
def State.setRing (s : State) (fn : Nat) (x : Ring) : State := { s with rings := Sparse.put (fun _ => Ring.blank) s.rings fn x }
def State.modRing (s : State) (fn : Nat) (g : Ring → Ring) : State := s.setRing fn (g (s.ring fn))

def State.cqSize (s : State) (fn : Nat) : Nat := 2 ^ s.gf R.tktQcfg_CQ_SIZE fn
def State.sqSize (s : State) (fn : Nat) : Nat := 2 ^ s.gf R.tktQcfg_SQ_SIZE fn

/-- Records written and not consumed. -/
def State.cqUsed (s : State) (fn : Nat) : Nat := (s.gf R.tktQptr_CQ_TAIL fn + 65536 - (s.ring fn).cqHead) % 65536

/-- Completion slots that nothing holds. -/
def State.cqFree (s : State) (fn : Nat) : Nat := s.cqSize fn - s.cqUsed fn - (s.ring fn).resv - (s.ring fn).waiting.length

/-- Write one record at CQ_TAIL with its PHASE, and advance (R245). -/
def State.cqRecord (s : State) (fn : Nat) (w : List Nat) : State :=
  let tail := s.gf R.tktQptr_CQ_TAIL fn
  let size := s.cqSize fn
  let phase := if tail / size % 2 = 0 then 2 ^ 31 else 0
  let a := s.pair .tktCqBaseLo .tktCqBaseHi fn + tail % size * 32
  have s : State := s.writeHost a (natLE 8 (w.getD 0 0 + phase) ++ natLE 8 (w.getD 1 0) ++ natLE 8 (w.getD 2 0) ++ natLE 8 (w.getD 3 0))
  (s.sf R.tktQptr_CQ_TAIL fn (tail + 1)).modRing fn (fun x => { x with irqDue := true })

/-- Write the waiting records while a slot is free. -/
def cqFlush (fn : Nat) : Nat → State → State
  | 0, s => s
  | k + 1, s =>
    match (s.ring fn).waiting with
    | [] => s
    | w :: t =>
      if s.cqUsed fn + (s.ring fn).resv ≥ s.cqSize fn then s
      else cqFlush fn k ((s.modRing fn (fun x => { x with waiting := t })).cqRecord fn w)

/-- Send a record to the path by which its request entered (R29, R247); to another package only with a valid identifier (spec/01
R20). -/
def State.sendRec (s : State) (e : Entry) (w : List Nat) : State :=
  match e with
  | .func fn =>
    have s : State := s.modRing fn (fun x => { x with waiting := x.waiting ++ [w] })
    cqFlush fn (s.ring fn).waiting.length s
  | .front port addr udp => { s with frontQ := s.frontQ ++ [(port, addr, udp, w)] }
  | .remote _ => if s.idValid then s.emit (.record e (w.getD 0 0) (w.getD 1 0) (w.getD 2 0) (w.getD 3 0)) else s

/-- Word 0 of a record. -/
def recWord (type reason flags handle : Nat) : Nat := type + reason * 2 ^ 8 + flags * 2 ^ 16 + handle * 2 ^ 32

/-- Requests refused are counted (0x8019:01) and answered with REFUSE. -/
def State.refuseReq (s : State) (e : Entry) (reqid reason w2 : Nat) : State :=
  (s.bump 0x8019 1).sendRec e [recWord 3 reason 0 0, reqid, w2, s.time]

def rMalformed : Nat := 0x01
def rClient : Nat := 0x02
def rNoModel : Nat := 0x03
def rTooLong : Nat := 0x04
def rAdapter : Nat := 0x05
def rPrefix : Nat := 0x06
def rQuota : Nat := 0x07
def rDeadline : Nat := 0x08
def rQueueFull : Nat := 0x09

/-- A TKT_QERR flag with its error-log entry (spec/14 R313). -/
def State.qErr (s : State) (fn k : Nat) : State :=
  (s.setBit .tktQerr fn k).report (source 7 fn) (0x10 + k) 1 (if fn = 0 then none else some (vfPart fn)) 0

/-- The host write of the last record failed: what stands in its place is undefined, and TKT_QERR.DMA tells of it (R260). CQ_TAIL
stays (DESIGN CHOICE, unsafe; log entry 59). -/
def State.cqFailed (s : State) (fn : Nat) : State :=
  let a := s.pair .tktCqBaseLo .tktCqBaseHi fn + (s.gf R.tktQptr_CQ_TAIL fn + 65535) % 65536 % s.cqSize fn * 32
  let k := s.fresh
  (k.2.writeHost a (freeBytes k.1 32)).qErr fn 3

/-- A completion-ring interrupt is due, MOD µs after the last one (R245). -/
def State.cqInterrupt (s : State) (fn : Nat) (hostOk : Bool) : State :=
  have s : State := if hostOk ∨ !(s.ring fn).irqDue then s else s.cqFailed fn
  let r := s.ring fn
  have s : State := match r.irqAt with
    | some t => if r.irqDue then s.until (t + s.gf R.tktQcfg_MOD fn * 1000) else s
    | none => s
  if r.irqDue then (s.emit (.msix fn 0)).modRing fn (fun x => { x with irqDue := false, irqAt := some s.time }) else s

def execCqInterrupt (a : CqEvent) (s : State) : Host.Outcome State Fault Refusal := .next (s.cqInterrupt a.fn a.hostOk)

/-- A write that is rejected for its byte enables (spec/01 R25). -/
def State.wide (s : State) (r : Requester) (c : Card) (i be : Nat) (k : State → State) : State :=
  if s.mayReach r c i true ∧ be % 16 ≠ 15 then s.rejectAccess r (s.cardAddr c i) true else s.gate r c i k

/-- TKT_SQ_TAIL. -/
def State.sqTailWrite (s : State) (r : Requester) (be : Nat) (val : Word) : State :=
  let fn := reqFn r
  s.wide r .tktSqTail fn be fun s =>
    let t := fld val 15 0
    if (t + 65536 - s.gf R.tktQptr_SQ_HEAD fn) % 65536 > s.sqSize fn then s.qErr fn 0
    else s.modRing fn (fun x => { x with sqTail := t })

def execSqTailWrite (r : Requester) (be : Nat) (val : Word) (s : State) : Host.Outcome State Fault Refusal := .next (s.sqTailWrite r be val)

/-- TKT_CQ_HEAD. -/
def State.cqHeadWrite (s : State) (r : Requester) (be : Nat) (val : Word) : State :=
  let fn := reqFn r
  s.wide r .tktCqHead fn be fun s =>
    let h := fld val 15 0
    if (s.gf R.tktQptr_CQ_TAIL fn + 65536 - h) % 65536 > s.cqUsed fn then s.qErr fn 1
    else cqFlush fn (s.ring fn).waiting.length (s.modRing fn (fun x => { x with cqHead := h }))

def execCqHeadWrite (r : Requester) (be : Nat) (val : Word) (s : State) : Host.Outcome State Fault Refusal := .next (s.cqHeadWrite r be val)

def tktCard (off : Nat) : Option Card :=
  if off = 0 then some .tktQcfg else if off = 8 then some .tktSqBaseLo else if off = 0xC then some .tktSqBaseHi
  else if off = 0x10 then some .tktCqBaseLo else if off = 0x14 then some .tktCqBaseHi else none

/-- A write of TKT_QCFG or a ring base (`put` merges it; R260). -/
def State.qcfgWrite (s : State) (r : Requester) (c : Card) (put : State → State) : State :=
  let fn := reqFn r
  s.gate r c fn fun s =>
    let t := put s
    let ok := fun (v : Nat) => decide (4 ≤ v) && decide (v ≤ 12)
    let sizes := t.gf R.tktQcfg_SQ_SIZE fn != s.gf R.tktQcfg_SQ_SIZE fn || t.gf R.tktQcfg_CQ_SIZE fn != s.gf R.tktQcfg_CQ_SIZE fn
    let bases := [Card.tktSqBaseLo, .tktSqBaseHi, .tktCqBaseLo, .tktCqBaseHi].any (fun b => t.rd b fn != s.rd b fn)
    let sets := t.gf R.tktQcfg_EN fn == 1 && s.gf R.tktQcfg_EN fn == 0
    if (s.gf R.tktQcfg_EN fn == 1 && (sizes || bases)) || (sets && !(ok (t.gf R.tktQcfg_SQ_SIZE fn) && ok (t.gf R.tktQcfg_CQ_SIZE fn)))
    then s.qErr fn 2 else t

def execTktQcfgWrite (r : Requester) (off be : Nat) (val : Word) (s : State) : Host.Outcome State Fault Refusal :=
  .next (match tktCard off with
    | some c => s.write4 r c (reqFn r) be val (fun c put t => t.qcfgWrite r c put)
    | none => s)

/-! ### Request headers (R243) -/

def rq (h : ReqHdr) (k hi lo : Nat) : Nat :=
  bits (match k with
    | 0 => h.w0
    | 1 => h.w1
    | 2 => h.w2
    | 3 => h.w3
    | 4 => h.w4
    | 5 => h.w5
    | 6 => h.w6
    | _ => h.w7).toNat hi lo

def rqOp (h : ReqHdr) : Nat := rq h 0 23 20
def rqPart (h : ReqHdr) : Nat := rq h 0 45 42
def rqTenant (h : ReqHdr) : Nat := rq h 0 63 48
def rqPlen (h : ReqHdr) : Nat := rq h 1 31 0
def rqId (h : ReqHdr) : Nat := rq h 4 63 0
def rqHnd (h : ReqHdr) : Nat := rq h 6 31 0
def rqPublish (h : ReqHdr) : Bool := rq h 0 32 32 == 1
def rqRetain (h : ReqHdr) : Bool := rq h 0 31 31 == 1

/-- A header from 64 bytes. -/
def hdrOfBytes (bs : List Byte) : ReqHdr :=
  let w := fun (k : Nat) => BitVec.ofNat 64 (leNat ((bs.drop (8 * k)).take 8))
  ⟨w 0, w 1, w 2, w 3, w 4, w 5, w 6, w 7⟩

/-- Whether a header fails its check for the operation `op`; `front` says which form word 5 has. -/
def rqBad (h : ReqHdr) (op : Nat) (front : Bool) : Bool :=
  rq h 0 15 0 != 0x7C5E || rq h 0 19 16 != 1 || (rqOp h) != op || rq h 0 47 46 != 0 || rq h 3 63 48 != 0 ||
  (front && rq h 5 63 48 != 0) || (front && decide (rq h 5 47 32 > 2032)) ||
  (op == 1 && (((rqRetain h) && (rqPublish h)) || (rq h 3 31 0 != 0 && !(rqRetain h)) || (!(rqPublish h) && (rq h 6 63 0 != 0 || rq h 7 63 0 != 0)))) ||
  (op == 2 && (rq h 6 63 32 != 0 || rq h 7 63 0 != 0)) || (op == 3 && rq h 7 63 0 != 0)

/-! ### Clients (R249) -/

/-- The client-table entry of an address. -/
def State.client (s : State) (addr : Nat) : Option (List Byte) :=
  ((List.range 64).map (fun i => s.doct 0x6021 (i + 1))).find? (fun o => beNat (o.take 16) == addr && addr != 0)

/-- Whether a client may submit for a tenant and a partition. -/
def clientAllows (o : List Byte) (tenant part : Nat) : Bool :=
  let b := fun (i : Nat) => leNat ((o.drop i).take 2)
  decide (b 16 ≤ tenant) && decide (tenant ≤ b 18) && bit (b 20) part

/-- Whether the entry path is refused with CLIENT (R244, R249). -/
def State.clientBad (s : State) (e : Entry) (h : ReqHdr) : Bool :=
  match e with
  | .func fn => fn != 0 && (rqPart h) != vfPart fn
  | .front _ addr _ => match s.client addr with
    | some o => !clientAllows o (rqTenant h) (rqPart h)
    | none => true
  | .remote r => r.path == 0 && r.fn != 0 && (rqPart h) != vfPart r.fn

/-! ### Order and estimates (R251, R252) -/

/-- Whether a ticket orders before another. -/
def Ticket.before (a b : Ticket) : Bool :=
  let d := fun (t : Ticket) => if t.deadline = 0 then 2 ^ 64 else t.deadline
  if a.prio ≠ b.prio then decide (a.prio > b.prio)
  else if d a ≠ d b then decide (d a < d b) else decide (a.admseq < b.admseq)

/-- Insert a slot into an ordered list. -/
def State.insOrd (s : State) (k : Nat) : List Nat → List Nat
  | [] => [k]
  | x :: t => if (s.ticket k).before (s.ticket x) then k :: x :: t else x :: s.insOrd k t

/-- Slots of a partition in a state, in the order of R251. -/
def State.inState (s : State) (p st : Nat) : List Nat :=
  ((s.liveSlots p).filter (fun k => (s.ticket k).state == st)).foldl (fun l k => s.insOrd k l) []

def State.running (s : State) (p : Nat) : Nat :=
  ((s.liveSlots p).filter (fun k => (s.ticket k).state == 2 || (s.ticket k).state == 3)).length

/-- RUNMAX, at most the ticket share (0x6003). -/
def State.runMax (s : State) (p : Nat) : Nat := min (s.dnum 0x6003 (p + 1)) (s.prt p).tcount

def State.meanL (s : State) (p : Nat) : Nat := if (s.rail p).meanL = 0 then s.dnum 0x6007 1 * 1000000 else (s.rail p).meanL
def State.meanT (s : State) (p : Nat) : Nat := if (s.rail p).meanT = 0 then s.dnum 0x6007 2 * 1000 else (s.rail p).meanT

/-- An exponential average with weight 1/64, in whole nanoseconds. -/
def average (mean x : Nat) : Nat := (mean * 63 + x) / 64

/-- Estimated start with `a` tickets before. -/
def State.estStart (s : State) (p a : Nat) : Nat := s.time + (a + 1) * s.meanL p / s.runMax p

/-- Estimated first token. -/
def State.estFirst (s : State) (p start plen m : Nat) : Nat :=
  let b := s.dnum 0x6004 (p + 1)
  start + ((plen - m + b - 1) / b + 1) * s.meanT p

/-- Show the rail's occupancy. -/
def State.showRail (s : State) : State :=
  let live := s.tickets.filter (fun x => x.2.state != 0)
  (s.sf R.tktRailStat_LIVE 0 live.length).sf R.tktRailStat_QUEUED 0 (live.filter (fun x => x.2.state == 1)).length

/-! ### Retirement (R242, R246, R252) -/

/-- A ticket retires with a reason; its pages are released and its END sent later. -/
def State.retire (s : State) (k reason : Nat) : State :=
  let t := s.ticket k
  have s : State := if t.state = 2 ∨ t.state = 3 then
      s.modRail t.part (fun r => { r with meanL := average (s.meanL t.part) (s.time - t.eststart) })
    else s
  (s.setTicket k { t with state := 4, reason := reason, release := true, endDue := true }).showRail

/-- Give back a ticket's reserved records. -/
def State.unreserve (s : State) (k n : Nat) : State :=
  let t := s.ticket k
  match t.entry with
  | .func fn => (s.modRing fn (fun x => { x with resv := x.resv - min n t.resv })).modTicket k (fun x => { x with resv := x.resv - min n t.resv })
  | _ => s

/-- Send a TOKEN or END record of a ticket: into the completion slot that the boundary reserved for it, before records that wait
for a slot (R245); without one as any record. -/
def State.sendOwn (s : State) (k : Nat) (w : List Nat) : State :=
  let t := s.ticket k
  match t.entry with
  | .func fn => if t.resv > 0 then (s.cqRecord fn w).unreserve k 1 else s.sendRec t.entry w
  | _ => s.sendRec t.entry w

/-- The END record of a ticket. -/
def State.endRec (s : State) (k : Nat) : State :=
  let t := s.ticket k
  s.sendOwn k [recWord 5 t.reason (b2n t.bounds + t.flags) (t.handle k), t.reqid, t.plen + t.glen * 2 ^ 32, s.time]

/-- Release what a ticket holds of the cache and of the tree (R151). -/
def State.releaseTicket (s : State) (k : Nat) : State :=
  let t := s.ticket k
  have s : State := (s.kvUnmapSlot k).radixRef t.part t.nodes false
  s.modTicket k (fun x => { x with release := false, nodes := [] })

/-- A slot becomes FREE; the ticket is kept for the duplicate window (R249). -/
def State.freeSlot (s : State) (k : Nat) : State :=
  have s : State := s.unreserve k 2
  let t := s.ticket k
  have s : State := match t.entry with
    | .func fn => cqFlush fn (s.ring fn).waiting.length s
    | _ => s
  let window := s.dnum 0x6020 5 * 1000000000
  have s : State := { s with
    retired := s.retired.filter (fun x => decide (x.at_ + window ≥ s.time)) ++ [⟨t, k, s.time⟩] }
  (s.setTicket k { Ticket.blank with gen := t.gen, part := t.part, reason := t.reason }).showRail

/-- Whether END can be written now: a reserved or a free completion slot on the host path, none of which a waiting record takes. -/
def State.endRoom (s : State) (k : Nat) : Bool :=
  match (s.ticket k).entry with
  | .func fn => decide ((s.ticket k).resv > 0) || ((s.ring fn).waiting.isEmpty && decide (s.cqFree fn > 0))
  | _ => true

/-- A retiring ticket's pages are released or retained, then END is sent and the slot becomes FREE (R151, R242, R245). On
another package of the group the mirror does the same with its own pages when the lead has said that the ticket retired; `told`
is then the identifier of the range the lead made, 0 for none. -/
def State.retireRelease (s : State) (k told : Nat) : State :=
  let t := s.ticket k
  if t.state = 0 ∨ (s.isLead t.part ∧ t.state ≠ 4) ∨ s.inStep (t.handle k) ∨ s.publishDue k then s else
  have s : State := if t.release ∨ !s.isLead t.part then
      (let keep := decide (t.state = 4 ∧ s.retainFor t > 0)
       have s : State := if keep then (s.retainPages k told).modTicket k (fun x => { x with flags := 2 }) else s
       s.releaseTicket k)
    else s
  if !s.isLead t.part ∨ t.silent ∨ !t.endDue then s.freeSlot k
  else if s.endRoom k then (s.endRec k).freeSlot k
  else s

def execTicketRetireRelease (a : Retirement) (s : State) : Host.Outcome State Fault Refusal := .next (s.retireRelease a.slot a.range)

/-- End a ticket at once, without a record, as resets do (R259). -/
def State.dropTicket (s : State) (k : Nat) : State := ((s.releaseTicket k).modTicket k (fun x => { x with silent := true })).freeSlot k

/-! ### Admission (R249 to R253) -/

/-- The path number and function an entry shows (R241). -/
def entryPath : Entry → Nat
  | .func _ => 0
  | .front port _ _ => port + 1
  | .remote r => r.path
def entryFn : Entry → Nat
  | .func fn => fn
  | .front _ _ _ => 0
  | .remote r => r.fn
def State.entryPkg (s : State) : Entry → Nat
  | .remote r => r.pkg
  | _ => s.pkg

/-- The client's address of an entry by a front port, here or on another package; none on the host path. -/
def entryAddr : Entry → Option Nat
  | .func _ => none
  | .front _ addr _ => some addr
  | .remote r => if r.path = 0 then none else some r.addr

/-- Whether the rail was rebuilt by adoption (spec/14 R330). -/
def State.adopted (s : State) : Bool := decide (s.dnum 0x8025 4 > 0)

/-- Whether a live or recently retired ticket is the one a SUBMIT repeats (R249): by the client's address, whichever port it comes
through; on the host path, after any adoption, by function (spec/14 R324). -/
def State.sameRequest (s : State) (e : Entry) (h : ReqHdr) (t : Ticket) : Bool :=
  t.tenant == (rqTenant h) && t.reqid == (rqId h) &&
  (match entryAddr e, entryAddr t.entry with
   | some a, some b => a == b
   | none, none => s.adoptionSeen && s.entryPkg e == s.entryPkg t.entry && entryFn e == entryFn t.entry
   | _, _ => false)

/-- The handle that a request forwarded again carries, 0 for none (spec/14 R324). -/
def entryHandle : Entry → Nat
  | .remote r => r.handle
  | _ => 0

/-- Whether the rail, as sealed, holds the request that an entry forwards again with its handle (spec/14 R324). -/
def heldAgain (e : Entry) (h : ReqHdr) (k : Nat) (t : Ticket) : Bool :=
  entryHandle e != 0 && k == hSlot (entryHandle e) && t.gen == hGen (entryHandle e) && t.tenant == rqTenant h && t.reqid == rqId h

def State.duplicate (s : State) (e : Entry) (h : ReqHdr) : Option Ticket :=
  match s.tickets.find? (fun x => x.2.state != 0 && (s.sameRequest e h x.2 || heldAgain e h x.1 x.2)) with
  | some x => some x.2
  | none => ((s.retired.filter (fun x => decide (x.at_ + s.dnum 0x6020 5 * 1000000000 ≥ s.time))).find? (fun x => s.sameRequest e h x.t)).map (fun x => x.t)

/-- Checks 4 to 7 of R250: the reason, 0 when none applies. -/
def State.admitCode (s : State) (h : ReqHdr) : Nat :=
  let p := (rqPart h)
  if s.activeGen p = 0 then rNoModel
  else if (rqPlen h) = 0 ∨ (rqPlen h) > 262143 then rTooLong
  else if rq h 0 33 33 = 1 ∧ !(s.aslotOf p (rq h 0 41 34)).any (fun a => a.valid && a.tenant == (rqTenant h) && a.gen == s.activeGen p) then rAdapter
  else if (rqPublish h) ∧ (rq h 3 47 32 = 0 ∨ s.radix.any (fun n => n.part == p && n.pfx == rq h 3 47 32)) then rPrefix
  else if ((s.liveSlots p).filter (fun k => (s.ticket k).tenant == (rqTenant h))).length ≥ s.dnum 0x6005 1 then rQuota
  else 0

/-- Free slots of a partition's ticket share. -/
def State.freeTickets (s : State) (p : Nat) : List Nat :=
  ((List.range (s.prt p).tcount).map (fun i => (s.prt p).tbase + i)).filter (fun k => (s.ticket k).state == 0)

/-- The effective priority and generation limit of the class table (R243). -/
def State.effPrio (s : State) (h : ReqHdr) : Nat := min (rq h 0 26 24) (s.dnum 0x6006 (rq h 0 30 27 + 1) % 8)
def State.effMax (s : State) (h : ReqHdr) : Nat :=
  let cap := s.dnum 0x6006 (rq h 0 30 27 + 1) / 256
  let m := rq h 1 63 32
  if m = 0 ∧ cap = 0 then 262144 else if m = 0 then cap else if cap = 0 then m else min m cap

/-- An entry as its ticket keeps it: a host path has no client's address. -/
def plainEntry : Entry → Entry
  | .remote r => .remote { r with handle := 0, addr := if r.path = 0 then 0 else r.addr }
  | e => e

/-- A ticket as admission makes it, but for its slot's generation and placement. -/
def State.newTicket (s : State) (e : Entry) (h : ReqHdr) (toks : List Nat) (m range : Nat) : Ticket :=
  let w := fun (i : Nat) => if i < 4 then rq h 6 (16 * i + 15) (16 * i) else rq h 7 (16 * (i - 4) + 15) (16 * (i - 4))
  { Ticket.blank with
    part := (rqPart h), prio := s.effPrio h, cls := rq h 0 30 27, modelgen := s.activeGen (rqPart h), retain := (rqRetain h), publish := (rqPublish h),
    avalid := rq h 0 33 33 == 1, aslot := rq h 0 41 34, path := entryPath e, plen := (rqPlen h), maxgen := s.effMax h, mtch := m,
    deadline := rq h 2 63 0, ttl := rq h 3 31 0, admseq := (s.rail (rqPart h)).admseq, reqid := (rqId h), tenant := (rqTenant h),
    prefixid := rq h 3 47 32, entrypkg := s.entryPkg e, func := entryFn e, prompt := toks,
    allow := if (rqPublish h) then ((List.range 8).map w).filter (fun x => x != 0) else [], entry := plainEntry e, mrange := range, mmapped := m == 0 }

/-- A live slot's level-2 root takes a page of the pool, which KVROOT shows (spec/06 R147; spec/07 R173); zero while the pool has
none free (DESIGN CHOICE, unsafe; log entry 33). -/
def State.rootSlot (s : State) (k : Nat) : State :=
  have s : State := s.placeTables
  s.modTicket k (fun x => { x with kvroot := ((s.tableAt (100 + k, 2, 0)).map s.fga).getD 0 })

/-- Put a request into a slot: served (`start` none) or delayed to an estimated start; the answer is sent (R246, R252), and M and
the matched range go to the packages of the group (spec/06 R161). `told` is the generation that a resubmission names (spec/14
R324). -/
def State.place (s : State) (k : Nat) (t : Ticket) (start told : Option Nat) : State :=
  let g := (s.ticket k).gen
  let gen := told.getD (if g ≥ 65535 then 1 else g + 1)
  let q := s.noteMatch t.mrange t.part t.tenant t.modelgen t.prompt
  have s : State := q.1
  let h := handleOf gen k t.part
  let st := start.getD s.time
  let w := match start with
    | none => [recWord 1 0 0 h, t.reqid, t.mtch + t.prio * 2 ^ 32, s.time]
    | some x => [recWord 2 0 0 h, t.reqid, x, s.estFirst t.part x t.plen t.mtch]
  have s : State := s.setTicket k { t with
    gen := gen, state := (if start.isNone then 2 else 1), eststart := st, nodes := q.2, answer := w }
  have s : State := s.rootSlot k
  have s : State := s.modRail t.part (fun r => { r with admseq := r.admseq + 1 })
  have s : State := if start.isNone then s else s.bump 0x8019 2
  ((s.sendRec t.entry w).tell t.part "admission" (h + t.mtch * 2 ^ 32 + t.mrange * 2 ^ 64)).showRail

/-- The QUEUED ticket that orders last. -/
def State.lastQueued (s : State) (p : Nat) : Option Nat := (s.inState p 1).getLast?

/-- The lead decides a SUBMIT whose header and client have passed (R249 to R253). -/
def State.admitTicket (s : State) (e : Entry) (h : ReqHdr) (toks : List Nat) : State :=
  let p := (rqPart h)
  match s.duplicate e h with
  | some t => s.sendRec e t.answer
  | none =>
    let slot := (s.freeTickets p)
    -- a request forwarded again goes into the slot and generation of its handle: it was admitted before, and neither its tenant's count nor
    -- its deadline refuses it now (spec/14 R324)
    let back := entryHandle e
    let exact := back != 0 && slot.contains (hSlot back)
    let c := s.admitCode h
    if c ≠ 0 ∧ ¬ (c = rQuota ∧ exact) then s.refuseReq e (rqId h) c 0 else
    let w := s.prefixWalk p (rqTenant h) (s.activeGen p) toks
    -- a refused request leaves no state behind: neither LASTUSE, nor counts, nor a salt (R250)
    let refuse := fun (reason first : Nat) => s.refuseReq e (rqId h) reason first
    have s : State := w.2.2
    let t := s.newTicket e h toks w.1 w.2.1
    let a := ((s.inState p 1).filter (fun k => (s.ticket k).before t)).length
    let frozen := decide (2 ≤ s.pstate p) && decide (s.pstate p ≤ 5)
    -- the slot taken among the free ones is the device's choice
    let k := s.fresh
    let pick := slot.getD (Config.freeVal k.1 0 % slot.length) 0
    let served := !slot.isEmpty && decide (s.running p < s.runMax p) && a == 0
    let start := if served && !frozen then none else some (s.estStart p (if served then 0 else a))
    let first := s.estFirst p (start.getD s.time) t.plen t.mtch
    let late := t.deadline != 0 && decide (t.deadline < first)
    if !slot.isEmpty then
      if exact then s.place (hSlot back) t start (some (hGen back))
      else if late then refuse rDeadline first
      else k.2.place pick t start none
    else match s.lastQueued p with
      | none => refuse rQueueFull 0
      | some v =>
        if !t.before (s.ticket v) then refuse rQueueFull 0
        else if late then refuse rDeadline first
        else
          have s : State := ((s.retire v 0x25).bump 0x8019 4)
          have s : State := ((s.releaseTicket v).endRec v).freeSlot v
          s.place v t (some (s.estStart p a)) none

/-! ### CANCEL and QUERY (R249, R257, R258) -/

/-- Whether a requester may cancel a ticket (R257): function 0, the function or the client through which it entered, a client whose
entry allows its tenant. -/
def State.mayCancel (s : State) (e : Entry) (t : Ticket) : Bool :=
  match entryAddr e with
  | none => entryFn e == 0 || ((entryAddr t.entry).isNone && s.entryPkg e == s.entryPkg t.entry && entryFn e == entryFn t.entry)
  | some a =>
    entryAddr t.entry == some a ||
    (match s.client a with
     | some o => decide (leNat ((o.drop 16).take 2) ≤ t.tenant) && decide (t.tenant ≤ leNat ((o.drop 18).take 2))
     | none => false)

/-- CANCEL at the lead. -/
def State.cancelAt (s : State) (e : Entry) (h : ReqHdr) : State :=
  let hd := (rqHnd h)
  let k := hSlot hd
  let c := if s.handleCode hd ≠ 0 then s.handleCode hd
    else if !s.mayCancel e (s.ticket k) then 8
    else if (s.ticket k).cancel ∨ (s.ticket k).state = 4 then 7 else 0
  have s : State := if c = 0 then s.modTicket k (fun t => { t with cancel := true }) else s
  s.sendRec e [recWord 6 c 0 hd, (rqId h), 0, s.time]

/-- A TOKEN record: BOUNDS of its step, and REPLAY (spec/14 R330). -/
def tokenRec (t : Ticket) (handle idx g flags time : Nat) : List Nat :=
  [recWord 4 0 (g / 4294967296 + flags) handle, t.reqid, g % 4294967296 + idx * 2 ^ 32, time]

/-- QUERY at the lead: STATUS, the TOKEN records from FROM onward, and END after retirement. -/
def State.queryAt (s : State) (e : Entry) (h : ReqHdr) : State :=
  let hd := (rqHnd h)
  let c := s.handleCode hd
  let found : Option (Ticket × Bool) := if c = 0 then some (s.ticket (hSlot hd), false)
    else ((s.retired.filter (fun x => decide (x.at_ + s.dnum 0x6020 5 * 1000000000 ≥ s.time))).find? (fun x => x.t.handle x.slot == hd)).map
      (fun x => (x.t, true))
  match found with
  | none => s.sendRec e [recWord 7 c 0 hd, (rqId h), 0, 0]
  | some (t, ended) =>
    have s : State := s.sendRec e [recWord 7 0 0 hd, (rqId h), (if ended then 0 else t.state) + t.glen * 2 ^ 32, t.eststart]
    let src := rq h 6 63 32
    have s : State := ((t.gend.zipIdx).filter (fun x => decide (x.2 ≥ src))).foldl
      (fun (u : State) x => u.sendRec e (tokenRec t hd x.2 x.1 0 (t.gtimes.getD x.2 0))) s
    if ended then s.sendRec e [recWord 5 t.reason (b2n t.bounds + t.flags) hd, t.reqid, t.plen + t.glen * 2 ^ 32, s.time] else s

/-! ### One request (R29, R243, R250) -/

/-- A request as its entry package takes it: checks 1 and 2, then the lead, here or over the fabric. Without a valid identifier the
package reaches no lead (spec/01 R20), and the request is refused NO_MODEL (DESIGN CHOICE, unsafe; log entry 54). -/
def State.request (s : State) (e : Entry) (h : ReqHdr) (op : Nat) (toks : List Nat) : State :=
  let front := match e with
    | .front _ _ _ => true
    | .func _ => false
    | .remote r => r.path != 0
  if rqBad h op front ∨ (op = 1 ∧ toks.length ≠ (rqPlen h) ∧ (rqPlen h) ≤ 262143) then s.refuseReq e (rqId h) rMalformed 0
  else if s.clientBad e h then s.refuseReq e (rqId h) rClient 0
  else if s.leadOf (rqPart h) = 0xFFFF ∨ !s.idValid then s.refuseReq e (rqId h) rNoModel 0
  else if !s.isLead (rqPart h) then
    have s : State := { s with kept := s.kept ++ [⟨e, h, toks, 0, (rqPart h), false, op != 3, 0, false, []⟩] }
    s.tell (rqPart h) "request" (rqId h)
  else if s.ucVertex.contains 2 then s.fatalVertex 2
  else if op = 1 then s.admitTicket e h toks
  else if op = 2 then s.cancelAt e h
  else s.queryAt e h

def execSubmit (e : Entry) (h : ReqHdr) (tokens : List Nat) (s : State) : Host.Outcome State Fault Refusal := .next (s.request e h 1 tokens)
def execCancel (e : Entry) (h : ReqHdr) (s : State) : Host.Outcome State Fault Refusal := .next (s.request e h 2 [])
def execQuery (e : Entry) (h : ReqHdr) (s : State) : Host.Outcome State Fault Refusal := .next (s.request e h 3 [])

/-- A forwarded request after a record of it has come back: REFUSE, END and CANCEL_RESULT are the last of theirs; a QUERY whose
STATUS finds a ticket is followed by its TOKENs from FROM on, and after the retirement by END (R29, R247, R249). -/
def Kept.after (x : Kept) (w0 w1 w2 w3 : Nat) : Kept :=
  let t := bits w0 7 0
  let left := if t = 7 then (if bits w0 15 8 = 0 then bits w2 63 32 - rq x.h 6 63 32 + b2n (bits w2 2 0 = 0) else 0) else x.left - 1
  { x with
    handle := bits w0 63 32, answered := true, left := left
    answer := if x.answered then x.answer else [w0, w1, w2, w3]
    ended := if rqOp x.h = 3 then left == 0 else t == 3 || t == 5 || t == 6 }

/-- A record of the `idx`-th forwarded request reaches this entry package from the lead and leaves by its path (R29; spec/14
R324). -/
def State.answerReturn (s : State) (idx w0 w1 w2 w3 : Nat) : State :=
  match s.kept[idx]? with
  | none => s
  | some x =>
    have s : State := { s with
      kept := (s.kept.zipIdx.map (fun y => if y.2 = idx then y.1.after w0 w1 w2 w3 else y.1)).filter (fun y => y.due || !y.ended) }
    s.sendRec x.e [w0, w1, w2, w3]

def execAnswerReturn (idx w0 w1 w2 w3 : Nat) (s : State) : Host.Outcome State Fault Refusal := .next (s.answerReturn idx w0 w1 w2 w3)

/-- Forward a request again after RESUME, with the handle it returned (spec/14 R324): it reaches the lead as a request of its entry
with that handle. -/
def State.resubmit (s : State) (idx : Nat) : State :=
  match s.kept[idx]? with
  | none => s
  | some x => if s.adopting x.part ∨ !x.due then s else s.tell x.part "resubmit" x.handle

def execRequestResubmit (idx : Nat) (s : State) : Host.Outcome State Fault Refusal := .next (s.resubmit idx)

/-! ### Host rings: taking an entry (R244) -/

/-- The next submission entry is taken; `hostOk` false is a host read error. -/
def State.sqTake (s : State) (fn : Nat) (hostOk : Bool) : State :=
  let head := s.gf R.tktQptr_SQ_HEAD fn
  if s.gf R.tktQcfg_EN fn ≠ 1 ∨ head = (s.ring fn).sqTail ∨ s.cqFree fn = 0 then s else
  let h := hdrOfBytes (s.readHost (s.pair .tktSqBaseLo .tktSqBaseHi fn + head % s.sqSize fn * 64) 64)
  have s : State := s.sf R.tktQptr_SQ_HEAD fn (head + 1)
  if !hostOk then (s.qErr fn 3).refuseReq (.func fn) (rqId h) rMalformed 0 else
  let n := if (rqOp h) = 1 ∧ (rqPlen h) ≤ 262143 then (rqPlen h) else 0
  let toks := (List.range n).map (fun i => leNat (s.readHost (rq h 5 63 0 + 4 * i) 4))
  let op := if (rqOp h) = 2 then 2 else if (rqOp h) = 3 then 3 else 1
  s.request (.func fn) h op (if op = 1 then toks else [])

def execSqEntryTake (fn : Nat) (hostOk : Bool) (s : State) : Host.Outcome State Fault Refusal := .next (s.sqTake fn hostOk)

/-! ### Front ports (R248) -/

/-- The address of a front port, and the low half of an IPv4-mapped one. -/
def State.frontAddr (s : State) (port : Nat) : Nat := beNat (s.doct 0x6020 (2 + port))
def isV4 (a : Nat) : Bool := a / 2 ^ 32 == 0xFFFF

/-- Whether the front ports serve: not before READY, nor in the fatal state, nor in S3 (spec/14 R311, spec/15 R351). -/
def State.frontUp (s : State) : Bool := s.ready && !s.fatalNow && s.power.sleep != 3

/-- A frame the port drops. -/
def State.frontDrop (s : State) (port code : Nat) : State := (s.bump 0x8019 6).report (source 6 port) code 1 none 0

def State.frontReply (s : State) (port : Nat) (mine : Bool) (kind : String) (v : Nat) : State :=
  if port ≥ 2 ∨ !s.frontUp then s else if mine then s.emit (.link (32 + port) kind v) else s.frontDrop port 1

def execArpRequest (port target : Nat) (s : State) : Host.Outcome State Fault Refusal :=
  .next (s.frontReply port (isV4 (s.frontAddr port) && target == s.frontAddr port % 2 ^ 32) "arp" target)
def execNeighbourDiscovery (port target : Nat) (s : State) : Host.Outcome State Fault Refusal :=
  .next (s.frontReply port (!isV4 (s.frontAddr port) && s.frontAddr port != 0 && target == s.frontAddr port) "neighbour" target)
def execIcmpEcho (port target : Nat) (payload : List Byte) (s : State) : Host.Outcome State Fault Refusal :=
  .next (if port ≥ 2 ∨ !s.frontUp then s else if s.frontAddr port ≠ 0 ∧ target = s.frontAddr port then s.emit (.front port target 0 payload) else s.frontDrop port 1)

/-- The header two datagrams of one SUBMIT must share. -/
def rqNoFrag (h : ReqHdr) : ReqHdr := { h with w5 := 0 }

/-- Add a datagram's tokens; repeated ones are ignored. -/
def addTokens (acc : List (Nat × Nat)) (off : Nat) (toks : List Nat) : List (Nat × Nat) :=
  (toks.zipIdx).foldl (fun l x => if l.any (fun y => y.1 == off + x.2) then l else l ++ [(off + x.2, x.1)]) acc

/-- A reassembly whose tokens have all arrived becomes a request. -/
def State.tryComplete (s : State) (x : Reassembly) : State :=
  let n := (rqPlen x.hdr)
  let rest := s.reasm.filter (fun y => !(y.addr == x.addr && y.udp == x.udp && (rqId y.hdr) == (rqId x.hdr)))
  if (List.range n).all (fun i => x.toks.any (fun y => y.1 == i)) then
    State.request { s with reasm := rest } (.front x.port x.addr x.udp) x.hdr 1
      ((List.range n).map (fun i => (x.toks.find? (fun y => y.1 == i)).map Prod.snd |>.getD 0))
  else { s with reasm := rest ++ [x] }

/-- A frame that is neither ARP, neighbour discovery nor an echo (R248): a request datagram, or dropped when it is no UDP datagram to
the port of 0x6020:01 at the front port's address. -/
def State.datagram (s : State) (port : Nat) (ip : Ends) (ports : Option Ends) (h : ReqHdr) (toks : List Nat) : State :=
  let addr := ip.src
  let udp := (ports.map Ends.src).getD 0
  let e := Entry.front port addr udp
  if port ≥ 2 ∨ !s.frontUp then s
  else if s.frontAddr port = 0 ∨ ip.dst ≠ s.frontAddr port ∨ !(ports.any (fun u => u.dst == s.dnum 0x6020 1)) then s.frontDrop port 1
  else if (rqOp h) ≠ 1 then s.request e h (if (rqOp h) = 2 then 2 else 3) []
  else if rqBad h 1 true ∨ toks.length ≠ rq h 5 47 32 then s.refuseReq e (rqId h) rMalformed 0
  else match s.reasm.find? (fun y => y.addr == addr && y.udp == udp && (rqId y.hdr) == (rqId h)) with
    | none => s.tryComplete ⟨port, addr, udp, (rqNoFrag h), addTokens [] (rq h 5 31 0) toks, s.time⟩
    | some x =>
      if x.hdr ≠ (rqNoFrag h) then
        State.refuseReq { s with reasm := s.reasm.filter (fun y => decide (y ≠ x)) } e (rqId h) rMalformed 0
      else s.tryComplete { x with toks := addTokens x.toks (rq h 5 31 0) toks }

def execRequestDatagram (port : Nat) (addr : Ends) (udp : Option Ends) (h : ReqHdr) (tokens : List Nat) (s : State) : Host.Outcome State Fault Refusal :=
  .next (s.datagram port addr udp h tokens)

/-- A reassembly expires (R248). -/
def State.reasmTimeout (s : State) (idx : Nat) : State :=
  match s.reasm[idx]? with
  | none => s
  | some x =>
    have s : State := s.until (x.t0 + s.dnum 0x6020 4 * 1000000)
    have s : State := { s with reasm := s.reasm.filter (fun y => decide (y ≠ x)) }
    (s.frontDrop x.port 2).refuseReq (.front x.port x.addr x.udp) (rqId x.hdr) rMalformed 0

def execReassemblyTimeout (idx : Nat) (s : State) : Host.Outcome State Fault Refusal := .next (s.reasmTimeout idx)

/-- The datagrams of one destination: up to 32 records each. -/
def datagramsOf (port addr udp : Nat) : Nat → List (List Nat) → List Output
  | 0, _ => []
  | k + 1, l =>
    if l.isEmpty then [] else
    .front port addr udp ((l.take 32).flatMap (fun w => w.flatMap (fun x => natLE 8 x))) :: datagramsOf port addr udp k (l.drop 32)

/-- Waiting records leave a front port (R248). -/
def State.recordFlush (s : State) (port : Nat) : State :=
  let mine := s.frontQ.filter (fun x => x.1 == port)
  let dests := (mine.map (fun x => (x.2.1, x.2.2.1))).eraseDups
  let outs := dests.flatMap (fun d =>
    datagramsOf port d.1 d.2 mine.length ((mine.filter (fun x => x.2.1 == d.1 && x.2.2.1 == d.2)).map (fun x => x.2.2.2)))
  if !s.frontUp then s else { s with frontQ := s.frontQ.filter (fun x => x.1 != port), out := s.out ++ outs }

def execRecordFlush (port : Nat) (s : State) : Host.Outcome State Fault Refusal := .next (s.recordFlush port)

end Sys2Proof.Machine
end

