-- ==== Sys2Proof/Machine/Steps.lean ====
section
/-! DEFINITION. The steps of a partition: the boundary at the lead, the step-start message at each package, the step-done
word, the interference counters (spec/11 R255, R256; spec/12 R270 to R272, R282, R283; spec/04 R116). -/

namespace Sys2Proof.Machine

/-! ### The step frame (R271, R272) -/

def State.stepBase (s : State) (p : Nat) : Nat := (s.prt p).stepFrame * 0x200000

/-- A header entry's 32 bytes. -/
def StepEntry.bytes (e : StepEntry) : List Byte :=
  natLE 8 (e.handle + e.len * 2 ^ 32) ++
  natLE 8 (e.count + e.bucket * 2 ^ 32 + b2n e.prefill * 2 ^ 35 + b2n e.sample * 2 ^ 36) ++ natLE 8 e.aroot ++ zeros 8

/-- The header of a step (R271). -/
def headerBytes (step gen root time : Nat) (dec pre : List StepEntry) : List Byte :=
  natLE 8 step ++ natLE 8 (gen + dec.length * 2 ^ 16 + pre.length * 2 ^ 48) ++ natLE 8 root ++ natLE 8 time ++ zeros 32 ++
  (dec ++ pre).flatMap StepEntry.bytes

/-- The weight root of a generation: none while a load of it is not complete, of which no byte is named (spec/10 R232). -/
def State.weightRoot (s : State) (p gen root : Nat) : Nat :=
  match s.genOf p gen with
  | some g => if g.complete then g.root else 0
  | none => root

/-! ### What a step's end and its start write into the shadows (spec/14 R321 to R323) -/

/-- The step that runs or is to start, during a replay its head. -/
def Rail.now (r : Rail) : StepRec := r.replay.headD r.cur

/-- The header of the step that starts, which its message brings to every package of the group. -/
def State.comingHeader (s : State) (p : Nat) : List Byte :=
  let r := (s.rail p).now
  headerBytes r.step r.gen (s.weightRoot p r.gen r.root) r.start r.decode r.prefill

/-- What the shadows are to hold at a local address: memory as it stands, and at the lead a header that is sent and not yet written. -/
def State.shadowByte (s : State) (a : Nat) (b : Byte) : Byte :=
  match (List.range 16).find? (fun p => s.isLead p && (s.rail p).headerDue && (s.prt p).stepFrame == a / 0x200000) with
  | none => b
  | some p =>
    let x := s.stepBase p + (s.rail p).now.step % 2 * 0x40000
    if x ≤ a then (s.comingHeader p).getD (a - x) b else b

/-- Write the dirty 4 KiB units of a shadowed frame. -/
def State.shadowFrame (s : State) (f u : Nat) : State :=
  (List.range 512).foldl (fun (t : State) i =>
    let a := f * 0x200000 + 4096 * i
    t.shadowUnit (unitArea u + 4096 * i) ((t.poolRead a 4096).mapIdx (fun k b => t.shadowByte (a + k) b))) s

/-- The lead's stores of the partitions it leads, written when they differ from what the peers hold. -/
def State.shadowStores (s : State) : State :=
  let led := fun (p : Nat) => s.isLead p
  let st : RailStores := ⟨s.tickets.filter (fun x => led x.2.part), (s.rails.filter (fun x => led x.1)).map (fun x => (x.1, x.2.admseq, x.2.hist)),
    s.radix.filter (fun x => led x.part)⟩
  if !s.shadowsOn ∨ st = s.mosaic.stores then s else State.emit { s with mosaic := { s.mosaic with stores := st } } (.stores st)

/-- Write every dirty unit of some frames, with the header, the frame table and the lead's stores (R322). The writes go out here in one
command; their acknowledgement is the coming of STEP_SEAL (DESIGN CHOICE, unsafe; log entry 110). -/
def State.shadowFlush (s : State) (is : Nat → Bool) : State :=
  if !s.shadowsOn then s else
  have s : State := s.shadowFramesIn
  have s : State := s.shadowUnit 0 (padTo 4096 s.shadowHeader)
  State.shadowStores ((s.mosaic.frames.filter (fun x => is x.1)).foldl (fun (t : State) x => t.shadowFrame x.1 x.2) s)

/-- Length bucket (spec/06 R155). -/
def bucketOf (len : Nat) : Nat := if len ≤ 2048 then 0 else (len - 1).log2 + 1 - 11

/-- A Vertex read of the step frame: corrected and uncorrectable errors are reported (spec/05 R120). -/
def State.frameRead (s : State) (p a n : Nat) : State :=
  (s.ucAt a n).foldl (fun (t : State) u => t.reportUc u (some p)) (s.reportEc a n)

/-- Where result `i` of a step lies (R272). -/
def State.resultPlace (s : State) (p step i : Nat) : Nat := s.stepBase p + 0x80000 + step % 2 * 0x8000 + 8 * i

/-- Result `i` of a step, and whether reading it met an uncorrectable error. -/
def State.resultAt (s : State) (p step i : Nat) : Nat × Bool :=
  let a := s.resultPlace p step i
  (leNat (s.readMem a 8), !(s.ucAt a 8).isEmpty)

/-! ### The Arc latches (spec/04 R116) -/

/-- The Arc units of a partition. -/
def State.unitsIn (s : State) (p : Nat) : List Nat := s.facetsOf p ++ (engineList (s.prt p).mask).map (fun e => 256 + e)

def State.latched (s : State) (u : Nat) : Bool := if u < 256 then (s.facet u).stepBounds else (s.engineArc u).stepBounds

def State.unlatch (s : State) (u : Nat) : State :=
  if !s.latched u then s
  else if u < 256 then s.modFacet u (fun x => { x with stepBounds := false })
  else
    let y := s.engineArc u
    { s with engineArcs := Sparse.put (fun _ => EngineArc.blank) s.engineArcs u { y with stepBounds := false } }

/-- Whether the hold policy keeps a step from starting. -/
def State.arcHold (s : State) (p : Nat) : Bool :=
  s.dnum 0x6080 1 == 1 && (s.unitsIn p).any (fun u => s.gf (boundsFld u) (unitIdx u) == 1)

/-! ### Actions 1 to 3: the ended step (R255) -/

/-- Why a ticket whose token has been sent retires, in order of precedence: COMPLETE, MAXGEN, LENGTH_LIMIT, drain limit,
FAULT; 0 when it goes on. -/
def State.endReason (s : State) (t : Ticket) (word : Nat) (fault : Bool) : Nat :=
  if bit word 32 then 0x20
  else if t.glen ≥ t.maxgen then 0x21
  else if t.len ≥ 262144 then 0x22
  else if (s.genOf t.part t.modelgen).any (fun g => g.role == 2 && g.overdue) then 0x26
  else if fault then 0x28 else 0

/-- The bounds-only mark of an ended step on one of its tickets, and the step as its last (action 1). -/
def State.markServed (s : State) (step : Nat) (bounds : Bool) (e : StepEntry) : State :=
  let k := hSlot e.handle
  let t := s.ticket k
  if t.gen ≠ hGen e.handle ∨ (t.state ≠ 2 ∧ t.state ≠ 3) then s else s.setTicket k { t with bounds := t.bounds || bounds, laststep := step }

/-- One entry's result: the token is sent, GLEN advances, and the ticket may retire (action 3). -/
def State.takeResult (s : State) (p step : Nat) (bounds : Bool) (flags : Nat) (i : Nat) (e : StepEntry) : State :=
  let k := hSlot e.handle
  let t := s.ticket k
  if t.gen ≠ hGen e.handle ∨ (t.state ≠ 2 ∧ t.state ≠ 3) then s else
  let t := { t with len := e.len + e.count }
  if !e.sample then s.setTicket k t else
  let r := s.resultAt p step i
  let g := r.1 % 4294967296 + b2n bounds * 4294967296
  let t := { t with state := 3, glen := t.glen + 1, gend := t.gend ++ [g], gtimes := t.gtimes ++ [s.time] }
  have s : State := s.setTicket k t
  have s : State := s.sendOwn k (tokenRec t (t.handle k) (t.glen - 1) g flags s.time)
  let why := s.endReason t r.1 (bit r.1 33 || r.2)
  if why = 0 then s else (if why = 0x26 then s.bump 0x8018 3 else s).retire k why

/-- Clear the latches of a partition's units. -/
def State.unlatchAll (s : State) (p : Nat) : State := (s.unitsIn p).foldl (fun (t : State) u => t.unlatch u) s

/-- Sample the latches of the ended step; `others` is what the other packages of the group report. -/
def State.sampleBounds (s : State) (p : Nat) (others : Bool) : Bool × State :=
  let any := others || (s.unitsIn p).any (fun u => s.latched u)
  (any, State.unlatchAll (if any then s.bump 0x8012 4 else s) p)

/-- A step ends at a package that is not the lead; the mirrors stay as the step's start brought them (R239). -/
def State.endMirrors (s : State) (p : Nat) : State := s.modRail p (fun r => { r with running := false })

/-- The boundary at a package that is not the lead: its Barista samples its latches and reports them to the lead. -/
def State.reportBounds (s : State) (p : Nat) : State :=
  (((s.tell p "bounds-only" (b2n ((s.unitsIn p).any (fun u => s.latched u)))).unlatchAll p).endMirrors p).shadowFlush (fun _ => true)

/-- Collect the running step's results (action 1): whether it was bounds-only, and the state; the mean step time moves. -/
def State.collectStep (s : State) (p : Nat) (others : Bool) : Bool × State :=
  let r := s.rail p
  let cur := r.cur
  have s : State := s.frameRead p (s.resultPlace p cur.step 0) (8 * cur.entries.length)
  let q := s.sampleBounds p others
  let words := (cur.entries.zipIdx).map (fun x => (s.resultAt p cur.step x.2).1)
  have s : State := cur.entries.foldl (fun (t : State) e => t.markServed cur.step q.1 e) q.2
  (q.1, s.modRail p (fun x => { x with
    running := false, done := false, meanT := average (s.meanT p) (s.time - r.start)
    hist := x.hist.dropLast ++ [{ cur with results := words }] }))

/-- Tickets with CANCEL set retire (action 2). -/
def State.retireCancelled (s : State) (p : Nat) : State :=
  ((s.liveSlots p).filter (fun k => (s.ticket k).cancel && (s.ticket k).state != 4)).foldl
    (fun (t : State) k => (t.bump 0x8019 3).retire k 0x23) s

/-- Actions 1 to 3 of R255 in their order: the ended step is collected, cancelled tickets retire, the results of the others are
taken. -/
def State.endStep (s : State) (p : Nat) (others : Bool) (flags : Nat) : State :=
  if !(s.rail p).running then s.retireCancelled p else
  let cur := (s.rail p).cur
  let q := s.collectStep p others
  (cur.entries.zipIdx).foldl (fun (t : State) x => t.takeResult p cur.step q.1 flags x.2 x.1) (q.2.retireCancelled p)

/-- Tickets of a draining generation past the drain limit retire, whatever their state (R238). -/
def State.retireDrained (s : State) (p : Nat) : State :=
  ((s.liveSlots p).filter (fun k => (s.ticket k).state != 4 &&
      (s.genOf p (s.ticket k).modelgen).any (fun g => g.role == 2 && g.overdue))).foldl
    (fun (t : State) k => (t.bump 0x8018 3).retire k 0x26) s

/-- The generation switch of this boundary, the retire policy, and the end of a drain (R237, R238). -/
def State.drainStep (s : State) (p : Nat) : State :=
  let due := s.activations.any (fun a => a.p == p && a.accepted)
  have s : State := s.switchGen p
  have s : State := if due ∧ s.dnum 0x6100 5 = 1 then
      ((s.liveSlots p).filter (fun k => (s.ticket k).state != 4 && (s.ticket k).modelgen == s.drainGen p)).foldl
        (fun (t : State) k => t.retire k 0x26) s
    else s
  let d := s.drainGen p
  if d ≠ 0 ∧ !(s.liveSlots p).any (fun k => (s.ticket k).state != 4 && (s.ticket k).modelgen == d) then s.modGen p d (fun g => { g with role := 0, overdue := false }) else s

/-! ### Actions 4 and 5 -/

def State.passDeadlines (s : State) (p : Nat) : State :=
  ((s.inState p 1).filter (fun k => (s.ticket k).deadline != 0 && decide ((s.ticket k).deadline < s.time))).foldl
    (fun (t : State) k => (t.bump 0x8019 5).retire k 0x24) s

/-- Start QUEUED tickets in order while fewer than RUNMAX run. -/
def startQueued (p : Nat) : List Nat → State → State
  | [], s => s
  | k :: t, s =>
    if s.running p ≥ s.runMax p then s
    else startQueued p t ((s.modTicket k (fun x => { x with state := 2, eststart := s.time })).showRail)

/-- Recompute ESTSTART of the QUEUED tickets (R252). -/
def State.reestimate (s : State) (p : Nat) : State :=
  ((s.inState p 1).zipIdx).foldl (fun (t : State) x => t.modTicket x.1 (fun y => { y with eststart := t.estStart p x.2 })) s

/-! ### Actions 6 to 8: mapping, records, the batch (R150, R245, R256) -/

/-- Reserve two records for a participating ticket of a function; false when they cannot be had. -/
def State.reserve (s : State) (k : Nat) : Option State :=
  let t := s.ticket k
  match t.entry with
  | .func fn =>
    let n := 2 - t.resv
    if n = 0 then some s
    else if s.cqFree fn < n then none
    else some ((s.modRing fn (fun x => { x with resv := x.resv + n })).modTicket k (fun x => { x with resv := 2 }))
  | _ => some s

/-- The adapter root of a ticket on this package: its slot's, while the slot is valid for the ticket's tenant and generation
(spec/10 R234). -/
def State.adapterRoot (s : State) (t : Ticket) : Nat :=
  if !t.avalid then 0 else
  match (s.aslotOf t.part t.aslot).filter (fun x => x.valid && x.tenant == t.tenant && x.gen == t.modelgen) with
  | some x => x.root
  | none => 0

/-- The length bucket of every live ticket is worked out again (spec/06 R155). -/
def State.rebucket (s : State) (p : Nat) : State :=
  (s.liveSlots p).foldl (fun (t : State) k => t.modTicket k (fun x => { x with bucket := bucketOf x.len })) s

/-- Give a ticket `a` positions in the coming step, or leave it out with a reason (R150, R245); the pages of those in `short` could not
be had on another package. -/
def State.giveStep (s : State) (short : List Nat) (p k a : Nat) (prefill : Bool) : State × Option StepEntry :=
  let t := s.ticket k
  if t.len + a > 262144 then (s.retire k 0x22, none) else
  let q := kvMapAll p k (s.kvNeeds p t.len a) s
  if !q.2 || short.contains k then ((State.modTicket (if q.2 then State.pruneTables { q.1 with kvPages := s.kvPages } else q.1) k
    (fun x => { x with reason := 0x40 })).bump 0x5060 4, none) else
  match q.1.reserve k with
  | none => ((q.1.modTicket k (fun x => { x with reason := 0x41 })).bump 0x8019 7, none)
  | some s => (s, some ⟨t.handle k, t.len, a, bucketOf t.len, prefill, !prefill || t.len + a == t.plen, s.adapterRoot t⟩)

/-- DECODE tickets of a generation, by bucket descending, then slot (R155). -/
def State.decodeOrder (s : State) (p gen : Nat) : List Nat :=
  let l := (s.liveSlots p).filter (fun k => (s.ticket k).state == 3 && (s.ticket k).modelgen == gen)
  (List.range 8).reverse.flatMap (fun b => l.filter (fun k => bucketOf (s.ticket k).len == b))

/-- PREFILL tickets of a generation whose match has been mapped, in the order of R251. -/
def State.prefillOrder (s : State) (p gen : Nat) : List Nat :=
  (s.inState p 2).filter (fun k => (s.ticket k).modelgen == gen && (s.ticket k).mmapped)

/-- The generation of the coming batch: the draining and the active one in alternation, skipping one that has no ticket
ready (R237). -/
def State.nextGen (s : State) (p : Nat) : Nat :=
  let ready := fun (g : Nat) => g != 0 && !((s.decodeOrder p g).isEmpty && (s.prefillOrder p g).isEmpty)
  let a := s.activeGen p
  let d := s.drainGen p
  let last := (s.rail p).cur.gen
  let first := if last = d then a else d
  let second := if last = d then d else a
  if ready first then first else if ready second then second else a

/-- The decode set. -/
def formDecode (short : List Nat) (p : Nat) : List Nat → State → State × List StepEntry
  | [], s => (s, [])
  | k :: t, s =>
    let r := s.giveStep short p k 1 false
    let q := formDecode short p t r.1
    (q.1, r.2.toList ++ q.2)

/-- The prefill set, from `b` positions. -/
def formPrefill (short : List Nat) (p : Nat) : Nat → List Nat → State → State × List StepEntry
  | _, [], s => (s, [])
  | b, k :: t, s =>
    let a := min ((s.ticket k).plen - (s.ticket k).len) b
    if a = 0 then formPrefill short p b t s else
    let r := s.giveStep short p k a true
    let q := formPrefill short p (if r.2.isSome then b - a else b) t r.1
    (q.1, r.2.toList ++ q.2)

/-- Form the batch of the coming step. -/
def State.formBatch (s : State) (p : Nat) (short : List Nat) : State × StepRec :=
  let g := s.nextGen p
  let d := formDecode short p (s.decodeOrder p g) s
  let f := formPrefill short p (d.1.dnum 0x6004 (p + 1)) (d.1.prefillOrder p g) d.1
  (f.1, ⟨(s.rail p).step + 1, g, f.1.weightRoot p g 0, d.2, f.2, [], 0⟩)

/-! ### Action 9 -/

/-- Send the step-start message of the step that is to start, unless the hold policy waits (spec/04 R116). -/
def State.sendStart (s : State) (p : Nat) : State :=
  if s.arcHold p then s else
  -- the header of a replayed step is the sealed one, with the time of the step's first start (spec/12 R271; spec/14 R329)
  have s : State := s.modRail p (fun r => { r with
    waiting := false, running := true, done := false, headerDue := true, step := r.now.step, start := s.time
    hist := if r.replay.isEmpty then r.hist.dropLast ++ [{ r.cur with start := s.time }] else r.hist })
  -- first the coming header and what the boundary changed of the stores go to the peers (spec/14 R323)
  have s : State := s.shadowFlush (fun f => f == (s.prt p).stepFrame)
  have s : State := s.tell p "step-start" (s.rail p).now.step
  -- a pre-emption that waited for this begins (spec/12 R274)
  if (s.prt p).busy = 3 then s.tell p "freeze" 0 else s

/-- Whether the step that would start next may: the step two before it is sealed (spec/14 R323). -/
def State.sealedEnough (s : State) (p : Nat) : Bool := !s.shadowsOn || decide ((s.rail p).step ≤ (s.rail p).sealedStep + 1)

/-- Actions 4 to 9, and what a boundary ends. -/
def State.nextStep (s : State) (p : Nat) (short : List Nat) : State :=
  have s : State := (((s.renewSalts).pruneRadix p).drainStep p).passDeadlines p
  have s : State := ((startQueued p (s.inState p 1) s).reestimate p).rebucket p
  let b := s.formBatch p short
  have s : State := b.1.kvUncarve p
  if b.2.entries.isEmpty then s
  else (s.modRail p (fun r => { r with hist := (r.hist ++ [b.2]).drop (r.hist.length - 3), waiting := true })).sendStart p

/-! ### Replay (spec/14 R329, R330) -/

/-- How many of some steps have sampled a token for a handle. -/
def sampledIn (l : List StepRec) (h : Nat) : Nat := (l.filter (fun x => x.entries.any (fun e => e.sample && e.handle == h))).length

/-- One result of a replayed step below the last: compared with the one recorded before; after adoption its TOKEN record goes
out again with REPLAY. `later` are the replayed steps between it and the last. -/
def State.compareResult (s : State) (p : Nat) (x : StepRec) (later : List StepRec) (i : Nat) (e : StepEntry) : State :=
  let k := hSlot e.handle
  let u := s.ticket k
  if !e.sample ∨ u.gen ≠ hGen e.handle ∨ (u.state ≠ 2 ∧ u.state ≠ 3) then s
  else if (s.resultAt p x.step i).1 ≠ x.results.getD i 0 then
    ((s.bump 0x8025 7).report (source 8 3) (unstatedCode 9) 1 (some p) e.handle).retire k 0x28
  else if s.adopted then
    let n := u.glen - 1 - sampledIn later e.handle
    s.sendRec u.entry (tokenRec u (u.handle k) n (u.gend.getD n 0) 8 s.time)
  else s

/-- A replayed step below the last has ended; a step that ran on the fallback path marks its tickets once more. -/
def State.compareResults (s : State) (p : Nat) (x : StepRec) (later : List StepRec) (others : Bool) : State :=
  let q := s.sampleBounds p others
  (x.entries.zipIdx).foldl (fun (t : State) e =>
    let k := hSlot e.1.handle
    State.compareResult (if q.1 ∧ (t.ticket k).gen = hGen e.1.handle then t.modTicket k (fun u => { u with bounds := true }) else t)
      p x later e.2 e.1) q.2

/-- The FAULT ends of a partition's replay: TORN and FLT_STAT go back when no partition is torn. -/
def State.replayOver (s : State) (p : Nat) : State :=
  have s : State := s.modRail p (fun r => { r with replay := [], localReplay := false })
  have s : State := s.sf R.fltStat_TORN 0 (s.gf R.fltStat_TORN 0 &&& (65535 - 2 ^ p))
  if s.gf R.fltStat_TORN 0 ≠ 0 then s else
  -- a RESUME that waits for the replay is done (R335)
  have s : State := if s.dnum 0x8020 3 = 1 then s.setN 0x8020 3 0 else s
  if s.fatalNow then s else s.setFlt 0

/-- Send the header of the first step still to be replayed again, as `sendStart` does. -/
def State.sendReplay (s : State) (p : Nat) : State := (s.modRail p (fun r => { r with waiting := true })).sendStart p

/-! ### The boundary -/

/-- Whether a boundary of a partition can take place here: at the lead, in an ACTIVE partition that is neither torn nor being
pre-empted, but for the end of one that PREEMPT found in progress, when no step runs or the running one has ended (R255, R274, R278;
spec/14 R328). -/
def State.boundaryOpen (s : State) (p : Nat) : Bool :=
  s.isLead p && s.pstate p == 1 && ((s.prt p).busy == 0 || ((s.prt p).busy == 3 && (s.rail p).waiting)) && !(s.prt p).frozen && (s.rail p).halted.isNone &&
  (!bit (s.gf R.fltStat_TORN 0) p || !(s.rail p).replay.isEmpty) &&
  -- between RESUME and the replay-start message no boundary takes place (spec/14 R329)
  ((s.rail p).replay.isEmpty || (s.rail p).running || (s.rail p).waiting) &&
  (!(s.rail p).running || (s.rail p).done) && s.sealedEnough p

/-- The boundary (R255): at the lead, with what the other packages report of their latches and of the pages they could not map;
elsewhere the report to it. -/
def State.stepBoundary (s : State) (p : Nat) (others : Bool) (short : List Nat) : State :=
  if !s.isLead p ∧ s.pstate p = 1 ∧ (s.rail p).running then s.reportBounds p
  else if !s.boundaryOpen p then s
  else if s.ucVertex.contains 2 then s.fatalVertex 2
  else if (s.rail p).waiting then s.sendStart p
  else match (s.rail p).replay with
    | x :: y :: t =>
      have s : State := s.compareResults p x (y :: t).dropLast others
      (s.modRail p (fun r => { r with replay := y :: t })).sendReplay p
    | l =>
      have s : State := if l.isEmpty then s else s.replayOver p
      ((s.endStep p others (if l.isEmpty ∨ !s.adopted then 0 else 8)).retireDrained p).nextStep p short

def execStepBoundary (a : BoundaryWord) (s : State) : Host.Outcome State Fault Refusal := .next (s.stepBoundary a.p a.others a.short)

/-- The lead reads the step-done word (R272); an uncorrectable one is reported and ends no step (spec/05 R120). -/
def State.stepDonePoll (s : State) (p : Nat) : State :=
  let r := s.rail p
  let a := s.stepBase p + 0x90000
  if !s.isLead p ∨ s.pstate p ≠ 1 ∨ !r.running ∨ r.headerDue then s else
  have s : State := s.frameRead p a 8
  if !(s.ucAt a 8).isEmpty ∨ leNat (s.readMem a 8) ≠ r.step then s
  else (s.modRail p (fun r => { r with done := true })).shadowFlush (fun _ => true)

def execStepDonePoll (p : Nat) (s : State) : Host.Outcome State Fault Refusal := .next (s.stepDonePoll p)

/-! ### Interference (R282, R283) -/

/-- S of a step in 16.16, rounded to nearest. -/
def slowDown (t i : Nat) : Nat := (t * 65536 * 2 + i) / (2 * i)

/-- AVG + (S - AVG) ÷ 64, the division rounding toward zero. -/
def nextAvg (avg v : Nat) : Nat := ((avg : Int) + Int.tdiv ((v : Int) - (avg : Int)) 64).toNat

/-- I, or nothing where I is not above T ÷ 16, and S is 16.0. -/
def isolated (t lost : Nat) : Option Nat := if 16 * (t - lost) ≤ t then none else some (t - lost)

/-- What throttling cost: the step time × (1 − mean Lattice clock ÷ setpoint), `run` being the two clocks' MHz × ns in the step; a clock
above the setpoint costs nothing (DESIGN CHOICE, unsafe; log entry 15). -/
def throttled (t run setpoint : Nat) : Nat := (2 * setpoint * t - run) / (2 * setpoint)

/-- Account for the step that a new header ends. S of a step that took no time is free (DESIGN CHOICE, safe; log entry 15). -/
def State.measure (s : State) (p : Nat) : State :=
  let r := s.rail p
  match r.arrive with
  | none => s
  | some t0 =>
    let t := s.time - t0
    let f := (r.credits.map (fun x => x.2.1)).foldl max 0
    let h := (r.credits.map (fun x => x.2.2)).foldl max 0
    let th := throttled t (s.clkRun - r.clk) s.setpoint
    let k := if t = 0 then s.fresh else (0, s)
    let v := if t = 0 then Config.freeVal k.1 3 else
      match isolated t (f + h + r.frozenNs + th) with
      | none => 1048576
      | some i => slowDown t i
    have s : State := k.2
    let add := fun (s : State) (lo hi : Card) (n : Nat) => s.setPair lo hi p (s.pair lo hi p + n)
    have s : State := add s .partIfStepsLo .partIfStepsHi 1
    have s : State := add s .partIfStepNsLo .partIfStepNsHi t
    have s : State := add s .partIfForeignNsLo .partIfForeignNsHi f
    have s : State := add s .partIfHoldNsLo .partIfHoldNsHi h
    have s : State := add s .partIfPreemptNsLo .partIfPreemptNsHi r.frozenNs
    have s : State := add s .partIfThrottleNsLo .partIfThrottleNsHi th
    have s : State := s.wr .partIfLast p (BitVec.ofNat 32 v)
    let avg := nextAvg (s.rd .partIfAvg p).toNat v
    (s.wr .partIfAvg p (BitVec.ofNat 32 avg)).setN 0x6111 (p + 1) (avg % 4294967296)

/-! ### The step-start message (R264, R270) -/

/-- The roles that the message brings (R237). -/
def State.takeRoles (s : State) (p active draining : Nat) : State :=
  State.showGens { s with gens := s.gens.map (fun g => if g.p ≠ p then g
    else if g.gen = active then { g with role := 1 }
    else if g.gen = draining then { g with role := 2 } else { g with role := 0 }) } p

/-- The lead's entry of one live ticket, as the step-start message brings it (R239): the mirror takes its fields, and keeps what
this package maps for it. A ticket of the entry's generation that is new here notes its match (spec/06 R161). -/
def State.mirror (s : State) (p : Nat) (x : Nat × Ticket) : State :=
  let old := s.ticket x.1
  if x.2.part ≠ p ∨ x.2.state = 0 then s
  else if old.state ≠ 0 ∧ old.gen = x.2.gen then
    s.setTicket x.1 { x.2 with
      kvroot := old.kvroot, mmapped := old.mmapped, nodes := old.nodes, resv := 0, release := x.2.state == 4, endDue := false }
  else
    have s : State := if old.state ≠ 0 then s.dropTicket x.1 else s
    have s : State := (s.noteMatch x.2.mrange p x.2.tenant x.2.modelgen x.2.prompt).1
    (s.setTicket x.1 { x.2 with
      mmapped := x.2.mtch == 0, nodes := [], resv := 0, release := x.2.state == 4, endDue := false }).rootSlot x.1

/-- A ticket of the step maps its match, if it has not yet, and the pages of the step's positions (spec/06 R150, R168); false when a
page cannot be had. -/
def State.mapMirror (s : State) (p : Nat) (e : StepEntry) : State × Bool :=
  let k := hSlot e.handle
  let t := s.ticket k
  let q := if t.mmapped then (s, true) else
    match s.rangeOf t.mrange with
    | some r => s.mapPrefix k r t.mtch
    | none => (s, true)
  if !q.2 then q else
  have s : State := q.1.modTicket k (fun x => { x with mmapped := true })
  kvMapAll p k (s.kvNeeds p e.len e.count) s

/-- The tickets of a step map their pages, one after another: the slots of those that could not. -/
def mapMirrors (p : Nat) : List StepEntry → State → State × List Nat
  | [], s => (s, [])
  | e :: t, s =>
    let q := s.mapMirror p e
    let r := mapMirrors p t q.1
    (r.1, if q.2 then r.2 else hSlot e.handle :: r.2)

/-- What a package that is not the lead takes from a step message: the roles, the record of the step, the lead's tickets and the
ranges it has ended, the pages of the entries; and the slots whose pages could not be had here. -/
def State.takeStep (s : State) (p : Nat) (r : StepRec) (active draining : Nat) (tix : List (Nat × Ticket)) (ended : List Nat) :
    State × List Nat :=
  have s : State := s.endMirrors p
  have s : State := (s.takeRoles p active draining).modRail p (fun y => { y with
    running := true, done := false, step := r.step, start := s.time, hist := (y.hist ++ [r]).drop (y.hist.length - 3) })
  -- the seal of the requests before this boundary is reported: none is forwarded again (spec/14 R324)
  have s : State := { s with
    kept := (s.kept.map (fun y => if y.part = p ∧ y.answered then { y with due := false } else y)).filter (fun y => y.due || !y.ended) }
  have s : State := ended.foldl (fun (t : State) id => if t.ranges.any (fun r => r.id == id && r.p == p) then t.endRange id else t) s
  have s : State := tix.foldl (fun (t : State) x => t.mirror p x) s
  let q := mapMirrors p (r.decode ++ r.prefill) s
  (q.1.kvUncarve p, q.2)

/-- The message arrives: a slot outside the share is a halt; otherwise the Barista writes the header and counts the event. `tix`
are the lead's entries of the live tickets and of those that the boundary retired (R239), `ended` the ranges the lead has ended
(spec/06 R167, R169). The adapter roots in the header are this package's own (spec/10 R234). -/
def State.stepStart (s : State) (p step gen active draining root : Nat) (dec pre : List StepEntry) (tix : List (Nat × Ticket))
    (ended : List Nat) (start : Nat) : State :=
  let x := s.prt p
  let es := dec ++ pre
  let now := (s.rail p).now
  let mine := s.isLead p && (!(s.rail p).headerDue ||
    (now.step, now.gen, now.decode, now.prefill) != (step, gen, dec, pre))
  if p ≥ 16 ∨ s.pstate p ≠ 1 ∨ x.frozen ∨ mine then s
  else if es.any (fun e => decide (hSlot e.handle < x.tbase) || decide (x.tbase + x.tcount ≤ hSlot e.handle)) then
    s.haltOwed p ((s.facetsOf p).headD 0)
  else
    let q := if s.isLead p then (s.modRail p (fun r => { r with headerDue := false }), [])
      else s.takeStep p ⟨step, gen, root, dec, pre, [], start⟩ active draining tix ended
    -- a ticket whose pages cannot be had on every package takes no part: the lead is told, and leaves it out (spec/06 R150)
    if !q.2.isEmpty then q.2.foldl (fun (t : State) k => t.tell p "pages short" k) s else
    have s : State := q.1
    -- a latch tells of the step that starts here (spec/04 R116)
    have s : State := s.unlatchAll p
    have s : State := (s.measure p).modRail p (fun r => { r with arrive := some s.time, frozenNs := 0, credits := [], clk := s.clkRun })
    -- the LASTSEQ values a replay of this step goes back to (spec/14 R329)
    let seqs := (s.tables.filter (fun e => decide (8192 ≤ e.1) && bits e.2.w0 62 59 == p)).map (fun e => (e.1, e.2.w3))
    have s : State := s.modRail p (fun r => { r with seqs := (r.seqs.filter (fun x => x.1 != step) ++ [(step, seqs)]).reverse.take 4 |>.reverse })
    let wroot := s.weightRoot p gen root
    let own := fun (e : StepEntry) => if s.isLead p then e else { e with aroot := s.adapterRoot (s.ticket (hSlot e.handle)) }
    have s : State := (s.writeMem (s.stepBase p + step % 2 * 0x40000) (headerBytes step gen wroot (if s.isLead p then now.start else start) (dec.map own) (pre.map own))).1
    let f := s.gf R.partStepev_CFACET p
    if s.facetIn p f then s.sbInc f (s.gf R.partStepev_CTR p) false else s

def execStepStart (p step gen active draining root : Nat) (decode : List StepEntry) (rest : StepRest) (s : State) :
    Host.Outcome State Fault Refusal :=
  .next (s.stepStart p step gen active draining root decode rest.prefill rest.tickets rest.ended rest.start)

end Sys2Proof.Machine
end

