-- ==== Sys2Proof/Machine/Resets.lean ====
section
/-! DEFINITION. What the smaller resets do: of a Facet, an engine, a function and a partition (spec/18 R418, R419, R440;
spec/11 R259; spec/07 R194; spec/06 R171; spec/10 R238; spec/04 R113). -/

namespace Sys2Proof.Machine

/-! ### Units (R418) -/

/-- Whether instance `i` of a card is a partition-domain register of a Facet that `fs` selects, or of an engine that `es`
selects. -/
def unitReg (fs es : Nat → Bool) (c : Card) (i : Nat) : Bool :=
  let x := cardInfo c
  x.dom == .part && (match x.place with
    | .facet => fs (i / x.n2)
    | .engine => es (i / x.n2)
    | _ => false)

/-- Keep the watches of descriptors that stand somewhere, in a ring's list or in a save image, and of the EXPAND. -/
def State.pruneWatches (s : State) : State :=
  let live := (s.taken ++ s.parts.flatMap (fun x => (x.2.image.map (fun i => i.taken)).getD [])).flatMap (fun x => x.2.map (fun d => d.uid))
  { s with watches := s.watches.filter (fun w => match w.owner with
    | some u => live.contains u
    | none => true) }

/-- Zero Facets and engines: memories, state, registers; their Arc tables are to be loaded again (R113). -/
def State.resetUnits (s : State) (fs es : List Nat) : State :=
  let units := fs ++ es.map (fun e => 256 + e)
  have s : State := s.loseUnits units
  have s : State := fs.foldl (fun (t : State) f => ((t.clearScratch f 0).clearImem f 0).setFacet f Facet.blank) s
  have s : State := es.foldl (fun (t : State) e => ((t.clearSram e 0).setTaken e []).setPast e []) s
  have s : State := s.resetRegs (unitReg fs.contains es.contains)
  have s : State := { s with
    arcFails := s.arcFails.filter (fun x => !units.contains x.1)
    engineArcs := s.engineArcs.filter (fun x => !units.contains x.1)
    seams := s.seams.map (fun x => (x.1, x.2.filter (fun y => !fs.contains y.src && !fs.contains y.dst)))
      |>.filter (fun x => !x.2.isEmpty)
    unwaited := s.unwaited.filter (fun u => !fs.contains u.facet && !fs.contains u.by_)
    dbgHeld := s.dbgHeld.filter (fun e => !es.contains e) }
  units.foldl (fun (t : State) u => t.loseTables u) s.pruneWatches

/-! ### What registers mirror of the Apex core (spec/16) -/

/-- Show the lifecycle state and the open level where registers mirror them. -/
def State.showSec (s : State) : State :=
  have s : State := ((s.sf R.dbgStat_LIFE 0 s.sec.life).sf R.dbgStat_LEVEL 0 s.sec.level).sf R.dbgStat_PMASK 0 s.sec.mask
  have s : State := s.sf R.dbgStat_ZEROING 0 (b2n s.sec.opening.isSome)
  (List.range 17).foldl (fun (t : State) n => (t.sf R.apxStat_LIFE n t.sec.life).sf R.apxStat_DBG n t.sec.level) s

/-! ### A function (R419) -/

/-- The tickets that entered by a path become FREE at once, without a record (spec/11 R242, R259). -/
def State.dropEntered (s : State) (e : Entry) : State :=
  (s.tickets.map Prod.fst).foldl (fun (t : State) k =>
    let x := t.ticket k
    if x.state ≠ 0 ∧ t.isLead x.part ∧ x.entry = e then t.dropTicket k else t) s

/-- Function reset: its rings and function-domain registers, its mailbox subscription; the tickets that entered through
it end at once, and the leads of those that it forwarded are told (spec/11 R259); its Apex mailbox's buffers are zeroed. -/
def State.functionReset (s : State) (fn : Nat) : State :=
  let leads := ((s.kept.filter (fun k => decide (k.e = .func fn))).map (fun k => k.part)).eraseDups
  have s : State := s.setRing fn Ring.blank
  have s : State := s.resetRegs (fun c i => (cardInfo c).dom == .func && i / (cardInfo c).n2 == fn)
  have s : State := { s with
    subs := s.subs.filter (fun u => decide (u.path ≠ .mailbox fn))
    sessions := s.sessions.filter (fun u => decide (u.path ≠ .mailbox fn))
    answers := s.answers.filter (fun u => decide (u.path ≠ .mailbox fn))
    kept := s.kept.filter (fun k => decide (k.e ≠ .func fn))
    shadows := s.shadows.filter (fun x => decide (x.r = .mc) || reqFn x.r != fn)
    apxReq := Sparse.erase s.apxReq (fn * 4096) 4096
    apxRsp := Sparse.erase s.apxRsp (fn * 4096) 4096 }
  (leads.foldl (fun (t : State) p => t.tell p "function reset" fn) (s.dropEntered (.func fn))).showSec

/-! ### A partition (R418) -/

/-- Whether an issuer belongs to the units or the copy ring of a formed partition. -/
def State.issuerOf (s : State) (p : Nat) : Issuer → Bool
  | .pour f _ => s.inRect (s.prt p).shape f
  | .drip e _ => bit (s.prt p).mask e
  | .copy q _ => q == p
  | .stage q _ => q == p
  | .inbox _ => false
  | .job _ => false

/-- The issuers that a reset of `p` reaches. -/
def State.issuerMine (s : State) (p : Nat) (who : Issuer) : Bool :=
  s.issuerOf p who && (match who with
    | .pour f _ => !s.facetTaken p f
    | .drip e _ => !s.engineTaken p e
    | _ => true)

/-- Whether instance `i` of a card is a partition-domain register of partition `p`'s own block. -/
def partReg (p : Nat) (c : Card) (i : Nat) : Bool :=
  let x := cardInfo c
  x.dom == .part && (match x.place with
    | .at _ => i / x.n2 == p
    | _ => false)

/-- The tickets of a partition end: at the lead a front-path ticket is sent END with RESET (R259), and every ticket one with
FAULT when a restore has failed (spec/12 R281). -/
def State.endTickets (s : State) (p : Nat) (fault : Bool) : State :=
  (s.liveSlots p).foldl (fun (t : State) k =>
    have t : State := t.modTicket k (fun x => { x with reason := if fault then 0x28 else 0x29 })
    have t : State := if t.isLead p ∧ !(t.ticket k).silent ∧ (fault ∨ (t.ticket k).path ≠ 0) then t.endRec k else t
    t.dropTicket k) s

/-- What a partition reset does while STATE reads RESETTING. -/
def State.partReset (s : State) (p : Nat) (fault : Bool) : State :=
  have s : State := s.sf R.partStat_STATE p 6
  have s : State := s.endTickets p fault
  have s : State := { s with
    ops := s.ops.filter (fun o => !s.issuerMine p o.who)
    xfers := s.xfers.filter (fun o => !s.issuerMine p o.who) }
  have s : State := (s.holds.filter (fun h => s.issuerMine p h.who)).foldl (fun (t : State) h => t.endHold h stNotMapped) s
  have s : State := (List.range 32).foldl (fun (t : State) n => t.showOutst n) s
  have s : State := s.resetUnits ((s.facetsOf p).filter (fun f => !s.facetTaken p f))
    ((engineList (s.prt p).mask).filter (fun e => !s.engineTaken p e))
  have s : State := (s.setGroup (2 * p) ⟨0, none⟩).setGroup (2 * p + 1) ⟨0, none⟩
  have s : State := s.setTaken (32 + p) []
  have s : State := (((s.kvResetPart p).resetTiers p).dropPart p).setRail p Rail.blank
  have s : State := s.resetRegs (partReg p)
  have s : State := s.setN 0x6111 (p + 1) 65536
  have s : State := s.modPrt p (fun x => { x with
    trBusy := false, trRange := [], trWait := none, trLeft := [], frozen := false, quiesced := false, image := none, aside := [], haltDue := [], told := [] })
  s.functionReset (p + 1)

end Sys2Proof.Machine
end

