-- ==== Sys2Proof/Machine/FacetRegs.lean ====
section
/-! DEFINITION. The Facet commands and registers a host writes: START, HALT, CLRSB, IMEM_LOAD, FCT_MCFG, the counters
(spec/02 R65 to R67); commands that find the package asleep (spec/15 R352). -/

namespace Sys2Proof.Machine

/-! ### Commands that a sleeping package keeps (spec/15 R352, R353) -/

/-- Whether S1 or S2 is in force or being entered or left. -/
def State.asleep (s : State) : Bool := s.power.sleep != 0 || s.power.entering.isSome

/-- Ask for loads to be granted (R353). -/
def State.askPower (s : State) (n watts : Nat) : State :=
  { s with power := { s.power with requests := s.power.requests ++ List.replicate n (watts, s.mclk) } }

/-- Begin to leave S1 or S2: mesh rows and engines are ungated, or powered up. -/
def State.startExit (s : State) : State :=
  if s.power.exiting ∨ s.power.entering.isSome ∨ s.power.sleep = 0 ∨ s.power.sleep = 3 then s else
  have s : State := if s.power.sleep = 1 then (s.askPower 16 90).askPower s.engineCount 14 else s.askPower 16 120
  { s with power := { s.power with exiting := true } }

/-- Keep a command until the exit it triggers completes. -/
def State.park (s : State) (i : Parked) : State :=
  State.startExit { s with power := { s.power with parked := s.power.parked ++ [i] } }

/-! ### FCT_CMD (R65) -/

/-- A Facet starts issuing at a bundle: what it had in flight is through, it is aligned, no loop is open; its registers and
memories stay. -/
def State.startFacet (s : State) (f entry : Nat) (solo : Bool) : State :=
  have s : State := State.flush f drainFuel s
  have s : State := s.modFacet f (fun x => { x with loops := [], wait := none, rest := 0, slot := 0, haltReq := false, solo := solo })
  have s : State := { s with unwaited := s.unwaited.filter (fun u => !(u.facet == f && !u.told.isEmpty)) }
  have s : State := match s.facetPart f with
    | some p => s.modPrt p (fun x => { x with told := x.told.filter (fun g => g != f) })
    | none => s
  ((s.sf R.fctStat_PC f entry).sf R.fctStat_DETACHED f 0).sf R.fctStat_STATE f fsRunning

/-- START: the Facet is a group of one, whose GCC begins at 0 (R34). -/
def State.startSolo (s : State) (f entry : Nat) : State := (s.startFacet f entry true).setGroup (32 + f) ⟨0, none⟩

/-- HALT: a running or stalled Facet becomes halted at the next bundle boundary; any other changes nothing. -/
def State.haltFacet (s : State) (f : Nat) : State :=
  if s.gf R.fctStat_STATE f = fsRunning ∨ s.gf R.fctStat_STATE f = fsStalled then
    if (s.facet f).slot = 0 then (s.stopFacet f).settle (s.groupOf f) else s.modFacet f (fun x => { x with haltReq := true })
  else s

/-- Every counter to 0 with ERR and SAT cleared, and its hidden sums. -/
def State.clearCounters (s : State) (f : Nat) : State :=
  (s.resetRegs (fun c i => c == .fctSb && i / 64 == f)).modFacet f (fun x => { x with hid := [] })

/-- Whether START, CLRSB and IMEM_LOAD are accepted. -/
def State.facetIdle (s : State) (f : Nat) : Bool :=
  (s.gf R.fctStat_STATE f == fsIdle || s.gf R.fctStat_STATE f == fsHalted) && s.gf R.fctStat_IMEM_BUSY f == 0

def State.fctCmd (s : State) (r : Requester) (f code : Nat) (k : State → State × Nat) : State :=
  s.gate r .fctCmd f fun s =>
    let q := k s
    q.1.cmdDone .fctCmd f code q.2

def State.fctStart (s : State) (r : Requester) (f entry : Nat) : State :=
  s.fctCmd r f 1 fun s =>
    if s.asleep then (s.park (.start r f entry), 1)
    else if s.facetIdle f then (s.startSolo f entry, 0) else (s, 2)

def execFctStart (r : Requester) (f entry : Nat) (s : State) : Host.Outcome State Fault Refusal := .next (s.fctStart r f entry)

def execFctHalt (r : Requester) (f : Nat) (s : State) : Host.Outcome State Fault Refusal :=
  .next (s.fctCmd r f 2 fun s => (s.haltFacet f, 0))

def execClrsb (r : Requester) (f : Nat) (s : State) : Host.Outcome State Fault Refusal :=
  .next (s.fctCmd r f 3 fun s => if s.facetIdle f then (s.clearCounters f, 0) else (s, 2))

def State.imemSrc (s : State) (f : Nat) : Nat := s.pair .fctImemSrcLo .fctImemSrcHi f

/-- IMEM_LOAD: its checks, and the copy begins. -/
def State.imemLoad (s : State) (r : Requester) (f entry : Nat) : State :=
  s.fctCmd r f 4 fun s =>
    let src := s.imemSrc f
    let n := s.gf R.fctImemLen_COUNT f
    let dom := s.facetPart f
    if s.asleep then (s.park (.imem r f entry), 1)
    else if !s.facetIdle f then (s, 2)
    else if n = 0 ∨ entry + n > 8192 ∨ src % 32 ≠ 0 ∨ !s.own src then (s, 3)
    else if !s.allowed dom (fgaOff src) (n * 32) false then (s.report (source 0 f) 0x42 1 dom src, 3)
    else ((s.modFacet f (fun x => { x with imemLoad := some (entry, n, src) })).sf R.fctStat_IMEM_BUSY f 1, 1)

def execImemLoad (r : Requester) (f entry : Nat) (s : State) : Host.Outcome State Fault Refusal := .next (s.imemLoad r f entry)

/-- Copy bundles into instruction memory; false when the source cannot be read, which leaves the bundles undefined. -/
def State.copyBundles (s : State) (f entry n src : Nat) (ok : Bool) : State × Bool :=
  let dom := s.facetPart f
  let q := s.readRow dom src (n * 32)
  let good := ok && (s.rowStatus dom src (n * 32) false 0).1 == 0 && q.2.2.isEmpty
  if good then ((q.1.writeImem f (entry * 32) q.2.1).1, true)
  else
    let k := q.1.fresh
    ((k.2.writeImem f (entry * 32) (freeBytes k.1 (n * 32))).1.report (source 0 f) 0x42 1 dom src, false)

/-- The load ends; `ok` is false when a source read failed in a way the state does not show. A held page keeps it waiting. -/
def State.imemLoadDone (s : State) (f : Nat) (ok : Bool) : State :=
  match (s.facet f).imemLoad with
  | none => s
  | some (entry, n, src) =>
    if ok ∧ !(s.heldPages (s.facetPart f) src (n * 32) false).isEmpty then s else
    let r := s.copyBundles f entry n src ok
    have s : State := r.1.modFacet f (fun x => { x with imemLoad := none })
    (s.sf R.fctStat_IMEM_BUSY f 0).sf R.fctCmd_STATUS f (if r.2 then 0 else 4)

def execImemLoadDone (f : Nat) (ok : Bool) (s : State) : Host.Outcome State Fault Refusal := .next (s.imemLoadDone f ok)

/-! ### FCT_MCFG and the counters (R66, R67) -/

def State.mcfgWrite (s : State) (r : Requester) (f be : Nat) (val : Word) : State :=
  s.gate r .fctMcfg f fun s =>
    have t : State := s.mergeReg .fctMcfg f be val
    let v := t.gf R.fctMcfg_PROMO f
    if v < 16 ∨ v > 256 then s.facetErr f eCfg v else t

def execFctMcfgWrite (r : Requester) (f be : Nat) (val : Word) (s : State) : Host.Outcome State Fault Refusal :=
  .next (s.mcfgWrite r f be val)

def State.sbWrite (s : State) (r : Requester) (f n be : Nat) (val : Word) : State :=
  s.gate r .fctSb (f * 64 + n) fun s =>
    if s.gf R.fctStat_STATE f = fsIdle ∨ s.gf R.fctStat_STATE f = fsHalted then s.mergeReg .fctSb (f * 64 + n) be val
    else s.facetErr f eHostw n

def execSbCounterWrite (r : Requester) (f n be : Nat) (val : Word) (s : State) : Host.Outcome State Fault Refusal :=
  .next (s.sbWrite r f n be val)

end Sys2Proof.Machine
end

