-- ==== Sys2Proof/Machine/Partitions.lean ====
section
/-! DEFINITION. Partitions: forming and dissolving, reset, pre-emption and resumption, halts, the access map
(spec/12 R261 to R266, R273 to R281, R442). -/

namespace Sys2Proof.Machine

/-! ### PART_CMD -/

def pcBadArg : Nat := 1
def pcState : Nat := 2
def pcOverlap : Nat := 3
def pcNoSpace : Nat := 4
def pcNotLead : Nat := 5
def pcBusy : Nat := 6
def pcTimeout : Nat := 7
def pcOccupied : Nat := 8
def pcImage : Nat := 9
def pcDenied : Nat := 0xA

/-- End a command of a partition. -/
def State.partEnd (s : State) (p cmd status code : Nat) : State :=
  (s.modPrt p (fun x => { x with busy := 0 })).cmdCode .partCmd p cmd status code

/-- A write of PART_CMD: a virtual function's is DENIED; otherwise `k` answers the new state, STATUS and CODE. -/
def State.partGate (s : State) (r : Requester) (p cmd : Nat) (k : State → State × Nat × Nat) : State :=
  s.gate r .partCmd p fun s =>
    match r with
    | .vf _ => s.cmdCode .partCmd p cmd 2 pcDenied
    | _ =>
      let q := k s
      q.1.cmdCode .partCmd p cmd q.2.1 q.2.2

/-- A write to another register of the block: a virtual function's is DENIED. -/
def State.partWrite (s : State) (r : Requester) (p : Nat) (c : Card) (i : Nat) (k : State → State) : State :=
  s.gate r c i fun s =>
    match r with
    | .vf _ => (s.sf R.partCmd_STATUS p 2).sf R.partCmd_CODE p pcDenied
    | _ => k s

/-! ### FORM (R261 to R266) -/

/-- SAVEBYTES in frames of 2 MiB (R263). -/
def saveFrames (nf ne : Nat) : Nat := (4096 + nf * 2359296 + ne * 2105344 + 2097151) / 2097152

/-- Whether a frame can be carved (R263). -/
def State.frameFree (s : State) (amaps : List (Nat × Nat)) (fr : Nat) : Bool :=
  decide ((fr + 1) * 0x200000 ≤ s.reservedFrom) && !s.carved fr &&
  amaps.all (fun a => decide ((fr + 1) * 0x200000 ≤ a.1) || decide (a.2 ≤ fr * 0x200000))

/-- The enabled access-map ranges of every partition. -/
def State.allAmaps (s : State) : List (Nat × Nat) :=
  (List.range 128).filterMap (fun i => (s.amap (i / 8) (i % 8)).map (fun a => (a.1, a.2.1)))

/-- The lowest `n` frames from `fr` on that are free and not in `used`. -/
def takeFrames (free : Nat → Bool) (used : List Nat) : Nat → Nat → Nat → Option (List Nat)
  | 0, _, 0 => some []
  | 0, _, _ + 1 => none
  | _ + 1, _, 0 => some []
  | k + 1, fr, n + 1 =>
    if free fr && !used.contains fr then (takeFrames free used k (fr + 1) n).map (fun l => fr :: l)
    else takeFrames free used k (fr + 1) (n + 1)

/-- One frame of the first of some quadrants that has a free one. -/
def frameOf (free : Nat → Bool) (used : List Nat) : List Nat → Option Nat
  | [] => none
  | e :: t =>
    match takeFrames free used 8192 (e * 8192) 1 with
    | some (f :: _) => some f
    | _ => frameOf free used t

/-- The key-value pools: `n` frames in every engine's quadrant. -/
def carveKv (free : Nat → Bool) (n : Nat) : List Nat → List Nat → Option (List Nat)
  | [], used => some used
  | e :: t, used =>
    match takeFrames free used 8192 (e * 8192) n with
    | some l => carveKv free n t (used ++ l)
    | none => none

/-- Frames one by one, the `i`-th from the quadrants that `order i` names first. -/
def carveSeq (free : Nat → Bool) (order : Nat → List Nat) : Nat → Nat → List Nat → List Nat → Option (List Nat)
  | 0, _, _, acc => some acc
  | n + 1, i, used, acc =>
    match frameOf free used (order i) with
    | some f => carveSeq free order n (i + 1) (f :: used) (acc ++ [f])
    | none => none

/-- The Lattice die whose Facet record, or engine, the `i`-th frame of a save area begins in (R263, R279). -/
def State.saveDie (s : State) (fs es : List Nat) (i : Nat) : Nat :=
  let o := i * 0x200000
  let k := (o - 0x1000) / 0x240000
  if k < fs.length then s.dieOf (fs.getD k 0) else s.engineDie (es.getD ((o - 0x1000 - fs.length * 0x240000) / 0x202000) 0)

/-- The frames a partition would carve. -/
def State.carve (s : State) (p : Nat) (fs es : List Nat) : Option Partition :=
  let free := s.frameFree s.allAmaps
  let rot := fun (i : Nat) => es.drop (i % es.length) ++ es.take (i % es.length)
  let bySave := fun (i : Nat) =>
    let near := es.filter (fun e => s.engineDie e == s.saveDie fs es i)
    if near.isEmpty then es else near
  match carveKv free (s.gf R.partKv_FRAMES p) es [] with
  | none => none
  | some kv =>
    match carveSeq free rot (s.gf R.partTier_FRAMES p) 0 kv [] with
    | none => none
    | some tier =>
      match frameOf free (kv ++ tier) (es.take 1) with
      | none => none
      | some sf =>
        match carveSeq free bySave (saveFrames fs.length es.length) 0 (sf :: kv ++ tier) [] with
        | none => none
        | some save => some { Partition.free with
            shape := (s.rd .partShape p).toNat, mask := (s.rd .partDrip p).toNat, tbase := s.gf R.partTickets_TBASE p,
            tcount := s.gf R.partTickets_TCOUNT p, kvPool := kv, tierAll := tier, stepFrame := sf, save := save }

/-- Whether a Facet or an engine belongs to a partition other than `p` that is not SAVED. -/
def State.occupied (s : State) (p : Nat) (fs es : List Nat) : Bool :=
  (List.range 16).any (fun q => q != p && s.pstate q != 0 && s.pstate q != 4 &&
    (fs.any (fun f => s.facetIn q f) || es.any (fun e => s.engineIn q e)))

def State.formOverlap (s : State) (p : Nat) (fs es : List Nat) : Bool :=
  let tb := s.gf R.partTickets_TBASE p
  let tc := s.gf R.partTickets_TCOUNT p
  s.occupied p fs es ||
  fs.any (fun f => (s.facetPart f).isNone && (s.gf R.fctStat_STATE f == fsRunning || s.gf R.fctStat_STATE f == fsStalled)) ||
  (List.range 16).any (fun q => q != p && s.pstate q != 0 &&
    decide (tb < (s.prt q).tbase + (s.prt q).tcount) && decide ((s.prt q).tbase < tb + tc))

/-- Whether a register that FORM reads has a reserved bit set; no write sets one (spec/01 R24). -/
def State.formReserved (s : State) (p : Nat) : Bool :=
  bits (s.rd .partShape p).toNat 31 16 != 0 || bits (s.rd .partTickets p).toNat 31 28 != 0 ||
  bits (s.rd .partTickets p).toNat 15 13 != 0 || bits (s.rd .partKv p).toNat 31 24 != 0 || bits (s.rd .partTier p).toNat 31 24 != 0

def State.formBad (s : State) (p : Nat) : Bool :=
  let r := rectOf (s.rd .partShape p).toNat
  let m := (s.rd .partDrip p).toNat
  decide (r.2.1 ≥ 16) || decide (r.2.2.2 ≥ s.cols) || m == 0 || decide (m ≥ 2 ^ s.engineCount) ||
  s.gf R.partTickets_TCOUNT p == 0 || decide (s.gf R.partTickets_TBASE p + s.gf R.partTickets_TCOUNT p > 4096) || s.formReserved p

/-- FORM: the checks in order, then the carving. A package asleep leaves its state first: the command, which the checks would not
reject, is busy until it is performed (spec/15 R352; DEDUCED, unsafe; log entry 65). -/
def State.form (s : State) (r : Requester) (p : Nat) : State :=
  s.partGate r p 1 fun s =>
    let fs := (List.range s.facetCount).filter (fun f => s.inRect (s.rd .partShape p).toNat f)
    let es := engineList (s.rd .partDrip p).toNat
    if (s.prt p).busy ≠ 0 then (s, 2, pcBusy)
    else if s.pstate p ≠ 0 then (s, 2, pcState)
    else if s.formBad p then (s, 2, pcBadArg)
    else if s.formOverlap p fs es then (s, 2, pcOverlap)
    else match s.carve p fs es with
      | none => (s, 2, pcNoSpace)
      | some x =>
        if s.asleep then ((s.modPrt p (fun y => { y with busy := 1 })).park (.form r p), 1, 0) else
        have s : State := (s.resetUnits fs es).setPrt p x
        have s : State := (s.sf R.partStat_STATE p 1).sf R.partStat_FRAMES p x.save.length
        (s.setPair .partStepLo .partStepHi p (s.fga (x.stepFrame * 0x200000)), 0, 0)

def execForm (r : Requester) (p : Nat) (s : State) : Host.Outcome State Fault Refusal := .next (s.form r p)

/-! ### RESET and DISSOLVE (R266, R418) -/

/-- RESET (5) or DISSOLVE (2): the reset is under way until PART_RESET_DONE. -/
def State.partStop (s : State) (r : Requester) (p cmd : Nat) : State :=
  s.partGate r p cmd fun s =>
    if (s.prt p).busy ≠ 0 then (s, 2, pcBusy)
    else if s.pstate p = 0 then (s, if cmd = 2 then 0 else 2, if cmd = 2 then 0 else pcState)
    else ((s.partReset p false).modPrt p (fun x => { x with busy := cmd }), 1, 0)

def execDissolve (r : Requester) (p : Nat) (s : State) : Host.Outcome State Fault Refusal := .next (s.partStop r p 2)
def execPartReset (r : Requester) (p : Nat) (s : State) : Host.Outcome State Fault Refusal := .next (s.partStop r p 5)

/-- The reset ends: the partition is ACTIVE again, or FREE with every frame free. -/
def State.partResetDone (s : State) (p : Nat) : State :=
  let b := (s.prt p).busy
  if s.pstate p ≠ 6 then s
  else if b = 2 then
    have s : State := ((s.sf R.partStat_STATE p 0).sf R.partStat_FRAMES p 0).setPair .partStepLo .partStepHi p 0
    (s.partEnd p 2 0 0).setPrt p Partition.free
  else
    have s : State := s.sf R.partStat_STATE p 1
    if b = 5 then s.partEnd p 5 0 0 else s

def execPartResetDone (p : Nat) (s : State) : Host.Outcome State Fault Refusal := .next (s.partResetDone p)

/-! ### Pre-emption (R274 to R277, R281) -/

/-- Whether PREEMPT and RESUME of a partition are written here. -/
def State.commands (s : State) (p : Nat) : Bool := s.isLead p || s.leadOf p == 0xFFFF

def State.preempt (s : State) (r : Requester) (p : Nat) : State :=
  s.partGate r p 3 fun s =>
    if s.adopting p ∨ (s.prt p).busy ≠ 0 then (s, 2, pcBusy)
    else if s.pstate p ≠ 1 then (s, 2, pcState)
    else if !s.commands p then (s, 2, pcNotLead)
    else
      -- a boundary in progress gets to the end of its action 9 first
      have s : State := s.modPrt p (fun x => { x with busy := 3 })
      (if (s.rail p).waiting then s else s.tell p "freeze" 0, 1, 0)

def execPreempt (r : Requester) (p : Nat) (s : State) : Host.Outcome State Fault Refusal := .next (s.preempt r p)

/-- The groups that a partition's Facets are in, those of Facets started alone among them. -/
def State.partGroups (s : State) (p : Nat) : List Nat := ((s.facetsOf p).map (fun f => s.groupOf f)).eraseDups

/-- Fix the GCCs of a partition's groups (R275). -/
def State.wakeGroups (s : State) (p : Nat) : State := (s.partGroups p).foldl (fun (t : State) g => t.wakeGroup g) s

/-- Whether a member of a group has issued on the present cycle, or may have. -/
def State.midCycle (s : State) (g : Nat) : Bool := (s.runners g).any (fun f => (s.facet f).rest == 1 || (s.facet f).rest == 3)

/-- The due bundles of no-ops of a group whose present cycle has begun are issued. -/
def State.closeCycle (s : State) (g : Nat) : State :=
  if s.midCycle g then ((s.runners g).filter (fun f => s.nopDue f)).foldl (fun (t : State) f => t.nopStep f) s else s

/-- Whether a group can stop where it stands: no bundle has slots still to issue (spec/02 R32), and either every member has issued
on the present cycle or none has. -/
def State.cycleWhole (s : State) (g : Nat) : Bool :=
  (s.members g).all (fun f => (s.facet f).slot == 0) && !(s.midCycle g && (s.runners g).any (fun f => (s.facet f).rest == 0))

/-- The freeze message: the groups stop, each on one cycle, and held accesses are abandoned (R275, R276). It falls between two
cycles, and at the lead after the boundary's action 9 (R274). -/
def State.freezeMessage (s0 : State) (p : Nat) : State :=
  have s : State := (s0.partGroups p).foldl (fun (t : State) g => t.closeCycle g) s0
  if s.pstate p ≠ 1 ∨ (s.commands p ∧ (s.prt p).busy ≠ 3) ∨ (s.rail p).waiting ∨ (s.rail p).headerDue ∨
    !(s.partGroups p).all (fun g => s.cycleWhole g) then s0 else
  have s : State := s.wakeGroups p
  have s : State := (s.holds.filter (fun h => h.p == p)).foldl (fun (t : State) h => t.addHeld h.who h.at_) s
  have s : State := s.modPrt p (fun x => { x with frozen := true, quiesced := false, aside := s.holds.filter (fun h => h.p == p) })
  have s : State := { s with holds := s.holds.filter (fun h => h.p != p) }
  (s.sf R.partStat_STATE p 2).modRail p (fun r => { r with frozenAt := some s.time })

def execFreezeMessage (p : Nat) (s : State) : Host.Outcome State Fault Refusal := .next (s.freezeMessage p)

/-- Deliver and acknowledge what stands in the Seam buffers of a lane (R276). -/
def drainLane (lane : Nat) : Nat → State → State
  | 0, s => s
  | n + 1, s => drainLane lane n ((s.seamDelivery lane).seamAck lane)

/-- Quiescence ends: no request of the partition is outstanding, no copy to or from its scratchpads runs; Seam beats are delivered, descriptors not started are
returned (R276). -/
def State.quiesceDone (s : State) (p : Nat) : State :=
  if s.pstate p ≠ 2 ∨ (s.prt p).quiesced ∨ (s.takenOf (32 + p)).any (fun d => d.running && s.copyScratch d) ∨ s.ops.any (fun o => o.port.isSome && s.whoFrozen o.who && s.issuerOf p o.who) then s else
  let r := rectOf (s.prt p).shape
  let lanes := (List.range 32).filter (fun l => decide (r.2.2.1 ≤ l / 2) && decide (l / 2 ≤ r.2.2.2) && decide (r.1 ≤ 7) && decide (8 ≤ r.2.1))
  have s : State := lanes.foldl (fun (t : State) l => drainLane l (t.seam l).length t) s
  have s : State := (engineList (s.prt p).mask).foldl (fun (t : State) e => t.dripReturn e) s
  (s.modPrt p (fun x => { x with quiesced := true })).tell p "quiesced" 0

def execQuiesceDone (p : Nat) (s : State) : Host.Outcome State Fault Refusal := .next (s.quiesceDone p)

/-- SAVE: at the lead it also goes out to the group (R274). -/
def State.saveMessage (s : State) (p : Nat) : State :=
  if s.pstate p ≠ 2 ∨ !(s.prt p).quiesced then s
  else
    have s : State := s.sf R.partStat_STATE p 3
    if s.commands p then s.tell p "save" 0 else s

def execSaveMessage (p : Nat) (s : State) : Host.Outcome State Fault Refusal := .next (s.saveMessage p)

/-- The registers of a Facet and of an engine that the save image holds (R279), with the group cycle counter, and the
engine's run state. -/
def savedCard (c : Card) : Bool :=
  match c with
  | .fctSb | .fctStat | .fctErr | .fctMcfg | .fctAstat | .fctXcfg | .fctAccl | .fctArcst | .fctGccLo | .fctGccHi => true
  | .drpRingLo | .drpRingHi | .drpRingCfg | .drpCfg | .drpHead | .drpErr | .drpAstat | .drpArcst | .drpStat => true
  | _ => false

def savedKey (fs es : List Nat) (k : Nat) : Bool :=
  savedCard (cardOf (k / 1048576)) && unitReg fs.contains es.contains (cardOf (k / 1048576)) (k % 1048576)

/-- Whether a physical local offset lies in the scratchpad of one of some Facets. -/
def inScratch (fs : List Nat) (a : Nat) : Bool :=
  decide (apertureBase ≤ a) && decide (a < 0x020020000000) && fs.contains ((a - apertureBase) / 0x200000)

/-- The image of a partition as it stands (R279). -/
def State.image (s : State) (p : Nat) : SaveImage :=
  let fs := s.facetsOf p
  let es := engineList (s.prt p).mask
  let fi := fun (a : Nat) => fs.contains (a / 262144)
  let ei := fun (a : Nat) => es.contains (a / 2097152)
  { facets := s.facets.filter (fun x => fs.contains x.1)
    groups := s.groups.filter (fun x => (s.partGroups p).contains x.1)
    regs := s.regs.filter (fun x => savedKey fs es x.1)
    mem := s.mem.filter (fun x => inScratch fs x.1)
    imem := s.imem.filter (fun x => fi x.1)
    sram := s.sram.filter (fun x => ei x.1)
    lost := s.lost.filter (fun x => fs.contains x.1 || fs.contains (x.1 - 256) && decide (256 ≤ x.1) || es.contains (x.1 - 512) && decide (512 ≤ x.1))
    ucMem := s.ucMem.filter (inScratch fs)
    ucImem := s.ucImem.filter fi
    ucSram := s.ucSram.filter ei
    ecMem := s.ecMem.filter (inScratch fs)
    ecImem := s.ecImem.filter fi
    ecSram := s.ecSram.filter ei
    taken := s.taken.filter (fun x => es.contains x.1)
    past := s.past.filter (fun x => es.contains x.1)
    ops := s.ops.filter (fun o => s.issuerOf p o.who && s.whoFrozen o.who)
    xfers := s.xfers.filter (fun o => s.issuerOf p o.who && s.whoFrozen o.who)
    seams := (s.seams.map (fun x => (x.1, x.2.filter (fun y => fs.contains y.src)))).filter (fun x => !x.2.isEmpty)
    unwaited := s.unwaited.filter (fun u => fs.contains u.facet) }

/-- The image is written. -/
def State.saveDone (s : State) (p : Nat) : State :=
  if s.pstate p ≠ 3 then s else
  let im := s.image p
  have s : State := { s with
    ops := s.ops.filter (fun o => !(s.issuerOf p o.who && s.whoFrozen o.who))
    xfers := s.xfers.filter (fun o => !(s.issuerOf p o.who && s.whoFrozen o.who))
    seams := (s.seams.map (fun x => (x.1, x.2.filter (fun y => !(s.facetsOf p).contains y.src)))).filter (fun x => !x.2.isEmpty)
    unwaited := s.unwaited.filter (fun u => !(s.facetsOf p).contains u.facet) }
  have s : State := (s.modPrt p (fun x => { x with image := some im })).sf R.partStat_STATE p 4
  have s : State := (s.bump 0x801A 1).tell p "saved" 0
  if (s.prt p).busy = 3 then s.partEnd p 3 0 0 else s

def execSaveDone (p : Nat) (s : State) : Host.Outcome State Fault Refusal := .next (s.saveDone p)

/-- Quiescence has not completed within 0x6110:01 µs of the freeze on some package, of which this one may be the only one: the lead
sends THAW (R281). -/
def State.quiescenceTimeout (s : State) (p : Nat) : State :=
  if (s.prt p).busy ≠ 3 ∨ s.pstate p ≠ 2 ∨ ((s.prt p).quiesced ∧ s.leadOf p = 0xFFFF) then s
  else
    have s : State := s.until (((s.rail p).frozenAt.getD s.time) + s.dnum 0x6110 1 * 1000)
    ((s.bump 0x801A 2).partEnd p 3 3 pcTimeout).tell p "thaw" 0

def execQuiescenceTimeout (p : Nat) (s : State) : Host.Outcome State Fault Refusal := .next (s.quiescenceTimeout p)

/-- Whether a page still holds an access. -/
def State.stillHeld (s : State) (h : Hold) : Bool := !(s.heldPages (some h.p) (s.fga (tieredBase + h.va)) 1 h.write).isEmpty

/-- Accesses abandoned at the freeze are held again, from now on, and those whose page has come go on. -/
def State.holdAgain (s : State) (hs : List Hold) : State :=
  have s : State := { s with holds := s.holds ++ (hs.filter (fun h => s.stillHeld h)).map (fun h => { h with at_ := s.time }) }
  ((hs.map (fun h => h.who)).eraseDups).foldl (fun (t : State) w => t.unhold w t.time) s

/-- The groups go on (R280): residual work continues, and the time frozen counts as P (R282). -/
def State.unfreeze (s : State) (p : Nat) : State :=
  let hs := (s.prt p).aside
  have s : State := s.modPrt p (fun x => { x with frozen := false, quiesced := false, aside := [], image := none })
  have s : State := s.modRail p (fun r => { r with
    frozenAt := none, frozenNs := r.frozenNs + (r.frozenAt.map (fun t => s.time - t)).getD 0 })
  have s : State := s.holdAgain hs
  (s.partGroups p).foldl (fun (t : State) g => t.settle g) ((s.sf R.partStat_STATE p 1).pump)

/-- THAW (R281). -/
def State.thawMessage (s : State) (p : Nat) : State :=
  if s.pstate p ≠ 2 ∨ (s.prt p).busy = 3 then s else s.unfreeze p

def execThawMessage (p : Nat) (s : State) : Host.Outcome State Fault Refusal := .next (s.thawMessage p)

/-! ### Resumption (R280, R281) -/

def State.partResume (s : State) (r : Requester) (p : Nat) : State :=
  s.partGate r p 4 fun s =>
    if (s.prt p).busy ≠ 0 then (s, 2, pcBusy)
    else if !s.commands p then (s, 2, pcNotLead)
    else if s.pstate p ≠ 4 then (s, 2, pcState)
    else if s.occupied p (s.facetsOf p) (engineList (s.prt p).mask) then (s, 2, pcOccupied)
    else if s.asleep then ((s.modPrt p (fun x => { x with busy := 4 })).park (.resume r p), 1, 0)
    else (((s.modPrt p (fun x => { x with busy := 4 })).sf R.partStat_STATE p 5).tell p "resume" 0, 1, 0)

def execPartResume (r : Requester) (p : Nat) (s : State) : Host.Outcome State Fault Refusal := .next (s.partResume r p)

/-- Put saved entries back into a sparse table. -/
def putAll {α : Type} [DecidableEq α] (d : Nat → α) (m : List (Nat × α)) (l : List (Nat × α)) : List (Nat × α) :=
  l.foldl (fun m x => Sparse.put d m x.1 x.2) m

/-- Restore an image into the rectangle and the share; their Arc tables are to be loaded again (R112, R279). -/
def State.restore (s : State) (p : Nat) (im : SaveImage) : State :=
  let fs := s.facetsOf p
  let es := engineList (s.prt p).mask
  have s : State := s.resetUnits fs es
  let mine := fun (k : Nat) => fs.contains k || (decide (256 ≤ k) && fs.contains (k - 256)) || (decide (512 ≤ k) && es.contains (k - 512))
  have s : State := { s with lost := putAll (fun _ => 0) s.lost (im.lost.filter (fun x => mine x.1)) }
  have s : State := { s with
    facets := putAll (fun _ => Facet.blank) s.facets im.facets
    groups := putAll (fun _ => ⟨0, none⟩) s.groups im.groups
    seams := putAll (fun _ => []) s.seams (im.seams.map (fun x => (x.1, x.2 ++ s.seam x.1)))
    unwaited := s.unwaited ++ im.unwaited
    regs := putAll regDefault (Sparse.drop (savedKey fs es) s.regs) im.regs
    mem := putAll s.memD s.mem im.mem
    imem := putAll s.imemD s.imem im.imem
    sram := putAll s.sramD s.sram im.sram
    ucMem := s.ucMem ++ im.ucMem
    ucImem := s.ucImem ++ im.ucImem
    ucSram := s.ucSram ++ im.ucSram
    ecMem := s.ecMem ++ im.ecMem
    ecImem := s.ecImem ++ im.ecImem
    ecSram := s.ecSram ++ im.ecSram
    taken := putAll (fun _ => []) s.taken im.taken
    past := putAll (fun _ => []) s.past im.past
    ops := s.ops ++ im.ops
    xfers := s.xfers ++ im.xfers }
  (fs ++ es.map (fun e => 256 + e)).foldl (fun (t : State) u => t.setArc u false false) s

/-- The restore ends on this package, or meets an uncorrectable error in the image. -/
def State.restoreDone (s : State) (p : Nat) (ok : Bool) : State :=
  match (s.prt p).image with
  | none => s
  | some im =>
    if s.pstate p ≠ 5 ∧ (s.pstate p ≠ 4 ∨ s.commands p) then s
    else if ok then
      have s : State := (s.restore p im).modPrt p (fun x => { x with image := none })
      (s.sf R.partStat_STATE p 5).tell p "restored" 0
    else
      let b := (s.prt p).busy
      have s : State := (((s.bump 0x801A 3).modPrt p (fun x => { x with busy := 0 })).partReset p true).tell p "restore failed" 0
      if b = 4 then s.partEnd p 4 3 pcImage else s

def execRestoreDone (p : Nat) (ok : Bool) (s : State) : Host.Outcome State Fault Refusal := .next (s.restoreDone p ok)

/-- GO: at the lead it also goes out to the group (R280). -/
def State.goMessage (s : State) (p : Nat) : State :=
  if s.pstate p ≠ 5 ∨ (s.prt p).image.isSome then s else
  let b := (s.prt p).busy
  have s : State := if s.commands p then s.tell p "go" 0 else s
  have s : State := s.unfreeze p
  if b = 4 then s.partEnd p 4 0 0 else s

def execGoMessage (p : Nat) (s : State) : Host.Outcome State Fault Refusal := .next (s.goMessage p)

/-! ### Halts (R273) -/

/-- The Barista takes up the oldest halt it has not: HALT, HALTFCT of the first, an error-log entry, the report to the lead. -/
def State.partitionHalt (s : State) (p facet : Nat) : State :=
  if (s.prt p).haltDue.head? ≠ some facet ∨ s.pstate p ≠ 1 then s else
  have s : State := if s.gf R.partStat_HALT p = 0 then (s.sf R.partStat_HALT p 1).sf R.partStat_HALTFCT p facet else s
  have s : State := (s.modPrt p (fun x => { x with haltDue := x.haltDue.tail })).report (source 8 0xA) (unstatedCode 8) 1 (some p) facet
  have s : State := (s.bump 0x801A 4).tell p "halt" facet
  if s.isLead p then s.modRail p (fun r => { r with halted := some (r.halted.getD s.time) }) else s

def execPartitionHalt (p facet : Nat) (s : State) : Host.Outcome State Fault Refusal := .next (s.partitionHalt p facet)

/-! ### The access map (R265) -/

def amapCard (off : Nat) : Option Card :=
  if off = 0 then some .partAmapLo else if off = 4 then some .partAmapHi else if off = 8 then some .partAmapCtl else none

/-- Whether the enabled entry `n` of a partition meets the conditions of R265. -/
def State.amapOk (s : State) (p n : Nat) : Bool :=
  match s.amap p n with
  | none => true
  | some (lo, hi, _, _) =>
    s.own (s.pair .partAmapLo .partAmapHi (p * 8 + n)) && lo % 0x200000 == 0 &&
    (decide (hi ≤ s.carafeSize) || (decide (urnBase ≤ lo) && decide (hi ≤ apertureBase))) &&
    s.parts.all (fun x => x.2.frames.all (fun f => decide ((f + 1) * 0x200000 ≤ lo) || decide (hi ≤ f * 0x200000))) &&
    (List.range 128).all (fun i => i / 8 == p ||
      (match s.amap (i / 8) (i % 8) with
       | some a => decide (a.2.1 ≤ lo) || decide (hi ≤ a.1)
       | none => true))

/-- A write of an access-map register (`put` merges it): an entry that would break the conditions stays as it is. -/
def State.amapWrite (s : State) (r : Requester) (p n : Nat) (c : Card) (put : State → State) : State :=
  s.partWrite r p c (p * 8 + n) fun s =>
    have t : State := put s
    if t.amapOk p n then t else s.report (source 8 0xA) pcBadArg 1 (some p) (t.pair .partAmapLo .partAmapHi (p * 8 + n))

def execAmapWrite (r : Requester) (p n off be : Nat) (val : Word) (s : State) : Host.Outcome State Fault Refusal :=
  .next (match amapCard off with
    | some c => s.write4 r c (p * 8 + n) be val (fun c put t => t.amapWrite r p n c put)
    | none => s)

end Sys2Proof.Machine
end

