-- ==== Sys2Proof/Machine/Faults.lean ====
section
/-! DEFINITION. Fatal errors, the fatal-state dump, teardown, replay and spare adoption, the error log's controls
(spec/14 R311, R315 to R317, R322 to R339). -/

namespace Sys2Proof.Machine

/-! ### The dump (R338, R339) -/

/-- Bytes of a firmware slot (spec/18 R411). -/
def State.imageAt (s : State) (slot off n : Nat) : List Byte :=
  Sparse.gets zeroByte s.boot.nor (slot * 0x4000000 + 0x100000 + off) n

/-- Registers that the dump leaves out, since a key or a secret may stand in them. -/
def dumpSecret (c : Card) : Bool :=
  match c with
  | .fmfEntData | .dbgBuf | .dbgNonce | .dictReq | .dictRsp => true
  | _ => false

/-- A section table entry. -/
def sectionEntry (kind off : Nat) (bs : List Byte) : List Byte :=
  natLE 4 kind ++ zeros 4 ++ natLE 8 off ++ natLE 8 bs.length ++ natLE 4 (crc32c bs) ++ zeros 4

/-- Section 1: the error log with ERRLOG_PTR. Section 2: registers as pairs of offset and value. -/
def State.dumpLog (s : State) : List Byte :=
  (List.range 1024).flatMap (fun i => (s.logAt i).bytes) ++ natLE 4 (s.rd .errlogPtr 0).toNat

def State.dumpRegs (s : State) : List Byte :=
  (s.regs.filter (fun x => !dumpSecret (cardOf (x.1 / 1048576)))).flatMap (fun x =>
    natLE 4 (s.cardAddr (cardOf (x.1 / 1048576)) (x.1 % 1048576)) ++ natLE 4 x.2.toNat)

/-- The header with its section table. -/
def State.dumpHeader (s : State) (trigger : Nat) (secs : List (Nat × List Byte)) : List Byte :=
  let place := (secs.foldl (fun (acc : Nat × List Byte) x => (acc.1 + x.2.length, acc.2 ++ sectionEntry x.1 acc.1 x.2)) (4096, [])).2
  padTo 4096 (padTo 128 (natLE 4 0x44554D50 ++ natLE 2 1 ++ natLE 2 secs.length ++ natLE 4 s.identPart.toNat ++
    natLE 2 (if s.idValid then s.pkg else 0xFFFF) ++ natLE 2 s.epoch ++ natLE 8 s.time ++ natLE 1 trigger ++ zeros 7 ++
    (if trigger = 3 then zeros 32 else s.fatalEntry.bytes) ++ s.imageAt (s.gf R.bootStat_SLOT 0) 8 16 ++
    natLE 1 (s.gf R.bootStat_SLOT 0)) ++ place)

def closingAt : Nat := dumpBase + dumpSize - 64

/-- The newest dump changed: the value tag of 0x8024:01 advances (spec/17 R397). -/
def State.dumpChanged (s : State) : State :=
  let k := dkey 0x8024 1
  { s with tags := Sparse.put (fun _ => 0) s.tags k ((Sparse.get (fun _ => 0) s.tags k + 1) % 4294967296) }

/-- Write a dump: the header, its sections, the closing record. -/
def State.writeDump (s : State) (trigger : Nat) : State :=
  let secs := [(1, s.dumpLog), (2, s.dumpRegs)]
  let h := s.dumpHeader trigger secs
  have s : State := s.zeroMem dumpBase dumpSize
  have s : State := (s.writeMem dumpBase (h ++ secs.flatMap Prod.snd)).1
  have s : State := (s.writeMem closingAt (natLE 4 0x444F4E45 ++ natLE 4 (crc32c h))).1
  State.dumpChanged { s with dumpCopied := false, dumping := none }

/-- Whether the Urn holds a valid dump. -/
def State.dumpValid (s : State) : Bool :=
  leNat (s.readMem closingAt 4) == 0x444F4E45 && leNat (s.readMem (closingAt + 4) 4) == crc32c (s.readMem dumpBase 4096)

/-- The dump of a fatal error (1) or of the watchdog (2). -/
def State.fatalDump (s : State) (trigger : Nat) : State :=
  if s.gf R.fltStat_STATE 0 ≠ 4 ∨ (trigger ≠ 1 ∧ trigger ≠ 2) then s
  else ((s.writeDump trigger).report (source 0xA 0) 0x02 0 none trigger).setFlt 5

def execFatalDump (trigger : Nat) (s : State) : Host.Outcome State Fault Refusal := .next (s.fatalDump trigger)

/-- Show which Hopper slots hold a valid dump. -/
def State.showDumps (s : State) : State := s.setN 0x8024 3 ((s.dumps.map (fun x => 2 ^ x.1)).foldl (· + ·) 0)

/-- Copy the dump into the next Hopper slot while the tier is online: the copy begins, and the slot's old dump with it ends; at the
next such command its closing record is written and the slot is valid. -/
def State.dumpCopy (s : State) : State :=
  if s.hopState ≠ 2 ∨ s.dumpCopied ∨ !s.dumpValid then s else
  match s.dumping with
  | none =>
    let slot := match s.dumps.getLast? with
      | some x => (x.1 + 1) % 8
      | none => 0
    State.showDumps { s with dumps := s.dumps.filter (fun x => x.1 != slot), dumping := some slot }
  | some slot =>
    State.showDumps { s with
      dumps := s.dumps.filter (fun x => x.1 != slot) ++ [(slot, Sparse.slice s.mem dumpBase dumpSize)], dumpCopied := true, dumping := none }

def execDumpCopy (s : State) : Host.Outcome State Fault Refusal := .next s.dumpCopy

/-- What the dump copy area holds of 4 KiB unit `u` of a slot: the dump under its own key, the unit's number as tweak (spec/16
R365). -/
def State.dumpUnit (s : State) (slot u : Nat) : List Byte :=
  match s.dumps.find? (fun x => x.1 == slot) with
  | some x => xtsEnc dumpKey (slot * (dumpSize / 4096) + u) (Sparse.gets zeroByte x.2 (4096 * u) 4096)
  | none => []

/-- Commands of 0x8024:02: write a dump, invalidate the Urn's. -/
def State.dumpWrite (s : State) : State := ((s.writeDump 3).report (source 0xA 0) 0x02 0 none 3).setN 0x8024 2 0

def State.dumpInvalidate (s : State) : State := ((s.zeroMem closingAt 64).dumpChanged).setN 0x8024 2 0

/-! ### Teardown (R326 to R328) -/

/-- Show that partitions are torn. -/
def State.setTorn (s : State) (p : Nat) (on : Bool) : State :=
  let m := s.gf R.fltStat_TORN 0
  s.sf R.fltStat_TORN 0 (if on then m ||| 2 ^ p else m &&& (65535 - 2 ^ p))

/-- FLT_STAT.STATE as torn partitions leave it, outside the fatal states. -/
def State.restFlt (s : State) (v : Nat) : State :=
  if s.fatalNow then s else s.setFlt (if s.gf R.fltStat_TORN 0 = 0 then 0 else v)

/-- A scratchpad, or an engine's SRAM, loses its contents: they are undefined. -/
def State.loseScratch (s : State) (f : Nat) : State := s.fresh.2.clearScratch f (s.fresh.1 + 1)
def State.loseSram (s : State) (e : Nat) : State := s.fresh.2.clearSram e (s.fresh.1 + 1)

/-- Stop a Facet at once, its pipelines run to their end. -/
def State.stopNow (s : State) (f : Nat) : State :=
  State.flush f drainFuel (if s.gf R.fctStat_STATE f = fsRunning ∨ s.gf R.fctStat_STATE f = fsStalled then s.stopFacet f else s)

/-- Tear down a partition (R328): what it keeps is what stands here untouched. -/
def State.teardownPart (s : State) (p : Nat) : State :=
  if s.pstate p = 0 then s else
  let fs := s.facetsOf p
  let es := engineList (s.prt p).mask
  have s : State := s.modRail p (fun r => { r with running := false, done := false, waiting := false, halted := none, replay := [], localReplay := false })
  have s : State := fs.foldl (fun (t : State) f => ((t.stopNow f).clearCounters f).loseScratch f) s
  have s : State := es.foldl (fun (t : State) e => ((((t.dripHalt e true).setTaken e []).setPast e []).sf R.drpStat_STATE e 0).loseSram e) s
  have s : State := s.copyHalt p false
  have s : State := match (s.prt p).busy with
    | 3 => s.partEnd p 3 3 pcState
    | 4 => s.partEnd p 4 3 pcState
    | _ => s
  have s : State := if 2 ≤ s.pstate p ∧ s.pstate p ≤ 5 then s.sf R.partStat_STATE p 1 else s
  have s : State := s.modPrt p (fun x => { x with image := none, frozen := false, quiesced := false, aside := [], haltDue := [], told := [] })
  (s.sf R.partStat_HALT p 0).setTorn p true

/-- The rotated key (R326). -/
def rotated (secret key : Nat) : Nat :=
  let k := siphash secret (natLE 8 key)
  if k = 0 then 1 else k

/-- Rotate the keys of the valid region entries (KEY in word 2) and grants (word 3). -/
def State.rotateKeys (s : State) (secret : Nat) : State :=
  have s : State := { s with tables := s.tables.map (fun x =>
    if x.1 < 4096 ∧ bit x.2.w0 63 then (x.1, { x.2 with w2 := rotated secret x.2.w2 })
    else if 4096 ≤ x.1 ∧ x.1 < 8192 ∧ bit x.2.w0 63 then (x.1, { x.2 with w3 := rotated secret x.2.w3 })
    else x) }
  let regions := s.tables.filter (fun x => decide (x.1 < 4096) && bit x.2.w0 63)
  let clash := (regions.filter (fun x => regions.any (fun y => decide (y.1 < x.1) && y.2.w2 == x.2.w2))).map Prod.fst
  clash.foldl (fun (t : State) i =>
    (t.setEnt i { t.ent i with w0 := (t.ent i).w0 - 2 ^ 63 }).report (source 8 4) (unstatedCode 5) 1 none i) s

def octNum (v : List Byte) (off n : Nat) : Nat := leNat ((v.drop off).take n)

/-- The retained ranges of a partition whose group has lost a package end (spec/06 R171): they held pages there. They end with
the teardown, before the adoption, while the partition takes no step (DESIGN CHOICE, unsafe; log entry 54). -/
def State.endRetained (s : State) (p : Nat) : State :=
  (s.ranges.filter (fun r => r.p == p && !r.published && !r.ended)).foldl (fun (t : State) r => t.endRange r.id) s

/-- TEARDOWN (0x8020:01). -/
def State.teardown (s : State) (v : List Byte) : State :=
  let e := octNum v 2 2
  if v.length ≠ 24 ∨ !epochNewer e s.epoch ∨ octNum v 22 2 ≠ 0 then s.setN 0x8020 1 2 else
  let mask := octNum v 20 2
  have s : State := s.setN 0x4000 2 e
  have s : State := ((List.range 16).filter (fun p => bit mask p)).foldl (fun (t : State) p => (t.teardownPart p).endRetained p) s
  have s : State := s.restFlt 1
  have s : State := s.rotateKeys (octNum v 4 16)
  have s : State := { s with tearAt := some s.time, tearMask := mask }
  have s : State := if (List.range 8).any (fun j => s.dnum 0x8021 (j + 1) == octNum v 0 2) then s.setN 0x8021 0x0A 1 else s
  ((s.bump 0x8025 3).shadowConfig).setN 0x8020 1 0

/-! ### Replay (R329 to R331) -/

/-- Whether `n` bytes at an address lie in memory that a load job of a generation wrote. -/
def State.inLoaded (s : State) (p : Nat) (g : Gen) (fga n : Nat) : Bool :=
  let off := fgaOff fga
  s.own fga &&
  (if tieredBase ≤ off ∧ off < kvBase then
     (List.range (n / 4096 + 2)).all (fun i =>
       let a := off - tieredBase + min (i * 4096) (n - 1)
       (s.leafAt p a).any (fun l => g.pages.contains l.va))
   else g.ranges.any (fun r => decide (r.1 ≤ off) && decide (off + n ≤ r.1 + r.2)))

/-- An entry of the recovery image: program address, bundles, entry. -/
def State.pimg (s : State) (p i : Nat) : Nat × Nat × Nat :=
  let bs := (s.readRow (some p) (s.pair .fltPimgLo .fltPimgHi p + 16 * i) 16).2.1
  (octNum bs 0 8, bits (octNum bs 8 4) 12 0, bits (octNum bs 8 4) 28 16)

/-- Whether the recovery image and its programs lie where R329 wants them. -/
def State.pimgOk (s : State) (p : Nat) : Bool :=
  let fs := s.facetsOf p
  match s.genOf p (s.activeGen p) with
  | none => false
  | some g =>
    s.gf R.fltPimgN_N p == fs.length && s.inLoaded p g (s.pair .fltPimgLo .fltPimgHi p) (16 * fs.length) &&
    (List.range fs.length).all (fun i =>
      let e := s.pimg p i
      e.2.1 != 0 && s.inLoaded p g e.1 (e.2.1 * 32))

/-- The steps a replay repeats: those after the least sealed one; the running one alone where nothing is shadowed. -/
def State.replaySteps (s : State) (p : Nat) : List StepRec :=
  let h := (s.rail p).hist
  if s.shadowsOn then h.filter (fun x => decide (x.step > (s.rail p).sealedStep)) else (h.reverse.take 1).reverse

/-- Every live ticket of a partition retires with FAULT. -/
def State.faultTickets (s : State) (p : Nat) : State :=
  ((s.liveSlots p).filter (fun k => (s.ticket k).state != 4)).foldl (fun (t : State) k => t.retire k 0x28) s

/-- RESUME for one partition at its lead: false when its image is not as it must be. -/
def State.resumePart (s : State) (p : Nat) : State × Bool :=
  if !s.isLead p ∨ !bit (s.gf R.fltStat_TORN 0) p then (s, false)
  else if !s.pimgOk p then (s.faultTickets p, false)
  else ((s.modRail p (fun r => { r with replay := s.replaySteps p })).tell p "replay-start" (s.rail p).sealedStep, true)

/-- RESUME (0x8020:03). -/
def State.faultResume (s : State) (mask : Nat) : State :=
  let r := ((List.range 16).filter (fun p => bit mask p)).foldl (fun (acc : State × Bool) p =>
    let q := acc.1.resumePart p
    (q.1, acc.2 && q.2)) (s, true)
  have s : State := r.1.restFlt 3
  -- the RESUME that follows a TEARDOWN tells of an adoption (spec/14 R324, R329)
  have s : State := { s with adoptionSeen := s.adoptionSeen || (s.tearAt.isSome && mask != 0) }
  s.setN 0x8020 3 (if !r.2 then 2 else if s.gf R.fltStat_TORN 0 = 0 then 0 else 1)

/-- Load a Facet from its entry of the recovery image and start it: IMEM_LOAD's checks of the source (spec/02 R65), and its copy.
False where the Facet cannot be loaded. -/
def State.reloadFacet (s : State) (p f i : Nat) : State × Bool :=
  let e := s.pimg p i
  let ok := decide (e.2.1 ≠ 0) && decide (e.1 % 32 = 0) && s.own e.1 && s.allowed (some p) (fgaOff e.1) (e.2.1 * 32) false
  let r := s.copyBundles f 0 e.2.1 e.1 ok
  if r.2 then (r.1.startFacet f e.2.2 false, true) else (r.1, false)

/-- Load and start the Facets of a rectangle. -/
def State.reloadFacets (s : State) (p : Nat) : State × Bool :=
  ((s.facetsOf p).zipIdx).foldl (fun (a : State × Bool) x =>
    let r := a.1.reloadFacet p x.1 x.2
    (r.1, a.2 && r.2)) (s, true)

/-- Whether a page of the recovery image or of a program it names holds its readers: the load waits for it (R65, R178). -/
def State.imageHeld (s : State) (p : Nat) : Bool :=
  let n := (s.facetsOf p).length
  !(s.heldPages (some p) (s.pair .fltPimgLo .fltPimgHi p) (16 * n) false).isEmpty ||
  (List.range n).any (fun i => !(s.heldPages (some p) (s.pimg p i).1 ((s.pimg p i).2.1 * 32) false).isEmpty)

/-- A ring is zeroed and its head set to slot 0, SEQ 1. -/
def State.zeroRing (s : State) (r : Nat) : State :=
  let n := 64 * 2 ^ s.gf (ringSizeF r) (ringIdx r)
  have s : State := if s.ringBase r = 0 then s else s.zeroMem (fgaOff (s.ringBase r)) n
  (s.sf (ringSlot r) (ringIdx r) 0).sf (ringSeq r) (ringIdx r) 1

/-- Whether a unit of a replaying partition is not on its tables; at a lead those with a step to be replayed are replaying
(DEDUCED, unsafe; log entry 104). -/
def State.tablesDue (s : State) : Bool :=
  (List.range 16).any (fun q => bit (s.gf R.fltStat_TORN 0) q && (!s.isLead q || !(s.rail q).replay.isEmpty) &&
    (s.unitsIn q).any (fun u => s.gf (boundsFld u) (unitIdx u) == 1))

/-- The replay-start message (R329, step 3; R117): rings, LASTSEQ, Facets; the lead then sends its first header. It waits for the
end of copies that a teardown let run, and for pages that hold the load. -/
def State.replayPart (s : State) (p g : Nat) : State :=
  let es := engineList (s.prt p).mask
  if (s.adopted ∧ s.tablesDue) ∨ s.gf R.fmfCqStat_STATE p ≠ 0 ∨ s.imageHeld p then s else
  -- a package that cannot load its Facets runs no step (R331; log entry 110)
  if !s.pimgOk p then s.fatal (source 8 3) (unstatedCode 14) p else
  have s : State := es.foldl (fun (t : State) e =>
    have t : State := t.zeroRing e
    if t.drpRingOk e then t.sf R.drpStat_STATE e 1 else t) s
  have s : State := s.zeroRing (32 + p)
  have s : State := if s.cqRingOk p then s.sf R.fmfCqStat_STATE p 1 else s
  have s : State := match (s.rail p).seqs.find? (fun x => x.1 == g + 1) with
    | some x => x.2.foldl (fun (t : State) y => t.setEnt y.1 { t.ent y.1 with w3 := y.2 }) s
    | none => s
  let l := s.reloadFacets p
  if !l.2 then l.1.fatal (source 8 3) (unstatedCode 14) p else
  have s : State := (l.1.setGroup (2 * p) ⟨0, none⟩).setGroup (2 * p + 1) ⟨0, none⟩
  if !s.isLead p then (s.setTorn p false).restFlt 1
  else match (s.rail p).replay with
    | _ :: _ => s.sendReplay p
    | [] => s.replayOver p

/-- The message at a package of the group. One that the lead's local teardown has not reached yet, for which the table has no row of
its own, tears the partition down first (R331; log entry 110). -/
def State.replayStart (s : State) (p g : Nat) : State :=
  if s.pstate p ≠ 1 ∨ s.fatalNow then s
  else if bit (s.gf R.fltStat_TORN 0) p then s.replayPart p g
  else if s.isLead p then s
  else ((s.teardownPart p).restFlt 1).replayPart p g

def execReplayStart (p g : Nat) (s : State) : Host.Outcome State Fault Refusal := .next (s.replayStart p g)

/-- The holdoff of a halt ends without a TEARDOWN (R331): a local replay; a halt in one retires the halting step's tickets. A lead
that has met no halt of its own has the report from another package, whose coming has no row of its own (log entry 110). -/
def State.replayHoldoff (s : State) (p : Nat) : State :=
  let r := s.rail p
  if !s.isLead p ∨ (r.halted.isNone ∧ !r.running) ∨ s.pstate p ≠ 1 ∨ bit (s.gf R.fltStat_TORN 0) p && r.replay.isEmpty then s else
  have s : State := match r.halted with
    | some t0 => s.until (t0 + s.dnum 0x8020 5 * 1000)
    | none => s
  let again := r.localReplay
  let hit := if again then r.now.entries.map (fun e => hSlot e.handle) else []
  have s : State := s.teardownPart p
  have s : State := (hit.filter (fun k => (s.ticket k).state == 2 || (s.ticket k).state == 3)).foldl (fun (t : State) k => t.retire k 0x28) s
  have s : State := s.modRail p (fun x => { x with localReplay := true, replay := if again then [] else s.replaySteps p })
  have s : State := if again then s else s.bump 0x8025 6
  have s : State := (s.restFlt 3).tell p "teardown" 0
  -- without its recovery image the partition stays torn, as after a RESUME that fails (R329)
  if s.pimgOk p then s.tell p "replay-start" (s.rail p).sealedStep
  else (s.faultTickets p).modRail p (fun x => { x with localReplay := false, replay := [] })

def execReplayHoldoffExpiry (p : Nat) (s : State) : Host.Outcome State Fault Refusal := .next (s.replayHoldoff p)

/-! ### Shadows (R321 to R323, R335) -/

/-- The last write of a finished step's dirty units is acknowledged: the step is sealed, in all eight seal records, and the lead is told. -/
def State.stepSeal (s : State) (p : Nat) : State :=
  let r := s.rail p
  let fin := if r.running && !r.done then r.step - 1 else r.step
  if s.pstate p = 0 ∨ !s.shadowsOn ∨ fin ≤ r.sealedStep then s
  else (((s.modRail p (fun x => { x with sealedStep := fin })).setN 0x8022 (p + 1) fin).sealSlots).tell p "sealed" fin

def execStepSeal (p : Nat) (s : State) : Host.Outcome State Fault Refusal := .next (s.stepSeal p)

/-- The configuration record goes out to the peers. -/
def execConfigRecordRewrite (s : State) : Host.Outcome State Fault Refusal := .next s.shadowConfig

/-- The stripe for a replaced peer is rewritten and sealed again (R335). -/
def State.reprotect (s : State) (peer : Nat) : State :=
  if s.dnum 0x8021 0x0A = 1 ∧ peer < 8 then ((s.rewriteStripe peer).setN 0x8021 0x0A 0).tell 0 "re-protected" peer else s

def execReprotection (peer : Nat) (s : State) : Host.Outcome State Fault Refusal := .next (s.reprotect peer)

/-! ### Adoption (R332 to R336) -/

/-- Whether the package is a hot spare, as far as it can tell itself. -/
def State.hotSpare (s : State) : Bool :=
  !s.idValid && (List.range 16).all (fun p => s.pstate p == 0) && s.tierOn 1 &&
  (List.range (256 + s.engineCount)).all (fun u => !s.unitExists u || (s.arcValid u && !s.arcTesting u))

/-- The refusal of an ADOPT, or 0. -/
def State.adoptCode (s : State) (found : AdoptView) : Nat :=
  if !s.hotSpare then 4
  else if !found.readable ∨ !found.same then 5
  else if found.part ≠ s.identPart.toNat then 2
  else if found.gens.any (fun g => !s.keys.any (fun k => k.kind == 0 && k.mid == g.1 && k.gen == g.2)) then 3
  else 0

/-- ADOPT (0x8020:02): the claim is made and the rebuild begins. -/
def State.adopt (s : State) (v : List Byte) (found : AdoptView) : State :=
  let c := if v.length ≠ 40 ∨ octNum v 36 4 ≠ 0 then 5 else s.adoptCode found
  if c ≠ 0 then (s.setN 0x8020 2 c).bump 0x8025 5 else
  have s : State := { s with adoption := some ⟨octNum v 0 2, octNum v 2 2, octNum v 4 16, (List.range 8).map (fun j => octNum v (20 + 2 * j) 2)⟩ }
  have s : State := (s.setFlt 2).identity (octNum v 0 2 % 32768 + octNum v 2 2 * 2 ^ 32)
  (s.setN 0x8020 2 1).recap

/-- A partition of the record is formed on its carved frames; it is torn until RESUME. -/
def State.formShadow (s : State) (c : ShadowCarve) : State :=
  let p := c.p
  have s : State := s.setPrt p { Partition.free with
    shape := (s.rd .partShape p).toNat, mask := (s.rd .partDrip p).toNat, tbase := s.gf R.partTickets_TBASE p,
    tcount := s.gf R.partTickets_TCOUNT p, kvPool := c.kvPool, kvCarve := c.kvCarve, tierAll := c.tierAll,
    stepFrame := c.stepFrame, save := c.save }
  have s : State := (s.sf R.partStat_STATE p 1).sf R.partStat_FRAMES p c.save.length
  (s.setPair .partStepLo .partStepHi p (s.fga (c.stepFrame * 0x200000))).setTorn p true

/-- Put a persistent value into both journals (spec/17 R390). -/
def State.journalPut (s : State) (index sub : Nat) (v : DVal) : State :=
  s.modBoot (fun b => { b with journal := b.journal.filter (fun x => x.1 != dkey index sub) ++ [(dkey index sub, v)] })

/-- The rebuild ends (R333): registers, entries, tables with their keys rotated, partitions, memory and stores; tickets that
a lost unit served retire with FAULT (R336); the front addresses are announced. -/
def State.rebuildDone (s : State) (r : ShadowRecord) : State :=
  match s.adoption with
  | none => s
  | some a =>
    have s : State := (r.regs.filter (fun x => shadowedCard (cardOf x.1))).foldl (fun (t : State) x => t.wr (cardOf x.1) x.2.1 x.2.2) s
    have s : State := (r.dict.filter (fun x => (decide (0x6000 ≤ x.1) && decide (x.1 ≤ 0x6FFF)) || (x.1 == 0x8021 && decide (x.2.1 ≤ 8)))).foldl
      (fun (t : State) x =>
        let v : DVal := match t.dval x.1 x.2.1 with
          | .num _ => .num (leNat x.2.2)
          | .oct _ => .oct x.2.2
        (t.setD x.1 x.2.1 v).journalPut x.1 x.2.1 v) s
    have s : State := r.tables.foldl (fun (t : State) e => t.setEnt e.at_ ⟨e.w0, e.w1, e.w2, e.w3⟩) s
    have s : State := s.rotateKeys a.secret
    have s : State := r.carved.foldl (fun (t : State) c => t.formShadow c) s
    have s : State := r.mem.foldl (fun (t : State) x => (t.writeMem x.1 x.2).1) s
    have s : State := { s with
      leaves := r.leaves, kvPages := r.kvPages, radix := r.radix, gens := r.gens, aslots := r.aslots, mosaic := r.mosaic, adoptionSeen := true, adoption := none
      -- published ranges are rebuilt; a retained one is there only for the tickets that map its pages (spec/06 R171)
      ranges := r.ranges.map (fun x => if x.published then x else { x with ended := true }) }
    have s : State := s.reapRanges
    have s : State := r.tickets.foldl (fun (t : State) x => t.setTicket x.1
      { x.2 with mrange := if s.ranges.any (fun y => y.id == x.2.mrange && y.published) then x.2.mrange else 0 }) s
    have s : State := r.rails.foldl (fun (t : State) x => t.modRail x.1 (fun y => { y with
      admseq := x.2.1, hist := x.2.2, step := (x.2.2.getLastD ⟨0, 0, 0, [], [], [], 0⟩).step, sealedStep := r.sealedSteps.getD x.1 0 })) s
    have s : State := (List.range 16).foldl (fun (t : State) p => t.setN 0x8022 (p + 1) (r.sealedSteps.getD p 0)) s
    have s : State := r.lostParts.foldl (fun (t : State) p => t.faultTickets p) s
    have s : State := (r.lostSlots.filter (fun k => (s.ticket k).state != 0 && (s.ticket k).state != 4)).foldl (fun (t : State) k => t.retire k 0x28) s
    have s : State := ((List.range 2).filter (fun n => s.frontAddr n != 0)).foldl
      (fun (t : State) n => t.emit (.link (32 + n) "announcement" (t.frontAddr n))) s
    have s : State := (List.range 16).foldl (fun (t : State) p => t.showGens p) s.showRail
    (((s.setN 0x8020 2 0).bump 0x8025 4).restFlt 1).recap

def execAdoptionRebuildDone (rec : ShadowRecord) (s : State) : Host.Outcome State Fault Refusal := .next (s.rebuildDone rec)

/-- No spare adopts in time (R336): this lead retires the torn partitions' tickets with FAULT. -/
def State.adoptionExpiry (s : State) : State :=
  match s.tearAt with
  | none => s
  | some t0 =>
    have s : State := s.until (t0 + s.dnum 0x8020 6 * 1000000)
    ((List.range 16).filter (fun p => bit (s.gf R.fltStat_TORN 0) p && s.isLead p && (s.rail p).replay.isEmpty)).foldl
      (fun (t : State) p => t.faultTickets p) s

def execAdoptionLimitExpiry (s : State) : Host.Outcome State Fault Refusal := .next s.adoptionExpiry

/-! ### The error log's controls (R315 to R317) -/

/-- A write of ERRLOG_PTR.RD: function 0 consumes; a virtual function moves its own copy. -/
def State.errlogRd (s : State) (r : Requester) (be : Nat) (val : Word) : State :=
  let fn := reqFn r
  s.gate r .errlogPtr fn fun s =>
    let v := (s.mergeReg .errlogPtr fn be val).gf R.errlogPtr_RD fn
    if (s.gf R.errlogPtr_WR 0 + 65536 - v) % 65536 > 1024 then s else s.sf R.errlogPtr_RD fn v

def execErrlogRdWrite (r : Requester) (be : Nat) (val : Word) (s : State) : Host.Outcome State Fault Refusal := .next (s.errlogRd r be val)

/-- When a source that has spent entries gets the next one back (R315): one for each 1/0x8023:02 of a second. -/
def State.refillAt (s : State) (src : Nat) : Nat := (s.spentSince src).2 + 1000000000 / s.dnum 0x8023 2

/-- One entry of a source's budget comes back (R315). -/
def State.budgetRefill (s : State) (src : Nat) : State :=
  if s.spentOf src = 0 then s else (s.until (s.refillAt src)).setSpent src (s.spentOf src - 1) (s.refillAt src)

def execErrorBudgetRefill (source : Nat) (s : State) : Host.Outcome State Fault Refusal := .next (s.budgetRefill source)

end Sys2Proof.Machine
end

