-- ==== Sys2Proof/Machine/ArcTables.lean ====
section
/-! DEFINITION. The Arc tables: loads after a reset, reloads after an uncorrectable error, self-tests
(spec/04 R113 to R115). -/

namespace Sys2Proof.Machine

/-! ### Loads and reloads (R113, R114) -/

/-- Failed reloads of a unit. -/
def State.arcFailsOf (s : State) (u : Nat) : Nat := Sparse.get (fun _ => 0) s.arcFails u

/-- The tables of a unit are written and match the measured image: the unit is on them from its next operation. -/
def State.arcLoaded (s : State) (u : Nat) : State :=
  have s : State := s.writeTables u true
  State.setArc { s with arcFails := Sparse.put (fun _ => 0) s.arcFails u 0 } u true (s.arcTesting u)

/-- A write of the tables does not match: counted, and after three failed reloads fatal. -/
def State.arcMismatch (s : State) (u : Nat) : State :=
  let n := s.arcFailsOf u + 1
  have s : State := s.writeTables u false
  have s : State := { s with arcFails := Sparse.put (fun _ => 0) s.arcFails u n }
  have s : State := (s.sf (reloadsFld u) (unitIdx u) (min 15 (s.gf (reloadsFld u) (unitIdx u) + 1))).bump 0x8012 3
  if n = 3 then s.fatal (unitSource u) 0x27 u else s

/-- Whether the core writes the unit's tables: they are not valid, and three reloads have not failed. -/
def State.arcPending (s : State) (u : Nat) : Bool :=
  s.unitExists u && !s.arcValid u && decide (s.arcFailsOf u < 3) && !s.fatalNow

/-- The first load after a reset: a unit whose check fails stays on the fallback path and is reloaded. -/
def State.arcTableLoad (s : State) (u : Nat) (ok : Bool) : State :=
  if !s.arcPending u then s else if ok then s.arcLoaded u else s.writeTables u false

def execArcTableLoad (unit : Nat) (ok : Bool) (s : State) : Host.Outcome State Fault Refusal := .next (s.arcTableLoad unit ok)

/-- A reload (R114, step 3). -/
def State.arcTableReload (s : State) (u : Nat) (ok : Bool) : State :=
  if !s.arcPending u then s else if ok then s.arcLoaded u else s.arcMismatch u

def execArcTableReload (unit : Nat) (ok : Bool) (s : State) : Host.Outcome State Fault Refusal := .next (s.arcTableReload unit ok)

/-! ### Self-tests (R115) -/

/-- A write of a unit index to 0x8012:05. A test while one runs is rejected (DESIGN CHOICE, unsafe; log entry 61). -/
def State.arcSelfTest (s : State) (u : Nat) : State :=
  if s.anyTesting then s
  else if u = 0xFFFF then (State.beginTest { s with selfAll := some (0, false) } 0).setN 0x8012 5 1
  else if !s.unitExists u then s.setN 0x8012 5 3
  else (s.beginTest u).setN 0x8012 5 1

/-- A unit's self-test ends; one that fails is handled as an uncorrectable table error. -/
def State.arcTestDone (s : State) (u : Nat) (ok : Bool) : State :=
  if !s.unitExists u ∨ !s.arcTesting u then s else
  have s : State := s.setArc u (s.arcValid u) false
  (if ok then s else s.arcFault u).testOver ok

def execArcSelfTestDone (unit : Nat) (ok : Bool) (s : State) : Host.Outcome State Fault Refusal := .next (s.arcTestDone unit ok)

end Sys2Proof.Machine
end

