-- ==== Sys2Proof/Machine/Power.lean ====
section
/-! DEFINITION. Power and temperature: alerts and warnings, estimates and the limiter, telemetry, the lease, thermal control,
boost, power requests, ageing (spec/15 R340 to R361). -/

namespace Sys2Proof.Machine

/-! ### Reports (R355) -/

/-- SOURCE indices of kind 0xB beside the rail groups: the tray inputs, the package's sensors, the ageing monitors. -/
def srcTray : Nat := source 0xB 6
def srcSensors : Nat := source 0xB 7
def srcAgeing : Nat := source 0xB 8

/-- A board report, of class 0: no operation failed (DESIGN CHOICE, unsafe; log entry 63). -/
def State.board (s : State) (src code detail : Nat) : State := s.report src code 0 none detail

def State.evt (s : State) (n : Nat) : State := s.setBit .pwrEvt 0 n

def State.modPower (s : State) (f : Power → Power) : State := { s with power := f s.power }

/-! ### Domains forced (R350) -/

/-- Hold the level of an input. -/
def State.setRaw (s : State) (i : Nat) (on : Bool) : State :=
  { s with pins := { s.pins with raw := putBits s.pins.raw i i (b2n on) } }

/-- A domain that nothing forces any more stays in its lowest state for the hold. -/
def State.beginHold (s : State) (d : Nat) : State :=
  if s.alertOn d ∨ bit s.power.thermal d then s
  else s.modPower (fun x => { x with holding := x.holding ||| 2 ^ d })

/-- VR_ALERTn_N asserts; STATUS_WORD of the group may show a rail shut down on an output fault. -/
def State.alertAssert (s : State) (n : Nat) (railDown : Bool) : State :=
  if n ≥ 6 ∨ bit s.pins.raw n then s else
  have s : State := ((((s.setRaw n true).evt 0).bump 0x8030 1).board (source 0xB n) 0x01 n).recap
  if railDown then s.fatal (source 0xB n) 0x04 n else s

/-- VR_ALERTn_N deasserts. -/
def State.alertDeassert (s : State) (n : Nat) : State :=
  if n ≥ 6 ∨ !bit s.pins.raw n then s else ((s.setRaw n false).beginHold (railDomain n)).recap

def execVrAlertDeassert (n : Nat) (s : State) : Host.Outcome State Fault Refusal := .next (s.alertDeassert n)

/-- Ask for the steps of a clock ramp, one for each 100 MHz (R353). -/
def State.askRamp (s : State) : State :=
  s.askPower ((s.setpoint - s.setpoint / 3 + 99) / 100) 60

/-- The hold ends; the Lattice clock ramps back step by step. -/
def State.holdExpiry (s : State) (d : Nat) : State :=
  if !bit s.power.holding d then s else
  have s : State := s.modPower (fun x => { x with holding := putBits x.holding d d 0 })
  (if d = 0 ∧ !s.forced 0 then s.askRamp else s).recap

def execForceHoldExpiry (d : Nat) (s : State) : Host.Outcome State Fault Refusal := .next (s.holdExpiry d)

/-! ### Facility warnings (R342, R355) -/

def State.shelfAssert (s : State) : State :=
  if bit s.pins.raw 6 then s else (((s.setRaw 6 true).evt 1).board srcTray 0x11 0).recap

/-- The brake hold starts once the input, and any storm on it, is over. -/
def State.shelfDeassert (s : State) : State :=
  if !bit s.pins.raw 6 then s else
  have s : State := s.setRaw 6 false
  (if s.warned 6 then s else s.modPower (fun x => { x with brakeHold := true })).recap

def execShelfWarnDeassert (s : State) : Host.Outcome State Fault Refusal := .next s.shelfDeassert

def execBrakeHoldExpiry (s : State) : Host.Outcome State Fault Refusal :=
  .next (s.modPower (fun x => { x with brakeHold := false })).recap

def State.coolAssert (s : State) : State :=
  if bit s.pins.raw 7 then s else (((s.setRaw 7 true).evt 1).board srcTray 0x12 1).recap

def execCoolWarnDeassert (s : State) : Host.Outcome State Fault Refusal := .next (s.setRaw 7 false).recap

/-! ### Estimates and the limiter (R343, R344, R347) -/

/-- The calibrated estimate e × k. -/
def State.calibrated (s : State) (d e : Nat) : Nat := e * s.power.factors.getD d 0 / 268435456

/-- Mean over the newest `n` samples of a domain. -/
def State.meanOf (s : State) (d n : Nat) : Nat :=
  let l := (s.power.window.take n).map (fun x => x.getD d 0)
  l.foldl (· + ·) 0 / max 1 l.length

/-- Whether a domain breaks a limit of R343: its 100 ms average, the excursion ceiling, the excursion length. -/
def State.breaks (s : State) (d : Nat) : Bool :=
  decide (s.meanOf d 100000 > s.domCap d) || decide (s.meanOf d 10 > share s.preset d * 3100 / 100) ||
  decide (s.power.overCap.getD d 0 > 10000)

/-- One action of a domain's limiter, in R344's order: Lattice ends boost, then lowers the setpoint, then throttles. -/
def State.limit (s : State) (d : Nat) : State :=
  if d ≠ 0 ∨ s.dnum 0x2006 1 = 1 then s.modPower (fun x => { x with limited := x.limited ||| 2 ^ d })
  else if s.power.clocks.any (fun c => decide (c > s.setpoint)) then
    s.setClocks (s.power.clocks.map (fun c => min c s.setpoint))
  else if s.setpoint > s.baseClock / 3 then s.modPower (fun x => { x with lower := x.lower + 25 })
  else s.modPower (fun x => { x with limited := x.limited ||| 1 })

/-- Undo one action of a domain that is within its cap. -/
def State.relax (s : State) (d : Nat) : State :=
  -- a stack above 95 °C keeps Carafe throttled (R356)
  if d = 1 ∧ s.gf R.thmStat_CRF 0 > 95 then s
  else if bit s.power.limited d then s.modPower (fun x => { x with limited := putBits x.limited d d 0 })
  else if d = 0 then s.modPower (fun x => { x with lower := x.lower - 25 })
  else s

/-- One domain after a sample: how long it has been above its cap, the limiter (DESIGN CHOICE, unsafe; log entry 64), and the milliseconds that
traffic which is never throttled holds it there. -/
def State.limitDomain (s : State) (d : Nat) : State :=
  let above := decide (s.meanOf d 10 > s.domCap d)
  have s : State := s.modPower (fun x => { x with overCap := x.overCap.set d (if above then x.overCap.getD d 0 + 1 else 0) })
  have s : State := if above ∧ d ≠ 0 ∧ bit s.power.limited d ∧ s.power.overCap.getD d 0 % 1000 = 0 then (s.evt 6).bump 0x8030 3 else s
  if s.breaks d then s.limit d else if above then s else s.relax d

/-- The 1 µs estimate of the four domains. -/
def State.estimate (s : State) (es : List Nat) : State :=
  have s : State := s.modPower (fun x => { x with
    window := ((List.range 4).map (fun d => s.calibrated d (es.getD d 0)) :: x.window).take 100000 })
  have s : State := (List.range 4).foldl (fun (t : State) d => (t.sf R.pwrDom_AVG d (t.meanOf d 100000)).limitDomain d) s
  s.recap

def execEstimatorTick (e0 e1 e2 e3 : Nat) (s : State) : Host.Outcome State Fault Refusal := .next (s.estimate [e0, e1, e2, e3])

/-- A reading of a domain's regulators: `m` measured, `e` estimated over the same 10 ms. A silent group's factor is frozen;
its tenth valid reading in a row ends the loss (R348). -/
def State.calibrate (s : State) (d m e : Nat) : State :=
  let groups := (List.range 6).filter (fun n => railDomain n == d)
  let silent := groups.filter (fun n => bit s.power.silent n)
  have s : State := s.modPower (fun x => { x with
    good := (List.range 6).map (fun n => if groups.contains n then x.good.getD n 0 + 1 else x.good.getD n 0) })
  if !silent.isEmpty then
    (silent.foldl (fun (t : State) n =>
      if t.power.good.getD n 0 ≥ 10 then t.modPower (fun x => { x with silent := putBits x.silent n n 0 }) else t) s).recap
  else if e = 0 then s
  else
    let k := s.power.factors.getD d 0
    let k' := (15 * k + m * 268435456 / e) / 16
    let lo := 268435456 * 4 / 5
    let hi := 268435456 * 5 / 4
    have s : State := s.modPower (fun x => { x with factors := x.factors.set d (max lo (min hi k')) })
    if k' < lo ∨ k' > hi then (s.evt 4).board srcSensors 0x03 d else s

def execCalibrationRead (d m e : Nat) (s : State) : Host.Outcome State Fault Refusal :=
  .next (if d < 4 then s.calibrate d m e else s)

/-- A rail group without a valid answer for 1 s. -/
def State.telemetryLost (s : State) (g : Nat) : State :=
  if g ≥ 6 then s else
  have s : State := s.modPower (fun x => { x with silent := x.silent ||| 2 ^ g, good := x.good.set g 0 })
  ((s.evt 3).board (source 0xB g) 0x02 g).recap

def execTelemetryLost (g : Nat) (s : State) : Host.Outcome State Fault Refusal := .next (s.telemetryLost g)

/-! ### The lease (R354) -/

/-- A grant from the node allowed to make one. -/
def State.grantLease (s : State) (path : DapPath) (w : Nat) : State :=
  let allowed := match path with
    | .mgmt n => s.dnum 0x2002 4 == 255 || s.dnum 0x2002 4 == n
    | _ => s.dnum 0x2002 4 == 255
  if !allowed then s.setN 0x2002 1 1 else
  ((s.modPower (fun x => { x with lease := some (w, s.mclk) })).setN 0x2002 1 0).recap

/-- The term ends. -/
def State.leaseExpiry (s : State) : State :=
  match s.power.lease with
  | none => s
  | some l =>
    have s : State := s.untilM (l.2 + 60000000000)
    ((((s.modPower (fun x => { x with lease := none })).evt 2).bump 0x8030 2).board srcTray 0x13 l.1).recap

def execLeaseExpiry (s : State) : Host.Outcome State Fault Refusal := .next s.leaseExpiry

/-! ### Thermal control (R356, R357) -/

/-- A domain's temperature acts for the first time, or no more. -/
def State.thermalForce (s : State) (d : Nat) (hot cool : Bool) (t : Nat) : State :=
  if hot ∧ !bit s.power.thermal d then
    ((((s.modPower (fun x => { x with thermal := x.thermal ||| 2 ^ d })).evt 5).bump 0x8030 1).bump 0x8030 4).board srcSensors 0x22 t
  else if cool ∧ bit s.power.thermal d then
    (s.modPower (fun x => { x with thermal := putBits x.thermal d d 0 })).beginHold d
  else s

/-- Above the target the working cap falls, by how much the spec leaves open; at or below it the cap is its share again. -/
def State.thermalCap (s : State) (d : Nat) (hot : Bool) (t : Nat) : State :=
  if hot then
    let k := s.fresh
    let first := s.power.work.getD d 0 == 0
    let w := max 1 (Config.freeVal k.1 0 % (max 1 (s.domCap d)))
    have s : State := (k.2.modPower (fun x => { x with work := x.work.set d w })).evt 5
    (if first then s.bump 0x8030 4 else s).board srcSensors 0x21 t
  else s.modPower (fun x => { x with work := x.work.set d 0 })

/-- The 100 µs reading: the hottest sensor of each Lattice die and the Vertex die, the bank layers of the stacks. -/
def State.thermalSample (s : State) (l0 l1 v : Nat) (layers : List Nat) : State :=
  let crf := layers.foldl max 0
  let lat := max l0 l1
  let target := s.dnum 0x3001 1
  have s : State := (((s.sf R.thmStat_LAT0 0 l0).sf R.thmStat_LAT1 0 l1).sf R.thmStat_VTX 0 v).sf R.thmStat_CRF 0 crf
  have s : State := (layers.take s.stackCount).zipIdx.foldl (fun (t : State) x => t.sf R.crfStat_TEMP x.2 x.1) s
  have s : State := (s.thermalCap 0 (decide (lat > target)) lat).thermalCap 2 (decide (v > target)) v
  have s : State := (s.thermalForce 0 (decide (lat ≥ 104)) (decide (lat < target)) lat).thermalForce 2 (decide (v ≥ 104)) (decide (v < target)) v
  -- the Carafe domain is throttled above 95 °C
  have s : State := if crf > 95 then
      (if bit s.power.limited 1 then s else (s.evt 5).bump 0x8030 4).modPower (fun x => { x with limited := x.limited ||| 2 })
    else s
  s.recap

def execThermalSample (lat0 lat1 vtx : Nat) (layers : List Nat) (s : State) : Host.Outcome State Fault Refusal :=
  .next (s.thermalSample lat0 lat1 vtx layers)

/-! ### Boost (R346) -/

/-- Temperature of a Lattice die as last read. -/
def State.dieTemp (s : State) (die : Nat) : Nat := if die = 0 then s.gf R.thmStat_LAT0 0 else s.gf R.thmStat_LAT1 0

def State.boostOk (s : State) (die : Nat) : Bool :=
  let c := s.power.clocks.getD die 0
  decide (s.dnum 0x2006 2 = 1) && decide (s.dnum 0x2006 1 = 0) && decide (s.dieTemp die < 95) &&
  decide (10 * s.meanOf 0 100000 ≤ 9 * s.domCap 0) && decide (c ≥ s.setpoint) && decide (c + 25 ≤ 2000) &&
  decide (s.vfPoint die ((c + 25 - 600) / 25) ≠ 0) && !s.forced 0 && s.power.sleep == 0

/-- One step up. -/
def State.boostStep (s : State) (die : Nat) : State :=
  if die < 2 ∧ s.boostOk die then
    (s.setClocks (s.power.clocks.set die (s.power.clocks.getD die 0 + 25))).recap
  else s

def execBoostStep (die : Nat) (s : State) : Host.Outcome State Fault Refusal := .next (s.boostStep die)

/-! ### Power requests (R353) -/

/-- Watts of the grants that lie within the 10 µs before `t`. -/
def within (grants : List (Nat × Nat)) (t : Nat) : Nat :=
  (grants.filter (fun g => decide (t < g.2 + 10000))).foldl (fun n g => n + g.1) 0

/-- The first time, from `t` on, at which `w` watts fit: now, or when one of the grants leaves the window. -/
def roomAt (budget w now : Nat) (grants : List (Nat × Nat)) (t : Nat) : Nat :=
  let fits := fun (x : Nat) => decide (within grants x + w ≤ budget) || decide (within grants x = 0)
  if fits t then t else ((grants.map (fun g => g.2 + 10000)).find? (fun x => decide (now ≤ x) && fits x)).getD t

/-- A clock ramp's step raises both dies by 100 MHz, up to the setpoint. -/
def State.rampStep (s : State) : State :=
  s.setClocks (s.power.clocks.map (fun c => if c < s.setpoint then min s.setpoint (c + 100) else c))

/-- The oldest request is granted once the window has room: the load steps granted within the last 10 µs, plus its own, stay
within the budget, or the window is empty. -/
def State.grantPower (s : State) : State :=
  match s.power.requests with
  | [] => s
  | (w, t0) :: rest =>
    let budget := s.dnum 0x2005 1
    have s : State := s.untilM (roomAt budget w s.mclk s.power.grants s.mclk)
    let wait := s.mclk - t0
    have s : State := s.modPower (fun x => { x with
      requests := rest, grants := x.grants.filter (fun g => decide (s.mclk < g.2 + 10000)) ++ [(w, s.mclk)] })
    have s : State := if w = 60 then s.rampStep else s
    have s : State := if wait > 0 then
        (s.bump 0x2005 2).setN 0x2005 3 (max (s.dnum 0x2005 3) ((wait + 999) / 1000))
      else s
    (if wait > 1000000 then (s.evt 7).board srcSensors 0x41 (wait / 1000) else s).recap

def execPowerRequestGrant (s : State) : Host.Outcome State Fault Refusal := .next s.grantPower

/-! ### Ageing (R358 to R361) -/

/-- A signed number of 16 bits as two bytes. -/
def i16 (x : Int) : List Byte := natLE 2 (ofSigned 16 x)

/-- The second's worst slack of a die's monitors. -/
def State.slackSample (s : State) (die : Nat) (slacks : List Int) : State :=
  match slacks with
  | [] => s
  | x :: t =>
    let worst := t.foldl min x
    let old := s.doct 0x9000 2
    s.setD 0x9000 2 (.oct (if die = 0 then i16 worst ++ old.drop 2 else old.take 2 ++ i16 worst))

def execSlackSample (die : Nat) (slacks : List Int) (s : State) : Host.Outcome State Fault Refusal :=
  .next (if die < 2 then s.slackSample die slacks else s)

/-- A point after a re-plan that wants `v` mV, in 5 mV steps: voltages only rise, points are only removed (0). -/
def planPoint (old v : Nat) : Nat := if old = 0 ∨ v = 0 then 0 else max old ((v + 4) / 5 * 5)

/-- A point that the present operation needs is removed: the ceiling falls, fixed-frequency mode moves. -/
def State.pointLost (s : State) (before : Nat) : State :=
  if s.baseClock = before then s else
  have s : State := (s.evt 8).board srcAgeing 0x31 s.baseClock
  if s.dnum 0x2006 1 = 1 then s.setN 0x8030 5 1 else s

/-- The re-plan: the voltage each of the 57 points of the two dies needs (0: more than the die's fused maximum), and for the
memory and Vertex core islands 1 where the floor cannot be met at the maximum. -/
def State.vfReplan (s : State) (plan : List Nat) : State :=
  let before := s.baseClock
  let table := (List.range 114).flatMap (fun k => natLE 2 (planPoint (leNat (((s.doct 0x9000 4).drop (2 * k)).take 2)) (plan.getD k 0)))
  have s : State := s.setD 0x9000 4 (.oct table)
  have s : State := s.pointLost before
  have s : State := (List.range 2).foldl (fun (t : State) k =>
    if plan.getD (114 + k) 0 = 1 then (t.evt 8).board srcAgeing 0x32 k else t) s
  have s : State := if s.power.replan then (s.modPower (fun x => { x with replan := false })).setN 0x9001 2 0 else s
  (s.setN 0x9001 3 s.time).recap

def execVfReplan (plan : List Nat) (s : State) : Host.Outcome State Fault Refusal := .next (s.vfReplan plan)

/-- A write of 1 to 0x9001:02 starts a re-plan. -/
def State.replanNow (s : State) : State := (s.modPower (fun x => { x with replan := true })).setN 0x9001 2 1

end Sys2Proof.Machine
end

