-- ==== Sys2Proof/Machine/Boot.lean ====
section
/-! DEFINITION. Resets, the straps, the choice of a slot and boot (spec/18 R408 to R417, R419, R423, R426, R440;
spec/17 R389 to R391, R406; spec/16 R364, R367, R381). -/

namespace Sys2Proof.Machine

/-! ### Slots and records (R411 to R415, R423) -/

/-- SVN of the image in a slot. -/
def State.slotSvn (s : State) (n : Nat) : Nat := leNat (s.imageAt n 24 1)

/-- Whether a slot's image is valid: R413's checks, with the rollback floor as it stands. -/
def State.slotValid (s : State) (n : Nat) : Bool := bit s.boot.good n && decide (s.slotSvn n ≥ s.boot.fuses)

/-- SHA-384 that the header gives for the component of a kind. -/
def State.compDigest (s : State) (slot kind : Nat) : List Byte :=
  match (List.range 16).find? (fun i => leNat (s.imageAt slot (32 + 64 * i) 4) == kind) with
  | some i => s.imageAt slot (48 + 64 * i) 48
  | none => zeros 48

/-- Append a boot control record: it comes into force. -/
def State.putRec (s : State) (f : BootRec → BootRec) : State :=
  { s with boot := { s.boot with recd := { f s.boot.recd with seq := s.boot.recd.seq + 1 } } }

/-- ACTIVE is chosen, or the other slot when ACTIVE is abandoned; none: recovery. -/
def State.chooseActive (s : State) : State × Option Nat :=
  let a := s.boot.recd.active
  if s.slotValid a then (s, some a)
  else if s.slotValid (1 - a) then
    ((((s.putRec (fun r => { r with active := 1 - a, trial := 0 })).sf R.bootStat_FALLBACK 0 1).bump 0xA003 1), some (1 - a))
  else (s, none)

/-- The slot to boot (R415). -/
def State.chooseSlot (s : State) : State × Option Nat :=
  let sel := s.boot.bootSel
  if sel = 3 then (s, none)
  else if sel = 1 ∨ sel = 2 then (s, if s.slotValid (sel - 1) then some (sel - 1) else none)
  else if s.boot.recd.trial = 1 then
    have s : State := s.putRec (fun r => { r with trial := 2 })
    let t := s.boot.recd.tslot
    if s.slotValid t then (s.sf R.bootStat_TRIAL 0 1, some t) else (s.sf R.bootStat_FALLBACK 0 1).chooseActive
  else if s.boot.recd.trial = 2 then ((s.putRec (fun r => { r with trial := 0 })).bump 0xA003 2).chooseActive
  else s.chooseActive

/-! ### The board record and the journal (R389, R390, R412) -/

/-- The items of a board configuration record, when it is valid. -/
def boardItems (bs : List Byte) : Option (List (Nat × Nat × List Byte)) :=
  let n := leNat ((bs.drop 6).take 2)
  let len := 8 + 12 * n
  if leNat (bs.take 4) = 0x42434652 ∧ leNat ((bs.drop 4).take 2) = 1 ∧ len + 4 ≤ bs.length ∧
      leNat ((bs.drop len).take 4) = crc32c (bs.take len) then
    some ((List.range n).map (fun i =>
      (leNat ((bs.drop (8 + 12 * i)).take 2), leNat ((bs.drop (10 + 12 * i)).take 1), (bs.drop (12 + 12 * i)).take 8)))
  else none

/-- The board record's copy in a part. -/
def State.boardCopy (s : State) (part : Nat) : List Byte := Sparse.gets zeroByte s.boot.nor (part * 0x4000000) 4096

/-- The "per board" entries (the regulator addresses) take their value from the copy in part 0, or else in part 1; what no
item supplies reads zero, with a report (DESIGN CHOICE, unsafe; log entry 63). -/
def State.takeBoard (s : State) : State :=
  let items := ((boardItems (s.boardCopy 0)).orElse (fun _ => boardItems (s.boardCopy 1))).getD []
  match items.find? (fun x => x.1 == 0x2004 && x.2.1 == 1) with
  | some x => s.setD 0x2004 1 (.oct (x.2.2.take 6))
  | none => (s.setD 0x2004 1 (.oct (zeros 6))).report (source 0xA 0) (unstatedCode 1) 0 none 0x2004

/-- RWP and RWL entries take the journal's values; without a valid journal, their defaults. -/
def State.takeJournal (s : State) : State :=
  if s.boot.journal.isEmpty then (s.setN 0x1001 5 2).report (source 0xA 0) (unstatedCode 2) 0 none 0
  else s.boot.journal.foldl (fun (t : State) x => t.setD (x.1 / 256) (x.1 % 256) x.2) s

/-! ### What resets clear (R7 to R10, R391, R416, R417, R440) -/

/-- Entries without the class that a reset reaches: RO values that count since a cold reset, RWP and RWL stay at a warm one. -/
def keptWarm (k : Nat) : Bool :=
  let i := k / 256
  i != 0x6111 && i != 0x8022 && k != dkey 0xA001 3 && k != dkey 0xA001 4 && k != dkey 0x8021 9 && k != dkey 0x8021 0xA &&
  match entryOf i (k % 256) with
  | some e => e.cls == .ro || e.cls == .rwp || e.cls == .rwl || k == dkey 0x4004 1
  | none => false

/-- Entries that outlive a cold reset outside the journal: persistent counters, the voltage plan and its alarm, the CAK. -/
def keptCold (k : Nat) : Bool :=
  [dkey 0x8040 2, dkey 0x8050 4, dkey 0xA003 1, dkey 0xA003 2, dkey 0x9000 4, dkey 0x8030 5, dkey 0x4004 1].contains k

/-- Dictionary values and tags after a reset: the tag of every value that changed advances. -/
def State.resetDict (s : State) (keep : Nat → Bool) : State :=
  (s.dict.filter (fun x => !keep x.1)).foldl (fun (t : State) x => t.setD (x.1 / 256) (x.1 % 256) (dictDefault x.1)) s

/-- A slot's generation is all that a warm reset keeps of a ticket (spec/11 R259). -/
def staleTickets (l : List (Nat × Ticket)) : List (Nat × Ticket) :=
  l.filterMap (fun x => if x.2.gen = 0 then none else some (x.1, { Ticket.blank with gen := x.2.gen }))

/-- What a warm reset leaves: the islands return to their reset values; the Urn, Hopper, fabric time, identifier, keys,
persistent entries and what the Apex core keeps stay. The Hopper bytes stay too, but nothing names their units (spec/09 R222). -/
def State.warmCleared (s : State) : State :=
  have s : State := s.resetDict keptWarm
  { State.reset with
    part := s.part, time := s.time, everLocked := s.everLocked, slew := s.slew, slewTicks := s.slewTicks, mclk := s.mclk
    regs := s.regs.filter (fun x => (cardInfo (cardOf (x.1 / 1048576))).dom == .cold)
    mem := s.mem.filter (fun x => decide (urnBase ≤ x.1) && decide (x.1 < apertureBase))
    ucMem := s.ucMem.filter (fun x => decide (urnBase ≤ x) && decide (x < apertureBase))
    ecMem := s.ecMem.filter (fun x => decide (urnBase ≤ x) && decide (x < apertureBase))
    hop := s.hop, host := s.host, flash := s.flash.emptied, dict := s.dict, tags := s.tags
    tickets := staleTickets s.tickets, keys := s.keys, salts := s.salts, saltDue := s.saltDue, dumps := s.dumps
    dumpCopied := s.dumpCopied, ptPool := s.dnum 0x5010 2, shadowGib := s.dnum 0x5020 2
    power := { Power.blank with factors := s.power.factors }
    sec := { s.sec with
      nonce := none, level := 0, mask := 0, duration := 0, opening := none, transcript := []
      slots := (List.range 16).map (fun n => if n = 0 ∨ n = 7 ∨ n = 8 then s.sec.slots.getD n (zeros 48) else zeros 48) }
    boot := { s.boot with verifying := false, loaded := 0 }
    pins := { s.pins with asserts := [], storm := 0 }
    inbox := [], uid := s.uid, out := s.out, freeCtr := s.freeCtr, pending := s.pending }

/-- What a cold reset leaves: OTP, the SPI NOR parts, the sealed store, the journal, the Urn dump region, the dump copies, and
what stands on the pins. -/
def State.coldCleared (s : State) : State :=
  let dict := s.dict.filter (fun x => keptCold x.1)
  { State.reset with
    part := s.part
    mem := s.mem.filter (fun x => decide (dumpBase ≤ x.1) && decide (x.1 < dumpBase + dumpSize))
    ucMem := s.ucMem.filter (fun x => decide (dumpBase ≤ x) && decide (x < dumpBase + dumpSize))
    ecMem := s.ecMem.filter (fun x => decide (dumpBase ≤ x) && decide (x < dumpBase + dumpSize))
    host := s.host, dict := dict, tags := s.tags, dumps := s.dumps, dumpCopied := s.dumpCopied
    flash := { s.flash.emptied with nand := Flash.blank.nand }
    sec := { s.sec with
      nonce := none, lockedAt := 0, level := 0, mask := 0, duration := 0, opening := none, transcript := [], slots := List.replicate 16 (zeros 48)
      urnKey := [], hopKey := [] }
    boot := { s.boot with phase := 0, verifying := false, loaded := 0 }
    pins := { Pins.blank with raw := s.pins.raw, low := s.pins.low, perst := s.pins.perst }
    uid := s.uid, out := s.out, freeCtr := s.freeCtr, pending := s.pending }

/-! ### Boot (R415, R416) -/

/-- An UPDATE event: state, running slot, result, VERSION of the image in `slot` (R420). -/
def State.updateEvent (s : State) (slot : Nat) : State :=
  s.pushEvent 9 (padTo 32 (natLE 1 (s.dnum 0xA001 3) ++ natLE 1 (s.gf R.bootStat_SLOT 0) ++ natLE 1 (s.dnum 0xA001 4) ++
    zeros 1 ++ s.imageAt slot 8 16)) false

/-- Service begins: RESTART to all nodes of the management segment (spec/17 R399). -/
def State.restart (s : State) (kind : Nat) : State :=
  s.emit (.broadcast 0 s.time (padTo 32 (natLE 1 kind ++ natLE 1 (s.gf R.bootStat_SLOT 0))))

/-- Extend a slot with a digest that the spec leaves open. -/
def State.extendFree (s : State) (n : Nat) : State :=
  let k := s.fresh
  k.2.extend n (freeBytes k.1 48)

/-- The Apex core draws the Urn key and the Hopper pool key (spec/16 R365). -/
def State.drawKeys (s : State) : State :=
  let k := s.fresh
  { k.2 with sec := { k.2.sec with urnKey := freeBytes k.1 64, hopKey := (freeBytes k.1 128).drop 64 } }

/-- The boot of the chosen slot: what it runs is measured, an owed floor increase is burnt, the registers start anew (R416, steps 3 to 6). -/
def State.bootSlot (s : State) (kind slot : Nat) : State :=
  have s : State := (s.sf R.bootStat_SLOT 0 slot).extend 1 (s.compDigest slot 1)
  have s : State := if s.boot.recd.burn then
      (State.putRec { s with boot := { s.boot with fuses := max s.boot.fuses s.boot.recd.target } } (fun r => { r with burn := false }))
    else s
  have s : State := s.extend 2 (s.compDigest slot 2)
  have s : State := s.extend 5 (sha384 (natLE 2 (s.boot.bootSel * 256 + s.boot.node) ++ natLE 1 slot))
  have s : State := s.extendFree 6
  have s : State := if s.gf R.bootStat_TRIAL 0 = 1 then s.setN 0xA001 3 4 else s
  have s : State := State.restart { s with
    boot := { s.boot with phase := if kind = 0 then 1 else 3 }
    ptPool := s.dnum 0x5010 2, shadowGib := s.dnum 0x5020 2 } kind
  if s.gf R.bootStat_FALLBACK 0 = 1 then s.updateEvent slot else s

/-- Boot from the choice of the slot to the start of service; `kind` is 0 cold, 1 warm. -/
def State.bootFrom (s : State) (kind cause : Nat) : State :=
  -- the UDS of a decommissioned part is gone before any other die runs (spec/16 R364)
  have s : State := if s.sec.life = 3 then { s with sec := { s.sec with uds := false } } else s
  let c := (s.sf R.bootStat_CAUSE 0 cause).chooseSlot
  have s : State := c.1.showSec
  -- persistent values stand in recovery mode too (spec/00 R9)
  have s : State := if kind = 0 then (s.takeBoard.setN 0x4010 1 s.boot.node).takeJournal else s
  match c.2 with
  | none => (State.sf { s with boot := { s.boot with phase := 5 } } R.bootStat_RECOVERY 0 1).restart kind
  | some slot => s.bootSlot kind slot

/-- POR_N rises: the straps are latched and the cold boot runs. `fitted` lists the slots that the board maker has programmed
while the device was off with an image that passes R413, and its header (DESIGN CHOICE, unsafe; log entry 1). -/
def State.porRelease (s : State) (bootSel node : Nat) (fitted : List (Nat × List Byte)) : State :=
  if s.boot.phase ≠ 0 then s else
  have s : State := fitted.foldl (fun (t : State) x =>
    if x.1 > 1 then t else
    { t with boot := { t.boot with
      nor := Sparse.blit zeroByte t.boot.nor (x.1 * 0x4000000 + 0x100000) (padTo 4096 x.2)
      good := putBits t.boot.good x.1 x.1 1 } }) s
  have s : State := { s with
    boot := { s.boot with bootSel := bootSel % 4, node := min 254 (node % 256) }
    pins := { s.pins with floating := 1023 } }
  ((s.extendFree 0).drawKeys.bootFrom 0 0).recap

def execPorRelease (bootSel node : Nat) (fitted : List (Nat × List Byte)) (s : State) : Host.Outcome State Fault Refusal :=
  .next (s.porRelease bootSel node fitted)

/-- Cold reset (R408). -/
def execPorAssert (s : State) : Host.Outcome State Fault Refusal := .next s.coldCleared

/-- Boot completes: microcode, firmware and tables are verified, the Urn is trained, READY sets, the ports begin bring-up. `faults`
are the codes of the integrity failures that the boot met (spec/16 R368), `urnBad` the Urn channels that did not train; the Urn
tier is online when none failed (DESIGN CHOICE, unsafe; log entry 98). -/
def State.bootReady (s : State) (faults urnBad : List Nat) : State :=
  if s.boot.phase ≠ 1 ∧ s.boot.phase ≠ 3 then s
  else if !faults.isEmpty then faults.foldl (fun (t : State) c => t.fatal (source 9 0) c 0) s
  else
    let slot := s.gf R.bootStat_SLOT 0
    have s : State := ((s.extend 3 (s.compDigest slot 3)).extend 3 (s.compDigest slot 4)).extend 4 (s.compDigest slot 5)
    have s : State := s.extend 4 (s.compDigest slot 6)
    have s : State := (urnBad.filter (fun c => decide (c < 16))).foldl (fun (t : State) c => t.report (source 3 c) 0x03 1 none c) s
    have s : State := (s.sf R.tierStat_URN_OK 0 (b2n (!urnBad.any (fun c => decide (c < 16))))).sf R.tierStat_HOPPER_OK 0
      (b2n (s.gf R.hopStat_STATE 0 == 2))
    have s : State := State.sf { s with boot := { s.boot with phase := 4 } } R.bootStat_READY 0 1
    ((List.range 32).foldl (fun (t : State) n => t.portStart n) s).recap

def execBootReady (report : BootReport) (s : State) : Host.Outcome State Fault Refusal := .next (s.bootReady report.faults report.urnBad)

/-! ### Warm reset (R409, R417, R434) -/

/-- Record that the open level has closed: slot 7 and the log (spec/16 R381). -/
def State.levelClosed (s : State) : State :=
  if s.sec.level = 0 then s else
  have s : State := s.extend 7 (sha384 (natLE 1 0 ++ natLE 2 s.sec.mask ++ natLE 1 0 ++ zeros 48))
  have s : State := s.report (source 9 0) 0x11 0 none (s.sec.level + s.sec.mask * 256)
  State.showSec { s with sec := { s.sec with level := 0, mask := 0, duration := 0 } }

/-- Step 1: READY clears, ports go down, partitions stop, held accesses fail (spec/07 R194), tickets are freed without a record,
the level closes, sessions end. -/
def State.warmHold (s : State) (cause : Nat) : State :=
  have s : State := s.levelClosed
  have s : State := State.stopAll (s.holds.foldl (fun (t : State) h => t.endHold h stNotMapped) s)
  State.sf { (s.sf R.bootStat_READY 0 0) with
    tickets := staleTickets s.tickets, sessions := [], boot := { s.boot with phase := 2 } } R.bootStat_CAUSE 0 cause

/-- Steps 2 to 4. A reset that interrupts a dump leaves none (spec/14 R339), with its report (R313; its class and its detail are
DESIGN CHOICE, unsafe; log entry 63). -/
def State.warmGo (s : State) (cause : Nat) : State :=
  let cut := s.gf R.fltStat_STATE 0 == 4
  have s : State := (if cut then (s.zeroMem closingAt 64).dumpChanged else s).warmCleared.bootFrom 1 cause
  (if cut then s.report (source 0xA 0) 0x03 1 none 0 else s).recap

/-- Whether a warm reset may start: no reset is under way. -/
def State.resettable (s : State) : Bool := s.boot.phase == 1 || s.boot.phase == 4 || s.boot.phase == 5

/-- A whole warm reset up to the start of service. -/
def State.warmReset (s : State) (cause : Nat) : State := (s.warmHold cause).warmGo cause

def execWarmRstAssert (s : State) : Host.Outcome State Fault Refusal := .next (if s.resettable then s.warmHold 1 else s)
def execWarmRstRelease (s : State) : Host.Outcome State Fault Refusal := .next (if s.boot.phase = 2 then s.warmGo 1 else s)

/-- A trial boot that does not reach READY within 0xA000:05 is ended by the Apex core (R422). -/
def State.trialTimeout (s : State) : State :=
  if (s.boot.phase = 1 ∨ s.boot.phase = 3) ∧ s.boot.recd.trial = 2 then s.warmReset 3 else s

def execTrialReadyTimeout (s : State) : Host.Outcome State Fault Refusal := .next s.trialTimeout

/-- The Apex core's watchdog for the management core: fatal (spec/14 R311), but a trial boot is warm-reset (R422). -/
def State.watchdog (s : State) : State :=
  if s.boot.recd.trial = 2 then s.warmReset 3 else s.fatal (source 0xA 0) 0x01 0

def execWatchdogExpiry (s : State) : Host.Outcome State Fault Refusal := .next s.watchdog

/-! ### Functions (R408, R419) -/

/-- PERST_N, a hot reset or a link disable resets every function; while PERST_N is held nothing reaches them. -/
def State.perstOn (s : State) : State :=
  have s : State := (List.range 17).foldl (fun (t : State) n => t.functionReset n) s
  State.setN { s with pins := { s.pins with perst := true } } 0x4012 2 0

def execPerstAssert (s : State) : Host.Outcome State Fault Refusal := .next s.perstOn
def execPerstRelease (s : State) : Host.Outcome State Fault Refusal := .next { s with pins := { s.pins with perst := false } }

/-- A function reset of this package, or one that another package reports (R419; spec/11 R259). -/
def execFunctionLevelReset (a : FnReset) (s : State) : Host.Outcome State Fault Refusal :=
  .next (if a.fn > 16 then s else match a.pkg with
    | none => s.functionReset a.fn
    | some q => s.dropEntered (.remote ⟨q, 0, a.fn, 0, 0⟩))

end Sys2Proof.Machine
end

