-- ==== Sys2Proof/Machine/Sleep.lean ====
section
/-! DEFINITION. Sleep and standby: entries, exits and the commands that wait for an exit (spec/15 R351, R352;
spec/16 R382; spec/19 R438). -/

namespace Sys2Proof.Machine

/-! ### Entry (R351) -/

/-- The entry condition of a state. -/
def State.mayEnter (s : State) (n : Nat) : Bool :=
  if n = 1 then (List.range 16).all (fun p => s.pstate p != 1)
  else (List.range 16).all (fun p => s.pstate p == 0 || s.pstate p == 4) && (n != 3 || !s.idValid)

/-- Whether the security state bars S2 and S3 (spec/16 R382). -/
def State.securityBars (s : State) : Bool := decide (s.sec.level ≥ 2) || s.sec.opening.isSome

/-- A write of 1, 2 or 3 to 0x2001:01. The state in force is entered again at once; a lighter one is not (DEDUCED, unsafe; log entry 65). -/
def State.enterSleep (s : State) (n : Nat) : State :=
  if s.power.sleep = n ∧ !s.power.exiting then s.setN 0x2001 1 0
  else if s.power.sleep > n ∨ s.power.exiting ∨ !s.mayEnter n then s.setN 0x2001 1 2
  else if n ≥ 2 ∧ s.securityBars then s.setN 0x2001 1 3
  else (s.modPower (fun x => { x with entering := some n })).setN 0x2001 1 1

/-- Every partition has been FREE or SAVED for the automatic delay. -/
def State.autoS1 (s : State) : State :=
  if s.dnum 0x2001 2 = 0 ∨ s.asleep ∨ !(List.range 16).all (fun p => s.pstate p == 0 || s.pstate p == 4) then s
  else s.modPower (fun x => { x with entering := some 1 })

def execAutoS1 (s : State) : Host.Outcome State Fault Refusal := .next s.autoS1

/-- Turn every regulated output off and cancel pending retries; latched ones stay latched (spec/19 R438). -/
def State.outputsOff (s : State) : State :=
  { s with pins := { s.pins with rego := s.pins.rego.filter (fun x => x.state == 4) } }

/-- What S2 loses: scratchpads, instruction memory, Arc tables. -/
def State.loseLattice (s : State) : State :=
  let k := s.fresh
  have s : State := (List.range s.facetCount).foldl (fun (t : State) f => (t.clearScratch f (k.1 + 1)).clearImem f (k.1 + 1)) k.2
  State.loseUnits { s with selfAll := none } s.arcUnits

/-- What S3 turns off: ports, the debug level, the regulated outputs, the lock of fabric time. -/
def State.standby (s : State) : State :=
  have s : State := (List.range 32).foldl (fun (t : State) n => t.wr .fmfPortStat n 0) s.levelClosed
  (s.outputsOff.sf R.fmfStat_TLOCK 0 0).loseLattice

/-- Entry completes; what arrived meanwhile is an exit trigger now (R352). -/
def State.sleepEntered (s : State) : State :=
  match s.power.entering with
  | none => s
  | some n =>
    have s : State := s.modPower (fun x => { x with entering := none, sleep := n })
    have s : State := if n = 2 then s.loseLattice else if n = 3 then s.standby else s
    have s : State := (if s.dnum 0x2001 1 = 1 then s.setN 0x2001 1 0 else s).recap
    if s.power.parked.isEmpty then s else s.startExit

def execSleepEntryDone (s : State) : Host.Outcome State Fault Refusal := .next s.sleepEntered

/-! ### Exit (R352) -/

/-- A write of 0 to 0x2001:01. From S3, over the management transport, it starts the warm reset sequence. -/
def State.wake (s : State) (path : DapPath) : State :=
  if s.power.sleep = 3 then
    match path with
    | .mgmt _ => s.warmReset 4
    | _ => s.setN 0x2001 1 2
  else if s.power.entering.isSome then (s.park .wake).setN 0x2001 1 1
  else if s.power.sleep = 0 then s.setN 0x2001 1 0
  else s.startExit.setN 0x2001 1 1

/-- Perform a command that waited. -/
def State.perform (s : State) : Parked → State
  | .start r f e => s.fctStart r f e
  | .imem r f e => s.imemLoad r f e
  | .form r p => (s.modPrt p (fun x => { x with busy := 0 })).form r p
  | .resume r p => (s.modPrt p (fun x => { x with busy := 0 })).partResume r p
  | .adopt v found => s.adopt v found
  | .identity v => s.identity v
  | .wake => s

/-- Every step of the power-up has been granted: the state is left, the waiting commands are performed in order. -/
def State.sleepLeft (s : State) : State :=
  if !s.power.exiting ∨ !s.power.requests.isEmpty then s else
  let q := s.power.parked
  have s : State := s.modPower (fun x => { x with sleep := 0, exiting := false, parked := [] })
  have s : State := if s.dnum 0x2001 1 = 1 then s.setN 0x2001 1 0 else s
  (q.foldl (fun (t : State) i => t.perform i) s).recap

def execSleepExitDone (s : State) : Host.Outcome State Fault Refusal := .next s.sleepLeft

/-- An identity assignment, or a release; an assignment that finds the package asleep waits for the exit it triggers. -/
def State.assignIdentity (s : State) (v : Nat) : State :=
  if s.asleep ∧ !bit v 63 then s.park (.identity v) else s.identity v

/-- ADOPT, which waits in the same way and reads busy. -/
def State.adoptOrPark (s : State) (v : List Byte) (found : AdoptView) : State :=
  if s.asleep then (s.park (.adopt v found)).setN 0x8020 2 1 else s.adopt v found

end Sys2Proof.Machine
end

