-- ==== Sys2Proof/Machine/Security.lean ====
section
/-! DEFINITION. The Apex core: nonces, credentials, the Debug gate, zeroisation, the lifecycle, measurement of customers'
slots, the test access port (spec/16 R362 to R385). -/

namespace Sys2Proof.Machine

/-! ### Codes (R377) -/

def dcNonce : Nat := 2
def dcAuth : Nat := 3
def dcLocked : Nat := 4
def dcLifecycle : Nat := 5
def dcBadArg : Nat := 1
def dcBusy : Nat := 9

def State.modSec (s : State) (f : Secure → Secure) : State := { s with sec := f s.sec }

/-! ### The nonce (R375) -/

/-- Set the present nonce, or clear it, with the registers that show it. -/
def State.setNonce (s : State) (v : Option (List Byte)) : State :=
  let bs := v.getD (zeros 48)
  (List.range 12).foldl (fun (t : State) k => t.wr .dbgNonce k (BitVec.ofNat 32 (leNat ((bs.drop (4 * k)).take 4))))
    (s.modSec (fun x => { x with nonce := v }))

/-- NONCE makes a nonce from the random generator. -/
def State.makeNonce (s : State) : State :=
  let k := s.fresh
  k.2.setNonce (some (freeBytes k.1 48))

/-- A nonce lapses 60 s after it was made. -/
def execNonceLapse (s : State) : Host.Outcome State Fault Refusal := .next (s.setNonce none)

/-! ### Credentials (R374 to R376) -/

/-- Bytes of a credential as a number. -/
def octs (c : List Byte) (i n : Nat) : Nat := leNat ((c.drop i).take n)

def credKind (c : List Byte) : Nat := octs c 4 1
def credLevel (c : List Byte) : Nat := octs c 5 1
def credMask (c : List Byte) : Nat := octs c 6 2
def credTime (c : List Byte) : Nat := octs c 8 4
def isZero (c : List Byte) : Bool := c.all (fun b => b == 0)

/-- Whether the lifecycle state allows a credential for a level: a password, or a token with consent where it is needed. -/
def levelAllowed (life level kind : Nat) : Bool :=
  if life = 0 then kind == 0
  else if life = 3 then kind == 0 && level != 2
  else if level = 3 then kind == 0 else true

/-- Whether a credential is one that the lockout bars: a password, or a token that carries consent. -/
def State.lockable (s : State) (c : List Byte) : Bool :=
  credKind c ≥ 2 || (credKind c == 0 && decide (s.sec.life = 2) && credLevel c == 3)

/-- CONSENT of a token in field-locked state: HMAC keyed with the verifier over the nonce. -/
def State.consentOk (s : State) (c : List Byte) : Bool :=
  match s.sec.password, s.sec.nonce with
  | some (v, _), some n => (c.drop 112).take 48 == hmac384 v n
  | _, _ => false

/-- Whether a token is valid, apart from its level and duration, nonce and consent. -/
def State.tokenOk (s : State) (c : List Byte) : Bool :=
  let akey := (c.drop 160).take 97
  isZero ((c.drop 12).take 4) && isZero ((c.drop 257).take 7) && (c.drop 16).take 48 == devId &&
  s.sec.authorities.any (fun a => a.1 == sha384 akey && !a.2) &&
  ecdsaOk akey (c.take 264) ((c.drop 264).take 96)

/-- The password in a credential that has its length at `at_` and its bytes at `from_`. -/
def passwordAt (c : List Byte) (at_ from_ : Nat) : List Byte := (c.drop from_).take (octs c at_ 1)

def State.passwordOk (s : State) (pw : List Byte) : Bool :=
  match s.sec.password with
  | some (v, salt) => pbkdf2 pw salt == v
  | none => false

/-- What checking a credential answers: its code, and whether it was a wrong password or a wrong consent. -/
def State.credCode (s : State) (c : List Byte) (needConsent : Bool) : Nat × Bool :=
  if credKind c ≥ 2 then (if s.passwordOk (passwordAt c 12 16) then (0, false) else (dcAuth, true))
  else if s.sec.nonce ≠ some ((c.drop 64).take 48) then (dcNonce, false)
  else if !s.tokenOk c then (dcAuth, false)
  else if needConsent ∧ !s.consentOk c then (dcAuth, true)
  else (0, false)

/-- A wrong password or consent counts; the fifth in a row, and every later one, locks out for twice as long. -/
def State.countFailure (s : State) : State :=
  let n := s.sec.fails + 1
  have s : State := s.modSec (fun x => { x with fails := n })
  if n < 5 then s else
  let w := if s.sec.wait = 0 then 60 else min 86400 (2 * s.sec.wait)
  (s.modSec (fun x => { x with locked := true, lockedAt := s.mclk, wait := w })).report (source 9 0) 0x13 1 none w

/-- A good password or consent clears the count. -/
def State.clearFailures (s : State) : State := s.modSec (fun x => { x with fails := 0, locked := false, wait := 0 })

/-- The lockout's wait runs out. -/
def State.lockoutOver (s : State) : State :=
  if !s.sec.locked then s else
  (s.untilM (s.sec.lockedAt + s.sec.wait * 1000000000)).modSec (fun x => { x with locked := false })

def execLockoutExpiry (s : State) : Host.Outcome State Fault Refusal := .next s.lockoutOver

/-- A refused credential: the counter and the log. -/
def State.credRefused (s : State) (code : Nat) : State := (s.bump 0x8040 1).report (source 9 0) 0x12 1 none code

/-! ### OPEN (R377 to R382) -/

/-- Partitions of a mask. -/
def maskParts (m : Nat) : List Nat := (List.range 16).filter (fun p => bit m p)

/-- Whether a generation or adapter key of a masked partition is held by one outside the mask. -/
def State.sharedKeys (s : State) (m : Nat) : Bool :=
  s.gens.any (fun g => bit m g.p && s.gens.any (fun h => !bit m h.p && h.mid == g.mid && h.gen == g.gen)) ||
  s.aslots.any (fun a => bit m a.p && s.aslots.any (fun b => !bit m b.p && b.mid == a.mid && b.gen == a.gen && b.tenant == a.tenant))

/-- Check 2: magic, kind, lengths and fields. -/
def State.openArgs (s : State) (c : List Byte) : Bool :=
  let l := credLevel c
  octs c 0 4 == 0x44475431 && (credKind c == 0 || credKind c == 2) && decide (1 ≤ l) && decide (l ≤ 3) && decide (l > s.sec.level) &&
  (if l = 2 then credMask c != 0 else credMask c == 0) && decide (60 ≤ credTime c) && decide (credTime c ≤ 86400) &&
  (credKind c == 0 || (decide (16 ≤ octs c 12 1) && decide (octs c 12 1 ≤ 64)))

/-- The first check of OPEN that applies, with whether it counts as a failure. -/
def State.openCode (s : State) (c : List Byte) : Nat × Bool :=
  let l := credLevel c
  if s.sec.opening.isSome then (dcBusy, false)
  else if !s.openArgs c then (dcBadArg, false)
  else if !levelAllowed s.sec.life l (credKind c) then (dcLifecycle, false)
  else if s.sec.locked ∧ s.lockable c then (dcLocked, false)
  else if s.power.sleep ≥ 2 ∧ l ≥ 2 then (8, false)
  else if (l = 2 ∧ (maskParts (credMask c)).any (fun p => s.dnum 0x6002 (p + 1) != 0xFFFF)) ∨ (l = 3 ∧ s.idValid) then (6, false)
  else if l = 2 ∧ s.sharedKeys (credMask c) then (7, false)
  else s.credCode c (s.sec.life == 2 && l == 3)

/-- Zero the frames carved for a partition. -/
def State.zeroCarved (s : State) (p : Nat) : State :=
  let x := s.prt p
  (x.kvPool ++ x.kvCarve.map Prod.fst ++ x.tierAll ++ x.stepFrame :: x.save).foldl (fun (t : State) f => t.zeroMem (f * 0x200000) 0x200000) s

/-- L2 zeroisation of one partition (R378). -/
def State.zeroisePart (s : State) (p : Nat) : State :=
  if s.pstate p = 0 then s else
  let used := (s.gens.filter (fun g => g.p == p)).map (fun g => (0, g.mid, g.gen, 0)) ++
    (s.aslots.filter (fun a => a.p == p)).map (fun a => (1, a.mid, a.gen, a.tenant))
  have s : State := s.partReset p false
  State.zeroCarved { s with keys := s.keys.filter (fun k => !used.contains (k.kind, k.mid, k.gen, k.tenant)) } p

/-- L3 zeroisation (R379): the dump region, whose key is its own, keeps its contents. -/
def State.zeroiseAll (s : State) : State :=
  have s : State := ((List.range 16).filter (fun p => s.pstate p != 0)).foldl (fun (t : State) p => t.partReset p false) s
  let inDump := fun (a : Nat) => decide (dumpBase ≤ a) && decide (a < dumpBase + dumpSize)
  State.setD { s with
    keys := [], salts := [], hop := [], hopLost := [], flash := s.flash.emptied, hashes := []
    mem := s.mem.filter (fun x => inDump x.1), imem := [], sram := [], lost := []
    ucMem := s.ucMem.filter inDump, ecMem := s.ecMem.filter inDump, ucImem := [], ecImem := [], ucSram := [], ecSram := []
    }.drawKeys 0x4004 1 (.oct (zeros 48))

/-- A level opens: slot 7 and the log. -/
def State.levelOpened (s : State) (o : Opening) : State :=
  have s : State := s.extend 7 (sha384 (natLE 1 o.level ++ natLE 2 o.mask ++ natLE 1 o.kind ++ o.digest))
  have s : State := s.modSec (fun x => { x with
    level := o.level, mask := o.mask, duration := o.duration, openedAt := s.mclk, opening := none })
  (((s.report (source 9 0) 0x10 0 none (o.level + o.mask * 256)).bump 0x8040 2).setN 0xB000 1 o.level).showSec

/-- OPEN: the state, and its code (0 also while the zeroisation runs). -/
def State.openLevel (s : State) (c : List Byte) : State × Nat :=
  let c := c.take 360
  let r := s.openCode c
  have s : State := s.setNonce none
  if r.1 ≠ 0 then ((if r.2 then s.countFailure else s).credRefused r.1, r.1)
  else
    have s : State := if s.lockable c then s.clearFailures else s
    let o : Opening := ⟨credLevel c, credMask c, credTime c, credKind c, sha384 c⟩
    if o.level = 1 then (s.levelOpened o, 0)
    else
      have s : State := (s.modSec (fun x => { x with opening := some o })).startExit
      have s : State := if o.level = 2 then (maskParts o.mask).foldl (fun (t : State) p => t.zeroisePart p) s else s.zeroiseAll
      (s.showSec, 0)

/-- The credential in DBG_BUF, which clears when the command completes. -/
def State.dbgCred (s : State) : List Byte := (List.range 128).flatMap (fun k => natLE 4 (s.rd .dbgBuf k).toNat)

def State.clearBuf (s : State) : State := s.resetRegs (fun c _ => c == .dbgBuf)

/-- A command of DBG_CMD. -/
def State.dbgCmd (s : State) (r : Requester) (k : State → State) : State := s.gate r .dbgCmd 0 fun s => (k s).clearBuf

def State.dbgNonce (s : State) (r : Requester) : State :=
  s.dbgCmd r fun s => s.makeNonce.cmdCode .dbgCmd 0 1 0 0

def execDbgNonce (r : Requester) (s : State) : Host.Outcome State Fault Refusal := .next (s.dbgNonce r)

def State.dbgOpen (s : State) (r : Requester) : State :=
  s.dbgCmd r fun s =>
    let q := s.openLevel s.dbgCred
    q.1.cmdCode .dbgCmd 0 2 (if q.2 ≠ 0 then 2 else if q.1.sec.opening.isSome then 1 else 0) q.2

def execDbgOpen (r : Requester) (s : State) : Host.Outcome State Fault Refusal := .next (s.dbgOpen r)

/-- OPEN by 0xB000:04. -/
def State.openEntry (s : State) (c : List Byte) : State :=
  let q := s.openLevel c
  q.1.setN 0xB000 4 (if q.2 = 0 ∧ q.1.sec.opening.isSome then dcBusy else q.2)

/-- Zeroisation completes: the level opens. -/
def State.zeroiseDone (s : State) : State :=
  match s.sec.opening with
  | none => s
  | some o =>
    if s.asleep then s else
    have s : State := s.levelOpened o
    have s : State := if s.gf R.dbgCmd_STATUS 0 = 1 then s.sf R.dbgCmd_STATUS 0 0 else s
    if s.dnum 0xB000 4 = dcBusy then s.setN 0xB000 4 0 else s

def execZeroiseDone (s : State) : Host.Outcome State Fault Refusal := .next s.zeroiseDone

/-! ### CLOSE (R381) -/

/-- The open level closes to L0, with the reset it calls for. -/
def State.closeLevel (s : State) : State :=
  let l := s.sec.level
  let m := s.sec.mask
  have s : State := s.levelClosed.setN 0xB000 1 0
  if l = 2 then ((maskParts m).filter (fun p => s.pstate p != 0)).foldl (fun (t : State) p => t.partReset p false) s
  else if l = 3 then s.warmReset 5
  else s

def State.dbgClose (s : State) (r : Requester) : State :=
  s.dbgCmd r fun s =>
    if s.sec.opening.isSome then s.cmdCode .dbgCmd 0 3 2 dcBusy
    else (s.cmdCode .dbgCmd 0 3 0 0).closeLevel

def execDbgClose (r : Requester) (s : State) : Host.Outcome State Fault Refusal := .next (s.dbgClose r)

/-- The DURATION of the open level ends. -/
def State.levelExpiry (s : State) : State :=
  if s.sec.level = 0 then s else (s.untilM (s.sec.openedAt + s.sec.duration * 1000000000)).closeLevel

def execLevelExpiry (s : State) : Host.Outcome State Fault Refusal := .next s.levelExpiry

/-! ### SETPW (R376) -/

/-- The code of a SETPW, with whether it counts as a failure. -/
def State.setpwCode (s : State) (c : List Byte) : Nat × Bool :=
  let first := s.sec.password.isNone && s.sec.life == 1
  let old := octs c 12 1
  let new := octs c 13 1
  if s.sec.opening.isSome then (dcBusy, false)
  else if octs c 0 4 ≠ 0x44475431 ∨ credKind c ≠ 3 ∨ new < 16 ∨ new > 64 ∨ (!first && (decide (old < 16) || decide (old > 64))) then (dcBadArg, false)
  else if s.sec.life = 0 ∨ s.sec.life = 3 then (dcLifecycle, false)
  else if s.sec.locked then (dcLocked, false)
  else if first ∨ s.passwordOk (passwordAt c 12 16) then (0, false)
  else (dcAuth, true)

/-- SETPW: the verifier and its salt are replaced. -/
def State.setPassword (s : State) (c : List Byte) : State × Nat :=
  let r := s.setpwCode c
  if r.1 ≠ 0 then ((if r.2 then s.countFailure else s).credRefused r.1, r.1)
  else
    let k := s.fresh
    let salt := freeBytes k.1 32
    ((k.2.modSec (fun x => { x with password := some (pbkdf2 (passwordAt c 13 80) salt, salt) })).clearFailures, 0)

def State.setpw (s : State) (r : Requester) : State :=
  s.dbgCmd r fun s =>
    let q := s.setPassword s.dbgCred
    q.1.cmdCode .dbgCmd 0 4 (if q.2 = 0 then 0 else 2) q.2

def execSetpw (r : Requester) (s : State) : Host.Outcome State Fault Refusal := .next (s.setpw r)

/-! ### Lifecycle (R363, R364) -/

/-- Whether the table of R363 has the transition for a credential of this kind. -/
def State.mayMove (s : State) (target kind : Nat) : Bool :=
  let life := s.sec.life
  (target == 1 && life == 0 && kind == 1 && !(s.doct 0x7000 4).isEmpty) ||
  (target == 2 && life == 1 && kind == 4 && s.sec.password.isSome) ||
  (target == 3 && life != 3 && (kind == 1 || (kind == 4 && life != 0)))

/-- The code of a lifecycle request, with whether it counts as a failure. -/
def State.lifeCode (s : State) (c : List Byte) : Nat × Bool :=
  let t := credLevel c
  if s.sec.opening.isSome then (dcBusy, false)
  else if octs c 0 4 ≠ 0x44475431 ∨ (credKind c ≠ 1 ∧ credKind c ≠ 4) ∨ (credKind c = 1 ∧ t ≠ 1 ∧ t ≠ 3) ∨
    (credKind c = 4 ∧ (octs c 12 1 < 16 ∨ octs c 12 1 > 64)) then (dcBadArg, false)
  else if !s.mayMove t (credKind c) ∨ (s.sec.level ≠ 0 ∧ t ≠ 3) then (dcLifecycle, false)
  else if s.sec.locked ∧ credKind c = 4 then (dcLocked, false)
  else s.credCode c false

/-- DECOMMISSION: the state word first, then L3 zeroisation, the end of the UDS and of the sealed store, a warm reset. -/
def State.decommissioned (s : State) : State :=
  have s : State := (s.modSec (fun x => { x with life := 3 })).report (source 9 0) 0x20 0 none 3
  have s : State := s.zeroiseAll.modSec (fun x => { x with uds := false, password := none, fails := 0, locked := false, wait := 0 })
  (State.setN { s with dumps := [] } 0x7000 2 0).warmReset 5

/-- A lifecycle request (0x7000:02). -/
def State.lifecycle (s : State) (c : List Byte) : State :=
  let r := s.lifeCode c
  have s : State := s.setNonce none
  if r.1 ≠ 0 then ((if r.2 then s.countFailure else s).credRefused r.1).setN 0x7000 2 2
  else
    have s : State := if credKind c = 4 then s.clearFailures else s
    let t := credLevel c
    if t = 3 then s.decommissioned
    else (((s.modSec (fun x => { x with life := t })).report (source 9 0) 0x20 0 none t).setN 0x7000 2 0).showSec

/-! ### Checks and measurements (R367, R368) -/

/-- The re-hash of the management core's code: a mismatch is an integrity failure. -/
def execCodeRehash (matches_ : Bool) (s : State) : Host.Outcome State Fault Refusal :=
  .next (if matches_ then s else s.fatal (source 9 0) 0x03 0)

/-- 0x7010:02: byte 0 a slot 9 to 15, then the digest. -/
def State.extendSlot (s : State) (v : List Byte) : State := (s.extend (octs v 0 1) ((v.drop 1).take 48)).setN 0x7010 2 0

/-! ### The test access port (R384) -/

def State.setJtag (s : State) (n : Nat) : State := { s with pins := { s.pins with jtag := n } }

/-- Whether SAMPLE/PRELOAD and EXTEST are accepted. -/
def State.scanOk (s : State) : Bool := (List.range 16).all (fun p => s.pstate p != 1) && !s.idValid

/-- BYPASS: one bit that captures 0. -/
def execBypass (s : State) : Host.Outcome State Fault Refusal := .next ((s.setJtag 1).emit (.tdo 0))
def execIdcode (s : State) : Host.Outcome State Fault Refusal := .next ((s.setJtag 0).emit (.tdo Config.idcode))

/-- SAMPLE/PRELOAD shifts out the pins in an order that the land map, not this text, gives. -/
def State.sample (s : State) : State :=
  if !s.scanOk then s else
  let k := s.fresh
  (k.2.setJtag 2).emit (.tdo (Config.freeVal k.1 0))

def execSamplePreload (s : State) : Host.Outcome State Fault Refusal := .next s.sample
def execExtest (s : State) : Host.Outcome State Fault Refusal := .next (if s.scanOk then s.setJtag 3 else s)

end Sys2Proof.Machine
end

