-- ==== Sys2Proof/Machine/Spdm.lean ====
section
/-! DEFINITION. SPDM: the Apex core's answers on every path, and the Apex mailbox (spec/16 R369 to R372; spec/17 R405). The
layout of the messages is DSP0274's, which the spec names and does not print (PRESUMED, unsafe; log entry 66). -/

namespace Sys2Proof.Machine

/-! ### Messages -/

def spVer (b : List Byte) : Nat := octs b 0 1
def spCode (b : List Byte) : Nat := octs b 1 1
def spP1 (b : List Byte) : Nat := octs b 2 1
def spP2 (b : List Byte) : Nat := octs b 3 1

def spdmMsg (ver code p1 p2 : Nat) (rest : List Byte) : List Byte := natLE 1 ver ++ natLE 1 code ++ natLE 1 p1 ++ natLE 1 p2 ++ rest

/-- ERROR with a code and its data. -/
def spdmError (ver code data : Nat) : List Byte := spdmMsg ver 0x7F code data []

def seInvalid : Nat := 0x01
def seUnspecified : Nat := 0x05
def seUnsupported : Nat := 0x07
def seVersion : Nat := 0x41

/-! ### What is answered from (R369, R372) -/

/-- The certificates of slot 0: the stored chain, then the alias certificate over slots 0 to 4. -/
def State.chainDer (s : State) : List Byte := s.doct 0x7000 4 ++ Config.aliasCert (s.sec.slots.take 5)

/-- The first DER element of a chain: the root certificate. -/
def derFirst (bs : List Byte) : List Byte := bs.take (4 + beNat ((bs.drop 2).take 2))

/-- Slot 0's certificate chain as SPDM carries it. -/
def State.spdmChain (s : State) : List Byte :=
  let der := s.chainDer
  natLE 2 (der.length + 52) ++ zeros 2 ++ sha384 (derFirst der) ++ der

/-- Measurement block `n`: 1 to 16 the slots as digests, 17 the raw bit stream of R372. -/
def State.block (s : State) (n : Nat) : List Byte :=
  let v := if n ≤ 16 then s.sec.slots.getD (n - 1) (zeros 48)
    else natLE 1 s.sec.life ++ natLE 1 s.sec.level ++ natLE 2 s.sec.mask
  let dmtf := natLE 1 (if n ≤ 16 then 0x01 else 0x85) ++ natLE 2 v.length ++ v
  natLE 1 n ++ natLE 1 1 ++ natLE 2 dmtf.length ++ dmtf

def State.allBlocks (s : State) : List Byte := (List.range 17).flatMap (fun n => s.block (n + 1))

/-- A random nonce of 32 bytes. -/
def State.nonce32 (s : State) : State × List Byte := (s.fresh.2, freeBytes s.fresh.1 32)

/-- Whether signed answers are withheld: decommissioned, or L3. -/
def State.noSigning (s : State) : Bool := decide (s.sec.life = 3) || decide (s.sec.level = 3)

/-! ### Answers (R370) -/

/-- Add a request to the exchange and sign it with what is answered, by the alias key of slots 0 to 4 (R365, R369) and a random
number of the signature's own (a free value). -/
def State.signed (s : State) (req resp : List Byte) : State × List Byte :=
  let k := s.fresh
  (k.2, resp ++ ecdsaBy (aliasKey ((s.sec.slots.take 5).flatMap id)) (Config.freeVal k.1 0 % (p384N - 1) + 1) (s.sec.transcript ++ req ++ resp))

def State.ansVersion (s : State) (_b : List Byte) : State × List Byte :=
  (s.modSec (fun x => { x with transcript := [] }), spdmMsg 0x10 0x04 0 0 (natLE 1 0 ++ natLE 1 2 ++ natLE 2 0x1200 ++ natLE 2 0x1300))

/-- CERT_CAP, CHAL_CAP, MEAS_CAP signed, MEAS_FRESH_CAP. The time exponent is left open. -/
def State.ansCapabilities (s : State) (b : List Byte) : State × List Byte :=
  let k := s.fresh
  (k.2, spdmMsg (spVer b) 0x61 0 0 (natLE 1 0 ++ natLE 1 (Config.freeVal k.1 0) ++ zeros 2 ++ natLE 4 0x36 ++ natLE 4 4096 ++ natLE 4 4096))

/-- Measurement specification DMTF, ECDSA P-384, SHA-384, where the requester offers them. -/
def State.ansAlgorithms (s : State) (b : List Byte) : State × List Byte :=
  let asym := octs b 8 4 &&& 0x80
  let hash := octs b 12 4 &&& 0x02
  (s, spdmMsg (spVer b) 0x63 0 0 (natLE 2 36 ++ natLE 1 (octs b 6 1 &&& 1) ++ zeros 1 ++ natLE 4 0x04 ++ natLE 4 asym ++ natLE 4 hash ++ zeros 16))

def State.ansDigests (s : State) (b : List Byte) : State × List Byte :=
  (s, spdmMsg (spVer b) 0x01 (if spVer b ≥ 0x13 then 1 else 0) 1 (sha384 s.spdmChain))

/-- A portion of the chain, slot 0 only. -/
def State.ansCertificate (s : State) (b : List Byte) : State × List Byte :=
  let c := s.spdmChain
  let off := octs b 4 2
  if spP1 b % 16 ≠ 0 ∨ off ≥ c.length then (s, spdmError (spVer b) seInvalid 0)
  else
    let part := ((c.drop off).take (octs b 6 2)).take 3968
    (s, spdmMsg (spVer b) 0x02 0 0 (natLE 2 part.length ++ natLE 2 (c.length - off - part.length) ++ part))

/-- Slot 0; a measurement summary hash of all blocks, or none. -/
def State.ansChallenge (s : State) (b : List Byte) : State × List Byte :=
  let v := spVer b
  if s.noSigning then (s, spdmError v seUnspecified 0)
  else if spP1 b ≠ 0 ∨ (spP2 b ≠ 0 ∧ spP2 b ≠ 0xFF) then (s, spdmError v seInvalid 0)
  else
    let n := s.nonce32
    let sum := if spP2 b = 0xFF then sha384 s.allBlocks else []
    let ctx := if v ≥ 0x13 then (b.drop 36).take 8 else []
    n.1.signed b (spdmMsg v 0x03 0 1 (sha384 s.spdmChain ++ n.2 ++ sum ++ natLE 2 0 ++ ctx))

/-- The number of blocks, one block, or all; signed when the request asks. -/
def State.ansMeasurements (s : State) (b : List Byte) : State × List Byte :=
  let v := spVer b
  let op := spP2 b
  let sign := bit (spP1 b) 0
  if sign ∧ s.noSigning then (s, spdmError v seUnspecified 0)
  else if (op > 17 ∧ op ≠ 0xFF) ∨ (sign ∧ octs b 36 1 % 16 ≠ 0) then (s, spdmError v seInvalid 0)
  else
    let n := s.nonce32
    let rec_ := if op = 0 then [] else if op = 0xFF then s.allBlocks else s.block op
    let ctx := if v ≥ 0x13 then (b.drop (if sign then 37 else 4)).take 8 else []
    let body := spdmMsg v 0x60 (if op = 0 then 17 else 0) 0
      (natLE 1 (if op = 0 then 0 else if op = 0xFF then 17 else 1) ++ natLE 3 rec_.length ++ rec_ ++ n.2 ++ natLE 2 0 ++ ctx)
    if sign then n.1.signed b body else (n.1, body)

/-- The answer to a message by its code; any other code is unsupported. -/
def State.spdmAnswer (s : State) (b : List Byte) : State × List Byte :=
  let c := spCode b
  if c = 0x84 then s.ansVersion b
  else if c ≠ 0x81 ∧ c ≠ 0x82 ∧ c ≠ 0x83 ∧ c ≠ 0xE0 ∧ c ≠ 0xE1 ∧ c ≠ 0xE3 then (s, spdmError 0x12 seUnsupported c)
  else if spVer b ≠ 0x12 ∧ spVer b ≠ 0x13 then (s, spdmError 0x12 seVersion 0)
  else if c = 0x81 then s.ansDigests b
  else if c = 0x82 then s.ansCertificate b
  else if c = 0x83 then s.ansChallenge b
  else if c = 0xE0 then s.ansMeasurements b
  else if c = 0xE1 then s.ansCapabilities b
  else s.ansAlgorithms b

/-! ### Paths (R371, spec/17 R405) -/

/-- Return a message body in a function's response buffer. -/
def State.apxReturn (s : State) (fn : Nat) (body : List Byte) : State :=
  have s : State := { s with apxRsp := Sparse.blit zeroByte s.apxRsp (fn * 4096) (padTo 4096 body) }
  (s.sf R.apxStat_READY fn 1).sf R.apxStat_RLEN fn body.length

/-- Answer a request in an inbox slot: a message of the same layout, stored to the reply FGA under the reply key. -/
def State.inboxReturn (s : State) (slot : Nat) (body : List Byte) : State :=
  let a := s.inboxBase + slot * 4096
  let h := s.readMem a 32
  let reply := leNat ((h.drop 8).take 8)
  let msg := h.take 24 ++ natLE 2 body.length ++ zeros 6 ++ body
  if s.own reply then (s.writeMem (fgaOff reply) msg).1
  else s.launch none (.inbox slot) 2 [⟨reply, msg.length, 0, leNat ((h.drop 16).take 8)⟩] (Sparse.blit zeroByte [] 0 msg)

/-- Send an answer back on the path of its request; every one is MCTP type 0x05. -/
def State.spdmReturn (s : State) (path : SpdmPath) (resp : List Byte) : State :=
  have s : State := s.bump 0x8040 3
  match path with
  | .mailbox fn => s.apxReturn fn (0x05 :: resp)
  | .inbox slot => (s.emit (.spdm path resp)).inboxReturn slot (0x05 :: resp)
  | .mgmt _ => s.emit (.spdm path resp)

/-- Whether the Apex core answers SPDM now: never in recovery mode or before service begins; in S3 on the management
transport only. -/
def State.spdmServed (s : State) (path : SpdmPath) : Bool :=
  (s.boot.phase == 1 || s.boot.phase == 3 || s.boot.phase == 4) &&
  (s.power.sleep != 3 || (match path with
    | .mgmt _ => true
    | _ => false))

/-- One message: its answer, and the exchange it belongs to. -/
def State.spdm (s : State) (path : SpdmPath) (b : List Byte) : State :=
  if !s.spdmServed path ∨ b.length < 4 then s else
  let q := s.spdmAnswer b
  (q.1.modSec (fun x => { x with transcript := x.transcript ++ b ++ q.2 })).spdmReturn path q.2

/-- A message of one request code. -/
def State.spdmOf (s : State) (path : SpdmPath) (b : List Byte) (code : Nat) : State := if spCode b = code then s.spdm path b else s

def execGetVersion (path : SpdmPath) (body : List Byte) (s : State) : Host.Outcome State Fault Refusal := .next (s.spdmOf path body 0x84)
def execGetCapabilities (path : SpdmPath) (body : List Byte) (s : State) : Host.Outcome State Fault Refusal := .next (s.spdmOf path body 0xE1)
def execNegotiateAlgorithms (path : SpdmPath) (body : List Byte) (s : State) : Host.Outcome State Fault Refusal := .next (s.spdmOf path body 0xE3)
def execGetDigests (path : SpdmPath) (body : List Byte) (s : State) : Host.Outcome State Fault Refusal := .next (s.spdmOf path body 0x81)
def execGetCertificate (path : SpdmPath) (body : List Byte) (s : State) : Host.Outcome State Fault Refusal := .next (s.spdmOf path body 0x82)
def execChallenge (path : SpdmPath) (body : List Byte) (s : State) : Host.Outcome State Fault Refusal := .next (s.spdmOf path body 0x83)
def execGetMeasurements (path : SpdmPath) (body : List Byte) (s : State) : Host.Outcome State Fault Refusal := .next (s.spdmOf path body 0xE0)

/-- Any code beside the seven of R370. -/
def execSpdmUnsupported (path : SpdmPath) (body : List Byte) (s : State) : Host.Outcome State Fault Refusal :=
  .next (if [0x81, 0x82, 0x83, 0x84, 0xE0, 0xE1, 0xE3].contains (spCode body) then s else s.spdm path body)

/-! ### The Apex mailbox (R371) -/

/-- SEND: the request buffer holds one MCTP message body; types other than 0x05 are dropped. -/
def State.apxSend (s : State) (r : Requester) (len : Nat) : State :=
  let fn := reqFn r
  s.gate r .apxCmd fn fun s =>
    if len < 1 ∨ len > 4096 then s.cmdDone .apxCmd fn 1 2 else
    let body := Sparse.gets zeroByte s.apxReq (fn * 4096) len
    have s : State := (s.cmdDone .apxCmd fn 1 0).sf R.apxStat_READY fn 0
    if body.headD 0 = 0x05 then s.spdm (.mailbox fn) (body.drop 1) else s

def execApxSend (r : Requester) (len : Nat) (s : State) : Host.Outcome State Fault Refusal := .next (s.apxSend r len)

end Sys2Proof.Machine
end

