-- ==== Sys2Proof/Machine/Update.lean ====
section
/-! DEFINITION. Firmware update: download into the slot that is not running, verification, activation as a trial,
confirmation with the rollback floor, cancellation; the board configuration record (spec/18 R412, R413, R420 to R426). -/

namespace Sys2Proof.Machine

/-! ### The slot that is written (R421, R426) -/

/-- The slot that is not running; slot A in recovery mode. -/
def State.targetSlot (s : State) : Nat := if s.boot.phase = 5 then 0 else 1 - s.gf R.bootStat_SLOT 0

/-- Where a slot begins in the SPI NOR bytes. -/
def slotBase (n : Nat) : Nat := n * 0x4000000 + 0x100000

def slotSize : Nat := 0x3000000

/-- Dictionary statuses that the update answers a segment with (spec/17 R395). -/
def dsOk : Nat := 0
def dsRange : Nat := 5
def dsBusy : Nat := 6
def dsSequence : Nat := 7
def dsState : Nat := 0x0B

/-- Results of 0xA001:04. -/
def urState : Nat := 2
def urFormat : Nat := 3
def urPart : Nat := 4
def urAuthority : Nat := 5
def urSignature : Nat := 6
def urHash : Nat := 7
def urRollback : Nat := 8
def urInService : Nat := 9
def urLifecycle : Nat := 10
def urFlash : Nat := 11

/-- Enter an update state: a change sends an UPDATE event about the image in `slot` (R420). -/
def State.setUpd (s : State) (n slot : Nat) : State :=
  if s.dnum 0xA001 3 = n then s else (s.setN 0xA001 3 n).updateEvent slot

/-! ### Download (R421) -/

/-- The session of an image download, if one lives. -/
def State.download (s : State) : Option Session := s.sessions.find? (fun x => x.index == 0xA001 && x.sub == 1)

/-- The download ends without LAST: the slot holds what VERIFY fails. -/
def State.downloadEnd (s : State) : State :=
  State.setUpd { s with sessions := s.sessions.filter (fun x => !(x.index == 0xA001 && x.sub == 1)) } 0 s.targetSlot

/-- Program one segment into the slot; the first one erases it. -/
def State.program (s : State) (off : Nat) (data : List Byte) : State :=
  let t := s.targetSlot
  let nor := if off = 0 then Sparse.erase s.boot.nor (slotBase t) slotSize else s.boot.nor
  s.modBoot (fun b => { b with
    nor := Sparse.blit zeroByte nor (slotBase t + off) data
    good := putBits b.good t t 0
    loaded := off + data.length })

/-- What refuses a segment before it is programmed, or 0: the update state, the place in the session, the slot's size. -/
def State.segmentCode (s : State) (off n : Nat) : Nat :=
  if s.boot.verifying then dsBusy
  else if s.dnum 0xA001 3 ≥ 4 then dsState
  else if off ≠ (if s.download.isSome then s.boot.loaded else 0) then dsSequence
  else if off + n > slotSize then dsRange
  else dsOk

/-- A segment of 0xA001:01; `programmed` is what the flash did. The answer's status. -/
def State.downloadSegment (s : State) (path : DapPath) (off : Nat) (data : List Byte) (last programmed : Bool) : State × Nat :=
  let c := s.segmentCode off data.length
  if c ≠ 0 then (s, c)
  else
    let t := s.targetSlot
    have s : State := s.program off data
    have s : State := { s with
      sessions := s.sessions.filter (fun x => !(x.index == 0xA001 && x.sub == 1)) ++ [⟨path, 0xA001, 1, [], s.mclk⟩] }
    have s : State := s.setUpd 1 t
    if !programmed then ((s.setN 0xA001 4 urFlash).downloadEnd, dsState)
    else if !last then (s, dsOk)
    else if off + data.length < 4096 then (s.downloadEnd, dsRange)
    else (State.setUpd { s with sessions := s.sessions.filter (fun x => !(x.index == 0xA001 && x.sub == 1)) } 2 t, dsOk)

/-! ### Verification (R413, R421) -/

/-- Component `i` of an image: kind, offset, length, digest, and whether its zero word is zero. -/
def State.component (s : State) (slot i : Nat) : Nat × Nat × Nat × List Byte × Bool :=
  let e := s.imageAt slot (32 + 64 * i) 64
  (leNat (e.take 4), leNat ((e.drop 4).take 4), leNat ((e.drop 8).take 4), e.drop 16, isZero ((e.drop 12).take 4))

/-- Whether the header's bytes that no field names are zero: the spare bytes, and the entries beyond NCOMP. -/
def State.spareZero (s : State) (slot n : Nat) : Bool :=
  isZero (s.imageAt slot 25 1) && isZero (s.imageAt slot 30 2) && isZero (s.imageAt slot 1153 7) && isZero (s.imageAt slot 1256 2840) &&
  isZero (s.imageAt slot (32 + 64 * n) (64 * (16 - n))) && (List.range n).all (fun i => (s.component slot i).2.2.2.2)

/-- R413 on the image in a slot, in its order: the first result that applies, or 0. -/
def State.imageCode (s : State) (slot : Nat) : Nat :=
  let at_ := fun (off n : Nat) => leNat (s.imageAt slot off n)
  let n := at_ 6 2
  let comps := (List.range n).map (fun i => s.component slot i)
  let akey := s.imageAt slot 1056 97
  if at_ 0 4 ≠ 0x50465749 ∨ at_ 4 2 ≠ 1 ∨ n < 6 ∨ n > 16 ∨ at_ 24 1 > 64 ∨ !s.spareZero slot n then urFormat
  else if at_ 26 2 ≠ s.gf R.identPart_PART 0 ∨ at_ 28 1 ≠ s.gf R.identPart_BASE_STEP 0 ∨ at_ 29 1 ≠ s.gf R.identPart_METAL_STEP 0 then urPart
  else if !s.boot.authorities.any (fun a => a.1 == sha384 akey && !a.2) then urAuthority
  else if !ecdsaOk akey (s.imageAt slot 0 1160) (s.imageAt slot 1160 96) then urSignature
  else if comps.any (fun c => decide (c.2.1 < 4096) || decide (c.2.1 + c.2.2.1 > slotSize)) then urFormat
  else if comps.any (fun c => sha384 (s.imageAt slot c.2.1 c.2.2.1) != c.2.2.2.1) then urHash
  else if !(List.range 6).all (fun k => (comps.filter (fun c => c.1 == k + 1)).length == 1) then urFormat
  else if at_ 24 1 < s.boot.fuses then urRollback
  else 0

/-- A command is rejected: 0xA001:02 reads 2, with the cause in 0xA001:04. -/
def State.updReject (s : State) (code : Nat) : State := (s.setN 0xA001 4 code).setN 0xA001 2 2

/-- VERIFY. -/
def State.verify (s : State) : State :=
  if s.dnum 0xA001 3 ≠ 0 ∧ s.dnum 0xA001 3 ≠ 2 then s.updReject urState
  else (s.modBoot (fun b => { b with verifying := true })).setN 0xA001 2 1

/-- VERIFY ends. -/
def State.verifyDone (s : State) : State :=
  if !s.boot.verifying then s else
  let t := s.targetSlot
  let c := s.imageCode t
  have s : State := s.modBoot (fun b => { b with verifying := false, good := putBits b.good t t (b2n (c == 0)) })
  have s : State := s.setN 0xA001 4 c
  if c = 0 then (s.setN 0xA001 2 0).setUpd 3 t else (s.setN 0xA001 2 2).setUpd 0 t

def execVerifyDone (s : State) : Host.Outcome State Fault Refusal := .next s.verifyDone

/-! ### Activation, confirmation, cancellation (R422 to R424, R426) -/

/-- A warm reset by the management core's own doing, where one may start. -/
def State.commandReset (s : State) : State := if s.resettable then s.warmReset 2 else s

/-- What refuses ACTIVATE, or 0. -/
def State.activateCode (s : State) : Nat :=
  if s.dnum 0xA001 3 ≠ 3 then urState
  else if s.idValid ∨ !(List.range 16).all (fun p => s.pstate p == 0) then urInService
  else if s.sec.life = 3 then urLifecycle
  else 0

/-- ACTIVATE: the record that the next boot goes by, then a warm reset. -/
def State.activateImage (s : State) : State :=
  let c := s.activateCode
  if c ≠ 0 then s.updReject c
  else
    let t := s.targetSlot
    have s : State := (s.setN 0xA001 4 0).setN 0xA001 2 0
    (if s.boot.phase = 5 then s.putRec (fun r => { r with active := 0, trial := 0 })
     else s.putRec (fun r => { r with trial := 1, tslot := t })).commandReset

/-- CONFIRM: the trial slot becomes ACTIVE; an owed floor increase is recorded, burnt and recorded as done. -/
def State.confirmImage (s : State) : State :=
  if s.dnum 0xA001 3 ≠ 4 then s.updReject urState
  else
    let t := s.boot.recd.tslot
    let svn := min 64 (s.slotSvn t)
    let up := decide (svn > s.boot.fuses)
    have s : State := s.setUpd 5 t
    have s : State := s.putRec (fun r => { r with active := t, trial := 0, burn := up, target := if up then svn else r.target })
    have s : State := if up then
        (s.modBoot (fun b => { b with fuses := svn })).putRec (fun r => { r with burn := false })
      else s
    ((s.setN 0xA001 4 0).setN 0xA001 2 0).setUpd 0 t

/-- CANCEL: in VERIFIED back to IDLE; in TRIAL a warm reset into the previous slot. -/
def State.cancelImage (s : State) : State :=
  if s.dnum 0xA001 3 = 3 then ((s.setN 0xA001 4 0).setN 0xA001 2 0).setUpd 0 s.targetSlot
  else if s.dnum 0xA001 3 = 4 then
    (((s.setN 0xA001 4 0).setN 0xA001 2 0).putRec (fun r => { r with trial := 0 })).commandReset
  else s.updReject urState

/-- A write to 0xA001:02: 1 VERIFY, 2 ACTIVATE, 3 CONFIRM, 4 CANCEL. -/
def State.updateCommand (s : State) (n : Nat) : State :=
  if n = 1 then s.verify else if n = 2 then s.activateImage else if n = 3 then s.confirmImage else s.cancelImage

/-! ### The board configuration record (R412) -/

/-- Write the record to both parts; it takes effect at the next cold reset. -/
def State.writeBoard (s : State) (v : List Byte) : State :=
  s.modBoot (fun b => { b with nor := Sparse.blit zeroByte (Sparse.blit zeroByte b.nor 0 (padTo 4096 v)) 0x4000000 (padTo 4096 v) })

end Sys2Proof.Machine
end

