-- ==== Sys2Proof/Machine/Live.lean ====
section
/-! DEFINITION. Dictionary values that follow the state at the time of reading, and the encoding of every value
(spec/17 R386, R387, R392, R397 and the entry tables of every chapter). -/

namespace Sys2Proof.Machine

/-! ### Encodings (R387) -/

/-- Type code. -/
def DType.code : DType → Nat
  | .bool => 1
  | .u8 => 2
  | .u16 => 3
  | .u32 => 4
  | .u64 => 5
  | .i32 => 6
  | .i64 => 7
  | .f32 => 8
  | .time64 => 9
  | .vstr _ => 10
  | .ostr _ => 11

/-- Bytes of a value; of a string the most it may have. -/
def DType.size : DType → Nat
  | .bool => 1
  | .u8 => 1
  | .u16 => 2
  | .u32 => 4
  | .u64 => 8
  | .i32 => 4
  | .i64 => 8
  | .f32 => 4
  | .time64 => 8
  | .vstr n => n
  | .ostr n => n

def DType.isString : DType → Bool
  | .vstr _ => true
  | .ostr _ => true
  | _ => false

/-- Class code (R394). -/
def DClass.code : DClass → Nat
  | .ro => 0
  | .rw => 1
  | .rwp => 2
  | .rwl => 3
  | .wo => 4
  | .cmd => 5

/-! ### Identity and shape (spec/00, spec/01, spec/02) -/

/-- The Facet enable map by physical place. -/
def State.facetMap (s : State) : List Byte :=
  natLE 32 (((List.range 256).map (fun n => if s.part.ld ∧ n % 16 = s.part.disCol then 0 else 2 ^ n)).foldl (· + ·) 0)

/-- "PYZ-7216-LC-B1" or "PYZ-7216-LD-B1". -/
def State.orderingCode (s : State) : List Byte :=
  [0x50, 0x59, 0x5A, 0x2D, 0x37, 0x32, 0x31, 0x36, 0x2D, 0x4C, if s.part.ld then 0x44 else 0x43, 0x2D, 0x42, 0x31]

/-- VERSION, SVN and the valid flag of each slot (spec/18, 0xA000:04). -/
def State.slotImages (s : State) : List Byte :=
  [0, 1].flatMap (fun n => s.imageAt n 8 16 ++ natLE 1 (s.slotSvn n) ++ natLE 1 (b2n (s.slotValid n)))

/-- Least over the enabled engines. -/
def State.leastEngine (s : State) (f : Nat → Nat) : Nat :=
  match (List.range s.engineCount).map f with
  | [] => 0
  | h :: t => t.foldl min h

/-- Key-value frames of engine `e`'s pools. -/
def State.poolFrames (s : State) (e : Nat) : Nat :=
  ((s.parts.map (fun x => (x.2.kvPool.filter (fun f => f / 8192 == e)).length))).foldl (· + ·) 0

def State.poolFree (s : State) (e : Nat) : Nat := ((s.parts.map (fun x => (s.kvFreeFrames x.1 e).length))).foldl (· + ·) 0

/-- Radix nodes left in the fullest of the partitions' pools. -/
def State.radixFree (s : State) : Nat :=
  ((List.range 16).map (fun p => 65536 - (s.radix.filter (fun n => n.part == p)).length)).foldl min 65536

/-- The board record as it is stored: the valid copy, part 0 first (spec/18 R412). -/
def State.boardRecord (s : State) : List Byte :=
  match [0, 1].find? (fun p => (boardItems (s.boardCopy p)).isSome) with
  | some p => (s.boardCopy p).take (12 + 12 * leNat (((s.boardCopy p).drop 6).take 2))
  | none => []

/-- Nanoseconds left of a time that began at `t0` and lasts `d`, by the management island's clock. -/
def State.leftOf (s : State) (t0 d : Nat) : Nat := t0 + d - s.mclk

/-- Nanoseconds of an output's soft-start ramp (spec/19 R436). -/
def rampTime (k : Nat) : Nat := if k < 16 then 1000000 else if k < 32 then 500000 else 4000000

def State.rego (s : State) (k : Nat) : Rego := (s.pins.rego.find? (fun x => x.k == k)).getD ⟨k, 0, 0, 0, false⟩

/-- The state of an output: one that has ramped up is on. -/
def State.regoShown (s : State) (k : Nat) : Nat :=
  let x := s.rego k
  if x.state = 1 ∧ s.mclk ≥ x.at_ + rampTime k then 2 else x.state

/-! ### Entries that follow the state -/

def State.liveShape (s : State) (index sub : Nat) : Option DVal :=
  match index, sub with
  | 0x1000, 1 => some (.oct s.orderingCode)
  | 0x1000, 3 => some (.num s.facetCount)
  | 0x1000, 4 => some (.oct s.facetMap)
  | 0x1000, 5 => some (.num (if s.part.ld then 255 - 2 ^ s.part.disStack else 255))
  | 0x1000, 6 => some (.num s.carafeSize)
  | 0x1000, 7 => some (.num (if s.idValid then s.pkg else 0xFFFF))
  | 0x1000, 8 => some (.num (2 ^ s.stackCount - 1))
  | 0x1000, 9 => some (.num (s.setpoint * 1000))
  | 0x1010, 4 => some (.num (if s.part.ld then 3 else 2))
  | 0x1012, 4 => some (.num (s.arcUnits.filter (fun u => !s.arcValid u)).length)
  | 0x1013, 1 => some (.num s.engineCount)
  | _, _ => none

def State.livePower (s : State) (index sub : Nat) : Option DVal :=
  match index, sub with
  | 0x2002, 2 => some (.num (match s.power.lease with
      | some l => s.leftOf l.2 60000000000 / 1000000
      | none => 0))
  | 0x2004, 2 => some (.oct (s.power.factors.flatMap (fun k => natLE 2 (k / 65536))))
  | 0x2004, 5 => some (.oct ((List.range 34).map (fun k => BitVec.ofNat 8 (s.regoShown k))))
  | 0x3000, 1 => some (.oct (natLE 4 (s.rd .thmStat 0).toNat))
  | 0x9000, 3 => some (.oct ((List.range 16).flatMap (fun i => natLE 2 (Config.ringOscillator s.time i))))
  | _, _ => none

def State.liveData (s : State) (index sub : Nat) : Option DVal :=
  match index, sub with
  | 0x4005, 1 => some (.num (s.gf R.fmfStat_TLOCK 0))
  | 0x4006, 1 => some (.num s.inboxBase)
  | 0x4010, 5 => some (.oct (natBE 6 (s.part.eui + 34)))
  | 0x5010, 3 => some (.num s.ptFree)
  | 0x5020, 1 => some (.num (apertureBase - s.urnPool))
  | 0x5060, 1 => some (.num (s.leastEngine s.poolFrames))
  | 0x5060, 2 => some (.num (s.leastEngine s.poolFree))
  | 0x5060, 3 => some (.num s.kvPages.length)
  | 0x5061, 4 => some (.num (s.ranges.filter (fun r => !r.published && !r.ended)).length)
  | 0x6008, p + 1 => if p < 16 then some (.num (s.meanL p)) else none
  | 0x6091, 1 => some (.num (s.radix.filter (fun n => n.pfx != 0)).length)
  | 0x6091, 3 => some (.num s.radixFree)
  | 0x8021, 9 => some (.num (if s.shadowsOn then s.shadowUsed else 0))
  | _, _ => none

def State.liveSecure (s : State) (index sub : Nat) : Option DVal :=
  match index, sub with
  | 0x7000, 1 => some (.num s.sec.life)
  | 0x7000, 3 => some (.oct devId)
  | 0x7000, 5 => some (.oct Config.identityRequest)
  | 0x7010, 1 => some (.oct (s.sec.slots.flatMap (padTo 48)))
  | 0xA000, 2 => some (.num (s.gf R.bootStat_SLOT 0))
  | 0xA000, 3 => some (.num (s.boot.bootSel * 256 + s.boot.node))
  | 0xA000, 4 => some (.oct s.slotImages)
  | 0xA000, 6 => some (.num s.boot.fuses)
  | 0xA002, 1 => some (.oct s.boardRecord)
  | 0xB000, 1 => some (.num s.sec.level)
  | 0xB000, 3 => some (.oct (s.sec.nonce.getD (zeros 48)))
  | 0xB000, 6 => some (.oct (match s.sec.password with
      | some (_, salt) => salt
      | none => zeros 32))
  | 0xB000, 8 => some (.num (if s.sec.locked then (s.leftOf s.sec.lockedAt (s.sec.wait * 1000000000) + 999999999) / 1000000000 else 0))
  | 0xB000, 9 => some (.num (if s.sec.level = 0 then 0 else (s.leftOf s.sec.openedAt (s.sec.duration * 1000000000) + 999999999) / 1000000000))
  | _, _ => none

/-- The records of LIST, in ascending order: index, subindex, type code (R386, R394). -/
def listRecords : List (Nat × Nat × Nat) :=
  ((allEntries.map DEntry.index).eraseDups).flatMap (fun i =>
    (i, 0, 2) :: (allEntries.filter (fun e => e.index == i)).flatMap (fun e =>
      (List.range (e.hi + 1 - e.lo)).map (fun k => (i, e.lo + k, e.typ.code))))

/-- The present value of an entry that has one beside what is stored. -/
def State.live (s : State) (index sub : Nat) : Option DVal :=
  if sub = 0 then (highestSub index).map DVal.num
  else if index = 0x1001 ∧ sub = 3 then some (.num listRecords.length)
  else (((s.liveShape index sub).orElse (fun _ => s.livePower index sub)).orElse (fun _ => s.liveData index sub)).orElse
    (fun _ => s.liveSecure index sub)

/-- Bring an entry up to date, so that its tag advances if it has changed. -/
def State.refresh (s : State) (index sub : Nat) : State :=
  match s.live index sub with
  | some v => s.setD index sub v
  | none => s

/-! ### Reading (R387, R397; spec/14 R339) -/

/-- The row of an entry, subindex 0 included. -/
def rowOf (index sub : Nat) : Option DEntry :=
  if sub = 0 then (highestSub index).map (fun h => ⟨index, 0, 0, .u8, .ro, false, false, .num h, []⟩) else entryOf index sub

/-- The newest valid dump: the Urn's, or the newest copy in Hopper; without the UDS their key is gone (spec/16 R365). -/
def State.newestDump (s : State) : Option (List Host.Cell) :=
  if !s.sec.uds then none
  else if s.dumpValid then some (Sparse.slice s.mem dumpBase dumpSize) else s.dumps.getLast?.map Prod.snd

/-- A part of an entry's value and whether bytes remain beyond it. A CMD entry reads its status, in one byte where it takes
octets. -/
def State.segment (s : State) (e : DEntry) (sub off n : Nat) : List Byte × Bool :=
  if e.index = 0x8024 ∧ sub = 1 then
    match s.newestDump with
    | some d => (Sparse.gets zeroByte d off (min n (dumpSize - off)), decide (off + n < dumpSize))
    | none => ([], false)
  else
    let v := match s.dval e.index sub with
      | .num k => natLE (if e.typ.isString then 1 else e.typ.size) k
      | .oct l => l
    ((v.drop off).take n, decide (off + n < v.length))

def State.tagOf (s : State) (index sub : Nat) : Nat := Sparse.get (fun _ => 0) s.tags (dkey index sub)

end Sys2Proof.Machine
end

