-- ==== Sys2Proof/Machine/Dict.lean ====
section
/-! DEFINITION. The Dictionary Access Protocol: availability, access checks, reads, segmented writes, persistence, the actions
of CMD entries, LIST, DESCRIBE, responses (spec/17 R386 to R398, R402, R404, R406). -/

namespace Sys2Proof.Machine

/-! ### Statuses (R395) -/

def dsNoEntry : Nat := 1
def dsAccess : Nat := 2
def dsDenied : Nat := 3
def dsType : Nat := 4
def dsChanged : Nat := 8
def dsLocked : Nat := 9
def dsBadFrame : Nat := 0x0A

/-! ### Availability (R406; spec/18 R426) -/

/-- Whether the path is answered at all. -/
def State.dapServed (s : State) (path : DapPath) : Bool :=
  match path with
  | .mgmt _ => s.boot.phase == 1 || s.boot.phase == 3 || s.boot.phase == 4 || s.boot.phase == 5
  | .mailbox fn => (s.boot.phase == 1 || s.boot.phase == 3 || s.boot.phase == 4 || (s.boot.phase == 5 && fn == 0)) && !s.linkOff
  | .mctp _ => (s.boot.phase == 1 || s.boot.phase == 3 || s.boot.phase == 4) && !s.linkOff

/-- Entries that the ROM loader serves in recovery mode. -/
def recoveryEntry (index sub : Nat) : Bool :=
  index == 0x1000 || index == 0x1001 || (index == 0x7000 && sub == 1) || (index == 0x7010 && sub == 1) ||
  (decide (0xA000 ≤ index) && decide (index ≤ 0xA003))

/-- Whether an entry may be written in the present state of the device. -/
def State.writable (s : State) (index sub : Nat) : Bool :=
  let persistent := match entryOf index sub with
    | some e => e.cls == .rwp || e.cls == .rwl
    | none => false
  (s.boot.phase != 5 || recoveryEntry index sub) &&
  (s.power.sleep != 3 || persistent || (decide (0x2000 ≤ index) && decide (index ≤ 0x2006)) || index == 0x7000 || index == 0x7010 ||
    index == 0xB000 || index == 0x1001 || (decide (0x4010 ≤ index) && decide (index ≤ 0x4012))) &&
  (!s.fatalNow || (decide (0x2000 ≤ index) && decide (index ≤ 0x2006)) || index == 0x8024 || index == 0xB000)

/-- RO entries whose source is powered off in S3: all but those of the management and Apex islands (DEDUCED, unsafe; log entry 67). -/
def poweredOff (index : Nat) : Bool :=
  (decide (0x1010 ≤ index) && decide (index ≤ 0x1014)) || (decide (0x4000 ≤ index) && decide (index ≤ 0x4006)) ||
  (decide (0x5000 ≤ index) && decide (index ≤ 0x6FFF)) || (decide (0x8010 ≤ index) && decide (index ≤ 0x8022))

/-- Whether a read of an entry is marked STALE. -/
def State.staleRead (s : State) (e : DEntry) : Bool := s.power.sleep == 3 && e.cls == .ro && poweredOff e.index

/-! ### Access by path (R388) -/

/-- Whether a virtual function's mailbox may read an entry. -/
def vfReads (fn index sub : Nat) : Bool :=
  (decide (0x1000 ≤ index) && decide (index ≤ 0x1FFF)) ||
  ([0x6002, 0x6003, 0x6004, 0x6008, 0x6111, 0x8022].contains index && sub == vfPart fn + 1)

def pathReads (path : DapPath) (index sub : Nat) : Bool :=
  match path with
  | .mailbox fn => fn == 0 || vfReads fn index sub
  | _ => true

def State.pathWrites (s : State) (path : DapPath) : Bool :=
  match path with
  | .mgmt node => bit (leNat (s.doct 0x4011 1)) node
  | .mctp _ => true
  | .mailbox fn => fn == 0

/-! ### Values (R387 and the Range columns and descriptions of the entries) -/

/-- Whether a value has the length of its type. -/
def typeOk (e : DEntry) (v : List Byte) : Bool :=
  match e.typ with
  | .vstr n => decide (v.length ≤ n)
  | .ostr n => if e.isVar then decide (1 ≤ v.length) && decide (v.length ≤ n) else v.length == n
  | t => v.length == t.size

/-- What the descriptions of octet entries demand. -/
def octetsOk (index sub : Nat) (v : List Byte) : Bool :=
  match index, sub with
  | 0x5020, 3 => (v.map BitVec.toNat).foldl (· + ·) 0 == 100 && decide (octs v 0 1 ≥ 10)
  | 0x4003, 1 => v.all (fun b => decide (b.toNat ≤ 2))
  | 0x2004, 1 => v.all (fun b => decide (b.toNat < 128))
  | 0x7010, 2 => decide (9 ≤ octs v 0 1) && decide (octs v 0 1 ≤ 15)
  | 0xA002, 1 => (boardItems v).isSome
  | 0x4002, _ => isZero (v.drop 8)
  | 0x6021, _ => isZero (v.drop 22)
  | _, _ => true

/-- Whether a value lies in its range. No entry that can be written is signed, F32 or a VSTRING. -/
def rangeOk (e : DEntry) (sub : Nat) (v : List Byte) : Bool :=
  if e.typ.isString then octetsOk e.index sub v
  else e.range.isEmpty || e.range.any (fun r => decide (r.1 ≤ leNat v) && decide (leNat v ≤ r.2))

def dvalOf (e : DEntry) (v : List Byte) : DVal := if e.typ.isString then .oct v else .num (leNat v)

/-! ### Persistence (R390, R391) -/

def DEntry.persistent (e : DEntry) : Bool := e.cls == .rwp || e.cls == .rwl

/-- Commits of the last second. -/
def State.recentCommits (s : State) : List Nat := s.commits.filter (fun t => decide (s.mclk < t + 1000000000))

/-- Commit a persistent value before the answer. -/
def State.commitValue (s : State) (index sub : Nat) (v : DVal) : State :=
  (State.bump { s with commits := s.recentCommits ++ [s.mclk] } 0x8050 4).journalPut index sub v |>.setN 0x1001 5 0

/-- What an entry's Default column gives now: the strap, the board record, the parameter page, or the number it prints. -/
def State.defaultOf (s : State) (k : Nat) : DVal :=
  if k = dkey 0x4010 1 then .num s.boot.node
  else if k = dkey 0x5040 5 then .num s.flash.nand.cycles
  else dictDefault k

/-- Entries that RESTORE_DEFAULTS does not commit: those whose default the boot finds anew; and the certificate chain and the
board record, which only manufacturing and its own entry write. -/
def bootDefault (k : Nat) : Bool := k == dkey 0x4010 1 || k == dkey 0x2004 1 || k == dkey 0x5040 5
def ownStore (k : Nat) : Bool := k == dkey 0x7000 4 || k == dkey 0xA002 1

/-- The persistent entries that a restore reaches. -/
def State.restored (s : State) : List Nat :=
  ((allEntries.filter (fun e => e.cls == .rwp || (e.cls == .rwl && decide (s.sec.life < 2)))).flatMap (fun e =>
    (List.range (e.hi + 1 - e.lo)).map (fun i => dkey e.index (e.lo + i)))).filter (fun k => !ownStore k)

/-- 0x1001:04: every RWP entry, and every RWL entry unless field-locked, returns to its default. -/
def State.restoreDefaults (s : State) : State :=
  if s.idValid ∨ (List.range 16).any (fun p => s.pstate p == 1) then s.setN 0x1001 4 2
  else
    have s : State := s.restored.foldl (fun (t : State) k =>
      have t : State := t.setD (k / 256) (k % 256) (t.defaultOf k)
      if bootDefault k then t.modBoot (fun b => { b with journal := b.journal.filter (fun x => x.1 != k) })
      else t.journalPut (k / 256) (k % 256) (t.defaultOf k)) s
    (s.takeBoard.setN 0x1001 4 0).recap

/-! ### CMD entries -/

/-- Clear a published prefix from the nodes that end it (spec/06 R167). -/
def State.withdraw (s : State) (id : Nat) : State :=
  if s.radix.any (fun n => n.pfx == id) then
    State.setN { s with radix := s.radix.map (fun n => if n.pfx = id then { n with pfx := 0 } else n) } 0x6091 2 0
  else s.setN 0x6091 2 1

/-- A tenant's salt is to be replaced at the next step boundary (spec/06 R162). -/
def State.renewSalt (s : State) (tenant : Nat) : State :=
  State.setN { s with saltDue := s.saltDue.filter (· != tenant) ++ [tenant] } 0x6090 3 0

/-- CLOSE by 0xB000:05. -/
def State.closeEntry (s : State) : State :=
  if s.sec.opening.isSome then s.setN 0xB000 5 dcBusy else (s.setN 0xB000 5 0).closeLevel

/-- SETPW by 0xB000:07. -/
def State.setpwEntry (s : State) (c : List Byte) : State :=
  let q := s.setPassword c
  q.1.setN 0xB000 7 q.2

/-- What a write to a CMD entry starts, or checks; `found` is what an ADOPT reads of the peers. -/
def State.act (s : State) (path : DapPath) (index sub : Nat) (v : List Byte) (found : AdoptView) : State :=
  let n := leNat v
  match index, sub with
  | 0x1001, 4 => s.restoreDefaults
  | 0x2001, 1 => if n = 0 then s.wake path else s.enterSleep n
  | 0x2002, 1 => s.grantLease path n
  | 0x4000, 1 => s.assignIdentity n
  | 0x6090, 3 => s.renewSalt n
  | 0x6091, 2 => s.withdraw n
  | 0x7000, 2 => s.lifecycle v
  | 0x7010, 2 => s.extendSlot v
  | 0x8012, 5 => s.arcSelfTest n
  | 0x8020, 1 => s.teardown v
  | 0x8020, 2 => s.adoptOrPark v found
  | 0x8020, 3 => s.faultResume n
  | 0x8024, 2 => if n = 1 then s.dumpWrite else s.dumpInvalidate
  | 0x9001, 2 => s.replanNow
  | 0xA000, 1 => s.commandReset
  | 0xA001, 2 => s.updateCommand n
  | 0xB000, 2 => s.makeNonce.setN 0xB000 2 0
  | 0xB000, 4 => s.openEntry v
  | 0xB000, 5 => s.closeEntry
  | 0xB000, 7 => s.setpwEntry v
  | _, _ => s

/-- Whether a CMD entry's action is busy (R392). -/
def State.cmdBusy (s : State) (index sub : Nat) : Bool :=
  if index = 0xB000 then sub == 4 && s.sec.opening.isSome
  else s.dnum index sub == 1 &&
    [(0x1001, 4), (0x2001, 1), (0x7000, 2), (0x8012, 5), (0x8020, 1), (0x8020, 2), (0x8020, 3), (0x8024, 2), (0x9001, 2), (0xA001, 2)].contains (index, sub)

/-! ### WRITE (R395 to R398) -/

/-- Checks 2 to 7 of a write: the first status that applies, or 0. -/
def State.writeCode (s : State) (path : DapPath) (bcast : Bool) (index sub : Nat) : Nat :=
  if !s.writable index sub then dsState
  else match rowOf index sub with
    | none => dsNoEntry
    | some e =>
      if bcast ∨ !s.pathWrites path then dsDenied
      else if e.cls = .ro then dsAccess
      else if (e.cls = .rwl ∧ s.sec.life ≥ 2) ∨ (index = 0x7000 ∧ sub = 4 ∧ s.sec.life ≠ 0) then dsLocked
      else if (e.persistent ∧ s.recentCommits.length ≥ 16) ∨ (e.cls = .cmd ∧ s.cmdBusy index sub) ∨
        s.sessions.any (fun x => x.index == index && x.sub == sub && decide (x.path ≠ path)) then dsBusy
      else 0

/-- Store a whole value that has passed the checks; what a CMD entry does follows its answer. -/
def State.store (s : State) (e : DEntry) (sub : Nat) (v : List Byte) : State :=
  if e.cls = .cmd then s
  else if e.index = 0xA002 then s.writeBoard v
  else
    have s : State := s.setD e.index sub (dvalOf e v)
    -- a newly named shadow peer holds no stripe yet (spec/14 R319)
    have s : State := if e.index = 0x8021 ∧ sub ≤ 8 then s.forgetPeer (sub - 1) else s
    have s : State := if e.persistent then s.commitValue e.index sub (dvalOf e v) else s
    if (0x2000 ≤ e.index ∧ e.index ≤ 0x2006) ∨ e.index = 0x3001 then s.recap else s

/-- Bytes that the requester's session of an entry has brought. -/
def State.sessionData (s : State) (index sub : Nat) : List Byte :=
  match s.sessions.find? (fun x => x.index == index && x.sub == sub) with
  | some x => x.data
  | none => []

def State.dropSession (s : State) (index sub : Nat) : State :=
  { s with sessions := s.sessions.filter (fun x => !(x.index == index && x.sub == sub)) }

/-- Whether a Mosaic shadow region of `g` GiB leaves an Urn tier pool that holds every frame now mapped or retained (spec/07 R191). -/
def State.shadowFits (s : State) (g : Nat) : Bool :=
  decide (((s.usedIn 1).map Prod.snd).foldl (· + ·) 0 + shadowBase + g * 2 ^ 30 ≤ apertureBase)

/-- A segment of a write: the state, the status, and the value that a CMD entry is to act on. `programmed` is what the flash did
with a segment of an image. -/
def State.writeSeg (s : State) (path : DapPath) (bcast : Bool) (index sub off : Nat) (data : List Byte) (last programmed : Bool) :
    State × Nat × Option (List Byte) :=
  let c := s.writeCode path bcast index sub
  if c ≠ 0 then (s, c, none)
  else if index = 0xA001 ∧ sub = 1 then
    let r := s.downloadSegment path off data last programmed
    (r.1, r.2, none)
  else match rowOf index sub with
    | none => (s, dsNoEntry, none)
    | some e =>
      let old := s.sessionData index sub
      if off ≠ old.length then (s, dsSequence, none)
      else
        have s : State := s.dropSession index sub
        let v := old ++ data
        if !last then ({ s with sessions := s.sessions ++ [⟨path, index, sub, v, s.mclk⟩] }, 0, none)
        else if !typeOk e v then (s, dsType, none)
        else if !rangeOk e sub v then (s, dsRange, none)
        -- the status of this refusal is the model's choice (log entry 99)
        else if index = 0x5020 ∧ sub = 2 ∧ !s.shadowFits (leNat v) then
          (s.report (source 0xA 0) (unstatedCode 13) 1 none (leNat v), dsRange, none)
        else (s.store e sub v, 0, if e.cls = .cmd then some v else none)

/-! ### Responses (R393, R396, R404) -/

/-- The 24-byte header and payload of a message. -/
def dapBytes (kind tid svc flags index sub status offset vtag : Nat) (payload : List Byte) : List Byte :=
  natLE 1 1 ++ natLE 1 (1 + 16 * kind) ++ zeros 2 ++ natLE 2 tid ++ natLE 1 svc ++ natLE 1 flags ++ natLE 2 index ++ natLE 1 sub ++
  natLE 1 status ++ natLE 4 offset ++ natLE 4 vtag ++ natLE 2 payload.length ++ zeros 2 ++ payload

/-- Write bytes into a function's response buffer, word by word. -/
def State.mailReturn (s : State) (fn : Nat) (bs : List Byte) : State :=
  have s : State := (List.range 262).foldl (fun (t : State) k =>
    t.wr .dictRsp (fn * 262 + k) (BitVec.ofNat 32 (leNat ((bs.drop (4 * k)).take 4)))) s
  (s.sf R.dictStat_READY fn 1).sf R.dictStat_RLEN fn bs.length

/-- Send a response on the path of its request. -/
def State.deliver (s : State) (o : Output) : State :=
  match o with
  | .dap (.mailbox fn) tid svc index sub status offset vtag more stale payload =>
    s.mailReturn fn (dapBytes 1 tid svc (2 * b2n more + 4 * b2n stale) index sub status offset vtag payload)
  | o => s.emit o

/-- Answer a request: refusals are counted. -/
def State.answer (s : State) (path : DapPath) (tid svc index sub status offset vtag : Nat) (more stale : Bool) (payload : List Byte) : State :=
  have s : State := if status = 0 then s else s.bump 0x8050 1
  s.deliver (.dap path tid svc index sub status offset vtag more stale payload)

/-- Keep the answer among the requester's last eight. -/
def State.keepAnswer (s : State) (q : DapReq) (svc : Nat) (o : Output) : State :=
  let mine := s.answers.filter (fun a => decide (a.path = q.path))
  let others := s.answers.filter (fun a => decide (a.path ≠ q.path))
  { s with answers := others ++ mine.drop (mine.length - 7) ++ [⟨q.path, q.tid, svc, q.index, q.sub, q.offset, o⟩] }

/-- Answer a request and keep the answer. -/
def State.reply (s : State) (q : DapReq) (svc status vtag : Nat) (more stale : Bool) (payload : List Byte) : State :=
  (s.keepAnswer q svc (.dap q.path q.tid svc q.index q.sub status q.offset vtag more stale payload)).answer
    q.path q.tid svc q.index q.sub status q.offset vtag more stale payload

/-- A request that repeats one of the last eight is answered from the copy; one on a path that is not served is not answered. -/
def State.serve (s : State) (q : DapReq) (svc : Nat) (k : State → State) : State :=
  if !s.dapServed q.path then s
  else match s.answers.find? (fun a => decide (a.path = q.path) && a.tid == q.tid && a.svc == svc && a.index == q.index &&
      a.sub == q.sub && a.offset == q.offset) with
    | some a => s.deliver a.out
    | none => k s

/-- Check 1 of R395, and the STATE of services that name no entry. -/
def frameCode (q : DapReq) (named : Bool) : Nat :=
  if q.bad ∨ q.len > 1024 ∨ (!named ∧ (q.index ≠ 0 ∨ q.sub ≠ 0)) then dsBadFrame else 0

/-! ### Events for a mailbox (R404) -/

def evPayload (e : Ev) : List Byte := natLE 8 e.time ++ natLE 4 e.seq ++ natLE 1 e.cls ++ zeros 3 ++ padTo 32 e.detail

/-- EVTPEND follows the queue. -/
def State.showPend (s : State) (fn : Nat) : State :=
  s.sf R.dictStat_EVTPEND fn (b2n (s.subs.any (fun u => decide (u.path = .mailbox fn) && !u.queue.isEmpty)))

/-- The oldest queued event is returned as a KIND 2 message, which acknowledges it; none waits: NO_ENTRY. -/
def State.fetchEvent (s : State) (fn : Nat) : State :=
  match s.subs.find? (fun u => decide (u.path = .mailbox fn)) with
  | none => s.answer (.mailbox fn) 0 1 0 0 dsNoEntry 0 0 false false []
  | some u =>
    match u.queue with
    | [] => s.answer (.mailbox fn) 0 1 0 0 dsNoEntry 0 0 false false []
    | e :: t =>
      have s : State := { s with subs := s.subs.map (fun v => if v.path = .mailbox fn then { v with queue := t } else v) }
      (s.mailReturn fn (dapBytes 2 0 0 (8 * b2n e.lost) 0 0 0 e.seq 0 (evPayload e))).showPend fn

def State.eventFetch (s : State) (fn : Nat) : State :=
  if fn ≤ 16 ∧ s.dapServed (.mailbox fn) then s.fetchEvent fn else s

def execEventFetch (fn : Nat) (s : State) : Host.Outcome State Fault Refusal := .next (s.eventFetch fn)

/-! ### READ (R397) -/

/-- Checks of a read up to the sequence: the first status that applies, or 0. -/
def State.readCode (s : State) (q : DapReq) : Nat :=
  if frameCode q true ≠ 0 then dsBadFrame
  else if s.boot.phase = 5 ∧ !recoveryEntry q.index q.sub then dsState
  else match rowOf q.index q.sub with
    | none => dsNoEntry
    | some e =>
      if !pathReads q.path q.index q.sub ∨ (q.bcast ∧ !(decide (0x1000 ≤ q.index) && decide (q.index ≤ 0x1FFF))) then dsDenied
      else if e.cls = .wo then dsAccess
      else if q.index = 0x7000 ∧ q.sub = 5 ∧ s.sec.life ≠ 0 then dsLocked
      else 0

def State.readEntry (s : State) (q : DapReq) : State :=
  let c := s.readCode q
  if c ≠ 0 then s.reply q 1 c 0 false false []
  else match rowOf q.index q.sub with
    | none => s.reply q 1 dsNoEntry 0 false false []
    | some e =>
      let stale := s.staleRead e
      have s : State := if stale then s else s.refresh q.index q.sub
      let tag := s.tagOf q.index q.sub
      if q.offset > 0 ∧ q.vtag ≠ tag then s.reply q 1 dsChanged tag false stale []
      else
        let r := s.segment e q.sub q.offset (if q.len = 0 then 1024 else q.len)
        s.reply q 1 0 tag r.2 stale r.1

def State.dapRead (s : State) (q : DapReq) : State :=
  match q.path with
  | .mailbox fn => if q.index = 0 ∧ q.sub = 0 then s.eventFetch fn else s.serve q 1 fun s => s.readEntry q
  | _ => s.serve q 1 fun s => s.readEntry q

def execDapRead (q : DapReq) (s : State) : Host.Outcome State Fault Refusal := .next (s.dapRead q)

/-! ### WRITE -/

/-- An adopting spare's view where the command does not bring one: the peers cannot be read. -/
def noView : AdoptView := ⟨false, false, 0, []⟩

def State.dapWrite (s : State) (q : DapReq) : State :=
  s.serve q 2 fun s =>
    if frameCode q true ≠ 0 ∨ q.len ≠ q.payload.length then s.reply q 2 dsBadFrame 0 false false []
    else
      let r := s.writeSeg q.path q.bcast q.index q.sub q.offset q.payload q.last true
      have s : State := r.1.reply q 2 r.2.1 (r.1.tagOf q.index q.sub) false false []
      match r.2.2 with
      | some v => s.act q.path q.index q.sub v noView
      | none => s

def execDapWrite (q : DapReq) (s : State) : Host.Outcome State Fault Refusal := .next (s.dapWrite q)

/-- A write that a row of its own names: one value, its answer, and the action of a CMD entry. -/
def State.writeEntry (s : State) (path : DapPath) (index sub off : Nat) (v : List Byte) (last programmed : Bool) (found : AdoptView) : State :=
  if !s.dapServed path then s else
  let r := s.writeSeg path false index sub off v last programmed
  have s : State := r.1.answer path 0 2 index sub r.2.1 off (r.1.tagOf index sub) false false []
  match r.2.2 with
  | some w => s.act path index sub w found
  | none => s

/-! ### LIST, DESCRIBE, ABORT (R394, R398) -/

/-- Records from the OFFSET-th on, as many as a payload holds. -/
def State.dapList (s : State) (q : DapReq) : State :=
  s.serve q 3 fun s =>
    if frameCode q false ≠ 0 then s.reply q 3 dsBadFrame 0 false false []
    else if q.bcast then s.reply q 3 dsDenied 0 false false []
    else
      let rest := listRecords.drop q.offset
      s.reply q 3 0 0 (decide (rest.length > 256)) false ((rest.take 256).flatMap (fun x => natLE 2 x.1 ++ natLE 1 x.2.1 ++ natLE 1 x.2.2))

def execList (q : DapReq) (s : State) : Host.Outcome State Fault Refusal := .next (s.dapList q)

/-- Least and greatest value of an integer entry, as I64. -/
def DEntry.limits (e : DEntry) : Nat × Nat :=
  let bits := 8 * e.typ.size
  match e.typ with
  | .u8 | .u16 | .u32 | .u64 =>
    match e.range with
    | [] => (0, 2 ^ bits - 1)
    | h :: t => (t.foldl (fun m r => min m r.1) h.1, t.foldl (fun m r => max m r.2) h.2)
  | .i32 | .i64 => (ofSigned 64 (-(2 ^ (bits - 1) : Nat)), 2 ^ (bits - 1) - 1)
  | _ => (0, 0)

def State.dapDescribe (s : State) (q : DapReq) : State :=
  s.serve q 4 fun s =>
    if frameCode q true ≠ 0 then s.reply q 4 dsBadFrame 0 false false []
    else if s.boot.phase = 5 ∧ !recoveryEntry q.index q.sub then s.reply q 4 dsState 0 false false []
    else match rowOf q.index q.sub with
      | none => s.reply q 4 dsNoEntry 0 false false []
      | some e =>
        if q.bcast then s.reply q 4 dsDenied 0 false false []
        else s.reply q 4 0 (s.tagOf q.index q.sub) false false
          (natLE 1 e.typ.code ++ natLE 1 e.cls.code ++ natLE 1 (b2n e.isVar + 2 * b2n e.atWarm) ++ zeros 1 ++ natLE 4 e.typ.size ++
            natLE 8 e.limits.1 ++ natLE 8 e.limits.2)

def execDescribe (q : DapReq) (s : State) : Host.Outcome State Fault Refusal := .next (s.dapDescribe q)

/-- End a session without a commit. -/
def State.endSession (s : State) (x : Session) : State :=
  if x.index = 0xA001 ∧ x.sub = 1 then s.downloadEnd else s.dropSession x.index x.sub

def State.dapAbort (s : State) (q : DapReq) : State :=
  s.serve q 7 fun s =>
    if frameCode q true ≠ 0 then s.reply q 7 dsBadFrame 0 false false []
    else if !s.writable q.index q.sub then s.reply q 7 dsState 0 false false []
    else if (rowOf q.index q.sub).isNone then s.reply q 7 dsNoEntry 0 false false []
    else if q.bcast ∨ !s.pathWrites q.path then s.reply q 7 dsDenied 0 false false []
    else
      have s : State := match s.sessions.find? (fun x => x.index == q.index && x.sub == q.sub && decide (x.path = q.path)) with
        | some x => s.endSession x
        | none => s
      s.reply q 7 0 0 false false []

def execDapAbort (q : DapReq) (s : State) : Host.Outcome State Fault Refusal := .next (s.dapAbort q)

/-- A session idle beyond 0x4011:02 ends. -/
def State.sessionTimeout (s : State) (i : Nat) : State :=
  match s.sessions[i]? with
  | some x => (s.untilM (x.at_ + s.dnum 0x4011 2 * 1000000)).endSession x
  | none => s

def execSegmentIdleTimeout (idx : Nat) (s : State) : Host.Outcome State Fault Refusal := .next (s.sessionTimeout idx)

end Sys2Proof.Machine
end

