-- ==== Sys2Proof/Machine/Events.lean ====
section
/-! DEFINITION. Subscriptions and events, the dictionary mailbox, MCTP control, the fabric inbox, program images
(spec/17 R399 to R405; spec/00 R1). -/

namespace Sys2Proof.Machine

/-! ### Subscribers (R399) -/

/-- Watch records of a SUBSCRIBE: index, subindex, whether the zero byte is zero. -/
def watchRecords (payload : List Byte) : List (Nat × Nat × Bool) :=
  (List.range ((payload.length - 4) / 4)).map (fun i =>
    (octs payload (4 + 4 * i) 2, octs payload (6 + 4 * i) 1, octs payload (7 + 4 * i) 1 == 0))

/-- What refuses a SUBSCRIBE, or 0. -/
def State.subscribeCode (s : State) (q : DapReq) : Nat :=
  let ws := watchRecords q.payload
  let vf := match q.path with
    | .mailbox fn => fn != 0
    | _ => false
  if frameCode q false ≠ 0 ∨ q.len ≠ q.payload.length ∨ ws.any (fun w => !w.2.2) then dsBadFrame
  else if ws.any (fun w => (rowOf w.1 w.2.1).isNone) then dsNoEntry
  else if q.bcast || (vf && octs q.payload 0 4 / 4 != 0) then dsDenied
  else if s.subs.length ≥ 16 ∧ !s.subs.any (fun u => decide (u.path = q.path)) then dsBusy
  else if q.payload.length < 4 ∨ q.payload.length % 4 ≠ 0 ∨ ws.length > 8 then dsType
  else 0

/-- A requester already present replaces its mask and watches. -/
def State.setSubscriber (s : State) (path : DapPath) (mask : Nat) (watches : List (Nat × Nat × Nat)) : State :=
  if s.subs.any (fun u => decide (u.path = path)) then
    { s with subs := s.subs.map (fun u => if u.path = path then { u with mask := mask, watches := watches } else u) }
  else { s with subs := s.subs ++ [⟨path, mask, watches, 0, [], false⟩] }

def State.subscribe (s : State) (q : DapReq) : State :=
  s.serve q 5 fun s =>
    let c := s.subscribeCode q
    if c ≠ 0 then s.reply q 5 c 0 false false []
    else
      let ws := watchRecords q.payload
      have s : State := ws.foldl (fun (t : State) w => t.refresh w.1 w.2.1) s
      (s.setSubscriber q.path (octs q.payload 0 4) (ws.map (fun w => (w.1, w.2.1, s.tagOf w.1 w.2.1)))).reply q 5 0 0 false false []

def execSubscribe (q : DapReq) (s : State) : Host.Outcome State Fault Refusal := .next (s.subscribe q)

def State.unsubscribe (s : State) (q : DapReq) : State :=
  s.serve q 6 fun s =>
    if frameCode q false ≠ 0 then s.reply q 6 dsBadFrame 0 false false []
    else if q.bcast then s.reply q 6 dsDenied 0 false false []
    else
      have s : State := { s with subs := s.subs.filter (fun u => decide (u.path ≠ q.path)) }
      have s : State := match q.path with
        | .mailbox fn => s.showPend fn
        | _ => s
      s.reply q 6 0 0 false false []

def execUnsubscribe (q : DapReq) (s : State) : Host.Outcome State Fault Refusal := .next (s.unsubscribe q)

/-! ### Acknowledgement and retransmission (R400) -/

/-- Put a subscriber's queue in its place and send what its window of four now admits. -/
def State.setQueue (s : State) (path : DapPath) (q : List Ev) : State :=
  match path with
  | .mailbox fn =>
    State.showPend { s with subs := s.subs.map (fun u => if u.path = path then { u with queue := q } else u) } fn
  | _ =>
    let r := sendQueue q 4
    { s with
      subs := s.subs.map (fun u => if u.path = path then { u with queue := r.1 } else u)
      out := s.out ++ r.2.map (fun e => .event path e) }

def State.queueOf (s : State) (path : DapPath) : List Ev :=
  match s.subs.find? (fun u => decide (u.path = path)) with
  | some u => u.queue
  | none => []

/-- An acknowledgement of an event that has been sent. -/
def State.eventAck (s : State) (path : DapPath) (seq : Nat) : State :=
  if !s.dapServed path then s
  else s.setQueue path ((s.queueOf path).filter (fun e => !(e.sent && e.seq == seq)))

def execEventAck (path : DapPath) (seq : Nat) (s : State) : Host.Outcome State Fault Refusal := .next (s.eventAck path seq)

/-- 20 ms without an acknowledgement: what is outstanding is sent again, up to five times, then abandoned. -/
def State.eventRetransmit (s : State) (path : DapPath) : State :=
  match path with
  | .mailbox _ => s
  | _ =>
    if !s.dapServed path then s else
    let q := s.queueOf path
    let due := q.filter (fun e => e.sent && decide (e.tries < 5))
    let lost := q.filter (fun e => e.sent && decide (5 ≤ e.tries))
    have s : State := s.emits (due.map (fun e => .event path e))
    have s : State := s.bumpBy 0x8050 3 lost.length
    s.setQueue path ((q.filter (fun e => !(e.sent && decide (5 ≤ e.tries)))).map (fun e => if e.sent then { e with tries := e.tries + 1 } else e))

def execEventRetransmit (path : DapPath) (s : State) : Host.Outcome State Fault Refusal := .next (s.eventRetransmit path)

/-! ### Watches (R399, R400) -/

/-- A watched entry whose tag has advanced: its latest value is queued. -/
def State.watchOne (s : State) (path : DapPath) (w : Nat × Nat × Nat) : State :=
  match rowOf w.1 w.2.1 with
  | none => s
  | some e =>
    have s : State := s.refresh w.1 w.2.1
    let tag := s.tagOf w.1 w.2.1
    if tag = w.2.2 ∨ e.cls = .wo then s
    else
      let v := (s.segment e w.2.1 0 28).1
      have s : State := { s with subs := s.subs.map (fun u =>
        if u.path = path then { u with watches := u.watches.map (fun x => if x.1 = w.1 ∧ x.2.1 = w.2.1 then (x.1, x.2.1, tag) else x) } else u) }
      match s.subs.find? (fun u => decide (u.path = path)) with
      | none => s
      | some u =>
        let r := u.push 7 s.time (padTo 32 (natLE 2 w.1 ++ natLE 1 w.2.1 ++ natLE 1 v.length ++ v))
        have s : State := { s with subs := s.subs.map (fun x => if x.path = path then r.1 else x), out := s.out ++ r.2.2 }
        have s : State := match path with
          | .mailbox fn => s.showPend fn
          | _ => s
        if r.2.1 then s.bump 0x8050 2 else s

/-- The sample every 100 ms. -/
def State.watchSample (s : State) : State :=
  (s.subs.filter (fun u => bit u.mask 7)).foldl (fun (t : State) u => u.watches.foldl (fun (t : State) w => t.watchOne u.path w) t) s

def execWatchSample (s : State) : Host.Outcome State Fault Refusal := .next s.watchSample

/-! ### The mailbox (R404) -/

/-- A DAP request from the bytes of a message. -/
def dapOfBytes (path : DapPath) (b : List Byte) : DapReq :=
  let len := octs b 20 2
  let svc := octs b 6 1
  { path := path, tid := octs b 4 2, index := octs b 8 2, sub := octs b 10 1, offset := octs b 12 4, vtag := octs b 16 4, len := len,
    last := bit (octs b 7 1) 0, bcast := false,
    bad := octs b 0 1 != 1 || octs b 1 1 % 16 != 1 || octs b 7 1 / 16 != 0 || octs b 22 2 != 0 || (svc != 1 && decide (len + 24 > b.length)),
    payload := (b.drop 24).take len }

/-- Perform the service that a request names. -/
def State.dapService (s : State) (q : DapReq) (svc : Nat) : State :=
  if svc = 1 then s.dapRead q
  else if svc = 2 then s.dapWrite q
  else if svc = 3 then s.dapList q
  else if svc = 4 then s.dapDescribe q
  else if svc = 5 then s.subscribe q
  else if svc = 6 then s.unsubscribe q
  else if svc = 7 then s.dapAbort q
  else s.serve q svc fun s => s.reply q svc dsBadFrame 0 false false []

/-- SEND: the message in DICT_REQ goes to the management core. -/
def State.dictSend (s : State) (r : Requester) (len : Nat) : State :=
  let fn := reqFn r
  s.gate r .dictCmd fn fun s =>
    if len < 24 ∨ len > 1048 ∨ s.gf R.dictCmd_STATUS fn = 1 then s.cmdDone .dictCmd fn 1 2 else
    let b := ((List.range 262).flatMap (fun k => natLE 4 (s.rd .dictReq (fn * 262 + k)).toNat)).take len
    have s : State := (s.cmdDone .dictCmd fn 1 0).sf R.dictStat_READY fn 0
    let kind := octs b 1 1 / 16
    if kind = 0 then s.dapService (dapOfBytes (.mailbox fn) b) (octs b 6 1)
    else if kind = 3 then s.eventAck (.mailbox fn) (octs b 12 4)
    else s

def execDictSend (r : Requester) (len : Nat) (s : State) : Host.Outcome State Fault Refusal := .next (s.dictSend r len)

/-! ### MCTP control (R402, R403; the layouts are DSP0236's, PRESUMED, unsafe; log entry 66) -/

/-- Whether MCTP is served on a carrier: PCIe, or the management port while 0x4012:01 holds an EID. -/
def State.mctpServed (s : State) (pcie : Bool) : Bool :=
  (s.boot.phase == 1 || s.boot.phase == 3 || s.boot.phase == 4) && (if pcie then !s.linkOff else s.dnum 0x4012 1 != 0)

/-- A control response: type 0, the command, its completion code and data. -/
def State.mctpReply (s : State) (pcie : Bool) (cmd code : Nat) (data : List Byte) : State :=
  s.emit (.mctp pcie (natLE 1 0 ++ natLE 1 0 ++ natLE 1 cmd ++ natLE 1 code ++ data))

/-- The device's EID on a carrier. -/
def State.eidOf (s : State) (pcie : Bool) : Nat := if pcie then s.dnum 0x4012 2 else s.dnum 0x4012 1

/-- Set Endpoint ID: the bus owner assigns the PCIe EID; the management port's is the setting 0x4012:01, so it is not taken. -/
def State.setEid (s : State) (pcie : Bool) (eid : Nat) : State :=
  if !s.mctpServed pcie then s
  else if eid < 8 ∨ eid = 255 ∨ eid > 255 then s.mctpReply pcie 1 2 []
  else if pcie then (s.setN 0x4012 2 eid).mctpReply pcie 1 0 (natLE 1 0 ++ natLE 1 eid ++ zeros 1)
  else s.mctpReply pcie 1 0 (natLE 1 0x10 ++ natLE 1 (s.eidOf false) ++ zeros 1)

def execSetEndpointId (pcie : Bool) (eid : Nat) (s : State) : Host.Outcome State Fault Refusal := .next (s.setEid pcie eid)

def execGetEndpointId (pcie : Bool) (s : State) : Host.Outcome State Fault Refusal :=
  .next (if s.mctpServed pcie then s.mctpReply pcie 2 0 (natLE 1 (s.eidOf pcie) ++ zeros 2) else s)

/-- Versions: of the base specification and the control protocol 1.3; of the two message types what the spec leaves open. -/
def State.mctpVersion (s : State) (pcie : Bool) (t : Nat) : State :=
  if !s.mctpServed pcie then s
  else if t = 0 ∨ t = 0xFF then s.mctpReply pcie 4 0 (natLE 1 1 ++ [0xF1, 0xF3, 0xF0, 0])
  else if t = 5 ∨ t = 0x7F then (s.fresh.2).mctpReply pcie 4 0 (natLE 1 1 ++ freeBytes s.fresh.1 4)
  else s.mctpReply pcie 4 0x80 []

def execGetMctpVersionSupport (pcie : Bool) (msgType : Nat) (s : State) : Host.Outcome State Fault Refusal :=
  .next (s.mctpVersion pcie msgType)

def execGetMessageTypeSupport (pcie : Bool) (s : State) : Host.Outcome State Fault Refusal :=
  .next (if s.mctpServed pcie then s.mctpReply pcie 5 0 (natLE 1 2 ++ [0x05, 0x7F]) else s)

/-- The one vendor: the IANA enterprise number of 0x1001:02. -/
def State.mctpVendor (s : State) (pcie : Bool) (selector : Nat) : State :=
  if !s.mctpServed pcie then s
  else if selector ≠ 0 then s.mctpReply pcie 6 2 []
  else s.mctpReply pcie 6 0 (natLE 1 0xFF ++ natLE 1 1 ++ natBE 4 (s.dnum 0x1001 2) ++ zeros 2)

def execGetVendorDefinedMessageSupport (pcie : Bool) (selector : Nat) (s : State) : Host.Outcome State Fault Refusal :=
  .next (s.mctpVendor pcie selector)

/-! ### The fabric inbox (R405) -/

/-- The sequence number last taken from a slot. -/
def State.inboxTaken (s : State) (slot : Nat) : Nat := Sparse.get (fun _ => 0) s.inbox slot

/-- A slot whose sequence number differs from the last one taken. -/
def State.inboxTake (s : State) (slot : Nat) : State :=
  let a := s.inboxBase + slot * 4096
  let seq := leNat (s.readMem a 8)
  if slot ≥ 16 ∨ !s.ready ∨ seq = s.inboxTaken slot then s
  else
    let len := min 4064 (leNat (s.readMem (a + 24) 2))
    let body := s.readMem (a + 32) len
    have s : State := { s with inbox := Sparse.put (fun _ => 0) s.inbox slot seq }
    if body.headD 0 = 0x05 then s.spdm (.inbox slot) (body.drop 1) else s.bump 0x8050 6

def execInboxSlotTake (slot : Nat) (s : State) : Host.Outcome State Fault Refusal := .next (s.inboxTake slot)

/-! ### Program images (spec/00 R1) -/

/-- Whether the shape table has a feature: an entry of 0x1000 to 0x1FFF, with at least the value that the image asks for. -/
def State.hasFeature (s : State) (f : Nat × Nat) : Bool :=
  let i := f.1 / 256
  let sub := f.1 % 256
  decide (0x1000 ≤ i) && decide (i ≤ 0x1FFF) && (rowOf i sub).isSome &&
  (match (s.live i sub).getD (s.dval i sub) with
    | .num n => decide (f.2 ≤ n)
    | .oct l => decide (f.2 ≤ leNat l))

/-- A program image is refused, with a report and no other change, when the part lacks a feature it requires. -/
def State.programImage (s : State) (features : List (Nat × Nat)) : State :=
  match features.find? (fun f => !s.hasFeature f) with
  | some f => s.report (source 0xA 0) (unstatedCode 3) 1 none f.1
  | none => s

def execProgramImageLoad (features : List (Nat × Nat)) (s : State) : Host.Outcome State Fault Refusal := .next (s.programImage features)

end Sys2Proof.Machine
end

