-- ==== Sys2Proof/Machine/DictRows.lean ====
section
/-! DEFINITION. The commands that are writes of one dictionary entry: each is a write by some path with the entry's checks,
answer and effect (spec/17 R388 to R398 and the chapters of the entries). -/

namespace Sys2Proof.Machine

/-- A whole value written to an entry by a path. -/
def State.putEntry (s : State) (path : DapPath) (index sub : Nat) (v : List Byte) : State :=
  s.writeEntry path index sub 0 v true true noView

/-- 0x8012:05 (spec/04 R115). -/
def execArcSelfTest (path : DapPath) (unit : Nat) (s : State) : Host.Outcome State Fault Refusal :=
  .next (s.putEntry path 0x8012 5 (natLE 2 unit))

/-- 0x6091:02 (spec/06 R167). -/
def execWithdrawPrefix (path : DapPath) (id : Nat) (s : State) : Host.Outcome State Fault Refusal :=
  .next (s.putEntry path 0x6091 2 (natLE 2 id))

/-- 0x6090:03 (spec/06 R162). -/
def execSaltRenewal (path : DapPath) (tenant : Nat) (s : State) : Host.Outcome State Fault Refusal :=
  .next (s.putEntry path 0x6090 3 (natLE 2 tenant))

/-- 0x4000:01 with bit 63 clear (spec/13 R288). -/
def execIdentityAssign (path : DapPath) (val : DWord) (s : State) : Host.Outcome State Fault Refusal :=
  .next (s.putEntry path 0x4000 1 (natLE 8 (val.toNat % 2 ^ 63)))

/-- 0x4000:01 with bit 63 set. -/
def execIdentityRelease (path : DapPath) (val : DWord) (s : State) : Host.Outcome State Fault Refusal :=
  .next (s.putEntry path 0x4000 1 (natLE 8 (2 ^ 63 + val.toNat % 2 ^ 63)))

/-- 0x8024:02 (spec/14 R338, R339). -/
def execDumpWriteCommand (path : DapPath) (s : State) : Host.Outcome State Fault Refusal := .next (s.putEntry path 0x8024 2 [1])
def execDumpInvalidate (path : DapPath) (s : State) : Host.Outcome State Fault Refusal := .next (s.putEntry path 0x8024 2 [2])

/-- 0x8020:01 to :03 (spec/14 R326, R329, R332). -/
def execTeardown (path : DapPath) (v : List Byte) (s : State) : Host.Outcome State Fault Refusal := .next (s.putEntry path 0x8020 1 v)

def execAdopt (path : DapPath) (v : List Byte) (found : AdoptView) (s : State) : Host.Outcome State Fault Refusal :=
  .next (s.writeEntry path 0x8020 2 0 v true true found)

def execFaultResume (path : DapPath) (mask : Nat) (s : State) : Host.Outcome State Fault Refusal :=
  .next (s.putEntry path 0x8020 3 (natLE 2 mask))

/-- 0x2002:01 (spec/15 R354). -/
def execCapLease (path : DapPath) (w : Nat) (s : State) : Host.Outcome State Fault Refusal := .next (s.putEntry path 0x2002 1 (natLE 2 w))

/-- 0x2001:01 (spec/15 R351, R352). -/
def execPowerStateActive (path : DapPath) (s : State) : Host.Outcome State Fault Refusal := .next (s.putEntry path 0x2001 1 [0])
def execEnterS1 (path : DapPath) (s : State) : Host.Outcome State Fault Refusal := .next (s.putEntry path 0x2001 1 [1])
def execEnterS2 (path : DapPath) (s : State) : Host.Outcome State Fault Refusal := .next (s.putEntry path 0x2001 1 [2])
def execEnterS3 (path : DapPath) (s : State) : Host.Outcome State Fault Refusal := .next (s.putEntry path 0x2001 1 [3])

/-- 0x9001:02 (spec/15 R360). -/
def execReplanNow (path : DapPath) (s : State) : Host.Outcome State Fault Refusal := .next (s.putEntry path 0x9001 2 [1])

/-- 0x7000:02 with a credential for the state that the row names (spec/16 R363). -/
def State.lifeRow (s : State) (path : DapPath) (target : Nat) (cred : List Byte) : State :=
  if credLevel cred = target then s.putEntry path 0x7000 2 cred else s

def execLifecycleProvision (path : DapPath) (cred : List Byte) (s : State) : Host.Outcome State Fault Refusal := .next (s.lifeRow path 1 cred)
def execFieldLock (path : DapPath) (cred : List Byte) (s : State) : Host.Outcome State Fault Refusal := .next (s.lifeRow path 2 cred)
def execDecommission (path : DapPath) (cred : List Byte) (s : State) : Host.Outcome State Fault Refusal := .next (s.lifeRow path 3 cred)

/-- 0x7010:02 (spec/16 R367). -/
def execExtendCustomerSlot (path : DapPath) (v : List Byte) (s : State) : Host.Outcome State Fault Refusal :=
  .next (s.putEntry path 0x7010 2 v)

/-- 0x1001:04 (spec/17 R391). -/
def execRestoreDefaults (path : DapPath) (s : State) : Host.Outcome State Fault Refusal := .next (s.putEntry path 0x1001 4 [1])

/-- 0xA000:01 (spec/18 R408); 1 is the one value in its range. -/
def execWarmResetCommand (path : DapPath) (v : Nat) (s : State) : Host.Outcome State Fault Refusal :=
  .next (s.putEntry path 0xA000 1 (natLE 1 v))

/-- 0xA001:01 (spec/18 R421). -/
def execImageDownloadSegment (path : DapPath) (off : Nat) (data : List Byte) (last programmed : Bool) (s : State) :
    Host.Outcome State Fault Refusal :=
  .next (s.writeEntry path 0xA001 1 off data last programmed noView)

/-- 0xA001:02 (spec/18 R420 to R424). -/
def execUpdateVerify (path : DapPath) (s : State) : Host.Outcome State Fault Refusal := .next (s.putEntry path 0xA001 2 [1])
def execUpdateActivate (path : DapPath) (s : State) : Host.Outcome State Fault Refusal := .next (s.putEntry path 0xA001 2 [2])
def execUpdateConfirm (path : DapPath) (s : State) : Host.Outcome State Fault Refusal := .next (s.putEntry path 0xA001 2 [3])
def execUpdateCancel (path : DapPath) (s : State) : Host.Outcome State Fault Refusal := .next (s.putEntry path 0xA001 2 [4])

/-- 0xA002:01 (spec/18 R412). -/
def execBoardRecordWrite (path : DapPath) (v : List Byte) (s : State) : Host.Outcome State Fault Refusal :=
  .next (s.putEntry path 0xA002 1 v)

end Sys2Proof.Machine
end

