-- ==== Sys2Proof/Machine/Pins.lean ====
section
/-! DEFINITION. Pins and regulated outputs: sideband functions, input filters with their stuck and storm reports, warnings, the
thermal trip, NAND and laser supplies (spec/19 R430 to R438; spec/15 R350, R355, R357). -/

namespace Sys2Proof.Machine

def State.modPins (s : State) (f : Pins → Pins) : State := { s with pins := f s.pins }

/-! ### Sideband pins (R430 to R432) -/

/-- The function a pin has taken. -/
def State.sbFunc (s : State) (n : Nat) : Nat := Sparse.get (fun _ => 0) s.pins.funcs n

/-- The level that the device drives on a sideband pin; none at high impedance, or released by an open drain. -/
def State.sbDriven (s : State) (n : Nat) : Option Bool :=
  if bit s.pins.floating n then none
  else if n = 0 then (if s.fatalNow then some false else none)
  else if n = 1 then some s.ready
  else match s.sbFunc n with
    | 2 => some (s.gf R.sbCfg_OUT n == 1)
    | 3 => if s.gf R.sbCfg_OUT n = 1 then none else some false
    | 4 => some (bit s.pins.lit n)
    | 5 => if s.forcedMask ≠ 0 then some false else none
    | _ => none

/-- A write of SB_CFGn: values 6 to 15 leave FUNC as it is; the pin goes to high impedance. -/
def State.sbWrite' (s : State) (r : Requester) (n be : Nat) (val : Word) : State :=
  if n < 2 ∨ n > 9 then s.rejectAccess r (0x108000 + 4 * n) true else
  s.gate r .sbCfg n fun s =>
    let old := s.gf R.sbCfg_FUNC n
    have s : State := s.mergeReg .sbCfg n be val
    have s : State := if s.gf R.sbCfg_FUNC n ≥ 6 then s.sf R.sbCfg_FUNC n old else s
    s.modPins (fun x => { x with
      floating := x.floating ||| 2 ^ n, funcs := Sparse.put (fun _ => 0) x.funcs n 0, lit := putBits x.lit n n 0 })

def execSbCfgWrite (r : Requester) (n be : Nat) (val : Word) (s : State) : Host.Outcome State Fault Refusal := .next (s.sbWrite' r n be val)

/-- A pin takes its function; an input filter starts with the deasserted level. -/
def State.sbApply (s : State) (n : Nat) : State :=
  if n > 9 ∨ !bit s.pins.floating n then s else
  have s : State := s.modPins (fun x => { x with floating := putBits x.floating n n 0 })
  if n < 2 then s
  else
    let f := s.gf R.sbCfg_FUNC n
    have s : State := s.modPins (fun x => { x with funcs := Sparse.put (fun _ => 0) x.funcs n f })
    have s : State := if f = 1 then s.sf R.sbCfg_IN n 0 else s
    match s.sbDriven n with
    | some level => s.emit (.pin "SB" n level)
    | none => s

def execSbFunctionApply (n : Nat) (s : State) : Host.Outcome State Fault Refusal := .next (s.sbApply n)

/-- A filtered level change; none is seen while the pin changes its function. -/
def State.sbInput (s : State) (n : Nat) (level : Bool) : State :=
  if n < 2 ∨ n > 9 ∨ bit s.pins.floating n then s else s.sf R.sbCfg_IN n (b2n level)

def execSbInputChange (pin : Nat) (level : Bool) (s : State) : Host.Outcome State Fault Refusal := .next (s.sbInput pin level)

/-- 50 ms without a near-port frame. -/
def State.indicatorOff (s : State) (n : Nat) : State :=
  if !bit s.pins.lit n then s else (s.modPins (fun x => { x with lit := putBits x.lit n n 0 })).emit (.pin "SB" n false)

def execFabricActivityIndicatorExpiry (n : Nat) (s : State) : Host.Outcome State Fault Refusal := .next (s.indicatorOff n)

/-! ### Warning inputs (R433, R434): 0 to 5 VR_ALERTn_N, 6 SHELF_WARN_N, 7 COOL_WARN_N -/

/-- SOURCE of an input's own reports. -/
def inputSource (i : Nat) : Nat := source 0xB (min i 6)

/-- The window of the storm limit in nanoseconds, and the assertions it allows. -/
def stormLimit (i : Nat) : Nat × Nat := if i < 6 then (1000000, 64) else if i = 6 then (10000000, 16) else (100000000, 16)

/-- Count an assertion; beyond the limit the input is held in its safe state. -/
def State.countAssert (s : State) (i : Nat) : State :=
  let w := stormLimit i
  let seen := s.pins.asserts.filter (fun x => x.1 != i || decide (s.mclk < x.2 + w.1)) ++ [(i, s.mclk)]
  if (seen.filter (fun x => x.1 == i)).length ≤ w.2 then s.modPins (fun x => { x with asserts := seen })
  else
    have s : State := s.modPins (fun x => { x with asserts := seen.filter (fun x => x.1 != i), storm := x.storm ||| 2 ^ i })
    (((s.setBit .sbStat 0 (16 + i)).bump 0x8030 7).board (inputSource i) 0x52 i).recap

/-- An input asserts: `k` is its effect, which an input in storm already has. -/
def State.inputAssert (s : State) (i : Nat) (k : State → State) : State :=
  if bit s.pins.raw i then s
  else if bit s.pins.storm i then (s.setRaw i true).recap
  else (k s).countAssert i

def execVrAlertAssert (n : Nat) (railDown : Bool) (s : State) : Host.Outcome State Fault Refusal :=
  .next (if n < 6 then s.inputAssert n (fun s => s.alertAssert n railDown) else s)

def execShelfWarnAssert (s : State) : Host.Outcome State Fault Refusal := .next (s.inputAssert 6 (fun s => s.shelfAssert))
def execCoolWarnAssert (s : State) : Host.Outcome State Fault Refusal := .next (s.inputAssert 7 (fun s => s.coolAssert))

/-- A deasserted input leaves its storm; the holds that follow a deassertion begin now. -/
def State.stormOver (s : State) (i : Nat) : State :=
  if !bit s.pins.storm i ∨ bit s.pins.raw i then s else
  have s : State := s.modPins (fun x => { x with storm := putBits x.storm i i 0 })
  (if i < 6 then s.beginHold (railDomain i) else if i = 6 then s.modPower (fun x => { x with brakeHold := true }) else s).recap

def execStormRelease (i : Nat) (s : State) : Host.Outcome State Fault Refusal := .next (s.stormOver i)

/-- An input has been asserted too long: reported once, its effect stays. -/
def State.stuck (s : State) (i : Nat) : State :=
  if i ≥ 8 ∨ !bit s.pins.raw i then s
  else ((s.setBit .sbStat 0 (8 + i)).bump 0x8030 6).board (inputSource i) 0x51 i

def execInputStuck (i : Nat) (s : State) : Host.Outcome State Fault Refusal := .next (s.stuck i)

/-! ### Regulated outputs (R436 to R438): 0 to 15 NAND_VCC, 16 to 31 NAND_VCCQ, 32 and 33 LASER_VOUT -/

def srcOutputs : Nat := source 0xB 9

def State.setRego (s : State) (x : Rego) : State :=
  s.modPins (fun p => { p with rego := p.rego.filter (fun y => y.k != x.k) ++ [x] })

/-- Whether the input an output is fed from is within tolerance, and nothing keeps the outputs off. -/
def State.fed (s : State) (k : Nat) : Bool :=
  !bit s.pins.low (if k < 32 then 0 else 1) && !s.pins.trip && s.power.sleep != 3 &&
  (s.boot.phase == 1 || s.boot.phase == 2 || s.boot.phase == 3 || s.boot.phase == 4)

/-- Begin a ramp. -/
def State.ramp (s : State) (k restarts : Nat) : State :=
  (s.setRego ⟨k, 1, restarts, s.mclk, false⟩).emit (.pin "REGO" k true)

/-- Turn an output off into a state. -/
def State.regoOff (s : State) (k state : Nat) (due : Bool) : State :=
  (s.setRego ⟨k, state, (s.rego k).restarts, s.mclk, due⟩).emit (.pin "REGO" k false)

/-- NAND_VCCQ starts 100 µs after its NAND_VCC has come into tolerance: the clock goes there. -/
def State.afterVcc (s : State) (k : Nat) : State :=
  if 16 ≤ k ∧ k < 32 then s.untilM ((s.rego (k - 16)).at_ + 1100000) else s

/-- Whether NAND_VCC of a NAND_VCCQ runs, or will before the ramp. -/
def State.vccRuns (s : State) (k : Nat) : Bool := !(decide (16 ≤ k) && decide (k < 32)) || (s.rego (k - 16)).state == 1

/-- An output starts. -/
def State.outputStart (s : State) (k : Nat) : State :=
  if k ≥ 34 ∨ (s.rego k).state ≠ 0 ∨ !s.fed k ∨ !s.vccRuns k ∨ (k < 16 ∧ (s.rego (k + 16)).state = 4) then s
  else (s.afterVcc k).ramp k (s.rego k).restarts

def execOutputStart (k : Nat) (s : State) : Host.Outcome State Fault Refusal := .next (s.outputStart k)

/-- The output that a short turns off with it: NAND_VCC with its NAND_VCCQ, and NAND_VCCQ, which is never without it. -/
def partner (k : Nat) : Option Nat := if k < 16 then some (k + 16) else if k < 32 then some (k - 16) else none

/-- What a latched output takes with it: a NAND channel, or four far ports. -/
def State.latchEffect (s : State) (k : Nat) : State :=
  if k < 32 then
    have s : State := s.setBit .regoLatch 0 k
    if s.hopState = 2 ∨ s.hopState = 3 then s.channelRetire (k % 16) [] else s
  else
    have s : State := s.setBit .regoCmd 0 (6 + (k - 32))
    (List.range 4).foldl (fun (t : State) i =>
      let n := 24 + 4 * (k - 32) + i
      if t.gf R.fmfPortStat_STATE n = 4 then t.portDown n else t) s

/-- A short: off, logged, and retried, or latched when its restarts are used up. -/
def State.outputShort (s : State) (k : Nat) : State :=
  if k ≥ 34 ∨ (s.rego k).state ≠ 1 then s
  else
    let again := decide ((s.rego k).restarts < s.dnum 0x2004 3)
    have s : State := match partner k with
      | some q => if (s.rego q).state = 1 then s.regoOff q (if again then 3 else 0) false else s
      | none => s
    have s : State := (s.regoOff k (if again then 3 else 4) false).board srcOutputs 0x61 k
    if again then s else ((s.board srcOutputs 0x62 k).bump 0x8030 8).latchEffect k

def execOutputShort (k : Nat) (s : State) : Host.Outcome State Fault Refusal := .next (s.outputShort k)

/-- The retry interval of 0x2004:04 ends: a new ramp. -/
def State.outputRetry (s : State) (k : Nat) : State :=
  if k ≥ 34 ∨ (s.rego k).state ≠ 3 ∨ !s.fed k ∨ !s.vccRuns k then s
  else ((s.untilM ((s.rego k).at_ + s.dnum 0x2004 4 * 1000000)).afterVcc k).ramp k ((s.rego k).restarts + 1)

def execOutputRetry (k : Nat) (s : State) : Host.Outcome State Fault Refusal := .next (s.outputRetry k)

/-- Clear the mark of a latched output. -/
def State.unlatchRego (s : State) (k : Nat) : State :=
  if k < 32 then s.sf ⟨.regoLatch, k, k⟩ 0 0 else s.sf ⟨.regoCmd, k - 32 + 6, k - 32 + 6⟩ 0 0

/-- Start an output with a new retry count; NAND_VCCQ waits for its NAND_VCC, which starts with it. -/
def State.startAnew (s : State) (k : Nat) : State :=
  if !s.fed k then s.setRego ⟨k, 0, 0, s.mclk, true⟩
  else if s.vccRuns k then (s.afterVcc k).ramp k 0
  else
    have s : State := s.setRego ⟨k, 0, 0, s.mclk, false⟩
    if (s.rego (k - 16)).state = 0 then s.ramp (k - 16) (s.rego (k - 16)).restarts else s

/-- REGO_CMD RETRY: rejected in a ramp or a retry wait, and for numbers of no output; an output that is on stays so. -/
def State.retry (s : State) (r : Requester) (k : Nat) : State :=
  s.gate r .regoCmd 0 fun s =>
    let st := s.regoShown k
    if k ≥ 34 ∨ st = 1 ∨ st = 3 then s.cmdDone .regoCmd 0 1 2
    else if st = 2 then s.cmdDone .regoCmd 0 1 0
    else ((s.unlatchRego k).cmdDone .regoCmd 0 1 0).startAnew k

def execRetry (r : Requester) (k : Nat) (s : State) : Host.Outcome State Fault Refusal := .next (s.retry r k)

/-- Outputs fed from VAUX, or from VLAS_IN. -/
def fedFrom (vlas : Bool) : List Nat := if vlas then [32, 33] else List.range 32

/-- A low input turns its outputs off without counting a short. -/
def State.supplyDroop (s : State) (vlas : Bool) : State :=
  have s : State := s.modPins (fun x => { x with low := putBits x.low (b2n vlas) (b2n vlas) 1 })
  (fedFrom vlas).foldl (fun (t : State) k => if (t.rego k).state = 1 then t.regoOff k 0 true else t) s

def execSupplyDroop (vlas : Bool) (s : State) : Host.Outcome State Fault Refusal := .next (s.supplyDroop vlas)

/-- The input is back: its outputs restart with a new ramp, NAND_VCCQ once its NAND_VCC is in tolerance. -/
def State.supplyRecovered (s : State) (vlas : Bool) : State :=
  if !bit s.pins.low (b2n vlas) then s else
  have s : State := s.modPins (fun x => { x with low := putBits x.low (b2n vlas) (b2n vlas) 0 })
  (fedFrom vlas).foldl (fun (t : State) k =>
    if (t.rego k).due ∧ t.fed k ∧ !(16 ≤ k ∧ k < 32) then t.ramp k (t.rego k).restarts else t) s

def execSupplyRecovered (vlas : Bool) (s : State) : Host.Outcome State Fault Refusal := .next (s.supplyRecovered vlas)

/-! ### Thermal trip (spec/15 R357) -/

/-- A comparator fires: fatal, THERMTRIP_N until cold reset, every output off. -/
def State.thermalTrip (s : State) : State :=
  have s : State := (s.fatal srcSensors (unstatedCode 4) 0).outputsOff
  (s.modPins (fun x => { x with trip := true })).emit (.pin "THERMTRIP_N" 0 false)

def execThermalTrip (s : State) : Host.Outcome State Fault Refusal := .next s.thermalTrip

end Sys2Proof.Machine
end

