-- ==== Sys2Proof/Machine/Bus.lean ====
section
/-! DEFINITION. Accesses of the host through BAR0 and of the management core through its window: which addresses are
served, what a read returns, what a write does, and the shadows of the atomic pairs (spec/01 R21 to R28). -/

namespace Sys2Proof.Machine

/-! ### Which register lies at an address (R21) -/

/-- The logical column of a physical one; none for the disabled column. -/
def State.logCol (s : State) (c : Nat) : Option Nat :=
  if s.part.ld then (if c = s.part.disCol then none else some (if c > s.part.disCol then c - 1 else c)) else some c

/-- The Facet whose block an address lies in, and the offset in the block. -/
def State.facetBlock (s : State) (a : Nat) : Option (Nat × Nat) :=
  if a < 0x01000000 ∨ a ≥ 0x02000000 then none else
  let d := a / 0x800000 - 2
  let pos := a % 0x800000 / 0x1000
  if pos ≥ 128 then none else
  match s.logCol (pos % 16) with
  | none => none
  | some c => some ((d * 8 + pos / 16) * s.cols + c, a % 0x1000)

/-- Whether an address lies in a block of an LD part's disabled column. -/
def State.deadBlock (s : State) (a : Nat) : Bool :=
  decide (0x01000000 ≤ a) && decide (a < 0x02000000) && decide (a % 0x800000 / 0x1000 < 128) &&
  (s.logCol (a % 0x800000 / 0x1000 % 16)).isNone

/-- The instance of a card that an address would name. -/
def State.candidate (s : State) (r : Requester) (c : Card) (a : Nat) : Nat :=
  let x := cardInfo c
  let inner := fun (off : Nat) => if x.s2 = 0 then 0 else (off - x.base) / x.s2 % x.n2
  match x.place with
  | .at st => let k := if st = 0 then 0 else (a - x.base) / st
      k * x.n2 + inner (a - k * st)
  | .facet => match s.facetBlock a with
      | some (f, off) => f * x.n2 + inner off
      | none => 0
  | .stack => (a - 0x02000000) / 0x40000
  | .engine => (a - 0x02000000) / 0x40000 * 4 + (a % 0x40000 / 0x8000 - 1)
  | .func => reqFn r * x.n2 + inner a

/-- The register at a 4-byte aligned address, as a requester sees BAR0. -/
def State.locate (s : State) (r : Requester) (a : Nat) : Option (Card × Nat) :=
  (allCards.find? (fun c => let i := s.candidate r c a
    s.exists_ c i && s.cardAddr c i == a)).map (fun c => (c, s.candidate r c a))

/-- Whether an address that no register card defines lies where the requester may go (R21, R22; spec/11, 12, 14, 16). A virtual
function's own mailbox instance is 0x100000 to 0x107FFF (DESIGN CHOICE, unsafe; log entry 101). -/
def State.areaOk (s : State) (r : Requester) (a : Nat) (write : Bool) : Bool :=
  if s.deadBlock a then true else
  match r with
  | .vf n =>
    let p := vfPart n
    if a < 0x00100000 then !write
    else if a < 0x00108000 then true
    else if 0x00300000 ≤ a ∧ a < 0x00400000 then true
    else if 0x00800000 ≤ a ∧ a < 0x00801000 then true
    else if 0x00810000 ≤ a ∧ a < 0x00890000 then
      let k := (a - 0x00810000) / 0x80
      decide (s.pstate p ≠ 0) && decide ((s.prt p).tbase ≤ k) && decide (k < (s.prt p).tbase + (s.prt p).tcount)
    else if 0x00A00000 ≤ a ∧ a < 0x00A10000 then (a - 0x00A00000) / 0x1000 == p
    else if 0x00C00000 ≤ a ∧ a < 0x00C10000 then (a - 0x00C00000) / 0x1000 == p
    else if 0x01000000 ≤ a ∧ a < 0x02000000 then
      match s.facetBlock a with
      | some (f, _) => s.facetIn p f
      | none => false
    else if 0x02000000 ≤ a ∧ a < 0x02200000 then
      decide (a % 0x40000 / 0x8000 ≥ 1) && decide (a % 0x40000 / 0x8000 ≤ 4) &&
        s.engineIn p ((a - 0x02000000) / 0x40000 * 4 + (a % 0x40000 / 0x8000 - 1))
    else decide (0x02C00000 ≤ a) && decide (a < 0x02E00000)
  | _ => decide (a < 0x03000000)

/-- Whether an address is served before READY (spec/18 R416). -/
def earlyAddr (a : Nat) : Bool := decide (a < 0x00108000) || (decide (0x02C00000 ≤ a) && decide (a < 0x02E00000))

/-! ### What a read returns -/

/-- The 16 words of a ticket slot's entry (spec/11 R241). -/
def Ticket.words (t : Ticket) : List Nat :=
  [t.gen * 2 ^ 48 + t.part * 2 ^ 44 + t.state * 2 ^ 41 + t.prio * 2 ^ 38 + t.cls * 2 ^ 34 + t.bucket * 2 ^ 31 + t.reason * 2 ^ 23 +
     t.modelgen * 2 ^ 15 + b2n t.bounds * 2 ^ 14 + b2n t.cancel * 2 ^ 13 + b2n t.retain * 2 ^ 12 + b2n t.publish * 2 ^ 11 +
     b2n t.avalid * 2 ^ 10 + t.aslot * 4 + t.path,
   t.plen + t.glen * 2 ^ 32, t.maxgen + t.mtch * 2 ^ 32, t.deadline, t.ttl + t.admseq * 2 ^ 32, t.eststart, t.kvroot, t.reqid,
   t.tenant + t.prefixid * 2 ^ 16 + t.entrypkg * 2 ^ 32 + t.func * 2 ^ 48, t.laststep]

/-- 32 bits of a table of 64-bit words. -/
def wordOf (ws : List Nat) (k : Nat) : Word := BitVec.ofNat 32 (ws.getD (k / 2) 0 / 2 ^ (32 * (k % 2)))

/-- What an address with no register card holds: the error log's entries (spec/14 R312, R317), the ticket entries, the Apex
mailbox's buffers; zero elsewhere (R22). -/
def State.windowRead (s : State) (r : Requester) (a : Nat) : Word :=
  if 0x00301000 ≤ a ∧ a < 0x00309000 then
    let e := s.logAt ((a - 0x00301000) / 32)
    let seen := match reqPart r with
      | none => true
      | some p => e.partv && e.part == p
    if seen then BitVec.ofNat 32 (leNat ((e.bytes.drop (a % 32)).take 4)) else 0
  else if 0x00810000 ≤ a ∧ a < 0x00890000 then wordOf (s.ticket ((a - 0x00810000) / 0x80)).words (a % 0x80 / 4)
  else if 0x02C01000 ≤ a ∧ a < 0x02C02000 then
    BitVec.ofNat 32 (leNat (Sparse.gets zeroByte s.apxReq (reqFn r * 4096 + a % 4096) 4))
  else if 0x02C02000 ≤ a ∧ a < 0x02C03000 then
    BitVec.ofNat 32 (leNat (Sparse.gets zeroByte s.apxRsp (reqFn r * 4096 + a % 4096) 4))
  else 0

/-- A register as a read sees it. -/
def State.shown (s : State) (r : Requester) (c : Card) (i : Nat) : Word :=
  let vf := (reqPart r).isSome
  let w := match c with
    | .identPart => s.identPart
    | .fctGccLo => BitVec.ofNat 32 (s.gcc (s.groupOf i))
    | .fctGccHi => BitVec.ofNat 32 (s.gcc (s.groupOf i) / 2 ^ 32)
    | .crfStat => s.rd c i ||| BitVec.ofNat 32 (b2n (i < s.stackCount) * 2 ^ 31 + b2n (i < s.stackCount ∧ s.power.sleep = 2) * 2 ^ 30)
    | .errlogOvfFullLo => if vf then 0 else s.rd c i
    | .errlogOvfFullHi => if vf then 0 else s.rd c i
    | .errlogOvfRateLo => if vf then 0 else s.rd c i
    | .errlogOvfRateHi => if vf then 0 else s.rd c i
    | .errlogPtr => BitVec.ofNat 32 (putBits (s.rd c i).toNat R.errlogPtr_WR.hi R.errlogPtr_WR.lo (s.gf R.errlogPtr_WR 0))
    | _ => s.rd c i
  readMask (cardInfo c).fields w

/-- A 32-bit read: none when it is rejected; RC bits in the bytes returned are cleared. -/
def State.read32 (s : State) (r : Requester) (a be : Nat) : Option Word × State :=
  match s.locate r a with
  | some (c, i) =>
    if !s.mayReach r c i false then (none, s)
    else if s.ready || earlyCard c then
      (some (s.shown r c i &&& byteMask be),
       if accMask (cardInfo c).fields [.rc] = 0 then s else s.wr c i (afterRead (cardInfo c).fields (s.rd c i) (byteMask be)))
    else (some 0, s)
  | none =>
    if !s.areaOk r a false then (none, s)
    else (some (if s.ready || earlyAddr a then s.windowRead r a &&& byteMask be else 0), s)

/-! ### What a write does -/

/-- A write of the two halves of a pair, or of one of them, at one instant: by the rules of the pair's registers. -/
def State.pairWrite (s : State) (r : Requester) (c : Card) (i : Nat) (put : State → State) : State :=
  let part := fun (_ : Unit) => s.partWrite r (i / (cardInfo c).n2) c i put
  match c with
  | .drpRingLo => s.drpRingWrite r i c put
  | .drpRingHi => s.drpRingWrite r i c put
  | .fmfCqRingLo => s.cqWrite r i c put
  | .fmfCqRingHi => s.cqWrite r i c put
  | .pfBaseLo => s.pfWrite r i c put
  | .pfBaseHi => s.pfWrite r i c put
  | .pfCursorLo => s.pfWrite r i c put
  | .pfCursorHi => s.pfWrite r i c put
  | .tktSqBaseLo => s.qcfgWrite r c put
  | .tktSqBaseHi => s.qcfgWrite r c put
  | .tktCqBaseLo => s.qcfgWrite r c put
  | .tktCqBaseHi => s.qcfgWrite r c put
  | .partAmapLo => s.amapWrite r (i / 8) (i % 8) c put
  | .partAmapHi => s.amapWrite r (i / 8) (i % 8) c put
  | .partStepLo => part ()
  | .partStepHi => part ()
  | _ => if decide (0x00A00000 ≤ (cardInfo c).base) && decide ((cardInfo c).base < 0x00A01000) then part () else s.gate r c i put

/-- A command register written with a code that is none of its commands. -/
def State.badCode (s : State) (r : Requester) (c : Card) (i code status res : Nat) : State :=
  s.gate r c i fun s => if res = 0 then s.cmdDone c i code status else s.cmdCode c i code status res

def State.fctCmdWrite (s : State) (r : Requester) (f code entry : Nat) : State :=
  match code with
  | 0 => s
  | 1 => s.fctStart r f entry
  | 2 => s.fctCmd r f 2 fun s => (s.haltFacet f, 0)
  | 3 => s.fctCmd r f 3 fun s => if s.facetIdle f then (s.clearCounters f, 0) else (s, 2)
  | 4 => s.imemLoad r f entry
  | _ => s.badCode r .fctCmd f code 3 0

/-- The next state of a command whose meaning is that of a row. -/
def afterRow (s : State) (o : Host.Outcome State Fault Refusal) : State :=
  match o with
  | .next t => t
  | _ => s

def State.drpCmdWrite (s : State) (r : Requester) (e code : Nat) : State :=
  match code with
  | 0 => s
  | 1 => afterRow s (execDrpStart r e s)
  | 2 => afterRow s (execDrpStop r e s)
  | 3 => afterRow s (execDrpAbort r e s)
  | 4 => afterRow s (execDrpZero r e s)
  | _ => s.badCode r .drpCmd e code 3 0

def State.kvCmdWrite (s : State) (r : Requester) (code : Nat) : State :=
  match code with
  | 0 => s
  | 1 => s.kvFree r
  | 2 => s.kvFreeBelow r
  | 3 => s.kvQuery r
  | _ => s.gate r .kvPgcmd 0 fun s => s.pgReject code 6

def State.trCmdWrite (s : State) (r : Requester) (p code : Nat) : State :=
  if code = 0 then s else if code ≤ 5 then s.trCmd r p code else s.badCode r .trCmd p code 2 (if (s.prt p).trBusy then 9 else 1)

def State.ldrCmdWrite (s : State) (r : Requester) (code v : Nat) : State :=
  match code with
  | 0 => s
  | 1 => s.unwrap r
  | 2 => s.ldrStart r (bits v 15 14)
  | 3 => s.ldrAbort r (bits v 15 14)
  | 4 => s.drop r (bits v 11 8) (bits v 7 0)
  | 5 => s.ldrActivate r (bits v 11 8) (bits v 7 0)
  | 6 => s.adrop r (bits v 11 8) (bits v 7 0)
  | _ => s.ldr r fun s => s.ldrEnd code ldrBadArg

def State.partCmdWrite (s : State) (r : Requester) (p code : Nat) : State :=
  match code with
  | 0 => s
  | 1 => s.form r p
  | 2 => s.partStop r p 2
  | 3 => s.preempt r p
  | 4 => s.partResume r p
  | 5 => s.partStop r p 5
  | _ => s.partGate r p code fun s => (s, 2, pcBadArg)

def State.entCmdWrite (s : State) (r : Requester) (code idx : Nat) : State :=
  match code with
  | 0 => s
  | 1 => afterRow s (execWriteRegion r idx s)
  | 2 => afterRow s (execReadRegion r idx s)
  | 3 => afterRow s (execWriteGrant r idx s)
  | 4 => afterRow s (execReadGrant r idx s)
  | 5 => afterRow s (execWriteGroup r idx s)
  | 6 => afterRow s (execReadGroup r idx s)
  | _ => s.badCode r .fmfEntCmd 0 code 2 0

def State.cqCmdWrite (s : State) (r : Requester) (p code : Nat) : State :=
  match code with
  | 0 => s
  | 1 => afterRow s (execCqStart r p s)
  | 2 => afterRow s (execCqStop r p s)
  | 3 => afterRow s (execCqAbort r p s)
  | _ => s.badCode r .fmfCqCmd p code 2 0

def State.dbgCmdWrite (s : State) (r : Requester) (code : Nat) : State :=
  match code with
  | 0 => s
  | 1 => s.dbgNonce r
  | 2 => s.dbgOpen r
  | 3 => s.dbgClose r
  | 4 => s.setpw r
  | _ => s.dbgCmd r fun s => s.cmdCode .dbgCmd 0 code 2 dcBadArg

/-- A register with one command, 1. -/
def State.oneCmd (s : State) (r : Requester) (c : Card) (i code : Nat) (go : State → State) : State :=
  if code = 0 then s else if code = 1 then go s else s.badCode r c i code 2 0

/-- A write of an allowed register, with the enabled bytes `be`: the rows of the table that act on it, or the merge of R24. -/
def State.cardWrite (s : State) (r : Requester) (c : Card) (i be : Nat) (val : Word) : State :=
  let v := val.toNat
  let code := bits v 31 28
  let fn := reqFn r
  match c with
  | .fctCmd => s.fctCmdWrite r i code (bits v 12 0)
  | .fctMcfg => s.mcfgWrite r i be val
  | .fctSb => s.sbWrite r (i / 64) (i % 64) be val
  | .drpCmd => s.drpCmdWrite r i code
  | .drpRingCfg => s.drpRingWrite r i c (fun s => s.mergeReg c i be val)
  | .drpHead => s.drpRingWrite r i c (fun s => s.mergeReg c i be val)
  | .drpCfg => s.drpCfgWrite r i be val
  | .kvPgcmd => s.kvCmdWrite r code
  | .kvLayout => s.kvLayoutWrite r (i / 256) (i % 256) be val
  | .trCmd => s.trCmdWrite r i code
  | .pfCtl => s.pfCtlWrite r i be val
  | .blmCmd => s.oneCmd r c i code (fun s => s.blmExpand r)
  | .hopCmd =>
    if code = 2 then s.hopScan r else s.oneCmd r c i code (fun s => s.hopFormat r)
  | .ldrCmd => s.ldrCmdWrite r code v
  | .tktQcfg => s.qcfgWrite r c (fun s => s.mergeReg c fn be val)
  | .tktSqTail => s.sqTailWrite r be val
  | .tktCqHead => s.cqHeadWrite r be val
  | .partCmd => s.partCmdWrite r i code
  | .partAmapCtl => s.amapWrite r (i / 8) (i % 8) c (fun s => s.mergeReg c i be val)
  | .fmfPortStat => s.portDownWrite r i be val
  | .fmfEntCmd => s.entCmdWrite r code (bits v 11 0)
  | .fmfCqCmd => s.cqCmdWrite r i code
  | .fmfCqCfg => s.cqWrite r i c (fun s => s.mergeReg c i be val)
  | .fmfCqHead => s.cqWrite r i c (fun s => s.mergeReg c i be val)
  | .errlogPtr => s.errlogRd r be val
  | .apxCmd => s.oneCmd r c i code (fun s => s.apxSend r (bits v 12 0))
  | .dbgCmd => s.dbgCmdWrite r code
  | .dbgBuf => s.gate r c i fun s => s.wr c i (val &&& byteMask be)
  | .dictCmd => s.oneCmd r c i code (fun s => s.dictSend r (bits v 10 0))
  | .sbCfg => s.sbWrite' r i be val
  | .regoCmd => s.oneCmd r c i code (fun s => s.retry r (bits v 5 0))
  | c => s.pairWrite r c i (fun s => s.mergeReg c i be val)

/-- A write where no register card lies: the Apex request buffer; ignored elsewhere (R22). -/
def State.windowWrite (s : State) (r : Requester) (a be : Nat) (val : Word) : State :=
  if 0x02C01000 ≤ a ∧ a < 0x02C02000 then
    let k := reqFn r * 4096 + a % 4096
    let old := BitVec.ofNat 32 (leNat (Sparse.gets zeroByte s.apxReq k 4))
    let m := byteMask be
    { s with apxReq := Sparse.blit zeroByte s.apxReq k (natLE 4 ((old &&& ~~~m) ||| (val &&& m)).toNat) }
  else s

/-- A 32-bit write (R22, R24, R25). -/
def State.write32 (s : State) (r : Requester) (a be : Nat) (val : Word) : State :=
  match s.locate r a with
  | some (c, i) =>
    if !s.mayReach r c i true ∨ ((cardInfo c).w32 ∧ be % 16 ≠ 15) then s.rejectAccess r a true else s.cardWrite r c i be val
  | none =>
    if !s.areaOk r a true then s.rejectAccess r a true
    else if s.ready || earlyAddr a then s.windowWrite r a be val
    else s

/-! ### Shapes and shadows (R23, R26) -/

/-- Whether an access has one of the accepted shapes. -/
def shapeOk (a len be : Nat) : Bool :=
  ((len == 1 || len == 2 || len == 4) && decide (a % 4 + len ≤ 4)) || (len == 8 && a % 8 == 0 && be % 256 == 255)

/-- The enabled bytes of the register that an access of up to 4 bytes touches. -/
def lanes (a len be : Nat) : Nat := (be % 16) &&& ((2 ^ len - 1) * 2 ^ (a % 4))

/-- The pair at an address that the requester may reach. -/
def State.pairAt (s : State) (r : Requester) (a : Nat) (write : Bool) : Option (Card × Card × Card × Nat) :=
  match s.locate r a with
  | none => none
  | some (c, i) =>
    match pairOf c with
    | none => none
    | some q => if s.mayReach r c i write then some (q.1, q.2, c, i) else none

/-- Whether an access reaches the block at all. -/
def State.busOff (s : State) (r : Requester) : Bool := s.boot.phase == 0 || (s.linkOff && decide (r ≠ .mc))

/-- Answer a read. -/
def State.readDone (q : Option Word × State) (r : Requester) (a len : Nat) : State :=
  match q.1 with
  | none => q.2.rejectAccess r a false
  | some w => q.2.emit (.readData r a len w.toNat)

/-- A 4-byte read of a half of an atomic pair: the low half captures the high one, the high half uses what was captured. -/
def State.pairRead (s : State) (r : Requester) (a be : Nat) (lo hi c : Card) (i : Nat) : State :=
  let sh := s.shadowOf r lo i
  have s : State := s.unshadow r lo i
  if c = lo then State.readDone (s.read32 r a be) r a 4 |>.shadow ⟨r, lo, i, false, 15, s.shown r hi i⟩
  else match sh with
    | some x => if x.write then State.readDone (s.read32 r a be) r a 4 else s.emit (.readData r a 4 (x.val &&& byteMask be).toNat)
    | none => State.readDone (s.read32 r a be) r a 4

/-- A read of `len` bytes at `a` with the byte enables `be`. -/
def State.busRead (s : State) (r : Requester) (a len be : Nat) : State :=
  if s.busOff r then s
  else if !shapeOk a len be then s.rejectAccess r a false
  else if len = 8 then
    have s : State := match s.pairAt r a false with
      | some (lo, _, _, i) => s.unshadow r lo i
      | none => s
    let q := s.read32 r a 15
    let q' := q.2.read32 r (a + 4) 15
    match q.1, q'.1 with
    | some x, some y => q'.2.emit (.readData r a 8 (x.toNat + y.toNat * 2 ^ 32))
    | _, _ => q'.2.rejectAccess r a false
  else
    let a4 := a / 4 * 4
    let en := lanes a len be
    match s.pairAt r a4 false with
    | some (lo, hi, c, i) => if len = 4 then s.pairRead r a4 en lo hi c i else State.readDone ((s.unshadow r lo i).read32 r a4 en) r a len
    | none => State.readDone (s.read32 r a4 en) r a len

/-- Both halves of a pair at one instant. -/
def State.pairCommit (s : State) (r : Requester) (lo hi : Card) (i bl : Nat) (vl : Word) (bh : Nat) (vh : Word) : State :=
  s.pairWrite r lo i fun s => (s.mergeReg lo i bl vl).mergeReg hi i bh vh

/-- A write of `len` bytes at `a`; the bytes of `val` stand in the lanes of the register, or of the pair. -/
def State.busWrite (s : State) (r : Requester) (a len be : Nat) (val : DWord) : State :=
  let vl := val.truncate 32
  if s.busOff r then s
  else if !shapeOk a len be then s.rejectAccess r a true
  else if len = 8 then
    let vh := (val >>> 32).truncate 32
    match s.pairAt r a true with
    | some (lo, hi, _, i) => (s.unshadow r lo i).pairCommit r lo hi i 15 vl 15 vh
    | none => (s.write32 r a 15 vl).write32 r (a + 4) 15 vh
  else
    let a4 := a / 4 * 4
    let en := lanes a len be
    match s.pairAt r a4 true with
    | some (lo, hi, c, i) => if len = 4 then s.pairHold r lo hi c i en vl (fun c put t => t.pairWrite r c i put) else (s.unshadow r lo i).write32 r a4 en vl
    | none => s.write32 r a4 en vl

/-! ### The rows -/

def execRegisterWrite (r : Requester) (addr len be : Nat) (val : DWord) (s : State) : Host.Outcome State Fault Refusal :=
  .next (s.busWrite r addr len be val)

def execRcRead (r : Requester) (addr len be : Nat) (s : State) : Host.Outcome State Fault Refusal := .next (s.busRead r addr len be)

def execPairLowRead (r : Requester) (addr : Nat) (s : State) : Host.Outcome State Fault Refusal := .next (s.busRead r addr 4 15)

def execPairHighRead (r : Requester) (addr : Nat) (s : State) : Host.Outcome State Fault Refusal := .next (s.busRead r addr 4 15)

def execPairLowWrite (r : Requester) (addr : Nat) (val : Word) (s : State) : Host.Outcome State Fault Refusal :=
  .next (s.busWrite r addr 4 15 (val.setWidth 64))

def execPairHighWrite (r : Requester) (addr : Nat) (val : Word) (s : State) : Host.Outcome State Fault Refusal :=
  .next (s.busWrite r addr 4 15 (val.setWidth 64))

/-- The length of an access that enables one or two bytes of a register: 1 or 2, from the lowest one on. -/
def narrowAt (addr be : Nat) : Nat × Nat :=
  let lo := if bit be 0 then 0 else if bit be 1 then 1 else if bit be 2 then 2 else 3
  (addr / 4 * 4 + lo, if bit be (lo + 1) ∧ lo < 3 then 2 else 1)

def execPairNarrowAccess (r : Requester) (addr be : Nat) (write : Bool) (val : Word) (s : State) : Host.Outcome State Fault Refusal :=
  let q := narrowAt addr be
  .next (if write then s.busWrite r q.1 q.2 be (val.setWidth 64) else s.busRead r q.1 q.2 be)

end Sys2Proof.Machine
end

