-- ==== Sys2Proof/Machine/Dispatch.lean ====
section
/-! DEFINITION. The meaning of each command: one arm per constructor of `Instr`. -/

namespace Sys2Proof.Machine

def exec (i : Instr) (s : State) : Host.Outcome State Fault Refusal :=
  match i with
  | .programImageLoad features => Sys2Proof.Machine.execProgramImageLoad features s
  | .registerWrite r addr len be val => Sys2Proof.Machine.execRegisterWrite r addr len be val s
  | .pairLowRead r addr => Sys2Proof.Machine.execPairLowRead r addr s
  | .pairHighRead r addr => Sys2Proof.Machine.execPairHighRead r addr s
  | .pairLowWrite r addr val => Sys2Proof.Machine.execPairLowWrite r addr val s
  | .pairHighWrite r addr val => Sys2Proof.Machine.execPairHighWrite r addr val s
  | .pairNarrowAccess r addr be write val => Sys2Proof.Machine.execPairNarrowAccess r addr be write val s
  | .rcRead r addr len be => Sys2Proof.Machine.execRcRead r addr len be s
  | .mlw f => Sys2Proof.Machine.execMlw f s
  | .mma f => Sys2Proof.Machine.execMma f s
  | .mmaRef f => Sys2Proof.Machine.execMmaRef f s
  | .mst f => Sys2Proof.Machine.execMst f s
  | .spmovLinear f => Sys2Proof.Machine.execSpmovLinear f s
  | .spmovStrided f => Sys2Proof.Machine.execSpmovStrided f s
  | .spmovTranspose f => Sys2Proof.Machine.execSpmovTranspose f s
  | .vld f => Sys2Proof.Machine.execVld f s
  | .vst f => Sys2Proof.Machine.execVst f s
  | .add f => Sys2Proof.Machine.execAdd f s
  | .sub f => Sys2Proof.Machine.execSub f s
  | .mul f => Sys2Proof.Machine.execMul f s
  | .fma f => Sys2Proof.Machine.execFma f s
  | .max f => Sys2Proof.Machine.execMax f s
  | .min f => Sys2Proof.Machine.execMin f s
  | .cmp f => Sys2Proof.Machine.execCmp f s
  | .sel f => Sys2Proof.Machine.execSel f s
  | .cvt f => Sys2Proof.Machine.execCvt f s
  | .and f => Sys2Proof.Machine.execAnd f s
  | .or f => Sys2Proof.Machine.execOr f s
  | .xor f => Sys2Proof.Machine.execXor f s
  | .shl f => Sys2Proof.Machine.execShl f s
  | .shr f => Sys2Proof.Machine.execShr f s
  | .rsum f => Sys2Proof.Machine.execRsum f s
  | .rmax f => Sys2Proof.Machine.execRmax f s
  | .arcExp2 f => Sys2Proof.Machine.execArcExp2 f s
  | .arcExp f => Sys2Proof.Machine.execArcExp f s
  | .arcLog2 f => Sys2Proof.Machine.execArcLog2 f s
  | .arcLn f => Sys2Proof.Machine.execArcLn f s
  | .arcRecip f => Sys2Proof.Machine.execArcRecip f s
  | .arcRsqrt f => Sys2Proof.Machine.execArcRsqrt f s
  | .arcSqrt f => Sys2Proof.Machine.execArcSqrt f s
  | .arcTanh f => Sys2Proof.Machine.execArcTanh f s
  | .arcSigmoid f => Sys2Proof.Machine.execArcSigmoid f s
  | .arcGelu f => Sys2Proof.Machine.execArcGelu f s
  | .arcSilu f => Sys2Proof.Machine.execArcSilu f s
  | .arcSin f => Sys2Proof.Machine.execArcSin f s
  | .arcCos f => Sys2Proof.Machine.execArcCos f s
  | .arcSoftmaxStep f => Sys2Proof.Machine.execArcSoftmaxStep f s
  | .arcSoftmaxMaxPass f => Sys2Proof.Machine.execArcSoftmaxMaxPass f s
  | .arcSoftmaxSumPass f => Sys2Proof.Machine.execArcSoftmaxSumPass f s
  | .arcFinalNormalise f => Sys2Proof.Machine.execArcFinalNormalise f s
  | .arcFinalProbabilities f => Sys2Proof.Machine.execArcFinalProbabilities f s
  | .arcFinalRescale f => Sys2Proof.Machine.execArcFinalRescale f s
  | .arcRmsAccumulate f => Sys2Proof.Machine.execArcRmsAccumulate f s
  | .arcRmsApply f => Sys2Proof.Machine.execArcRmsApply f s
  | .arcLayernormAccumulate f => Sys2Proof.Machine.execArcLayernormAccumulate f s
  | .arcLayernormApply f => Sys2Proof.Machine.execArcLayernormApply f s
  | .arcTableLoad unit ok => Sys2Proof.Machine.execArcTableLoad unit ok s
  | .arcTableReload unit ok => Sys2Proof.Machine.execArcTableReload unit ok s
  | .arcSelfTest path unit => Sys2Proof.Machine.execArcSelfTest path unit s
  | .arcSelfTestDone unit ok => Sys2Proof.Machine.execArcSelfTestDone unit ok s
  | .nxfer f => Sys2Proof.Machine.execNxfer f s
  | .nxferSeam f => Sys2Proof.Machine.execNxferSeam f s
  | .seamDelivery lane => Sys2Proof.Machine.execSeamDelivery lane s
  | .seamAck lane => Sys2Proof.Machine.execSeamAck lane s
  | .pour f => Sys2Proof.Machine.execPour f s
  | .pourDescriptorStart f => Sys2Proof.Machine.execPourDescriptorStart f s
  | .pourComplete f idx => Sys2Proof.Machine.execPourComplete f idx s
  | .sbopSet f => Sys2Proof.Machine.execSbopSet f s
  | .sbopAdd f => Sys2Proof.Machine.execSbopAdd f s
  | .sbopClearErr f => Sys2Proof.Machine.execSbopClearErr f s
  | .waitLocal f => Sys2Proof.Machine.execWaitLocal f s
  | .waitGroup f => Sys2Proof.Machine.execWaitGroup f s
  | .waitSatisfied f => Sys2Proof.Machine.execWaitSatisfied f s
  | .groupResume g => Sys2Proof.Machine.execGroupResume g s
  | .loop f => Sys2Proof.Machine.execLoop f s
  | .jmp f => Sys2Proof.Machine.execJmp f s
  | .br f => Sys2Proof.Machine.execBr f s
  | .halt f => Sys2Proof.Machine.execHalt f s
  | .smov f => Sys2Proof.Machine.execSmov f s
  | .sadd f => Sys2Proof.Machine.execSadd f s
  | .srdc f => Sys2Proof.Machine.execSrdc f s
  | .fctStart r f entry => Sys2Proof.Machine.execFctStart r f entry s
  | .fctHalt r f => Sys2Proof.Machine.execFctHalt r f s
  | .clrsb r f => Sys2Proof.Machine.execClrsb r f s
  | .imemLoad r f entry => Sys2Proof.Machine.execImemLoad r f entry s
  | .imemLoadDone f ok => Sys2Proof.Machine.execImemLoadDone f ok s
  | .fctMcfgWrite r f be val => Sys2Proof.Machine.execFctMcfgWrite r f be val s
  | .sbCounterWrite r f n be val => Sys2Proof.Machine.execSbCounterWrite r f n be val s
  | .drpStart r e => Sys2Proof.Machine.execDrpStart r e s
  | .drpStop r e => Sys2Proof.Machine.execDrpStop r e s
  | .drpAbort r e => Sys2Proof.Machine.execDrpAbort r e s
  | .drpZero r e => Sys2Proof.Machine.execDrpZero r e s
  | .drpStopped e => Sys2Proof.Machine.execDrpStopped e s
  | .drpRingWrite r e off be val => Sys2Proof.Machine.execDrpRingWrite r e off be val s
  | .drpCfgWrite r e be val => Sys2Proof.Machine.execDrpCfgWrite r e be val s
  | .ringPoll ring => Sys2Proof.Machine.execRingPoll ring s
  | .descriptorTake ring => Sys2Proof.Machine.execDescriptorTake ring s
  | .dripNop e => Sys2Proof.Machine.execDripNop e s
  | .wpour e => Sys2Proof.Machine.execWpour e s
  | .wpourReturn e => Sys2Proof.Machine.execWpourReturn e s
  | .aload e => Sys2Proof.Machine.execAload e s
  | .astore e => Sys2Proof.Machine.execAstore e s
  | .dripArcExp2 e => Sys2Proof.Machine.execDripArcExp2 e s
  | .dripArcExp e => Sys2Proof.Machine.execDripArcExp e s
  | .dripArcRecip e => Sys2Proof.Machine.execDripArcRecip e s
  | .dripArcRsqrt e => Sys2Proof.Machine.execDripArcRsqrt e s
  | .dripArcSoftmaxStep e => Sys2Proof.Machine.execDripArcSoftmaxStep e s
  | .dripArcSoftmaxFinal e => Sys2Proof.Machine.execDripArcSoftmaxFinal e s
  | .dripArcRmsStats e => Sys2Proof.Machine.execDripArcRmsStats e s
  | .scorePour e => Sys2Proof.Machine.execScorePour e s
  | .valuePour e => Sys2Proof.Machine.execValuePour e s
  | .dripDescriptorComplete e cls => Sys2Proof.Machine.execDripDescriptorComplete e cls s
  | .carafeScrub stack quadrant corrected => Sys2Proof.Machine.execCarafeScrub stack quadrant corrected s
  | .kvFree r => Sys2Proof.Machine.execKvFree r s
  | .kvFreeBelow r => Sys2Proof.Machine.execKvFreeBelow r s
  | .kvQuery r => Sys2Proof.Machine.execKvQuery r s
  | .kvLayoutWrite r p l be val => Sys2Proof.Machine.execKvLayoutWrite r p l be val s
  | .ticketRetireRelease a => Sys2Proof.Machine.execTicketRetireRelease a s
  | .prefixPublish a => Sys2Proof.Machine.execPrefixPublish a s
  | .prefixMatchMap a => Sys2Proof.Machine.execPrefixMatchMap a s
  | .withdrawPrefix path id => Sys2Proof.Machine.execWithdrawPrefix path id s
  | .saltRenewal path tenant => Sys2Proof.Machine.execSaltRenewal path tenant s
  | .retainedRangeExpiry id => Sys2Proof.Machine.execRetainedRangeExpiry id s
  | .retainedRangeDemotion id => Sys2Proof.Machine.execRetainedRangeDemotion id s
  | .trMap r p => Sys2Proof.Machine.execTrMap r p s
  | .trUnmap r p => Sys2Proof.Machine.execTrUnmap r p s
  | .trMigrate r p => Sys2Proof.Machine.execTrMigrate r p s
  | .trHint r p => Sys2Proof.Machine.execTrHint r p s
  | .trQuery r p => Sys2Proof.Machine.execTrQuery r p s
  | .migrateComplete p => Sys2Proof.Machine.execMigrateComplete p s
  | .pagePromotion p va => Sys2Proof.Machine.execPagePromotion p va s
  | .promotionComplete p va rungs => Sys2Proof.Machine.execPromotionComplete p va rungs s
  | .pageDemotion p va => Sys2Proof.Machine.execPageDemotion p va s
  | .demotionComplete p va ok => Sys2Proof.Machine.execDemotionComplete p va ok s
  | .holdTimeout idx => Sys2Proof.Machine.execHoldTimeout idx s
  | .cursorPoll p => Sys2Proof.Machine.execCursorPoll p s
  | .stageComplete p idx rungs => Sys2Proof.Machine.execStageComplete p idx rungs s
  | .pfCtlWrite r p be val => Sys2Proof.Machine.execPfCtlWrite r p be val s
  | .pfAddressWrite r p off be val => Sys2Proof.Machine.execPfAddressWrite r p off be val s
  | .blmExpand r => Sys2Proof.Machine.execBlmExpand r s
  | .blmExpandDone => Sys2Proof.Machine.execBlmExpandDone s
  | .hopFormat r => Sys2Proof.Machine.execHopFormat r s
  | .formatDone => Sys2Proof.Machine.execFormatDone s
  | .hopperMount nand => Sys2Proof.Machine.execHopperMount nand s
  | .hopScan r => Sys2Proof.Machine.execHopScan r s
  | .scanInterval blk rung corrected => Sys2Proof.Machine.execScanInterval blk rung corrected s
  | .readDisturbRelocate blk => Sys2Proof.Machine.execReadDisturbRelocate blk s
  | .wearLevelMove die => Sys2Proof.Machine.execWearLevelMove die s
  | .collection blk => Sys2Proof.Machine.execCollection blk s
  | .unitMoveCommit unit => Sys2Proof.Machine.execUnitMoveCommit unit s
  | .programFailure blk => Sys2Proof.Machine.execProgramFailure blk s
  | .channelRetire ch => Sys2Proof.Machine.execChannelRetire ch s
  | .unwrap r => Sys2Proof.Machine.execUnwrap r s
  | .ldrStart r job => Sys2Proof.Machine.execLdrStart r job s
  | .ldrAbort r job => Sys2Proof.Machine.execLdrAbort r job s
  | .drop r p gen => Sys2Proof.Machine.execDrop r p gen s
  | .ldrActivate r p gen => Sys2Proof.Machine.execLdrActivate r p gen s
  | .activateCheckDone p complete => Sys2Proof.Machine.execActivateCheckDone p complete s
  | .adrop r p slot => Sys2Proof.Machine.execAdrop r p slot s
  | .readerPublishChunk job hostOk => Sys2Proof.Machine.execReaderPublishChunk job hostOk s
  | .memberChunkSeen job chunk => Sys2Proof.Machine.execMemberChunkSeen job chunk s
  | .memberChunkCommit job chunk => Sys2Proof.Machine.execMemberChunkCommit job chunk s
  | .stagingSlotTimeout job slot => Sys2Proof.Machine.execStagingSlotTimeout job slot s
  | .loadInactivityTimeout job => Sys2Proof.Machine.execLoadInactivityTimeout job s
  | .drainLimitExpiry p => Sys2Proof.Machine.execDrainLimitExpiry p s
  | .requestDatagram port addr udp h tokens => Sys2Proof.Machine.execRequestDatagram port addr udp h tokens s
  | .reassemblyTimeout idx => Sys2Proof.Machine.execReassemblyTimeout idx s
  | .arpRequest port target => Sys2Proof.Machine.execArpRequest port target s
  | .neighbourDiscovery port target => Sys2Proof.Machine.execNeighbourDiscovery port target s
  | .icmpEcho port target payload => Sys2Proof.Machine.execIcmpEcho port target payload s
  | .recordFlush port => Sys2Proof.Machine.execRecordFlush port s
  | .sqTailWrite r be val => Sys2Proof.Machine.execSqTailWrite r be val s
  | .sqEntryTake fn hostOk => Sys2Proof.Machine.execSqEntryTake fn hostOk s
  | .cqHeadWrite r be val => Sys2Proof.Machine.execCqHeadWrite r be val s
  | .cqInterrupt a => Sys2Proof.Machine.execCqInterrupt a s
  | .tktQcfgWrite r off be val => Sys2Proof.Machine.execTktQcfgWrite r off be val s
  | .submit e h tokens => Sys2Proof.Machine.execSubmit e h tokens s
  | .cancel e h => Sys2Proof.Machine.execCancel e h s
  | .query e h => Sys2Proof.Machine.execQuery e h s
  | .answerReturn idx w0 w1 w2 w3 => Sys2Proof.Machine.execAnswerReturn idx w0 w1 w2 w3 s
  | .stepDonePoll p => Sys2Proof.Machine.execStepDonePoll p s
  | .stepBoundary a => Sys2Proof.Machine.execStepBoundary a s
  | .stepStart p step gen active draining root decode rest => Sys2Proof.Machine.execStepStart p step gen active draining root decode rest s
  | .form r p => Sys2Proof.Machine.execForm r p s
  | .dissolve r p => Sys2Proof.Machine.execDissolve r p s
  | .partReset r p => Sys2Proof.Machine.execPartReset r p s
  | .partResetDone p => Sys2Proof.Machine.execPartResetDone p s
  | .preempt r p => Sys2Proof.Machine.execPreempt r p s
  | .freezeMessage p => Sys2Proof.Machine.execFreezeMessage p s
  | .quiesceDone p => Sys2Proof.Machine.execQuiesceDone p s
  | .saveMessage p => Sys2Proof.Machine.execSaveMessage p s
  | .saveDone p => Sys2Proof.Machine.execSaveDone p s
  | .quiescenceTimeout p => Sys2Proof.Machine.execQuiescenceTimeout p s
  | .thawMessage p => Sys2Proof.Machine.execThawMessage p s
  | .partResume r p => Sys2Proof.Machine.execPartResume r p s
  | .restoreDone p ok => Sys2Proof.Machine.execRestoreDone p ok s
  | .goMessage p => Sys2Proof.Machine.execGoMessage p s
  | .partitionHalt p facet => Sys2Proof.Machine.execPartitionHalt p facet s
  | .amapWrite r p n off be val => Sys2Proof.Machine.execAmapWrite r p n off be val s
  | .linkTrained port native allLanes => Sys2Proof.Machine.execLinkTrained port native allLanes s
  | .nativeTrainingTimeout port => Sys2Proof.Machine.execNativeTrainingTimeout port s
  | .mkaSecure port => Sys2Proof.Machine.execMkaSecure port s
  | .hello port h => Sys2Proof.Machine.execHello port h s
  | .bringupRetry port => Sys2Proof.Machine.execBringupRetry port s
  | .keepalive port => Sys2Proof.Machine.execKeepalive port s
  | .linkDown port => Sys2Proof.Machine.execLinkDown port s
  | .portDownWrite r port be val => Sys2Proof.Machine.execPortDownWrite r port be val s
  | .identityAssign path val => Sys2Proof.Machine.execIdentityAssign path val s
  | .identityRelease path val => Sys2Proof.Machine.execIdentityRelease path val s
  | .claimConflict epoch home eui => Sys2Proof.Machine.execClaimConflict epoch home eui s
  | .sakChange port => Sys2Proof.Machine.execSakChange port s
  | .sakRequest port => Sys2Proof.Machine.execSakRequest port s
  | .load port fr => Sys2Proof.Machine.execLoad port fr s
  | .store port fr => Sys2Proof.Machine.execStore port fr s
  | .atomicAdd port fr => Sys2Proof.Machine.execAtomicAdd port fr s
  | .atomicAnd port fr => Sys2Proof.Machine.execAtomicAnd port fr s
  | .atomicOr port fr => Sys2Proof.Machine.execAtomicOr port fr s
  | .atomicXor port fr => Sys2Proof.Machine.execAtomicXor port fr s
  | .atomicSmax port fr => Sys2Proof.Machine.execAtomicSmax port fr s
  | .atomicSmin port fr => Sys2Proof.Machine.execAtomicSmin port fr s
  | .atomicUmax port fr => Sys2Proof.Machine.execAtomicUmax port fr s
  | .atomicUmin port fr => Sys2Proof.Machine.execAtomicUmin port fr s
  | .atomicSwap port fr => Sys2Proof.Machine.execAtomicSwap port fr s
  | .atomicCas port fr => Sys2Proof.Machine.execAtomicCas port fr s
  | .cload port fr => Sys2Proof.Machine.execCload port fr s
  | .cstore port fr => Sys2Proof.Machine.execCstore port fr s
  | .resp port fr => Sys2Proof.Machine.execResp port fr s
  | .requestTimeout op => Sys2Proof.Machine.execRequestTimeout op s
  | .routeSetChange entry => Sys2Proof.Machine.execRouteSetChange entry s
  | .outstandingLimitRelease => Sys2Proof.Machine.execOutstandingLimitRelease s
  | .writeRegion r idx => Sys2Proof.Machine.execWriteRegion r idx s
  | .readRegion r idx => Sys2Proof.Machine.execReadRegion r idx s
  | .writeGrant r idx => Sys2Proof.Machine.execWriteGrant r idx s
  | .readGrant r idx => Sys2Proof.Machine.execReadGrant r idx s
  | .writeGroup r idx => Sys2Proof.Machine.execWriteGroup r idx s
  | .readGroup r idx => Sys2Proof.Machine.execReadGroup r idx s
  | .cqStart r p => Sys2Proof.Machine.execCqStart r p s
  | .cqStop r p => Sys2Proof.Machine.execCqStop r p s
  | .cqAbort r p => Sys2Proof.Machine.execCqAbort r p s
  | .cqRegisterWrite r p off be val => Sys2Proof.Machine.execCqRegisterWrite r p off be val s
  | .copyNop p => Sys2Proof.Machine.execCopyNop p s
  | .copy p => Sys2Proof.Machine.execCopy p s
  | .copyComplete p idx => Sys2Proof.Machine.execCopyComplete p idx s
  | .reduce p => Sys2Proof.Machine.execReduce p s
  | .rdres port fr => Sys2Proof.Machine.execRdres port fr s
  | .reductionTimeout p idx chunk => Sys2Proof.Machine.execReductionTimeout p idx chunk s
  | .ptpMessage port gmTime => Sys2Proof.Machine.execPtpMessage port gmTime s
  | .errlogRdWrite r be val => Sys2Proof.Machine.execErrlogRdWrite r be val s
  | .errorBudgetRefill source => Sys2Proof.Machine.execErrorBudgetRefill source s
  | .watchdogExpiry => Sys2Proof.Machine.execWatchdogExpiry s
  | .fatalDump trigger => Sys2Proof.Machine.execFatalDump trigger s
  | .dumpCopy => Sys2Proof.Machine.execDumpCopy s
  | .dumpWriteCommand path => Sys2Proof.Machine.execDumpWriteCommand path s
  | .dumpInvalidate path => Sys2Proof.Machine.execDumpInvalidate path s
  | .teardown path v => Sys2Proof.Machine.execTeardown path v s
  | .epochReissue op => Sys2Proof.Machine.execEpochReissue op s
  | .adopt path v found => Sys2Proof.Machine.execAdopt path v found s
  | .adoptionRebuildDone rec => Sys2Proof.Machine.execAdoptionRebuildDone rec s
  | .adoptionLimitExpiry => Sys2Proof.Machine.execAdoptionLimitExpiry s
  | .faultResume path mask => Sys2Proof.Machine.execFaultResume path mask s
  | .replayStart p g => Sys2Proof.Machine.execReplayStart p g s
  | .replayHoldoffExpiry p => Sys2Proof.Machine.execReplayHoldoffExpiry p s
  | .stepSeal p => Sys2Proof.Machine.execStepSeal p s
  | .configRecordRewrite => Sys2Proof.Machine.execConfigRecordRewrite s
  | .requestResubmit idx => Sys2Proof.Machine.execRequestResubmit idx s
  | .reprotection peer => Sys2Proof.Machine.execReprotection peer s
  | .vrAlertAssert n railDown => Sys2Proof.Machine.execVrAlertAssert n railDown s
  | .vrAlertDeassert n => Sys2Proof.Machine.execVrAlertDeassert n s
  | .forceHoldExpiry d => Sys2Proof.Machine.execForceHoldExpiry d s
  | .shelfWarnAssert => Sys2Proof.Machine.execShelfWarnAssert s
  | .shelfWarnDeassert => Sys2Proof.Machine.execShelfWarnDeassert s
  | .brakeHoldExpiry => Sys2Proof.Machine.execBrakeHoldExpiry s
  | .coolWarnAssert => Sys2Proof.Machine.execCoolWarnAssert s
  | .coolWarnDeassert => Sys2Proof.Machine.execCoolWarnDeassert s
  | .estimatorTick e0 e1 e2 e3 => Sys2Proof.Machine.execEstimatorTick e0 e1 e2 e3 s
  | .calibrationRead d m e => Sys2Proof.Machine.execCalibrationRead d m e s
  | .telemetryLost g => Sys2Proof.Machine.execTelemetryLost g s
  | .capLease path w => Sys2Proof.Machine.execCapLease path w s
  | .leaseExpiry => Sys2Proof.Machine.execLeaseExpiry s
  | .thermalSample lat0 lat1 vtx layers => Sys2Proof.Machine.execThermalSample lat0 lat1 vtx layers s
  | .thermalTrip => Sys2Proof.Machine.execThermalTrip s
  | .boostStep die => Sys2Proof.Machine.execBoostStep die s
  | .powerStateActive path => Sys2Proof.Machine.execPowerStateActive path s
  | .enterS1 path => Sys2Proof.Machine.execEnterS1 path s
  | .enterS2 path => Sys2Proof.Machine.execEnterS2 path s
  | .enterS3 path => Sys2Proof.Machine.execEnterS3 path s
  | .autoS1 => Sys2Proof.Machine.execAutoS1 s
  | .sleepExitDone => Sys2Proof.Machine.execSleepExitDone s
  | .powerRequestGrant => Sys2Proof.Machine.execPowerRequestGrant s
  | .slackSample die slacks => Sys2Proof.Machine.execSlackSample die slacks s
  | .vfReplan plan => Sys2Proof.Machine.execVfReplan plan s
  | .replanNow path => Sys2Proof.Machine.execReplanNow path s
  | .dbgNonce r => Sys2Proof.Machine.execDbgNonce r s
  | .nonceLapse => Sys2Proof.Machine.execNonceLapse s
  | .dbgOpen r => Sys2Proof.Machine.execDbgOpen r s
  | .zeroiseDone => Sys2Proof.Machine.execZeroiseDone s
  | .dbgClose r => Sys2Proof.Machine.execDbgClose r s
  | .levelExpiry => Sys2Proof.Machine.execLevelExpiry s
  | .setpw r => Sys2Proof.Machine.execSetpw r s
  | .lifecycleProvision path cred => Sys2Proof.Machine.execLifecycleProvision path cred s
  | .fieldLock path cred => Sys2Proof.Machine.execFieldLock path cred s
  | .decommission path cred => Sys2Proof.Machine.execDecommission path cred s
  | .codeRehash matches_ => Sys2Proof.Machine.execCodeRehash matches_ s
  | .apxSend r len => Sys2Proof.Machine.execApxSend r len s
  | .getVersion path body => Sys2Proof.Machine.execGetVersion path body s
  | .getCapabilities path body => Sys2Proof.Machine.execGetCapabilities path body s
  | .negotiateAlgorithms path body => Sys2Proof.Machine.execNegotiateAlgorithms path body s
  | .getDigests path body => Sys2Proof.Machine.execGetDigests path body s
  | .getCertificate path body => Sys2Proof.Machine.execGetCertificate path body s
  | .challenge path body => Sys2Proof.Machine.execChallenge path body s
  | .getMeasurements path body => Sys2Proof.Machine.execGetMeasurements path body s
  | .spdmUnsupported path body => Sys2Proof.Machine.execSpdmUnsupported path body s
  | .extendCustomerSlot path v => Sys2Proof.Machine.execExtendCustomerSlot path v s
  | .bypass => Sys2Proof.Machine.execBypass s
  | .idcode => Sys2Proof.Machine.execIdcode s
  | .samplePreload => Sys2Proof.Machine.execSamplePreload s
  | .extest => Sys2Proof.Machine.execExtest s
  | .dapRead q => Sys2Proof.Machine.execDapRead q s
  | .dapWrite q => Sys2Proof.Machine.execDapWrite q s
  | .list q => Sys2Proof.Machine.execList q s
  | .describe q => Sys2Proof.Machine.execDescribe q s
  | .subscribe q => Sys2Proof.Machine.execSubscribe q s
  | .unsubscribe q => Sys2Proof.Machine.execUnsubscribe q s
  | .dapAbort q => Sys2Proof.Machine.execDapAbort q s
  | .segmentIdleTimeout idx => Sys2Proof.Machine.execSegmentIdleTimeout idx s
  | .eventAck path seq => Sys2Proof.Machine.execEventAck path seq s
  | .eventRetransmit path => Sys2Proof.Machine.execEventRetransmit path s
  | .watchSample => Sys2Proof.Machine.execWatchSample s
  | .dictSend r len => Sys2Proof.Machine.execDictSend r len s
  | .eventFetch fn => Sys2Proof.Machine.execEventFetch fn s
  | .restoreDefaults path => Sys2Proof.Machine.execRestoreDefaults path s
  | .setEndpointId pcie eid => Sys2Proof.Machine.execSetEndpointId pcie eid s
  | .getEndpointId pcie => Sys2Proof.Machine.execGetEndpointId pcie s
  | .getMctpVersionSupport pcie msgType => Sys2Proof.Machine.execGetMctpVersionSupport pcie msgType s
  | .getMessageTypeSupport pcie => Sys2Proof.Machine.execGetMessageTypeSupport pcie s
  | .getVendorDefinedMessageSupport pcie selector => Sys2Proof.Machine.execGetVendorDefinedMessageSupport pcie selector s
  | .inboxSlotTake slot => Sys2Proof.Machine.execInboxSlotTake slot s
  | .porAssert => Sys2Proof.Machine.execPorAssert s
  | .porRelease bootSel node fitted => Sys2Proof.Machine.execPorRelease bootSel node fitted s
  | .bootReady report => Sys2Proof.Machine.execBootReady report s
  | .warmRstAssert => Sys2Proof.Machine.execWarmRstAssert s
  | .warmRstRelease => Sys2Proof.Machine.execWarmRstRelease s
  | .warmResetCommand path v => Sys2Proof.Machine.execWarmResetCommand path v s
  | .perstAssert => Sys2Proof.Machine.execPerstAssert s
  | .functionLevelReset a => Sys2Proof.Machine.execFunctionLevelReset a s
  | .imageDownloadSegment path off data last programmed => Sys2Proof.Machine.execImageDownloadSegment path off data last programmed s
  | .updateVerify path => Sys2Proof.Machine.execUpdateVerify path s
  | .verifyDone => Sys2Proof.Machine.execVerifyDone s
  | .updateActivate path => Sys2Proof.Machine.execUpdateActivate path s
  | .trialReadyTimeout => Sys2Proof.Machine.execTrialReadyTimeout s
  | .updateConfirm path => Sys2Proof.Machine.execUpdateConfirm path s
  | .updateCancel path => Sys2Proof.Machine.execUpdateCancel path s
  | .boardRecordWrite path v => Sys2Proof.Machine.execBoardRecordWrite path v s
  | .sbCfgWrite r n be val => Sys2Proof.Machine.execSbCfgWrite r n be val s
  | .sbFunctionApply n => Sys2Proof.Machine.execSbFunctionApply n s
  | .sbInputChange pin level => Sys2Proof.Machine.execSbInputChange pin level s
  | .stormRelease pin => Sys2Proof.Machine.execStormRelease pin s
  | .inputStuck pin => Sys2Proof.Machine.execInputStuck pin s
  | .outputStart k => Sys2Proof.Machine.execOutputStart k s
  | .outputShort k => Sys2Proof.Machine.execOutputShort k s
  | .outputRetry k => Sys2Proof.Machine.execOutputRetry k s
  | .retry r k => Sys2Proof.Machine.execRetry r k s
  | .supplyDroop vlas => Sys2Proof.Machine.execSupplyDroop vlas s
  | .supplyRecovered vlas => Sys2Proof.Machine.execSupplyRecovered vlas s
  | .mkaTimeout port => Sys2Proof.Machine.execMkaTimeout port s
  | .linkFault port => Sys2Proof.Machine.execLinkFault port s
  | .lockoutExpiry => Sys2Proof.Machine.execLockoutExpiry s
  | .sleepEntryDone => Sys2Proof.Machine.execSleepEntryDone s
  | .perstRelease => Sys2Proof.Machine.execPerstRelease s
  | .fabricActivityIndicatorExpiry n => Sys2Proof.Machine.execFabricActivityIndicatorExpiry n s

end Sys2Proof.Machine
end

