-- ==== Sys2Proof/Machine/SaveArea.lean ====
section
/-! DEFINITION. The bytes of a save image: head, Facet records, engine records, and where they lie in the carved frames
(spec/12 R279). The image is kept as what it restores to; these are the bytes a reader of the save area sees. -/

namespace Sys2Proof.Machine

/-- The head: 4 KiB. -/
def State.imageHead (s : State) (p : Nat) (im : SaveImage) : List Byte :=
  let fs := (s.partGroups p).filterMap (fun g => (im.groups.find? (fun x => x.1 == g)).map (fun x => x.2.gcc) |>.or (some 0))
  padTo 4096 (natLE 4 0x53415645 ++ natLE 4 s.identPart.toNat ++ natLE 1 p ++ zeros 3 ++ natLE 4 (s.prt p).shape ++
    natLE 4 (s.prt p).mask ++ zeros 4 ++ natLE 8 (fs.getD 0 0) ++ natLE 8 (fs.getD 1 0) ++ natLE 8 (s.rail p).step)

/-- Byte `k` of an accumulator bank in its layout (R279; spec/03 R71, R84): 6-byte W48 cells, or 80-byte L640 cells with a class byte
each. -/
def accByte (ref : Bool) (acc : List (Nat × Cell)) (b k : Nat) : Byte :=
  let cell := fun (i : Nat) => Sparse.get (fun _ => Cell.w48 0) acc (b * 16384 + i)
  if !ref then
    match cell (k / 6) with
    | .w48 v => BitVec.ofNat 8 (v / 2 ^ (8 * (k % 6)))
    | .ref _ _ => 0
  else if k < 81920 then
    match cell (k / 80) with
    | .ref _ v => BitVec.ofInt 8 (v / 2 ^ (8 * (k % 80)))
    | .w48 _ => 0
  else if k < 82944 then
    match cell (k - 81920) with
    | .ref .posInf _ => 1
    | .ref .negInf _ => 2
    | .ref .nan _ => 3
    | _ => 0
  else 0

/-- Byte `k` of a stationary buffer; how its 64-byte tile state is laid out is a matter of the stepping. -/
def tileByte (now f : Nat) (t : Option Tile) (k : Nat) : Byte :=
  if 0x2400 ≤ k ∧ k < 0x2440 then Config.stepping now f k else
  match t with
  | none => 0
  | some x => if k < 0x2000 then Sparse.get zeroByte x.data k else if k < 0x2400 then Sparse.get zeroByte x.scales (k - 0x2000) else 0

/-- A descriptor queue of 16 places, those that run first. -/
def pourBytes (q : List PourDesc) : List Byte :=
  padTo 512 ((q.filter (fun d => d.running) ++ q.filter (fun d => !d.running)).flatMap (fun d =>
    natLE 8 d.w0 ++ natLE 8 d.w1 ++ natLE 8 d.w2 ++ natLE 8 d.w3))

/-- Byte `k` of the control page; the loop stack's layout is a matter of the stepping. -/
def State.controlByte (s : State) (f k : Nat) : Byte :=
  let word := fun (w : Word) => BitVec.ofNat 8 (w.toNat / 2 ^ (8 * (k % 4)))
  let x := s.facet f
  if k < 0x200 then BitVec.ofNat 8 (Sparse.get (fun _ => 0) x.pregs (k / 64) / 2 ^ (8 * (k % 64)))
  else if k < 0x240 then word (Sparse.get (fun _ => 0) x.sregs ((k - 0x200) / 4))
  else if k < 0x340 then word (s.rd .fctSb (f * 64 + (k - 0x240) / 4))
  else if k < 0x35C then
    word (s.rd ([Card.fctStat, .fctErr, .fctMcfg, .fctAstat, .fctXcfg, .fctAccl, .fctArcst].getD ((k - 0x340) / 4) .fctStat) f)
  else if 0x380 ≤ k ∧ k < 0x580 then (pourBytes x.pourQ).getD (k - 0x380) 0
  else if 0x580 ≤ k ∧ k < 0x5C0 ∧ !x.loops.isEmpty then Config.stepping s.time f (0x238000 + k)
  else 0

/-- Byte `o` of a Facet's record. -/
def State.facetByte (s : State) (f o : Nat) : Byte :=
  let x := s.facet f
  if o < 0x180000 then Sparse.get s.memD s.mem (spAddr f o)
  else if o < 0x1C0000 then Sparse.get s.imemD s.imem (f * 262144 + (o - 0x180000))
  else if o < 0x220000 then
    accByte (s.refLayout f ((o - 0x1C0000) / 98304)) x.acc ((o - 0x1C0000) / 98304) ((o - 0x1C0000) % 98304)
  else if o < 0x228000 then tileByte s.time f (if o < 0x224000 then x.buf0 else x.buf1) ((o - 0x220000) % 0x4000)
  else if o < 0x238000 then
    BitVec.ofNat 8 ((Sparse.get (fun _ => (0 : Word)) x.vregs ((o - 0x228000) / 4)).toNat / 2 ^ (8 * (o % 4)))
  else if o < 0x239000 then s.controlByte f (o - 0x238000)
  else Config.stepping s.time f o

/-- Byte `o` of an engine's record: activation SRAM, registers, the residual of each class, the pipelines. -/
def State.engineByte (s : State) (e o : Nat) : Byte :=
  if o < 0x200000 then Sparse.get s.sramD s.sram (e * 2097152 + o)
  else
    let k := o - 0x200000
    if k < 0x20 then
      BitVec.ofNat 8 ((s.rd ([Card.drpRingLo, .drpRingHi, .drpRingCfg, .drpCfg, .drpHead, .drpErr, .drpAstat, .drpArcst].getD (k / 4) .drpErr) e).toNat
        / 2 ^ (8 * (k % 4)))
    else if 0x100 ≤ k ∧ k < 0x280 then
      match (s.takenOf e).find? (fun d => d.running && (dClasses d).contains ((k - 0x100) / 128)) with
      | some d => if k % 128 < 64 then BitVec.ofNat 8 (dw d (k % 128 / 8) / 2 ^ (8 * (k % 8))) else Config.stepping s.time (256 + e) k
      | none => 0
    else if k < 0x1000 then 0
    else Config.stepping s.time (256 + e) k

/-- Byte `o` of partition `p`'s save image, at its image offset. -/
def State.imageByte (s : State) (p : Nat) (im : SaveImage) (o : Nat) : Byte :=
  have t : State := s.restore p im
  let fs := s.facetsOf p
  let es := engineList (s.prt p).mask
  let a := o - 0x1000
  let b := a - fs.length * 0x240000
  if o < 0x1000 then (s.imageHead p im).getD o 0
  else if a < fs.length * 0x240000 then t.facetByte (fs.getD (a / 0x240000) 0) (a % 0x240000)
  else if b < es.length * 0x202000 then t.engineByte (es.getD (b / 0x202000) 0) (b % 0x202000)
  else 0

/-- The partition whose save image covers a local offset, with the image and the image offset. -/
def State.imageAt_ (s : State) (a : Nat) : Option (Nat × SaveImage × Nat) :=
  s.parts.findSome? (fun x => match x.2.image with
    | some im => (x.2.save.zipIdx.find? (fun y => y.1 == a / 0x200000)).map (fun y => (x.1, im, y.2 * 0x200000 + a % 0x200000))
    | none => none)

/-- Local memory as one sees it who reads all of it: pool tables and save images stand there as their bytes. -/
def State.viewMem (s : State) (a n : Nat) : List Byte :=
  (s.poolRead a n).mapIdx (fun i b => match s.imageAt_ (a + i) with
    | some x => s.imageByte x.1 x.2.1 x.2.2
    | none => b)

end Sys2Proof.Machine
end

