-- ==== Sys2Proof/Machine/Debug.lean ====
section
/-! DEFINITION. What an open debug level grants, and the access itself (spec/16 R373, R382). The spec reaches it through the debug
window and the test access port and gives neither addresses nor instructions for it, and the table of commands has no row for it:
these operations are the debugger's, beside the commands (log entry 93). -/

namespace Sys2Proof.Machine

/-- What a debugger names: performance and interference counters by dictionary entry or register, status registers, the firmware
trace; a Facet's scratchpad, instruction memory and accumulators; an engine's SRAM; memory; any register; the test and scan
controls; the Apex core's secrets. -/
inductive DebugItem where
  | entry (index sub : Nat)
  | status (c : Card) (i : Nat)
  | trace
  | facet (f : Nat)
  | engine (e : Nat)
  | memory (off n : Nat)
  | register (c : Card) (i : Nat)
  | scan
  | apex
deriving DecidableEq, Repr

/-- The registers of the L1 row: FCT_STAT, DRP_STAT, PART_STAT and the interference counters. -/
def debugStatus (c : Card) : Bool :=
  match c with
  | .fctStat | .drpStat | .partStat => true
  | .partIfStepsLo | .partIfStepsHi | .partIfStepNsLo | .partIfStepNsHi | .partIfForeignNsLo | .partIfForeignNsHi
  | .partIfHoldNsLo | .partIfHoldNsHi | .partIfPreemptNsLo | .partIfPreemptNsHi | .partIfThrottleNsLo | .partIfThrottleNsHi
  | .partIfLast | .partIfAvg => true
  | _ => false

/-- Registers of the Apex core's own blocks. -/
def apexCard (c : Card) : Bool :=
  match c with
  | .apxCmd | .apxStat | .dbgCmd | .dbgBuf | .dbgNonce => true
  | _ => false

/-- Whether a partition is one of those that an open L2 names. -/
def State.debugMasked (s : State) (p : Option Nat) : Bool :=
  match p with
  | some p => s.sec.level == 2 && bit s.sec.mask p
  | none => false

/-- The carved frames and access-map ranges of a partition. -/
def State.debugRanges (s : State) (p : Nat) : List (Nat × Nat) :=
  (s.prt p).frames.map (fun f => (f * 0x200000, (f + 1) * 0x200000)) ++
  ((List.range 8).filterMap (fun n => s.amap p n)).map (fun a => (a.1, a.2.1))

/-- Whether the open level grants a read (R373). -/
def State.debugReads (s : State) (x : DebugItem) : Bool :=
  let l := s.sec.level
  match x with
  | .apex | .scan => false
  | .entry i _ => decide (1 ≤ l) && decide (0x8000 ≤ i) && decide (i ≤ 0x8FFF)
  | .status c _ => decide (1 ≤ l) && debugStatus c
  | .trace => decide (1 ≤ l)
  | .facet f => l == 3 || s.debugMasked (s.facetPart f)
  | .engine e => l == 3 || s.debugMasked (s.enginePart e)
  | .memory a n => l == 3 || (List.range 16).any (fun p => s.debugMasked (some p) && covers (s.debugRanges p) a (a + n))
  | .register c _ => l == 3 && !apexCard c

/-- Whether the open level grants writing and control (R373): at L2 what belongs to the masked partitions, at L3 all it reads and
the test and scan controls. -/
def State.debugWrites (s : State) (x : DebugItem) : Bool :=
  match x with
  | .scan => s.sec.level == 3
  | x => decide (2 ≤ s.sec.level) && s.debugReads x && (s.sec.level == 3 || match x with
    | .facet _ | .engine _ | .memory _ _ => true
    | _ => false)

/-- Whether the power state lets the window reach an item (R382): gated units answer ASLEEP in S1; Lattice, Carafe and Drip in S2;
in S3 only the status of the Apex and management cores is left. -/
def State.debugAwake (s : State) (x : DebugItem) : Bool :=
  match s.power.sleep, x with
  | 0, _ => true
  | 1, .facet _ => false
  | 1, .engine _ => false
  | 2, .facet _ => false
  | 2, .engine _ => false
  | 2, .memory a _ => decide (urnBase ≤ a) && decide (a < apertureBase)
  | 3, _ => false
  | _, _ => true

/-- How a debug access ends. -/
inductive DebugAnswer where
  | denied
  | asleep
  | data (bytes : List Byte)
  | done
deriving DecidableEq, Repr

/-- The bytes of an item from `off`; of a Facet the scratchpad's come first, then those of the instruction memory. The trace is
what the firmware has left there (a free value). -/
def State.debugBytes (s : State) (x : DebugItem) (off n : Nat) : List Byte :=
  match x with
  | .entry i k => (s.segment ⟨i, k, k, .u32, .ro, false, false, .num 0, []⟩ k off n).1
  | .status c i | .register c i => ((natLE 4 (s.shown .mc c i).toNat).drop off).take n
  | .trace => freeBytes s.freeCtr n
  | .facet f => if off < 0x200000 then s.readMem (spAddr f off) n else s.readImem f (off - 0x200000) n
  | .engine e => s.readSram e off n
  | .memory a k => s.viewMem (a + off) (min n (k - off))
  | .scan | .apex => []

/-- A read through the window. -/
def State.debugRead (s : State) (x : DebugItem) (off n : Nat) : DebugAnswer :=
  if !s.debugReads x then .denied
  else if !s.debugAwake x then .asleep
  else .data (s.debugBytes x off n)

/-- An action that writes or controls: refused without a grant, answered ASLEEP by a unit that sleeps. -/
def State.debugAct (s : State) (x : DebugItem) (k : State → State) : State × DebugAnswer :=
  if !s.debugWrites x then (s, .denied)
  else if !s.debugAwake x then (s, .asleep)
  else (k s, .done)

/-- A write through the window; a register takes the word of the first four bytes. -/
def State.debugWrite (s : State) (x : DebugItem) (off : Nat) (bs : List Byte) : State × DebugAnswer :=
  s.debugAct x fun s =>
    match x with
    | .facet f => if off < 0x200000 then (s.writeMem (spAddr f off) bs).1 else (s.writeImem f (off - 0x200000) bs).1
    | .engine e => (s.writeSram e off bs).1
    | .memory a k => (s.writeMem (a + off) (bs.take (k - off))).1
    | .register c i => s.wr c i (BitVec.ofNat 32 (leNat (bs.take 4)))
    | _ => s

/-- Halt a Facet at its next bundle boundary, as HALT does, or an engine where it stands. -/
def State.debugHalt (s : State) (x : DebugItem) : State × DebugAnswer :=
  s.debugAct x fun s =>
    match x with
    | .facet f => s.haltFacet f
    | .engine e => { s with dbgHeld := e :: s.dbgHeld.filter (· != e) }
    | _ => s

/-- Let a halted Facet go on at its PC, or a halted engine. -/
def State.debugResume (s : State) (x : DebugItem) : State × DebugAnswer :=
  s.debugAct x fun s =>
    match x with
    | .facet f =>
      if s.gf R.fctStat_STATE f = fsHalted then (s.modFacet f (fun y => { y with haltReq := false })).sf R.fctStat_STATE f fsRunning else s
    | .engine e => { s with dbgHeld := s.dbgHeld.filter (· != e) }
    | _ => s

/-- Single-step: a Facet issues one bundle and halts; an engine does one unit of what it runs, or takes up one descriptor. -/
def State.debugStep (s : State) (x : DebugItem) : State × DebugAnswer :=
  s.debugAct x fun s =>
    match x with
    | .facet f =>
      if s.gf R.fctStat_STATE f = fsHalted then (s.modFacet f (fun y => { y with haltReq := true })).sf R.fctStat_STATE f fsRunning else s
    | .engine e =>
      if !s.dbgHeld.contains e then s else
      match (s.takenOf e).find? (fun d => d.running) with
      | some d => dripAdvance e d.uid 1 s
      | none =>
        have s : State := { s with dbgHeld := s.dbgHeld.filter (· != e) }
        have s : State := s.dripStart e (fun _ => true)
        { s with dbgHeld := e :: s.dbgHeld }
    | _ => s

end Sys2Proof.Machine
end

