-- ==== Sys2Proof/WellFormed.lean ====
section
/-! DEFINITION. Which commands are well-formed: every operand lies in the range its place on the device gives it. A command
outside these checks is no command of this device; what it does in the model is not the spec's. -/

namespace Sys2Proof

/-- A function of the device: function 0, a virtual function 1 to 16, or the management core (spec/01 R21). -/
def Requester.ok : Requester → Bool
  | .vf n => decide (1 ≤ n) && decide (n ≤ 16)
  | .pf => true
  | .mc => true

/-- A node of the management segment, an EID, a function's mailbox (spec/17 R388). -/
def DapPath.ok : DapPath → Bool
  | .mgmt n => decide (n < 256)
  | .mctp e => decide (e < 256)
  | .mailbox fn => decide (fn < 17)

/-- A function's mailbox, the management port, an inbox slot (spec/16 R371). -/
def SpdmPath.ok : SpdmPath → Bool
  | .mailbox fn => decide (fn < 17)
  | .mgmt n => decide (n < 256)
  | .inbox _ => true

/-- A PCIe function, a front port, another package (spec/01 R29). -/
def Entry.ok : Entry → Bool
  | .func fn => decide (fn < 17)
  | .front port _ udp => decide (port < 2) && decide (udp < 65536)
  | .remote r => decide (r.pkg < 32768) && decide (r.path < 3) && decide (r.fn < 17) && decide (r.handle < 4294967296)

/-- A frame's payload is at most 4,112 bytes (spec/13 R289). -/
def Frame.ok (f : Frame) : Bool := decide (f.payload.length ≤ 4112)

/-- A DAP frame's fields (spec/17 R393). -/
def DapReq.ok (q : DapReq) : Bool :=
  q.path.ok && decide (q.tid < 65536) && decide (q.index < 65536) && decide (q.sub < 256) && decide (q.payload.length ≤ 1024)

/-- Byte enables of an access to one or two bytes of a register (spec/01 R26). -/
def narrow (be : Nat) : Bool := [1, 2, 3, 4, 6, 8, 12].contains be

/-- Whether a command is well-formed. -/
def Instr.wf (i : Instr) : Bool :=
  match i with
  | .programImageLoad _ => true
  | .registerWrite r addr len be _ => r.ok && decide (addr < 67108864) && decide (1 ≤ len) && decide (be < 256)
  | .pairLowRead r addr => r.ok && decide (addr < 67108864)
  | .pairHighRead r addr => r.ok && decide (addr < 67108864)
  | .pairLowWrite r addr _ => r.ok && decide (addr < 67108864)
  | .pairHighWrite r addr _ => r.ok && decide (addr < 67108864)
  | .pairNarrowAccess r addr be _ _ => r.ok && decide (addr < 67108864) && narrow be
  | .rcRead r addr len be => r.ok && decide (addr < 67108864) && decide (1 ≤ len) && decide (be < 256)
  | .mlw f => decide (f < 256)
  | .mma f => decide (f < 256)
  | .mmaRef f => decide (f < 256)
  | .mst f => decide (f < 256)
  | .spmovLinear f => decide (f < 256)
  | .spmovStrided f => decide (f < 256)
  | .spmovTranspose f => decide (f < 256)
  | .vld f => decide (f < 256)
  | .vst f => decide (f < 256)
  | .add f => decide (f < 256)
  | .sub f => decide (f < 256)
  | .mul f => decide (f < 256)
  | .fma f => decide (f < 256)
  | .max f => decide (f < 256)
  | .min f => decide (f < 256)
  | .cmp f => decide (f < 256)
  | .sel f => decide (f < 256)
  | .cvt f => decide (f < 256)
  | .and f => decide (f < 256)
  | .or f => decide (f < 256)
  | .xor f => decide (f < 256)
  | .shl f => decide (f < 256)
  | .shr f => decide (f < 256)
  | .rsum f => decide (f < 256)
  | .rmax f => decide (f < 256)
  | .arcExp2 f => decide (f < 256)
  | .arcExp f => decide (f < 256)
  | .arcLog2 f => decide (f < 256)
  | .arcLn f => decide (f < 256)
  | .arcRecip f => decide (f < 256)
  | .arcRsqrt f => decide (f < 256)
  | .arcSqrt f => decide (f < 256)
  | .arcTanh f => decide (f < 256)
  | .arcSigmoid f => decide (f < 256)
  | .arcGelu f => decide (f < 256)
  | .arcSilu f => decide (f < 256)
  | .arcSin f => decide (f < 256)
  | .arcCos f => decide (f < 256)
  | .arcSoftmaxStep f => decide (f < 256)
  | .arcSoftmaxMaxPass f => decide (f < 256)
  | .arcSoftmaxSumPass f => decide (f < 256)
  | .arcFinalNormalise f => decide (f < 256)
  | .arcFinalProbabilities f => decide (f < 256)
  | .arcFinalRescale f => decide (f < 256)
  | .arcRmsAccumulate f => decide (f < 256)
  | .arcRmsApply f => decide (f < 256)
  | .arcLayernormAccumulate f => decide (f < 256)
  | .arcLayernormApply f => decide (f < 256)
  | .arcTableLoad unit _ => decide (unit < 288)
  | .arcTableReload unit _ => decide (unit < 288)
  | .arcSelfTest path unit => path.ok && decide (unit < 288)
  | .arcSelfTestDone unit _ => decide (unit < 288)
  | .nxfer f => decide (f < 256)
  | .nxferSeam f => decide (f < 256)
  | .seamDelivery lane => decide (lane < 32)
  | .seamAck lane => decide (lane < 32)
  | .pour f => decide (f < 256)
  | .pourDescriptorStart f => decide (f < 256)
  | .pourComplete f _ => decide (f < 256)
  | .sbopSet f => decide (f < 256)
  | .sbopAdd f => decide (f < 256)
  | .sbopClearErr f => decide (f < 256)
  | .waitLocal f => decide (f < 256)
  | .waitGroup f => decide (f < 256)
  | .waitSatisfied f => decide (f < 256)
  | .groupResume _ => true
  | .loop f => decide (f < 256)
  | .jmp f => decide (f < 256)
  | .br f => decide (f < 256)
  | .halt f => decide (f < 256)
  | .smov f => decide (f < 256)
  | .sadd f => decide (f < 256)
  | .srdc f => decide (f < 256)
  | .fctStart r f entry => r.ok && decide (f < 256) && decide (entry < 8192)
  | .fctHalt r f => r.ok && decide (f < 256)
  | .clrsb r f => r.ok && decide (f < 256)
  | .imemLoad r f entry => r.ok && decide (f < 256) && decide (entry < 8192)
  | .imemLoadDone f _ => decide (f < 256)
  | .fctMcfgWrite r f be _ => r.ok && decide (f < 256) && decide (be < 16)
  | .sbCounterWrite r f n be _ => r.ok && decide (f < 256) && decide (n < 64) && decide (be < 16)
  | .drpStart r e => r.ok && decide (e < 32)
  | .drpStop r e => r.ok && decide (e < 32)
  | .drpAbort r e => r.ok && decide (e < 32)
  | .drpZero r e => r.ok && decide (e < 32)
  | .drpStopped e => decide (e < 32)
  | .drpRingWrite r e off be _ => r.ok && decide (e < 32) && off % 4 == 0 && decide (be < 16)
  | .drpCfgWrite r e be _ => r.ok && decide (e < 32) && decide (be < 16)
  | .ringPoll ring => decide (ring < 48)
  | .descriptorTake ring => decide (ring < 48)
  | .dripNop e => decide (e < 32)
  | .wpour e => decide (e < 32)
  | .wpourReturn e => decide (e < 32)
  | .aload e => decide (e < 32)
  | .astore e => decide (e < 32)
  | .dripArcExp2 e => decide (e < 32)
  | .dripArcExp e => decide (e < 32)
  | .dripArcRecip e => decide (e < 32)
  | .dripArcRsqrt e => decide (e < 32)
  | .dripArcSoftmaxStep e => decide (e < 32)
  | .dripArcSoftmaxFinal e => decide (e < 32)
  | .dripArcRmsStats e => decide (e < 32)
  | .scorePour e => decide (e < 32)
  | .valuePour e => decide (e < 32)
  | .dripDescriptorComplete e cls => decide (e < 32) && decide (cls < 2)
  | .carafeScrub stack quadrant _ => decide (stack < 8) && decide (quadrant < 4)
  | .kvFree r => r.ok
  | .kvFreeBelow r => r.ok
  | .kvQuery r => r.ok
  | .kvLayoutWrite r p l be _ => r.ok && decide (p < 16) && decide (l < 256) && decide (be < 16)
  | .ticketRetireRelease a => decide (a.slot < 4096) && decide (a.range < 65536)
  | .prefixPublish a => decide (a.slot < 4096) && decide (a.range < 65536)
  | .prefixMatchMap a => decide (a.slot < 4096)
  | .withdrawPrefix path _ => path.ok
  | .saltRenewal path _ => path.ok
  | .retainedRangeExpiry _ => true
  | .retainedRangeDemotion _ => true
  | .trMap r p => r.ok && decide (p < 16)
  | .trUnmap r p => r.ok && decide (p < 16)
  | .trMigrate r p => r.ok && decide (p < 16)
  | .trHint r p => r.ok && decide (p < 16)
  | .trQuery r p => r.ok && decide (p < 16)
  | .migrateComplete p => decide (p < 16)
  | .pagePromotion p _ => decide (p < 16)
  | .promotionComplete p _ _ => decide (p < 16)
  | .pageDemotion p _ => decide (p < 16)
  | .demotionComplete p _ _ => decide (p < 16)
  | .holdTimeout _ => true
  | .cursorPoll p => decide (p < 16)
  | .stageComplete p _ _ => decide (p < 16)
  | .pfCtlWrite r p be _ => r.ok && decide (p < 16) && decide (be < 16)
  | .pfAddressWrite r p off be _ => r.ok && decide (p < 16) && off % 4 == 0 && decide (be < 16)
  | .blmExpand r => r.ok
  | .blmExpandDone => true
  | .hopFormat r => r.ok
  | .formatDone => true
  | .hopperMount _ => true
  | .hopScan r => r.ok
  | .scanInterval _ _ _ => true
  | .readDisturbRelocate _ => true
  | .wearLevelMove _ => true
  | .collection _ => true
  | .unitMoveCommit _ => true
  | .programFailure _ => true
  | .channelRetire x => decide (x.part < 16)
  | .unwrap r => r.ok
  | .ldrStart r job => r.ok && decide (job < 4)
  | .ldrAbort r job => r.ok && decide (job < 4)
  | .drop r p gen => r.ok && decide (p < 16) && decide (gen < 256)
  | .ldrActivate r p gen => r.ok && decide (p < 16) && decide (gen < 256)
  | .activateCheckDone p _ => decide (p < 16)
  | .adrop r p slot => r.ok && decide (p < 16) && decide (slot < 256)
  | .readerPublishChunk job _ => decide (job < 4)
  | .memberChunkSeen job _ => decide (job < 4)
  | .memberChunkCommit job _ => decide (job < 4)
  | .stagingSlotTimeout job _ => decide (job < 4)
  | .loadInactivityTimeout job => decide (job < 4)
  | .drainLimitExpiry p => decide (p < 16)
  | .requestDatagram port addr udp _ _ => decide (port < 2) && decide (addr.src < 2 ^ 128) && decide (addr.dst < 2 ^ 128) &&
    udp.all (fun u => decide (u.src < 65536) && decide (u.dst < 65536))
  | .reassemblyTimeout _ => true
  | .arpRequest port _ => decide (port < 2)
  | .neighbourDiscovery port _ => decide (port < 2)
  | .icmpEcho port _ _ => decide (port < 2)
  | .recordFlush port => decide (port < 2)
  | .sqTailWrite r be _ => r.ok && decide (be < 16)
  | .sqEntryTake fn _ => decide (fn < 17)
  | .cqHeadWrite r be _ => r.ok && decide (be < 16)
  | .cqInterrupt a => decide (a.fn < 17)
  | .tktQcfgWrite r off be _ => r.ok && off % 4 == 0 && decide (be < 16)
  | .submit e _ _ => e.ok
  | .cancel e _ => e.ok
  | .query e _ => e.ok
  | .answerReturn _ w0 w1 w2 w3 => decide (w0 < 18446744073709551616) && decide (w1 < 18446744073709551616) && decide (w2 < 18446744073709551616) && decide (w3 < 18446744073709551616)
  | .stepDonePoll p => decide (p < 16)
  | .stepBoundary a => decide (a.p < 16)
  | .stepStart p _ gen _ _ _ _ rest => decide (p < 16) && decide (gen < 256) && rest.tickets.all (fun x => decide (x.1 < 4096))
  | .form r p => r.ok && decide (p < 16)
  | .dissolve r p => r.ok && decide (p < 16)
  | .partReset r p => r.ok && decide (p < 16)
  | .partResetDone p => decide (p < 16)
  | .preempt r p => r.ok && decide (p < 16)
  | .freezeMessage p => decide (p < 16)
  | .quiesceDone p => decide (p < 16)
  | .saveMessage p => decide (p < 16)
  | .saveDone p => decide (p < 16)
  | .quiescenceTimeout p => decide (p < 16)
  | .thawMessage p => decide (p < 16)
  | .partResume r p => r.ok && decide (p < 16)
  | .restoreDone p _ => decide (p < 16)
  | .goMessage p => decide (p < 16)
  | .partitionHalt p facet => decide (p < 16) && decide (facet < 256)
  | .amapWrite r p n off be _ => r.ok && decide (p < 16) && decide (n < 8) && off % 4 == 0 && decide (be < 16)
  | .linkTrained port _ _ => decide (port < 32)
  | .nativeTrainingTimeout port => decide (port < 32)
  | .mkaSecure port => decide (port.port < 32)
  | .hello port _ => decide (port < 32)
  | .bringupRetry port => decide (port < 32)
  | .keepalive port => decide (port < 32)
  | .linkDown port => decide (port < 32)
  | .portDownWrite r port be _ => r.ok && decide (port < 32) && decide (be < 16)
  | .identityAssign path _ => path.ok
  | .identityRelease path _ => path.ok
  | .claimConflict _ _ _ => true
  | .sakChange port => decide (port.port < 32)
  | .sakRequest port => decide (port < 32)
  | .load port fr => decide (port < 32) && fr.ok
  | .store port fr => decide (port < 32) && fr.ok
  | .atomicAdd port fr => decide (port < 32) && fr.ok
  | .atomicAnd port fr => decide (port < 32) && fr.ok
  | .atomicOr port fr => decide (port < 32) && fr.ok
  | .atomicXor port fr => decide (port < 32) && fr.ok
  | .atomicSmax port fr => decide (port < 32) && fr.ok
  | .atomicSmin port fr => decide (port < 32) && fr.ok
  | .atomicUmax port fr => decide (port < 32) && fr.ok
  | .atomicUmin port fr => decide (port < 32) && fr.ok
  | .atomicSwap port fr => decide (port < 32) && fr.ok
  | .atomicCas port fr => decide (port < 32) && fr.ok
  | .cload port fr => decide (port < 32) && fr.ok
  | .cstore port fr => decide (port < 32) && fr.ok
  | .resp port fr => decide (port < 32) && fr.ok
  | .requestTimeout _ => true
  | .routeSetChange entry => decide (entry < 256)
  | .outstandingLimitRelease => true
  | .writeRegion r idx => r.ok && decide (idx < 4096)
  | .readRegion r idx => r.ok && decide (idx < 4096)
  | .writeGrant r idx => r.ok && decide (idx < 4096)
  | .readGrant r idx => r.ok && decide (idx < 4096)
  | .writeGroup r idx => r.ok && decide (idx < 4096)
  | .readGroup r idx => r.ok && decide (idx < 4096)
  | .cqStart r p => r.ok && decide (p < 16)
  | .cqStop r p => r.ok && decide (p < 16)
  | .cqAbort r p => r.ok && decide (p < 16)
  | .cqRegisterWrite r p off be _ => r.ok && decide (p < 16) && off % 4 == 0 && decide (be < 16)
  | .copyNop p => decide (p < 16)
  | .copy p => decide (p < 16)
  | .copyComplete p _ => decide (p < 16)
  | .reduce p => decide (p < 16)
  | .rdres port fr => decide (port < 32) && fr.ok
  | .reductionTimeout p _ _ => decide (p < 16)
  | .ptpMessage port _ => decide (port < 32)
  | .errlogRdWrite r be _ => r.ok && decide (be < 16)
  | .errorBudgetRefill _ => true
  | .watchdogExpiry => true
  | .fatalDump _ => true
  | .dumpCopy => true
  | .dumpWriteCommand path => path.ok
  | .dumpInvalidate path => path.ok
  | .teardown path v => path.ok && v.length == 24
  | .epochReissue _ => true
  | .adopt path v _ => path.ok && v.length == 40
  | .adoptionRebuildDone _ => true
  | .adoptionLimitExpiry => true
  | .faultResume path mask => path.ok && decide (mask < 65536)
  | .replayStart p _ => decide (p < 16)
  | .replayHoldoffExpiry p => decide (p < 16)
  | .stepSeal p => decide (p < 16)
  | .configRecordRewrite => true
  | .requestResubmit _ => true
  | .reprotection _ => true
  | .vrAlertAssert _ _ => true
  | .vrAlertDeassert _ => true
  | .forceHoldExpiry _ => true
  | .shelfWarnAssert => true
  | .shelfWarnDeassert => true
  | .brakeHoldExpiry => true
  | .coolWarnAssert => true
  | .coolWarnDeassert => true
  | .estimatorTick _ _ _ _ => true
  | .calibrationRead d _ e => decide (d < 4) && decide (e < 32)
  | .telemetryLost _ => true
  | .capLease path _ => path.ok
  | .leaseExpiry => true
  | .thermalSample _ _ _ _ => true
  | .thermalTrip => true
  | .boostStep die => decide (die < 2)
  | .powerStateActive path => path.ok
  | .enterS1 path => path.ok
  | .enterS2 path => path.ok
  | .enterS3 path => path.ok
  | .autoS1 => true
  | .sleepExitDone => true
  | .powerRequestGrant => true
  | .slackSample die _ => decide (die < 2)
  | .vfReplan _ => true
  | .replanNow path => path.ok
  | .dbgNonce r => r.ok
  | .nonceLapse => true
  | .dbgOpen r => r.ok
  | .zeroiseDone => true
  | .dbgClose r => r.ok
  | .levelExpiry => true
  | .setpw r => r.ok
  | .lifecycleProvision path cred => path.ok && cred.length == 360
  | .fieldLock path cred => path.ok && cred.length == 360
  | .decommission path cred => path.ok && cred.length == 360
  | .codeRehash _ => true
  | .apxSend r len => r.ok && decide (len < 8192)
  | .getVersion path _ => path.ok
  | .getCapabilities path _ => path.ok
  | .negotiateAlgorithms path _ => path.ok
  | .getDigests path _ => path.ok
  | .getCertificate path _ => path.ok
  | .challenge path _ => path.ok
  | .getMeasurements path _ => path.ok
  | .spdmUnsupported path _ => path.ok
  | .extendCustomerSlot path v => path.ok && v.length == 49
  | .bypass => true
  | .idcode => true
  | .samplePreload => true
  | .extest => true
  | .dapRead q => q.ok
  | .dapWrite q => q.ok
  | .list q => q.ok
  | .describe q => q.ok
  | .subscribe q => q.ok
  | .unsubscribe q => q.ok
  | .dapAbort q => q.ok
  | .segmentIdleTimeout _ => true
  | .eventAck path _ => path.ok
  | .eventRetransmit path => path.ok
  | .watchSample => true
  | .dictSend r len => r.ok && decide (len < 2048)
  | .eventFetch fn => decide (fn < 17)
  | .restoreDefaults path => path.ok
  | .setEndpointId _ eid => decide (eid < 256)
  | .getEndpointId _ => true
  | .getMctpVersionSupport _ msgType => decide (msgType < 256)
  | .getMessageTypeSupport _ => true
  | .getVendorDefinedMessageSupport _ selector => decide (selector < 256)
  | .inboxSlotTake _ => true
  | .porAssert => true
  | .porRelease bootSel _ _ => decide (bootSel < 4)
  | .bootReady report => report.urnBad.all (fun c => decide (c < 16))
  | .warmRstAssert => true
  | .warmRstRelease => true
  | .warmResetCommand path _ => path.ok
  | .perstAssert => true
  | .functionLevelReset a => decide (a.fn < 17) && a.pkg.all (fun q => decide (q < 32768))
  | .imageDownloadSegment path _ _ _ _ => path.ok
  | .updateVerify path => path.ok
  | .verifyDone => true
  | .updateActivate path => path.ok
  | .trialReadyTimeout => true
  | .updateConfirm path => path.ok
  | .updateCancel path => path.ok
  | .boardRecordWrite path _ => path.ok
  | .sbCfgWrite r n be _ => r.ok && decide (n < 10) && decide (be < 16)
  | .sbFunctionApply n => decide (n < 10)
  | .sbInputChange _ _ => true
  | .stormRelease _ => true
  | .inputStuck _ => true
  | .outputStart k => decide (k < 64)
  | .outputShort k => decide (k < 64)
  | .outputRetry k => decide (k < 64)
  | .retry r k => r.ok && decide (k < 64)
  | .supplyDroop _ => true
  | .supplyRecovered _ => true
  | .mkaTimeout port => decide (port < 32)
  | .linkFault port => decide (port < 32)
  | .lockoutExpiry => true
  | .sleepEntryDone => true
  | .perstRelease => true
  | .fabricActivityIndicatorExpiry n => decide (n < 10)

end Sys2Proof
end

