-- ==== Sys2Proof/Safety.lean ====
section
/-! DEFINITION. What counts as a safe run, and the words the statements use: when a register access is served, when a slot's
operation issues, the canonical form every step keeps. -/

namespace Sys2Proof.Machine

/-- The state a step answers, when it answers one. -/
def nextOf (o : Host.Outcome State Fault Refusal) : Option State :=
  match o with
  | .next t => some t
  | .fault _ => none
  | .refused _ => none

/-- A state from which the next step goes on. -/
def State.goesOn (s : State) : Prop := ∃ t, step s = .next t

/-- What every step keeps: the canonical form of the memories. -/
def State.Inv (s : State) : Prop := Memory.wf s = true

/-- Every memory the block holds: Carafe, Urn and scratchpads, instruction memory, activation SRAM, what has been lost of
them, Hopper units, host memory, SPI NOR, and the Apex mailbox buffers. -/
structure Memories where
  mem : List Host.Cell
  imem : List Host.Cell
  sram : List Host.Cell
  lost : List (Nat × Nat)
  hop : List Host.Cell
  host : List Host.Cell
  nor : List Host.Cell
  apxReq : List Host.Cell
  apxRsp : List Host.Cell
deriving DecidableEq, Repr

/-- What the memories of a state hold. Two states with equal memories read alike at every byte, and, since the lists are
canonical, memories that read alike are equal. -/
def State.memories (s : State) : Memories :=
  ⟨s.mem, s.imem, s.sram, s.lost, s.hop, s.host, s.boot.nor, s.apxReq, s.apxRsp⟩

/-- Registers change only in instance `i` of the listed cards. -/
def State.regsOnly (s t : State) (i : Nat) (cs : List Card) : Prop :=
  ∀ c j, j < 1048576 → (c ∈ cs → j ≠ i) → t.rd c j = s.rd c j

/-- Registers change only in the listed cards. -/
def State.regsKept (s t : State) (cs : List Card) : Prop := ∀ c j, j < 1048576 → c ∉ cs → t.rd c j = s.rd c j

/-- Only Facet `f` changes among the Facets. -/
def State.facetOnly (s t : State) (f : Nat) : Prop := ∀ g, g ≠ f → t.facet g = s.facet g

/-- Whether a write of instance `i` of a card by a requester reaches the register: the device is out of cold reset, the
link is up, the requester may reach it (spec/01 R21), READY is 1 or the register is served before (spec/18 R416), and the index
names a Facet or engine that the part has (spec/00 R3). -/
abbrev State.serves (s : State) (r : Requester) (c : Card) (i : Nat) : Prop :=
  s.boot.phase ≠ 0 ∧ (s.linkOff = false ∨ r = .mc) ∧ s.mayReach r c i true = true ∧ (s.ready || earlyCard c) = true ∧
  s.exists_ c i = true

/-- Whether slot `k` of the bundle at PC of Facet `f` holds the operation `w` and is the next to issue on the present cycle: the
part has the Facet, it runs, no HALT waits, the bundle meets no error (spec/02 R33, R37, R40, R65). -/
abbrev State.issues (s : State) (f k w : Nat) : Prop :=
  f < s.facetCount ∧ s.issuing f = true ∧ (s.facet f).rest = 0 ∧ (s.facet f).haltReq = false ∧ s.noCode f = false ∧
  k < 4 ∧ w ≠ 0 ∧ s.slotWord f (s.pc f) k = w ∧ (s.facet f).slot ≤ k ∧
  (∀ j < k, (s.facet f).slot ≤ j → s.slotWord f (s.pc f) j = 0) ∧ s.bundleStop f = none ∧
  hits size8 s.ecImem (f * 262144 + s.pc f * 32) 32 = [] ∧ (∀ a, s.bundleEntry f = some a → hits size8 s.ecImem (f * 262144 + a) 16 = [])

/-- Nothing that Facet `f` has issued is still under way: no port is in use, every register, row and buffer may be read. -/
abbrev State.settled (s : State) (f : Nat) : Prop :=
  (s.facet f).flights = [] ∧ (s.facet f).lands = [] ∧ (s.facet f).busy = [] ∧ (s.facet f).arcBusy = 0

/-- The state in which what Facet `f` has issued is through. -/
def State.through (s : State) (f : Nat) : State := State.flush f drainFuel s

/-- What the next issue of a Facet's bundles does not touch: its registers, accumulators, stationary buffers, its wait, its
Pour queue, what it was started for, and its Arc unit. (Where issue stands, the open loops, and the operations under way are
not named.) -/
structure SameFacet (x y : Facet) : Prop where
  vregs : y.vregs = x.vregs
  pregs : y.pregs = x.pregs
  sregs : y.sregs = x.sregs
  acc : y.acc = x.acc
  buf0 : y.buf0 = x.buf0
  buf1 : y.buf1 = x.buf1
  wait : y.wait = x.wait
  pourQ : y.pourQ = x.pourQ
  haltReq : y.haltReq = x.haltReq
  solo : y.solo = x.solo
  arcValid : y.arcValid = x.arcValid
  stepBounds : y.stepBounds = x.stepBounds
  selfTest : y.selfTest = x.selfTest
  imemLoad : y.imemLoad = x.imemLoad
  hid : y.hid = x.hid
  fenced : y.fenced = x.fenced

/-- From `s` to `t` the issue of Facet `f` has moved on (PC, open loops, operations under way), and nothing else has
changed: every memory, queue and table, every other Facet, every register but the other fields of that Facet's FCT_STAT. -/
structure Moved (s t : State) (f : Nat) : Prop where
  rest : { t with facets := s.facets, regs := s.regs } = s
  others : ∀ g, g ≠ f → t.facet g = s.facet g
  same : SameFacet (s.facet f) (t.facet f)
  regs : ∀ c j, j < 1048576 → (c = .fctStat → j ≠ f) → t.rd c j = s.rd c j
  state : t.gf R.fctStat_STATE f = s.gf R.fctStat_STATE f
  detached : t.gf R.fctStat_DETACHED f = s.gf R.fctStat_DETACHED f

/-- Nothing but issue and the operations under way has changed: what Facet `f` has entered into its pipelines is `fs` and `ls`. -/
def State.entered (s t : State) (f : Nat) (fs : List Flight) (ls : List Land) : Prop :=
  Moved s t f ∧ (t.facet f).flights = (s.facet f).flights ++ fs ∧ (t.facet f).lands = (s.facet f).lands ++ ls

/-- A vector register, and a predicate register, of Facet `f` written whole. -/
def State.withVreg (s : State) (f r : Nat) (vs : List Word) : State :=
  s.modFacet f (fun x => { x with vregs := Sparse.blit (fun _ => 0) x.vregs (r * 512) vs })
def State.withPreg (s : State) (f p v : Nat) : State :=
  s.modFacet f (fun x => { x with pregs := Sparse.put (fun _ => 0) x.pregs p v })

/-- What an operation of the vector unit leaves when it is through and has written the lanes `vs` to its destination under PRED
and PEN: the destination holds them, every other vector register keeps its lanes, and nothing else changes but where issue
stands (spec/02 R49). -/
def State.lanesSet (s t : State) (f w : Nat) (vs : List Word) : Prop :=
  (t.facet f).vreg (vDst w) = maskLanes (vPen w) ((s.facet f).preg (vPred w)) ((s.facet f).vreg (vDst w)) vs ∧
  (∀ r, r ≠ vDst w → (t.facet f).vreg r = (s.facet f).vreg r) ∧
  Moved (s.modFacet f (fun x => { x with vregs := (t.facet f).vregs })) t f

/-- What the Dexdy-exact column of spec/04 R94 asks of the published coefficient file, whose bytes the model leaves open: R99
fixes every result from them, so the bounds are a property of the file (log entry 9). -/
def DexdyBounds : Prop := ∀ (fn : Nat) (x : Word), fn ≤ 10 → arcSpecial fn x = none → arcWithin .dexdy fn x (arcEval .dexdy fn x) = true

/-- Outside `n` bytes from `a` every byte of Carafe, the Urn and the scratchpads reads as before. -/
def State.memKept (s t : State) (a n : Nat) : Prop := ∀ b, b < a ∨ a + n ≤ b → t.readMem b 1 = s.readMem b 1

end Sys2Proof.Machine
end

