-- ==== Sys2Proof/Certificates/Slice0/Obligations.lean ====
section
/-! DEFINITION. The statements about the block, family by family. Each result statement has as its conclusion that the
command answers a next state, under hypotheses on the state and the operands alone, and says what that state is: a state
written out with the elementary updates of registers and records changes nothing else. -/

open Sys2Proof Sys2Proof.Machine

/-! ### Facets: the vector unit -/

/-- R49, R89: the two-source operations write lane by lane under PRED and PEN; INT32 operations with TYPE = 1. The result is what
stands when the operation is through (`through`). -/
def Obligations.VectorTwoSourceLanes : Prop :=
  ∀ (s : State) (f w : Nat), s.issues f 1 w → s.settled f →
    ∀ p ∈ ([(.add f, 0x10, (fun a b => a + b), faddW), (.sub f, 0x11, (fun a b => a - b), fsubW),
            (.mul f, 0x12, (fun a b => a * b), fmulW), (.max f, 0x14, smaxW, fmaxW), (.min f, 0x15, sminW, fminW),
            (.and f, 0x19, (fun a b => a &&& b), (fun a b => a &&& b)), (.or f, 0x1A, (fun a b => a ||| b), (fun a b => a ||| b)),
            (.xor f, 0x1B, (fun a b => a ^^^ b), (fun a b => a ^^^ b)),
            (.shl f, 0x1C, (fun a b => a <<< (b.toNat % 32)), (fun a b => a <<< (b.toNat % 32))),
            (.shr f, 0x1D, (fun a b => a.sshiftRight (b.toNat % 32)), (fun a b => a >>> (b.toNat % 32)))] :
            List (Instr × Nat × (Word → Word → Word) × (Word → Word → Word))),
      opc w = p.2.1 → ∃ t, exec p.1 s = .next t ∧
        s.lanesSet (t.through f) f w (List.zipWith (if vTy w then p.2.2.1 else p.2.2.2) ((s.facet f).vreg (vS1 w)) ((s.facet f).vreg (vS2 w)))

/-- R49, R89: FMA, SEL, CVT lane by lane; RSUM and RMAX by the fixed tree into lane 0, +0 elsewhere. -/
def Obligations.VectorOtherLanes : Prop :=
  ∀ (s : State) (f w : Nat), s.issues f 1 w → s.settled f →
    let a := (s.facet f).vreg (vS1 w)
    let b := (s.facet f).vreg (vS2 w)
    let c := (s.facet f).vreg (vS3 w)
    ∀ p ∈ ([(.fma f, 0x13, List.zipWith (fun g z => g z)
              (List.zipWith (if vTy w then (fun x y z => x * y + z) else ffmaW) a b) c),
            (.sel f, 0x17, List.zipWith (fun g z => g z) (List.zipWith (fun x y z => if z = 0 then y else x) a b) c),
            (.cvt f, 0x18, a.map (if vTy w then cvtToF else cvtToInt)),
            (.rsum f, 0x1E, treeReduce (if vTy w then (fun x y => x + y) else faddW) 9 a :: List.replicate 511 0),
            (.rmax f, 0x1F, treeReduce (if vTy w then smaxW else fmaxW) 9 a :: List.replicate 511 0)] :
            List (Instr × Nat × List Word)),
      opc w = p.2.1 → ∃ t, exec p.1 s = .next t ∧ s.lanesSet (t.through f) f w p.2.2

/-- R49: CMP writes the predicate register, keeping the bits that PEN masks; VLD widens the elements of its lines (R90). -/
def Obligations.VectorCompareAndLoad : Prop :=
  ∀ (s : State) (f w : Nat), s.issues f 1 w → s.settled f →
    (opc w = 0x16 →
      let new := lanesToPred (List.zipWith (cmpLane (vTy w) (vS3 w)) ((s.facet f).vreg (vS1 w)) ((s.facet f).vreg (vS2 w)))
      let m := if vPen w then (s.facet f).preg (vPred w) else 2 ^ 512 - 1
      let p := bits w 54 52
      ∃ t, exec (.cmp f) s = .next t ∧
        Moved (s.withPreg f p ((new &&& m) ||| ((s.facet f).preg p &&& (2 ^ 512 - 1 - m)))) (t.through f) f) ∧
    (opc w = 0x09 → s.ucMem = [] → s.ecMem = [] → s.unwaited = [] →
      let m := bits w 57 55
      ∃ t, exec (.vld f) s = .next t ∧
        Moved (s.withVreg f (bits w 54 50)
          ((elemsOf (memBytes m) 512 (s.readMem (spAddr f (bits w 49 36 * 128)) (memLines m * 128))).map (vldLane m))) (t.through f) f)

/-- R41 to R43, R49: what VST and SPMOV store, and that no other byte of memory changes. (`watches` notes which bytes that other
operations are reading the stores have met.) -/
def Obligations.ScratchpadStores : Prop :=
  ∀ (s : State) (f w : Nat), s.issues f 1 w → s.settled f → s.ucMem = [] → s.ecMem = [] → s.unwaited = [] →
    (opc w = 0x0A →
      let m := bits w 57 55
      let a := spAddr f (bits w 49 36 * 128)
      let rs := ((s.facet f).vreg (bits w 54 50)).map (vstLane m (rndOf (bits w 35 34)))
      let g := rs.foldl (fun (g : CvtFlags) y => g.or y.2) {}
      let u := s.astat .fctAstat f g
      let u := if g.fp8Sat || g.intSat then u.bump 0x8011 2 else u
      ∃ t0 t, exec (.vst f) s = .next t0 ∧ t = t0.through f ∧
        t.readMem a (memLines m * 128) = rs.flatMap (fun y => natLE (memBytes m) y.1) ∧
        s.memKept t a (memLines m * 128) ∧ Moved { u with mem := t.mem, watches := t.watches } t f) ∧
    (opc w = 0x08 → bits w 57 56 = 0 →
      let a := spAddr f (bits w 39 26 * 128)
      ∃ t0 t, exec (.spmovLinear f) s = .next t0 ∧ t = t0.through f ∧
        t.readMem a 128 = s.readMem (spAddr f (bits w 53 40 * 128)) 128 ∧
        s.memKept t a 128 ∧ Moved { s with mem := t.mem, watches := t.watches } t f) ∧
    (opc w = 0x08 → bits w 57 56 = 1 →
      let a := spAddr f (bits w 39 26 * 128)
      ∃ t0 t, exec (.spmovStrided f) s = .next t0 ∧ t = t0.through f ∧
        t.readMem a 128 = (List.range 16).flatMap (fun p => s.readMem (spAddr f (gatherAddr w p)) 8) ∧
        s.memKept t a 128 ∧ Moved { s with mem := t.mem, watches := t.watches } t f) ∧
    (opc w = 0x08 → bits w 57 56 = 2 →
      let blk := s.readMem (spAddr f (bits w 53 40 * 128)) 2048
      let bs := (List.range 16).flatMap (transposeSlice blk (2 ^ bits w 55 54))
      let a := spAddr f (bits w 39 26 * 128)
      ∃ t0 t, exec (.spmovTranspose f) s = .next t0 ∧ t = t0.through f ∧
        (bits w 25 25 = 1 → Moved (s.withVreg f (bits w 24 20) ((elemsOf 4 512 bs).map (BitVec.ofNat 32))) t f) ∧
        (bits w 25 25 = 0 → t.readMem a 2048 = bs ∧ s.memKept t a 2048 ∧ Moved { s with mem := t.mem, watches := t.watches } t f))

/-! ### Facets: the matrix engine -/

/-- R45 to R47, R74, R83: when it is through, an MLW has filled its buffer with the tile, its scales and its error-control entry; an
MMA has computed each of its rows from the row's start value, the weight tile and its activation lines. -/
def Obligations.MatrixLoadAndMultiply : Prop :=
  ∀ (s : State) (f w : Nat), s.issues f 0 w → s.settled f → s.ucMem = [] → s.ecMem = [] → s.unwaited = [] →
    (opc w = 1 →
      let fmt := bits w 57 54
      let e := if bits w 24 17 = 0 then (0, 0) else s.xcEntry f (bits w 24 17)
      ∃ t m k, exec (.mlw f) s = .next t ∧
        Sparse.gets zeroByte m 0 8192 = s.readMem (spAddr f (bits w 52 39 * 128)) 8192 ∧
        Sparse.gets zeroByte k 0 (scaleLines fmt * 128) = s.readMem (spAddr f (bits w 38 25 * 128)) (scaleLines fmt * 128) ∧
        let tile : Tile := ⟨fmt, e.1, e.2, m, k⟩
        Moved (s.modFacet f (fun x => if bits w 53 53 = 0 then { x with buf0 := some tile } else { x with buf1 := some tile })) (t.through f) f) ∧
    (∀ tile, s.buf f (bits w 57 57) = some tile → opc w = 2 →
      let b := bits w 54 53
      let r0 := bits w 52 45
      ∃ t0 t, exec (if bits w 15 15 = 1 then .mmaRef f else .mma f) s = .next t0 ∧ t = t0.through f ∧
        (∀ i, i ≤ bits w 44 37 →
          let bs := s.readMem (spAddr f ((bits w 36 23 + i * mmaStride w tile) * 128)) (mmaRowLines tile * 128)
          let main := Sparse.listing zeroByte 0 (bs.take (rowLines tile.fmt * 128))
          let side := Sparse.listing zeroByte 0 (bs.drop (rowLines tile.fmt * 128))
          let start := if bits w 16 16 = 1 then (s.facet f).accRow b (r0 + i) else List.replicate 64 (Cell.w48 0)
          let other := if tile.sideK > 0 then s.buf f (1 - bits w 57 57) else none
          (t.facet f).accRow b (r0 + i) =
            (if bits w 15 15 = 1 then (rowRef tile other (bits w 56 55) start main side).1
             else (rowNormal tile other (bits w 56 55) (s.effPromo f w) start main side).1).map normCell) ∧
        (∀ q r, r < 256 → q ≠ b ∨ (bits w 16 16 = 1 ∨ s.refLayout f b = (bits w 15 15 == 1)) ∧ (r < r0 ∨ r0 + bits w 44 37 < r) →
          (t.facet f).accRow q r = (s.facet f).accRow q r) ∧
        (t.facet f).vregs = (s.facet f).vregs ∧ (t.facet f).pregs = (s.facet f).pregs ∧ (t.facet f).sregs = (s.facet f).sregs ∧
        (t.facet f).buf0 = (s.facet f).buf0 ∧ (t.facet f).buf1 = (s.facet f).buf1 ∧
        t.memories = s.memories ∧ s.facetOnly t f ∧ s.regsKept t [.fctStat, .fctAstat, .fctAccl, .dictStat])

/-- R48, R87: MST takes its rows, converted, and zeroes them with CLR; what it took is written, from the second cycle on, to the
lines it names or to a vector register, which holds it when the operation is through. -/
def Obligations.MatrixStore : Prop :=
  ∀ (s : State) (f w : Nat), s.issues f 0 w → s.settled f → s.ucMem = [] → s.ecMem = [] → opc w = 3 →
    let b := bits w 57 56
    let r0 := bits w 55 48
    let n := bits w 47 40 + 1
    let o := bits w 25 23
    let a := spAddr f (bits w 39 26 * 128)
    let row := fun (i : Nat) => convertRow (s.refLayout f b) o (rndOf (bits w 22 21)) ((s.facet f).accRow b (r0 + i))
    let g := (List.range n).foldl (fun (g : CvtFlags) i => g.or (row i).2) {}
    let u := s.astat .fctAstat f g
    let u := if g.fp8Sat || g.intSat then u.bump 0x8011 2 else u
    ∃ t0 t, exec (.mst f) s = .next t0 ∧ t = t0.through f ∧
      (bits w 19 19 = 0 → t.readMem a (n * 64 * outBytes o) = (List.range n).flatMap (fun i => (row i).1.flatMap (natLE (outBytes o))) ∧
        s.memKept t a (n * 64 * outBytes o) ∧ (t.facet f).vregs = (s.facet f).vregs) ∧
      (bits w 19 19 = 1 → t.mem = s.mem ∧ ∀ i, i < n → Sparse.gets (fun _ => 0) (t.facet f).vregs (bits w 18 14 * 512 + 64 * i) 64 =
        (row i).1.map (widenOut o)) ∧
      (∀ k, k < bits w 18 14 * 512 ∨ bits w 18 14 * 512 + 64 * n ≤ k →
        Sparse.get (fun _ => 0) (t.facet f).vregs k = Sparse.get (fun _ => 0) (s.facet f).vregs k) ∧
      (∀ q r, r < 256 → (t.facet f).accRow q r =
        if bits w 20 20 = 1 ∧ q = b ∧ r0 ≤ r ∧ r < r0 + n then List.replicate 64 (Cell.w48 0) else (s.facet f).accRow q r) ∧
      Moved (State.modFacet { u with mem := t.mem, watches := t.watches } f
        (fun x => { x with acc := (t.facet f).acc, vregs := (t.facet f).vregs })) t f

/-! ### Facets: the Arc unit -/

/-- R92 to R99, R112: the element functions, on the native or Dexdy tables or on the fallback path, with the special flags of PDST
and FCT_ARCST, the latter reported. Where it rests on the model's choice: log entries 9 and 63. -/
def Obligations.ArcElementFunctions : Prop :=
  ∀ (s s0 : State) (f w : Nat) (path : ArcPath), s.issues f 2 w → s.settled f → opc w = 0x20 →
    ((s.facet f).arcValid = true ∧ (s.facet f).selfTest = false ∧ (∀ x ∈ s.arcUc ++ s.arcEc, x.1 ≠ f) ∧ s0 = s ∧
        path = (if arMode w = 0 then .native else .dexdy)) ∨
      (((s.facet f).arcValid = false ∨ (s.facet f).selfTest = true) ∧ s0 = s.usedBounds f ∧ path = .fallback) →
    let xs := (s.facet f).vreg (arS1 w)
    ∀ p ∈ ([(.arcExp2 f, 0x00), (.arcExp f, 0x01), (.arcLog2 f, 0x02), (.arcLn f, 0x03), (.arcRecip f, 0x04), (.arcRsqrt f, 0x05),
            (.arcSqrt f, 0x06), (.arcTanh f, 0x07), (.arcSigmoid f, 0x08), (.arcGelu f, 0x09), (.arcSilu f, 0x0A),
            (.arcSin f, 0x0B), (.arcCos f, 0x0C)] : List (Instr × Nat)),
      arFn w = p.2 →
        let ys := xs.map (arcEval path p.2)
        let sp := List.zipWith (fun a b => isSpecialW a || isSpecialW b) xs ys
        let u := s0.withVreg f (arDst w) ys
        let u := if arPen w then u.withPreg f (arPdst w) (lanesToPred sp) else u
        ∃ t, exec p.1 s = .next t ∧ Moved (if sp.any id then u.arcFlag f 1 0 else u) (t.through f) f

/-- R103 to R110: the row operations with a valid control word: DST, the state register, and FCT_ARCST's flags, each reported, when
the operation is through. Where it rests on the model's choice: log entries 9, 27, 63 and 106. -/
def Obligations.ArcRowOperations : Prop :=
  ∀ (s s0 : State) (f w : Nat) (path : ArcPath), s.issues f 2 w → s.settled f → opc w = 0x20 →
    ((s.facet f).arcValid = true ∧ (s.facet f).selfTest = false ∧ (∀ x ∈ s.arcUc ++ s.arcEc, x.1 ≠ f) ∧ s0 = s ∧
        path = (if arMode w = 0 then .native else .dexdy)) ∨
      (((s.facet f).arcValid = false ∨ (s.facet f).selfTest = true) ∧ s0 = s.usedBounds f ∧ path = .fallback) →
    let xs := (s.facet f).vreg (arS1 w)
    let st := (s.facet f).vreg (arS2 w)
    let c := (lane st 511).toNat
    ctlBad (arFn w) (arMode w) c = false →
    ∀ p ∈ ([(.arcSoftmaxStep f, 0x10, arMode w == 0), (.arcSoftmaxMaxPass f, 0x10, arMode w == 1 && ctlPhase c == 0),
            (.arcSoftmaxSumPass f, 0x10, arMode w == 1 && ctlPhase c == 1), (.arcFinalNormalise f, 0x11, ctlOut c == 0),
            (.arcFinalProbabilities f, 0x11, ctlOut c == 1), (.arcFinalRescale f, 0x11, ctlOut c == 2),
            (.arcRmsAccumulate f, 0x12, !bit c 5), (.arcRmsApply f, 0x12, bit c 5),
            (.arcLayernormAccumulate f, 0x13, !bit c 5), (.arcLayernormApply f, 0x13, bit c 5)] : List (Instr × Nat × Bool)),
      arFn w = p.2.1 → p.2.2 = true →
        let o := arcRow path p.2.1 (arMode w) xs st
        let u := (metBits o.met).foldl (fun (t : State) k => t.arcFlag f k 0) s0
        ∃ t0 t, exec p.1 s = .next t0 ∧ t = t0.through f ∧
          (∀ d, o.dst = some d → (arDst w ≠ arS2 w ∨ o.st = st) → Sparse.gets (fun _ => 0) (t.facet f).vregs (arDst w * 512) d.length = d) ∧
          ((arDst w ≠ arS2 w ∨ o.dst = none) → ∀ k, k < 512 → (arFn w ≠ 0x11 ∨ (48 ≤ k ∧ k < 80)) →
            lane ((t.facet f).vreg (arS2 w)) k = lane o.st k) ∧
          Moved ({ u with freeCtr := t.freeCtr }.modFacet f (fun x =>
            { x with vregs := (t.facet f).vregs, pregs := (t.facet f).pregs })) t f

/-- R101, R113 to R115: a table load, a reload and its failure, and the end of a self-test of one unit; the bytes the table memory
then holds.
Where it rests on the model's choice: log entries 7, 61 and 81. -/
def Obligations.ArcTables : Prop :=
  ∀ (s : State) (u : Nat),
    (s.arcPending u = true → ∀ i ∈ ([.arcTableLoad u true, .arcTableReload u true] : List Instr),
      ∃ t, exec i s = .next t ∧ t = State.setArc { s with
        arcTabs := Sparse.put (fun _ => 0) s.arcTabs u 1, arcFails := Sparse.put (fun _ => 0) s.arcFails u 0
        arcUc := s.arcUc.filter (fun x => x.1 != u), arcEc := s.arcEc.filter (fun x => x.1 != u) } u true (s.arcTesting u) ∧
      ∀ k, k < tableSize u → t.arcByte u k = some (imageByte u k)) ∧
    (s.arcPending u = true → s.arcFailsOf u < 2 → ∃ t, exec (.arcTableReload u false) s = .next t ∧
      t.arcFailsOf u = s.arcFailsOf u + 1 ∧ t.arcValid u = false ∧ t.memories = s.memories ∧ t.facets = s.facets ∧
      t.regs = (s.sf (reloadsFld u) (unitIdx u) (min 15 (s.gf (reloadsFld u) (unitIdx u) + 1))).regs) ∧
    (s.unitExists u = true → s.arcTesting u = true → s.selfAll = none →
      exec (.arcSelfTestDone u true) s = .next ((s.setArc u (s.arcValid u) false).setN 0x8012 5 0))

/-! ### Facets: control -/

/-- R55, R56, R62: the scalar and scoreboard operations. -/
def Obligations.ScalarsAndScoreboard : Prop :=
  ∀ (s : State) (f w : Nat), s.issues f 3 w →
    let r := bits w 57 54
    let c := f * 64 + bits w 55 50
    let n := s.gf R.fctSb_COUNT c + bits w 49 26
    (opc w = 0x38 → ∃ t, exec (.smov f) s = .next t ∧ Moved (s.setSreg f r (BitVec.ofNat 32 (bits w 53 22))) t f) ∧
    (opc w = 0x39 → ∃ t, exec (.sadd f) s = .next t ∧
      Moved (s.setSreg f r ((s.facet f).sreg r + BitVec.ofNat 32 (bits w 53 22))) t f) ∧
    (opc w = 0x3A → ∃ t, exec (.srdc f) s = .next t ∧
      Moved (s.setSreg f r (BitVec.ofNat 32 (s.gf R.fctSb_COUNT (f * 64 + bits w 53 48)))) t f) ∧
    (opc w = 0x32 → bits w 57 56 = 0 → ∃ t, exec (.sbopSet f) s = .next t ∧
      Moved ((s.sf R.fctSb_COUNT c (bits w 49 26)).sf R.fctSb_SAT c 0) t f) ∧
    (opc w = 0x32 → bits w 57 56 = 1 → ∃ t, exec (.sbopAdd f) s = .next t ∧
      Moved (if n > 16777215 then (s.sf R.fctSb_COUNT c 16777215).sf R.fctSb_SAT c 1 else s.sf R.fctSb_COUNT c n) t f) ∧
    (opc w = 0x32 → bits w 57 56 = 2 → ∃ t, exec (.sbopClearErr f) s = .next t ∧ Moved (s.sf R.fctSb_ERR c 0) t f)

/-- R34 to R36, R56, R57: a wait goes on or stalls; a wait whose counter has ERR halts the Facet; a stalled one resumes on the next
cycle; a group resumes together, aligned, on one GCC value. `settle` lets the cycles pass that follow when no member issues.
Where it rests on the model's choice: log entries 15, 16, 24 and 26. -/
def Obligations.WaitsAndGroups : Prop :=
  (∀ (s : State) (f w : Nat), s.issues f 3 w → opc w = 0x33 →
    let v := waitOf (s.facet f) w s.time
    let c := f * 64 + v.ctr
    let err := !(v.grp && v.cond == 0) && s.gf R.fctSb_ERR c == 1
    let ok := v.cond == 0 || decide (v.bound ≤ s.gf R.fctSb_COUNT c)
    (v.grp = false → err = false → ok = true → ∃ t, exec (.waitLocal f) s = .next t ∧ Moved ((s.sf R.fctStat_DETACHED f 1).waitDone f v) t f ∧
      t.unwaited = if v.cond = 0 then s.unwaited else s.unwaited.filter (fun u => !(u.facet == f && u.told.contains v.ctr))) ∧
    (v.grp = false → err = false → ok = false → ∃ u, exec (.waitLocal f) s = .next (u.settle (s.groupOf f)) ∧
      Moved (((s.sf R.fctStat_DETACHED f 1).modFacet f (fun x => { x with wait := some v })).sf R.fctStat_STATE f 2) u f) ∧
    (v.grp = true → err = false → ∃ u, exec (.waitGroup f) s = .next (u.settle (s.groupOf f)) ∧
      Moved ((s.modFacet f (fun x => { x with wait := some v })).sf R.fctStat_STATE f 2) u f) ∧
    (err = true → ∃ u, exec (if v.grp then .waitGroup f else .waitLocal f) s = .next (u.settle (s.groupOf f)) ∧
      u.gf R.fctStat_STATE f = 3 ∧ u.gf ⟨.fctErr, 1, 1⟩ f = 1 ∧ u.memories = s.memories ∧ s.facetOnly u f)) ∧
  (∀ (s : State) (f : Nat) (v : WaitRec), f < s.facetCount → s.gf R.fctStat_STATE f = 2 → s.facetFrozen f = false →
    (s.facet f).wait = some v → v.grp = false → s.waitErr f v = false → s.waitOk f v = true →
    exec (.waitSatisfied f) s = .next
      ((State.modFacet { s.waitDone f v with
        groups := Sparse.put (fun _ => ⟨0, none⟩) s.groups (s.groupOf f) ⟨s.gcc (s.groupOf f), none⟩ }
        f (fun x => { x with wait := none, rest := 1 })).sf R.fctStat_STATE f 1) ∧
    (s.waitDone f v).unwaited = (if v.cond = 0 then s.unwaited else s.unwaited.filter (fun u => !(u.facet == f && u.told.contains v.ctr)))) ∧
  (∀ (s : State) (g : Nat), s.members g ≠ [] → (∀ f ∈ s.members g, s.arrived f = true ∧ s.facetFrozen f = false) →
    ∃ t, exec (.groupResume g) s = .next t ∧ t.memories = s.memories ∧ s.regsKept t [.fctStat] ∧ t.group g = ⟨s.gcc g, none⟩ ∧
      (∀ f ∈ s.members g, t.gf R.fctStat_STATE f = 1 ∧ t.gf R.fctStat_DETACHED f = 0 ∧ t.facet f = { s.facet f with wait := none, rest := 1, hid := (t.facet f).hid }) ∧
      (∀ f, f ∉ s.members g → t.facet f = s.facet f))

/-- R62, R443: LOOP opens a level, JMP and a taken BR go to their target, BR detaches, HALT halts and tells the Barista.
Where it rests on the model's choice: log entries 21 and 23. -/
def Obligations.ControlFlow : Prop :=
  ∀ (s : State) (f w : Nat), s.issues f 3 w →
    (opc w = 0x34 → ∃ t, exec (.loop f) s = .next t ∧ Moved s t f ∧ t.pc f = (loopAdvance (s.facet f).loops (s.pc f)).2 % 8192 ∧
      (t.facet f).loops = ⟨s.pc f + 1, s.pc f + bits w 57 45, bits w 44 21⟩ :: (loopAdvance (s.facet f).loops (s.pc f)).1) ∧
    (opc w = 0x35 → ∃ t, exec (.jmp f) s = .next t ∧ Moved s t f ∧ t.pc f = bits w 57 45 ∧ (t.facet f).rest = 3 ∧
      (t.facet f).loops = closeLoops (bits w 57 45) (s.facet f).loops) ∧
    (opc w = 0x36 → ∃ t, exec (.br f) s = .next t ∧ Moved (s.sf R.fctStat_DETACHED f 1) t f ∧ (t.facet f).rest = 3 ∧
      t.pc f = if brTaken (bits w 53 52) ((s.facet f).sreg (bits w 57 54)) then bits w 51 39
        else (loopAdvance (s.facet f).loops (s.pc f)).2 % 8192) ∧
    (opc w = 0x37 → ∃ u, exec (.halt f) s = .next (u.settle (s.groupOf f)) ∧
      (s.facetPart f = none → Moved (s.sf R.fctStat_STATE f 3) u f) ∧
      (∀ p, s.facetPart f = some p → Moved ((s.sf R.fctStat_STATE f 3).modPrt p (fun x =>
        { x with told := if x.told.contains f then x.told else x.told ++ [f] })) u f))

/-! ### Facets: transfers -/

/-- R51 to R54: a transfer to an open neighbour copies its lines; across the Seam its beats enter the lane's buffer cycle by
cycle, are written by the receiver with its counter, and acknowledged with the sender's.
Where it rests on the model's choice: log entries 16 and 25. -/
def Obligations.NeighbourTransfers : Prop :=
  (∀ (s : State) (f g w : Nat), s.issues f 3 w → s.settled f → s.ucMem = [] → s.ecMem = [] → s.unwaited = [] → opc w = 0x30 →
    s.openLink f (bits w 57 56) = some g →
    let n := bits w 55 50 + 1
    let dst := spAddr g (bits w 35 22 * 128)
    let bs := s.readMem (spAddr f (bits w 49 36 * 128)) (n * 256)
    let lane := s.meshCol f * 2 + (if bits w 57 56 = 2 then 0 else 1)
    let entry : SeamXfer := ⟨s.uid, f, g, bits w 35 22, bits w 21 16, bits w 15 10, n, [], [], false, false⟩
    (bits w 9 9 = 0 → s.groupOf f = s.groupOf g → s.gf R.fctStat_DETACHED f = 0 → s.gf R.fctStat_DETACHED g = 0 →
      ∃ t0 t, exec (.nxfer f) s = .next t0 ∧ t = t0.through f ∧ t.readMem dst (n * 256) = bs ∧ s.memKept t dst (n * 256) ∧
        Moved { s with mem := t.mem, watches := t.watches } t f) ∧
    (bits w 9 9 = 1 → ∃ t, exec (.nxferSeam f) s = .next t ∧ (t.facet f).flights = [{ flightOf f w false with dest := g, uid := s.uid }] ∧
      Moved (State.setSeam { s with uid := s.uid + 1, unwaited := [⟨g, dst, n * 256, 256, s.uid, 0, []⟩] } lane (s.seam lane ++ [entry])) t f ∧
      (seamBeats (s.seam lane) + n ≤ 64 → (∀ y ∈ s.seam lane, y.uid ≠ s.uid) →
        ∃ m, (t.through f).seam lane = s.seam lane ++ [{ entry with left := 0, kept := List.range n, data := m }] ∧
          Sparse.gets zeroByte m 0 (n * 256) = bs))) ∧
  (∀ (s : State) (lane : Nat) (x : SeamXfer), (s.seam lane).find? (fun y => !y.delivered) = some x → x.left = 0 →
    (s.seam lane).find? (fun y => decide (y.uid = x.uid)) = some x →
    ∃ t, exec (.seamDelivery lane) s = .next t ∧ t = ((State.setSeam (s.putBeats x) lane
        (markFirst (fun y => !y.delivered) (fun y => { y with delivered := true }) (s.seam lane))).arrivedAll x.uid x.ctr).sbInc x.dst x.ctr x.overrun ∧
      (s.ucMem = [] → ∀ b ∈ x.kept, t.readMem (spAddr x.dst ((x.line + 2 * b) * 128)) 256 = Sparse.gets zeroByte x.data (b * 256) 256)) ∧
  (∀ (s : State) (lane : Nat) (x : SeamXfer) (q : List SeamXfer), s.seam lane = x :: q → x.delivered = true →
    exec (.seamAck lane) s = .next ((s.setSeam lane q).sbInc x.src x.ack x.overrun))

/-- R55, R58 to R61: POUR queues the descriptors of its lines; the next one that passes its check starts; a transfer of one row
moves its bytes and counts.
Where it rests on the model's choice: log entry 16. -/
def Obligations.PourTransfers : Prop :=
  (∀ (s : State) (f w : Nat), s.issues f 3 w → s.settled f → s.ucMem = [] → s.ecMem = [] → s.unwaited = [] → opc w = 0x31 →
    (s.facet f).pourQ.length + bits w 41 38 + 1 ≤ 16 →
    let n := bits w 41 38 + 1
    let bs := s.readMem (spAddr f (bits w 57 42 * 32)) (32 * n)
    ∃ t0 t, exec (.pour f) s = .next t0 ∧ t = t0.through f ∧ t.gf R.fctStat_POUR_OUT f = ((s.facet f).pourQ.length + n) % 32 ∧
      Moved ({ s with uid := s.uid + n }.modFacet f (fun x =>
        { x with pourQ := x.pourQ ++ (List.range n).map (fun i => pourDescAt bs (s.uid + i) i) })) t f) ∧
  (∀ (s : State) (f : Nat) (d : PourDesc) (q : List PourDesc), (s.facet f).pourQ = d :: q → d.running = false →
    s.facetFrozen f = false → s.pourCheck f d = (0, []) → s.farRows d true = [] → s.farRows d false = [] →
    s.pourHeld f d = ([], []) → (∀ e ∈ q, e.running = false ∧ e.uid ≠ d.uid) →
    let before := if pdFence d then [] else
      (s.unwaited.filter (fun u => decide (u.by_ = f) && decide (u.uid ≠ d.uid) && decide ((s.facet f).fenced ≤ u.uid))).map (fun u => (u.lo, u.len))
    ∃ t, exec (.pourDescriptorStart f) s = .next t ∧
      Moved ({ s with
          dict := t.dict, tags := t.tags
          unwaited := s.unwaited ++ (s.pourDest f d).map (fun (x : Nat × Nat) => (⟨pdCfacet d, x.1, x.2, f, d.uid, 0, []⟩ : Unwaited)) }.modFacet f (fun x =>
        { x with pourQ := { d with running := true, clash := shared (s.pourDest f d) before } :: q })) t f ∧
      (∀ k, k ≠ dkey 0x8015 1 → Sparse.get dictDefault t.dict k = Sparse.get dictDefault s.dict k)) ∧
  (∀ (s : State) (f : Nat) (d : PourDesc) (q : List PourDesc), (s.facet f).pourQ = d :: q → d.running = true → d.clash = [] →
    s.facetFrozen f = false → s.xferIdle (.pour f d.uid) = true → s.xferStatus (.pour f d.uid) = 0 → s.pourHeld f d = ([], []) →
    pdRows d = 1 → pdImem d = false → s.own (pdSrc d 0) = true → s.own (pdDst d 0) = true → (∀ u ∈ s.unwaited, u.uid = d.uid) →
    fgaOff (pdSrc d 0) + pdLen d ≤ tieredBase → fgaOff (pdDst d 0) + pdLen d ≤ tieredBase →
    s.region (fgaOff (pdSrc d 0)) (pdLen d) ≠ .none → s.region (fgaOff (pdDst d 0)) (pdLen d) ≠ .none →
    0 < pdLen d → s.ucMem = [] → s.ecMem = [] →
    ∃ t, exec (.pourComplete f 0) s = .next t ∧
      t.readMem (fgaOff (pdDst d 0)) (pdLen d) = s.readMem (fgaOff (pdSrc d 0)) (pdLen d) ∧
      s.memKept t (fgaOff (pdDst d 0)) (pdLen d) ∧ (t.facet f).pourQ = q.filter (fun x => decide (x.uid ≠ d.uid)) ∧
      t.gf R.fctSb_COUNT (pdCfacet d * 64 + pdCtr d) = min 16777215 (s.gf R.fctSb_COUNT (pdCfacet d * 64 + pdCtr d) + 1) ∧
      s.regsKept t [.fctStat, .fctSb] ∧ ∀ g, g ≠ f → t.facet g = { s.facet g with hid := (t.facet g).hid })

/-! ### Facet registers -/

/-- R65 to R67: the Facet commands, FCT_MCFG and the counters. What a Facet had in flight is through when it starts again. -/
def Obligations.FacetCommands : Prop :=
  ∀ (s : State) (r : Requester) (f : Nat), f < 256 →
    (s.serves r .fctCmd f → s.asleep = false → s.facetIdle f = true →
      (∀ entry, let v := s.through f
        let v := State.modFacet v f (fun x => { x with loops := [], wait := none, rest := 0, slot := 0, haltReq := false, solo := true })
        let v := { v with unwaited := v.unwaited.filter (fun u => !(u.facet == f && !u.told.isEmpty)) }
        let v := match v.facetPart f with
          | some p => v.modPrt p (fun x => { x with told := x.told.filter (fun g => g != f) })
          | none => v
        exec (.fctStart r f entry) s = .next
          ((((((v.sf R.fctStat_PC f entry).sf R.fctStat_DETACHED f 0).sf R.fctStat_STATE f 1).setGroup (32 + f) ⟨0, none⟩).sf
            R.fctCmd_LAST f 1).sf R.fctCmd_STATUS f 0)) ∧
      exec (.clrsb r f) s = .next ((((s.resetRegs (fun c i => c == .fctSb && i / 64 == f)).modFacet f (fun x => { x with hid := [] })).sf
        R.fctCmd_LAST f 3).sf R.fctCmd_STATUS f 0) ∧
      (∀ entry, let n := s.gf R.fctImemLen_COUNT f
        let src := s.pair .fctImemSrcLo .fctImemSrcHi f
        n ≠ 0 → entry + n ≤ 8192 → src % 32 = 0 → s.own src = true → s.allowed (s.facetPart f) (fgaOff src) (n * 32) false = true →
        exec (.imemLoad r f entry) s = .next ((((s.modFacet f (fun x => { x with imemLoad := some (entry, n, src) })).sf
          R.fctStat_IMEM_BUSY f 1).sf R.fctCmd_LAST f 4).sf R.fctCmd_STATUS f 1))) ∧
    (s.serves r .fctCmd f →
      (s.gf R.fctStat_STATE f = 1 ∨ s.gf R.fctStat_STATE f = 2 →
        ((s.facet f).slot = 0 → exec (.fctHalt r f) s = .next
          (((((s.modFacet f (fun x => { x with wait := none, slot := 0, haltReq := false })).sf R.fctStat_STATE f 3).settle (s.groupOf f)).sf
            R.fctCmd_LAST f 2).sf R.fctCmd_STATUS f 0)) ∧
        ((s.facet f).slot ≠ 0 → exec (.fctHalt r f) s = .next
          (((s.modFacet f (fun x => { x with haltReq := true })).sf R.fctCmd_LAST f 2).sf R.fctCmd_STATUS f 0))) ∧
      (s.gf R.fctStat_STATE f ≠ 1 → s.gf R.fctStat_STATE f ≠ 2 →
        exec (.fctHalt r f) s = .next ((s.sf R.fctCmd_LAST f 2).sf R.fctCmd_STATUS f 0))) ∧
    (∀ entry n src, (s.facet f).imemLoad = some (entry, n, src) → s.facetPart f = none → s.own src = true →
      s.allowed none (fgaOff src) (n * 32) false = true → s.ucMem = [] → s.ecMem = [] → s.ucImem = [] →
      ∃ t, exec (.imemLoadDone f true) s = .next t ∧
        t.readImem f (entry * 32) (n * 32) = s.readMem (fgaOff src) (n * 32) ∧ t.mem = s.mem ∧
        t.gf R.fctStat_IMEM_BUSY f = 0 ∧ t.gf R.fctCmd_STATUS f = 0 ∧ (t.facet f).imemLoad = none ∧ s.facetOnly t f) ∧
    (∀ be val, s.serves r .fctMcfg f →
      let t := s.wr .fctMcfg f (mergeWrite (cardInfo .fctMcfg).fields (s.rd .fctMcfg f) (byteMask be) val)
      (16 ≤ t.gf R.fctMcfg_PROMO f ∧ t.gf R.fctMcfg_PROMO f ≤ 256 → exec (.fctMcfgWrite r f be val) s = .next t) ∧
      (t.gf R.fctMcfg_PROMO f < 16 ∨ 256 < t.gf R.fctMcfg_PROMO f →
        ∃ u, exec (.fctMcfgWrite r f be val) s = .next u ∧ u.rd .fctMcfg f = s.rd .fctMcfg f ∧ u.gf ⟨.fctErr, 10, 10⟩ f = 1)) ∧
    (∀ n be val, n < 64 → s.serves r .fctSb (f * 64 + n) → s.gf R.fctStat_STATE f = 0 ∨ s.gf R.fctStat_STATE f = 3 →
      exec (.sbCounterWrite r f n be val) s = .next (s.wr .fctSb (f * 64 + n)
        (mergeWrite (cardInfo .fctSb).fields (s.rd .fctSb (f * 64 + n)) (byteMask be) val))) ∧
    (∀ n be val, n < 64 → s.serves r .fctSb (f * 64 + n) → s.gf R.fctStat_STATE f ≠ 0 → s.gf R.fctStat_STATE f ≠ 3 →
      ∃ t, exec (.sbCounterWrite r f n be val) s = .next t ∧ t.rd .fctSb (f * 64 + n) = s.rd .fctSb (f * 64 + n) ∧
        t.gf ⟨.fctErr, 11, 11⟩ f = 1 ∧ t.memories = s.memories ∧ t.facets = s.facets)

/-! ### Descriptor rings and Drip engines -/

/-- R129: a ring that runs waits for a slot that does not match, and takes the descriptor of one that does; SLOT and SEQ
advance.
Where it rests on the model's choice: log entry 16. -/
def Obligations.RingPollAndTake : Prop :=
  ∀ (s : State) (r : Nat), s.ringRuns r = true → s.ucAt (s.slotOff r) 64 = [] → hits unitSize s.ecMem (s.slotOff r) 64 = [] →
    let i := ringIdx r
    let slot := s.gf (ringSlot r) i
    let seq := s.gf (ringSeq r) i
    let bs := s.readMem (s.slotOff r) 64
    (leNat (s.readMem (s.slotOff r + 56) 2) ≠ seq → exec (.ringPoll r) s = .next (s.sf (ringState r) i 2)) ∧
    (leNat (s.readMem (s.slotOff r + 56) 2) = seq →
      let d : RingDesc := { uid := s.uid, w := (List.range 8).map (fun k => leNat ((bs.drop (8 * k)).take 8)), slot := slot, seq := seq
                            running := false, done := 0, run := 0, err := false, poison := 0, left := [], clash := [], late := false, aborted := false, held := 0, torn := [] }
      exec (.descriptorTake r) s = .next ((((State.setTaken { s with uid := s.uid + 1 } r (s.takenOf r ++ [d])).sf
        (ringSlot r) i ((slot + 1) % 2 ^ s.gf (ringSizeF r) i)).sf (ringSeq r) i (seq + 1)).sf (ringState r) i 1))

/-- R131, R132: the descriptor at the head of an idle engine's ring starts when its check passes, and the SRAM bytes it shares with
one that has completed and that no FENCE orders before it are noted as undefined; a NOP completes at once; a check that fails
ends the descriptor.
Where it rests on the model's choice: log entries 31 and 32. -/
def Obligations.DripDescriptorStart : Prop :=
  ∀ (s : State) (e : Nat) (d : RingDesc) (q : List RingDesc), s.takenOf e = d :: q → d.running = false →
    (∀ x ∈ q, x.running = false ∧ x.uid ≠ d.uid) → s.engineFrozen e = false →
    s.gf R.drpStat_STATE e = 1 ∨ s.gf R.drpStat_STATE e = 2 →
    let v := if dFence d then s.setPast e [] else s
    (dKind d = 0 → exec (.dripNop e) s = .next (if (s.dripCheck e d).1 then v.dripFail e d else v.setTaken e q)) ∧
    ((∀ x ∈ dripRanges d, s.own x.1 = true) → s.dripHeld e d = [] →
      ∀ p ∈ ([(.wpour e, dKind d == 1), (.aload e, dKind d == 2), (.astore e, dKind d == 3),
              (.dripArcExp2 e, dKind d == 4 && cFn d == 0x00), (.dripArcExp e, dKind d == 4 && cFn d == 0x01),
              (.dripArcRecip e, dKind d == 4 && cFn d == 0x04), (.dripArcRsqrt e, dKind d == 4 && cFn d == 0x05),
              (.dripArcSoftmaxStep e, dKind d == 4 && cFn d == 0x10), (.dripArcSoftmaxFinal e, dKind d == 4 && cFn d == 0x11),
              (.dripArcRmsStats e, dKind d == 4 && cFn d == 0x12), (.scorePour e, dKind d == 5), (.valuePour e, dKind d == 6)] :
              List (Instr × Bool)),
        p.2 = true →
        (s.dripCheck e d = (false, []) → dFence d = true ∨ s.pastOf e = [] →
          exec p.1 s = .next ((((((v.setTaken e ({ d with running := true, clash := [] } :: q)).dripWatch e d).dripExpect e d).sf
            R.drpStat_LANE_BUSY e (b2n ((dClasses d).contains 0))).sf R.drpStat_XFER_BUSY e (b2n ((dClasses d).contains 1))).sf
            R.drpStat_ARC_BUSY e (b2n ((dClasses d).contains 2)))) ∧
        (s.dripCheck e d = (false, []) → dFence d = false → ∃ t, exec p.1 s = .next t ∧
          t.takenOf e = { d with running := true, clash := (s.pastOf e).flatMap (fun x =>
            shared (sramWrites d) (sramReads x ++ sramWrites x) ++ shared (sramReads d ++ sramWrites d) (sramWrites x)) } :: q) ∧
        ((s.dripCheck e d).1 = true → (s.dripCheck e d).2 = [] → exec p.1 s = .next (v.dripFail e d)))

/-- R55, R135, R136: the row blocks done are returned on RCTR; an ALOAD of 64 bytes ends with the bytes in the activation SRAM and
CCTR incremented. Where it rests on the model's choice: log entries 15 and 31. -/
def Obligations.DripReturnAndCompletion : Prop :=
  (∀ (s : State) (e : Nat) (d : RingDesc), s.takenOf e = [d] → d.running = true → d.aborted = false → dKind d = 1 → wRchunk d ≠ 0 → d.run ≠ 0 →
    d.err = false → s.engineFrozen e = false → s.xferOf (.drip e d.uid) = none → s.xferIdle (.drip e d.uid) = true → s.dripHeld e d = [] →
    s.wFar d = false → s.hitParts (some d.uid) = [] →
    exec (.wpourReturn e) s = .next
      ((((s.arrivedRuns d.uid (wRctr d) (fun k => decide (k * wRchunk d < d.done))).noteDelay (dCfacet d) (wRctr d) d.held).sbAdd (dCfacet d) (wRctr d) 1).setTaken e [{ d with run := 0 }])) ∧
  (∀ (s : State) (e : Nat) (d : RingDesc), e < 32 → s.takenOf e = [d] → d.running = true → d.aborted = false → dKind d = 2 → tRows d = 1 → tLen d = 64 →
    d.done = 0 → d.err = false → d.clash = [] → s.engineFrozen e = false → s.xferOf (.drip e d.uid) = none → s.xferIdle (.drip e d.uid) = true →
    s.own (tFga d 0) = true → fgaOff (tFga d 0) + 64 ≤ tieredBase → s.region (fgaOff (tFga d 0)) 64 ≠ .none →
    s.ucMem = [] → s.ecMem = [] → s.ucSram = [] → s.unwaited = [] → d.torn = [] →
    ∃ t, exec (.dripDescriptorComplete e 1) s = .next t ∧ t.takenOf e = [] ∧
      t.readSram e (tSram d) 64 = s.readMem (fgaOff (tFga d 0)) 64 ∧
      t.memories = { s.memories with sram := t.sram } ∧
      (∀ b, b < e * 2097152 + tSram d ∨ e * 2097152 + tSram d + 64 ≤ b → Sparse.get t.sramD t.sram b = Sparse.get s.sramD s.sram b) ∧
      t.gf R.fctSb_COUNT (dCfacet d * 64 + dCctr d) = min 16777215 (s.gf R.fctSb_COUNT (dCfacet d * 64 + dCctr d) + 1) ∧
      s.regsKept t [.fctSb, .drpStat] ∧ ∀ g, t.facet g = { s.facet g with hid := (t.facet g).hid })

/-- R140 to R142: the engine's commands and registers.
Where it rests on the model's choice: log entry 45. -/
def Obligations.DripCommands : Prop :=
  ∀ (s : State) (r : Requester) (e : Nat), e < 32 →
    (s.serves r .drpCmd e → s.gf R.drpStat_STATE e = 0 →
      (s.drpRingOk e = true → exec (.drpStart r e) s = .next (((s.sf R.drpStat_STATE e 1).sf R.drpCmd_LAST e 1).sf R.drpCmd_STATUS e 0)) ∧
      (∃ t, exec (.drpZero r e) s = .next t ∧ (∀ b n, b + n ≤ 2097152 → t.readSram e b n = List.replicate n 0) ∧
        t.memories = { s.memories with sram := t.sram, lost := t.lost } ∧
        t.regs = ((s.sf R.drpCmd_LAST e 4).sf R.drpCmd_STATUS e 0).regs ∧ t.facets = s.facets)) ∧
    (s.serves r .drpCmd e → s.gf R.drpStat_STATE e ≠ 0 → (∀ x ∈ s.takenOf e, x.running = true) →
      exec (.drpStop r e) s = .next (((s.sf R.drpStat_STATE e 3).sf R.drpCmd_LAST e 2).sf R.drpCmd_STATUS e 1) ∧
      (s.takenOf e = [] → exec (.drpAbort r e) s = .next (((s.sf R.drpStat_STATE e 3).sf R.drpCmd_LAST e 3).sf R.drpCmd_STATUS e 1))) ∧
    (s.gf R.drpStat_STATE e = 3 → s.takenOf e = [] →
      let u := (s.sf R.drpStat_STATE e 0).setPast e []
      exec (.drpStopped e) s = .next (if s.gf R.drpCmd_STATUS e = 1 then u.sf R.drpCmd_STATUS e 0 else u)) ∧
    (∀ be val, s.serves r .drpRingLo e → exec (.drpRingWrite r e 0x10 be val) s = .next { s with
      shadows := (s.unshadow r .drpRingLo e).shadows ++ [⟨r, .drpRingLo, e, true, be, val⟩] }) ∧
    (∀ be val x, s.serves r .drpRingHi e → s.serves r .drpRingLo e → s.shadowOf r .drpRingLo e = some x → x.write = true →
      exec (.drpRingWrite r e 0x14 be val) s = .next (let u := s.unshadow r .drpRingLo e
        if s.gf R.drpStat_STATE e = 0 then
          let u := u.wr .drpRingLo e (mergeWrite (cardInfo .drpRingLo).fields (s.rd .drpRingLo e) (byteMask x.be) x.val)
          u.wr .drpRingHi e (mergeWrite (cardInfo .drpRingHi).fields (s.rd .drpRingHi e) (byteMask be) val)
        else u.sf ⟨.drpErr, 5, 5⟩ e 1)) ∧
    (∀ be val, ∀ p ∈ ([(0x14, .drpRingHi), (0x18, .drpRingCfg), (0x20, .drpHead)] : List (Nat × Card)),
      s.serves r p.2 e → s.shadowOf r .drpRingLo e = none →
        exec (.drpRingWrite r e p.1 be val) s = .next (if s.gf R.drpStat_STATE e = 0
          then s.wr p.2 e (mergeWrite (cardInfo p.2).fields (s.rd p.2 e) (byteMask be) val)
          else s.sf ⟨.drpErr, 5, 5⟩ e 1)) ∧
    (∀ be val, s.serves r .drpCfg e →
      let v := mergeWrite (cardInfo .drpCfg).fields (s.rd .drpCfg e) (byteMask be) val
      exec (.drpCfgWrite r e be val) s = .next
        (if 16 ≤ fld v 8 0 ∧ fld v 8 0 ≤ 256 then s.wr .drpCfg e v else s.sf ⟨.drpErr, 0, 0⟩ e 1))

/-! ### Carafe and the key-value cache -/

/-- R120, R153, R154: a scrub clears and counts the correctable errors of its quadrant; KV_LAYOUT is written while the partition has neither
tickets nor ranges; the page commands. -/
def Obligations.ScrubAndPageCommands : Prop :=
  (∀ (s : State) (stack q : Nat) (corrected : List Nat), 4 * stack + q < s.engineCount → q < 4 →
    let lo := (4 * stack + q) * 2 ^ 34
    let inside := fun (u : Nat) => decide (lo ≤ u) && decide (u < lo + 2 ^ 34)
    let n := (s.ecMem.filter inside).length + (corrected.filter (fun u => decide (u < 2 ^ 34))).length
    ∃ t, exec (.carafeScrub stack q corrected) s = .next t ∧ t.ecMem = s.ecMem.filter (fun u => !inside u) ∧
      t.dnum 0x8013 1 % 2 ^ 64 = (s.dnum 0x8013 1 + n) % 2 ^ 64 ∧ t.memories = s.memories ∧ t.facets = s.facets) ∧
  (∀ (s : State) (r : Requester) (p l be : Nat) (val : Word), p < 16 → l < 256 → s.serves r .kvLayout (p * 256 + l) → s.liveSlots p = [] →
    (∀ x ∈ s.ranges, x.p ≠ p) → exec (.kvLayoutWrite r p l be val) s = .next
      (s.wr .kvLayout (p * 256 + l) (mergeWrite (cardInfo .kvLayout).fields (s.rd .kvLayout (p * 256 + l)) (byteMask be) val))) ∧
  (∀ (s : State) (r : Requester) (p l be : Nat) (val : Word), p < 16 → l < 256 → s.serves r .kvLayout (p * 256 + l) →
    (s.liveSlots p ≠ [] ∨ ∃ x ∈ s.ranges, x.p = p) → exec (.kvLayoutWrite r p l be val) s = .next
      (s.report (source 8 0xC) (unstatedCode 7) 1 (some p) (s.cardAddr .kvLayout (p * 256 + l)))) ∧
  (∀ (s : State) (r : Requester) (g : KvPage), s.serves r .kvPgcmd 0 →
    let h := (s.rd .kvPgarg0 0).toNat
    let l := s.gf R.kvPgarg1_LAYER 0
    let at_ := s.gf R.kvPgarg1_POS 0 * s.kvEsize (hPart h) l
    s.kvEn (hPart h) l = true → s.handleCode h = 0 → s.inStep h = false →
    (exec (.kvFreeBelow r) s = .next ((((State.pruneTables { s with kvPages := s.kvPages.filter (fun g => !(g.slot == hSlot h && g.layer == l && g.shared.isNone &&
      decide (kvPageOff g.n + kvPageSize g.n ≤ at_))) }).sf R.kvPgcmd_LAST 0 2).sf R.kvPgcmd_STATUS 0 0).sf R.kvPgcmd_CODE 0 0)) ∧
    (s.kvAt (hSlot h) (l * 0x10000000 + at_) = some g →
      (g.shared = none → exec (.kvFree r) s = .next ((((State.pruneTables { s with kvPages := s.kvPages.filter (fun x => decide (x ≠ g)) }).sf
        R.kvPgcmd_LAST 0 1).sf R.kvPgcmd_STATUS 0 0).sf R.kvPgcmd_CODE 0 0)) ∧
      exec (.kvQuery r) s = .next ((((s.wr .kvPginfo 0 (BitVec.ofNat 32 (2 ^ 31 + b2n g.shared.isSome * 2 ^ 30 + g.z * 2 ^ 26 +
        g.addr / 0x400000000 * 2 ^ 21))).sf R.kvPgcmd_LAST 0 3).sf R.kvPgcmd_STATUS 0 0).sf R.kvPgcmd_CODE 0 0)))

/-- R165 to R171: a due publication at the lead and elsewhere, the mapping of a match of one shared page, of which a package that is
not the lead tells it, the expiry of a retained range, and the demotion of one to the Urn, whose bytes come to lie there. Where
it rests on the model's choice: log entries 51 and 54. -/
def Obligations.PrefixesAndRanges : Prop :=
  (∀ (s u : State) (slot told : Nat), s.publishDue slot = true →
    let done := fun (t : State) => t.modTicket slot (fun x => { x with pubOver := true, flags := 4 })
    let lost := fun (t : State) => t.modTicket slot (fun x => { x with reason := 0x27, pubOver := true })
    (s.isLead (s.ticket slot).part = true →
      (s.publish slot = (u, true) → exec (.prefixPublish ⟨slot, told, true⟩) s = .next (done u)) ∧
      (s.publish slot = (u, false) → exec (.prefixPublish ⟨slot, told, true⟩) s = .next (lost u)) ∧
      exec (.prefixPublish ⟨slot, told, false⟩) s = .next (lost s)) ∧
    (s.isLead (s.ticket slot).part = false → ∀ others ok, s.publishPages slot told = (u, ok) → told ≠ 0 → exec (.prefixPublish ⟨slot, told, others⟩) s = .next
      ((u.modTicket slot (fun x => { x with pubOver := true })).tell (s.ticket slot).part "replicas" (b2n ok)))) ∧
  (∀ (s : State) (slot others id l m : Nat) (r : KvRange) (g : RangePage),
    let t := s.ticket slot
    let e := s.kvEsize t.part l
    let home := s.kvHome t.part slot l
    let u := State.addRef { s with kvPages := s.kvPages ++ [⟨slot, l, 0, g.z, g.addr, some id, 0, 0⟩] } id g.addr l 0
    t.state = 1 ∨ t.state = 2 → t.mmapped = false → t.mtch = m → m * e = 4096 → s.rangeOf t.mrange = some r → r.tier = 0 →
    s.kvLayers t.part = [l] → m ≤ others → s.readableMatch r t slot m = m → r.pageFor home l 0 = some (id, g) →
    g.addr / 0x400000000 = home → 4096 * u.tablesInUse.length ≤ u.ptPool →
    (s.isLead t.part = true →
      exec (.prefixMatchMap ⟨slot, others, []⟩) s = .next (u.placeTables.modTicket slot (fun x => { x with mtch := m, mmapped := true, len := m }))) ∧
    (s.isLead t.part = false → exec (.prefixMatchMap ⟨slot, others, []⟩) s = .next
      ((u.placeTables.modTicket slot (fun x => { x with mmapped := true })).tell t.part "match" (t.handle slot + m * 2 ^ 32)))) ∧
  (∀ (s : State) (id : Nat) (r : KvRange), s.rangeOf id = some r → r.published = false → r.expiry ≤ s.time →
    ∃ t, exec (.retainedRangeExpiry id) s = .next t ∧ (∀ x ∈ t.ranges, x.id = id → x.ended = true) ∧
      (∀ h ∈ t.hashes, h.range ≠ id) ∧ t.regs = s.regs ∧ t.memories = s.memories ∧ t.kvPages = s.kvPages) ∧
  (∀ (s : State) (id f : Nat) (r : KvRange) (bs : List Byte), s.rangeOf id = some r → r.tier = 0 → r.idle = true →
    max r.lastMatch r.moved + s.dnum 0x5061 2 * 1000000000 ≤ s.time → s.tierOn 1 = true → s.rangeBytes r = some bs →
    s.allocLow 1 r.bytes = some f → s.ucMem = [] → s.ecMem = [] →
    ∃ t, exec (.retainedRangeDemotion id) s = .next t ∧ t.readMem f bs.length = bs ∧ s.memKept t f bs.length ∧ t.regs = s.regs ∧
      (∃ x ∈ t.ranges, x.id = id ∧ x.tier = 1 ∧ x.lower = f ∧ x.moved = s.time ∧ x.tokens = r.tokens))

/-! ### Memory tiers -/

/-- R180, R181, R182, R191: MAP of one Carafe page, which reads as zeros; UNMAP, MIGRATE, HINT and QUERY where no code applies and
nothing is held; UNMAP and HINT of pages that are in migration wait. Where it rests on the model's choice: log entries 33 and
107. -/
def Obligations.TierCommands : Prop :=
  ∀ (s : State) (r : Requester) (p : Nat), p < 16 → s.serves r .trCmd p →
    let pages := s.trPages p
    let tier := s.gf R.trAttr_TIER p
    let hint := s.gf R.trAttr_HINT p
    let fin := fun (t : State) (cmd status : Nat) => ((t.sf R.trCmd_LAST p cmd).sf R.trCmd_STATUS p status).sf R.trCmd_CODE p 0
    (∀ f, s.trCode r p 1 = 0 → s.gf R.trLen_PAGES p = 1 → tier = 0 →
      (s.barRange p pages).placeFor p (s.newLeaf p (s.trOff p)) 0 = (s.barRange p pages, some f) →
      f + s.trSize p ≤ apertureBase →
      let b : State := (s.barRange p pages).zeroMem f (s.trSize p)
      let u : State := State.modPrt { b.overwrite f (s.trSize p) with leaves := insLeaf { s.newLeaf p (s.trOff p) with frame := f } s.leaves }
        p (fun x => { x with trBusy := false, trRange := [] })
      4096 * u.tablesInUse.length ≤ u.ptPool →
      ∃ t, exec (.trMap r p) s = .next t ∧ t = fin (u.placeTables.trRoot p) 1 0 ∧
        t.leaves = insLeaf { s.newLeaf p (s.trOff p) with frame := f } s.leaves ∧
        (∀ b, f ≤ b → b < f + s.trSize p → t.readMem b 1 = [0]) ∧
        (∀ b, (b < f ∨ f + s.trSize p ≤ b) → (b < s.carafeSize - s.ptPool ∨ s.carafeSize - s.ptPool + s.ptPool ≤ b) →
          t.readMem b 1 = s.readMem b 1) ∧
        s.regsKept t [.trCmd, .trRootLo, .trRootHi] ∧ t.facets = s.facets) ∧
    (s.trCode r p 2 = 0 → s.holds = [] → (∀ va ∈ pages, s.migrating p va = false) →
      let gone := pages.flatMap (fun va => s.leaves.filter (fun l => l.p == p && l.va == va))
      exec (.trUnmap r p) s = .next (fin (State.placeTables { gone.foldl (fun (t : State) l => t.freeLeaf l) s with
        leaves := s.leaves.filter (fun l => !(l.p == p && pages.contains l.va))
        moves := s.moves.filter (fun m => !(m.p == p && pages.contains m.va))
        aslots := s.aslots.map (fun x => if x.p = p then { x with pages := x.pages.filter (fun y => !pages.contains y) } else x) }) 2 0)) ∧
    (s.trCode r p 3 = 0 → moveFits p tier pages (s.barRange p pages) = true →
      let todo := pages.filter (fun va => match s.leafOf p va with
        | some l => l.tier != tier || l.mig.isSome
        | none => false)
      todo ≠ [] → exec (.trMigrate r p) s = .next (fin (State.modPrt { s with
        moves := s.moves.filter (fun m => !(m.p == p && todo.contains m.va)) ++ todo.map (fun va => ⟨p, va, tier, true, 0, false⟩) }
        p (fun x => { x with trBusy := true, trRange := pages, trWait := none, trLeft := [] })) 3 1)) ∧
    (s.trCode r p 4 = 0 → hint ≠ 4 → (∀ va ∈ pages, s.migrating p va = false) →
      exec (.trHint r p) s = .next (fin (State.placeTables { s with
        leaves := s.leaves.map (fun (l : Leaf) => if l.p = p ∧ l.va ∈ pages then { l with hint := hint } else l) }) 4 0)) ∧
    (∀ q ∈ ([(.trUnmap r p, 2, 0), (.trHint r p, 4, hint)] : List (Instr × Nat × Nat)), s.trCode r p q.2.1 = 0 →
      (q.2.1 = 4 → hint ≠ 4) → pages ≠ [] → (∀ va ∈ pages, s.migrating p va = true) → exec q.1 s = .next (fin (s.modPrt p (fun x =>
        { x with trBusy := true, trRange := pages, trWait := some (q.2.1, q.2.2), trLeft := pages })) q.2.1 1)) ∧
    (∀ l, s.trCode r p 5 = 0 → s.leafAt p (s.trOff p) = some l → exec (.trQuery r p) s = .next (fin (s.wr .trInfo p (BitVec.ofNat 32
      (2 ^ 31 + l.tier * 2 ^ 29 + l.psize * 2 ^ 27 + b2n l.ro * 2 ^ 26 + b2n l.cmp * 2 ^ 25 + b2n l.d * 2 ^ 24 + b2n l.mig.isSome * 2 ^ 23 +
        l.hint * 2 ^ 20 + b2n (l.lower.isSome || l.cmp) * 2 ^ 19))) 5 0))

/-- R179, R181 to R183: a held access that has waited for its limit fails; pages start to move and their bytes arrive in the new
frame; a page whose lower copy stands goes back to it; a MIGRATE completes when every page has moved.
Where it rests on the model's choice: log entries 16 and 20. -/
def Obligations.Migration : Prop :=
  (∀ (s : State) (f uid : Nat) (h : Hold) (d : PourDesc), s.holds = [h] → h.who = .pour f uid → s.xferOf h.who = none →
    (s.facet f).pourQ.find? (fun d => decide (d.uid = uid)) = some d → s.farRows d true = [] → s.farRows d false = [] →
    ∃ t, exec (.holdTimeout 0) s = .next t ∧ t.holds = [] ∧ t.xferStatus h.who = stNotResident ∧
      t.time = max s.time (h.at_ + s.dnum 0x5030 1 * 1000) ∧ t.memories = s.memories ∧ (∀ g, g ≠ f → t.facet g = s.facet g) ∧
      t.facet f = { s.facet f with pourQ := (s.facet f).pourQ.map (fun d => if d.uid = uid then { d with held := d.held + (t.time - h.at_) } else d) }) ∧
  (∀ (s : State) (p va : Nat) (l : Leaf), s.leafOf p va = some l → l.mig = none →
    (∀ t f, s.wanted l = some t → t < l.tier → s.tierOn t = true → s.tierReads l.tier = true → s.placeFor p l t = (s, some f) →
      let u := s.setLeaf p va (fun x => { x with mig := some ⟨t, f⟩ })
      exec (.pagePromotion p va) s = .next (if t = 0 ∧ l.cmp = true then u.bloomAsk (.promotion p va) l.segRanges else u)) ∧
    (∀ m, s.moves.find? (fun m => decide (m.p = p ∧ m.va = va) && !m.failed && (m.cmd || !s.commanded l)) = some m → l.tier < m.tier →
      m.cmd = true ∨ l.hint ≠ 4 →
      (l.drops = true → s.canDrop l = true → exec (.pageDemotion p va) s = .next (s.dropLeaf l).settleMoves) ∧
      (∀ f, l.drops = false → s.tierOn m.tier = true → (∀ x ∈ s.moves, x.p = p → x.va = va → x.cmd = true → x.tries < 2) → s.placeFor p l m.tier = (s, some f) →
        exec (.pageDemotion p va) s = .next (State.setLeaf { s with
          moves := s.moves.map (fun m => if m.p = p ∧ m.va = va then { m with tries := m.tries + 1 } else m) } p va
            (fun x => { x with mig := some ⟨m.tier, f⟩ }))))) ∧
  (∀ (s : State) (p va : Nat) (l : Leaf) (m : Mig) (bs : List Byte), s.leafOf p va = some l → l.mig = some m → s.holds = [] →
    s.ucMem = [] → s.ecMem = [] → s.bloom = [] → (s.prt p).trWait = none →
    (m.tier = 0 → 0 < l.tier → s.tierReads l.tier = true → s.leafBytes l = .ok bs →
      s.hitsOf none (BloomFor.promotion p va).key = [] → ∃ t, exec (.promotionComplete p va []) s = .next t ∧
      t.readMem m.frame bs.length = bs ∧ s.memKept t m.frame bs.length ∧ t.regs = s.regs ∧ t.facets = s.facets ∧
      t.leaves = s.leaves.map (fun x => if x.p = p ∧ x.va = va then x.moved 0 m.frame else x)) ∧
    (m.tier = 1 → l.tier = 0 → s.tierRead 0 l.frame (pageBytes l.psize) = some bs → ∃ t, exec (.demotionComplete p va true) s = .next t ∧
      t.readMem m.frame bs.length = bs ∧ s.memKept t m.frame bs.length ∧ t.regs = s.regs ∧ t.facets = s.facets ∧
      t.leaves = s.leaves.map (fun x => if x.p = p ∧ x.va = va then { x with tier := 1, frame := m.frame, mig := none, lower := none } else x))) ∧
  (∀ (s : State) (p : Nat), let u := s.settleMoves
    (s.prt p).trWait = none → (s.prt p).trBusy = true → (∀ m ∈ u.moves, m.p = p → m.cmd = true → m.failed = true) →
    let bad := u.moves.any (fun m => m.p == p && m.cmd)
    exec (.migrateComplete p) s = .next (((State.modPrt { s with moves := u.moves.filter (fun m => !(m.p == p && m.cmd)) } p
      (fun x => { x with trBusy := false, trRange := [] })).sf R.trCmd_STATUS p (if bad then 3 else 0)).sf R.trCmd_CODE p (if bad then 0xA else 0)))

/-- R187 to R190: the cursor is read, a PROMOTE entry whose mark is reached asks for its moves, a STAGE brings a unit into
Carafe and counts, and the registers of the schedule, whose addresses are written as pairs (R26).
Where it rests on the model's choice: log entry 16. -/
def Obligations.PrefetchSchedule : Prop :=
  (∀ (s : State) (p : Nat), p < 16 → s.gf R.pfCtl_EN p = 1 → (s.prt p).frozen = false → s.pfPlaced p = true → s.ucMem = [] → s.ecMem = [] →
    let w := leNat (s.readMem (fgaOff (s.pfCursor p)) 8)
    let t := if bits (Sparse.get (fun _ => 0) s.cursor p) 63 32 ≠ bits w 63 32 then s.sf R.pfStat_NEXT p 0 else s
    let t := { t with cursor := Sparse.put (fun _ => 0) s.cursor p w }
    (s.gf R.pfCtl_NENT p ≤ t.gf R.pfStat_NEXT p → exec (.cursorPoll p) s = .next t) ∧
    (∀ x, s.gf R.pfCtl_NENT p = 1 → t.gf R.pfStat_NEXT p = 0 → s.own (s.pfBase p) = true → s.pfBase p % 32 = 0 →
      s.region (fgaOff (s.pfBase p)) 32 = .carafe → s.pfEntry p 0 = x → bit x.w0 63 = true → bits x.w0 60 45 ≤ bits w 31 0 →
      s.pfBad p x = false → x.act = 0 → exec (.cursorPoll p) s = .next ((t.pfMoves p x).sf R.pfStat_NEXT p 1))) ∧
  (∀ (s : State) (p : Nat) (g : Stage) (l : Leaf) (bs : List Byte), s.stages = [g] → g.p = p → g.units = 1 → (s.prt p).frozen = false →
    s.gf R.pfCtl_EN p = 0 → s.bloom = [] → s.leafAt p g.src = some l → l.tier < 2 → s.tierReads l.tier = true → s.leafBytes l = .ok bs →
    (∀ x ∈ s.leaves, x.p = p → x.va < g.src + 4096 → g.src < x.va + pageBytes x.psize → x = l) →
    g.dst + 4096 ≤ s.carafeSize → ((bs.drop (g.src - l.va)).take 4096).length = 4096 → s.ucMem = [] → s.ecMem = [] →
    s.hitsOf none (BloomFor.stage g.uid l.va).key = [] →
    ∃ t, exec (.stageComplete p 0 []) s = .next t ∧ t.readMem g.dst 4096 = (bs.drop (g.src - l.va)).take 4096 ∧
      s.memKept t g.dst 4096 ∧ t.stages = [] ∧ t.gf R.pfStat_ACTIVE p = 0 ∧
      t.gf R.fctSb_COUNT (g.cfacet * 64 + g.ctr) = min 16777215 (s.gf R.fctSb_COUNT (g.cfacet * 64 + g.ctr) + 1) ∧
      s.regsKept t [.fctSb, .pfStat] ∧ (∀ f, { t.facet f with hid := (s.facet f).hid } = s.facet f)) ∧
  (∀ (s : State) (r : Requester) (p be : Nat) (val : Word), p < 16 →
    (s.serves r .pfCtl p →
      let t := s.wr .pfCtl p (mergeWrite (cardInfo .pfCtl).fields (s.rd .pfCtl p) (byteMask be) val)
      t.gf R.pfCtl_NENT p ≤ 4096 → exec (.pfCtlWrite r p be val) s = .next t) ∧
    (∀ q ∈ ([(0x48, .pfBaseLo, 0x4C, .pfBaseHi), (0x50, .pfCursorLo, 0x54, .pfCursorHi)] : List (Nat × Card × Nat × Card)),
      s.serves r q.2.1 p → s.serves r q.2.2.2 p →
      exec (.pfAddressWrite r p q.1 be val) s = .next { s with
        shadows := (s.unshadow r q.2.1 p).shadows ++ [⟨r, q.2.1, p, true, be, val⟩] } ∧
      (∀ x, s.gf R.pfCtl_EN p = 0 → s.shadowOf r q.2.1 p = some x → x.write = true → exec (.pfAddressWrite r p q.2.2.1 be val) s = .next
        (((s.unshadow r q.2.1 p).wr q.2.1 p (mergeWrite (cardInfo q.2.1).fields (s.rd q.2.1 p) (byteMask x.be) x.val)).wr q.2.2.2 p
          (mergeWrite (cardInfo q.2.2.2).fields (s.rd q.2.2.2 p) (byteMask be) val))) ∧
      (s.gf R.pfCtl_EN p = 0 → s.shadowOf r q.2.1 p = none → exec (.pfAddressWrite r p q.2.2.1 be val) s = .next
        (s.wr q.2.2.2 p (mergeWrite (cardInfo q.2.2.2).fields (s.rd q.2.2.2 p) (byteMask be) val)))))

/-! ### Vertex Bloom and the Hopper tier -/

/-- R200, R205, R208, R212, R217, R223: an accepted expansion, which asks for a Bloom unit, and its end with a good segment that
nothing has written meanwhile; the mount and its refusals, FORMAT and its end, SCAN.
Where it rests on the model's choice: log entries 46 and 98. -/
def Obligations.BloomAndHopper : Prop :=
  (∀ (s : State) (r : Requester), s.serves r .blmCmd 0 →
    let src := s.pair .blmSrcLo .blmSrcHi 0
    let dst := s.pair .blmDstLo .blmDstHi 0
    let n := (s.rd .blmDstlen 0).toNat
    let h := s.readMem (fgaOff src) 64
    let read := (fgaOff src, 64) :: (fgaOff src + 64, tampLen h - 64) ::
      (if tampTloc h = 1 then [(fgaOff src - tampBack h, tampTables h)] else [])
    src % 64 = 0 → dst % 64 = 0 → s.plain src 64 = true → s.plain src (max 64 (tampBodylen h)) = true → s.plain dst n = true →
    overlap (fgaOff src, max 64 (tampBodylen h)) (fgaOff dst, n) = false → s.blmJob = none →
    ∃ t, exec (.blmExpand r) s = .next t ∧
      t = (((State.bloomAsk { s with blmJob := some (fgaOff src, fgaOff dst, n) } .expand read).sf R.blmCmd_LAST 0 1).sf R.blmCmd_STATUS 0 1).sf R.blmCmd_REASON 0 0 ∧
      (s.bloom = [] → t.gf R.blmStat_BUSY 0 = 1) ∧ t.memories = s.memories ∧ t.facets = s.facets) ∧
  (∀ (s : State) (src dst n : Nat), s.blmJob = some (src, dst, n) → s.bloomWaits .expand = false → s.hitsOf none 0 = [] →
    s.ucMem = [] → s.ecMem = [] →
    let q := tampExpand s.rdQ (fun a k => decide (s.region a k = .carafe) || decide (s.region a k = .urn)) src ⟨none, none, 2 ^ 40, n, true⟩
    let u := State.bloomEnd { s with blmJob := none } .expand
    q.reason = 0 → ∃ t, exec .blmExpandDone s = .next t ∧ t.readMem dst q.out.length = q.out ∧ s.memKept t dst q.out.length ∧
      t.regs = ((((u.wr .blmOut 0 (BitVec.ofNat 32 q.outlen)).sf R.blmCmd_LAST 0 1).sf R.blmCmd_STATUS 0 0).sf
        R.blmCmd_REASON 0 0).regs ∧ t.blmJob = none ∧ t.bloom = u.bloom ∧ t.facets = s.facets) ∧
  (∀ (s : State) (nand : Nand), s.hopState = 1 → s.flash.nand.dies = 0 → s.rd .regoLatch 0 = 0 → nand.replaced = false →
    (∀ k, k ≠ 0 → nand.refusal nand.trained = k → exec (.hopperMount nand) s = .next
      ((s.sf R.hopStat_CH_OK 0 (nand.trained &&& (65535 - s.flash.retired))).setHop 0 k)) ∧
    (nand.trained = 65535 → s.flash.retired = 0 → nand.refusal 65535 = 0 → nand.fits = true →
      ∃ t, exec (.hopperMount nand) s = .next t ∧ t.flash.nand = nand ∧ t.gf R.hopStat_CH_OK 0 = 65535 ∧
        (s.flash.unformed = true ∨ nand.media = 0 → t.hopState = 1 ∧ t.flash.unformed = true) ∧
        (s.flash.unformed = false → nand.media = 1 → t.hopState = 2 ∨ t.hopState = 3) ∧
        (s.flash.unformed = false → nand.media = 2 → t.hopState = 4) ∧ t.memories = s.memories ∧ t.facets = s.facets)) ∧
  (∀ (s : State) (r : Requester), s.serves r .hopCmd 0 →
    (2 ≤ s.hopState → (∀ l ∈ s.leaves, l.tier ≠ 2) → (∀ x ∈ s.ranges, x.tier ≠ 2) →
      ∃ t, exec (.hopFormat r) s = .next t ∧ t.hopState = 1 ∧ t.gf R.tierStat_HOPPER_OK 0 = 0 ∧ t.gf R.hopCmd_LAST 0 = 1 ∧
        t.gf R.hopCmd_STATUS 0 = 1 ∧ t.flash = { s.flash with unformed := true, scan := [] } ∧ t.memories = s.memories ∧
        t.facets = s.facets ∧ s.regsKept t [.hopStat, .tierStat, .hopCmd]) ∧
    (s.hopState = 2 ∨ s.hopState = 3 →
      let bs := (s.flash.placed.map (fun x => x.blk)).eraseDups
      exec (.hopScan r) s = .next (((s.modFlash (fun f => { f with scan := bs })).sf R.hopCmd_LAST 0 2).sf R.hopCmd_STATUS 0
        (b2n !bs.isEmpty)))) ∧
  (∀ (s : State), s.hopState = 1 → s.flash.nand.dies ≠ 0 → s.flash.unformed = true → s.gf R.hopStat_CH_OK 0 = 65535 →
    s.gf R.hopCmd_STATUS 0 = 1 →
    ∃ t, exec .formatDone s = .next t ∧ t.hop = [] ∧ t.flash.placed = [] ∧ t.flash.stripes = [] ∧ t.flash.unformed = false ∧
      t.flash.op = s.dnum 0x5040 2 ∧ (t.hopState = 2 ∨ t.hopState = 3) ∧ t.gf R.hopCmd_STATUS 0 = 0 ∧
      (∀ b, b < s.flash.nand.allBlocks → s.isDump b = false → (s.blk b).bad = false → b ∉ s.flash.nand.factory →
        t.blk b = ⟨(s.blk b).erases + 1, 0, 0, false, 0⟩) ∧
      (∀ b, b < s.flash.nand.allBlocks → b ∈ s.flash.nand.factory → (t.blk b).bad = true) ∧
      t.memories = { s.memories with hop := [] } ∧ s.regsKept t [.hopStat, .tierStat, .hopCmd])

/-- R213 to R219: what the flash events do to the blocks and the units that move; no byte of a memory changes.
Where it rests on the model's choice: log entries 47 and 98. -/
def Obligations.FlashEvents : Prop :=
  (∀ (s : State) (u b rung : Nat) (old : Placed), s.flash.moving.find? (fun m => m.1 == u) = some (u, b) →
    s.flash.placed.find? (fun x => x.unit == u) = some old → ∃ t, exec (.unitMoveCommit ⟨u, rung⟩) s = .next t ∧
      t.flash.placed.filter (fun x => x.unit != u) = s.flash.placed.filter (fun x => x.unit != u) ∧
      (t.flash.placed.filter (fun x => x.unit == u)).map (fun x => x.blk) =
        (if s.hopLost.contains u = true ∨ 5 ≤ rung ∨ (rung = 4 ∧ s.rebuildable u = false) then [] else [b]) ∧
      t.flash.moving = s.flash.moving.filter (fun x => x.1 != u) ∧ t.memories = s.memories ∧ t.facets = s.facets) ∧
  (∀ (s : State) (b n u : Nat) (us : List Nat), s.unitsOf b = u :: us →
    let move := fun (t : State) => (t.modFlash (fun f => { f with
      moving := f.moving ++ ((u :: us).filter (fun u => !s.flash.moving.any (fun m => m.1 == u))).map (fun u => (u, n)) })).modBlk b
        (fun x => { x with due := 0 })
    (∀ x rung corrected, s.flash.placed.find? (fun x => x.unit == u) = some x → x.blk = b → s.hopLost.contains u = false →
      rung < 2 → corrected ≤ 60 →
      (s.flash.scan.contains b = false →
        exec (.scanInterval b rung corrected) s = .next (s.modBlk b (fun x => { x with reads := x.reads + 1 }))) ∧
      (s.flash.scan = [b] → s.gf R.hopCmd_STATUS 0 = 1 → s.gf R.hopCmd_LAST 0 = 2 → exec (.scanInterval b rung corrected) s = .next
        (((s.modFlash (fun f => { f with scan := [] })).sf R.hopCmd_STATUS 0 0).modBlk b (fun x => { x with reads := x.reads + 1 })))) ∧
    (s.closeBands.freeBlock = some n → (s.blk b).fill ≠ 0 → (s.blk b).bad = false → (s.blk b).due = 0 →
      (∀ o ∈ s.closeBands.flash.opens, o.2 ≠ b) → exec (.collection b) s = .next (move s.closeBands)) ∧
    (s.freeBlock = some n →
      (s.dnum 0x5040 4 ≤ (s.blk b).reads → exec (.readDisturbRelocate b) s = .next ((move s).bump 0x8017 6)) ∧
      (∀ die c cs, die < s.flash.nand.dies → s.flash.nand.has die = true →
        let bs := (s.dieBlocks die).filter (fun b => !(s.blk b).bad && !s.isDump b)
        let es := bs.map (fun b => (s.blk b).erases)
        bs ≠ [] → 5 * s.dnum 0x5040 5 * bs.length < (es.foldl max 0 * bs.length - es.foldl (· + ·) 0) * 100 →
        bs.filter (fun b => (s.blk b).fill != 0) = c :: cs →
        cs.foldl (fun x y => if (s.blk y).erases < (s.blk x).erases then y else x) c = b →
        exec (.wearLevelMove die) s = .next (move s)))) ∧
  (∀ (s : State) (b : Nat), s.unitsOf b = [] → (s.blk b).fill ≠ 0 → (s.blk b).bad = false → s.isDump b = false →
    (∀ o ∈ s.flash.opens, o.2 ≠ b) → ∃ t, exec (.collection b) s = .next t ∧ t.blk b = ⟨(s.blk b).erases + 1, 0, 0, false, 0⟩ ∧
      t.flash.placed = s.flash.placed ∧ t.memories = s.memories ∧ t.facets = s.facets) ∧
  (∀ (s : State) (b : Nat) (rungs : List (Nat × Nat)), (s.blk b).bad = false → b < s.flash.nand.allBlocks →
    ∃ t, exec (.programFailure ⟨b, rungs⟩) s = .next t ∧ (t.blk b).bad = true ∧ (∀ o ∈ t.flash.opens, o.2 ≠ b) ∧ t.memories = s.memories ∧ t.facets = s.facets) ∧
  (∀ (s : State) (ch : Nat) (rungs : List (Nat × Nat)), ch < 16 → bit (s.gf R.hopStat_CH_OK 0) ch = true →
    ∃ t, exec (.channelRetire ⟨ch, rungs⟩) s = .next t ∧ t.gf R.hopStat_CH_OK 0 = s.gf R.hopStat_CH_OK 0 - 2 ^ ch ∧
      bit t.flash.retired ch = true ∧ t.memories = s.memories ∧ t.facets = s.facets)

/-! ### Model weights -/

/-- R225 to R230, R232, R235, R237, R238: the commands of LDR_CMD. A rejected command shows its code and has no other effect
(an UNWRAP that is refused is counted).
Where it rests on the model's choice: log entries 53 and 60. -/
def Obligations.WeightCommands : Prop :=
  ∀ (s : State) (r : Requester), s.serves r .ldrCmd 0 →
    let u := { s with activations := s.activations.map (fun (a : Activation) => { a with shown := false }) }
    let fin := fun (t : State) (cmd status code : Nat) =>
      ((t.sf R.ldrCmd_LAST 0 cmd).sf R.ldrCmd_STATUS 0 status).sf R.ldrCmd_CODE 0 code
    (let blob := s.readHost s.ldrArg 256
      let q := s.unwrapCheck blob
      exec (.unwrap r) s = .next (if q.1 = 0 then fin (State.extend { u with keys := u.keys ++ [q.2] } 8 (sha384 ((blob.drop 4).take 8))) 1 0 0
        else fin (u.bump 0x8018 2) 1 2 q.1)) ∧
    (∀ c, c < 4 →
      let w := fun (k : Nat) => leNat (((s.readHost s.ldrArg 64).drop (8 * k)).take 8)
      (s.startCode w c ≠ 0 → exec (.ldrStart r c) s = .next (fin u 2 2 (s.startCode w c))) ∧
      (s.startCode w c = 0 → ∃ t j, exec (.ldrStart r c) s = .next t ∧ t.jobOf c = some j ∧
        j.loadid = bits (w 0) 31 0 ∧ j.p = bits (w 0) 38 35 ∧ j.mid = bits (w 1) 31 0 ∧ j.gen = bits (w 1) 39 32 ∧ j.stage = w 2 ∧
        (let runs := fun (b : Nat) => if bit (w 0) b = false then 0 else if bits (w 4) 63 32 = 0 then 2 else 1
         j.mnext = 0 ∧ j.rnext = 0 ∧ j.rstate = runs 32 ∧ j.mstate = runs 33 ∧
          t.gf R.ldrJstat_STATE c = (if runs 32 = 1 ∨ runs 33 = 1 then 1 else 2)) ∧ t.gf R.ldrCmd_STATUS 0 = 0 ∧
        t.memories = s.memories ∧ t.facets = s.facets ∧
        (s.own (w 2) = true → s.regsKept t [.ldrCmd, .ldrJstat, .ldrJprog, .wtAct, .blmStat])) ∧
      (s.jobOf c = none → exec (.ldrAbort r c) s = .next (fin u 3 0 0)) ∧
      (∀ j, s.jobOf c = some j → j.mstate = 1 → j.rstate ≠ 1 → exec (.ldrAbort r c) s = .next (fin (u.memberFail j 8) 3 0 0)) ∧
      (∀ j, s.jobOf c = some j → j.mstate ≠ 1 → j.rstate = 1 → s.own j.stage = false →
        exec (.ldrAbort r c) s = .next (fin (u.putJob { j with rstate := 3, rcode := 8 }) 3 0 0))) ∧
    (∀ p gen, (s.genOf p gen = none → exec (.drop r p gen) s = .next (fin u 4 2 1)) ∧
      (∀ g, s.genOf p gen = some g → g.role ≠ 0 → exec (.drop r p gen) s = .next (fin u 4 2 11)) ∧
      (∀ g a n, s.genOf p gen = some g → g.role = 0 → g.pages = [] → g.ranges = [(a, n)] → a + n ≤ apertureBase → p < 16 →
        (∀ j ∈ s.jobs, j.p ≠ p ∨ j.gen ≠ gen ∨ j.adapter = true) →
        ∃ t, exec (.drop r p gen) s = .next t ∧ t.genOf p gen = none ∧ t.readMem a n = List.replicate n 0 ∧ s.memKept t a n ∧
          t.gf R.ldrCmd_LAST 0 = 4 ∧ t.gf R.ldrCmd_STATUS 0 = 0 ∧ t.facets = s.facets ∧ s.regsKept t [.ldrCmd, .wtAct])) ∧
    (∀ p k, (s.aslotOf p k = none → exec (.adrop r p k) s = .next (fin u 6 2 1)) ∧
      (∀ a, s.aslotOf p k = some a → (∃ x ∈ s.liveSlots p, (s.ticket x).avalid = true ∧ (s.ticket x).aslot = k) →
        exec (.adrop r p k) s = .next (fin u 6 2 11)) ∧
      (∀ a, s.aslotOf p k = some a → a.pages = [] → (∀ x ∈ s.liveSlots p, (s.ticket x).avalid = true → (s.ticket x).aslot ≠ k) →
        (∀ j ∈ s.jobs, j.p ≠ p ∨ j.aslot ≠ k ∨ j.adapter = false) →
        exec (.adrop r p k) s = .next (fin { u.pruneTables.dropStripes (fun x => x.p == p && x.aslot == some k) with aslots := s.aslots.filter (fun x => !(x.p == p && x.slot == k)) } 6 0 0))) ∧
    (∀ p gen, (s.isLead p = false → exec (.ldrActivate r p gen) s = .next (fin u 5 2 10)) ∧
      (s.isLead p = true → (∃ a ∈ s.activations, a.p = p) → exec (.ldrActivate r p gen) s = .next (fin u 5 2 9)) ∧
      (s.isLead p = true → (∀ a ∈ s.activations, a.p ≠ p) → exec (.ldrActivate r p gen) s = .next
        (fin { u with activations := u.activations ++ [⟨p, gen, false, true⟩] } 5 1 0)))

/-- R229, R231, R232: the reader publishes a chunk in its slot of the staging area, and frees a slot at the staging slot
timeout; the member reads the entry of its next chunk, waits for its SEQ, meets the reader's ABORT, passes over or pulls the
chunk; a chunk that does not authenticate fails the load, one that does is written where its header says, and either way DONE
takes one more by a compare-and-swap, on the fabric where the staging area is another package's; the inactivity limit.
Where it rests on the model's choice: log entries 35, 94 and 97. -/
def Obligations.WeightTransfers : Prop :=
  (∀ (s : State) (c : Nat) (j : Job), c < 4 → s.jobOf c = some j → j.reader = true → j.rstate = 1 → j.rnext < j.nchunk → s.ucMem = [] →
     (j.slots = [] → s.own j.stage = true →
       let e := s.readHost (j.clist + 16 * j.rnext) 16
       let n := leNat ((e.drop 8).take 4)
       let chunk := s.readHost (leNat (e.take 8)) n
       let slot := j.rnext % 32
       let x := fgaOff j.stage + 64 * slot
       let y := fgaOff j.stage + 0x1000 + slot * 0x1000000
       readerOk j (s.readHost (leNat (e.take 8)) 64) n = true →
       ∃ t k, exec (.readerPublishChunk c true) s = .next t ∧ t.jobOf c = some k ∧ k.rnext = j.rnext + 1 ∧
         t.readMem x 64 = natLE 8 (j.rnext + 1) ++ natLE 8 ((j.rnext + 1) * 2 ^ 32) ++
           natLE 8 (chDest j.nmemb (s.readHost (leNat (e.take 8)) 64)) ++ zeros 40 ∧
         t.readMem y n = chunk ∧ (∀ b, (b < x ∨ x + 64 ≤ b) → (b < y ∨ y + n ≤ b) → t.readMem b 1 = s.readMem b 1) ∧
         t.facets = s.facets ∧ s.regsKept t [.ldrJstat, .ldrJprog, .blmStat]) ∧
     (∀ slot k at_, j.slots = [(slot, k, at_)] → s.slotDone j slot = false →
       exec (.stagingSlotTimeout c slot) s = .next ((s.until (at_ + s.dnum 0x6100 7 * 1000000)).putJob
         { j with slots := [], timedOut := true }))) ∧
  (∀ (s : State) (c : Nat) (j : Job), c < 4 → s.jobOf c = some j → j.member = true → s.xferIdle (.job c) = true →
     (s.own j.stage = false → s.xferStatus (.job c) = 0) →
     let own := s.own j.stage
     let entry := fgaOff j.stage + 64 * (j.mnext % 32)
     let slot := fgaOff j.stage + 0x1000 + j.mnext % 32 * 0x1000000
     let header := fun (h : List Byte) (k : Job) (t0 : Nat) => (chNames h j.myidx = false → k.mnext = j.mnext + 1) ∧
       (chNames h j.myidx = true → (∀ l, s.loadOf j = some l → j.mnext ∉ l.committed) → k.mnext = j.mnext ∧ k.phase = 2 ∧ k.seen = t0)
     (j.phase = 1 → j.mstate = 1 →
       let w := leNat ((if own then s.readMem entry 64 else s.jobBytes j 0 64).take 8)
       ∃ t k, exec (.memberChunkSeen c j.mnext) s = .next t ∧ t.jobOf c = some k ∧ t.facets = s.facets ∧
         (own = false ∨ (∀ l, s.loadOf j = some l → j.mnext ∉ l.committed) → t.memories = s.memories) ∧
         (bit w 32 = true → k.mstate = 3 ∧ k.mcode = 6) ∧
         (bit w 32 = false → bits w 31 0 ≠ j.mnext + 1 → k.mstate = 1 ∧ k.mnext = j.mnext) ∧
         (bit w 32 = false → bits w 31 0 = j.mnext + 1 → (own = true → header (s.readMem slot 64) k s.time) ∧
           (own = false → k.mnext = j.mnext ∧ k.phase = 4 ∧ k.seen = s.time))) ∧
     (j.phase = 4 → j.mstate = 1 → own = false → ∃ t k, exec (.memberChunkSeen c j.mnext) s = .next t ∧ t.jobOf c = some k ∧
       t.memories = s.memories ∧ t.facets = s.facets ∧ header (s.jobBytes j 0 64) k j.seen) ∧
     (j.phase = 2 → j.mstate = 1 → s.xferStatus (.job c) = 0 → s.bloomWaits (.load c) = false → s.shadowsOn = false → j.p < 16 → s.ucMem = [] →
       let n := chPlen (if own then s.readMem slot 64 else s.jobBytes j 0 64) + 128
       let ch := if own then s.readMem slot n else s.jobBytes j 0 n
       let e := if own then s.readMem entry 64 else s.jobBytes j 0x2000000 64
       let h := ch.take 64
       let d := leNat (s.readMem (entry + 8) 8)
       bits (leNat (e.take 8)) 31 0 = j.mnext + 1 → s.chunkCheck j h = 0 → chKind h = 0 → chSpace h = 0 →
       (own = true → (entry + 16 ≤ chDst h ∨ chDst h + chPlen h ≤ entry + 8) ∧ bits d 63 32 = j.mnext + 1) →
       let pt := gcmOpen (s.jobKey j) (natLE 4 j.mnext ++ natLE 4 j.mid ++ natLE 1 j.gen ++ natLE 1 (b2n j.adapter) ++ zeros 2) h
         ((ch.drop 64).take (chPlen h)) ((ch.drop (64 + chPlen h)).take 16)
       ∃ t k, exec (.memberChunkCommit c j.mnext) s = .next t ∧ t.jobOf c = some k ∧ t.facets = s.facets ∧
         (pt = none → k.mstate = 3 ∧ k.mcode = 1) ∧
         (∀ x, pt = some x → k.mstate ≠ 3 ∧ t.readMem (chDst h) (chPlen h) = padTo (chPlen h) x) ∧
         (∀ b, (pt = none ∨ b < chDst h ∨ chDst h + chPlen h ≤ b) → (own = false ∨ b < entry + 8 ∨ entry + 16 ≤ b) →
           t.readMem b 1 = s.readMem b 1) ∧
         (own = true → k.mnext = j.mnext + 1 ∧ t.readMem (entry + 8) 8 = natLE 8 (putBits d 31 0 (bits d 31 0 + 1))) ∧
         (own = false → k.mnext = j.mnext ∧ k.phase = 3)) ∧
     (j.phase = 3 → own = false →
       let old := leNat (s.jobBytes j 0 8)
       ∃ t k, exec (.memberChunkSeen c j.mnext) s = .next t ∧ t.jobOf c = some k ∧ t.memories = s.memories ∧ t.facets = s.facets ∧
         (old = j.expect ∨ bits old 63 32 ≠ j.mnext + 1 → k.mnext = j.mnext + 1) ∧
         (old ≠ j.expect → bits old 63 32 = j.mnext + 1 → k.mnext = j.mnext ∧ k.expect = old ∧ k.phase = 3))) ∧
  (∀ (s : State) (c : Nat) (j : Job), c < 4 → s.jobOf c = some j → j.mstate = 1 → j.mnext < j.nchunk →
     exec (.loadInactivityTimeout c) s = .next ((s.until (j.seen + s.dnum 0x6100 4 * 1000000)).memberFail j 5))

/-- R237, R238: the lead's check of an ACTIVATE, and the drain limit (the clock stands at or past it).
Where it rests on the model's choice: log entries 18 and 20. -/
def Obligations.WeightSwitch : Prop :=
  (∀ (s : State) (p : Nat) (a : Activation), s.activations = [a] → a.p = p → a.accepted = false → a.shown = true → s.adopting p = false →
    let ready := (s.genOf p a.gen).any (fun g => g.role == 0 && g.complete)
    (ready = true → exec (.activateCheckDone p true) s = .next { s with activations := [{ a with accepted := true }] }) ∧
    (ready = false → exec (.activateCheckDone p true) s = .next (((State.sf { s with activations := [] } R.ldrCmd_LAST 0 5).sf
      R.ldrCmd_STATUS 0 2).sf R.ldrCmd_CODE 0 10)) ∧
    (exec (.activateCheckDone p false) s = .next (((State.sf { s with activations := [] } R.ldrCmd_LAST 0 5).sf
      R.ldrCmd_STATUS 0 2).sf R.ldrCmd_CODE 0 10))) ∧
  (∀ (s : State) (p : Nat) (g : Gen), s.gens = [g] → g.p = p → g.role = 2 → s.dnum 0x6100 5 = 0 →
    g.since + s.dnum 0x6100 6 * 1000000000 ≤ s.time →
    exec (.drainLimitExpiry p) s = .next { s with gens := [{ g with overdue := true }] })

/-! ### The Ticket rail -/

/-- R244, R245, R260: the ring registers, the completion interrupt, with the host write before it that succeeded or failed, and the
next submission entry, which does what the command it holds does once SQ_HEAD has advanced. Where it rests on the model's
choice: log entry 59. -/
def Obligations.RailRings : Prop :=
  (∀ (s : State) (r : Requester) (be : Nat) (val : Word), r.ok = true → be % 16 = 15 →
    let fn := reqFn r
    (s.serves r .tktSqTail fn →
      ((fld val 15 0 + 65536 - s.gf R.tktQptr_SQ_HEAD fn) % 65536 ≤ s.sqSize fn →
        exec (.sqTailWrite r be val) s = .next (s.modRing fn (fun x => { x with sqTail := fld val 15 0 }))) ∧
      (s.sqSize fn < (fld val 15 0 + 65536 - s.gf R.tktQptr_SQ_HEAD fn) % 65536 →
        exec (.sqTailWrite r be val) s = .next ((s.sf ⟨.tktQerr, 0, 0⟩ fn 1).report (source 7 fn) 0x10 1
          (if fn = 0 then none else some (vfPart fn)) 0))) ∧
    (s.serves r .tktCqHead fn →
      ((s.gf R.tktQptr_CQ_TAIL fn + 65536 - fld val 15 0) % 65536 ≤ s.cqUsed fn → (s.ring fn).waiting = [] →
        exec (.cqHeadWrite r be val) s = .next (s.modRing fn (fun x => { x with cqHead := fld val 15 0 }))) ∧
      (s.cqUsed fn < (s.gf R.tktQptr_CQ_TAIL fn + 65536 - fld val 15 0) % 65536 →
        exec (.cqHeadWrite r be val) s = .next ((s.sf ⟨.tktQerr, 1, 1⟩ fn 1).report (source 7 fn) 0x11 1
          (if fn = 0 then none else some (vfPart fn)) 0)))) ∧
  (∀ (s : State) (r : Requester) (be : Nat) (val : Word), r.ok = true →
    let fn := reqFn r
    let err := fun (u : State) =>
      (u.sf ⟨.tktQerr, 2, 2⟩ fn 1).report (source 7 fn) 0x12 1 (if fn = 0 then none else some (vfPart fn)) 0
    (s.serves r .tktQcfg fn →
      let t := s.wr .tktQcfg fn (mergeWrite (cardInfo .tktQcfg).fields (s.rd .tktQcfg fn) (byteMask be) val)
      let same := t.gf R.tktQcfg_SQ_SIZE fn = s.gf R.tktQcfg_SQ_SIZE fn ∧ t.gf R.tktQcfg_CQ_SIZE fn = s.gf R.tktQcfg_CQ_SIZE fn
      let sized := 4 ≤ t.gf R.tktQcfg_SQ_SIZE fn ∧ t.gf R.tktQcfg_SQ_SIZE fn ≤ 12 ∧ 4 ≤ t.gf R.tktQcfg_CQ_SIZE fn ∧ t.gf R.tktQcfg_CQ_SIZE fn ≤ 12
      (s.gf R.tktQcfg_EN fn = 0 → t.gf R.tktQcfg_EN fn = 0 ∨ sized → exec (.tktQcfgWrite r 0 be val) s = .next t) ∧
      (s.gf R.tktQcfg_EN fn = 0 → t.gf R.tktQcfg_EN fn = 1 → ¬sized → exec (.tktQcfgWrite r 0 be val) s = .next (err s)) ∧
      (s.gf R.tktQcfg_EN fn = 1 → same → exec (.tktQcfgWrite r 0 be val) s = .next t) ∧
      (s.gf R.tktQcfg_EN fn = 1 → ¬same → exec (.tktQcfgWrite r 0 be val) s = .next (err s))) ∧
    (∀ q ∈ ([(8, .tktSqBaseLo, 0xC, .tktSqBaseHi), (0x10, .tktCqBaseLo, 0x14, .tktCqBaseHi)] : List (Nat × Card × Nat × Card)),
      s.serves r q.2.1 fn → s.serves r q.2.2.2 fn →
      exec (.tktQcfgWrite r q.1 be val) s = .next { s with
        shadows := (s.unshadow r q.2.1 fn).shadows ++ [⟨r, q.2.1, fn, true, be, val⟩] } ∧
      (∀ x, s.shadowOf r q.2.1 fn = some x → x.write = true →
        let u := s.unshadow r q.2.1 fn
        let t := (u.wr q.2.1 fn (mergeWrite (cardInfo q.2.1).fields (s.rd q.2.1 fn) (byteMask x.be) x.val)).wr q.2.2.2 fn
          (mergeWrite (cardInfo q.2.2.2).fields (s.rd q.2.2.2 fn) (byteMask be) val)
        (s.gf R.tktQcfg_EN fn = 0 → exec (.tktQcfgWrite r q.2.2.1 be val) s = .next t) ∧
        (s.gf R.tktQcfg_EN fn = 1 → t.rd q.2.1 fn ≠ s.rd q.2.1 fn ∨ t.rd q.2.2.2 fn ≠ s.rd q.2.2.2 fn →
          exec (.tktQcfgWrite r q.2.2.1 be val) s = .next (err u))) ∧
      (s.gf R.tktQcfg_EN fn = 0 → s.shadowOf r q.2.1 fn = none → exec (.tktQcfgWrite r q.2.2.1 be val) s = .next
        (s.wr q.2.2.2 fn (mergeWrite (cardInfo q.2.2.2).fields (s.rd q.2.2.2 fn) (byteMask be) val))))) ∧
  (∀ (s : State) (fn : Nat), fn < 17 →
    ((s.ring fn).irqDue = true →
      ∀ ok : Bool, let v := if ok = true then s else s.cqFailed fn
      let u := match (v.ring fn).irqAt with
        | some at_ => v.until (at_ + v.gf R.tktQcfg_MOD fn * 1000)
        | none => v
      exec (.cqInterrupt ⟨fn, ok⟩) s = .next (State.modRing { u with out := u.out ++ [.msix fn 0] } fn
        (fun x => { x with irqDue := false, irqAt := some u.time }))) ∧
    (s.gf R.tktQcfg_EN fn = 1 → s.gf R.tktQptr_SQ_HEAD fn ≠ (s.ring fn).sqTail → s.cqFree fn ≠ 0 →
      let h := hdrOfBytes (s.readHost (s.pair .tktSqBaseLo .tktSqBaseHi fn + s.gf R.tktQptr_SQ_HEAD fn % s.sqSize fn * 64) 64)
      let u := s.sf R.tktQptr_SQ_HEAD fn (s.gf R.tktQptr_SQ_HEAD fn + 1)
      (rqOp h = 2 → ∃ t, exec (.sqEntryTake fn true) s = .next t ∧ exec (.cancel (.func fn) h) u = .next t) ∧
      (rqOp h = 3 → ∃ t, exec (.sqEntryTake fn true) s = .next t ∧ exec (.query (.func fn) h) u = .next t) ∧
      (rqOp h = 1 → rqPlen h ≤ 262143 → ∃ t, exec (.sqEntryTake fn true) s = .next t ∧
        exec (.submit (.func fn) h ((List.range (rqPlen h)).map (fun i => leNat (s.readHost (rq h 5 63 0 + 4 * i) 4)))) u = .next t)))

/-- R151, R242, R249 to R252: a SUBMIT the lead serves at once takes the free slot, its fields from the header and the
model's defaults; a retired ticket whose pages are released sends END and frees its slot, and what it was stays for the
duplicate window.
Where it rests on the model's choice: log entries 50 and 55. -/
def Obligations.RailTickets : Prop :=
  (∀ (s : State) (e : Entry) (h : ReqHdr) (toks : List Nat) (k : Nat), e.ok = true →
     let front := match e with
       | .func _ => false
       | .front _ _ _ => true
       | .remote r => r.path != 0
     let p := rqPart h
     rqBad h 1 front = false → toks.length = rqPlen h → s.clientBad e h = false → s.leadOf p ≠ 0xFFFF → s.isLead p = true → s.ucVertex = [] →
     s.duplicate e h = none → s.admitCode h = 0 → s.dnum 0x6090 2 = 0 → s.radix = [] → s.ranges = [] → s.freeTickets p = [k] →
     s.running p < s.runMax p → s.inState p 1 = [] → ¬(2 ≤ s.pstate p ∧ s.pstate p ≤ 5) → rq h 2 63 0 = 0 →
     let gen := if entryHandle e ≠ 0 ∧ hSlot (entryHandle e) = k then hGen (entryHandle e)
       else if 65535 ≤ (s.ticket k).gen then 1 else (s.ticket k).gen + 1
     ∃ t, exec (.submit e h toks) s = .next t ∧ (t.ticket k).state = 2 ∧ (t.ticket k).gen = gen ∧ (t.ticket k).part = p ∧
       (t.ticket k).reqid = rqId h ∧ (t.ticket k).tenant = rqTenant h ∧ (t.ticket k).prompt = toks ∧ (t.ticket k).plen = rqPlen h ∧
       (t.ticket k).prio = s.effPrio h ∧ (t.ticket k).maxgen = s.effMax h ∧ (t.ticket k).modelgen = s.activeGen p ∧
       (t.ticket k).admseq = (s.rail p).admseq ∧ (t.ticket k).eststart = s.time ∧ (t.rail p).admseq = (s.rail p).admseq + 1 ∧
       (t.ticket k).answer = [recWord 1 0 0 (handleOf gen k p), rqId h, s.effPrio h * 2 ^ 32, s.time] ∧
       (∀ q, e = .remote q → t.out = s.out ++ [.record (plainEntry e) (recWord 1 0 0 (handleOf gen k p)) (rqId h) (s.effPrio h * 2 ^ 32) s.time,
         .group p "admission" (handleOf gen k p)]) ∧
       (∀ j, j ≠ k → t.ticket j = s.ticket j) ∧ { t.memories with host := s.host, mem := s.mem } = s.memories ∧
       (∀ b, b < s.carafeSize - s.ptPool ∨ s.carafeSize - s.ptPool + s.ptPool ≤ b → t.readMem b 1 = s.readMem b 1) ∧ t.facets = s.facets ∧
       s.regsKept t [.tktQptr, .tktRailStat]) ∧
  (∀ (s : State) (k told : Nat), k < 1048576 → (s.ticket k).state = 4 → s.isLead (s.ticket k).part = true → s.inStep ((s.ticket k).handle k) = false →
     s.publishDue k = false → (s.ticket k).release = false → (s.ticket k).endDue = true → (s.ticket k).silent = false →
     ∀ q, (s.ticket k).entry = .remote q →
     let x := s.ticket k
     ∃ t, exec (.ticketRetireRelease ⟨k, told⟩) s = .next t ∧ (t.ticket k).state = 0 ∧ (t.ticket k).gen = x.gen ∧
       (∀ j, j ≠ k → t.ticket j = s.ticket j) ∧
       t.out = s.out ++ [.record x.entry (recWord 5 x.reason (b2n x.bounds + x.flags) (x.handle k)) x.reqid (x.plen + x.glen * 2 ^ 32) s.time] ∧
       t.retired.getLast? = some ⟨x, k, s.time⟩ ∧ t.memories = s.memories ∧ t.facets = s.facets ∧ s.regsKept t [.tktRailStat])

/-- R29, R243, R249, R250, R257, R258: the refusals of a request in their order, a repeated SUBMIT, a request for another lead,
refused without a valid identifier; CANCEL, QUERY, and what happens to a forwarded request. Where it rests on the model's
choice: log entries 54, 57 and 59. -/
def Obligations.RailRequests : Prop :=
  (∀ (s : State) (e : Entry) (h : ReqHdr) (toks : List Nat), e.ok = true →
    let front := match e with
      | .func _ => false
      | .front _ _ _ => true
      | .remote r => r.path != 0
    let p := rqPart h
    let refuse := fun (code : Nat) => (s.bump 0x8019 1).sendRec e [recWord 3 code 0 0, rqId h, 0, s.time]
    (∀ q ∈ ([(1, .submit e h toks), (2, .cancel e h), (3, .query e h)] : List (Nat × Instr)),
      (rqBad h q.1 front = true → exec q.2 s = .next (refuse 1)) ∧
      (rqBad h q.1 front = false → (q.1 = 1 → toks.length = rqPlen h) →
        (s.clientBad e h = true → exec q.2 s = .next (refuse 2)) ∧
        (s.clientBad e h = false →
          (s.leadOf p = 0xFFFF → exec q.2 s = .next (refuse 3)) ∧
          (s.idValid = false → exec q.2 s = .next (refuse 3)) ∧
          (s.leadOf p ≠ 0xFFFF → s.idValid = true → s.isLead p = false → exec q.2 s = .next { s with
            kept := s.kept ++ [⟨e, h, if q.1 = 1 then toks else [], 0, p, false, q.1 != 3, 0, false, []⟩]
            out := s.out ++ [.group p "request" (rqId h)] })))) ∧
    (s.clientBad e h = false → s.leadOf p ≠ 0xFFFF → s.isLead p = true → s.ucVertex = [] →
      (rqBad h 1 front = false → toks.length = rqPlen h →
        (∀ x, s.duplicate e h = some x → exec (.submit e h toks) s = .next (s.sendRec e x.answer)) ∧
        (s.duplicate e h = none → s.admitCode h ≠ 0 → (s.admitCode h = 7 → entryHandle e = 0) → exec (.submit e h toks) s = .next (refuse (s.admitCode h)))) ∧
      (rqBad h 2 front = false →
        (s.handleCode (rqHnd h) ≠ 0 → exec (.cancel e h) s = .next (s.sendRec e [recWord 6 (s.handleCode (rqHnd h)) 0 (rqHnd h), rqId h, 0, s.time])) ∧
        (s.handleCode (rqHnd h) = 0 → s.mayCancel e (s.ticket (hSlot (rqHnd h))) = false →
          exec (.cancel e h) s = .next (s.sendRec e [recWord 6 8 0 (rqHnd h), rqId h, 0, s.time])) ∧
        (s.handleCode (rqHnd h) = 0 → s.mayCancel e (s.ticket (hSlot (rqHnd h))) = true → (s.ticket (hSlot (rqHnd h))).cancel = false →
          (s.ticket (hSlot (rqHnd h))).state ≠ 4 → exec (.cancel e h) s = .next ((s.modTicket (hSlot (rqHnd h))
            (fun x => { x with cancel := true })).sendRec e [recWord 6 0 0 (rqHnd h), rqId h, 0, s.time]))) ∧
      (rqBad h 3 front = false →
        (s.handleCode (rqHnd h) ≠ 0 → s.retired = [] →
          exec (.query e h) s = .next (s.sendRec e [recWord 7 (s.handleCode (rqHnd h)) 0 (rqHnd h), rqId h, 0, 0])) ∧
        (s.handleCode (rqHnd h) = 0 → (s.ticket (hSlot (rqHnd h))).gend = [] → exec (.query e h) s = .next
          (s.sendRec e [recWord 7 0 0 (rqHnd h), rqId h, (s.ticket (hSlot (rqHnd h))).state + (s.ticket (hSlot (rqHnd h))).glen * 2 ^ 32,
            (s.ticket (hSlot (rqHnd h))).eststart]))))) ∧
  (∀ (s : State) (x : Kept), s.kept = [x] →
    (∀ w0 w1 w2 w3, exec (.answerReturn 0 w0 w1 w2 w3) s = .next (State.sendRec { s with
      kept := [x.after w0 w1 w2 w3].filter (fun y => y.due || !y.ended) } x.e [w0, w1, w2, w3])) ∧
    (s.adopting x.part = false → x.due = true → exec (.requestResubmit 0) s = .next (s.tell x.part "resubmit" x.handle)))

/-- R248: the front ports: a frame for another address or port is dropped; a request whose tokens have all arrived is the request
itself, one that lacks some waits; a reassembly expires; ARP, neighbour discovery, echo; waiting records leave. Where it rests
on the model's choice: log entries 48 and 56. -/
def Obligations.RailFront : Prop :=
  ∀ (s : State) (port : Nat), port < 2 → s.frontUp = true →
    let drop := fun (t : State) (code : Nat) => (t.bump 0x8019 6).report (source 6 port) code 1 none 0
    (∀ (ip : Ends) (ports : Option Ends) h toks, s.frontAddr port = 0 ∨ ip.dst ≠ s.frontAddr port ∨ (∀ u, ports = some u → u.dst ≠ s.dnum 0x6020 1) →
      exec (.requestDatagram port ip ports h toks) s = .next (drop s 1)) ∧
    (∀ (ip u : Ends) h toks, s.frontAddr port ≠ 0 → ip.dst = s.frontAddr port → u.dst = s.dnum 0x6020 1 →
      let addr := ip.src
      let udp := u.src
      (rqOp h = 2 → ∃ t, exec (.requestDatagram port ip (some u) h toks) s = .next t ∧ exec (.cancel (.front port addr udp) h) s = .next t) ∧
      (rqOp h = 3 → ∃ t, exec (.requestDatagram port ip (some u) h toks) s = .next t ∧ exec (.query (.front port addr udp) h) s = .next t) ∧
      (rqOp h = 1 → rqBad h 1 true = false → toks.length = rq h 5 47 32 →
        (∀ y ∈ s.reasm, y.addr ≠ addr ∨ y.udp ≠ udp ∨ rqId y.hdr ≠ rqId h) →
        (rq h 5 31 0 = 0 → toks.length = rqPlen h → ∃ t, exec (.requestDatagram port ip (some u) h toks) s = .next t ∧
          exec (.submit (.front port addr udp) { h with w5 := 0 } toks) s = .next t) ∧
        (toks.length < rqPlen h → exec (.requestDatagram port ip (some u) h toks) s = .next { s with
          reasm := s.reasm ++ [⟨port, addr, udp, { h with w5 := 0 }, toks.zipIdx.map (fun x => (rq h 5 31 0 + x.2, x.1)), s.time⟩] }))) ∧
    (∀ x, s.reasm = [x] → x.port = port → x.t0 + s.dnum 0x6020 4 * 1000000 ≤ s.time →
      exec (.reassemblyTimeout 0) s = .next (((drop { s with reasm := [] } 2).bump 0x8019 1).sendRec (.front port x.addr x.udp)
        [recWord 3 1 0 0, rqId x.hdr, 0, s.time])) ∧
    (∀ target payload,
      (isV4 (s.frontAddr port) = true → target = s.frontAddr port % 2 ^ 32 →
        exec (.arpRequest port target) s = .next { s with out := s.out ++ [.link (32 + port) "arp" target] }) ∧
      (isV4 (s.frontAddr port) = false → s.frontAddr port ≠ 0 → target = s.frontAddr port →
        exec (.neighbourDiscovery port target) s = .next { s with out := s.out ++ [.link (32 + port) "neighbour" target] }) ∧
      (s.frontAddr port ≠ 0 → target = s.frontAddr port →
        exec (.icmpEcho port target payload) s = .next { s with out := s.out ++ [.front port target 0 payload] }) ∧
      (target ≠ s.frontAddr port → target ≠ s.frontAddr port % 2 ^ 32 →
        ∀ i ∈ ([.arpRequest port target, .neighbourDiscovery port target, .icmpEcho port target payload] : List Instr),
          exec i s = .next (drop s 1))) ∧
    (∀ addr udp w, s.frontQ = [(port, addr, udp, w)] → exec (.recordFlush port) s = .next { s with
      frontQ := [], out := s.out ++ [.front port addr udp (w.flatMap (fun x => natLE 8 x))] })

/-! ### Steps -/

/-- R116, R255: a boundary that waits for the Arc hold policy writes the dirty step frame to the shadows and sends the step start,
and the freeze that waited for it; a boundary retires a cancelled ticket (here a partition with one ticket and no generation
loaded, so that no batch is formed); at a package that is not the lead it reports what the Arc latches hold. Where it rests on
the model's choice: log entries 18, 55, 104 and 110. -/
def Obligations.StepBoundaries : Prop :=
  (∀ (s : State) (p : Nat) (others : Bool) (short : List Nat), s.boundaryOpen p = true → s.ucVertex = [] →
    ((s.rail p).waiting = true → s.arcHold p = false →
      let u := s.modRail p (fun r => { r with
        waiting := false, running := true, done := false, headerDue := true, step := r.now.step, start := s.time
        hist := if r.replay.isEmpty then r.hist.dropLast ++ [{ r.cur with start := s.time }] else r.hist })
      let v := u.shadowFlush (fun f => f == (u.prt p).stepFrame)
      let w := v.tell p "step-start" (v.rail p).now.step
      exec (.stepBoundary ⟨p, others, short⟩) s = .next (if (w.prt p).busy = 3 then w.tell p "freeze" 0 else w)) ∧
    ((s.rail p).waiting = true → s.arcHold p = true → exec (.stepBoundary ⟨p, others, short⟩) s = .next s) ∧
    (∀ k x, (s.rail p).waiting = false → (s.rail p).replay = [] → (s.rail p).running = false → s.tickets = [(k, x)] → x.part = p → x.state ≠ 0 →
      x.state ≠ 4 → x.cancel = true → s.gens = [] → s.activations = [] → s.saltDue = [] → s.radix = [] → s.ranges = [] →
      ∃ t, exec (.stepBoundary ⟨p, others, short⟩) s = .next t ∧ (t.ticket k).state = 4 ∧ (t.ticket k).reason = 0x23 ∧ (t.ticket k).endDue = true ∧
        t.memories = s.memories ∧ t.facets = s.facets ∧ (t.rail p).running = false)) ∧
  (∀ (s : State) (p : Nat) (others : Bool) (short : List Nat), s.isLead p = false → s.pstate p = 1 → (s.rail p).running = true →
    ∃ t rest, exec (.stepBoundary ⟨p, others, short⟩) s = .next t ∧
      t.out = (s.tell p "bounds-only" (b2n ((s.unitsIn p).any (fun u => s.latched u)))).out ++ rest ∧ (s.shadowsOn = false → rest = []) ∧
      (∀ u ∈ s.unitsIn p, t.latched u = false) ∧ (t.rail p).running = false ∧ t.regs = s.regs ∧ t.memories = s.memories)

/-- R264, R270 to R272: the step-start message at the lead is written as the step's header, the step event is counted; a slot
outside the share is a halt; on another package the mirror's entry follows the message, or the tickets whose pages it cannot map
are told to the lead; the step-done word. Where it rests on the model's choice: log entries 18 and 110. -/
def Obligations.StepStartAndDone : Prop :=
  (∀ (s : State) (p step gen active draining root : Nat) (dec pre : List StepEntry) (tix : List (Nat × Ticket)) (ended : List Nat) (start : Nat), p < 16 → s.pstate p = 1 → (s.prt p).frozen = false →
    let inShare := fun (e : StepEntry) => decide ((s.prt p).tbase ≤ hSlot e.handle ∧ hSlot e.handle < (s.prt p).tbase + (s.prt p).tcount)
    ((∃ e ∈ dec ++ pre, inShare e = false) → s.isLead p = false →
      exec (.stepStart p step gen active draining root dec ⟨pre, tix, ended, start⟩) s =
        .next (s.modPrt p (fun x => { x with haltDue := x.haltDue ++ [(s.facetsOf p).headD 0] }))) ∧
    ((∀ e ∈ dec ++ pre, inShare e = true) → s.isLead p = true → (s.rail p).headerDue = true →
      ((s.rail p).now.step, (s.rail p).now.gen, (s.rail p).now.decode, (s.rail p).now.prefill) = (step, gen, dec, pre) →
      (s.rail p).arrive = none → s.ucMem = [] →
      let a := (s.prt p).stepFrame * 0x200000 + step % 2 * 0x40000
      let bs := headerBytes step gen (s.weightRoot p gen root) (s.rail p).now.start dec pre
      let f := s.gf R.partStepev_CFACET p
      ∃ t, exec (.stepStart p step gen active draining root dec ⟨pre, tix, ended, start⟩) s = .next t ∧ t.readMem a bs.length = bs ∧ s.memKept t a bs.length ∧
        (t.rail p).headerDue = false ∧ (t.rail p).arrive = some s.time ∧ t.facets = (s.unlatchAll p).facets ∧ t.tickets = s.tickets ∧
        t.regs = (if s.facetIn p f then s.sbAdd f (s.gf R.partStepev_CTR p) 1 else s).regs) ∧
    (∀ e k x, dec = [e] → pre = [] → inShare e = true → s.isLead p = false → hSlot e.handle = k → (s.ticket k).state = 0 → tix = [(k, x)] →
      x.part = p → x.state ≠ 0 → ended = [] →
      let q := s.takeStep p ⟨step, gen, root, dec, pre, [], start⟩ active draining tix ended
      (q.2 ≠ [] → exec (.stepStart p step gen active draining root dec ⟨pre, tix, ended, start⟩) s =
        .next (q.2.foldl (fun (t : State) k => t.tell p "pages short" k) s)) ∧
      (q.2 = [] → ∃ t, exec (.stepStart p step gen active draining root dec ⟨pre, tix, ended, start⟩) s = .next t ∧ (t.ticket k).state = x.state ∧
        (t.ticket k).gen = x.gen ∧ (t.ticket k).part = p ∧ (t.ticket k).len = x.len ∧ (t.ticket k).tenant = x.tenant ∧
        (t.ticket k).prompt = x.prompt ∧ (t.ticket k).modelgen = x.modelgen ∧ (t.ticket k).mtch = x.mtch ∧
        (t.rail p).step = step ∧ (t.rail p).running = true))) ∧
  (∀ (s : State) (p : Nat), s.isLead p = true → s.pstate p = 1 → (s.rail p).running = true → (s.rail p).headerDue = false →
    let a := (s.prt p).stepFrame * 0x200000 + 0x90000
    let u := s.frameRead p a 8
    (s.ucAt a 8 = [] → leNat (s.readMem a 8) = (s.rail p).step →
      exec (.stepDonePoll p) s = .next ((u.modRail p (fun r => { r with done := true })).shadowFlush (fun _ => true))) ∧
    (s.ucAt a 8 ≠ [] ∨ leNat (s.readMem a 8) ≠ (s.rail p).step → exec (.stepDonePoll p) s = .next u))

/-! ### Partitions -/

/-- R261 to R266, R274, R280, R418: the commands of PART_CMD, and a reset that ends.
Where it rests on the model's choice: log entries 51, 68 and 72. -/
def Obligations.PartitionCommands : Prop :=
  ∀ (s : State) (p : Nat), p < 16 →
    let fin := fun (t : State) (cmd status code : Nat) =>
      ((t.sf R.partCmd_LAST p cmd).sf R.partCmd_STATUS p status).sf R.partCmd_CODE p code
    (∀ r, s.serves r .partCmd p →
      let all : List (Nat × Instr) := [(1, .form r p), (2, .dissolve r p), (3, .preempt r p), (4, .partResume r p), (5, .partReset r p)]
      (∀ n, r = .vf n → ∀ q ∈ all, exec q.2 s = .next (fin s q.1 2 0xA)) ∧
      ((∀ n, r ≠ .vf n) →
        ((s.prt p).busy ≠ 0 → s.asleep = false → ∀ q ∈ all, exec q.2 s = .next (fin s q.1 2 6)) ∧
        ((s.prt p).busy = 0 → s.asleep = false →
          (s.pstate p ≠ 0 → exec (.form r p) s = .next (fin s 1 2 2)) ∧
          (s.pstate p = 0 → s.formBad p = true → exec (.form r p) s = .next (fin s 1 2 1)) ∧
          (s.pstate p = 0 → s.formBad p = false →
            let fs := (List.range s.facetCount).filter (fun f => s.inRect (s.rd .partShape p).toNat f)
            let es := engineList (s.rd .partDrip p).toNat
            (s.formOverlap p fs es = true → exec (.form r p) s = .next (fin s 1 2 3)) ∧
            (s.formOverlap p fs es = false → s.carve p fs es = none → exec (.form r p) s = .next (fin s 1 2 4)) ∧
            (∀ x, s.formOverlap p fs es = false → s.carve p fs es = some x →
              let u := (((s.resetUnits fs es).setPrt p x).sf R.partStat_STATE p 1).sf R.partStat_FRAMES p x.save.length
              exec (.form r p) s = .next (fin (u.setPair .partStepLo .partStepHi p (u.fga (x.stepFrame * 0x200000))) 1 0 0))) ∧
          (s.pstate p = 0 → exec (.dissolve r p) s = .next (fin s 2 0 0) ∧ exec (.partReset r p) s = .next (fin s 5 2 2)) ∧
          (s.pstate p ≠ 0 → ∀ q ∈ ([(2, .dissolve r p), (5, .partReset r p)] : List (Nat × Instr)), exec q.2 s = .next
            (fin ((s.partReset p false).modPrt p (fun x => { x with busy := q.1 })) q.1 1 0)) ∧
          (s.adopting p = false → s.pstate p ≠ 1 → exec (.preempt r p) s = .next (fin s 3 2 2)) ∧
          (s.adopting p = false → s.pstate p = 1 → s.commands p = false → exec (.preempt r p) s = .next (fin s 3 2 5)) ∧
          (s.adopting p = false → s.pstate p = 1 → s.commands p = true → exec (.preempt r p) s = .next
            (let u := s.modPrt p (fun x => { x with busy := 3 })
             fin (if (u.rail p).waiting = true then u else u.tell p "freeze" 0) 3 1 0)) ∧
          (s.commands p = false → exec (.partResume r p) s = .next (fin s 4 2 5)) ∧
          (s.commands p = true → s.pstate p ≠ 4 → exec (.partResume r p) s = .next (fin s 4 2 2)) ∧
          (s.commands p = true → s.pstate p = 4 →
            let occ := s.occupied p (s.facetsOf p) (engineList (s.prt p).mask)
            exec (.partResume r p) s = .next (if occ then fin s 4 2 8 else
              fin (((s.modPrt p (fun x => { x with busy := 4 })).sf R.partStat_STATE p 5).tell p "resume" 0) 4 1 0))))) ∧
    (s.pstate p = 6 →
      ((s.prt p).busy = 2 → exec (.partResetDone p) s = .next (State.setPrt (fin ((((s.sf R.partStat_STATE p 0).sf R.partStat_FRAMES p 0).setPair
        .partStepLo .partStepHi p 0).modPrt p (fun x => { x with busy := 0 })) 2 0 0) p Partition.free)) ∧
      ((s.prt p).busy = 5 → exec (.partResetDone p) s = .next
        (fin ((s.sf R.partStat_STATE p 1).modPrt p (fun x => { x with busy := 0 })) 5 0 0)) ∧
      ((s.prt p).busy = 0 → exec (.partResetDone p) s = .next (s.sf R.partStat_STATE p 1)))

/-- R275 to R281: freezing, quiescence, the save, its time limit, thaw, the restore, GO. Where it rests on the model's choice: log
entries 18, 90 and 108. -/
def Obligations.PartitionFreeze : Prop :=
  ∀ (s : State) (p : Nat), p < 16 →
    let fin := fun (t : State) (cmd status code : Nat) => (((t.modPrt p (fun x => { x with busy := 0 })).sf R.partCmd_LAST p cmd).sf
      R.partCmd_STATUS p status).sf R.partCmd_CODE p code
    let thaw := fun (t : State) =>
      let u := ((t.modPrt p (fun x => { x with frozen := false, quiesced := false, aside := [], image := none })).modRail p (fun r => { r with
        frozenAt := none, frozenNs := r.frozenNs + (r.frozenAt.map (fun a => t.time - a)).getD 0 })).holdAgain (t.prt p).aside
      (u.partGroups p).foldl (fun (v : State) g => v.settle g) (u.sf R.partStat_STATE p 1).pump
    (let c := (s.partGroups p).foldl (fun (t : State) g => t.closeCycle g) s
     (c.pstate p = 1 → c.commands p = false ∨ (c.prt p).busy = 3 → (c.rail p).waiting = false → (c.rail p).headerDue = false →
        (∀ g ∈ c.partGroups p, c.cycleWhole g = true) →
        let w := c.wakeGroups p
        let u := (w.holds.filter (fun h => h.p == p)).foldl (fun (t : State) h => t.addHeld h.who h.at_) w
        exec (.freezeMessage p) s = .next ((State.sf { u.modPrt p (fun x => { x with
            frozen := true, quiesced := false, aside := u.holds.filter (fun h => h.p == p) }) with
          holds := u.holds.filter (fun h => h.p != p) } R.partStat_STATE p 2).modRail p (fun r => { r with frozenAt := some u.time }))) ∧
      ((c.rail p).waiting = true ∨ (c.rail p).headerDue = true ∨ (∃ g ∈ c.partGroups p, c.cycleWhole g = false) →
        exec (.freezeMessage p) s = .next s)) ∧
    (s.pstate p = 2 → (s.prt p).quiesced = false → s.ops = [] → (∀ d ∈ s.takenOf (32 + p), d.running = false ∨ s.copyScratch d = false) →
      ∃ t, exec (.quiesceDone p) s = .next t ∧ (t.prt p).quiesced = true ∧
      (s.idValid = true → t.out.getLast? = some (.group p "quiesced" 0))) ∧
    (s.pstate p = 2 → (s.prt p).quiesced = true → exec (.saveMessage p) s = .next
      (let u := s.sf R.partStat_STATE p 3
       if u.commands p = true then u.tell p "save" 0 else u)) ∧
    (s.pstate p = 3 →
      let mine := fun (w : Issuer) => s.issuerOf p w && s.whoFrozen w
      let u : State := { s with
        ops := s.ops.filter (fun o => !mine o.who), xfers := s.xfers.filter (fun o => !mine o.who)
        seams := (s.seams.map (fun x => (x.1, x.2.filter (fun y => !(s.facetsOf p).contains y.src)))).filter (fun x => !x.2.isEmpty)
        unwaited := s.unwaited.filter (fun u => !(s.facetsOf p).contains u.facet) }
      let t := ((((u.modPrt p (fun x => { x with image := some (s.image p) })).sf R.partStat_STATE p 4).bump 0x801A 1).tell p "saved" 0)
      exec (.saveDone p) s = .next (if (s.prt p).busy = 3 then fin t 3 0 0 else t)) ∧
    (s.pstate p = 2 → (s.prt p).busy = 3 → (s.prt p).quiesced = false ∨ s.leadOf p ≠ 0xFFFF → exec (.quiescenceTimeout p) s = .next
      ((fin ((s.until (((s.rail p).frozenAt.getD s.time) + s.dnum 0x6110 1 * 1000)).bump 0x801A 2) 3 3 7).tell p "thaw" 0)) ∧
    (s.pstate p = 2 → (s.prt p).busy ≠ 3 → exec (.thawMessage p) s = .next (thaw s)) ∧
    (∀ im, (s.prt p).image = some im → s.pstate p = 5 →
      exec (.restoreDone p true) s = .next ((((s.restore p im).modPrt p (fun x => { x with image := none })).sf R.partStat_STATE p 5).tell
        p "restored" 0) ∧
      ∃ t, exec (.restoreDone p false) s = .next t ∧ ((s.prt p).busy = 4 → t.gf R.partCmd_STATUS p = 3 ∧ t.gf R.partCmd_CODE p = 9)) ∧
    (s.pstate p = 5 → (s.prt p).image = none →
      let u := if s.commands p = true then s.tell p "go" 0 else s
      exec (.goMessage p) s = .next (if (s.prt p).busy = 4 then fin (thaw u) 4 0 0 else thaw u))

/-- R265, R273: a halt is taken up once, and a write of an access-map register that would break the conditions has no effect
but a report.
Where it rests on the model's choice: log entries 63 and 68. -/
def Obligations.PartitionHaltAndMap : Prop :=
  (∀ (s : State) (p f : Nat) (rest : List Nat), p < 16 → (s.prt p).haltDue = f :: rest → s.pstate p = 1 → s.gf R.partStat_HALT p = 0 → s.isLead p = false →
    exec (.partitionHalt p f) s = .next ((((((s.sf R.partStat_HALT p 1).sf R.partStat_HALTFCT p f).modPrt p (fun x => { x with haltDue := rest })).report
      (source 8 0xA) (unstatedCode 8) 1 (some p) f).bump 0x801A 4).tell p "halt" f)) ∧
  (∀ (s : State) (r : Requester) (p n be : Nat) (val : Word), p < 16 → n < 8 →
    let i := p * 8 + n
    let w : State → Card → Nat → Word → State := fun u c m v => u.wr c i (mergeWrite (cardInfo c).fields (s.rd c i) (byteMask m) v)
    -- what a write that changes `u` into `t` comes to
    let answer := fun (off : Nat) (u t : State) =>
      ((∀ m, r ≠ .vf m) → t.amapOk p n = true → exec (.amapWrite r p n off be val) s = .next t) ∧
      ((∀ m, r ≠ .vf m) → t.amapOk p n = false → exec (.amapWrite r p n off be val) s = .next
        (u.report (source 8 0xA) 1 1 (some p) (t.pair .partAmapLo .partAmapHi i))) ∧
      (∀ m, r = .vf m → exec (.amapWrite r p n off be val) s = .next ((u.sf R.partCmd_STATUS p 2).sf R.partCmd_CODE p 0xA))
    (s.serves r .partAmapCtl i → answer 8 s (w s .partAmapCtl be val)) ∧
    (s.serves r .partAmapLo i → s.serves r .partAmapHi i →
      exec (.amapWrite r p n 0 be val) s = .next { s with
        shadows := (s.unshadow r .partAmapLo i).shadows ++ [⟨r, .partAmapLo, i, true, be, val⟩] } ∧
      (s.shadowOf r .partAmapLo i = none → answer 4 s (w s .partAmapHi be val)) ∧
      (∀ x, s.shadowOf r .partAmapLo i = some x → x.write = true →
        let u := s.unshadow r .partAmapLo i
        answer 4 u (w (w u .partAmapLo x.be x.val) .partAmapHi be val))))

/-! ### The fabric -/

/-- R285 to R288, R318: bring-up of a port, its loss, and its secure association; a competing claim.
Where it rests on the model's choice: log entry 48. -/
def Obligations.FabricPorts : Prop :=
  (∀ (s : State) (n : Nat), n < 32 →
    let fail := ((s.wr .fmfPortStat n (BitVec.ofNat 32 (s.gf R.fmfPortStat_OUTST n))).bump 0x801B 5).report (source 5 n) 0x23 1 none n
    let dark := decide (24 ≤ n) && bit (s.gf R.regoCmd_LASER 0) ((n - 24) / 4)
    (s.pst n = 1 →
      (∀ native all, native = (s.gf R.fmfPortStat_MODE n == 0) → exec (.linkTrained n native all) s = .next
        (if all && !dark then s.sf R.fmfPortStat_STATE n 2 else fail)) ∧
      (n < 24 → s.gf R.fmfPortStat_MODE n = 0 → exec (.nativeTrainingTimeout n) s = .next (s.sf R.fmfPortStat_MODE n 1))) ∧
    (s.pst n = 2 → exec (.mkaTimeout n) s = .next fail ∧ ∀ a : Assoc, a.port = n → exec (.mkaSecure a) s = .next
      ((((s.modLink n (fun _ => { Link.blank with sci := a.sci, sak := a.sak })).sf R.fmfPortStat_MACSEC n 1).sf R.fmfPortStat_STATE n 3).sendHello n)) ∧
    (∀ h : Hello, s.pst n = 3 → exec (.hello n h) s = .next (if h.isPackage || !h.neighbourOk then fail else
      ((((s.portFrame n).modLink n (fun l => { l with addr := h.addr, ptp := h.ptp })).sf R.fmfPortStat_PLANE n h.plane).sf R.fmfPortStat_LEVEL n h.level).sf R.fmfPortStat_STATE n 4)) ∧
    (s.pst n = 0 → s.ready = true → exec (.bringupRetry n) s = .next (s.portStart n)) ∧
    (s.fatalNow = false → s.portMode n < 2 → (s.portStart n).pst n = 1 ∧ (s.portStart n).gf R.fmfPortStat_MACSEC n = 0) ∧
    (s.portUp n = true → s.gf R.fmfPortStat_MODE n = 0 → exec (.keepalive n) s = .next (s.sendOut n (.link n "keepalive" 0))) ∧
    (∀ down, down = ((s.portStart n).bump 0x801B 5).report (source 5 n) 0x22 1 none n →
      s.pst n = 4 → (∀ o ∈ s.ops, o.port ≠ some n) →
        (s.gf R.fmfPortStat_MODE n = 0 → exec (.linkDown n) s = .next down) ∧
        (s.gf R.fmfPortStat_MODE n = 1 → exec (.linkFault n) s = .next down) ∧
        (∀ r be val, s.serves r .fmfPortStat n → bit (val &&& byteMask be).toNat 26 = true → exec (.portDownWrite r n be val) s = .next down)) ∧
    (∀ r be val, s.serves r .fmfPortStat n →
      (bit (val &&& byteMask be).toNat 26 = false → exec (.portDownWrite r n be val) s = .next s) ∧
      (bit (val &&& byteMask be).toNat 26 = true → s.pst n ≠ 4 → exec (.portDownWrite r n be val) s = .next (s.portStart n))) ∧
    (s.gf R.fmfPortStat_MACSEC n = 1 →
      (∀ a : Assoc, a.port = n → exec (.sakChange a) s = .next
        ((s.modLink n (fun l => { l with sci := a.sci, sak := a.sak, rx := 1, tx := 1 })).bump 0x4004 2)) ∧
      exec (.sakRequest n) s = .next (if 2 ^ 62 ≤ (s.linkOf n).tx ∨ 2 ^ 62 < (s.linkOf n).rx then s.sendOut n (.link n "sak request" 0) else s))) ∧
  (∀ (s : State) (ep home eui : Nat), s.idValid = true → s.adoption = none →
    let win := epochNewer s.epoch ep || (s.epoch == ep && (decide (s.dnum 0x4000 3 < home) || (s.dnum 0x4000 3 == home && decide (s.part.eui ≤ eui))))
    (win = true → exec (.claimConflict ep home eui) s = .next s) ∧
    let lost := ((s.unclaim.setBit .fmfStat 0 30).bump 0x801B 7).setN 0x4000 1 1
    (win = false → exec (.claimConflict ep home eui) s = .next (lost.report (source 5 0) 0x24 1 none lost.pkg)) ∧
    (s.ops = [] → s.unclaim = s.sf R.identPkgid_VALID 0 0))

/-- R290, R294, R299: the target's side. Of a request for this package that passes the checks and falls in Carafe, a load returns
the bytes, a store writes them, an atomic replaces the old value by its operation and returns it. Where it rests on the model's
choice: log entries 92 and 109. -/
def Obligations.FabricTarget : Prop :=
  ∀ (s : State) (n : Nat) (f : Frame), n < 32 → s.portUp n = true → f.wire.fcs = true → s.macOk n f.wire f.sec = true → s.ucVertex = [] →
    s.idValid = true → fld f.w1 30 16 = s.pkg →
    let a := frOff f
    let len := frLen f
    let resp := fun (bs : List Byte) => Output.frame n (s.wired n true (mkFrame (frameHead 0x20 false false false 0 len (frAop f) (frTag f) s.epoch)
      (s.pkg + fld f.w1 14 0 * 2 ^ 16) 0 a bs))
    (fld f.w0 63 48 ≠ s.epoch → ∀ q ∈ ([(1, .load n f), (2, .store n f), (4, .cload n f), (5, .cstore n f)] : List (Nat × Instr)), frOp f = q.1 →
      exec q.2 s = .next ((s.heard n f.wire).refuse n f stEpoch none)) ∧
    (∀ g, fld f.w0 63 48 = s.epoch → frameOk f = true → s.regionFor f.w2.toNat = some g → bits g.w0 48 0 ≤ a →
      a + len ≤ bits g.w0 48 0 + (bits g.w1 36 0 + 1) * 4096 → bit g.w0 (rightBit (frOp f)) = true → a + len ≤ s.carafeSize - s.ptPool →
      s.power.sleep ≠ 2 → s.ucMem = [] → s.ecMem = [] →
      (∀ q ∈ ([(1, .load n f), (4, .cload n f)] : List (Nat × Instr)), frOp f = q.1 →
        ((∃ y ∈ s.weightRanges, overlap (a, len) y = true) → exec q.2 s = .next ((s.heard n f.wire).refuse n f stAccess (some (entPart g)))) ∧
        ((∀ y ∈ s.weightRanges, overlap (a, len) y = false) → ∃ t, exec q.2 s = .next t ∧ t.out.getLast? = some (resp (s.readMem a len)) ∧ t.memories = s.memories ∧ t.regs = s.regs ∧
          t.facets = s.facets)) ∧
      (∀ q ∈ ([(2, .store n f), (5, .cstore n f)] : List (Nat × Instr)), frOp f = q.1 →
        ∃ t, exec q.2 s = .next t ∧ t.out.getLast? = some (resp []) ∧ t.readMem a len = f.payload ∧ s.memKept t a len ∧ t.regs = s.regs ∧
          t.facets = s.facets) ∧
      (let w := 8 * len
        let x := leNat (f.payload.take len)
        let y := leNat (f.payload.drop len)
        let old := leNat (s.readMem a len)
        let less := fun (u v : Nat) => decide (toSigned w u < toSigned w v)
        frOp f = 3 → (∀ y ∈ s.weightRanges, overlap (a, len) y = false) → s.rivals [(a, len)] = [] → ∀ q ∈ ([(0, .atomicAdd n f, (old + x) % 2 ^ w), (1, .atomicAnd n f, old &&& x), (2, .atomicOr n f, old ||| x),
            (3, .atomicXor n f, old ^^^ x), (4, .atomicSmax n f, if less old x then x else old), (5, .atomicSmin n f, if less old x then old else x),
            (6, .atomicUmax n f, max old x), (7, .atomicUmin n f, min old x), (8, .atomicSwap n f, x),
            (9, .atomicCas n f, if old = x then y else old)] : List (Nat × Instr × Nat)), frAop f = q.1 →
          ∃ t, exec q.2.1 s = .next t ∧ t.readMem a len = natLE len q.2.2 ∧ s.memKept t a len ∧ t.regs = s.regs ∧ t.facets = s.facets ∧
            t.out.getLast? = some (resp (if bit f.w0.toNat 11 then [] else s.readMem a len))))

/-- R293, R296, R297, R305, R327: a response that nothing waits for; the response to a load; a timeout; the reissue after EPOCH; a
route set that changes; an operation that the limits held. Where it rests on the model's choice: log entries 20, 37 and 109. -/
def Obligations.FabricIssuer : Prop :=
  (∀ (s : State) (n : Nat) (f : Frame), n < 32 → s.portUp n = true → f.wire.fcs = true → s.macOk n f.wire f.sec = true →
    s.idValid = true → fld f.w1 30 16 = s.pkg → frOp f = 0x20 →
    (s.ops = [] → exec (.resp n f) s = .next ((s.heard n f.wire).bump 0x801B 3)) ∧
    (∀ o x, s.ops = [o] → s.xfers = [x] → o.who = x.who → x.stores = [] → o.port = some n → o.tag = frTag f → o.op = 1 → o.retry = false →
      frStatus f = 0 → answerOk o f = true → exec (.resp n f) s = .next { State.showOutst { s.heard n f.wire with ops := [] } n with
        xfers := [{ x with buf := Sparse.blit zeroByte x.buf o.pos (padTo o.len f.payload) }] })) ∧
  (∀ (s : State) (o : FabOp) (x : Xfer) (n : Nat), n < 32 → s.ops = [o] → s.xfers = [x] → o.who = x.who → x.stores = [] → x.status = 0 →
    o.port = some n → o.op ≠ 6 →
    (o.retry = false → ∃ t, exec (.requestTimeout o.uid) s = .next t ∧ t.ops = [] ∧ t.time = max s.time (o.at_ + s.dnum 0x4001 1 * 1000) ∧ t.xferStatus o.who = stTimeout ∧ t.gf R.fmfErr_POISON 0 = 1 ∧
      t.memories = s.memories ∧ t.facets = s.facets) ∧
    (o.retry = true → s.reissues o = true → s.portUp (s.opPort o) = true → exec (.epochReissue o.uid) s = .next (s.sendOp o)) ∧
    (o.retry = true → s.reissues o = false → ∃ t, exec (.epochReissue o.uid) s = .next t ∧ t.ops = [] ∧ t.xferStatus o.who = stEpoch ∧
      t.memories = s.memories ∧ t.facets = s.facets)) ∧
  (∀ (s : State),
    (∀ e, 1 ≤ e → e ≤ 64 → s.routePending e = true → s.ops = [] → exec (.routeSetChange e) s = .next
      { s with routes := Sparse.put (fun _ => Route.blank) s.routes e (s.routeNow e) }) ∧
    (∀ o, s.ops = [o] → exec .outstandingLimitRelease s = .next (if s.sendable o then s.sendOp o else s)))

/-- R294, R295, R302, R308: the commands of FMF_ENT_CMD store what the data registers hold or show an entry with its secret
word as zero.
Where it rests on the model's choice: log entry 5. -/
def Obligations.FabricTables : Prop :=
  ∀ (s : State) (r : Requester) (i : Nat), s.serves r .fmfEntCmd 0 →
    let e := s.entData
    let fin := fun (t : State) (cmd code : Nat) =>
      ((t.sf R.fmfEntCmd_LAST 0 cmd).sf R.fmfEntCmd_STATUS 0 (if code = 0 then 0 else 2)).sf R.fmfEntCmd_CODE 0 code
    let put := fun (t : State) (x : Ent) => ([x.w0, x.w1, x.w2, x.w3].zipIdx).foldl (fun (t : State) y =>
      (t.wr .fmfEntData (2 * y.2) (BitVec.ofNat 32 y.1)).wr .fmfEntData (2 * y.2 + 1) (BitVec.ofNat 32 (y.1 / 2 ^ 32))) t
    (exec (.writeRegion r i) s = .next (fin (if s.regionBad i e = 0 then s.setEnt i e else s) 1 (s.regionBad i e))) ∧
    (i < 4096 → exec (.readRegion r i) s = .next (fin (put s { s.ent i with w2 := 0 }) 2 0)) ∧
    (exec (.writeGrant r i) s = .next (fin (if grantBad i e = 0 then s.setEnt (4096 + i) e else s) 3 (grantBad i e))) ∧
    (i < 4096 → exec (.readGrant r i) s = .next (fin (put s { s.ent (4096 + i) with w3 := 0 }) 4 0)) ∧
    (exec (.writeGroup r i) s = .next (fin (if s.groupBad i e = 0 then
      s.setEnt (8192 + i) { e with w3 := if bit e.w0 63 then (s.ent (8192 + i)).w3 else 0 } else s) 5 (s.groupBad i e))) ∧
    (i < 256 → exec (.readGroup r i) s = .next (fin (put s (s.ent (8192 + i))) 6 0)) ∧
    (4096 ≤ i → exec (.readRegion r i) s = .next (fin s 2 1) ∧ exec (.readGrant r i) s = .next (fin s 4 1)) ∧
    (256 ≤ i → exec (.readGroup r i) s = .next (fin s 6 1))

/-! ### Copy engines and fabric time -/

/-- R300 to R303: a copy descriptor starts when its check passes and ends when its bytes are written and counted; a REDUCE takes its
sequence number; a reduced chunk is written at its place; one that does not come sets ERR. Where it rests on the model's choice:
log entries 38, 40 and 108. -/
def Obligations.CopyDescriptors : Prop :=
  (∀ (s : State) (p : Nat) (d : RingDesc), p < 16 → s.takenOf (32 + p) = [d] → d.running = false → s.copiesRunning < 64 →
    s.gf R.fmfCqStat_STATE p = 1 ∨ s.gf R.fmfCqStat_STATE p = 2 → s.fatalNow = false → s.copyWaits p d = false →
    let u := if dFence d = true then s.setPast (32 + p) [] else s
    (dKind d = 0 → copyUnused d = false → s.facetOfDomain (some p) (dCfacet d) = true → exec (.copyNop p) s = .next (s.setTaken (32 + p) [])) ∧
    (3 ≤ dKind d ∨ (dKind d = 0 ∧ (copyUnused d = true ∨ s.facetOfDomain (some p) (dCfacet d) = false)) →
      exec (.copyNop p) s = .next (s.copyFail p d)) ∧
    (dKind d = 1 → s.copyCheck p d = (true, []) → exec (.copy p) s = .next (u.copyFail p d)) ∧
    (dKind d = 2 → s.copyCheck p d = (true, []) → exec (.reduce p) s = .next (u.copyFail p d)) ∧
    (dKind d = 1 → s.copyCheck p d = (false, []) → s.copyHeld p d = [] → s.own (qSrc d) = true → s.own (qDst d) = true →
      exec (.copy p) s = .next (((u.setTaken (32 + p) [{ d with running := true }]).expect (dCfacet d) (289 + p) d.uid 0
        (s.physOf (some p) (qDst d) (qLen d))).sf R.fmfCqStat_RUNNING p 1)) ∧
    (dKind d = 2 → s.copyCheck p d = (false, []) → s.copyHeld p d = [] →
      ∃ t, exec (.reduce p) s = .next t ∧ (t.ent (8192 + qGroup d)).w3 = qRseq d ∧ t.memories = s.memories)) ∧
  (∀ (s : State) (p : Nat) (d : RingDesc), p < 16 → s.takenOf (32 + p) = [d] → d.running = true → dKind d = 1 → s.copyHeld p d = [] →
    s.xferOf (.copy p d.uid) = none → s.xferIdle (.copy p d.uid) = true → s.own (qSrc d) = true → s.own (qDst d) = true →
    let src := fgaOff (qSrc d)
    let dst := fgaOff (qDst d)
    let n := qLen d
    s.fatalNow = false → d.aborted = false → (s.prt p).image = none → (∀ x ∈ s.unwaited, overlaps x.lo x.len src n = false) →
    0 < n → qSrc d % 4096 + n ≤ 4096 → qDst d % 4096 + n ≤ 4096 → src + n ≤ tieredBase → dst + n ≤ tieredBase →
    s.region src n ≠ .none → s.region dst n ≠ .none → shared [(src, n)] [(dst, n)] = [] → s.ucMem = [] → s.ecMem = [] →
    ∃ t, exec (.copyComplete p 0) s = .next t ∧ t.takenOf (32 + p) = [] ∧ t.readMem dst n = s.readMem src n ∧ s.memKept t dst n ∧
      t.gf R.fctSb_COUNT (dCfacet d * 64 + dCctr d) = min 16777215 (s.gf R.fctSb_COUNT (dCfacet d * 64 + dCctr d) + 1) ∧
      s.regsKept t [.fctSb, .fmfCqStat, .fmfCqCmd] ∧ (∀ f, { t.facet f with hid := (s.facet f).hid } = s.facet f)) ∧
  (∀ (s : State) (p : Nat) (d : RingDesc) (o : FabOp), p < 16 → s.takenOf (32 + p) = [d] → s.ops = [o] → s.xfers = [] → s.holds = [] →
    o.who = .copy p d.uid → o.op = 6 → (s.prt p).image = none →
    (∀ n (f : Frame), n < 32 → s.portUp n = true → f.wire.fcs = true → s.macOk n f.wire f.sec = true → s.gf R.fmfPortStat_MODE n = 0 →
      frameBase f = true → frLen f = o.len → f.payload.length = o.len → frOp f = 7 → o.port = some n → o.key = f.w2.toNat →
      o.off % 65536 = fld f.w3 15 0 → frStatus f = 0 →
      let a := fgaOff (qDst d + o.pos)
      s.region a o.len ≠ .none → a + o.len ≤ tieredBase → s.ucMem = [] →
      ∃ t, exec (.rdres n f) s = .next t ∧ t.takenOf (32 + p) = [] ∧ t.readMem a o.len = f.payload ∧ s.memKept t a o.len ∧
        (∀ f, { t.facet f with hid := (s.facet f).hid } = s.facet f)) ∧
    (∀ chunk, o.pos = 4096 * chunk → ∃ t, exec (.reductionTimeout p 0 chunk) s = .next t ∧ t.takenOf (32 + p) = [] ∧
      t.gf R.fctSb_ERR (dCfacet d * 64 + dCctr d) = 1 ∧ t.memories = s.memories ∧ (∀ f, { t.facet f with hid := (s.facet f).hid } = s.facet f)))

/-- R300, R307: the commands and registers of a copy ring; fabric time follows one port, steps at the first lock and slews
afterwards. Where it rests on the model's choice: log entry 43. -/
def Obligations.CopyRingsAndTime : Prop :=
  (∀ (s : State) (r : Requester) (p : Nat), p < 16 →
    (s.serves r .fmfCqCmd p →
      let fin := fun (t : State) (cmd st : Nat) => (t.sf R.fmfCqCmd_LAST p cmd).sf R.fmfCqCmd_STATUS p st
      (s.gf R.fmfCqStat_STATE p ≠ 0 → exec (.cqStart r p) s = .next (fin s 1 2)) ∧
      (s.gf R.fmfCqStat_STATE p = 0 → exec (.cqStart r p) s = .next
        (if s.cqRingOk p then fin (s.sf R.fmfCqStat_STATE p 1) 1 0 else fin s 1 3)) ∧
      (s.gf R.fmfCqStat_STATE p ≠ 0 → s.takenOf (32 + p) = [] →
        ∀ q ∈ ([(2, .cqStop r p), (3, .cqAbort r p)] : List (Nat × Instr)), exec q.2 s = .next (fin
          (((((s.sf R.fmfCqStat_STATE p 3).sf R.fmfCqStat_RUNNING p 0).sf R.fmfCqStat_STATE p 0).sf R.fmfCqCmd_STATUS p 0).setPast (32 + p) []) q.1 0)) ∧
      (∀ d, s.gf R.fmfCqStat_STATE p ≠ 0 → s.takenOf (32 + p) = [d] → d.running = true →
        (∃ t, exec (.cqStop r p) s = .next t ∧ t.takenOf (32 + p) = [d] ∧ t.gf R.fmfCqStat_STATE p = 3 ∧ t.gf R.fmfCqCmd_STATUS p = 1 ∧
          t.memories = s.memories ∧ t.facets = s.facets) ∧
        ((∀ o ∈ s.ops, o.who = .copy p d.uid → o.port = none) → ∃ t, exec (.cqAbort r p) s = .next t ∧ t.takenOf (32 + p) = [] ∧
          t.gf R.fmfCqStat_STATE p = 0 ∧ ((s.prt p).image = none → t.gf R.fctSb_ERR (dCfacet d * 64 + dCctr d) = 1)) ∧
        ((∃ o ∈ s.ops, o.who = .copy p d.uid ∧ o.port.isSome = true) → ∃ t, exec (.cqAbort r p) s = .next t ∧
          t.takenOf (32 + p) = [{ d with aborted := true, err := true }] ∧ t.gf R.fmfCqStat_STATE p = 3))) ∧
    (∀ be val, s.serves r .fmfCqRingLo p → exec (.cqRegisterWrite r p 0x10 be val) s = .next { s with
      shadows := (s.unshadow r .fmfCqRingLo p).shadows ++ [⟨r, .fmfCqRingLo, p, true, be, val⟩] }) ∧
    (∀ be val x, s.serves r .fmfCqRingHi p → s.serves r .fmfCqRingLo p → s.shadowOf r .fmfCqRingLo p = some x → x.write = true →
      exec (.cqRegisterWrite r p 0x14 be val) s = .next (let u := s.unshadow r .fmfCqRingLo p
        if s.gf R.fmfCqStat_STATE p ≠ 0 then u.setBit .fmfErr 0 4 else
          let u := u.wr .fmfCqRingLo p (mergeWrite (cardInfo .fmfCqRingLo).fields (s.rd .fmfCqRingLo p) (byteMask x.be) x.val)
          u.wr .fmfCqRingHi p (mergeWrite (cardInfo .fmfCqRingHi).fields (s.rd .fmfCqRingHi p) (byteMask be) val))) ∧
    (∀ be val, ∀ q ∈ ([(0x14, .fmfCqRingHi), (0x18, .fmfCqCfg), (0x20, .fmfCqHead)] : List (Nat × Card)), s.serves r q.2 p →
      s.shadowOf r .fmfCqRingLo p = none →
        exec (.cqRegisterWrite r p q.1 be val) s = .next (if s.gf R.fmfCqStat_STATE p ≠ 0 then s.setBit .fmfErr 0 4
          else s.wr q.2 p (mergeWrite (cardInfo q.2).fields (s.rd q.2 p) (byteMask be) val)))) ∧
  (∀ (s : State) (n : Nat) (x : PtpTime), n < 32 → s.portUp n = true → x.wire.fcs = true → s.macOk n x.wire x.sec = true →
    let off : Int := (x.gm : Int) - (s.time : Int)
    let u := (s.heard n x.wire).setN 0x4005 2 (ofSigned 32 off)
    (s.ptpPort ≠ some n → exec (.ptpMessage n x) s = .next (s.heard n x.wire)) ∧
    (s.ptpPort = some n → s.everLocked = false → exec (.ptpMessage n x) s = .next
      ((State.sf { u with time := x.gm % 2 ^ 64, everLocked := true, slew := 0 } R.fmfStat_TLOCK 0 1).setN 0x4005 1 1)) ∧
    (s.ptpPort = some n → s.everLocked = true → exec (.ptpMessage n x) s = .next
      ((State.sf { u with slew := off } R.fmfStat_TLOCK 0 (if off.natAbs ≤ 100 then 1 else 0)).setN 0x4005 1 (if off.natAbs ≤ 100 then 1 else 0))))

/-! ### Faults -/

/-- R311, R315, R316, R322 to R339: the fatal dump and its copy, sealing, the controls of the error log, the configuration record,
re-protection, replay after a halt or without a recovery image, the rebuild of a spare, the adoption limit. Where it rests on
the model's choice: log entries 20, 63, 69, 70, 89 and 110. -/
def Obligations.FaultHandling : Prop :=
  (∀ (s : State) (k : Nat), s.gf R.fltStat_STATE 0 = 4 → k = 1 ∨ k = 2 → s.ucMem = [] →
    ∃ t, exec (.fatalDump k) s = .next t ∧ t.gf R.fltStat_STATE 0 = 5 ∧ t.dumpValid = true ∧
      (∀ b, b < dumpBase → t.readMem b 1 = s.readMem b 1) ∧ t.facets = s.facets) ∧
  (∀ (s : State), s.hopState = 2 → s.dumpCopied = false → s.dumpValid = true →
    (s.dumps = [] → s.dumping = none → exec .dumpCopy s = .next (State.setN { s with dumping := some 0 } 0x8024 3 0)) ∧
    (∀ k, s.dumping = some k → exec .dumpCopy s = .next (
      let kept := s.dumps.filter (fun x => x.1 != k) ++ [(k, Sparse.slice s.mem dumpBase dumpSize)]
      State.setN { s with dumps := kept, dumpCopied := true, dumping := none } 0x8024 3 ((kept.map (fun x => 2 ^ x.1)).foldl (· + ·) 0)))) ∧
  (∀ (s : State) (p : Nat), s.pstate p ≠ 0 → s.shadowsOn = true →
    let fin := if (s.rail p).running && !(s.rail p).done then (s.rail p).step - 1 else (s.rail p).step
    (s.rail p).sealedStep < fin → exec (.stepSeal p) s = .next ((((s.modRail p (fun x => { x with sealedStep := fin })).setN 0x8022 (p + 1) fin).sealSlots).tell p
      "sealed" fin)) ∧
  (∀ (s : State), exec .configRecordRewrite s = .next s.shadowConfig ∧ s.shadowConfig.regs = s.regs ∧ s.shadowConfig.dict = s.dict ∧
    s.shadowConfig.memories = s.memories ∧ s.shadowConfig.facets = s.facets ∧ s.shadowConfig.gens = s.gens ∧ s.shadowConfig.tickets = s.tickets) ∧
  (∀ (s : State) (k : Nat), k < 8 → s.dnum 0x8021 0x0A = 1 →
    exec (.reprotection k) s = .next (((s.rewriteStripe k).setN 0x8021 0x0A 0).tell 0 "re-protected" k)) ∧
  (∀ (s : State) (r : Requester) (be : Nat) (val : Word), s.serves r .errlogPtr (reqFn r) → r.ok = true →
    let v := (s.wr .errlogPtr (reqFn r) (mergeWrite (cardInfo .errlogPtr).fields (s.rd .errlogPtr (reqFn r)) (byteMask be) val)).gf R.errlogPtr_RD (reqFn r)
    exec (.errlogRdWrite r be val) s = .next
      (if 1024 < (s.gf R.errlogPtr_WR 0 + 65536 - v) % 65536 then s else s.sf R.errlogPtr_RD (reqFn r) v)) ∧
  (∀ (s : State) (k : Nat), ∃ t, exec (.errorBudgetRefill k) s = .next t ∧ t.spentOf k = s.spentOf k - 1 ∧
    (s.spentOf k ≠ 0 → t.time = max s.time (s.refillAt k)) ∧ (∀ j, j ≠ k → t.spentOf j = s.spentOf j) ∧ t.regs = s.regs ∧ t.memories = s.memories ∧ t.facets = s.facets) ∧
  (∀ (s : State) (p t0 : Nat), p < 16 → s.isLead p = true → (s.rail p).halted = some t0 → s.pstate p = 1 → bit (s.gf R.fltStat_TORN 0) p = false →
    ∃ t, exec (.replayHoldoffExpiry p) s = .next t ∧ bit (t.gf R.fltStat_TORN 0) p = true ∧ t0 + s.dnum 0x8020 5 * 1000 ≤ t.time ∧
      ((t.rail p).localReplay = true → s.idValid = true → t.out.getLast? = some (.group p "replay-start" (s.rail p).sealedStep)) ∧
      ((t.rail p).localReplay = false → ∀ k ∈ t.liveSlots p, (t.ticket k).state = 4)) ∧
  (∀ (s : State) (p g : Nat), p < 16 → s.pstate p = 1 → bit (s.gf R.fltStat_TORN 0) p = true → s.dnum 0x8025 4 = 0 → s.fatalNow = false →
    s.gf R.fmfCqStat_STATE p = 0 → s.imageHeld p = false →
    (s.pimgOk p = false → exec (.replayStart p g) s = .next (s.fatal (source 8 3) (unstatedCode 14) p)) ∧
    (s.pimgOk p = true →
      let rings := (engineList (s.prt p).mask).foldl (fun (t : State) e =>
        if (t.zeroRing e).drpRingOk e then (t.zeroRing e).sf R.drpStat_STATE e 1 else t.zeroRing e) s
      let ring := rings.zeroRing (32 + p)
      let on := if ring.cqRingOk p then ring.sf R.fmfCqStat_STATE p 1 else ring
      let back := match (on.rail p).seqs.find? (fun x => x.1 == g + 1) with
        | some x => x.2.foldl (fun (t : State) (y : Nat × Nat) => t.setEnt y.1 { t.ent y.1 with w3 := y.2 }) on
        | none => on
      (back.reloadFacets p).2 = true →
      (s.isLead p = false → ∃ t, exec (.replayStart p g) s = .next t ∧ bit (t.gf R.fltStat_TORN 0) p = false) ∧
      (∀ x l, s.isLead p = true → (s.rail p).replay = x :: l → s.dnum 0x6080 1 ≠ 1 → (s.prt p).busy = 0 → s.idValid = true →
        ∃ t, exec (.replayStart p g) s = .next t ∧ (t.rail p).running = true ∧
          (t.rail p).step = x.step ∧ (t.rail p).headerDue = true ∧ t.out.getLast? = some (.group p "step-start" x.step)))) ∧
  (∀ (s : State) (a : Adoption) (rec : ShadowRecord), s.adoption = some a → ∃ t, exec (.adoptionRebuildDone rec) s = .next t ∧ t.adoption = none ∧
    t.leaves = rec.leaves ∧ t.kvPages = rec.kvPages ∧ t.radix = rec.radix ∧ t.gens = rec.gens ∧ t.mosaic = rec.mosaic ∧ t.adoptionSeen = true ∧
    t.dnum 0x8020 2 = 0) ∧
  (∀ (s : State) (t0 p k : Nat) (x : Ticket), s.tearAt = some t0 → t0 + s.dnum 0x8020 6 * 1000000 ≤ s.time → p < 16 →
    bit (s.gf R.fltStat_TORN 0) p = true → s.isLead p = true → (s.rail p).replay = [] → s.tickets = [(k, x)] → x.part = p → x.state ≠ 0 → x.state ≠ 4 →
    ∃ t, exec .adoptionLimitExpiry s = .next t ∧ (t.ticket k).state = 4 ∧ (t.ticket k).reason = 0x28 ∧ t.memories = s.memories ∧ t.facets = s.facets)

/-! ### Pins, power and temperature -/

/-- R350, R355, R430 to R434: warning inputs and their holds, storms and stuck inputs, the sideband pins.
Where it rests on the model's choice: log entries 63 and 76. -/
def Obligations.InputsAndSideband : Prop :=
  (∀ (s : State), s.pins.asserts = [] →
    let note := fun (i : Nat) (t : State) => State.modPins t.recap (fun x => { x with asserts := [(i, s.mclk)] })
    (∀ n, n < 6 → bit s.pins.raw n = false → bit s.pins.storm n = false → exec (.vrAlertAssert n false) s = .next (note n
      ((((s.setRaw n true).setBit .pwrEvt 0 0).bump 0x8030 1).report (source 0xB n) 0x01 0 none n))) ∧
    (bit s.pins.raw 6 = false → bit s.pins.storm 6 = false → exec .shelfWarnAssert s = .next (note 6
      (((s.setRaw 6 true).setBit .pwrEvt 0 1).report (source 0xB 6) 0x11 0 none 0))) ∧
    (bit s.pins.raw 7 = false → bit s.pins.storm 7 = false → exec .coolWarnAssert s = .next (note 7
      (((s.setRaw 7 true).setBit .pwrEvt 0 1).report (source 0xB 6) 0x12 0 none 1)))) ∧
  (∀ (s : State),
    (∀ n, n < 6 → bit s.pins.raw n = true → exec (.vrAlertDeassert n) s = .next (State.recap
      (let t := s.setRaw n false
       if t.alertOn (railDomain n) || bit t.power.thermal (railDomain n) then t
       else { t with power := { t.power with holding := t.power.holding ||| 2 ^ railDomain n } }))) ∧
    (bit s.pins.raw 6 = true → bit s.pins.storm 6 = false → exec .shelfWarnDeassert s = .next (State.recap
      { s.setRaw 6 false with power := { s.power with brakeHold := true } })) ∧
    (exec .brakeHoldExpiry s = .next (State.recap { s with power := { s.power with brakeHold := false } })) ∧
    (exec .coolWarnDeassert s = .next (s.setRaw 7 false).recap) ∧
    (∀ d, 1 ≤ d → bit s.power.holding d = true → exec (.forceHoldExpiry d) s = .next (State.recap
      { s with power := { s.power with holding := putBits s.power.holding d d 0 } })) ∧
    (bit s.pins.storm 7 = true → bit s.pins.raw 7 = false → exec (.stormRelease 7) s = .next (State.recap
      { s with pins := { s.pins with storm := putBits s.pins.storm 7 7 0 } })) ∧
    (∀ i, i < 8 → bit s.pins.raw i = true → exec (.inputStuck i) s = .next (((s.sf ⟨.sbStat, 8 + i, 8 + i⟩ 0 1).bump 0x8030 6).report
      (source 0xB (min i 6)) 0x51 0 none i)) ∧
    (∀ n, 2 ≤ n → n ≤ 9 →
      (∀ r be val, s.serves r .sbCfg n →
        let t := s.wr .sbCfg n (mergeWrite (cardInfo .sbCfg).fields (s.rd .sbCfg n) (byteMask be) val)
        t.gf R.sbCfg_FUNC n < 6 → exec (.sbCfgWrite r n be val) s = .next { t with pins := { s.pins with
          floating := s.pins.floating ||| 2 ^ n, funcs := Sparse.put (fun _ => 0) s.pins.funcs n 0, lit := putBits s.pins.lit n n 0 } }) ∧
      (bit s.pins.floating n = true → s.gf R.sbCfg_FUNC n = 1 → exec (.sbFunctionApply n) s = .next (State.sf { s with pins := { s.pins with
        floating := putBits s.pins.floating n n 0, funcs := Sparse.put (fun _ => 0) s.pins.funcs n 1 } } R.sbCfg_IN n 0)) ∧
      (∀ level, bit s.pins.floating n = false → exec (.sbInputChange n level) s = .next (s.sf R.sbCfg_IN n (b2n level))) ∧
      (bit s.pins.lit n = true → exec (.fabricActivityIndicatorExpiry n) s = .next { s with
        pins := { s.pins with lit := putBits s.pins.lit n n 0 }, out := s.out ++ [.pin "SB" n false] })))

/-- R341 to R361: PWR_CAP follows the sources; the estimator's window, calibration, lost telemetry, the lease; temperatures;
boost, power requests, slack, the re-plan; the sleep states.
Where it rests on the model's choice: log entries 52, 64, 65 and 71. -/
def Obligations.PowerControl : Prop :=
  (∀ s : State, s.recap.gf R.pwrCap_CAP 0 = s.capNow.2 ∧ s.recap.gf R.pwrStat_FORCED 0 = s.forcedMask ∧ s.recap.memories = s.memories ∧
    s.recap.facets = s.facets ∧ s.regsKept s.recap [.pwrCap, .pwrDom, .pwrStat, .sbStat]) ∧
  (∀ (s : State) (e0 e1 e2 e3 : Nat), ∃ t, exec (.estimatorTick e0 e1 e2 e3) s = .next t ∧
    t.power.window = ([s.calibrated 0 e0, s.calibrated 1 e1, s.calibrated 2 e2, s.calibrated 3 e3] :: s.power.window).take 100000 ∧
    t.memories = s.memories ∧ t.facets = s.facets) ∧
  (∀ (s : State) (d m e : Nat), d < 4 → s.power.silent = 0 → e ≠ 0 → s.power.factors.length = 4 →
    let k := (15 * s.power.factors.getD d 0 + m * 268435456 / e) / 16
    ∃ t, exec (.calibrationRead d m e) s = .next t ∧ t.power.factors.getD d 0 = max 214748364 (min 335544320 k) ∧
      (214748364 ≤ k → k ≤ 335544320 → t.regs = s.regs) ∧ t.memories = s.memories ∧ t.facets = s.facets) ∧
  (∀ (s : State) (g : Nat), g < 6 → exec (.telemetryLost g) s = .next (State.recap ((State.setBit { s with power := { s.power with
    silent := s.power.silent ||| 2 ^ g, good := s.power.good.set g 0 } } .pwrEvt 0 3).report (source 0xB g) 0x02 0 none g))) ∧
  (∀ (s : State) (w t0 : Nat), s.power.lease = some (w, t0) → t0 + 60000000000 ≤ s.mclk → exec .leaseExpiry s = .next (State.recap
    (((State.setBit { s with power := { s.power with lease := none } } .pwrEvt 0 2).bump 0x8030 2).report (source 0xB 6) 0x13 0 none w))) ∧
  (∀ (s : State) (l0 l1 v : Nat) (layers : List Nat), l0 < 256 → l1 < 256 → v < 256 → (∀ x ∈ layers, x < 256) →
    ∃ t, exec (.thermalSample l0 l1 v layers) s = .next t ∧ t.gf R.thmStat_LAT0 0 = l0 ∧ t.gf R.thmStat_LAT1 0 = l1 ∧ t.gf R.thmStat_VTX 0 = v ∧
      t.gf R.thmStat_CRF 0 = layers.foldl max 0 ∧ (s.dnum 0x3001 1 ≤ 104 → 104 ≤ max l0 l1 → bit t.power.thermal 0 = true) ∧
      (95 < layers.foldl max 0 → bit t.power.limited 1 = true) ∧ t.memories = s.memories ∧ t.facets = s.facets) ∧
  (∀ (s : State) (die : Nat), die < 2 → (s.boostOk die = true → exec (.boostStep die) s = .next
      (s.setClocks (s.power.clocks.set die (s.power.clocks.getD die 0 + 25))).recap) ∧
    (s.boostOk die = false → exec (.boostStep die) s = .next s)) ∧
  (∀ (s : State) (w : Nat) (rest : List (Nat × Nat)), s.power.requests = (w, s.mclk) :: rest → w ≠ 60 → s.power.grants = [] →
    exec .powerRequestGrant s = .next (State.recap { s with power := { s.power with requests := rest, grants := [(w, s.mclk)] } })) ∧
  (∀ (s : State) (x : Int) (l : List Int), exec (.slackSample 0 (x :: l)) s =
    .next (s.setD 0x9000 2 (.oct (natLE 2 (ofSigned 16 (l.foldl min x)) ++ (s.doct 0x9000 2).drop 2)))) ∧
  (∀ (s : State) (plan : List Nat), s.power.replan = true → ∃ t, exec (.vfReplan plan) s = .next t ∧ t.power.replan = false ∧ t.dnum 0x9001 3 = s.time ∧
    (∀ die k, die < 2 → k < 57 → s.vfPoint die k < 65536 → plan.getD (57 * die + k) 0 < 65000 →
      t.vfPoint die k = planPoint (s.vfPoint die k) (plan.getD (57 * die + k) 0)) ∧ t.memories = s.memories ∧ t.facets = s.facets) ∧
  (∀ s : State,
    (s.dnum 0x2001 2 ≠ 0 → s.asleep = false → (∀ p, p < 16 → s.pstate p = 0 ∨ s.pstate p = 4) →
      exec .autoS1 s = .next { s with power := { s.power with entering := some 1 } }) ∧
    (s.power.entering = some 1 → s.power.parked = [] → s.dnum 0x2001 1 = 1 → exec .sleepEntryDone s = .next (State.recap
      (State.setN { s with power := { s.power with entering := none, sleep := 1 } } 0x2001 1 0))) ∧
    (s.power.entering = some 2 → s.power.parked = [] → ∃ t, exec .sleepEntryDone s = .next t ∧ t.power.sleep = 2 ∧ t.power.entering = none ∧
      t.sram = s.sram ∧ t.hop = s.hop) ∧
    (s.power.exiting = true → s.power.requests = [] → s.power.parked = [] → s.dnum 0x2001 1 = 1 → exec .sleepExitDone s = .next (State.recap
      (State.setN { s with power := { s.power with sleep := 0, exiting := false, parked := [] } } 0x2001 1 0))))

/-- R357, R436 to R438: the regulated outputs, their shorts and retries, low supplies, the thermal trip.
Where it rests on the model's choice: log entries 63 and 76. -/
def Obligations.RegulatedOutputs : Prop :=
  (∀ (s : State) (k : Nat), k < 16 ∨ k = 32 ∨ k = 33 →
    let on := fun (t : State) (n : Nat) => (t.setRego ⟨k, 1, n, t.mclk, false⟩).emit (.pin "REGO" k true)
    ((s.rego k).state = 0 → s.fed k = true → (s.rego (k + 16)).state ≠ 4 → exec (.outputStart k) s = .next (on s (s.rego k).restarts)) ∧
    ((s.rego k).state = 3 → s.fed k = true → (s.rego k).at_ + s.dnum 0x2004 4 * 1000000 ≤ s.mclk →
      exec (.outputRetry k) s = .next (on s ((s.rego k).restarts + 1))) ∧
    ((s.rego k).state = 1 → (s.rego (k + 16)).state ≠ 1 →
      ((s.rego k).restarts < s.dnum 0x2004 3 → exec (.outputShort k) s = .next (State.report ((s.setRego ⟨k, 3, (s.rego k).restarts, s.mclk, false⟩).emit
        (.pin "REGO" k false)) (source 0xB 9) 0x61 0 none k)) ∧
      (k < 16 → s.dnum 0x2004 3 ≤ (s.rego k).restarts → s.hopState ≠ 2 → s.hopState ≠ 3 → exec (.outputShort k) s = .next (State.setBit
        ((((((s.setRego ⟨k, 4, (s.rego k).restarts, s.mclk, false⟩).emit (.pin "REGO" k false)).report (source 0xB 9) 0x61 0 none k).report
          (source 0xB 9) 0x62 0 none k).bump 0x8030 8)) .regoLatch 0 k))) ∧
    (∀ r, s.serves r .regoCmd 0 →
      (s.regoShown k = 1 ∨ s.regoShown k = 3 → exec (.retry r k) s = .next ((s.sf R.regoCmd_LAST 0 1).sf R.regoCmd_STATUS 0 2)) ∧
      (s.regoShown k = 2 → exec (.retry r k) s = .next ((s.sf R.regoCmd_LAST 0 1).sf R.regoCmd_STATUS 0 0)) ∧
      (s.regoShown k = 4 ∨ s.regoShown k = 0 → s.fed k = true → exec (.retry r k) s = .next
        (on (((s.sf (if k < 32 then ⟨.regoLatch, k, k⟩ else ⟨.regoCmd, k - 32 + 6, k - 32 + 6⟩) 0 0).sf R.regoCmd_LAST 0 1).sf R.regoCmd_STATUS 0 0) 0)))) ∧
  (∀ (s : State) (vlas : Bool),
    (∃ t, exec (.supplyDroop vlas) s = .next t ∧ bit t.pins.low (b2n vlas) = true ∧ (∀ k ∈ fedFrom vlas, (t.rego k).state ≠ 1) ∧
      t.memories = s.memories ∧ t.regs = s.regs ∧ t.facets = s.facets) ∧
    (bit s.pins.low (b2n vlas) = true → ∃ t, exec (.supplyRecovered vlas) s = .next t ∧ bit t.pins.low (b2n vlas) = false ∧
      t.memories = s.memories ∧ t.regs = s.regs ∧ t.facets = s.facets)) ∧
  (∀ s : State, ∃ t, exec .thermalTrip s = .next t ∧ t.pins.trip = true ∧ 4 ≤ t.gf R.fltStat_STATE 0 ∧ (∀ x ∈ t.pins.rego, x.state = 4) ∧
    t.out.getLast? = some (.pin "THERMTRIP_N" 0 false) ∧ t.memories = s.memories ∧ t.facets = s.facets)

/-! ### Resets, boot, verification -/

/-- R408 to R419, R421, R422: what POR_N, WARM_RST_N, PERST_N and a function level reset, here or at another package, do, and the
watchdog; the choice of the slot to boot, a boot to READY or to the fatal state, the end of VERIFY; and what each of them leaves
alone, or ignores. Where it rests on the model's choice: log entries 1, 82, 88 and 98. -/
def Obligations.ResetsAndBoot : Prop :=
  (∀ s : State, ∃ t, exec .porAssert s = .next t ∧ t.regs = [] ∧ t.facets = [] ∧ t.imem = [] ∧ t.sram = [] ∧ t.hop = [] ∧ t.parts = [] ∧
    t.tickets = [] ∧ t.sec.level = 0 ∧ t.sec.urnKey = [] ∧ t.sec.hopKey = [] ∧ t.boot.phase = 0 ∧ t.boot.nor = s.boot.nor ∧
    t.boot.recd = s.boot.recd ∧ t.dumps = s.dumps ∧ t.part = s.part ∧ t.host = s.host ∧
    (∀ x ∈ t.mem, dumpBase ≤ x.1 ∧ x.1 < dumpBase + dumpSize)) ∧
  (∀ (s : State) (sel node : Nat) (fitted : List (Nat × List Byte)),
    (s.boot.phase ≠ 0 → exec (.porRelease sel node fitted) s = .next s) ∧
    (s.boot.phase = 0 → ∃ t, exec (.porRelease sel node fitted) s = .next t ∧ (t.boot.phase = 1 ∨ t.boot.phase = 5) ∧
      t.boot.bootSel = sel % 4 ∧ t.boot.node = min 254 (node % 256) ∧ t.gf R.bootStat_CAUSE 0 = 0 ∧ t.mem = s.mem ∧ t.facets = s.facets ∧
      (s.sec.life = 3 → t.sec.uds = false))) ∧
  (∀ (s : State) (sel node : Nat), s.boot.phase = 0 → s.boot.recd.active ≤ 1 → s.boot.recd.tslot ≤ 1 →
    let a := s.boot.recd.active
    let act := if s.slotValid a then some a else if s.slotValid (1 - a) then some (1 - a) else none
    let trial := s.boot.recd.trial = 1 ∧ s.slotValid s.boot.recd.tslot = true
    let pick := if sel % 4 = 3 then none
      else if sel % 4 ≠ 0 then (if s.slotValid (sel % 4 - 1) then some (sel % 4 - 1) else none)
      else if trial then some s.boot.recd.tslot else act
    ∃ t, exec (.porRelease sel node []) s = .next t ∧
      (pick = none → t.boot.phase = 5 ∧ t.gf R.bootStat_RECOVERY 0 = 1 ∧ t.boot.fuses = s.boot.fuses) ∧
      (∀ n, pick = some n → t.boot.phase = 1 ∧ t.gf R.bootStat_SLOT 0 = n) ∧
      (sel % 4 = 0 → trial → t.gf R.bootStat_TRIAL 0 = 1 ∧ t.boot.recd.trial = 2) ∧
      (sel % 4 = 0 → ¬trial → s.slotValid a = false → s.slotValid (1 - a) = true →
        t.gf R.bootStat_FALLBACK 0 = 1 ∧ t.boot.recd.active = 1 - a ∧ t.boot.recd.trial = 0)) ∧
  (∀ (s : State) (faults urnBad : List Nat),
    (s.boot.phase ≠ 1 → s.boot.phase ≠ 3 → exec (.bootReady ⟨faults, urnBad⟩) s = .next s) ∧
    (s.boot.phase = 1 ∨ s.boot.phase = 3 →
      (faults = [] → ∃ t, exec (.bootReady ⟨faults, urnBad⟩) s = .next t ∧ t.boot.phase = 4 ∧ t.gf R.bootStat_READY 0 = 1 ∧
        t.gf R.tierStat_URN_OK 0 = (if ∀ c ∈ urnBad, 16 ≤ c then 1 else 0) ∧ t.memories = s.memories ∧ t.facets = s.facets) ∧
      (faults ≠ [] → ∃ t, exec (.bootReady ⟨faults, urnBad⟩) s = .next t ∧ 4 ≤ t.gf R.fltStat_STATE 0 ∧ t.boot.phase = s.boot.phase ∧
        t.memories = s.memories ∧ t.facets = s.facets))) ∧
  (∀ s : State, (s.boot.phase = 1 ∨ s.boot.phase = 4 ∨ s.boot.phase = 5 → ∃ t, exec .warmRstAssert s = .next t ∧ t.boot.phase = 2 ∧
      t.gf R.bootStat_READY 0 = 0 ∧ t.gf R.bootStat_CAUSE 0 = 1 ∧ t.sec.level = 0 ∧ t.sessions = [] ∧ t.ops = [] ∧ t.holds = [] ∧
      (∀ k, (t.ticket k).state = 0) ∧ t.memories = s.memories ∧ t.facets = s.facets) ∧
    (s.boot.phase ≠ 1 → s.boot.phase ≠ 4 → s.boot.phase ≠ 5 → exec .warmRstAssert s = .next s)) ∧
  (∀ s : State, (s.boot.phase = 2 → ∃ t, exec .warmRstRelease s = .next t ∧ (t.boot.phase = 3 ∨ t.boot.phase = 5) ∧ t.gf R.bootStat_CAUSE 0 = 1 ∧
      t.facets = [] ∧ t.imem = [] ∧ t.sram = [] ∧ t.parts = [] ∧ (∀ k, (t.ticket k).state = 0) ∧ t.time = s.time ∧ t.hop = s.hop ∧
      t.keys = s.keys ∧ t.sec.urnKey = s.sec.urnKey ∧ t.sec.hopKey = s.sec.hopKey ∧ t.boot.nor = s.boot.nor ∧
      t.mem = (if s.gf R.fltStat_STATE 0 = 4 then (s.zeroMem closingAt 64).mem else s.mem).filter
        (fun x => decide (urnBase ≤ x.1) && decide (x.1 < apertureBase))) ∧
    (s.boot.phase ≠ 2 → exec .warmRstRelease s = .next s)) ∧
  (∀ s : State,
    (s.boot.recd.trial = 2 → s.boot.phase = 1 ∨ s.boot.phase = 3 → ∃ t, exec .trialReadyTimeout s = .next t ∧
      (t.boot.phase = 3 ∨ t.boot.phase = 5) ∧ t.gf R.bootStat_CAUSE 0 = 3 ∧ t.facets = [] ∧ t.hop = s.hop) ∧
    (s.boot.recd.trial ≠ 2 ∨ (s.boot.phase ≠ 1 ∧ s.boot.phase ≠ 3) → exec .trialReadyTimeout s = .next s)) ∧
  (∀ s : State,
    (s.boot.recd.trial = 2 → ∃ t, exec .watchdogExpiry s = .next t ∧ (t.boot.phase = 3 ∨ t.boot.phase = 5) ∧ t.gf R.bootStat_CAUSE 0 = 3 ∧
      t.facets = [] ∧ t.hop = s.hop) ∧
    (s.boot.recd.trial ≠ 2 → ∃ t, exec .watchdogExpiry s = .next t ∧ 4 ≤ t.gf R.fltStat_STATE 0 ∧ t.memories = s.memories ∧ t.facets = s.facets ∧
      (s.fatalNow = false → t.gf R.fltStat_STATE 0 = 4 ∧ t.ops = [] ∧ ∀ n, n < 32 → t.pst n = 0))) ∧
  (∀ s : State,
    (∃ t, exec .perstAssert s = .next t ∧ t.pins.perst = true ∧ t.mem = s.mem ∧ t.facets = s.facets ∧
      (∀ fn, fn ≤ 16 → t.ring fn = Ring.blank ∧ t.rd .tktQcfg fn = cardReset .tktQcfg)) ∧
    exec .perstRelease s = .next { s with pins := { s.pins with perst := false } } ∧
    (∀ fn pkg, 16 < fn → exec (.functionLevelReset ⟨fn, pkg⟩) s = .next s) ∧
    (∀ fn q, fn ≤ 16 → ∃ t, exec (.functionLevelReset ⟨fn, some q⟩) s = .next t ∧
      (∀ k, (s.ticket k).state ≠ 0 → (s.ticket k).entry = .remote ⟨q, 0, fn, 0, 0⟩ → s.isLead (s.ticket k).part = true → (t.ticket k).state = 0) ∧
      s.regsKept t [.tktRailStat] ∧ t.rings = s.rings ∧ t.mem = s.mem ∧ t.facets = s.facets) ∧
    (∀ fn, fn ≤ 16 → ∃ t, exec (.functionLevelReset ⟨fn, none⟩) s = .next t ∧ t.ring fn = Ring.blank ∧ t.rd .tktQcfg fn = cardReset .tktQcfg ∧
      (∀ g, g ≠ fn → t.ring g = s.ring g) ∧
      (∀ c j, j < 1048576 → (cardInfo c).dom ≠ .func ∨ j / (cardInfo c).n2 ≠ fn → c ≠ .dbgStat → c ≠ .apxStat → c ≠ .tktRailStat →
        t.rd c j = s.rd c j) ∧
      (∀ k, (s.ticket k).state ≠ 0 → (s.ticket k).entry = .func fn → s.isLead (s.ticket k).part = true → (t.ticket k).state = 0) ∧ t.mem = s.mem ∧ t.facets = s.facets)) ∧
  (∀ s : State, (s.boot.verifying = false → exec .verifyDone s = .next s) ∧ (s.boot.verifying = true →
    let n := s.targetSlot
    let c := s.imageCode n
    let t := State.setN { s with boot := { s.boot with verifying := false, good := putBits s.boot.good n n (b2n (c == 0)) } } 0xA001 4 c
    exec .verifyDone s = .next (if c = 0 then (t.setN 0xA001 2 0).setUpd 3 n else (t.setN 0xA001 2 2).setUpd 0 n)))

/-! ### The Apex core -/

/-- R364, R367, R373 to R384: nonces and their lapse, OPEN, CLOSE, SETPW, the lockout, zeroisation done, the code re-hash,
the test access port, what an open level grants a debugger.
Where it rests on the model's choice: log entries 2, 86, 87 and 93. -/
def Obligations.SecurityCommands : Prop :=
  (∀ (s : State) (r : Requester), s.serves r .dbgCmd 0 →
    exec (.dbgNonce r) s = .next (((s.fresh.2.setNonce (some (freeBytes s.fresh.1 48))).cmdCode .dbgCmd 0 1 0 0).clearBuf) ∧
    (let c := s.dbgCred.take 360
     let q := s.openCode c
     ∃ t, exec (.dbgOpen r) s = .next t ∧ t.sec.nonce = none ∧ t.gf R.dbgCmd_LAST 0 = 2 ∧ t.gf R.dbgCmd_CODE 0 = q.1 ∧ t.dbgCred = zeros 512 ∧
       (q.1 ≠ 0 → t.gf R.dbgCmd_STATUS 0 = 2 ∧ t.sec.level = s.sec.level ∧ t.sec.opening = s.sec.opening ∧ t.memories = s.memories ∧ t.facets = s.facets) ∧
       (q.1 = 0 → credLevel c = 1 → t.gf R.dbgCmd_STATUS 0 = 0 ∧ t.sec.level = 1 ∧ t.sec.duration = credTime c ∧ t.sec.openedAt = s.mclk ∧
         t.memories = s.memories ∧ t.facets = s.facets) ∧
       (q.1 = 0 → credLevel c ≠ 1 → t.gf R.dbgCmd_STATUS 0 = 1 ∧ t.sec.level = s.sec.level ∧
         t.sec.opening = some ⟨credLevel c, credMask c, credTime c, credKind c, sha384 c⟩)) ∧
    (s.sec.opening.isSome = true → exec (.dbgClose r) s = .next ((s.cmdCode .dbgCmd 0 3 2 9).clearBuf)) ∧
    (s.sec.opening = none → s.sec.level = 1 →
      exec (.dbgClose r) s = .next (((s.cmdCode .dbgCmd 0 3 0 0).levelClosed.setN 0xB000 1 0).clearBuf)) ∧
    (s.sec.opening = none → s.sec.level = 3 → ∃ t, exec (.dbgClose r) s = .next t ∧ t.sec.level = 0 ∧ t.gf R.bootStat_CAUSE 0 = 5 ∧
      (t.boot.phase = 3 ∨ t.boot.phase = 5) ∧ t.sessions = []) ∧
    (let c := s.dbgCred
     let q := s.setpwCode c
     ∃ t, exec (.setpw r) s = .next t ∧ t.gf R.dbgCmd_LAST 0 = 4 ∧ t.gf R.dbgCmd_CODE 0 = q.1 ∧ t.memories = s.memories ∧ t.facets = s.facets ∧
       (q.1 ≠ 0 → t.gf R.dbgCmd_STATUS 0 = 2 ∧ t.sec.password = s.sec.password ∧ (q.2 = true → t.sec.fails = s.sec.fails + 1 ∧ (4 ≤ s.sec.fails → t.sec.locked = true))) ∧
       (q.1 = 0 → t.gf R.dbgCmd_STATUS 0 = 0 ∧ t.sec.fails = 0 ∧ t.sec.locked = false ∧
         t.sec.password = some (pbkdf2 (passwordAt c 13 80) (freeBytes s.freeCtr 32), freeBytes s.freeCtr 32)))) ∧
  (∀ s : State, exec .nonceLapse s = .next (s.setNonce none) ∧ (s.setNonce none).sec.nonce = none ∧
    (∀ k, k < 12 → (s.setNonce none).rd .dbgNonce k = 0) ∧
    (s.sec.locked = true → s.sec.lockedAt + s.sec.wait * 1000000000 ≤ s.mclk → exec .lockoutExpiry s = .next (s.modSec (fun x => { x with locked := false }))) ∧
    (s.sec.level = 1 → s.sec.openedAt + s.sec.duration * 1000000000 ≤ s.mclk →
      exec .levelExpiry s = .next (s.levelClosed.setN 0xB000 1 0) ∧ s.levelClosed.sec.level = 0) ∧
    exec (.codeRehash true) s = .next s ∧
    (s.fatalNow = false → ∃ t, exec (.codeRehash false) s = .next t ∧ t.gf R.fltStat_STATE 0 = 4 ∧ t.memories = s.memories ∧ t.facets = s.facets) ∧
    exec .bypass s = .next { s with pins := { s.pins with jtag := 1 }, out := s.out ++ [.tdo 0] } ∧
    exec .idcode s = .next { s with pins := { s.pins with jtag := 0 }, out := s.out ++ [.tdo Config.idcode] } ∧
    (s.scanOk = true →
      exec .samplePreload s = .next { s with
        freeCtr := s.freeCtr + 1, pins := { s.pins with jtag := 2 }, out := s.out ++ [.tdo (Config.freeVal s.freeCtr 0)] } ∧
      exec .extest s = .next { s with pins := { s.pins with jtag := 3 } }) ∧
    (s.scanOk = false → exec .samplePreload s = .next s ∧ exec .extest s = .next s)) ∧
  (∀ (s : State) (o : Opening), s.sec.opening = some o → s.asleep = false → ∃ t, exec .zeroiseDone s = .next t ∧ t.sec.opening = none ∧
    t.sec.level = o.level ∧ t.sec.mask = o.mask ∧ t.sec.duration = o.duration ∧ t.sec.openedAt = s.mclk ∧
    (s.gf R.dbgCmd_STATUS 0 = 1 → t.gf R.dbgCmd_STATUS 0 = 0) ∧ t.memories = s.memories ∧ t.facets = s.facets) ∧
  (∀ (s : State) (x : DebugItem) (off n : Nat) (bs : List Byte),
    (s.sec.level = 0 → s.debugReads x = false) ∧ (s.sec.level ≤ 1 → s.debugWrites x = false) ∧ s.debugReads .apex = false ∧
    (s.debugReads x = false → s.debugRead x off n = .denied) ∧
    (s.debugReads x = true → s.debugAwake x = false → s.debugRead x off n = .asleep) ∧
    (s.debugWrites x = false → s.debugWrite x off bs = (s, .denied) ∧ s.debugHalt x = (s, .denied) ∧ s.debugResume x = (s, .denied) ∧
      s.debugStep x = (s, .denied)) ∧
    (∀ f p, s.sec.level = 2 → s.facetPart f = some p → s.debugWrites (.facet f) = bit s.sec.mask p) ∧
    (∀ f a, s.sec.level = 3 → s.power.sleep = 0 → s.debugRead (.memory a n) 0 n = .data (s.viewMem a n) ∧
      s.debugWrite (.memory a bs.length) 0 bs = ((s.writeMem a bs).1, .done) ∧ s.debugHalt (.facet f) = (s.haltFacet f, .done)))

/-- R369 to R372, R405: each SPDM request is answered on its path; other codes and versions are answered with errors; no
signed answer after decommissioning or at L3; the Apex mailbox.
Where it rests on the model's choice: log entries 66 and 85. -/
def Obligations.SpdmAnswers : Prop :=
  (∀ (s : State) (n : Nat) (b : List Byte), s.spdmServed (.mgmt n) = true → 4 ≤ b.length →
    let p := SpdmPath.mgmt n
    let a := s.spdmAnswer b
    let t := ((a.1.modSec (fun x => { x with transcript := x.transcript ++ b ++ a.2 })).bump 0x8040 3).emit (.spdm p a.2)
    (∀ q ∈ [(Instr.getVersion p b, 0x84), (.getCapabilities p b, 0xE1), (.negotiateAlgorithms p b, 0xE3), (.getDigests p b, 0x81),
        (.getCertificate p b, 0x82), (.challenge p b, 0x83), (.getMeasurements p b, 0xE0)],
      spCode b = q.2 → exec q.1 s = .next t) ∧
    (spCode b ∉ [0x81, 0x82, 0x83, 0x84, 0xE0, 0xE1, 0xE3] → exec (.spdmUnsupported p b) s = .next t ∧
      a = (s, spdmMsg 0x12 0x7F 7 (spCode b) [])) ∧
    (spCode b ∈ [0x81, 0x82, 0x83, 0xE0, 0xE1, 0xE3] → spVer b ≠ 0x12 → spVer b ≠ 0x13 → a = (s, spdmMsg 0x12 0x7F 0x41 0 [])) ∧
    (spVer b = 0x12 ∨ spVer b = 0x13 → spCode b = 0x83 → s.sec.life = 3 ∨ s.sec.level = 3 → a = (s, spdmMsg (spVer b) 0x7F 5 0 [])) ∧
    (spVer b = 0x12 → spCode b = 0x81 → a = (s, spdmMsg 0x12 1 0 1 (sha384 s.spdmChain))) ∧
    t.memories = s.memories ∧ t.facets = s.facets ∧ t.regs = s.regs) ∧
  (∀ (s : State) (r : Requester) (len : Nat), s.serves r .apxCmd (reqFn r) →
    let fn := reqFn r
    let body := Sparse.gets zeroByte s.apxReq (fn * 4096) len
    let u := (s.cmdDone .apxCmd fn 1 0).sf R.apxStat_READY fn 0
    (len < 1 ∨ 4096 < len → exec (.apxSend r len) s = .next (s.cmdDone .apxCmd fn 1 2)) ∧
    (1 ≤ len → len ≤ 4096 → body.headD 0 ≠ 0x05 → exec (.apxSend r len) s = .next u) ∧
    (5 ≤ len → len ≤ 4096 → body.headD 0 = 0x05 → s.spdmServed (.mailbox fn) = true →
      let a := u.spdmAnswer (body.drop 1)
      exec (.apxSend r len) s = .next (((a.1.modSec (fun x => { x with transcript := x.transcript ++ body.drop 1 ++ a.2 })).bump
        0x8040 3).apxReturn fn (0x05 :: a.2))))

/-! ### The dictionary -/

/-- R386, R393 to R399, R404: READ, WRITE, LIST, DESCRIBE, ABORT, the idle timeout of a session, and events fetched through
the mailbox.
Where it rests on the model's choice: log entry 75. -/
def Obligations.DictionaryServices : Prop :=
  (∀ (s : State) (q : DapReq) (n : Nat), q.path = .mgmt n → s.dapServed q.path = true → s.answers = [] →
    (s.readCode q ≠ 0 → exec (.dapRead q) s = .next (s.reply q 1 (s.readCode q) 0 false false [])) ∧
    (∀ e, s.readCode q = 0 → rowOf q.index q.sub = some e → s.staleRead e = false →
      let t := s.refresh q.index q.sub
      let r := t.segment e q.sub q.offset (if q.len = 0 then 1024 else q.len)
      (q.offset = 0 ∨ q.vtag = t.tagOf q.index q.sub → exec (.dapRead q) s = .next (t.reply q 1 0 (t.tagOf q.index q.sub) r.2 false r.1)) ∧
      (0 < q.offset → q.vtag ≠ t.tagOf q.index q.sub → exec (.dapRead q) s = .next (t.reply q 1 8 (t.tagOf q.index q.sub) false false []))) ∧
    (q.bad = true ∨ 1024 < q.len →
      exec (.dapRead q) s = .next (s.reply q 1 0x0A 0 false false []) ∧ exec (.dapWrite q) s = .next (s.reply q 2 0x0A 0 false false []) ∧
      exec (.list q) s = .next (s.reply q 3 0x0A 0 false false []) ∧ exec (.describe q) s = .next (s.reply q 4 0x0A 0 false false []) ∧
      exec (.dapAbort q) s = .next (s.reply q 7 0x0A 0 false false [])) ∧
    (q.bad = false → q.len ≤ 1024 →
      (q.len = q.payload.length → s.writeCode q.path q.bcast q.index q.sub ≠ 0 → exec (.dapWrite q) s =
        .next (s.reply q 2 (s.writeCode q.path q.bcast q.index q.sub) (s.tagOf q.index q.sub) false false [])) ∧
      (∀ e, q.len = q.payload.length → s.writeCode q.path q.bcast q.index q.sub = 0 → rowOf q.index q.sub = some e →
        s.sessions.any (fun x => x.index == q.index && x.sub == q.sub) = false → e.cls = .rw ∨ e.cls = .rwp ∨ e.cls = .rwl →
        (q.offset ≠ 0 → exec (.dapWrite q) s = .next (s.reply q 2 7 (s.tagOf q.index q.sub) false false [])) ∧
        (q.offset = 0 → q.last = false → exec (.dapWrite q) s = .next (State.reply
          { s with sessions := s.sessions ++ [⟨q.path, q.index, q.sub, q.payload, s.mclk⟩] } q 2 0 (s.tagOf q.index q.sub) false false [])) ∧
        (q.offset = 0 → q.last = true → typeOk e q.payload = false →
          exec (.dapWrite q) s = .next (s.reply q 2 4 (s.tagOf q.index q.sub) false false [])) ∧
        (q.offset = 0 → q.last = true → typeOk e q.payload = true → rangeOk e q.sub q.payload = false →
          exec (.dapWrite q) s = .next (s.reply q 2 5 (s.tagOf q.index q.sub) false false [])) ∧
        (q.offset = 0 → q.last = true → typeOk e q.payload = true → rangeOk e q.sub q.payload = true → 0x3002 ≤ q.index → q.index ≠ 0xA002 →
          (q.index = 0x5020 → q.sub = 2 → s.shadowFits (leNat q.payload) = true) →
          let v := dvalOf e q.payload
          let w := s.setD q.index q.sub v
          let t := if q.index = 0x8021 ∧ q.sub ≤ 8 then w.forgetPeer (q.sub - 1) else w
          let u := if e.cls = .rw then t else t.commitValue q.index q.sub v
          exec (.dapWrite q) s = .next (u.reply q 2 0 (u.tagOf q.index q.sub) false false []))) ∧
      (q.index = 0 → q.sub = 0 → q.bcast = false →
        let rest := listRecords.drop q.offset
        exec (.list q) s = .next (s.reply q 3 0 0 (decide (256 < rest.length)) false
          ((rest.take 256).flatMap (fun x => natLE 2 x.1 ++ natLE 1 x.2.1 ++ natLE 1 x.2.2)))) ∧
      (s.boot.phase ≠ 5 → q.bcast = false →
        (rowOf q.index q.sub = none → exec (.describe q) s = .next (s.reply q 4 1 0 false false [])) ∧
        (∀ e, rowOf q.index q.sub = some e → exec (.describe q) s = .next (s.reply q 4 0 (s.tagOf q.index q.sub) false false
          (natLE 1 e.typ.code ++ natLE 1 e.cls.code ++ natLE 1 (b2n e.isVar + 2 * b2n e.atWarm) ++ zeros 1 ++ natLE 4 e.typ.size ++
            natLE 8 e.limits.1 ++ natLE 8 e.limits.2)))) ∧
      (s.writable q.index q.sub = true → (rowOf q.index q.sub).isSome = true → q.bcast = false → s.pathWrites q.path = true → q.index ≠ 0xA001 →
        (∀ x, s.sessions = [x] → x.index = q.index → x.sub = q.sub → x.path = q.path →
          exec (.dapAbort q) s = .next (State.reply { s with sessions := [] } q 7 0 0 false false [])) ∧
        (s.sessions = [] → exec (.dapAbort q) s = .next (s.reply q 7 0 0 false false []))))) ∧
  (∀ (s : State) (q : DapReq) (n svc st tag : Nat) (more stale : Bool) (p : List Byte), q.path = .mgmt n →
    let t := s.reply q svc st tag more stale p
    t.out = s.out ++ [.dap q.path q.tid svc q.index q.sub st q.offset tag more stale p] ∧
    t.memories = s.memories ∧ t.regs = s.regs ∧ t.facets = s.facets ∧ t.sessions = s.sessions ∧ t.subs = s.subs) ∧
  (∀ (s : State) (i : Nat) (x : Session), s.sessions[i]? = some x → x.index ≠ 0xA001 → x.at_ + s.dnum 0x4011 2 * 1000000 ≤ s.mclk →
    exec (.segmentIdleTimeout i) s = .next { s with sessions := s.sessions.filter (fun y => !(y.index == x.index && y.sub == x.sub)) }) ∧
  (∀ (s : State) (fn : Nat) (u : Subscriber), fn ≤ 16 → s.dapServed (.mailbox fn) = true → s.subs = [u] → u.path = .mailbox fn →
    (u.queue = [] → exec (.eventFetch fn) s = .next (s.answer (.mailbox fn) 0 1 0 0 1 0 0 false false [])) ∧
    (∀ e rest, u.queue = e :: rest → exec (.eventFetch fn) s = .next (State.showPend (State.mailReturn { s with subs := [{ u with queue := rest }] } fn
      (dapBytes 2 0 0 (8 * b2n e.lost) 0 0 0 e.seq 0 (natLE 8 e.time ++ natLE 4 e.seq ++ natLE 1 e.cls ++ zeros 3 ++ padTo 32 e.detail))) fn)))

/-- R392, R395, R396: a write of a command entry by its own row is answered 0, then does what the entry says; the download of
an image and the board record; and what the entries do.
Where it rests on the model's choice: log entries 61, 65, 74, 75 and 88. -/
def Obligations.EntryCommands : Prop :=
  (∀ (s : State) (path : DapPath) (n : Nat) (val : DWord) (v : List Byte) (found : AdoptView), s.dapServed path = true →
    ∀ x ∈ [(Instr.arcSelfTest path n, 0x8012, 5, natLE 2 n), (.withdrawPrefix path n, 0x6091, 2, natLE 2 n), (.saltRenewal path n, 0x6090, 3, natLE 2 n),
      (.identityAssign path val, 0x4000, 1, natLE 8 (val.toNat % 2 ^ 63)), (.identityRelease path val, 0x4000, 1, natLE 8 (2 ^ 63 + val.toNat % 2 ^ 63)),
      (.dumpWriteCommand path, 0x8024, 2, [1]), (.dumpInvalidate path, 0x8024, 2, [2]), (.teardown path v, 0x8020, 1, v),
      (.adopt path v found, 0x8020, 2, v), (.faultResume path n, 0x8020, 3, natLE 2 n), (.capLease path n, 0x2002, 1, natLE 2 n),
      (.powerStateActive path, 0x2001, 1, [0]), (.enterS1 path, 0x2001, 1, [1]), (.enterS2 path, 0x2001, 1, [2]), (.enterS3 path, 0x2001, 1, [3]),
      (.replanNow path, 0x9001, 2, [1]), (.extendCustomerSlot path v, 0x7010, 2, v), (.restoreDefaults path, 0x1001, 4, [1]),
      (.warmResetCommand path n, 0xA000, 1, natLE 1 n), (.updateVerify path, 0xA001, 2, [1]), (.updateActivate path, 0xA001, 2, [2]),
      (.updateConfirm path, 0xA001, 2, [3]), (.updateCancel path, 0xA001, 2, [4])] ++
      (if credLevel v = 1 then [(Instr.lifecycleProvision path v, 0x7000, 2, v)] else if credLevel v = 2 then [(.fieldLock path v, 0x7000, 2, v)]
       else if credLevel v = 3 then [(.decommission path v, 0x7000, 2, v)] else []),
      (s.writeCode path false x.2.1 x.2.2.1 ≠ 0 → exec x.1 s =
        .next (s.answer path 0 2 x.2.1 x.2.2.1 (s.writeCode path false x.2.1 x.2.2.1) 0 (s.tagOf x.2.1 x.2.2.1) false false [])) ∧
      (∀ e, s.writeCode path false x.2.1 x.2.2.1 = 0 → s.sessions.any (fun y => y.index == x.2.1 && y.sub == x.2.2.1) = false →
        rowOf x.2.1 x.2.2.1 = some e → typeOk e x.2.2.2 = true → rangeOk e x.2.2.1 x.2.2.2 = true →
        exec x.1 s = .next (State.act (s.answer path 0 2 x.2.1 x.2.2.1 0 0 (s.tagOf x.2.1 x.2.2.1) false false []) path x.2.1 x.2.2.1 x.2.2.2
          (match x.1 with
           | .adopt _ _ f => f
           | _ => noView)))) ∧
  (∀ (s : State) (path : DapPath) (off : Nat) (data : List Byte), s.dapServed path = true → s.writeCode path false 0xA001 1 = 0 →
    (s.segmentCode off data.length ≠ 0 → exec (.imageDownloadSegment path off data false true) s =
      .next (s.answer path 0 2 0xA001 1 (s.segmentCode off data.length) off (s.tagOf 0xA001 1) false false [])) ∧
    (s.segmentCode off data.length = 0 → s.dnum 0xA001 3 = 1 → off ≠ 0 →
      let t := { s with
        boot := { s.boot with
          nor := Sparse.blit zeroByte s.boot.nor (slotBase s.targetSlot + off) data
          good := putBits s.boot.good s.targetSlot s.targetSlot 0
          loaded := off + data.length }
        sessions := s.sessions.filter (fun x => !(x.index == 0xA001 && x.sub == 1)) ++ [⟨path, 0xA001, 1, [], s.mclk⟩] }
      exec (.imageDownloadSegment path off data false true) s = .next (State.answer t path 0 2 0xA001 1 0 off (s.tagOf 0xA001 1) false false []))) ∧
  (∀ (s : State) (path : DapPath) (v : List Byte), s.dapServed path = true → s.writeCode path false 0xA002 1 = 0 → v.length ≤ 4096 →
    (boardItems v).isSome = true → s.sessions.any (fun y => y.index == 0xA002 && y.sub == 1) = false →
    exec (.boardRecordWrite path v) s = .next (State.answer { s with boot := { s.boot with
      nor := Sparse.blit zeroByte (Sparse.blit zeroByte s.boot.nor 0 (padTo 4096 v)) 0x4000000 (padTo 4096 v) } }
      path 0 2 0xA002 1 0 0 (s.tagOf 0xA002 1) false false [])) ∧
  (∀ (s : State) (path : DapPath) (n : Nat), n < 65536 →
    let act := fun (i sub : Nat) (v : List Byte) => s.act path i sub v noView
    (s.anyTesting = false → s.unitExists n = true → n ≠ 0xFFFF → act 0x8012 5 (natLE 2 n) = (s.setArc n (s.arcValid n) true).setN 0x8012 5 1) ∧
    (s.anyTesting = false → s.unitExists n = false → n ≠ 0xFFFF → act 0x8012 5 (natLE 2 n) = s.setN 0x8012 5 3) ∧
    (s.radix.any (fun x => x.pfx == n) = true → act 0x6091 2 (natLE 2 n) =
      State.setN { s with radix := s.radix.map (fun x => if x.pfx = n then { x with pfx := 0 } else x) } 0x6091 2 0) ∧
    (s.radix.any (fun x => x.pfx == n) = false → act 0x6091 2 (natLE 2 n) = s.setN 0x6091 2 1) ∧
    act 0x6090 3 (natLE 2 n) = State.setN { s with saltDue := s.saltDue.filter (fun x => x != n) ++ [n] } 0x6090 3 0 ∧
    (∀ p, path = .mgmt p → (s.dnum 0x2002 4 = 255 ∨ s.dnum 0x2002 4 = p → act 0x2002 1 (natLE 2 n) =
        ((State.setN { s with power := { s.power with lease := some (n, s.mclk) } } 0x2002 1 0).recap)) ∧
      (s.dnum 0x2002 4 ≠ 255 → s.dnum 0x2002 4 ≠ p → act 0x2002 1 (natLE 2 n) = s.setN 0x2002 1 1)) ∧
    (s.power.sleep = 0 → s.power.entering = none → act 0x2001 1 [0] = s.setN 0x2001 1 0) ∧
    (s.power.sleep = 0 → s.power.exiting = false → s.mayEnter 1 = true →
      act 0x2001 1 [1] = State.setN { s with power := { s.power with entering := some 1 } } 0x2001 1 1) ∧
    (∀ k ∈ [2, 3], s.power.sleep = 0 → s.power.exiting = false → s.mayEnter k = true →
      (s.securityBars = true → act 0x2001 1 (natLE 1 k) = s.setN 0x2001 1 3) ∧
      (s.securityBars = false → act 0x2001 1 (natLE 1 k) = State.setN { s with power := { s.power with entering := some k } } 0x2001 1 1)) ∧
    act 0x9001 2 [1] = State.setN { s with power := { s.power with replan := true } } 0x9001 2 1 ∧
    act 0x8024 2 [2] = ((s.zeroMem (dumpBase + dumpSize - 64) 64).dumpChanged).setN 0x8024 2 0 ∧
    (s.idValid = true → act 0x1001 4 [1] = s.setN 0x1001 4 2) ∧
    (s.resettable = true → (act 0xA000 1 [1]).gf R.bootStat_CAUSE 0 = 2 ∧ ((act 0xA000 1 [1]).boot.phase = 3 ∨ (act 0xA000 1 [1]).boot.phase = 5)) ∧
    (s.dnum 0xA001 3 = 0 ∨ s.dnum 0xA001 3 = 2 → act 0xA001 2 [1] = State.setN { s with boot := { s.boot with verifying := true } } 0xA001 2 1) ∧
    (s.dnum 0xA001 3 ≠ 3 → act 0xA001 2 [2] = (s.setN 0xA001 4 2).setN 0xA001 2 2) ∧
    (s.dnum 0xA001 3 = 3 → s.idValid = true → act 0xA001 2 [2] = (s.setN 0xA001 4 9).setN 0xA001 2 2) ∧
    (s.dnum 0xA001 3 ≠ 4 → act 0xA001 2 [3] = (s.setN 0xA001 4 2).setN 0xA001 2 2) ∧
    (s.dnum 0xA001 3 = 4 → let t := s.boot.recd.tslot
      (act 0xA001 2 [3]).boot.recd.active = t ∧ (act 0xA001 2 [3]).boot.recd.trial = 0 ∧
      (act 0xA001 2 [3]).boot.fuses = max s.boot.fuses (min 64 (s.slotSvn t))) ∧
    (s.dnum 0xA001 3 = 3 → act 0xA001 2 [4] = ((s.setN 0xA001 4 0).setN 0xA001 2 0).setUpd 0 s.targetSlot)) ∧
  (∀ (s : State) (path : DapPath) (v : List Byte),
    (s.act path 0x7000 2 v noView).sec.life = (if (s.lifeCode v).1 = 0 then credLevel v else s.sec.life) ∧
    s.act path 0x7010 2 v noView = (s.extend (octs v 0 1) ((v.drop 1).take 48)).setN 0x7010 2 0 ∧
    (epochNewer (octNum v 2 2) s.epoch = false → s.act path 0x8020 1 v noView = s.setN 0x8020 1 2) ∧
    (v.length = 24 → epochNewer (octNum v 2 2) s.epoch = true → octNum v 22 2 = 0 →
      (s.act path 0x8020 1 v noView).tearAt = some s.time ∧ (s.act path 0x8020 1 v noView).epoch = octNum v 2 2) ∧
    (∀ w, s.asleep = false →
      (bit w 63 = false → w < 2 ^ 64 → s.act path 0x4000 1 (natLE 8 w) noView =
        ((((s.sf R.identPkgid_PKG_ID 0 (bits w 14 0)).sf R.identPkgid_VALID 0 1).setN 0x4000 2 (bits w 47 32)).setN 0x4000 1 0).helloAll) ∧
      (bit w 63 = true → w < 2 ^ 64 → s.act path 0x4000 1 (natLE 8 w) noView = (s.unclaim.setN 0x4000 1 0).helloAll ∧
        (s.ops = [] → s.unclaim = s.sf R.identPkgid_VALID 0 0))))

/-- R399 to R405, R1: subscribing and its end, acknowledgement, retransmission, watches; the mailbox; MCTP control; the
fabric inbox; the load of a program image.
Where it rests on the model's choice: log entries 66, 75, 77 and 84. -/
def Obligations.SubscriptionsAndMailbox : Prop :=
  (∀ (s : State) (q : DapReq) (n : Nat), q.path = .mgmt n → s.dapServed q.path = true → s.answers = [] →
    (s.subscribeCode q ≠ 0 → exec (.subscribe q) s = .next (s.reply q 5 (s.subscribeCode q) 0 false false [])) ∧
    (s.subscribeCode q = 0 → q.payload.length = 4 → (∀ u ∈ s.subs, u.path ≠ q.path) → exec (.subscribe q) s =
      .next (State.reply { s with subs := s.subs ++ [⟨q.path, octs q.payload 0 4, [], 0, [], false⟩] } q 5 0 0 false false [])) ∧
    (q.bad = false → q.len ≤ 1024 → q.index = 0 → q.sub = 0 → q.bcast = false → exec (.unsubscribe q) s =
      .next (State.reply { s with subs := s.subs.filter (fun u => decide (u.path ≠ q.path)) } q 6 0 0 false false []))) ∧
  (∀ (s : State) (n : Nat) (u : Subscriber), s.dapServed (.mgmt n) = true → s.subs = [u] → u.path = .mgmt n →
    (∀ seq, let r := sendQueue (u.queue.filter (fun e => !(e.sent && e.seq == seq))) 4
      exec (.eventAck (.mgmt n) seq) s = .next { s with
        subs := [{ u with queue := r.1 }], out := s.out ++ r.2.map (fun e => Output.event (.mgmt n) e) }) ∧
    (let again := u.queue.filter (fun e => e.sent && decide (e.tries < 5))
     let lost := u.queue.filter (fun e => e.sent && decide (5 ≤ e.tries))
     let r := sendQueue ((u.queue.filter (fun e => !(e.sent && decide (5 ≤ e.tries)))).map (fun e => if e.sent then { e with tries := e.tries + 1 } else e)) 4
     let t := (s.emits (again.map (fun e => Output.event (.mgmt n) e))).bumpBy 0x8050 3 lost.length
     exec (.eventRetransmit (.mgmt n)) s = .next { t with
       subs := [{ u with queue := r.1 }], out := t.out ++ r.2.map (fun e => Output.event (.mgmt n) e) }) ∧
    (bit u.mask 7 = false → exec .watchSample s = .next s) ∧
    (∀ i sub old e, bit u.mask 7 = true → u.watches = [(i, sub, old)] → u.queue = [] → rowOf i sub = some e → e.cls ≠ .wo →
      let t := s.refresh i sub
      let v := (t.segment e sub 0 28).1
      let ev : Ev := ⟨u.next, 7, s.time, padTo 32 (natLE 2 i ++ natLE 1 sub ++ natLE 1 v.length ++ v), u.lost, 0, true⟩
      (t.tagOf i sub = old → exec .watchSample s = .next t) ∧
      (t.tagOf i sub ≠ old → exec .watchSample s = .next { t with
        subs := [{ u with watches := [(i, sub, t.tagOf i sub)], next := u.next + 1, queue := [ev], lost := false }]
        out := t.out ++ [.event (.mgmt n) ev] }))) ∧
  (∀ (s : State) (fn : Nat), exec (.eventRetransmit (.mailbox fn)) s = .next s) ∧
  (∀ (s : State) (r : Requester) (len : Nat), s.serves r .dictCmd (reqFn r) →
    let fn := reqFn r
    let b := ((List.range 262).flatMap (fun k => natLE 4 (s.rd .dictReq (fn * 262 + k)).toNat)).take len
    let u := (s.cmdDone .dictCmd fn 1 0).sf R.dictStat_READY fn 0
    (len < 24 ∨ 1048 < len → exec (.dictSend r len) s = .next (s.cmdDone .dictCmd fn 1 2)) ∧
    (24 ≤ len → len ≤ 1048 → s.gf R.dictCmd_STATUS fn ≠ 1 →
      (octs b 1 1 / 16 = 0 → exec (.dictSend r len) s = .next (u.dapService (dapOfBytes (.mailbox fn) b) (octs b 6 1))) ∧
      (octs b 1 1 / 16 = 3 → exec (.dictSend r len) s = .next (u.eventAck (.mailbox fn) (octs b 12 4))) ∧
      (octs b 1 1 / 16 ≠ 0 → octs b 1 1 / 16 ≠ 3 → exec (.dictSend r len) s = .next u))) ∧
  (∀ (s : State) (pcie : Bool), s.mctpServed pcie = true →
    let reply := fun (t : State) (cmd code : Nat) (d : List Byte) => t.emit (.mctp pcie (natLE 1 0 ++ natLE 1 0 ++ natLE 1 cmd ++ natLE 1 code ++ d))
    let eid := if pcie then s.dnum 0x4012 2 else s.dnum 0x4012 1
    (∀ e, (e < 8 ∨ 255 ≤ e) → exec (.setEndpointId pcie e) s = .next (reply s 1 2 [])) ∧
    (∀ e, 8 ≤ e → e < 255 → exec (.setEndpointId pcie e) s = .next (if pcie = true then reply (s.setN 0x4012 2 e) 1 0 (natLE 1 0 ++ natLE 1 e ++ zeros 1)
      else reply s 1 0 (natLE 1 0x10 ++ natLE 1 eid ++ zeros 1))) ∧
    exec (.getEndpointId pcie) s = .next (reply s 2 0 (natLE 1 eid ++ zeros 2)) ∧
    (∀ k, k = 0 ∨ k = 0xFF → exec (.getMctpVersionSupport pcie k) s = .next (reply s 4 0 (natLE 1 1 ++ [0xF1, 0xF3, 0xF0, 0]))) ∧
    (∀ k, k = 5 ∨ k = 0x7F → exec (.getMctpVersionSupport pcie k) s = .next (reply { s with freeCtr := s.freeCtr + 1 } 4 0 (natLE 1 1 ++ freeBytes s.freeCtr 4))) ∧
    (∀ k, k ≠ 0 → k ≠ 0xFF → k ≠ 5 → k ≠ 0x7F → exec (.getMctpVersionSupport pcie k) s = .next (reply s 4 0x80 [])) ∧
    exec (.getMessageTypeSupport pcie) s = .next (reply s 5 0 (natLE 1 2 ++ [0x05, 0x7F])) ∧
    exec (.getVendorDefinedMessageSupport pcie 0) s = .next (reply s 6 0 (natLE 1 0xFF ++ natLE 1 1 ++ natBE 4 (s.dnum 0x1001 2) ++ zeros 2)) ∧
    (∀ k, k ≠ 0 → exec (.getVendorDefinedMessageSupport pcie k) s = .next (reply s 6 2 []))) ∧
  (∀ (s : State) (slot : Nat), slot < 16 → s.ready = true →
    let a := s.inboxBase + slot * 4096
    let seq := leNat (s.readMem a 8)
    let body := s.readMem (a + 32) (min 4064 (leNat (s.readMem (a + 24) 2)))
    let t : State := { s with inbox := Sparse.put (fun _ => 0) s.inbox slot seq }
    (seq = Sparse.get (fun _ => 0) s.inbox slot → exec (.inboxSlotTake slot) s = .next s) ∧
    (seq ≠ Sparse.get (fun _ => 0) s.inbox slot → body.headD 0 ≠ 0x05 → exec (.inboxSlotTake slot) s = .next (t.bump 0x8050 6)) ∧
    (seq ≠ Sparse.get (fun _ => 0) s.inbox slot → body.headD 0 = 0x05 →
      exec (.inboxSlotTake slot) s = .next (t.spdm (.inbox slot) (body.drop 1)))) ∧
  (∀ (s : State) (fs : List (Nat × Nat)), (fs.all s.hasFeature = true → exec (.programImageLoad fs) s = .next s) ∧
    (∀ f rest, fs = f :: rest → s.hasFeature f = false → exec (.programImageLoad fs) s = .next (s.report (source 0xA 0) (unstatedCode 3) 1 none f.1)))

/-! ### Register accesses -/

/-- R21 to R28: accepted shapes, registers the requester may not reach, masks of reads, command registers, atomic pairs
and their shadows, accesses of one or two bytes of a pair, the link off.
Where it rests on the model's choice: log entry 73. -/
def Obligations.RegisterAccess : Prop :=
  (∀ (s : State) (r : Requester) (a len be : Nat) (val : DWord) (v : Word) (w : Bool), s.busOff r = true →
    ∀ i ∈ [Instr.registerWrite r a len be val, .rcRead r a len be, .pairLowRead r a, .pairHighRead r a, .pairLowWrite r a v, .pairHighWrite r a v,
      .pairNarrowAccess r a be w v], exec i s = .next s) ∧
  (∀ (s : State) (r : Requester) (a len be : Nat) (val : DWord), s.busOff r = false → shapeOk a len be = false →
    exec (.registerWrite r a len be val) s = .next (s.rejectAccess r a true) ∧ exec (.rcRead r a len be) s = .next (s.rejectAccess r a false)) ∧
  (∀ (s : State) (r : Requester) (a : Nat), (s.rejectAccess r a true).memories = s.memories ∧ (s.rejectAccess r a true).facets = s.facets ∧
    (s.rejectAccess r a true).out.getLast? = some (.rejected r a true)) ∧
  (∀ (s : State) (r : Requester) (a be : Nat) (val : DWord) (c : Card) (i : Nat), s.busOff r = false → a % 4 = 0 → be < 16 →
    s.locate r a = some (c, i) → pairOf c = none →
    (s.mayReach r c i true = false → exec (.registerWrite r a 4 be val) s = .next (s.rejectAccess r a true)) ∧
    (s.mayReach r c i false = false → exec (.rcRead r a 4 be) s = .next (s.rejectAccess r a false)) ∧
    (s.mayReach r c i true = true → (cardInfo c).w32 = true → be ≠ 15 → exec (.registerWrite r a 4 be val) s = .next (s.rejectAccess r a true)) ∧
    (s.mayReach r c i false = true → s.ready = true →
      let t := if accMask (cardInfo c).fields [.rc] = 0 then s else s.wr c i (afterRead (cardInfo c).fields (s.rd c i) (byteMask be))
      exec (.rcRead r a 4 be) s = .next (t.emit (.readData r a 4 (s.shown r c i &&& byteMask be).toNat))) ∧
    (s.mayReach r c i true = true → s.ready = true →
      let v : Word := val.truncate 32
      let code := bits v.toNat 31 28
      (c ∈ [.fctErr, .fctXcfg, .fctImemLen, .fctAstat, .dictReq, .sbStat] → exec (.registerWrite r a 4 be val) s = .next (s.wr c i (mergeWrite (cardInfo c).fields (s.rd c i) (byteMask be) v))) ∧
      (be = 15 → ∀ q ∈ [(Card.fctCmd, 1, Instr.fctStart r i (bits v.toNat 12 0)), (.fctCmd, 2, .fctHalt r i), (.fctCmd, 3, .clrsb r i),
          (.fctCmd, 4, .imemLoad r i (bits v.toNat 12 0)),
          (.drpCmd, 1, .drpStart r i), (.drpCmd, 2, .drpStop r i), (.drpCmd, 3, .drpAbort r i),
          (.drpCmd, 4, .drpZero r i), (.kvPgcmd, 1, .kvFree r), (.kvPgcmd, 2, .kvFreeBelow r), (.partCmd, 1, .form r i), (.partCmd, 3, .preempt r i),
          (.partCmd, 4, .partResume r i), (.fmfCqCmd, 1, .cqStart r i), (.dbgCmd, 1, .dbgNonce r), (.dbgCmd, 2, .dbgOpen r), (.dbgCmd, 3, .dbgClose r),
          (.apxCmd, 1, .apxSend r (bits v.toNat 12 0)), (.dictCmd, 1, .dictSend r (bits v.toNat 10 0)), (.regoCmd, 1, .retry r (bits v.toNat 5 0))],
        c = q.1 → code = q.2.1 → exec (.registerWrite r a 4 be val) s = exec q.2.2 s))) ∧
  (∀ (s : State) (r : Requester) (a : Nat) (lo hi c : Card) (i : Nat) (v : Word), s.busOff r = false → a % 4 = 0 →
    (s.pairAt r a true = some (lo, hi, c, i) →
      (c = lo → exec (.pairLowWrite r a v) s = .next { s with
        shadows := (s.unshadow r lo i).shadows ++ [⟨r, lo, i, true, 15, v⟩] }) ∧
      (∀ x, c ≠ lo → s.shadowOf r lo i = some x → x.write = true → exec (.pairHighWrite r a v) s =
        .next ((s.unshadow r lo i).pairCommit r lo hi i x.be x.val 15 v)) ∧
      (∀ be, 0 < be → be < 16 → shapeOk (narrowAt a be).1 (narrowAt a be).2 be = true → exec (.pairNarrowAccess r a be true v) s =
        .next ((s.unshadow r lo i).write32 r a (lanes (narrowAt a be).1 (narrowAt a be).2 be) v))) ∧
    (s.pairAt r a false = some (lo, hi, c, i) → s.ready = true →
      (c = lo → accMask (cardInfo c).fields [.rc] = 0 → exec (.pairLowRead r a) s = .next { s with
        shadows := (s.unshadow r lo i).shadows ++ [⟨r, lo, i, false, 15, s.shown r hi i⟩]
        out := s.out ++ [.readData r a 4 (s.shown r lo i &&& byteMask 15).toNat] }) ∧
      (∀ x, c ≠ lo → s.shadowOf r lo i = some x → x.write = false → exec (.pairHighRead r a) s =
        .next ((s.unshadow r lo i).emit (.readData r a 4 (x.val &&& byteMask 15).toNat)))))

/-! ### Errors and the gates of registers -/

/-- R21, R22, R416, R419, R3: a command or register that a requester may not reach is refused with a report and without effect;
with the device in cold reset, the link off, READY 0, or no such Facet, engine or instance, it has none at all.
Where it rests on the model's choice: log entry 73. -/
def Obligations.RegisterGates : Prop :=
  ∀ (s : State) (r : Requester) (i k be : Nat) (val : Word),
    ∀ q ∈ [(Instr.fctStart r i k, Card.fctCmd, i), (.fctHalt r i, .fctCmd, i), (.clrsb r i, .fctCmd, i), (.imemLoad r i k, .fctCmd, i),
      (.fctMcfgWrite r i be val, .fctMcfg, i), (.sbCounterWrite r i k be val, .fctSb, i * 64 + k), (.drpStart r i, .drpCmd, i),
      (.drpStop r i, .drpCmd, i), (.drpAbort r i, .drpCmd, i), (.drpZero r i, .drpCmd, i), (.drpCfgWrite r i be val, .drpCfg, i),
      (.kvLayoutWrite r i k be val, .kvLayout, i * 256 + k), (.kvFree r, .kvPgcmd, 0), (.kvFreeBelow r, .kvPgcmd, 0), (.kvQuery r, .kvPgcmd, 0),
      (.trMap r i, .trCmd, i), (.trUnmap r i, .trCmd, i), (.trMigrate r i, .trCmd, i), (.trHint r i, .trCmd, i), (.trQuery r i, .trCmd, i),
      (.pfCtlWrite r i be val, .pfCtl, i), (.blmExpand r, .blmCmd, 0), (.hopFormat r, .hopCmd, 0), (.hopScan r, .hopCmd, 0),
      (.unwrap r, .ldrCmd, 0), (.ldrStart r k, .ldrCmd, 0), (.ldrAbort r k, .ldrCmd, 0), (.drop r i k, .ldrCmd, 0), (.adrop r i k, .ldrCmd, 0),
      (.ldrActivate r i k, .ldrCmd, 0), (.form r i, .partCmd, i), (.dissolve r i, .partCmd, i), (.partReset r i, .partCmd, i),
      (.preempt r i, .partCmd, i), (.partResume r i, .partCmd, i), (.writeRegion r k, .fmfEntCmd, 0), (.readRegion r k, .fmfEntCmd, 0),
      (.writeGrant r k, .fmfEntCmd, 0), (.readGrant r k, .fmfEntCmd, 0), (.writeGroup r k, .fmfEntCmd, 0), (.readGroup r k, .fmfEntCmd, 0),
      (.cqStart r i, .fmfCqCmd, i), (.cqStop r i, .fmfCqCmd, i), (.cqAbort r i, .fmfCqCmd, i), (.dbgNonce r, .dbgCmd, 0), (.dbgOpen r, .dbgCmd, 0),
      (.dbgClose r, .dbgCmd, 0), (.setpw r, .dbgCmd, 0), (.apxSend r k, .apxCmd, reqFn r), (.dictSend r k, .dictCmd, reqFn r),
      (.errlogRdWrite r be val, .errlogPtr, reqFn r), (.sbCfgWrite r (2 + i % 8) be val, .sbCfg, 2 + i % 8), (.retry r k, .regoCmd, 0)],
      (s.boot.phase = 0 ∨ (s.linkOff = true ∧ r ≠ .mc) ∨ s.exists_ q.2.1 q.2.2 = false → exec q.1 s = .next s) ∧
      (s.boot.phase ≠ 0 → (s.linkOff = false ∨ r = .mc) → s.exists_ q.2.1 q.2.2 = true → s.mayReach r q.2.1 q.2.2 true = false →
        exec q.1 s = .next (s.rejectAccess r (s.cardAddr q.2.1 q.2.2) true)) ∧
      (s.boot.phase ≠ 0 → s.mayReach r q.2.1 q.2.2 true = true → s.ready = false → earlyCard q.2.1 = false → exec q.1 s = .next s)

/-- R312, R314 to R316: a report with no entry of its source to coalesce into is a new entry at WR while the ring and the
budget allow it, and is counted where they do not; a repeated one coalesces; a fatal one always has its entry. -/
def Obligations.ErrorReports : Prop :=
  ∀ (s : State) (src code cls : Nat) (part : Option Nat) (detail : Nat),
    let t := s.report src code cls part detail
    let w := s.gf R.errlogPtr_WR 0
    ((∀ x ∈ s.errlog, x.2.source ≠ src) →
      (cls ≠ 2 → s.spentOf src < s.dnum 0x8023 3 → s.logUsed < 1024 →
        t.logAt (w % 1024) = ⟨s.time, s.time, w, 1, true, part.isSome, part.getD 0, cls, code, src, detail⟩ ∧
        (∀ j, j ≠ w % 1024 → t.logAt j = s.logAt j) ∧ t.gf R.errlogPtr_WR 0 = (w + 1) % 65536 ∧ t.spentOf src = s.spentOf src + 1 ∧
        (∀ j, j ≠ src → t.spentOf j = s.spentOf j) ∧ (s.gf R.errlogCfg_IE 0 = 1 → Output.msix 0 1 ∈ t.out) ∧
        s.regsKept t [.errlogPtr, .dictStat] ∧ t.memories = s.memories ∧ t.facets = s.facets) ∧
      (cls ≠ 2 → s.dnum 0x8023 3 ≤ s.spentOf src → t = s.setPair .errlogOvfRateLo .errlogOvfRateHi 0
        (s.pair .errlogOvfRateLo .errlogOvfRateHi 0 + 1)) ∧
      (cls ≠ 2 → s.spentOf src < s.dnum 0x8023 3 → 1024 ≤ s.logUsed → t = s.setPair .errlogOvfFullLo .errlogOvfFullHi 0
        (s.pair .errlogOvfFullLo .errlogOvfFullHi 0 + 1)) ∧
      (cls = 2 → t.logAt (w % 1024) = ⟨s.time, s.time, w, 1, true, part.isSome, part.getD 0, 2, code, src, detail⟩ ∧
        t.gf R.errlogPtr_WR 0 = (w + 1) % 65536 ∧ (1024 ≤ s.logUsed → t.gf R.errlogPtr_RD 0 = (s.gf R.errlogPtr_RD 0 + 1) % 65536) ∧
        t.spent = s.spent ∧ t.memories = s.memories ∧ t.facets = s.facets)) ∧
    (∀ i e, s.errlog = [(i, e)] → e.valid = true → e.source = src → e.code = code → e.cls = cls → cls ≠ 2 → e.partv = part.isSome →
      e.part = part.getD 0 → e.detail = detail → s.logAge e < s.logUsed →
      (s.time ≤ e.last + s.dnum 0x8023 1 * 1000000 → t = State.bump { s with
        errlog := Sparse.put (fun _ => LogEntry.blank) s.errlog i { e with count := min 65535 (e.count + 1), last := s.time } } 0x8025 2) ∧
      (e.last + s.dnum 0x8023 1 * 1000000 < s.time → s.spentOf src < s.dnum 0x8023 3 → s.logUsed < 1024 →
        (t.logAt (w % 1024)).count = 1 ∧ t.gf R.errlogPtr_WR 0 = (w + 1) % 65536))

/-! ### The block as a whole -/

/-- What reset leaves (spec/18 R408, R416; the Reset columns of the cards): no command waits, every register reads its card's
reset value, READY is 0, and every memory, ring, ticket, partition and adapter is empty.
Where it rests on the model's choice: log entries 3, 4, 5 and 6. -/
def Obligations.ResetState : Prop :=
  State.reset.Inv ∧ State.reset.pending = [] ∧ (∀ c i, i < 1048576 → State.reset.rd c i = cardReset c) ∧ State.reset.ready = false ∧
    State.reset.memories = ⟨[], [], [], [], [], [], [], [], []⟩ ∧ (∀ f, State.reset.facet f = Facet.blank) ∧
    (∀ n, State.reset.ring n = Ring.blank) ∧ (∀ k, State.reset.ticket k = Ticket.blank) ∧ (∀ p, State.reset.pstate p = 0) ∧
    State.reset.sec.level = 0 ∧ State.reset.errlog = [] ∧ (∀ i sub, State.reset.dval i sub = dictDefault (dkey i sub))

/-- The step takes the command at the front of the queue and answers what it does to the rest; on an empty queue a nanosecond
passes (the model's choice, log entry 14). Every command answers a next state in every state: none faults, none is refused. -/
def Obligations.StepRunsFrontCommand : Prop :=
  (∀ (s : State) (c : Instr) (rest : List Instr), step { s with pending := c :: rest } = exec c { s with pending := rest }) ∧
  (∀ s : State, s.pending = [] → step s = .next s.tick) ∧
  (∀ (c : Instr) (s : State), ∃ t, exec c s = .next t) ∧
  (∀ s : State, s.goesOn)

/-- The memories keep their canonical form at every step, from every state that has it: addresses strictly rising, no byte
listed that reads as an unlisted one does. -/
def Obligations.MemoriesStayCanonical : Prop :=
  ∀ s t : State, s.Inv → step s = .next t → t.Inv
end

