-- ==== Sys2Proof/Laws/Sparse.lean ====
section
/-! SUPPORT. The laws of sparse tables: a read after a write, the canonical form, and equality of tables that read alike. -/

namespace Sys2Proof.Machine.Sparse

variable {α : Type}

/-! ### Reads -/

theorem get_append (d : Nat → α) (m n : List (Nat × α)) (k : Nat) :
    get d (m ++ n) k = if k ∈ m.map Prod.fst then get d m k else get d n k := by
  induction m with
  | nil => simp
  | cons x t ih =>
    obtain ⟨a, v⟩ := x
    by_cases h : k = a
    · simp [get, h]
    · simp only [List.cons_append, get, h, if_false, ih, List.map_cons, List.mem_cons, false_or]

theorem get_of_not_mem (d : Nat → α) (m : List (Nat × α)) (k : Nat) (h : k ∉ m.map Prod.fst) : get d m k = d k := by
  induction m with
  | nil => rfl
  | cons x t ih =>
    obtain ⟨a, v⟩ := x
    simp only [List.map_cons, List.mem_cons, not_or] at h
    simp [get, h.1, ih h.2]

theorem get_filter (d : Nat → α) (p : Nat → Bool) (m : List (Nat × α)) (k : Nat) :
    get d (m.filter (fun x => p x.1)) k = if p k then get d m k else d k := by
  induction m with
  | nil => simp [get]
  | cons x t ih =>
    obtain ⟨a, v⟩ := x
    by_cases hp : p a <;> by_cases hk : k = a
    · subst hk; simp [get, hp]
    · simp [get, hp, hk, ih]
    · subst hk; simp [hp, ih]
    · simp [get, hp, hk, ih]

theorem get_drop (d : Nat → α) (p : Nat → Bool) (m : List (Nat × α)) (k : Nat) :
    get d (drop p m) k = if p k then d k else get d m k := by
  have h := get_filter d (fun a => !p a) m k
  unfold drop
  rw [h]
  by_cases hp : p k <;> simp [hp]

theorem get_erase (d : Nat → α) (m : List (Nat × α)) (a n k : Nat) :
    get d (erase m a n) k = if a ≤ k ∧ k < a + n then d k else get d m k := by
  unfold erase
  rw [get_drop]
  by_cases h : a ≤ k ∧ k < a + n <;> simp_all

variable [DecidableEq α]

theorem get_listing (d : Nat → α) (a : Nat) (vs : List α) (k : Nat) :
    get d (listing d a vs) k = if a ≤ k then (vs[k - a]?).getD (d k) else d k := by
  induction vs generalizing a with
  | nil => simp [listing, get]
  | cons v t ih =>
    by_cases h2 : k = a
    · subst h2
      by_cases hv : v = d k
      · have h1 : ¬ k + 1 ≤ k := by omega
        simp only [listing, hv, if_true, ih, h1, if_false]; simp
      · simp [listing, hv, get]
    · have step : get d (listing d a (v :: t)) k = get d (listing d (a + 1) t) k := by
        by_cases hv : v = d a <;> simp [listing, hv, get, h2]
      rw [step, ih]
      by_cases h1 : a + 1 ≤ k
      · have e : k - a = (k - (a + 1)) + 1 := by omega
        rw [if_pos h1, if_pos (by omega), e, List.getElem?_cons_succ]
      · rw [if_neg h1, if_neg (by omega)]

theorem listing_keys (d : Nat → α) (a : Nat) (vs : List α) (x : Nat × α) (h : x ∈ listing d a vs) :
    a ≤ x.1 ∧ x.1 < a + vs.length := by
  induction vs generalizing a with
  | nil => simp [listing] at h
  | cons v t ih =>
    simp only [listing] at h
    split at h
    · have := ih (a + 1) h; simp only [List.length_cons]; omega
    · rcases List.mem_cons.mp h with rfl | h
      · simp
      · have := ih (a + 1) h; simp only [List.length_cons]; omega

/-- What a table holds after consecutive keys have been written. -/
theorem get_blit (d : Nat → α) (m : List (Nat × α)) (a : Nat) (vs : List α) (k : Nat) :
    get d (blit d m a vs) k = if a ≤ k ∧ k - a < vs.length then vs.getD (k - a) (d k) else get d m k := by
  have hlo := get_filter d (fun b => decide (b < a)) m k
  have hhi := get_filter d (fun b => decide (a + vs.length ≤ b)) m k
  have mlo : k ∈ (m.filter (fun x => decide (x.1 < a))).map Prod.fst → k < a := by
    intro h
    obtain ⟨x, hx, rfl⟩ := List.mem_map.mp h
    simpa using (List.mem_filter.mp hx).2
  have mli : k ∈ (listing d a vs).map Prod.fst → a ≤ k ∧ k < a + vs.length := by
    intro h
    obtain ⟨x, hx, rfl⟩ := List.mem_map.mp h
    exact listing_keys d a vs x hx
  unfold blit
  rw [List.append_assoc, get_append]
  by_cases h1 : k < a
  · rw [if_neg (show ¬ (a ≤ k ∧ k - a < vs.length) by omega)]
    simp only [h1, decide_true, if_true] at hlo
    by_cases hm : k ∈ (m.filter (fun x => decide (x.1 < a))).map Prod.fst
    · rw [if_pos hm, hlo]
    · have h3 := get_of_not_mem d _ k hm
      rw [if_neg hm, get_append, if_neg (fun h => absurd (mli h).1 (by omega)), hhi, if_neg (by simp; omega), ← h3, hlo]
  · rw [if_neg (fun h => h1 (mlo h)), get_append]
    by_cases h2 : k < a + vs.length
    · rw [if_pos (show a ≤ k ∧ k - a < vs.length by omega)]
      have hl := get_listing d a vs k
      rw [if_pos (by omega), ← List.getD_eq_getElem?_getD] at hl
      by_cases hm : k ∈ (listing d a vs).map Prod.fst
      · rw [if_pos hm, hl]
      · rw [if_neg hm, hhi, if_neg (by simp; omega), ← hl, get_of_not_mem d _ k hm]
    · rw [if_neg (show ¬ (a ≤ k ∧ k - a < vs.length) by omega), if_neg (fun h => h2 (mli h).2), hhi, if_pos (by simp; omega)]

@[simp] theorem get_put_same (d : Nat → α) (m : List (Nat × α)) (k : Nat) (v : α) : get d (put d m k v) k = v := by
  simp [put, get_blit]

theorem get_put_other (d : Nat → α) (m : List (Nat × α)) (k j : Nat) (v : α) (h : j ≠ k) : get d (put d m k v) j = get d m j := by
  unfold put
  rw [get_blit, if_neg (by simp only [List.length_singleton]; omega)]

theorem get_put (d : Nat → α) (m : List (Nat × α)) (k j : Nat) (v : α) : get d (put d m k v) j = if j = k then v else get d m j := by
  by_cases h : j = k
  · subst h; simp
  · rw [get_put_other _ _ _ _ _ h, if_neg h]

omit [DecidableEq α] in
theorem gets_eq_map (d : Nat → α) (m : List (Nat × α)) (a n : Nat) :
    gets d m a n = (List.range n).map (fun i => get d m (a + i)) := by
  induction n generalizing a with
  | zero => rfl
  | succ n ih =>
    rw [gets, ih, List.range_succ_eq_map, List.map_cons, List.map_map, Nat.add_zero]
    congr 1
    apply List.map_congr_left
    intro i _
    simp [Nat.add_assoc, Nat.add_comm 1]

omit [DecidableEq α] in
@[simp] theorem gets_length (d : Nat → α) (m : List (Nat × α)) (a n : Nat) : (gets d m a n).length = n := by
  rw [gets_eq_map]; simp

/-- Reading back what has just been written. -/
theorem gets_blit (d : Nat → α) (m : List (Nat × α)) (a : Nat) (vs : List α) : gets d (blit d m a vs) a vs.length = vs := by
  rw [gets_eq_map]
  apply List.ext_getElem
  · simp
  · intro i h1 h2
    simp only [List.getElem_map, List.getElem_range]
    rw [get_blit, if_pos ⟨by omega, by omega⟩, Nat.add_sub_cancel_left, List.getD_eq_getElem?_getD, List.getElem?_eq_getElem h2]
    rfl

theorem gets_blit_other (d : Nat → α) (m : List (Nat × α)) (a : Nat) (vs : List α) (b n : Nat)
    (h : b + n ≤ a ∨ a + vs.length ≤ b) : gets d (blit d m a vs) b n = gets d m b n := by
  rw [gets_eq_map, gets_eq_map]
  apply List.map_congr_left
  intro i hi
  have hi := List.mem_range.mp hi
  rw [get_blit, if_neg (by omega)]

/-! ### The canonical form -/

/-- The canonical form said of the list as a whole. -/
theorem wf_iff (d : Nat → α) (m : List (Nat × α)) :
    wf d m = true ↔ (m.Pairwise (fun x y => x.1 < y.1)) ∧ ∀ x ∈ m, x.2 ≠ d x.1 := by
  induction m with
  | nil => simp [wf]
  | cons x t ih =>
    obtain ⟨a, v⟩ := x
    cases t with
    | nil => simp [wf]
    | cons y t =>
      obtain ⟨b, w⟩ := y
      simp only [wf, Bool.and_eq_true, decide_eq_true_eq, ih]
      constructor
      · rintro ⟨⟨h1, h2⟩, h3, h4⟩
        refine ⟨List.pairwise_cons.mpr ⟨?_, h3⟩, ?_⟩
        · intro z hz
          rcases List.mem_cons.mp hz with rfl | hz
          · exact h1
          · exact Nat.lt_trans h1 ((List.pairwise_cons.mp h3).1 z hz)
        · intro z hz
          rcases List.mem_cons.mp hz with rfl | hz
          · exact h2
          · exact h4 z hz
      · rintro ⟨h1, h2⟩
        have h1 := List.pairwise_cons.mp h1
        exact ⟨⟨h1.1 (b, w) (by simp), h2 (a, v) (by simp)⟩, h1.2, fun z hz => h2 z (List.mem_cons_of_mem _ hz)⟩

theorem wf_filter (d : Nat → α) (p : Nat × α → Bool) (m : List (Nat × α)) (h : wf d m = true) : wf d (m.filter p) = true := by
  rw [wf_iff] at *
  exact ⟨h.1.filter _, fun x hx => h.2 x (List.mem_filter.mp hx).1⟩

theorem wf_drop (d : Nat → α) (p : Nat → Bool) (m : List (Nat × α)) (h : wf d m = true) : wf d (drop p m) = true :=
  wf_filter d _ m h

theorem wf_erase (d : Nat → α) (m : List (Nat × α)) (a n : Nat) (h : wf d m = true) : wf d (erase m a n) = true :=
  wf_drop d _ m h

theorem wf_listing (d : Nat → α) (a : Nat) (vs : List α) : wf d (listing d a vs) = true := by
  rw [wf_iff]
  induction vs generalizing a with
  | nil => simp [listing]
  | cons v t ih =>
    simp only [listing]
    split
    · exact ih (a + 1)
    · rename_i hv
      refine ⟨List.pairwise_cons.mpr ⟨?_, (ih (a + 1)).1⟩, ?_⟩
      · intro x hx
        have := listing_keys d (a + 1) t x hx
        simp only; omega
      · intro x hx
        rcases List.mem_cons.mp hx with rfl | hx
        · exact hv
        · exact (ih (a + 1)).2 x hx

/-- A write keeps the canonical form. -/
theorem wf_blit (d : Nat → α) (m : List (Nat × α)) (a : Nat) (vs : List α) (h : wf d m = true) : wf d (blit d m a vs) = true := by
  have hl := (wf_iff d _).mp (wf_listing d a vs)
  have h1 := (wf_iff d _).mp (wf_filter d (fun x => decide (x.1 < a)) m h)
  have h2 := (wf_iff d _).mp (wf_filter d (fun x => decide (a + vs.length ≤ x.1)) m h)
  rw [wf_iff]
  unfold blit
  refine ⟨?_, ?_⟩
  · rw [List.append_assoc, List.pairwise_append]
    refine ⟨h1.1, ?_, ?_⟩
    · rw [List.pairwise_append]
      refine ⟨hl.1, h2.1, ?_⟩
      intro x hx y hy
      have e1 := listing_keys d a vs x hx
      have e2 : a + vs.length ≤ y.1 := by simpa using (List.mem_filter.mp hy).2
      omega
    · intro x hx y hy
      have e1 : x.1 < a := by simpa using (List.mem_filter.mp hx).2
      rcases List.mem_append.mp hy with hy | hy
      · have := listing_keys d a vs y hy; omega
      · have e2 : a + vs.length ≤ y.1 := by simpa using (List.mem_filter.mp hy).2
        omega
  · intro x hx
    rcases List.mem_append.mp hx with hx | hx
    · rcases List.mem_append.mp hx with hx | hx
      · exact h1.2 x hx
      · exact hl.2 x hx
    · exact h2.2 x hx

theorem wf_put (d : Nat → α) (m : List (Nat × α)) (k : Nat) (v : α) (h : wf d m = true) : wf d (put d m k v) = true :=
  wf_blit d m k [v] h

omit [DecidableEq α] in
theorem get_mem (d : Nat → α) (m : List (Nat × α)) (hp : m.Pairwise (fun x y => x.1 < y.1)) (x : Nat × α) (hx : x ∈ m) :
    get d m x.1 = x.2 := by
  induction m with
  | nil => simp at hx
  | cons y t ih =>
    obtain ⟨a, v⟩ := y
    have hp' := List.pairwise_cons.mp hp
    rcases List.mem_cons.mp hx with rfl | hx
    · simp [get]
    · have hlt := hp'.1 x hx
      have hne : x.1 ≠ a := by simp only at hlt; omega
      simp [get, hne, ih hp'.2 hx]

/-- Two canonical tables that read alike at every key are the same list. -/
theorem eq_of_get_eq (d : Nat → α) (m n : List (Nat × α)) (hm : wf d m = true) (hn : wf d n = true)
    (h : ∀ k, get d m k = get d n k) : m = n := by
  have key : ∀ (m n : List (Nat × α)), wf d m = true → wf d n = true → (∀ k, get d m k = get d n k) → ∀ x ∈ m, x ∈ n := by
    intro m n hm hn h x hx
    have hm := (wf_iff d m).mp hm
    have e := get_mem d m hm.1 x hx
    refine Classical.byContradiction fun hc => ?_
    have e2 : get d n x.1 = x.2 := (h x.1).symm.trans e
    by_cases hk : x.1 ∈ n.map Prod.fst
    · obtain ⟨y, hy, hxy⟩ := List.mem_map.mp hk
      have e3 := get_mem d n ((wf_iff d n).mp hn).1 y hy
      rw [hxy, e2] at e3
      exact hc (by rw [show x = y from Prod.ext hxy.symm e3]; exact hy)
    · rw [get_of_not_mem d n x.1 hk] at e2
      exact hm.2 x hx e2.symm
  have pm := ((wf_iff d m).mp hm).1
  have pn := ((wf_iff d n).mp hn).1
  apply List.Perm.eq_of_pairwise (le := fun x y => x.1 < y.1) _ pm pn
  · rw [List.perm_ext_iff_of_nodup (pm.imp (fun hlt he => by rw [he] at hlt; exact absurd hlt (Nat.lt_irrefl _)))
      (pn.imp (fun hlt he => by rw [he] at hlt; exact absurd hlt (Nat.lt_irrefl _)))]
    exact fun x => ⟨key m n hm hn h x, key n m hn hm (fun k => (h k).symm) x⟩
  · intro a b _ _ h1 h2
    exact absurd (Nat.lt_trans h1 h2) (Nat.lt_irrefl _)

end Sys2Proof.Machine.Sparse
end

