-- ==== Sys2Proof/Laws/Word.lean ====
section
/-! SUPPORT. The laws of bit fields: reading a field after writing it, or after writing another. -/

namespace Sys2Proof

theorem bits_lt (w hi lo : Nat) : bits w hi lo < 2 ^ (hi + 1 - lo) := Nat.mod_lt _ (Nat.two_pow_pos _)

theorem bits_testBit (w hi lo i : Nat) : (bits w hi lo).testBit i = (decide (i < hi + 1 - lo) && w.testBit (lo + i)) := by
  simp [bits, Nat.testBit_mod_two_pow, Nat.testBit_shiftRight]

/-- Bit by bit, what `putBits` leaves. -/
theorem putBits_testBit (w hi lo v i : Nat) (h : lo ≤ hi + 1) :
    (putBits w hi lo v).testBit i =
      if i < lo then w.testBit i else if i < hi + 1 then v.testBit (i - lo) else w.testBit i := by
  have hs : (2 : Nat) ^ (hi + 1) = 2 ^ lo * 2 ^ (hi + 1 - lo) := by rw [← Nat.pow_add]; congr 1; omega
  have e : putBits w hi lo v = 2 ^ lo * (2 ^ (hi + 1 - lo) * (w >>> (hi + 1)) + v % 2 ^ (hi + 1 - lo)) + w % 2 ^ lo := by
    unfold putBits
    rw [hs, Nat.mul_add, Nat.mul_comm (2 ^ lo) (v % _), Nat.mul_comm (w >>> (hi + 1)), Nat.mul_assoc]
  rw [e, Nat.testBit_two_pow_mul_add _ (Nat.mod_lt _ (Nat.two_pow_pos _)),
    Nat.testBit_two_pow_mul_add _ (Nat.mod_lt _ (Nat.two_pow_pos _))]
  by_cases h1 : i < lo
  · simp [h1, Nat.testBit_mod_two_pow]
  · by_cases h2 : i < hi + 1
    · have h3 : i - lo < hi + 1 - lo := by omega
      simp [h1, h2, h3, Nat.testBit_mod_two_pow]
    · have h3 : ¬ i - lo < hi + 1 - lo := by omega
      have h4 : hi + 1 + (i - lo - (hi + 1 - lo)) = i := by omega
      simp [h1, h2, h3, Nat.testBit_shiftRight, h4]

/-- A field just written reads as what was written, in its width. -/
theorem bits_putBits_same (w hi lo v : Nat) (h : lo ≤ hi + 1) : bits (putBits w hi lo v) hi lo = v % 2 ^ (hi + 1 - lo) := by
  apply Nat.eq_of_testBit_eq
  intro i
  rw [bits_testBit, putBits_testBit _ _ _ _ _ h, Nat.testBit_mod_two_pow]
  by_cases h1 : i < hi + 1 - lo
  · have h2 : ¬ lo + i < lo := by omega
    have h3 : lo + i < hi + 1 := by omega
    simp [h1, h2, h3]
  · simp [h1]

/-- A field that the write does not touch keeps its value. -/
theorem bits_putBits_other (w hi lo v hi' lo' : Nat) (h : lo ≤ hi + 1) (hd : hi' < lo ∨ hi < lo') :
    bits (putBits w hi lo v) hi' lo' = bits w hi' lo' := by
  apply Nat.eq_of_testBit_eq
  intro i
  rw [bits_testBit, bits_testBit, putBits_testBit _ _ _ _ _ h]
  by_cases h1 : i < hi' + 1 - lo'
  · rcases hd with hd | hd
    · have h2 : lo' + i < lo := by omega
      simp [h1, h2]
    · have h2 : ¬ lo' + i < lo := by omega
      have h3 : ¬ lo' + i < hi + 1 := by omega
      simp [h1, h2, h3]
  · simp [h1]

/-- A field that lies in the low `n` bits does not see the rest. -/
theorem bits_mod_two_pow (w n hi lo : Nat) (h : hi < n) : bits (w % 2 ^ n) hi lo = bits w hi lo := by
  apply Nat.eq_of_testBit_eq
  intro i
  rw [bits_testBit, bits_testBit, Nat.testBit_mod_two_pow]
  by_cases h1 : i < hi + 1 - lo
  · have h2 : lo + i < n := by omega
    simp [h1, h2]
  · simp [h1]

theorem leNat_append (a b : List Byte) : leNat (a ++ b) = leNat a + 256 ^ a.length * leNat b := by
  induction a with
  | nil => simp [leNat]
  | cons x t ih =>
    simp only [List.cons_append, leNat, ih, List.length_cons, Nat.pow_succ, Nat.mul_add]
    rw [Nat.mul_comm (256 ^ t.length) 256, Nat.mul_assoc, Nat.add_assoc]

@[simp] theorem natLE_length (n v : Nat) : (natLE n v).length = n := by
  induction n generalizing v with
  | zero => rfl
  | succ n ih => simp [natLE, ih]

theorem leNat_natLE (n v : Nat) : leNat (natLE n v) = v % 256 ^ n := by
  induction n generalizing v with
  | zero => simp [natLE, leNat, Nat.mod_one]
  | succ n ih =>
    rw [natLE, leNat, ih, BitVec.toNat_ofNat, Nat.pow_succ 256, Nat.mul_comm (256 ^ n) 256, Nat.mod_mul]

@[simp] theorem padTo_length (n : Nat) (l : List Byte) : (padTo n l).length = n := by
  simp [padTo, zeros]

end Sys2Proof
end

