-- ==== Sys2Proof/Laws/State.lean ====
section
/-! SUPPORT. What the shared updates of the state leave: one lemma per field per update, and reads after writes of
registers, dictionary values, Facets, partitions and tickets. -/

namespace Sys2Proof.Machine

/-! ### Registers -/

theorem cardOf_cardIdx (c : Card) : cardOf (cardIdx c) = c := by cases c <;> rfl

theorem cardIdx_inj {a b : Card} (h : cardIdx a = cardIdx b) : a = b := by
  rw [← cardOf_cardIdx a, h, cardOf_cardIdx]

theorem regKey_same {c : Card} {i j : Nat} : regKey c i = regKey c j ↔ i = j := by unfold regKey; omega

theorem regKey_inj {a b : Card} {i j : Nat} (hi : i < 1048576) (hj : j < 1048576) (h : regKey a i = regKey b j) : a = b ∧ i = j := by
  unfold regKey at h
  have e : cardIdx a = cardIdx b := by omega
  exact ⟨cardIdx_inj e, by omega⟩

@[simp] theorem rd_wr_same (s : State) (c : Card) (i : Nat) (w : Word) : (s.wr c i w).rd c i = w := by
  simp [State.rd, State.wr]

theorem rd_wr_other (s : State) (c c' : Card) (i j : Nat) (w : Word) (h : regKey c' j ≠ regKey c i) :
    (s.wr c i w).rd c' j = s.rd c' j := by
  simp [State.rd, State.wr, Sparse.get_put_other _ _ _ _ _ h]

theorem rd_wr_inst (s : State) (c : Card) (i j : Nat) (w : Word) (h : j ≠ i) : (s.wr c i w).rd c j = s.rd c j :=
  rd_wr_other s c c i j w (fun e => h (regKey_same.mp e))

theorem rd_wr_card (s : State) (c c' : Card) (i j : Nat) (w : Word) (h : c' ≠ c) (hi : i < 1048576) (hj : j < 1048576) :
    (s.wr c i w).rd c' j = s.rd c' j :=
  rd_wr_other s c c' i j w (fun e => h (regKey_inj hj hi e).1)

/-- A field that lies in a register. -/
abbrev Fld.ok (f : Fld) : Prop := f.lo ≤ f.hi ∧ f.hi < 32

/-- Two fields of one register that share no bit. -/
abbrev Fld.apart (f g : Fld) : Prop := g.hi < f.lo ∨ f.hi < g.lo

theorem gf_sf_same (s : State) (f : Fld) (i v : Nat) (h : f.ok) : (s.sf f i v).gf f i = v % 2 ^ (f.hi + 1 - f.lo) := by
  have h1 : f.lo ≤ f.hi := h.1
  have h2 : f.hi < 32 := h.2
  simp only [State.gf, State.sf, rd_wr_same, BitVec.toNat_ofNat]
  rw [bits_mod_two_pow _ _ _ _ h2, bits_putBits_same _ _ _ _ (by omega)]

theorem gf_sf_field (s : State) (f g : Fld) (i v : Nat) (hc : g.card = f.card) (hf : f.ok) (hg : g.ok) (h : f.apart g) :
    (s.sf f i v).gf g i = s.gf g i := by
  have h1 : f.lo ≤ f.hi := hf.1
  have h2 : g.hi < 32 := hg.2
  simp only [State.gf, State.sf, hc, rd_wr_same, BitVec.toNat_ofNat]
  rw [bits_mod_two_pow _ _ _ _ h2, bits_putBits_other _ _ _ _ _ _ (by omega) h]

theorem gf_sf_inst (s : State) (f g : Fld) (i j v : Nat) (hc : g.card = f.card) (h : j ≠ i) : (s.sf f i v).gf g j = s.gf g j := by
  simp only [State.gf, State.sf, hc]; rw [rd_wr_inst _ _ _ _ _ h]

theorem gf_sf_card (s : State) (f g : Fld) (i j v : Nat) (hc : g.card ≠ f.card) (hi : i < 1048576) (hj : j < 1048576) :
    (s.sf f i v).gf g j = s.gf g j := by
  simp only [State.gf, State.sf]; rw [rd_wr_card _ _ _ _ _ _ hc hi hj]

theorem rd_sf_card (s : State) (f : Fld) (c : Card) (i j v : Nat) (hc : c ≠ f.card) (hi : i < 1048576) (hj : j < 1048576) :
    (s.sf f i v).rd c j = s.rd c j := rd_wr_card _ _ _ _ _ _ hc hi hj

/-! ### Facets, partitions, tickets, dictionary values -/

@[simp] theorem facet_setFacet_same (s : State) (f : Nat) (x : Facet) : (s.setFacet f x).facet f = x := by
  simp [State.facet, State.setFacet]

theorem facet_setFacet_other (s : State) (f g : Nat) (x : Facet) (h : g ≠ f) : (s.setFacet f x).facet g = s.facet g := by
  simp [State.facet, State.setFacet, Sparse.get_put_other _ _ _ _ _ h]

@[simp] theorem facet_modFacet_same (s : State) (f : Nat) (u : Facet → Facet) : (s.modFacet f u).facet f = u (s.facet f) := by
  simp [State.modFacet]

@[simp] theorem prt_setPrt_same (s : State) (p : Nat) (x : Partition) : (s.setPrt p x).prt p = x := by
  simp [State.prt, State.setPrt]

theorem prt_setPrt_other (s : State) (p q : Nat) (x : Partition) (h : q ≠ p) : (s.setPrt p x).prt q = s.prt q := by
  simp [State.prt, State.setPrt, Sparse.get_put_other _ _ _ _ _ h]

@[simp] theorem prt_modPrt_same (s : State) (p : Nat) (u : Partition → Partition) : (s.modPrt p u).prt p = u (s.prt p) := by
  simp [State.modPrt]

@[simp] theorem ticket_setTicket_same (s : State) (k : Nat) (x : Ticket) : (s.setTicket k x).ticket k = x := by
  simp [State.ticket, State.setTicket]

theorem ticket_setTicket_other (s : State) (k j : Nat) (x : Ticket) (h : j ≠ k) : (s.setTicket k x).ticket j = s.ticket j := by
  simp [State.ticket, State.setTicket, Sparse.get_put_other _ _ _ _ _ h]

@[simp] theorem dval_setD_same (s : State) (index sub : Nat) (v : DVal) : (s.setD index sub v).dval index sub = v := by
  unfold State.setD
  split
  · assumption
  · simp [State.dval]

theorem dval_setD_other (s : State) (index sub i j : Nat) (v : DVal) (h : dkey i j ≠ dkey index sub) :
    (s.setD index sub v).dval i j = s.dval i j := by
  unfold State.setD
  split
  · rfl
  · simp [State.dval, Sparse.get_put_other _ _ _ _ _ h]

@[simp] theorem dnum_setN_same (s : State) (index sub n : Nat) : (s.setN index sub n).dnum index sub = n := by
  simp [State.dnum, State.setN]

theorem dnum_setN_other (s : State) (index sub n i j : Nat) (h : dkey i j ≠ dkey index sub) :
    (s.setN index sub n).dnum i j = s.dnum i j := by
  simp only [State.dnum, State.setN, dval_setD_other _ _ _ _ _ _ h]

@[simp] theorem dnum_bump_same (s : State) (index sub : Nat) :
    (s.bump index sub).dnum index sub = (s.dnum index sub + 1) % 18446744073709551616 := by
  simp [State.bump]

/-! ### One lemma per field per update -/

theorem sf_def (s : State) (f : Fld) (i v : Nat) :
    s.sf f i v = s.wr f.card i (BitVec.ofNat 32 (putBits (s.rd f.card i).toNat f.hi f.lo v)) := rfl

theorem modFacet_def (s : State) (f : Nat) (u : Facet → Facet) : s.modFacet f u = s.setFacet f (u (s.facet f)) := rfl

theorem modPrt_def (s : State) (p : Nat) (u : Partition → Partition) : s.modPrt p u = s.setPrt p (u (s.prt p)) := rfl

theorem modTicket_def (s : State) (k : Nat) (u : Ticket → Ticket) : s.modTicket k u = s.setTicket k (u (s.ticket k)) := rfl

theorem setN_def (s : State) (index sub n : Nat) : s.setN index sub n = s.setD index sub (.num n) := rfl

theorem bump_def (s : State) (index sub : Nat) :
    s.bump index sub = s.setD index sub (.num ((s.dnum index sub + 1) % 18446744073709551616)) := rfl

@[simp] theorem wr_part (s : State) (c : Card) (i : Nat) (w : Word) : (s.wr c i w).part = s.part := rfl
@[simp] theorem wr_time (s : State) (c : Card) (i : Nat) (w : Word) : (s.wr c i w).time = s.time := rfl
@[simp] theorem wr_shadows (s : State) (c : Card) (i : Nat) (w : Word) : (s.wr c i w).shadows = s.shadows := rfl
@[simp] theorem wr_mem (s : State) (c : Card) (i : Nat) (w : Word) : (s.wr c i w).mem = s.mem := rfl
@[simp] theorem wr_imem (s : State) (c : Card) (i : Nat) (w : Word) : (s.wr c i w).imem = s.imem := rfl
@[simp] theorem wr_sram (s : State) (c : Card) (i : Nat) (w : Word) : (s.wr c i w).sram = s.sram := rfl
@[simp] theorem wr_lost (s : State) (c : Card) (i : Nat) (w : Word) : (s.wr c i w).lost = s.lost := rfl
@[simp] theorem wr_hop (s : State) (c : Card) (i : Nat) (w : Word) : (s.wr c i w).hop = s.hop := rfl
@[simp] theorem wr_host (s : State) (c : Card) (i : Nat) (w : Word) : (s.wr c i w).host = s.host := rfl
@[simp] theorem wr_ucMem (s : State) (c : Card) (i : Nat) (w : Word) : (s.wr c i w).ucMem = s.ucMem := rfl
@[simp] theorem wr_ucImem (s : State) (c : Card) (i : Nat) (w : Word) : (s.wr c i w).ucImem = s.ucImem := rfl
@[simp] theorem wr_ucSram (s : State) (c : Card) (i : Nat) (w : Word) : (s.wr c i w).ucSram = s.ucSram := rfl
@[simp] theorem wr_ecMem (s : State) (c : Card) (i : Nat) (w : Word) : (s.wr c i w).ecMem = s.ecMem := rfl
@[simp] theorem wr_ecImem (s : State) (c : Card) (i : Nat) (w : Word) : (s.wr c i w).ecImem = s.ecImem := rfl
@[simp] theorem wr_ecSram (s : State) (c : Card) (i : Nat) (w : Word) : (s.wr c i w).ecSram = s.ecSram := rfl
@[simp] theorem wr_dict (s : State) (c : Card) (i : Nat) (w : Word) : (s.wr c i w).dict = s.dict := rfl
@[simp] theorem wr_tags (s : State) (c : Card) (i : Nat) (w : Word) : (s.wr c i w).tags = s.tags := rfl
@[simp] theorem wr_errlog (s : State) (c : Card) (i : Nat) (w : Word) : (s.wr c i w).errlog = s.errlog := rfl
@[simp] theorem wr_spent (s : State) (c : Card) (i : Nat) (w : Word) : (s.wr c i w).spent = s.spent := rfl
@[simp] theorem wr_subs (s : State) (c : Card) (i : Nat) (w : Word) : (s.wr c i w).subs = s.subs := rfl
@[simp] theorem wr_facets (s : State) (c : Card) (i : Nat) (w : Word) : (s.wr c i w).facets = s.facets := rfl
@[simp] theorem wr_engineArcs (s : State) (c : Card) (i : Nat) (w : Word) : (s.wr c i w).engineArcs = s.engineArcs := rfl
@[simp] theorem wr_arcUc (s : State) (c : Card) (i : Nat) (w : Word) : (s.wr c i w).arcUc = s.arcUc := rfl
@[simp] theorem wr_arcEc (s : State) (c : Card) (i : Nat) (w : Word) : (s.wr c i w).arcEc = s.arcEc := rfl
@[simp] theorem wr_arcFails (s : State) (c : Card) (i : Nat) (w : Word) : (s.wr c i w).arcFails = s.arcFails := rfl
@[simp] theorem wr_selfAll (s : State) (c : Card) (i : Nat) (w : Word) : (s.wr c i w).selfAll = s.selfAll := rfl
@[simp] theorem wr_seams (s : State) (c : Card) (i : Nat) (w : Word) : (s.wr c i w).seams = s.seams := rfl
@[simp] theorem wr_taken (s : State) (c : Card) (i : Nat) (w : Word) : (s.wr c i w).taken = s.taken := rfl
@[simp] theorem wr_tables (s : State) (c : Card) (i : Nat) (w : Word) : (s.wr c i w).tables = s.tables := rfl
@[simp] theorem wr_routes (s : State) (c : Card) (i : Nat) (w : Word) : (s.wr c i w).routes = s.routes := rfl
@[simp] theorem wr_ops (s : State) (c : Card) (i : Nat) (w : Word) : (s.wr c i w).ops = s.ops := rfl
@[simp] theorem wr_xfers (s : State) (c : Card) (i : Nat) (w : Word) : (s.wr c i w).xfers = s.xfers := rfl
@[simp] theorem wr_portTags (s : State) (c : Card) (i : Nat) (w : Word) : (s.wr c i w).portTags = s.portTags := rfl
@[simp] theorem wr_tearAt (s : State) (c : Card) (i : Nat) (w : Word) : (s.wr c i w).tearAt = s.tearAt := rfl
@[simp] theorem wr_tearMask (s : State) (c : Card) (i : Nat) (w : Word) : (s.wr c i w).tearMask = s.tearMask := rfl
@[simp] theorem wr_everLocked (s : State) (c : Card) (i : Nat) (w : Word) : (s.wr c i w).everLocked = s.everLocked := rfl
@[simp] theorem wr_slew (s : State) (c : Card) (i : Nat) (w : Word) : (s.wr c i w).slew = s.slew := rfl
@[simp] theorem wr_slewTicks (s : State) (c : Card) (i : Nat) (w : Word) : (s.wr c i w).slewTicks = s.slewTicks := rfl
@[simp] theorem wr_parts (s : State) (c : Card) (i : Nat) (w : Word) : (s.wr c i w).parts = s.parts := rfl
@[simp] theorem wr_leaves (s : State) (c : Card) (i : Nat) (w : Word) : (s.wr c i w).leaves = s.leaves := rfl
@[simp] theorem wr_tableFaulty (s : State) (c : Card) (i : Nat) (w : Word) : (s.wr c i w).tableFaulty = s.tableFaulty := rfl
@[simp] theorem wr_ptPool (s : State) (c : Card) (i : Nat) (w : Word) : (s.wr c i w).ptPool = s.ptPool := rfl
@[simp] theorem wr_shadowGib (s : State) (c : Card) (i : Nat) (w : Word) : (s.wr c i w).shadowGib = s.shadowGib := rfl
@[simp] theorem wr_holds (s : State) (c : Card) (i : Nat) (w : Word) : (s.wr c i w).holds = s.holds := rfl
@[simp] theorem wr_stages (s : State) (c : Card) (i : Nat) (w : Word) : (s.wr c i w).stages = s.stages := rfl
@[simp] theorem wr_moves (s : State) (c : Card) (i : Nat) (w : Word) : (s.wr c i w).moves = s.moves := rfl
@[simp] theorem wr_clocks (s : State) (c : Card) (i : Nat) (w : Word) : (s.wr c i w).clocks = s.clocks := rfl
@[simp] theorem wr_hopLost (s : State) (c : Card) (i : Nat) (w : Word) : (s.wr c i w).hopLost = s.hopLost := rfl
@[simp] theorem wr_flash (s : State) (c : Card) (i : Nat) (w : Word) : (s.wr c i w).flash = s.flash := rfl
@[simp] theorem wr_blmJob (s : State) (c : Card) (i : Nat) (w : Word) : (s.wr c i w).blmJob = s.blmJob := rfl
@[simp] theorem wr_cursor (s : State) (c : Card) (i : Nat) (w : Word) : (s.wr c i w).cursor = s.cursor := rfl
@[simp] theorem wr_kvPages (s : State) (c : Card) (i : Nat) (w : Word) : (s.wr c i w).kvPages = s.kvPages := rfl
@[simp] theorem wr_ranges (s : State) (c : Card) (i : Nat) (w : Word) : (s.wr c i w).ranges = s.ranges := rfl
@[simp] theorem wr_hashes (s : State) (c : Card) (i : Nat) (w : Word) : (s.wr c i w).hashes = s.hashes := rfl
@[simp] theorem wr_radix (s : State) (c : Card) (i : Nat) (w : Word) : (s.wr c i w).radix = s.radix := rfl
@[simp] theorem wr_salts (s : State) (c : Card) (i : Nat) (w : Word) : (s.wr c i w).salts = s.salts := rfl
@[simp] theorem wr_saltDue (s : State) (c : Card) (i : Nat) (w : Word) : (s.wr c i w).saltDue = s.saltDue := rfl
@[simp] theorem wr_keys (s : State) (c : Card) (i : Nat) (w : Word) : (s.wr c i w).keys = s.keys := rfl
@[simp] theorem wr_gens (s : State) (c : Card) (i : Nat) (w : Word) : (s.wr c i w).gens = s.gens := rfl
@[simp] theorem wr_aslots (s : State) (c : Card) (i : Nat) (w : Word) : (s.wr c i w).aslots = s.aslots := rfl
@[simp] theorem wr_jobs (s : State) (c : Card) (i : Nat) (w : Word) : (s.wr c i w).jobs = s.jobs := rfl
@[simp] theorem wr_activations (s : State) (c : Card) (i : Nat) (w : Word) : (s.wr c i w).activations = s.activations := rfl
@[simp] theorem wr_tickets (s : State) (c : Card) (i : Nat) (w : Word) : (s.wr c i w).tickets = s.tickets := rfl
@[simp] theorem wr_rails (s : State) (c : Card) (i : Nat) (w : Word) : (s.wr c i w).rails = s.rails := rfl
@[simp] theorem wr_rings (s : State) (c : Card) (i : Nat) (w : Word) : (s.wr c i w).rings = s.rings := rfl
@[simp] theorem wr_reasm (s : State) (c : Card) (i : Nat) (w : Word) : (s.wr c i w).reasm = s.reasm := rfl
@[simp] theorem wr_retired (s : State) (c : Card) (i : Nat) (w : Word) : (s.wr c i w).retired = s.retired := rfl
@[simp] theorem wr_kept (s : State) (c : Card) (i : Nat) (w : Word) : (s.wr c i w).kept = s.kept := rfl
@[simp] theorem wr_frontQ (s : State) (c : Card) (i : Nat) (w : Word) : (s.wr c i w).frontQ = s.frontQ := rfl
@[simp] theorem wr_adoption (s : State) (c : Card) (i : Nat) (w : Word) : (s.wr c i w).adoption = s.adoption := rfl
@[simp] theorem wr_dumps (s : State) (c : Card) (i : Nat) (w : Word) : (s.wr c i w).dumps = s.dumps := rfl
@[simp] theorem wr_dumpCopied (s : State) (c : Card) (i : Nat) (w : Word) : (s.wr c i w).dumpCopied = s.dumpCopied := rfl
@[simp] theorem wr_power (s : State) (c : Card) (i : Nat) (w : Word) : (s.wr c i w).power = s.power := rfl
@[simp] theorem wr_sec (s : State) (c : Card) (i : Nat) (w : Word) : (s.wr c i w).sec = s.sec := rfl
@[simp] theorem wr_boot (s : State) (c : Card) (i : Nat) (w : Word) : (s.wr c i w).boot = s.boot := rfl
@[simp] theorem wr_pins (s : State) (c : Card) (i : Nat) (w : Word) : (s.wr c i w).pins = s.pins := rfl
@[simp] theorem wr_sessions (s : State) (c : Card) (i : Nat) (w : Word) : (s.wr c i w).sessions = s.sessions := rfl
@[simp] theorem wr_answers (s : State) (c : Card) (i : Nat) (w : Word) : (s.wr c i w).answers = s.answers := rfl
@[simp] theorem wr_commits (s : State) (c : Card) (i : Nat) (w : Word) : (s.wr c i w).commits = s.commits := rfl
@[simp] theorem wr_inbox (s : State) (c : Card) (i : Nat) (w : Word) : (s.wr c i w).inbox = s.inbox := rfl
@[simp] theorem wr_apxReq (s : State) (c : Card) (i : Nat) (w : Word) : (s.wr c i w).apxReq = s.apxReq := rfl
@[simp] theorem wr_apxRsp (s : State) (c : Card) (i : Nat) (w : Word) : (s.wr c i w).apxRsp = s.apxRsp := rfl
@[simp] theorem wr_mclk (s : State) (c : Card) (i : Nat) (w : Word) : (s.wr c i w).mclk = s.mclk := rfl
@[simp] theorem wr_uid (s : State) (c : Card) (i : Nat) (w : Word) : (s.wr c i w).uid = s.uid := rfl
@[simp] theorem wr_out (s : State) (c : Card) (i : Nat) (w : Word) : (s.wr c i w).out = s.out := rfl
@[simp] theorem wr_freeCtr (s : State) (c : Card) (i : Nat) (w : Word) : (s.wr c i w).freeCtr = s.freeCtr := rfl
@[simp] theorem wr_pending (s : State) (c : Card) (i : Nat) (w : Word) : (s.wr c i w).pending = s.pending := rfl
@[simp] theorem wr_groups (s : State) (c : Card) (i : Nat) (w : Word) : (s.wr c i w).groups = s.groups := rfl
@[simp] theorem wr_unwaited (s : State) (c : Card) (i : Nat) (w : Word) : (s.wr c i w).unwaited = s.unwaited := rfl
@[simp] theorem wr_arcTabs (s : State) (c : Card) (i : Nat) (w : Word) : (s.wr c i w).arcTabs = s.arcTabs := rfl
@[simp] theorem wr_past (s : State) (c : Card) (i : Nat) (w : Word) : (s.wr c i w).past = s.past := rfl
@[simp] theorem wr_watches (s : State) (c : Card) (i : Nat) (w : Word) : (s.wr c i w).watches = s.watches := rfl
@[simp] theorem wr_ptPlaces (s : State) (c : Card) (i : Nat) (w : Word) : (s.wr c i w).ptPlaces = s.ptPlaces := rfl
@[simp] theorem wr_bloom (s : State) (c : Card) (i : Nat) (w : Word) : (s.wr c i w).bloom = s.bloom := rfl
@[simp] theorem wr_dumping (s : State) (c : Card) (i : Nat) (w : Word) : (s.wr c i w).dumping = s.dumping := rfl
@[simp] theorem wr_dbgHeld (s : State) (c : Card) (i : Nat) (w : Word) : (s.wr c i w).dbgHeld = s.dbgHeld := rfl
@[simp] theorem wr_links (s : State) (c : Card) (i : Nat) (w : Word) : (s.wr c i w).links = s.links := rfl
@[simp] theorem wr_wtLeft (s : State) (c : Card) (i : Nat) (w : Word) : (s.wr c i w).wtLeft = s.wtLeft := rfl
@[simp] theorem wr_mosaic (s : State) (c : Card) (i : Nat) (w : Word) : (s.wr c i w).mosaic = s.mosaic := rfl
@[simp] theorem wr_adoptionSeen (s : State) (c : Card) (i : Nat) (w : Word) : (s.wr c i w).adoptionSeen = s.adoptionSeen := rfl
@[simp] theorem wr_ucVertex (s : State) (c : Card) (i : Nat) (w : Word) : (s.wr c i w).ucVertex = s.ucVertex := rfl

@[simp] theorem emit_part (s : State) (o : Output) : (s.emit o).part = s.part := rfl
@[simp] theorem emit_time (s : State) (o : Output) : (s.emit o).time = s.time := rfl
@[simp] theorem emit_regs (s : State) (o : Output) : (s.emit o).regs = s.regs := rfl
@[simp] theorem emit_shadows (s : State) (o : Output) : (s.emit o).shadows = s.shadows := rfl
@[simp] theorem emit_mem (s : State) (o : Output) : (s.emit o).mem = s.mem := rfl
@[simp] theorem emit_imem (s : State) (o : Output) : (s.emit o).imem = s.imem := rfl
@[simp] theorem emit_sram (s : State) (o : Output) : (s.emit o).sram = s.sram := rfl
@[simp] theorem emit_lost (s : State) (o : Output) : (s.emit o).lost = s.lost := rfl
@[simp] theorem emit_hop (s : State) (o : Output) : (s.emit o).hop = s.hop := rfl
@[simp] theorem emit_host (s : State) (o : Output) : (s.emit o).host = s.host := rfl
@[simp] theorem emit_ucMem (s : State) (o : Output) : (s.emit o).ucMem = s.ucMem := rfl
@[simp] theorem emit_ucImem (s : State) (o : Output) : (s.emit o).ucImem = s.ucImem := rfl
@[simp] theorem emit_ucSram (s : State) (o : Output) : (s.emit o).ucSram = s.ucSram := rfl
@[simp] theorem emit_ecMem (s : State) (o : Output) : (s.emit o).ecMem = s.ecMem := rfl
@[simp] theorem emit_ecImem (s : State) (o : Output) : (s.emit o).ecImem = s.ecImem := rfl
@[simp] theorem emit_ecSram (s : State) (o : Output) : (s.emit o).ecSram = s.ecSram := rfl
@[simp] theorem emit_dict (s : State) (o : Output) : (s.emit o).dict = s.dict := rfl
@[simp] theorem emit_tags (s : State) (o : Output) : (s.emit o).tags = s.tags := rfl
@[simp] theorem emit_errlog (s : State) (o : Output) : (s.emit o).errlog = s.errlog := rfl
@[simp] theorem emit_spent (s : State) (o : Output) : (s.emit o).spent = s.spent := rfl
@[simp] theorem emit_subs (s : State) (o : Output) : (s.emit o).subs = s.subs := rfl
@[simp] theorem emit_facets (s : State) (o : Output) : (s.emit o).facets = s.facets := rfl
@[simp] theorem emit_engineArcs (s : State) (o : Output) : (s.emit o).engineArcs = s.engineArcs := rfl
@[simp] theorem emit_arcUc (s : State) (o : Output) : (s.emit o).arcUc = s.arcUc := rfl
@[simp] theorem emit_arcEc (s : State) (o : Output) : (s.emit o).arcEc = s.arcEc := rfl
@[simp] theorem emit_arcFails (s : State) (o : Output) : (s.emit o).arcFails = s.arcFails := rfl
@[simp] theorem emit_selfAll (s : State) (o : Output) : (s.emit o).selfAll = s.selfAll := rfl
@[simp] theorem emit_seams (s : State) (o : Output) : (s.emit o).seams = s.seams := rfl
@[simp] theorem emit_taken (s : State) (o : Output) : (s.emit o).taken = s.taken := rfl
@[simp] theorem emit_tables (s : State) (o : Output) : (s.emit o).tables = s.tables := rfl
@[simp] theorem emit_routes (s : State) (o : Output) : (s.emit o).routes = s.routes := rfl
@[simp] theorem emit_ops (s : State) (o : Output) : (s.emit o).ops = s.ops := rfl
@[simp] theorem emit_xfers (s : State) (o : Output) : (s.emit o).xfers = s.xfers := rfl
@[simp] theorem emit_portTags (s : State) (o : Output) : (s.emit o).portTags = s.portTags := rfl
@[simp] theorem emit_tearAt (s : State) (o : Output) : (s.emit o).tearAt = s.tearAt := rfl
@[simp] theorem emit_tearMask (s : State) (o : Output) : (s.emit o).tearMask = s.tearMask := rfl
@[simp] theorem emit_everLocked (s : State) (o : Output) : (s.emit o).everLocked = s.everLocked := rfl
@[simp] theorem emit_slew (s : State) (o : Output) : (s.emit o).slew = s.slew := rfl
@[simp] theorem emit_slewTicks (s : State) (o : Output) : (s.emit o).slewTicks = s.slewTicks := rfl
@[simp] theorem emit_parts (s : State) (o : Output) : (s.emit o).parts = s.parts := rfl
@[simp] theorem emit_leaves (s : State) (o : Output) : (s.emit o).leaves = s.leaves := rfl
@[simp] theorem emit_tableFaulty (s : State) (o : Output) : (s.emit o).tableFaulty = s.tableFaulty := rfl
@[simp] theorem emit_ptPool (s : State) (o : Output) : (s.emit o).ptPool = s.ptPool := rfl
@[simp] theorem emit_shadowGib (s : State) (o : Output) : (s.emit o).shadowGib = s.shadowGib := rfl
@[simp] theorem emit_holds (s : State) (o : Output) : (s.emit o).holds = s.holds := rfl
@[simp] theorem emit_stages (s : State) (o : Output) : (s.emit o).stages = s.stages := rfl
@[simp] theorem emit_moves (s : State) (o : Output) : (s.emit o).moves = s.moves := rfl
@[simp] theorem emit_clocks (s : State) (o : Output) : (s.emit o).clocks = s.clocks := rfl
@[simp] theorem emit_hopLost (s : State) (o : Output) : (s.emit o).hopLost = s.hopLost := rfl
@[simp] theorem emit_flash (s : State) (o : Output) : (s.emit o).flash = s.flash := rfl
@[simp] theorem emit_blmJob (s : State) (o : Output) : (s.emit o).blmJob = s.blmJob := rfl
@[simp] theorem emit_cursor (s : State) (o : Output) : (s.emit o).cursor = s.cursor := rfl
@[simp] theorem emit_kvPages (s : State) (o : Output) : (s.emit o).kvPages = s.kvPages := rfl
@[simp] theorem emit_ranges (s : State) (o : Output) : (s.emit o).ranges = s.ranges := rfl
@[simp] theorem emit_hashes (s : State) (o : Output) : (s.emit o).hashes = s.hashes := rfl
@[simp] theorem emit_radix (s : State) (o : Output) : (s.emit o).radix = s.radix := rfl
@[simp] theorem emit_salts (s : State) (o : Output) : (s.emit o).salts = s.salts := rfl
@[simp] theorem emit_saltDue (s : State) (o : Output) : (s.emit o).saltDue = s.saltDue := rfl
@[simp] theorem emit_keys (s : State) (o : Output) : (s.emit o).keys = s.keys := rfl
@[simp] theorem emit_gens (s : State) (o : Output) : (s.emit o).gens = s.gens := rfl
@[simp] theorem emit_aslots (s : State) (o : Output) : (s.emit o).aslots = s.aslots := rfl
@[simp] theorem emit_jobs (s : State) (o : Output) : (s.emit o).jobs = s.jobs := rfl
@[simp] theorem emit_activations (s : State) (o : Output) : (s.emit o).activations = s.activations := rfl
@[simp] theorem emit_tickets (s : State) (o : Output) : (s.emit o).tickets = s.tickets := rfl
@[simp] theorem emit_rails (s : State) (o : Output) : (s.emit o).rails = s.rails := rfl
@[simp] theorem emit_rings (s : State) (o : Output) : (s.emit o).rings = s.rings := rfl
@[simp] theorem emit_reasm (s : State) (o : Output) : (s.emit o).reasm = s.reasm := rfl
@[simp] theorem emit_retired (s : State) (o : Output) : (s.emit o).retired = s.retired := rfl
@[simp] theorem emit_kept (s : State) (o : Output) : (s.emit o).kept = s.kept := rfl
@[simp] theorem emit_frontQ (s : State) (o : Output) : (s.emit o).frontQ = s.frontQ := rfl
@[simp] theorem emit_adoption (s : State) (o : Output) : (s.emit o).adoption = s.adoption := rfl
@[simp] theorem emit_dumps (s : State) (o : Output) : (s.emit o).dumps = s.dumps := rfl
@[simp] theorem emit_dumpCopied (s : State) (o : Output) : (s.emit o).dumpCopied = s.dumpCopied := rfl
@[simp] theorem emit_power (s : State) (o : Output) : (s.emit o).power = s.power := rfl
@[simp] theorem emit_sec (s : State) (o : Output) : (s.emit o).sec = s.sec := rfl
@[simp] theorem emit_boot (s : State) (o : Output) : (s.emit o).boot = s.boot := rfl
@[simp] theorem emit_pins (s : State) (o : Output) : (s.emit o).pins = s.pins := rfl
@[simp] theorem emit_sessions (s : State) (o : Output) : (s.emit o).sessions = s.sessions := rfl
@[simp] theorem emit_answers (s : State) (o : Output) : (s.emit o).answers = s.answers := rfl
@[simp] theorem emit_commits (s : State) (o : Output) : (s.emit o).commits = s.commits := rfl
@[simp] theorem emit_inbox (s : State) (o : Output) : (s.emit o).inbox = s.inbox := rfl
@[simp] theorem emit_apxReq (s : State) (o : Output) : (s.emit o).apxReq = s.apxReq := rfl
@[simp] theorem emit_apxRsp (s : State) (o : Output) : (s.emit o).apxRsp = s.apxRsp := rfl
@[simp] theorem emit_mclk (s : State) (o : Output) : (s.emit o).mclk = s.mclk := rfl
@[simp] theorem emit_uid (s : State) (o : Output) : (s.emit o).uid = s.uid := rfl
@[simp] theorem emit_freeCtr (s : State) (o : Output) : (s.emit o).freeCtr = s.freeCtr := rfl
@[simp] theorem emit_pending (s : State) (o : Output) : (s.emit o).pending = s.pending := rfl
@[simp] theorem emit_groups (s : State) (o : Output) : (s.emit o).groups = s.groups := rfl
@[simp] theorem emit_unwaited (s : State) (o : Output) : (s.emit o).unwaited = s.unwaited := rfl
@[simp] theorem emit_arcTabs (s : State) (o : Output) : (s.emit o).arcTabs = s.arcTabs := rfl
@[simp] theorem emit_past (s : State) (o : Output) : (s.emit o).past = s.past := rfl
@[simp] theorem emit_watches (s : State) (o : Output) : (s.emit o).watches = s.watches := rfl
@[simp] theorem emit_ptPlaces (s : State) (o : Output) : (s.emit o).ptPlaces = s.ptPlaces := rfl
@[simp] theorem emit_bloom (s : State) (o : Output) : (s.emit o).bloom = s.bloom := rfl
@[simp] theorem emit_dumping (s : State) (o : Output) : (s.emit o).dumping = s.dumping := rfl
@[simp] theorem emit_dbgHeld (s : State) (o : Output) : (s.emit o).dbgHeld = s.dbgHeld := rfl
@[simp] theorem emit_links (s : State) (o : Output) : (s.emit o).links = s.links := rfl
@[simp] theorem emit_wtLeft (s : State) (o : Output) : (s.emit o).wtLeft = s.wtLeft := rfl
@[simp] theorem emit_mosaic (s : State) (o : Output) : (s.emit o).mosaic = s.mosaic := rfl
@[simp] theorem emit_adoptionSeen (s : State) (o : Output) : (s.emit o).adoptionSeen = s.adoptionSeen := rfl
@[simp] theorem emit_ucVertex (s : State) (o : Output) : (s.emit o).ucVertex = s.ucVertex := rfl

@[simp] theorem emits_part (s : State) (os : List Output) : (s.emits os).part = s.part := rfl
@[simp] theorem emits_time (s : State) (os : List Output) : (s.emits os).time = s.time := rfl
@[simp] theorem emits_regs (s : State) (os : List Output) : (s.emits os).regs = s.regs := rfl
@[simp] theorem emits_shadows (s : State) (os : List Output) : (s.emits os).shadows = s.shadows := rfl
@[simp] theorem emits_mem (s : State) (os : List Output) : (s.emits os).mem = s.mem := rfl
@[simp] theorem emits_imem (s : State) (os : List Output) : (s.emits os).imem = s.imem := rfl
@[simp] theorem emits_sram (s : State) (os : List Output) : (s.emits os).sram = s.sram := rfl
@[simp] theorem emits_lost (s : State) (os : List Output) : (s.emits os).lost = s.lost := rfl
@[simp] theorem emits_hop (s : State) (os : List Output) : (s.emits os).hop = s.hop := rfl
@[simp] theorem emits_host (s : State) (os : List Output) : (s.emits os).host = s.host := rfl
@[simp] theorem emits_ucMem (s : State) (os : List Output) : (s.emits os).ucMem = s.ucMem := rfl
@[simp] theorem emits_ucImem (s : State) (os : List Output) : (s.emits os).ucImem = s.ucImem := rfl
@[simp] theorem emits_ucSram (s : State) (os : List Output) : (s.emits os).ucSram = s.ucSram := rfl
@[simp] theorem emits_ecMem (s : State) (os : List Output) : (s.emits os).ecMem = s.ecMem := rfl
@[simp] theorem emits_ecImem (s : State) (os : List Output) : (s.emits os).ecImem = s.ecImem := rfl
@[simp] theorem emits_ecSram (s : State) (os : List Output) : (s.emits os).ecSram = s.ecSram := rfl
@[simp] theorem emits_dict (s : State) (os : List Output) : (s.emits os).dict = s.dict := rfl
@[simp] theorem emits_tags (s : State) (os : List Output) : (s.emits os).tags = s.tags := rfl
@[simp] theorem emits_errlog (s : State) (os : List Output) : (s.emits os).errlog = s.errlog := rfl
@[simp] theorem emits_spent (s : State) (os : List Output) : (s.emits os).spent = s.spent := rfl
@[simp] theorem emits_subs (s : State) (os : List Output) : (s.emits os).subs = s.subs := rfl
@[simp] theorem emits_facets (s : State) (os : List Output) : (s.emits os).facets = s.facets := rfl
@[simp] theorem emits_engineArcs (s : State) (os : List Output) : (s.emits os).engineArcs = s.engineArcs := rfl
@[simp] theorem emits_arcUc (s : State) (os : List Output) : (s.emits os).arcUc = s.arcUc := rfl
@[simp] theorem emits_arcEc (s : State) (os : List Output) : (s.emits os).arcEc = s.arcEc := rfl
@[simp] theorem emits_arcFails (s : State) (os : List Output) : (s.emits os).arcFails = s.arcFails := rfl
@[simp] theorem emits_selfAll (s : State) (os : List Output) : (s.emits os).selfAll = s.selfAll := rfl
@[simp] theorem emits_seams (s : State) (os : List Output) : (s.emits os).seams = s.seams := rfl
@[simp] theorem emits_taken (s : State) (os : List Output) : (s.emits os).taken = s.taken := rfl
@[simp] theorem emits_tables (s : State) (os : List Output) : (s.emits os).tables = s.tables := rfl
@[simp] theorem emits_routes (s : State) (os : List Output) : (s.emits os).routes = s.routes := rfl
@[simp] theorem emits_ops (s : State) (os : List Output) : (s.emits os).ops = s.ops := rfl
@[simp] theorem emits_xfers (s : State) (os : List Output) : (s.emits os).xfers = s.xfers := rfl
@[simp] theorem emits_portTags (s : State) (os : List Output) : (s.emits os).portTags = s.portTags := rfl
@[simp] theorem emits_tearAt (s : State) (os : List Output) : (s.emits os).tearAt = s.tearAt := rfl
@[simp] theorem emits_tearMask (s : State) (os : List Output) : (s.emits os).tearMask = s.tearMask := rfl
@[simp] theorem emits_everLocked (s : State) (os : List Output) : (s.emits os).everLocked = s.everLocked := rfl
@[simp] theorem emits_slew (s : State) (os : List Output) : (s.emits os).slew = s.slew := rfl
@[simp] theorem emits_slewTicks (s : State) (os : List Output) : (s.emits os).slewTicks = s.slewTicks := rfl
@[simp] theorem emits_parts (s : State) (os : List Output) : (s.emits os).parts = s.parts := rfl
@[simp] theorem emits_leaves (s : State) (os : List Output) : (s.emits os).leaves = s.leaves := rfl
@[simp] theorem emits_tableFaulty (s : State) (os : List Output) : (s.emits os).tableFaulty = s.tableFaulty := rfl
@[simp] theorem emits_ptPool (s : State) (os : List Output) : (s.emits os).ptPool = s.ptPool := rfl
@[simp] theorem emits_shadowGib (s : State) (os : List Output) : (s.emits os).shadowGib = s.shadowGib := rfl
@[simp] theorem emits_holds (s : State) (os : List Output) : (s.emits os).holds = s.holds := rfl
@[simp] theorem emits_stages (s : State) (os : List Output) : (s.emits os).stages = s.stages := rfl
@[simp] theorem emits_moves (s : State) (os : List Output) : (s.emits os).moves = s.moves := rfl
@[simp] theorem emits_clocks (s : State) (os : List Output) : (s.emits os).clocks = s.clocks := rfl
@[simp] theorem emits_hopLost (s : State) (os : List Output) : (s.emits os).hopLost = s.hopLost := rfl
@[simp] theorem emits_flash (s : State) (os : List Output) : (s.emits os).flash = s.flash := rfl
@[simp] theorem emits_blmJob (s : State) (os : List Output) : (s.emits os).blmJob = s.blmJob := rfl
@[simp] theorem emits_cursor (s : State) (os : List Output) : (s.emits os).cursor = s.cursor := rfl
@[simp] theorem emits_kvPages (s : State) (os : List Output) : (s.emits os).kvPages = s.kvPages := rfl
@[simp] theorem emits_ranges (s : State) (os : List Output) : (s.emits os).ranges = s.ranges := rfl
@[simp] theorem emits_hashes (s : State) (os : List Output) : (s.emits os).hashes = s.hashes := rfl
@[simp] theorem emits_radix (s : State) (os : List Output) : (s.emits os).radix = s.radix := rfl
@[simp] theorem emits_salts (s : State) (os : List Output) : (s.emits os).salts = s.salts := rfl
@[simp] theorem emits_saltDue (s : State) (os : List Output) : (s.emits os).saltDue = s.saltDue := rfl
@[simp] theorem emits_keys (s : State) (os : List Output) : (s.emits os).keys = s.keys := rfl
@[simp] theorem emits_gens (s : State) (os : List Output) : (s.emits os).gens = s.gens := rfl
@[simp] theorem emits_aslots (s : State) (os : List Output) : (s.emits os).aslots = s.aslots := rfl
@[simp] theorem emits_jobs (s : State) (os : List Output) : (s.emits os).jobs = s.jobs := rfl
@[simp] theorem emits_activations (s : State) (os : List Output) : (s.emits os).activations = s.activations := rfl
@[simp] theorem emits_tickets (s : State) (os : List Output) : (s.emits os).tickets = s.tickets := rfl
@[simp] theorem emits_rails (s : State) (os : List Output) : (s.emits os).rails = s.rails := rfl
@[simp] theorem emits_rings (s : State) (os : List Output) : (s.emits os).rings = s.rings := rfl
@[simp] theorem emits_reasm (s : State) (os : List Output) : (s.emits os).reasm = s.reasm := rfl
@[simp] theorem emits_retired (s : State) (os : List Output) : (s.emits os).retired = s.retired := rfl
@[simp] theorem emits_kept (s : State) (os : List Output) : (s.emits os).kept = s.kept := rfl
@[simp] theorem emits_frontQ (s : State) (os : List Output) : (s.emits os).frontQ = s.frontQ := rfl
@[simp] theorem emits_adoption (s : State) (os : List Output) : (s.emits os).adoption = s.adoption := rfl
@[simp] theorem emits_dumps (s : State) (os : List Output) : (s.emits os).dumps = s.dumps := rfl
@[simp] theorem emits_dumpCopied (s : State) (os : List Output) : (s.emits os).dumpCopied = s.dumpCopied := rfl
@[simp] theorem emits_power (s : State) (os : List Output) : (s.emits os).power = s.power := rfl
@[simp] theorem emits_sec (s : State) (os : List Output) : (s.emits os).sec = s.sec := rfl
@[simp] theorem emits_boot (s : State) (os : List Output) : (s.emits os).boot = s.boot := rfl
@[simp] theorem emits_pins (s : State) (os : List Output) : (s.emits os).pins = s.pins := rfl
@[simp] theorem emits_sessions (s : State) (os : List Output) : (s.emits os).sessions = s.sessions := rfl
@[simp] theorem emits_answers (s : State) (os : List Output) : (s.emits os).answers = s.answers := rfl
@[simp] theorem emits_commits (s : State) (os : List Output) : (s.emits os).commits = s.commits := rfl
@[simp] theorem emits_inbox (s : State) (os : List Output) : (s.emits os).inbox = s.inbox := rfl
@[simp] theorem emits_apxReq (s : State) (os : List Output) : (s.emits os).apxReq = s.apxReq := rfl
@[simp] theorem emits_apxRsp (s : State) (os : List Output) : (s.emits os).apxRsp = s.apxRsp := rfl
@[simp] theorem emits_mclk (s : State) (os : List Output) : (s.emits os).mclk = s.mclk := rfl
@[simp] theorem emits_uid (s : State) (os : List Output) : (s.emits os).uid = s.uid := rfl
@[simp] theorem emits_freeCtr (s : State) (os : List Output) : (s.emits os).freeCtr = s.freeCtr := rfl
@[simp] theorem emits_pending (s : State) (os : List Output) : (s.emits os).pending = s.pending := rfl
@[simp] theorem emits_groups (s : State) (os : List Output) : (s.emits os).groups = s.groups := rfl
@[simp] theorem emits_unwaited (s : State) (os : List Output) : (s.emits os).unwaited = s.unwaited := rfl
@[simp] theorem emits_arcTabs (s : State) (os : List Output) : (s.emits os).arcTabs = s.arcTabs := rfl
@[simp] theorem emits_past (s : State) (os : List Output) : (s.emits os).past = s.past := rfl
@[simp] theorem emits_watches (s : State) (os : List Output) : (s.emits os).watches = s.watches := rfl
@[simp] theorem emits_ptPlaces (s : State) (os : List Output) : (s.emits os).ptPlaces = s.ptPlaces := rfl
@[simp] theorem emits_bloom (s : State) (os : List Output) : (s.emits os).bloom = s.bloom := rfl
@[simp] theorem emits_dumping (s : State) (os : List Output) : (s.emits os).dumping = s.dumping := rfl
@[simp] theorem emits_dbgHeld (s : State) (os : List Output) : (s.emits os).dbgHeld = s.dbgHeld := rfl
@[simp] theorem emits_links (s : State) (os : List Output) : (s.emits os).links = s.links := rfl
@[simp] theorem emits_wtLeft (s : State) (os : List Output) : (s.emits os).wtLeft = s.wtLeft := rfl
@[simp] theorem emits_mosaic (s : State) (os : List Output) : (s.emits os).mosaic = s.mosaic := rfl
@[simp] theorem emits_adoptionSeen (s : State) (os : List Output) : (s.emits os).adoptionSeen = s.adoptionSeen := rfl
@[simp] theorem emits_ucVertex (s : State) (os : List Output) : (s.emits os).ucVertex = s.ucVertex := rfl

@[simp] theorem setFacet_part (s : State) (f : Nat) (x : Facet) : (s.setFacet f x).part = s.part := rfl
@[simp] theorem setFacet_time (s : State) (f : Nat) (x : Facet) : (s.setFacet f x).time = s.time := rfl
@[simp] theorem setFacet_regs (s : State) (f : Nat) (x : Facet) : (s.setFacet f x).regs = s.regs := rfl
@[simp] theorem setFacet_shadows (s : State) (f : Nat) (x : Facet) : (s.setFacet f x).shadows = s.shadows := rfl
@[simp] theorem setFacet_mem (s : State) (f : Nat) (x : Facet) : (s.setFacet f x).mem = s.mem := rfl
@[simp] theorem setFacet_imem (s : State) (f : Nat) (x : Facet) : (s.setFacet f x).imem = s.imem := rfl
@[simp] theorem setFacet_sram (s : State) (f : Nat) (x : Facet) : (s.setFacet f x).sram = s.sram := rfl
@[simp] theorem setFacet_lost (s : State) (f : Nat) (x : Facet) : (s.setFacet f x).lost = s.lost := rfl
@[simp] theorem setFacet_hop (s : State) (f : Nat) (x : Facet) : (s.setFacet f x).hop = s.hop := rfl
@[simp] theorem setFacet_host (s : State) (f : Nat) (x : Facet) : (s.setFacet f x).host = s.host := rfl
@[simp] theorem setFacet_ucMem (s : State) (f : Nat) (x : Facet) : (s.setFacet f x).ucMem = s.ucMem := rfl
@[simp] theorem setFacet_ucImem (s : State) (f : Nat) (x : Facet) : (s.setFacet f x).ucImem = s.ucImem := rfl
@[simp] theorem setFacet_ucSram (s : State) (f : Nat) (x : Facet) : (s.setFacet f x).ucSram = s.ucSram := rfl
@[simp] theorem setFacet_ecMem (s : State) (f : Nat) (x : Facet) : (s.setFacet f x).ecMem = s.ecMem := rfl
@[simp] theorem setFacet_ecImem (s : State) (f : Nat) (x : Facet) : (s.setFacet f x).ecImem = s.ecImem := rfl
@[simp] theorem setFacet_ecSram (s : State) (f : Nat) (x : Facet) : (s.setFacet f x).ecSram = s.ecSram := rfl
@[simp] theorem setFacet_dict (s : State) (f : Nat) (x : Facet) : (s.setFacet f x).dict = s.dict := rfl
@[simp] theorem setFacet_tags (s : State) (f : Nat) (x : Facet) : (s.setFacet f x).tags = s.tags := rfl
@[simp] theorem setFacet_errlog (s : State) (f : Nat) (x : Facet) : (s.setFacet f x).errlog = s.errlog := rfl
@[simp] theorem setFacet_spent (s : State) (f : Nat) (x : Facet) : (s.setFacet f x).spent = s.spent := rfl
@[simp] theorem setFacet_subs (s : State) (f : Nat) (x : Facet) : (s.setFacet f x).subs = s.subs := rfl
@[simp] theorem setFacet_engineArcs (s : State) (f : Nat) (x : Facet) : (s.setFacet f x).engineArcs = s.engineArcs := rfl
@[simp] theorem setFacet_arcUc (s : State) (f : Nat) (x : Facet) : (s.setFacet f x).arcUc = s.arcUc := rfl
@[simp] theorem setFacet_arcEc (s : State) (f : Nat) (x : Facet) : (s.setFacet f x).arcEc = s.arcEc := rfl
@[simp] theorem setFacet_arcFails (s : State) (f : Nat) (x : Facet) : (s.setFacet f x).arcFails = s.arcFails := rfl
@[simp] theorem setFacet_selfAll (s : State) (f : Nat) (x : Facet) : (s.setFacet f x).selfAll = s.selfAll := rfl
@[simp] theorem setFacet_seams (s : State) (f : Nat) (x : Facet) : (s.setFacet f x).seams = s.seams := rfl
@[simp] theorem setFacet_taken (s : State) (f : Nat) (x : Facet) : (s.setFacet f x).taken = s.taken := rfl
@[simp] theorem setFacet_tables (s : State) (f : Nat) (x : Facet) : (s.setFacet f x).tables = s.tables := rfl
@[simp] theorem setFacet_routes (s : State) (f : Nat) (x : Facet) : (s.setFacet f x).routes = s.routes := rfl
@[simp] theorem setFacet_ops (s : State) (f : Nat) (x : Facet) : (s.setFacet f x).ops = s.ops := rfl
@[simp] theorem setFacet_xfers (s : State) (f : Nat) (x : Facet) : (s.setFacet f x).xfers = s.xfers := rfl
@[simp] theorem setFacet_portTags (s : State) (f : Nat) (x : Facet) : (s.setFacet f x).portTags = s.portTags := rfl
@[simp] theorem setFacet_tearAt (s : State) (f : Nat) (x : Facet) : (s.setFacet f x).tearAt = s.tearAt := rfl
@[simp] theorem setFacet_tearMask (s : State) (f : Nat) (x : Facet) : (s.setFacet f x).tearMask = s.tearMask := rfl
@[simp] theorem setFacet_everLocked (s : State) (f : Nat) (x : Facet) : (s.setFacet f x).everLocked = s.everLocked := rfl
@[simp] theorem setFacet_slew (s : State) (f : Nat) (x : Facet) : (s.setFacet f x).slew = s.slew := rfl
@[simp] theorem setFacet_slewTicks (s : State) (f : Nat) (x : Facet) : (s.setFacet f x).slewTicks = s.slewTicks := rfl
@[simp] theorem setFacet_parts (s : State) (f : Nat) (x : Facet) : (s.setFacet f x).parts = s.parts := rfl
@[simp] theorem setFacet_leaves (s : State) (f : Nat) (x : Facet) : (s.setFacet f x).leaves = s.leaves := rfl
@[simp] theorem setFacet_tableFaulty (s : State) (f : Nat) (x : Facet) : (s.setFacet f x).tableFaulty = s.tableFaulty := rfl
@[simp] theorem setFacet_ptPool (s : State) (f : Nat) (x : Facet) : (s.setFacet f x).ptPool = s.ptPool := rfl
@[simp] theorem setFacet_shadowGib (s : State) (f : Nat) (x : Facet) : (s.setFacet f x).shadowGib = s.shadowGib := rfl
@[simp] theorem setFacet_holds (s : State) (f : Nat) (x : Facet) : (s.setFacet f x).holds = s.holds := rfl
@[simp] theorem setFacet_stages (s : State) (f : Nat) (x : Facet) : (s.setFacet f x).stages = s.stages := rfl
@[simp] theorem setFacet_moves (s : State) (f : Nat) (x : Facet) : (s.setFacet f x).moves = s.moves := rfl
@[simp] theorem setFacet_clocks (s : State) (f : Nat) (x : Facet) : (s.setFacet f x).clocks = s.clocks := rfl
@[simp] theorem setFacet_hopLost (s : State) (f : Nat) (x : Facet) : (s.setFacet f x).hopLost = s.hopLost := rfl
@[simp] theorem setFacet_flash (s : State) (f : Nat) (x : Facet) : (s.setFacet f x).flash = s.flash := rfl
@[simp] theorem setFacet_blmJob (s : State) (f : Nat) (x : Facet) : (s.setFacet f x).blmJob = s.blmJob := rfl
@[simp] theorem setFacet_cursor (s : State) (f : Nat) (x : Facet) : (s.setFacet f x).cursor = s.cursor := rfl
@[simp] theorem setFacet_kvPages (s : State) (f : Nat) (x : Facet) : (s.setFacet f x).kvPages = s.kvPages := rfl
@[simp] theorem setFacet_ranges (s : State) (f : Nat) (x : Facet) : (s.setFacet f x).ranges = s.ranges := rfl
@[simp] theorem setFacet_hashes (s : State) (f : Nat) (x : Facet) : (s.setFacet f x).hashes = s.hashes := rfl
@[simp] theorem setFacet_radix (s : State) (f : Nat) (x : Facet) : (s.setFacet f x).radix = s.radix := rfl
@[simp] theorem setFacet_salts (s : State) (f : Nat) (x : Facet) : (s.setFacet f x).salts = s.salts := rfl
@[simp] theorem setFacet_saltDue (s : State) (f : Nat) (x : Facet) : (s.setFacet f x).saltDue = s.saltDue := rfl
@[simp] theorem setFacet_keys (s : State) (f : Nat) (x : Facet) : (s.setFacet f x).keys = s.keys := rfl
@[simp] theorem setFacet_gens (s : State) (f : Nat) (x : Facet) : (s.setFacet f x).gens = s.gens := rfl
@[simp] theorem setFacet_aslots (s : State) (f : Nat) (x : Facet) : (s.setFacet f x).aslots = s.aslots := rfl
@[simp] theorem setFacet_jobs (s : State) (f : Nat) (x : Facet) : (s.setFacet f x).jobs = s.jobs := rfl
@[simp] theorem setFacet_activations (s : State) (f : Nat) (x : Facet) : (s.setFacet f x).activations = s.activations := rfl
@[simp] theorem setFacet_tickets (s : State) (f : Nat) (x : Facet) : (s.setFacet f x).tickets = s.tickets := rfl
@[simp] theorem setFacet_rails (s : State) (f : Nat) (x : Facet) : (s.setFacet f x).rails = s.rails := rfl
@[simp] theorem setFacet_rings (s : State) (f : Nat) (x : Facet) : (s.setFacet f x).rings = s.rings := rfl
@[simp] theorem setFacet_reasm (s : State) (f : Nat) (x : Facet) : (s.setFacet f x).reasm = s.reasm := rfl
@[simp] theorem setFacet_retired (s : State) (f : Nat) (x : Facet) : (s.setFacet f x).retired = s.retired := rfl
@[simp] theorem setFacet_kept (s : State) (f : Nat) (x : Facet) : (s.setFacet f x).kept = s.kept := rfl
@[simp] theorem setFacet_frontQ (s : State) (f : Nat) (x : Facet) : (s.setFacet f x).frontQ = s.frontQ := rfl
@[simp] theorem setFacet_adoption (s : State) (f : Nat) (x : Facet) : (s.setFacet f x).adoption = s.adoption := rfl
@[simp] theorem setFacet_dumps (s : State) (f : Nat) (x : Facet) : (s.setFacet f x).dumps = s.dumps := rfl
@[simp] theorem setFacet_dumpCopied (s : State) (f : Nat) (x : Facet) : (s.setFacet f x).dumpCopied = s.dumpCopied := rfl
@[simp] theorem setFacet_power (s : State) (f : Nat) (x : Facet) : (s.setFacet f x).power = s.power := rfl
@[simp] theorem setFacet_sec (s : State) (f : Nat) (x : Facet) : (s.setFacet f x).sec = s.sec := rfl
@[simp] theorem setFacet_boot (s : State) (f : Nat) (x : Facet) : (s.setFacet f x).boot = s.boot := rfl
@[simp] theorem setFacet_pins (s : State) (f : Nat) (x : Facet) : (s.setFacet f x).pins = s.pins := rfl
@[simp] theorem setFacet_sessions (s : State) (f : Nat) (x : Facet) : (s.setFacet f x).sessions = s.sessions := rfl
@[simp] theorem setFacet_answers (s : State) (f : Nat) (x : Facet) : (s.setFacet f x).answers = s.answers := rfl
@[simp] theorem setFacet_commits (s : State) (f : Nat) (x : Facet) : (s.setFacet f x).commits = s.commits := rfl
@[simp] theorem setFacet_inbox (s : State) (f : Nat) (x : Facet) : (s.setFacet f x).inbox = s.inbox := rfl
@[simp] theorem setFacet_apxReq (s : State) (f : Nat) (x : Facet) : (s.setFacet f x).apxReq = s.apxReq := rfl
@[simp] theorem setFacet_apxRsp (s : State) (f : Nat) (x : Facet) : (s.setFacet f x).apxRsp = s.apxRsp := rfl
@[simp] theorem setFacet_mclk (s : State) (f : Nat) (x : Facet) : (s.setFacet f x).mclk = s.mclk := rfl
@[simp] theorem setFacet_uid (s : State) (f : Nat) (x : Facet) : (s.setFacet f x).uid = s.uid := rfl
@[simp] theorem setFacet_out (s : State) (f : Nat) (x : Facet) : (s.setFacet f x).out = s.out := rfl
@[simp] theorem setFacet_freeCtr (s : State) (f : Nat) (x : Facet) : (s.setFacet f x).freeCtr = s.freeCtr := rfl
@[simp] theorem setFacet_pending (s : State) (f : Nat) (x : Facet) : (s.setFacet f x).pending = s.pending := rfl
@[simp] theorem setFacet_groups (s : State) (f : Nat) (x : Facet) : (s.setFacet f x).groups = s.groups := rfl
@[simp] theorem setFacet_unwaited (s : State) (f : Nat) (x : Facet) : (s.setFacet f x).unwaited = s.unwaited := rfl
@[simp] theorem setFacet_arcTabs (s : State) (f : Nat) (x : Facet) : (s.setFacet f x).arcTabs = s.arcTabs := rfl
@[simp] theorem setFacet_past (s : State) (f : Nat) (x : Facet) : (s.setFacet f x).past = s.past := rfl
@[simp] theorem setFacet_watches (s : State) (f : Nat) (x : Facet) : (s.setFacet f x).watches = s.watches := rfl
@[simp] theorem setFacet_ptPlaces (s : State) (f : Nat) (x : Facet) : (s.setFacet f x).ptPlaces = s.ptPlaces := rfl
@[simp] theorem setFacet_bloom (s : State) (f : Nat) (x : Facet) : (s.setFacet f x).bloom = s.bloom := rfl
@[simp] theorem setFacet_dumping (s : State) (f : Nat) (x : Facet) : (s.setFacet f x).dumping = s.dumping := rfl
@[simp] theorem setFacet_dbgHeld (s : State) (f : Nat) (x : Facet) : (s.setFacet f x).dbgHeld = s.dbgHeld := rfl
@[simp] theorem setFacet_links (s : State) (f : Nat) (x : Facet) : (s.setFacet f x).links = s.links := rfl
@[simp] theorem setFacet_wtLeft (s : State) (f : Nat) (x : Facet) : (s.setFacet f x).wtLeft = s.wtLeft := rfl
@[simp] theorem setFacet_mosaic (s : State) (f : Nat) (x : Facet) : (s.setFacet f x).mosaic = s.mosaic := rfl
@[simp] theorem setFacet_adoptionSeen (s : State) (f : Nat) (x : Facet) : (s.setFacet f x).adoptionSeen = s.adoptionSeen := rfl
@[simp] theorem setFacet_ucVertex (s : State) (f : Nat) (x : Facet) : (s.setFacet f x).ucVertex = s.ucVertex := rfl

@[simp] theorem setPrt_part (s : State) (p : Nat) (x : Partition) : (s.setPrt p x).part = s.part := rfl
@[simp] theorem setPrt_time (s : State) (p : Nat) (x : Partition) : (s.setPrt p x).time = s.time := rfl
@[simp] theorem setPrt_regs (s : State) (p : Nat) (x : Partition) : (s.setPrt p x).regs = s.regs := rfl
@[simp] theorem setPrt_shadows (s : State) (p : Nat) (x : Partition) : (s.setPrt p x).shadows = s.shadows := rfl
@[simp] theorem setPrt_mem (s : State) (p : Nat) (x : Partition) : (s.setPrt p x).mem = s.mem := rfl
@[simp] theorem setPrt_imem (s : State) (p : Nat) (x : Partition) : (s.setPrt p x).imem = s.imem := rfl
@[simp] theorem setPrt_sram (s : State) (p : Nat) (x : Partition) : (s.setPrt p x).sram = s.sram := rfl
@[simp] theorem setPrt_lost (s : State) (p : Nat) (x : Partition) : (s.setPrt p x).lost = s.lost := rfl
@[simp] theorem setPrt_hop (s : State) (p : Nat) (x : Partition) : (s.setPrt p x).hop = s.hop := rfl
@[simp] theorem setPrt_host (s : State) (p : Nat) (x : Partition) : (s.setPrt p x).host = s.host := rfl
@[simp] theorem setPrt_ucMem (s : State) (p : Nat) (x : Partition) : (s.setPrt p x).ucMem = s.ucMem := rfl
@[simp] theorem setPrt_ucImem (s : State) (p : Nat) (x : Partition) : (s.setPrt p x).ucImem = s.ucImem := rfl
@[simp] theorem setPrt_ucSram (s : State) (p : Nat) (x : Partition) : (s.setPrt p x).ucSram = s.ucSram := rfl
@[simp] theorem setPrt_ecMem (s : State) (p : Nat) (x : Partition) : (s.setPrt p x).ecMem = s.ecMem := rfl
@[simp] theorem setPrt_ecImem (s : State) (p : Nat) (x : Partition) : (s.setPrt p x).ecImem = s.ecImem := rfl
@[simp] theorem setPrt_ecSram (s : State) (p : Nat) (x : Partition) : (s.setPrt p x).ecSram = s.ecSram := rfl
@[simp] theorem setPrt_dict (s : State) (p : Nat) (x : Partition) : (s.setPrt p x).dict = s.dict := rfl
@[simp] theorem setPrt_tags (s : State) (p : Nat) (x : Partition) : (s.setPrt p x).tags = s.tags := rfl
@[simp] theorem setPrt_errlog (s : State) (p : Nat) (x : Partition) : (s.setPrt p x).errlog = s.errlog := rfl
@[simp] theorem setPrt_spent (s : State) (p : Nat) (x : Partition) : (s.setPrt p x).spent = s.spent := rfl
@[simp] theorem setPrt_subs (s : State) (p : Nat) (x : Partition) : (s.setPrt p x).subs = s.subs := rfl
@[simp] theorem setPrt_facets (s : State) (p : Nat) (x : Partition) : (s.setPrt p x).facets = s.facets := rfl
@[simp] theorem setPrt_engineArcs (s : State) (p : Nat) (x : Partition) : (s.setPrt p x).engineArcs = s.engineArcs := rfl
@[simp] theorem setPrt_arcUc (s : State) (p : Nat) (x : Partition) : (s.setPrt p x).arcUc = s.arcUc := rfl
@[simp] theorem setPrt_arcEc (s : State) (p : Nat) (x : Partition) : (s.setPrt p x).arcEc = s.arcEc := rfl
@[simp] theorem setPrt_arcFails (s : State) (p : Nat) (x : Partition) : (s.setPrt p x).arcFails = s.arcFails := rfl
@[simp] theorem setPrt_selfAll (s : State) (p : Nat) (x : Partition) : (s.setPrt p x).selfAll = s.selfAll := rfl
@[simp] theorem setPrt_seams (s : State) (p : Nat) (x : Partition) : (s.setPrt p x).seams = s.seams := rfl
@[simp] theorem setPrt_taken (s : State) (p : Nat) (x : Partition) : (s.setPrt p x).taken = s.taken := rfl
@[simp] theorem setPrt_tables (s : State) (p : Nat) (x : Partition) : (s.setPrt p x).tables = s.tables := rfl
@[simp] theorem setPrt_routes (s : State) (p : Nat) (x : Partition) : (s.setPrt p x).routes = s.routes := rfl
@[simp] theorem setPrt_ops (s : State) (p : Nat) (x : Partition) : (s.setPrt p x).ops = s.ops := rfl
@[simp] theorem setPrt_xfers (s : State) (p : Nat) (x : Partition) : (s.setPrt p x).xfers = s.xfers := rfl
@[simp] theorem setPrt_portTags (s : State) (p : Nat) (x : Partition) : (s.setPrt p x).portTags = s.portTags := rfl
@[simp] theorem setPrt_tearAt (s : State) (p : Nat) (x : Partition) : (s.setPrt p x).tearAt = s.tearAt := rfl
@[simp] theorem setPrt_tearMask (s : State) (p : Nat) (x : Partition) : (s.setPrt p x).tearMask = s.tearMask := rfl
@[simp] theorem setPrt_everLocked (s : State) (p : Nat) (x : Partition) : (s.setPrt p x).everLocked = s.everLocked := rfl
@[simp] theorem setPrt_slew (s : State) (p : Nat) (x : Partition) : (s.setPrt p x).slew = s.slew := rfl
@[simp] theorem setPrt_slewTicks (s : State) (p : Nat) (x : Partition) : (s.setPrt p x).slewTicks = s.slewTicks := rfl
@[simp] theorem setPrt_leaves (s : State) (p : Nat) (x : Partition) : (s.setPrt p x).leaves = s.leaves := rfl
@[simp] theorem setPrt_tableFaulty (s : State) (p : Nat) (x : Partition) : (s.setPrt p x).tableFaulty = s.tableFaulty := rfl
@[simp] theorem setPrt_ptPool (s : State) (p : Nat) (x : Partition) : (s.setPrt p x).ptPool = s.ptPool := rfl
@[simp] theorem setPrt_shadowGib (s : State) (p : Nat) (x : Partition) : (s.setPrt p x).shadowGib = s.shadowGib := rfl
@[simp] theorem setPrt_holds (s : State) (p : Nat) (x : Partition) : (s.setPrt p x).holds = s.holds := rfl
@[simp] theorem setPrt_stages (s : State) (p : Nat) (x : Partition) : (s.setPrt p x).stages = s.stages := rfl
@[simp] theorem setPrt_moves (s : State) (p : Nat) (x : Partition) : (s.setPrt p x).moves = s.moves := rfl
@[simp] theorem setPrt_clocks (s : State) (p : Nat) (x : Partition) : (s.setPrt p x).clocks = s.clocks := rfl
@[simp] theorem setPrt_hopLost (s : State) (p : Nat) (x : Partition) : (s.setPrt p x).hopLost = s.hopLost := rfl
@[simp] theorem setPrt_flash (s : State) (p : Nat) (x : Partition) : (s.setPrt p x).flash = s.flash := rfl
@[simp] theorem setPrt_blmJob (s : State) (p : Nat) (x : Partition) : (s.setPrt p x).blmJob = s.blmJob := rfl
@[simp] theorem setPrt_cursor (s : State) (p : Nat) (x : Partition) : (s.setPrt p x).cursor = s.cursor := rfl
@[simp] theorem setPrt_kvPages (s : State) (p : Nat) (x : Partition) : (s.setPrt p x).kvPages = s.kvPages := rfl
@[simp] theorem setPrt_ranges (s : State) (p : Nat) (x : Partition) : (s.setPrt p x).ranges = s.ranges := rfl
@[simp] theorem setPrt_hashes (s : State) (p : Nat) (x : Partition) : (s.setPrt p x).hashes = s.hashes := rfl
@[simp] theorem setPrt_radix (s : State) (p : Nat) (x : Partition) : (s.setPrt p x).radix = s.radix := rfl
@[simp] theorem setPrt_salts (s : State) (p : Nat) (x : Partition) : (s.setPrt p x).salts = s.salts := rfl
@[simp] theorem setPrt_saltDue (s : State) (p : Nat) (x : Partition) : (s.setPrt p x).saltDue = s.saltDue := rfl
@[simp] theorem setPrt_keys (s : State) (p : Nat) (x : Partition) : (s.setPrt p x).keys = s.keys := rfl
@[simp] theorem setPrt_gens (s : State) (p : Nat) (x : Partition) : (s.setPrt p x).gens = s.gens := rfl
@[simp] theorem setPrt_aslots (s : State) (p : Nat) (x : Partition) : (s.setPrt p x).aslots = s.aslots := rfl
@[simp] theorem setPrt_jobs (s : State) (p : Nat) (x : Partition) : (s.setPrt p x).jobs = s.jobs := rfl
@[simp] theorem setPrt_activations (s : State) (p : Nat) (x : Partition) : (s.setPrt p x).activations = s.activations := rfl
@[simp] theorem setPrt_tickets (s : State) (p : Nat) (x : Partition) : (s.setPrt p x).tickets = s.tickets := rfl
@[simp] theorem setPrt_rails (s : State) (p : Nat) (x : Partition) : (s.setPrt p x).rails = s.rails := rfl
@[simp] theorem setPrt_rings (s : State) (p : Nat) (x : Partition) : (s.setPrt p x).rings = s.rings := rfl
@[simp] theorem setPrt_reasm (s : State) (p : Nat) (x : Partition) : (s.setPrt p x).reasm = s.reasm := rfl
@[simp] theorem setPrt_retired (s : State) (p : Nat) (x : Partition) : (s.setPrt p x).retired = s.retired := rfl
@[simp] theorem setPrt_kept (s : State) (p : Nat) (x : Partition) : (s.setPrt p x).kept = s.kept := rfl
@[simp] theorem setPrt_frontQ (s : State) (p : Nat) (x : Partition) : (s.setPrt p x).frontQ = s.frontQ := rfl
@[simp] theorem setPrt_adoption (s : State) (p : Nat) (x : Partition) : (s.setPrt p x).adoption = s.adoption := rfl
@[simp] theorem setPrt_dumps (s : State) (p : Nat) (x : Partition) : (s.setPrt p x).dumps = s.dumps := rfl
@[simp] theorem setPrt_dumpCopied (s : State) (p : Nat) (x : Partition) : (s.setPrt p x).dumpCopied = s.dumpCopied := rfl
@[simp] theorem setPrt_power (s : State) (p : Nat) (x : Partition) : (s.setPrt p x).power = s.power := rfl
@[simp] theorem setPrt_sec (s : State) (p : Nat) (x : Partition) : (s.setPrt p x).sec = s.sec := rfl
@[simp] theorem setPrt_boot (s : State) (p : Nat) (x : Partition) : (s.setPrt p x).boot = s.boot := rfl
@[simp] theorem setPrt_pins (s : State) (p : Nat) (x : Partition) : (s.setPrt p x).pins = s.pins := rfl
@[simp] theorem setPrt_sessions (s : State) (p : Nat) (x : Partition) : (s.setPrt p x).sessions = s.sessions := rfl
@[simp] theorem setPrt_answers (s : State) (p : Nat) (x : Partition) : (s.setPrt p x).answers = s.answers := rfl
@[simp] theorem setPrt_commits (s : State) (p : Nat) (x : Partition) : (s.setPrt p x).commits = s.commits := rfl
@[simp] theorem setPrt_inbox (s : State) (p : Nat) (x : Partition) : (s.setPrt p x).inbox = s.inbox := rfl
@[simp] theorem setPrt_apxReq (s : State) (p : Nat) (x : Partition) : (s.setPrt p x).apxReq = s.apxReq := rfl
@[simp] theorem setPrt_apxRsp (s : State) (p : Nat) (x : Partition) : (s.setPrt p x).apxRsp = s.apxRsp := rfl
@[simp] theorem setPrt_mclk (s : State) (p : Nat) (x : Partition) : (s.setPrt p x).mclk = s.mclk := rfl
@[simp] theorem setPrt_uid (s : State) (p : Nat) (x : Partition) : (s.setPrt p x).uid = s.uid := rfl
@[simp] theorem setPrt_out (s : State) (p : Nat) (x : Partition) : (s.setPrt p x).out = s.out := rfl
@[simp] theorem setPrt_freeCtr (s : State) (p : Nat) (x : Partition) : (s.setPrt p x).freeCtr = s.freeCtr := rfl
@[simp] theorem setPrt_pending (s : State) (p : Nat) (x : Partition) : (s.setPrt p x).pending = s.pending := rfl
@[simp] theorem setPrt_groups (s : State) (p : Nat) (x : Partition) : (s.setPrt p x).groups = s.groups := rfl
@[simp] theorem setPrt_unwaited (s : State) (p : Nat) (x : Partition) : (s.setPrt p x).unwaited = s.unwaited := rfl
@[simp] theorem setPrt_arcTabs (s : State) (p : Nat) (x : Partition) : (s.setPrt p x).arcTabs = s.arcTabs := rfl
@[simp] theorem setPrt_past (s : State) (p : Nat) (x : Partition) : (s.setPrt p x).past = s.past := rfl
@[simp] theorem setPrt_watches (s : State) (p : Nat) (x : Partition) : (s.setPrt p x).watches = s.watches := rfl
@[simp] theorem setPrt_ptPlaces (s : State) (p : Nat) (x : Partition) : (s.setPrt p x).ptPlaces = s.ptPlaces := rfl
@[simp] theorem setPrt_bloom (s : State) (p : Nat) (x : Partition) : (s.setPrt p x).bloom = s.bloom := rfl
@[simp] theorem setPrt_dumping (s : State) (p : Nat) (x : Partition) : (s.setPrt p x).dumping = s.dumping := rfl
@[simp] theorem setPrt_dbgHeld (s : State) (p : Nat) (x : Partition) : (s.setPrt p x).dbgHeld = s.dbgHeld := rfl
@[simp] theorem setPrt_links (s : State) (p : Nat) (x : Partition) : (s.setPrt p x).links = s.links := rfl
@[simp] theorem setPrt_wtLeft (s : State) (p : Nat) (x : Partition) : (s.setPrt p x).wtLeft = s.wtLeft := rfl
@[simp] theorem setPrt_mosaic (s : State) (p : Nat) (x : Partition) : (s.setPrt p x).mosaic = s.mosaic := rfl
@[simp] theorem setPrt_adoptionSeen (s : State) (p : Nat) (x : Partition) : (s.setPrt p x).adoptionSeen = s.adoptionSeen := rfl
@[simp] theorem setPrt_ucVertex (s : State) (p : Nat) (x : Partition) : (s.setPrt p x).ucVertex = s.ucVertex := rfl

@[simp] theorem setTicket_part (s : State) (k : Nat) (x : Ticket) : (s.setTicket k x).part = s.part := rfl
@[simp] theorem setTicket_time (s : State) (k : Nat) (x : Ticket) : (s.setTicket k x).time = s.time := rfl
@[simp] theorem setTicket_regs (s : State) (k : Nat) (x : Ticket) : (s.setTicket k x).regs = s.regs := rfl
@[simp] theorem setTicket_shadows (s : State) (k : Nat) (x : Ticket) : (s.setTicket k x).shadows = s.shadows := rfl
@[simp] theorem setTicket_mem (s : State) (k : Nat) (x : Ticket) : (s.setTicket k x).mem = s.mem := rfl
@[simp] theorem setTicket_imem (s : State) (k : Nat) (x : Ticket) : (s.setTicket k x).imem = s.imem := rfl
@[simp] theorem setTicket_sram (s : State) (k : Nat) (x : Ticket) : (s.setTicket k x).sram = s.sram := rfl
@[simp] theorem setTicket_lost (s : State) (k : Nat) (x : Ticket) : (s.setTicket k x).lost = s.lost := rfl
@[simp] theorem setTicket_hop (s : State) (k : Nat) (x : Ticket) : (s.setTicket k x).hop = s.hop := rfl
@[simp] theorem setTicket_host (s : State) (k : Nat) (x : Ticket) : (s.setTicket k x).host = s.host := rfl
@[simp] theorem setTicket_ucMem (s : State) (k : Nat) (x : Ticket) : (s.setTicket k x).ucMem = s.ucMem := rfl
@[simp] theorem setTicket_ucImem (s : State) (k : Nat) (x : Ticket) : (s.setTicket k x).ucImem = s.ucImem := rfl
@[simp] theorem setTicket_ucSram (s : State) (k : Nat) (x : Ticket) : (s.setTicket k x).ucSram = s.ucSram := rfl
@[simp] theorem setTicket_ecMem (s : State) (k : Nat) (x : Ticket) : (s.setTicket k x).ecMem = s.ecMem := rfl
@[simp] theorem setTicket_ecImem (s : State) (k : Nat) (x : Ticket) : (s.setTicket k x).ecImem = s.ecImem := rfl
@[simp] theorem setTicket_ecSram (s : State) (k : Nat) (x : Ticket) : (s.setTicket k x).ecSram = s.ecSram := rfl
@[simp] theorem setTicket_dict (s : State) (k : Nat) (x : Ticket) : (s.setTicket k x).dict = s.dict := rfl
@[simp] theorem setTicket_tags (s : State) (k : Nat) (x : Ticket) : (s.setTicket k x).tags = s.tags := rfl
@[simp] theorem setTicket_errlog (s : State) (k : Nat) (x : Ticket) : (s.setTicket k x).errlog = s.errlog := rfl
@[simp] theorem setTicket_spent (s : State) (k : Nat) (x : Ticket) : (s.setTicket k x).spent = s.spent := rfl
@[simp] theorem setTicket_subs (s : State) (k : Nat) (x : Ticket) : (s.setTicket k x).subs = s.subs := rfl
@[simp] theorem setTicket_facets (s : State) (k : Nat) (x : Ticket) : (s.setTicket k x).facets = s.facets := rfl
@[simp] theorem setTicket_engineArcs (s : State) (k : Nat) (x : Ticket) : (s.setTicket k x).engineArcs = s.engineArcs := rfl
@[simp] theorem setTicket_arcUc (s : State) (k : Nat) (x : Ticket) : (s.setTicket k x).arcUc = s.arcUc := rfl
@[simp] theorem setTicket_arcEc (s : State) (k : Nat) (x : Ticket) : (s.setTicket k x).arcEc = s.arcEc := rfl
@[simp] theorem setTicket_arcFails (s : State) (k : Nat) (x : Ticket) : (s.setTicket k x).arcFails = s.arcFails := rfl
@[simp] theorem setTicket_selfAll (s : State) (k : Nat) (x : Ticket) : (s.setTicket k x).selfAll = s.selfAll := rfl
@[simp] theorem setTicket_seams (s : State) (k : Nat) (x : Ticket) : (s.setTicket k x).seams = s.seams := rfl
@[simp] theorem setTicket_taken (s : State) (k : Nat) (x : Ticket) : (s.setTicket k x).taken = s.taken := rfl
@[simp] theorem setTicket_tables (s : State) (k : Nat) (x : Ticket) : (s.setTicket k x).tables = s.tables := rfl
@[simp] theorem setTicket_routes (s : State) (k : Nat) (x : Ticket) : (s.setTicket k x).routes = s.routes := rfl
@[simp] theorem setTicket_ops (s : State) (k : Nat) (x : Ticket) : (s.setTicket k x).ops = s.ops := rfl
@[simp] theorem setTicket_xfers (s : State) (k : Nat) (x : Ticket) : (s.setTicket k x).xfers = s.xfers := rfl
@[simp] theorem setTicket_portTags (s : State) (k : Nat) (x : Ticket) : (s.setTicket k x).portTags = s.portTags := rfl
@[simp] theorem setTicket_tearAt (s : State) (k : Nat) (x : Ticket) : (s.setTicket k x).tearAt = s.tearAt := rfl
@[simp] theorem setTicket_tearMask (s : State) (k : Nat) (x : Ticket) : (s.setTicket k x).tearMask = s.tearMask := rfl
@[simp] theorem setTicket_everLocked (s : State) (k : Nat) (x : Ticket) : (s.setTicket k x).everLocked = s.everLocked := rfl
@[simp] theorem setTicket_slew (s : State) (k : Nat) (x : Ticket) : (s.setTicket k x).slew = s.slew := rfl
@[simp] theorem setTicket_slewTicks (s : State) (k : Nat) (x : Ticket) : (s.setTicket k x).slewTicks = s.slewTicks := rfl
@[simp] theorem setTicket_parts (s : State) (k : Nat) (x : Ticket) : (s.setTicket k x).parts = s.parts := rfl
@[simp] theorem setTicket_leaves (s : State) (k : Nat) (x : Ticket) : (s.setTicket k x).leaves = s.leaves := rfl
@[simp] theorem setTicket_tableFaulty (s : State) (k : Nat) (x : Ticket) : (s.setTicket k x).tableFaulty = s.tableFaulty := rfl
@[simp] theorem setTicket_ptPool (s : State) (k : Nat) (x : Ticket) : (s.setTicket k x).ptPool = s.ptPool := rfl
@[simp] theorem setTicket_shadowGib (s : State) (k : Nat) (x : Ticket) : (s.setTicket k x).shadowGib = s.shadowGib := rfl
@[simp] theorem setTicket_holds (s : State) (k : Nat) (x : Ticket) : (s.setTicket k x).holds = s.holds := rfl
@[simp] theorem setTicket_stages (s : State) (k : Nat) (x : Ticket) : (s.setTicket k x).stages = s.stages := rfl
@[simp] theorem setTicket_moves (s : State) (k : Nat) (x : Ticket) : (s.setTicket k x).moves = s.moves := rfl
@[simp] theorem setTicket_clocks (s : State) (k : Nat) (x : Ticket) : (s.setTicket k x).clocks = s.clocks := rfl
@[simp] theorem setTicket_hopLost (s : State) (k : Nat) (x : Ticket) : (s.setTicket k x).hopLost = s.hopLost := rfl
@[simp] theorem setTicket_flash (s : State) (k : Nat) (x : Ticket) : (s.setTicket k x).flash = s.flash := rfl
@[simp] theorem setTicket_blmJob (s : State) (k : Nat) (x : Ticket) : (s.setTicket k x).blmJob = s.blmJob := rfl
@[simp] theorem setTicket_cursor (s : State) (k : Nat) (x : Ticket) : (s.setTicket k x).cursor = s.cursor := rfl
@[simp] theorem setTicket_kvPages (s : State) (k : Nat) (x : Ticket) : (s.setTicket k x).kvPages = s.kvPages := rfl
@[simp] theorem setTicket_ranges (s : State) (k : Nat) (x : Ticket) : (s.setTicket k x).ranges = s.ranges := rfl
@[simp] theorem setTicket_hashes (s : State) (k : Nat) (x : Ticket) : (s.setTicket k x).hashes = s.hashes := rfl
@[simp] theorem setTicket_radix (s : State) (k : Nat) (x : Ticket) : (s.setTicket k x).radix = s.radix := rfl
@[simp] theorem setTicket_salts (s : State) (k : Nat) (x : Ticket) : (s.setTicket k x).salts = s.salts := rfl
@[simp] theorem setTicket_saltDue (s : State) (k : Nat) (x : Ticket) : (s.setTicket k x).saltDue = s.saltDue := rfl
@[simp] theorem setTicket_keys (s : State) (k : Nat) (x : Ticket) : (s.setTicket k x).keys = s.keys := rfl
@[simp] theorem setTicket_gens (s : State) (k : Nat) (x : Ticket) : (s.setTicket k x).gens = s.gens := rfl
@[simp] theorem setTicket_aslots (s : State) (k : Nat) (x : Ticket) : (s.setTicket k x).aslots = s.aslots := rfl
@[simp] theorem setTicket_jobs (s : State) (k : Nat) (x : Ticket) : (s.setTicket k x).jobs = s.jobs := rfl
@[simp] theorem setTicket_activations (s : State) (k : Nat) (x : Ticket) : (s.setTicket k x).activations = s.activations := rfl
@[simp] theorem setTicket_rails (s : State) (k : Nat) (x : Ticket) : (s.setTicket k x).rails = s.rails := rfl
@[simp] theorem setTicket_rings (s : State) (k : Nat) (x : Ticket) : (s.setTicket k x).rings = s.rings := rfl
@[simp] theorem setTicket_reasm (s : State) (k : Nat) (x : Ticket) : (s.setTicket k x).reasm = s.reasm := rfl
@[simp] theorem setTicket_retired (s : State) (k : Nat) (x : Ticket) : (s.setTicket k x).retired = s.retired := rfl
@[simp] theorem setTicket_kept (s : State) (k : Nat) (x : Ticket) : (s.setTicket k x).kept = s.kept := rfl
@[simp] theorem setTicket_frontQ (s : State) (k : Nat) (x : Ticket) : (s.setTicket k x).frontQ = s.frontQ := rfl
@[simp] theorem setTicket_adoption (s : State) (k : Nat) (x : Ticket) : (s.setTicket k x).adoption = s.adoption := rfl
@[simp] theorem setTicket_dumps (s : State) (k : Nat) (x : Ticket) : (s.setTicket k x).dumps = s.dumps := rfl
@[simp] theorem setTicket_dumpCopied (s : State) (k : Nat) (x : Ticket) : (s.setTicket k x).dumpCopied = s.dumpCopied := rfl
@[simp] theorem setTicket_power (s : State) (k : Nat) (x : Ticket) : (s.setTicket k x).power = s.power := rfl
@[simp] theorem setTicket_sec (s : State) (k : Nat) (x : Ticket) : (s.setTicket k x).sec = s.sec := rfl
@[simp] theorem setTicket_boot (s : State) (k : Nat) (x : Ticket) : (s.setTicket k x).boot = s.boot := rfl
@[simp] theorem setTicket_pins (s : State) (k : Nat) (x : Ticket) : (s.setTicket k x).pins = s.pins := rfl
@[simp] theorem setTicket_sessions (s : State) (k : Nat) (x : Ticket) : (s.setTicket k x).sessions = s.sessions := rfl
@[simp] theorem setTicket_answers (s : State) (k : Nat) (x : Ticket) : (s.setTicket k x).answers = s.answers := rfl
@[simp] theorem setTicket_commits (s : State) (k : Nat) (x : Ticket) : (s.setTicket k x).commits = s.commits := rfl
@[simp] theorem setTicket_inbox (s : State) (k : Nat) (x : Ticket) : (s.setTicket k x).inbox = s.inbox := rfl
@[simp] theorem setTicket_apxReq (s : State) (k : Nat) (x : Ticket) : (s.setTicket k x).apxReq = s.apxReq := rfl
@[simp] theorem setTicket_apxRsp (s : State) (k : Nat) (x : Ticket) : (s.setTicket k x).apxRsp = s.apxRsp := rfl
@[simp] theorem setTicket_mclk (s : State) (k : Nat) (x : Ticket) : (s.setTicket k x).mclk = s.mclk := rfl
@[simp] theorem setTicket_uid (s : State) (k : Nat) (x : Ticket) : (s.setTicket k x).uid = s.uid := rfl
@[simp] theorem setTicket_out (s : State) (k : Nat) (x : Ticket) : (s.setTicket k x).out = s.out := rfl
@[simp] theorem setTicket_freeCtr (s : State) (k : Nat) (x : Ticket) : (s.setTicket k x).freeCtr = s.freeCtr := rfl
@[simp] theorem setTicket_pending (s : State) (k : Nat) (x : Ticket) : (s.setTicket k x).pending = s.pending := rfl
@[simp] theorem setTicket_groups (s : State) (k : Nat) (x : Ticket) : (s.setTicket k x).groups = s.groups := rfl
@[simp] theorem setTicket_unwaited (s : State) (k : Nat) (x : Ticket) : (s.setTicket k x).unwaited = s.unwaited := rfl
@[simp] theorem setTicket_arcTabs (s : State) (k : Nat) (x : Ticket) : (s.setTicket k x).arcTabs = s.arcTabs := rfl
@[simp] theorem setTicket_past (s : State) (k : Nat) (x : Ticket) : (s.setTicket k x).past = s.past := rfl
@[simp] theorem setTicket_watches (s : State) (k : Nat) (x : Ticket) : (s.setTicket k x).watches = s.watches := rfl
@[simp] theorem setTicket_ptPlaces (s : State) (k : Nat) (x : Ticket) : (s.setTicket k x).ptPlaces = s.ptPlaces := rfl
@[simp] theorem setTicket_bloom (s : State) (k : Nat) (x : Ticket) : (s.setTicket k x).bloom = s.bloom := rfl
@[simp] theorem setTicket_dumping (s : State) (k : Nat) (x : Ticket) : (s.setTicket k x).dumping = s.dumping := rfl
@[simp] theorem setTicket_dbgHeld (s : State) (k : Nat) (x : Ticket) : (s.setTicket k x).dbgHeld = s.dbgHeld := rfl
@[simp] theorem setTicket_links (s : State) (k : Nat) (x : Ticket) : (s.setTicket k x).links = s.links := rfl
@[simp] theorem setTicket_wtLeft (s : State) (k : Nat) (x : Ticket) : (s.setTicket k x).wtLeft = s.wtLeft := rfl
@[simp] theorem setTicket_mosaic (s : State) (k : Nat) (x : Ticket) : (s.setTicket k x).mosaic = s.mosaic := rfl
@[simp] theorem setTicket_adoptionSeen (s : State) (k : Nat) (x : Ticket) : (s.setTicket k x).adoptionSeen = s.adoptionSeen := rfl
@[simp] theorem setTicket_ucVertex (s : State) (k : Nat) (x : Ticket) : (s.setTicket k x).ucVertex = s.ucVertex := rfl

@[simp] theorem setD_part (s : State) (index sub : Nat) (v : DVal) : (s.setD index sub v).part = s.part := by unfold State.setD; split <;> rfl
@[simp] theorem setD_time (s : State) (index sub : Nat) (v : DVal) : (s.setD index sub v).time = s.time := by unfold State.setD; split <;> rfl
@[simp] theorem setD_regs (s : State) (index sub : Nat) (v : DVal) : (s.setD index sub v).regs = s.regs := by unfold State.setD; split <;> rfl
@[simp] theorem setD_shadows (s : State) (index sub : Nat) (v : DVal) : (s.setD index sub v).shadows = s.shadows := by unfold State.setD; split <;> rfl
@[simp] theorem setD_mem (s : State) (index sub : Nat) (v : DVal) : (s.setD index sub v).mem = s.mem := by unfold State.setD; split <;> rfl
@[simp] theorem setD_imem (s : State) (index sub : Nat) (v : DVal) : (s.setD index sub v).imem = s.imem := by unfold State.setD; split <;> rfl
@[simp] theorem setD_sram (s : State) (index sub : Nat) (v : DVal) : (s.setD index sub v).sram = s.sram := by unfold State.setD; split <;> rfl
@[simp] theorem setD_lost (s : State) (index sub : Nat) (v : DVal) : (s.setD index sub v).lost = s.lost := by unfold State.setD; split <;> rfl
@[simp] theorem setD_hop (s : State) (index sub : Nat) (v : DVal) : (s.setD index sub v).hop = s.hop := by unfold State.setD; split <;> rfl
@[simp] theorem setD_host (s : State) (index sub : Nat) (v : DVal) : (s.setD index sub v).host = s.host := by unfold State.setD; split <;> rfl
@[simp] theorem setD_ucMem (s : State) (index sub : Nat) (v : DVal) : (s.setD index sub v).ucMem = s.ucMem := by unfold State.setD; split <;> rfl
@[simp] theorem setD_ucImem (s : State) (index sub : Nat) (v : DVal) : (s.setD index sub v).ucImem = s.ucImem := by unfold State.setD; split <;> rfl
@[simp] theorem setD_ucSram (s : State) (index sub : Nat) (v : DVal) : (s.setD index sub v).ucSram = s.ucSram := by unfold State.setD; split <;> rfl
@[simp] theorem setD_ecMem (s : State) (index sub : Nat) (v : DVal) : (s.setD index sub v).ecMem = s.ecMem := by unfold State.setD; split <;> rfl
@[simp] theorem setD_ecImem (s : State) (index sub : Nat) (v : DVal) : (s.setD index sub v).ecImem = s.ecImem := by unfold State.setD; split <;> rfl
@[simp] theorem setD_ecSram (s : State) (index sub : Nat) (v : DVal) : (s.setD index sub v).ecSram = s.ecSram := by unfold State.setD; split <;> rfl
@[simp] theorem setD_errlog (s : State) (index sub : Nat) (v : DVal) : (s.setD index sub v).errlog = s.errlog := by unfold State.setD; split <;> rfl
@[simp] theorem setD_spent (s : State) (index sub : Nat) (v : DVal) : (s.setD index sub v).spent = s.spent := by unfold State.setD; split <;> rfl
@[simp] theorem setD_subs (s : State) (index sub : Nat) (v : DVal) : (s.setD index sub v).subs = s.subs := by unfold State.setD; split <;> rfl
@[simp] theorem setD_facets (s : State) (index sub : Nat) (v : DVal) : (s.setD index sub v).facets = s.facets := by unfold State.setD; split <;> rfl
@[simp] theorem setD_engineArcs (s : State) (index sub : Nat) (v : DVal) : (s.setD index sub v).engineArcs = s.engineArcs := by unfold State.setD; split <;> rfl
@[simp] theorem setD_arcUc (s : State) (index sub : Nat) (v : DVal) : (s.setD index sub v).arcUc = s.arcUc := by unfold State.setD; split <;> rfl
@[simp] theorem setD_arcEc (s : State) (index sub : Nat) (v : DVal) : (s.setD index sub v).arcEc = s.arcEc := by unfold State.setD; split <;> rfl
@[simp] theorem setD_arcFails (s : State) (index sub : Nat) (v : DVal) : (s.setD index sub v).arcFails = s.arcFails := by unfold State.setD; split <;> rfl
@[simp] theorem setD_selfAll (s : State) (index sub : Nat) (v : DVal) : (s.setD index sub v).selfAll = s.selfAll := by unfold State.setD; split <;> rfl
@[simp] theorem setD_seams (s : State) (index sub : Nat) (v : DVal) : (s.setD index sub v).seams = s.seams := by unfold State.setD; split <;> rfl
@[simp] theorem setD_taken (s : State) (index sub : Nat) (v : DVal) : (s.setD index sub v).taken = s.taken := by unfold State.setD; split <;> rfl
@[simp] theorem setD_tables (s : State) (index sub : Nat) (v : DVal) : (s.setD index sub v).tables = s.tables := by unfold State.setD; split <;> rfl
@[simp] theorem setD_routes (s : State) (index sub : Nat) (v : DVal) : (s.setD index sub v).routes = s.routes := by unfold State.setD; split <;> rfl
@[simp] theorem setD_ops (s : State) (index sub : Nat) (v : DVal) : (s.setD index sub v).ops = s.ops := by unfold State.setD; split <;> rfl
@[simp] theorem setD_xfers (s : State) (index sub : Nat) (v : DVal) : (s.setD index sub v).xfers = s.xfers := by unfold State.setD; split <;> rfl
@[simp] theorem setD_portTags (s : State) (index sub : Nat) (v : DVal) : (s.setD index sub v).portTags = s.portTags := by unfold State.setD; split <;> rfl
@[simp] theorem setD_tearAt (s : State) (index sub : Nat) (v : DVal) : (s.setD index sub v).tearAt = s.tearAt := by unfold State.setD; split <;> rfl
@[simp] theorem setD_tearMask (s : State) (index sub : Nat) (v : DVal) : (s.setD index sub v).tearMask = s.tearMask := by unfold State.setD; split <;> rfl
@[simp] theorem setD_everLocked (s : State) (index sub : Nat) (v : DVal) : (s.setD index sub v).everLocked = s.everLocked := by unfold State.setD; split <;> rfl
@[simp] theorem setD_slew (s : State) (index sub : Nat) (v : DVal) : (s.setD index sub v).slew = s.slew := by unfold State.setD; split <;> rfl
@[simp] theorem setD_slewTicks (s : State) (index sub : Nat) (v : DVal) : (s.setD index sub v).slewTicks = s.slewTicks := by unfold State.setD; split <;> rfl
@[simp] theorem setD_parts (s : State) (index sub : Nat) (v : DVal) : (s.setD index sub v).parts = s.parts := by unfold State.setD; split <;> rfl
@[simp] theorem setD_leaves (s : State) (index sub : Nat) (v : DVal) : (s.setD index sub v).leaves = s.leaves := by unfold State.setD; split <;> rfl
@[simp] theorem setD_tableFaulty (s : State) (index sub : Nat) (v : DVal) : (s.setD index sub v).tableFaulty = s.tableFaulty := by unfold State.setD; split <;> rfl
@[simp] theorem setD_ptPool (s : State) (index sub : Nat) (v : DVal) : (s.setD index sub v).ptPool = s.ptPool := by unfold State.setD; split <;> rfl
@[simp] theorem setD_shadowGib (s : State) (index sub : Nat) (v : DVal) : (s.setD index sub v).shadowGib = s.shadowGib := by unfold State.setD; split <;> rfl
@[simp] theorem setD_holds (s : State) (index sub : Nat) (v : DVal) : (s.setD index sub v).holds = s.holds := by unfold State.setD; split <;> rfl
@[simp] theorem setD_stages (s : State) (index sub : Nat) (v : DVal) : (s.setD index sub v).stages = s.stages := by unfold State.setD; split <;> rfl
@[simp] theorem setD_moves (s : State) (index sub : Nat) (v : DVal) : (s.setD index sub v).moves = s.moves := by unfold State.setD; split <;> rfl
@[simp] theorem setD_clocks (s : State) (index sub : Nat) (v : DVal) : (s.setD index sub v).clocks = s.clocks := by unfold State.setD; split <;> rfl
@[simp] theorem setD_hopLost (s : State) (index sub : Nat) (v : DVal) : (s.setD index sub v).hopLost = s.hopLost := by unfold State.setD; split <;> rfl
@[simp] theorem setD_flash (s : State) (index sub : Nat) (v : DVal) : (s.setD index sub v).flash = s.flash := by unfold State.setD; split <;> rfl
@[simp] theorem setD_blmJob (s : State) (index sub : Nat) (v : DVal) : (s.setD index sub v).blmJob = s.blmJob := by unfold State.setD; split <;> rfl
@[simp] theorem setD_cursor (s : State) (index sub : Nat) (v : DVal) : (s.setD index sub v).cursor = s.cursor := by unfold State.setD; split <;> rfl
@[simp] theorem setD_kvPages (s : State) (index sub : Nat) (v : DVal) : (s.setD index sub v).kvPages = s.kvPages := by unfold State.setD; split <;> rfl
@[simp] theorem setD_ranges (s : State) (index sub : Nat) (v : DVal) : (s.setD index sub v).ranges = s.ranges := by unfold State.setD; split <;> rfl
@[simp] theorem setD_hashes (s : State) (index sub : Nat) (v : DVal) : (s.setD index sub v).hashes = s.hashes := by unfold State.setD; split <;> rfl
@[simp] theorem setD_radix (s : State) (index sub : Nat) (v : DVal) : (s.setD index sub v).radix = s.radix := by unfold State.setD; split <;> rfl
@[simp] theorem setD_salts (s : State) (index sub : Nat) (v : DVal) : (s.setD index sub v).salts = s.salts := by unfold State.setD; split <;> rfl
@[simp] theorem setD_saltDue (s : State) (index sub : Nat) (v : DVal) : (s.setD index sub v).saltDue = s.saltDue := by unfold State.setD; split <;> rfl
@[simp] theorem setD_keys (s : State) (index sub : Nat) (v : DVal) : (s.setD index sub v).keys = s.keys := by unfold State.setD; split <;> rfl
@[simp] theorem setD_gens (s : State) (index sub : Nat) (v : DVal) : (s.setD index sub v).gens = s.gens := by unfold State.setD; split <;> rfl
@[simp] theorem setD_aslots (s : State) (index sub : Nat) (v : DVal) : (s.setD index sub v).aslots = s.aslots := by unfold State.setD; split <;> rfl
@[simp] theorem setD_jobs (s : State) (index sub : Nat) (v : DVal) : (s.setD index sub v).jobs = s.jobs := by unfold State.setD; split <;> rfl
@[simp] theorem setD_activations (s : State) (index sub : Nat) (v : DVal) : (s.setD index sub v).activations = s.activations := by unfold State.setD; split <;> rfl
@[simp] theorem setD_tickets (s : State) (index sub : Nat) (v : DVal) : (s.setD index sub v).tickets = s.tickets := by unfold State.setD; split <;> rfl
@[simp] theorem setD_rails (s : State) (index sub : Nat) (v : DVal) : (s.setD index sub v).rails = s.rails := by unfold State.setD; split <;> rfl
@[simp] theorem setD_rings (s : State) (index sub : Nat) (v : DVal) : (s.setD index sub v).rings = s.rings := by unfold State.setD; split <;> rfl
@[simp] theorem setD_reasm (s : State) (index sub : Nat) (v : DVal) : (s.setD index sub v).reasm = s.reasm := by unfold State.setD; split <;> rfl
@[simp] theorem setD_retired (s : State) (index sub : Nat) (v : DVal) : (s.setD index sub v).retired = s.retired := by unfold State.setD; split <;> rfl
@[simp] theorem setD_kept (s : State) (index sub : Nat) (v : DVal) : (s.setD index sub v).kept = s.kept := by unfold State.setD; split <;> rfl
@[simp] theorem setD_frontQ (s : State) (index sub : Nat) (v : DVal) : (s.setD index sub v).frontQ = s.frontQ := by unfold State.setD; split <;> rfl
@[simp] theorem setD_adoption (s : State) (index sub : Nat) (v : DVal) : (s.setD index sub v).adoption = s.adoption := by unfold State.setD; split <;> rfl
@[simp] theorem setD_dumps (s : State) (index sub : Nat) (v : DVal) : (s.setD index sub v).dumps = s.dumps := by unfold State.setD; split <;> rfl
@[simp] theorem setD_dumpCopied (s : State) (index sub : Nat) (v : DVal) : (s.setD index sub v).dumpCopied = s.dumpCopied := by unfold State.setD; split <;> rfl
@[simp] theorem setD_power (s : State) (index sub : Nat) (v : DVal) : (s.setD index sub v).power = s.power := by unfold State.setD; split <;> rfl
@[simp] theorem setD_sec (s : State) (index sub : Nat) (v : DVal) : (s.setD index sub v).sec = s.sec := by unfold State.setD; split <;> rfl
@[simp] theorem setD_boot (s : State) (index sub : Nat) (v : DVal) : (s.setD index sub v).boot = s.boot := by unfold State.setD; split <;> rfl
@[simp] theorem setD_pins (s : State) (index sub : Nat) (v : DVal) : (s.setD index sub v).pins = s.pins := by unfold State.setD; split <;> rfl
@[simp] theorem setD_sessions (s : State) (index sub : Nat) (v : DVal) : (s.setD index sub v).sessions = s.sessions := by unfold State.setD; split <;> rfl
@[simp] theorem setD_answers (s : State) (index sub : Nat) (v : DVal) : (s.setD index sub v).answers = s.answers := by unfold State.setD; split <;> rfl
@[simp] theorem setD_commits (s : State) (index sub : Nat) (v : DVal) : (s.setD index sub v).commits = s.commits := by unfold State.setD; split <;> rfl
@[simp] theorem setD_inbox (s : State) (index sub : Nat) (v : DVal) : (s.setD index sub v).inbox = s.inbox := by unfold State.setD; split <;> rfl
@[simp] theorem setD_apxReq (s : State) (index sub : Nat) (v : DVal) : (s.setD index sub v).apxReq = s.apxReq := by unfold State.setD; split <;> rfl
@[simp] theorem setD_apxRsp (s : State) (index sub : Nat) (v : DVal) : (s.setD index sub v).apxRsp = s.apxRsp := by unfold State.setD; split <;> rfl
@[simp] theorem setD_mclk (s : State) (index sub : Nat) (v : DVal) : (s.setD index sub v).mclk = s.mclk := by unfold State.setD; split <;> rfl
@[simp] theorem setD_uid (s : State) (index sub : Nat) (v : DVal) : (s.setD index sub v).uid = s.uid := by unfold State.setD; split <;> rfl
@[simp] theorem setD_out (s : State) (index sub : Nat) (v : DVal) : (s.setD index sub v).out = s.out := by unfold State.setD; split <;> rfl
@[simp] theorem setD_freeCtr (s : State) (index sub : Nat) (v : DVal) : (s.setD index sub v).freeCtr = s.freeCtr := by unfold State.setD; split <;> rfl
@[simp] theorem setD_pending (s : State) (index sub : Nat) (v : DVal) : (s.setD index sub v).pending = s.pending := by unfold State.setD; split <;> rfl
@[simp] theorem setD_groups (s : State) (index sub : Nat) (v : DVal) : (s.setD index sub v).groups = s.groups := by unfold State.setD; split <;> rfl
@[simp] theorem setD_unwaited (s : State) (index sub : Nat) (v : DVal) : (s.setD index sub v).unwaited = s.unwaited := by unfold State.setD; split <;> rfl
@[simp] theorem setD_arcTabs (s : State) (index sub : Nat) (v : DVal) : (s.setD index sub v).arcTabs = s.arcTabs := by unfold State.setD; split <;> rfl
@[simp] theorem setD_past (s : State) (index sub : Nat) (v : DVal) : (s.setD index sub v).past = s.past := by unfold State.setD; split <;> rfl
@[simp] theorem setD_watches (s : State) (index sub : Nat) (v : DVal) : (s.setD index sub v).watches = s.watches := by unfold State.setD; split <;> rfl
@[simp] theorem setD_ptPlaces (s : State) (index sub : Nat) (v : DVal) : (s.setD index sub v).ptPlaces = s.ptPlaces := by unfold State.setD; split <;> rfl
@[simp] theorem setD_bloom (s : State) (index sub : Nat) (v : DVal) : (s.setD index sub v).bloom = s.bloom := by unfold State.setD; split <;> rfl
@[simp] theorem setD_dumping (s : State) (index sub : Nat) (v : DVal) : (s.setD index sub v).dumping = s.dumping := by unfold State.setD; split <;> rfl
@[simp] theorem setD_dbgHeld (s : State) (index sub : Nat) (v : DVal) : (s.setD index sub v).dbgHeld = s.dbgHeld := by unfold State.setD; split <;> rfl

/-! ### Derived reads across the other updates -/

@[simp] theorem rd_setFacet (s : State) (f' : Nat) (x' : Facet) (c : Card) (i : Nat) : (s.setFacet f' x').rd c i = s.rd c i := rfl
@[simp] theorem gf_setFacet (s : State) (f' : Nat) (x' : Facet) (f : Fld) (i : Nat) : (s.setFacet f' x').gf f i = s.gf f i := rfl
@[simp] theorem prt_setFacet (s : State) (f' : Nat) (x' : Facet) (p : Nat) : (s.setFacet f' x').prt p = s.prt p := rfl
@[simp] theorem ticket_setFacet (s : State) (f' : Nat) (x' : Facet) (k : Nat) : (s.setFacet f' x').ticket k = s.ticket k := rfl
@[simp] theorem dval_setFacet (s : State) (f' : Nat) (x' : Facet) (i j : Nat) : (s.setFacet f' x').dval i j = s.dval i j := rfl
@[simp] theorem dnum_setFacet (s : State) (f' : Nat) (x' : Facet) (i j : Nat) : (s.setFacet f' x').dnum i j = s.dnum i j := rfl

@[simp] theorem rd_setPrt (s : State) (p' : Nat) (x' : Partition) (c : Card) (i : Nat) : (s.setPrt p' x').rd c i = s.rd c i := rfl
@[simp] theorem gf_setPrt (s : State) (p' : Nat) (x' : Partition) (f : Fld) (i : Nat) : (s.setPrt p' x').gf f i = s.gf f i := rfl
@[simp] theorem facet_setPrt (s : State) (p' : Nat) (x' : Partition) (f : Nat) : (s.setPrt p' x').facet f = s.facet f := rfl
@[simp] theorem ticket_setPrt (s : State) (p' : Nat) (x' : Partition) (k : Nat) : (s.setPrt p' x').ticket k = s.ticket k := rfl
@[simp] theorem dval_setPrt (s : State) (p' : Nat) (x' : Partition) (i j : Nat) : (s.setPrt p' x').dval i j = s.dval i j := rfl
@[simp] theorem dnum_setPrt (s : State) (p' : Nat) (x' : Partition) (i j : Nat) : (s.setPrt p' x').dnum i j = s.dnum i j := rfl

@[simp] theorem rd_setTicket (s : State) (k' : Nat) (x' : Ticket) (c : Card) (i : Nat) : (s.setTicket k' x').rd c i = s.rd c i := rfl
@[simp] theorem gf_setTicket (s : State) (k' : Nat) (x' : Ticket) (f : Fld) (i : Nat) : (s.setTicket k' x').gf f i = s.gf f i := rfl
@[simp] theorem facet_setTicket (s : State) (k' : Nat) (x' : Ticket) (f : Nat) : (s.setTicket k' x').facet f = s.facet f := rfl
@[simp] theorem prt_setTicket (s : State) (k' : Nat) (x' : Ticket) (p : Nat) : (s.setTicket k' x').prt p = s.prt p := rfl
@[simp] theorem dval_setTicket (s : State) (k' : Nat) (x' : Ticket) (i j : Nat) : (s.setTicket k' x').dval i j = s.dval i j := rfl
@[simp] theorem dnum_setTicket (s : State) (k' : Nat) (x' : Ticket) (i j : Nat) : (s.setTicket k' x').dnum i j = s.dnum i j := rfl

@[simp] theorem rd_emit (s : State) (o' : Output) (c : Card) (i : Nat) : (s.emit o').rd c i = s.rd c i := rfl
@[simp] theorem gf_emit (s : State) (o' : Output) (f : Fld) (i : Nat) : (s.emit o').gf f i = s.gf f i := rfl
@[simp] theorem facet_emit (s : State) (o' : Output) (f : Nat) : (s.emit o').facet f = s.facet f := rfl
@[simp] theorem prt_emit (s : State) (o' : Output) (p : Nat) : (s.emit o').prt p = s.prt p := rfl
@[simp] theorem ticket_emit (s : State) (o' : Output) (k : Nat) : (s.emit o').ticket k = s.ticket k := rfl
@[simp] theorem dval_emit (s : State) (o' : Output) (i j : Nat) : (s.emit o').dval i j = s.dval i j := rfl
@[simp] theorem dnum_emit (s : State) (o' : Output) (i j : Nat) : (s.emit o').dnum i j = s.dnum i j := rfl

@[simp] theorem rd_emits (s : State) (os' : List Output) (c : Card) (i : Nat) : (s.emits os').rd c i = s.rd c i := rfl
@[simp] theorem gf_emits (s : State) (os' : List Output) (f : Fld) (i : Nat) : (s.emits os').gf f i = s.gf f i := rfl
@[simp] theorem facet_emits (s : State) (os' : List Output) (f : Nat) : (s.emits os').facet f = s.facet f := rfl
@[simp] theorem prt_emits (s : State) (os' : List Output) (p : Nat) : (s.emits os').prt p = s.prt p := rfl
@[simp] theorem ticket_emits (s : State) (os' : List Output) (k : Nat) : (s.emits os').ticket k = s.ticket k := rfl
@[simp] theorem dval_emits (s : State) (os' : List Output) (i j : Nat) : (s.emits os').dval i j = s.dval i j := rfl
@[simp] theorem dnum_emits (s : State) (os' : List Output) (i j : Nat) : (s.emits os').dnum i j = s.dnum i j := rfl

@[simp] theorem rd_modFacet (s : State) (f' : Nat) (u' : Facet → Facet) (c : Card) (i : Nat) : (s.modFacet f' u').rd c i = s.rd c i := rfl
@[simp] theorem gf_modFacet (s : State) (f' : Nat) (u' : Facet → Facet) (f : Fld) (i : Nat) : (s.modFacet f' u').gf f i = s.gf f i := rfl
@[simp] theorem prt_modFacet (s : State) (f' : Nat) (u' : Facet → Facet) (p : Nat) : (s.modFacet f' u').prt p = s.prt p := rfl
@[simp] theorem ticket_modFacet (s : State) (f' : Nat) (u' : Facet → Facet) (k : Nat) : (s.modFacet f' u').ticket k = s.ticket k := rfl
@[simp] theorem dval_modFacet (s : State) (f' : Nat) (u' : Facet → Facet) (i j : Nat) : (s.modFacet f' u').dval i j = s.dval i j := rfl
@[simp] theorem dnum_modFacet (s : State) (f' : Nat) (u' : Facet → Facet) (i j : Nat) : (s.modFacet f' u').dnum i j = s.dnum i j := rfl

@[simp] theorem rd_modPrt (s : State) (p' : Nat) (u' : Partition → Partition) (c : Card) (i : Nat) : (s.modPrt p' u').rd c i = s.rd c i := rfl
@[simp] theorem gf_modPrt (s : State) (p' : Nat) (u' : Partition → Partition) (f : Fld) (i : Nat) : (s.modPrt p' u').gf f i = s.gf f i := rfl
@[simp] theorem facet_modPrt (s : State) (p' : Nat) (u' : Partition → Partition) (f : Nat) : (s.modPrt p' u').facet f = s.facet f := rfl
@[simp] theorem ticket_modPrt (s : State) (p' : Nat) (u' : Partition → Partition) (k : Nat) : (s.modPrt p' u').ticket k = s.ticket k := rfl
@[simp] theorem dval_modPrt (s : State) (p' : Nat) (u' : Partition → Partition) (i j : Nat) : (s.modPrt p' u').dval i j = s.dval i j := rfl
@[simp] theorem dnum_modPrt (s : State) (p' : Nat) (u' : Partition → Partition) (i j : Nat) : (s.modPrt p' u').dnum i j = s.dnum i j := rfl

@[simp] theorem rd_modTicket (s : State) (k' : Nat) (u' : Ticket → Ticket) (c : Card) (i : Nat) : (s.modTicket k' u').rd c i = s.rd c i := rfl
@[simp] theorem gf_modTicket (s : State) (k' : Nat) (u' : Ticket → Ticket) (f : Fld) (i : Nat) : (s.modTicket k' u').gf f i = s.gf f i := rfl
@[simp] theorem facet_modTicket (s : State) (k' : Nat) (u' : Ticket → Ticket) (f : Nat) : (s.modTicket k' u').facet f = s.facet f := rfl
@[simp] theorem prt_modTicket (s : State) (k' : Nat) (u' : Ticket → Ticket) (p : Nat) : (s.modTicket k' u').prt p = s.prt p := rfl
@[simp] theorem dval_modTicket (s : State) (k' : Nat) (u' : Ticket → Ticket) (i j : Nat) : (s.modTicket k' u').dval i j = s.dval i j := rfl
@[simp] theorem dnum_modTicket (s : State) (k' : Nat) (u' : Ticket → Ticket) (i j : Nat) : (s.modTicket k' u').dnum i j = s.dnum i j := rfl

@[simp] theorem rd_setD (s : State) (index' sub' : Nat) (v' : DVal) (c : Card) (i : Nat) : (s.setD index' sub' v').rd c i = s.rd c i := by simp only [State.setD]; split <;> rfl
@[simp] theorem gf_setD (s : State) (index' sub' : Nat) (v' : DVal) (f : Fld) (i : Nat) : (s.setD index' sub' v').gf f i = s.gf f i := by simp [State.gf]
@[simp] theorem facet_setD (s : State) (index' sub' : Nat) (v' : DVal) (f : Nat) : (s.setD index' sub' v').facet f = s.facet f := by simp only [State.setD]; split <;> rfl
@[simp] theorem prt_setD (s : State) (index' sub' : Nat) (v' : DVal) (p : Nat) : (s.setD index' sub' v').prt p = s.prt p := by simp only [State.setD]; split <;> rfl
@[simp] theorem ticket_setD (s : State) (index' sub' : Nat) (v' : DVal) (k : Nat) : (s.setD index' sub' v').ticket k = s.ticket k := by simp only [State.setD]; split <;> rfl

@[simp] theorem rd_setN (s : State) (index' sub' n' : Nat) (c : Card) (i : Nat) : (s.setN index' sub' n').rd c i = s.rd c i := by simp [State.setN]
@[simp] theorem gf_setN (s : State) (index' sub' n' : Nat) (f : Fld) (i : Nat) : (s.setN index' sub' n').gf f i = s.gf f i := by simp [State.gf]
@[simp] theorem facet_setN (s : State) (index' sub' n' : Nat) (f : Nat) : (s.setN index' sub' n').facet f = s.facet f := by simp [State.setN]
@[simp] theorem prt_setN (s : State) (index' sub' n' : Nat) (p : Nat) : (s.setN index' sub' n').prt p = s.prt p := by simp [State.setN]
@[simp] theorem ticket_setN (s : State) (index' sub' n' : Nat) (k : Nat) : (s.setN index' sub' n').ticket k = s.ticket k := by simp [State.setN]

@[simp] theorem rd_bump (s : State) (index' sub' : Nat) (c : Card) (i : Nat) : (s.bump index' sub').rd c i = s.rd c i := by simp [State.bump, State.setN]
@[simp] theorem gf_bump (s : State) (index' sub' : Nat) (f : Fld) (i : Nat) : (s.bump index' sub').gf f i = s.gf f i := by simp [State.gf]
@[simp] theorem facet_bump (s : State) (index' sub' : Nat) (f : Nat) : (s.bump index' sub').facet f = s.facet f := by simp [State.bump, State.setN]
@[simp] theorem prt_bump (s : State) (index' sub' : Nat) (p : Nat) : (s.bump index' sub').prt p = s.prt p := by simp [State.bump, State.setN]
@[simp] theorem ticket_bump (s : State) (index' sub' : Nat) (k : Nat) : (s.bump index' sub').ticket k = s.ticket k := by simp [State.bump, State.setN]

@[simp] theorem facet_wr (s : State) (c' : Card) (i' : Nat) (w' : Word) (f : Nat) : (s.wr c' i' w').facet f = s.facet f := rfl
@[simp] theorem prt_wr (s : State) (c' : Card) (i' : Nat) (w' : Word) (p : Nat) : (s.wr c' i' w').prt p = s.prt p := rfl
@[simp] theorem ticket_wr (s : State) (c' : Card) (i' : Nat) (w' : Word) (k : Nat) : (s.wr c' i' w').ticket k = s.ticket k := rfl
@[simp] theorem dval_wr (s : State) (c' : Card) (i' : Nat) (w' : Word) (i j : Nat) : (s.wr c' i' w').dval i j = s.dval i j := rfl
@[simp] theorem dnum_wr (s : State) (c' : Card) (i' : Nat) (w' : Word) (i j : Nat) : (s.wr c' i' w').dnum i j = s.dnum i j := rfl

@[simp] theorem facet_sf (s : State) (g' : Fld) (j' v' : Nat) (f : Nat) : (s.sf g' j' v').facet f = s.facet f := rfl
@[simp] theorem prt_sf (s : State) (g' : Fld) (j' v' : Nat) (p : Nat) : (s.sf g' j' v').prt p = s.prt p := rfl
@[simp] theorem ticket_sf (s : State) (g' : Fld) (j' v' : Nat) (k : Nat) : (s.sf g' j' v').ticket k = s.ticket k := rfl
@[simp] theorem dval_sf (s : State) (g' : Fld) (j' v' : Nat) (i j : Nat) : (s.sf g' j' v').dval i j = s.dval i j := rfl
@[simp] theorem dnum_sf (s : State) (g' : Fld) (j' v' : Nat) (i j : Nat) : (s.sf g' j' v').dnum i j = s.dnum i j := rfl

/-! ### Groups -/

@[simp] theorem group_setGroup_same (s : State) (g : Nat) (x : Group) : (s.setGroup g x).group g = x := by
  simp [State.group, State.setGroup]

theorem group_setGroup_other (s : State) (g h : Nat) (x : Group) (e : h ≠ g) : (s.setGroup g x).group h = s.group h := by
  simp [State.group, State.setGroup, Sparse.get_put_other _ _ _ _ _ e]

@[simp] theorem setGroup_regs (s : State) (g : Nat) (x : Group) : (s.setGroup g x).regs = s.regs := rfl
@[simp] theorem setGroup_part (s : State) (g : Nat) (x : Group) : (s.setGroup g x).part = s.part := rfl
@[simp] theorem setGroup_time (s : State) (g : Nat) (x : Group) : (s.setGroup g x).time = s.time := rfl
@[simp] theorem setGroup_shadows (s : State) (g : Nat) (x : Group) : (s.setGroup g x).shadows = s.shadows := rfl
@[simp] theorem setGroup_mem (s : State) (g : Nat) (x : Group) : (s.setGroup g x).mem = s.mem := rfl
@[simp] theorem setGroup_imem (s : State) (g : Nat) (x : Group) : (s.setGroup g x).imem = s.imem := rfl
@[simp] theorem setGroup_sram (s : State) (g : Nat) (x : Group) : (s.setGroup g x).sram = s.sram := rfl
@[simp] theorem setGroup_lost (s : State) (g : Nat) (x : Group) : (s.setGroup g x).lost = s.lost := rfl
@[simp] theorem setGroup_hop (s : State) (g : Nat) (x : Group) : (s.setGroup g x).hop = s.hop := rfl
@[simp] theorem setGroup_host (s : State) (g : Nat) (x : Group) : (s.setGroup g x).host = s.host := rfl
@[simp] theorem setGroup_ucMem (s : State) (g : Nat) (x : Group) : (s.setGroup g x).ucMem = s.ucMem := rfl
@[simp] theorem setGroup_ucImem (s : State) (g : Nat) (x : Group) : (s.setGroup g x).ucImem = s.ucImem := rfl
@[simp] theorem setGroup_ucSram (s : State) (g : Nat) (x : Group) : (s.setGroup g x).ucSram = s.ucSram := rfl
@[simp] theorem setGroup_ecMem (s : State) (g : Nat) (x : Group) : (s.setGroup g x).ecMem = s.ecMem := rfl
@[simp] theorem setGroup_ecImem (s : State) (g : Nat) (x : Group) : (s.setGroup g x).ecImem = s.ecImem := rfl
@[simp] theorem setGroup_ecSram (s : State) (g : Nat) (x : Group) : (s.setGroup g x).ecSram = s.ecSram := rfl
@[simp] theorem setGroup_dict (s : State) (g : Nat) (x : Group) : (s.setGroup g x).dict = s.dict := rfl
@[simp] theorem setGroup_tags (s : State) (g : Nat) (x : Group) : (s.setGroup g x).tags = s.tags := rfl
@[simp] theorem setGroup_errlog (s : State) (g : Nat) (x : Group) : (s.setGroup g x).errlog = s.errlog := rfl
@[simp] theorem setGroup_spent (s : State) (g : Nat) (x : Group) : (s.setGroup g x).spent = s.spent := rfl
@[simp] theorem setGroup_subs (s : State) (g : Nat) (x : Group) : (s.setGroup g x).subs = s.subs := rfl
@[simp] theorem setGroup_facets (s : State) (g : Nat) (x : Group) : (s.setGroup g x).facets = s.facets := rfl
@[simp] theorem setGroup_unwaited (s : State) (g : Nat) (x : Group) : (s.setGroup g x).unwaited = s.unwaited := rfl
@[simp] theorem setGroup_engineArcs (s : State) (g : Nat) (x : Group) : (s.setGroup g x).engineArcs = s.engineArcs := rfl
@[simp] theorem setGroup_arcUc (s : State) (g : Nat) (x : Group) : (s.setGroup g x).arcUc = s.arcUc := rfl
@[simp] theorem setGroup_arcEc (s : State) (g : Nat) (x : Group) : (s.setGroup g x).arcEc = s.arcEc := rfl
@[simp] theorem setGroup_arcFails (s : State) (g : Nat) (x : Group) : (s.setGroup g x).arcFails = s.arcFails := rfl
@[simp] theorem setGroup_selfAll (s : State) (g : Nat) (x : Group) : (s.setGroup g x).selfAll = s.selfAll := rfl
@[simp] theorem setGroup_seams (s : State) (g : Nat) (x : Group) : (s.setGroup g x).seams = s.seams := rfl
@[simp] theorem setGroup_taken (s : State) (g : Nat) (x : Group) : (s.setGroup g x).taken = s.taken := rfl
@[simp] theorem setGroup_tables (s : State) (g : Nat) (x : Group) : (s.setGroup g x).tables = s.tables := rfl
@[simp] theorem setGroup_routes (s : State) (g : Nat) (x : Group) : (s.setGroup g x).routes = s.routes := rfl
@[simp] theorem setGroup_ops (s : State) (g : Nat) (x : Group) : (s.setGroup g x).ops = s.ops := rfl
@[simp] theorem setGroup_xfers (s : State) (g : Nat) (x : Group) : (s.setGroup g x).xfers = s.xfers := rfl
@[simp] theorem setGroup_portTags (s : State) (g : Nat) (x : Group) : (s.setGroup g x).portTags = s.portTags := rfl
@[simp] theorem setGroup_tearAt (s : State) (g : Nat) (x : Group) : (s.setGroup g x).tearAt = s.tearAt := rfl
@[simp] theorem setGroup_tearMask (s : State) (g : Nat) (x : Group) : (s.setGroup g x).tearMask = s.tearMask := rfl
@[simp] theorem setGroup_everLocked (s : State) (g : Nat) (x : Group) : (s.setGroup g x).everLocked = s.everLocked := rfl
@[simp] theorem setGroup_slew (s : State) (g : Nat) (x : Group) : (s.setGroup g x).slew = s.slew := rfl
@[simp] theorem setGroup_slewTicks (s : State) (g : Nat) (x : Group) : (s.setGroup g x).slewTicks = s.slewTicks := rfl
@[simp] theorem setGroup_parts (s : State) (g : Nat) (x : Group) : (s.setGroup g x).parts = s.parts := rfl
@[simp] theorem setGroup_leaves (s : State) (g : Nat) (x : Group) : (s.setGroup g x).leaves = s.leaves := rfl
@[simp] theorem setGroup_tableFaulty (s : State) (g : Nat) (x : Group) : (s.setGroup g x).tableFaulty = s.tableFaulty := rfl
@[simp] theorem setGroup_ptPool (s : State) (g : Nat) (x : Group) : (s.setGroup g x).ptPool = s.ptPool := rfl
@[simp] theorem setGroup_shadowGib (s : State) (g : Nat) (x : Group) : (s.setGroup g x).shadowGib = s.shadowGib := rfl
@[simp] theorem setGroup_holds (s : State) (g : Nat) (x : Group) : (s.setGroup g x).holds = s.holds := rfl
@[simp] theorem setGroup_stages (s : State) (g : Nat) (x : Group) : (s.setGroup g x).stages = s.stages := rfl
@[simp] theorem setGroup_moves (s : State) (g : Nat) (x : Group) : (s.setGroup g x).moves = s.moves := rfl
@[simp] theorem setGroup_clocks (s : State) (g : Nat) (x : Group) : (s.setGroup g x).clocks = s.clocks := rfl
@[simp] theorem setGroup_hopLost (s : State) (g : Nat) (x : Group) : (s.setGroup g x).hopLost = s.hopLost := rfl
@[simp] theorem setGroup_flash (s : State) (g : Nat) (x : Group) : (s.setGroup g x).flash = s.flash := rfl
@[simp] theorem setGroup_blmJob (s : State) (g : Nat) (x : Group) : (s.setGroup g x).blmJob = s.blmJob := rfl
@[simp] theorem setGroup_cursor (s : State) (g : Nat) (x : Group) : (s.setGroup g x).cursor = s.cursor := rfl
@[simp] theorem setGroup_kvPages (s : State) (g : Nat) (x : Group) : (s.setGroup g x).kvPages = s.kvPages := rfl
@[simp] theorem setGroup_ranges (s : State) (g : Nat) (x : Group) : (s.setGroup g x).ranges = s.ranges := rfl
@[simp] theorem setGroup_hashes (s : State) (g : Nat) (x : Group) : (s.setGroup g x).hashes = s.hashes := rfl
@[simp] theorem setGroup_radix (s : State) (g : Nat) (x : Group) : (s.setGroup g x).radix = s.radix := rfl
@[simp] theorem setGroup_salts (s : State) (g : Nat) (x : Group) : (s.setGroup g x).salts = s.salts := rfl
@[simp] theorem setGroup_saltDue (s : State) (g : Nat) (x : Group) : (s.setGroup g x).saltDue = s.saltDue := rfl
@[simp] theorem setGroup_keys (s : State) (g : Nat) (x : Group) : (s.setGroup g x).keys = s.keys := rfl
@[simp] theorem setGroup_gens (s : State) (g : Nat) (x : Group) : (s.setGroup g x).gens = s.gens := rfl
@[simp] theorem setGroup_aslots (s : State) (g : Nat) (x : Group) : (s.setGroup g x).aslots = s.aslots := rfl
@[simp] theorem setGroup_jobs (s : State) (g : Nat) (x : Group) : (s.setGroup g x).jobs = s.jobs := rfl
@[simp] theorem setGroup_activations (s : State) (g : Nat) (x : Group) : (s.setGroup g x).activations = s.activations := rfl
@[simp] theorem setGroup_tickets (s : State) (g : Nat) (x : Group) : (s.setGroup g x).tickets = s.tickets := rfl
@[simp] theorem setGroup_rails (s : State) (g : Nat) (x : Group) : (s.setGroup g x).rails = s.rails := rfl
@[simp] theorem setGroup_rings (s : State) (g : Nat) (x : Group) : (s.setGroup g x).rings = s.rings := rfl
@[simp] theorem setGroup_reasm (s : State) (g : Nat) (x : Group) : (s.setGroup g x).reasm = s.reasm := rfl
@[simp] theorem setGroup_retired (s : State) (g : Nat) (x : Group) : (s.setGroup g x).retired = s.retired := rfl
@[simp] theorem setGroup_kept (s : State) (g : Nat) (x : Group) : (s.setGroup g x).kept = s.kept := rfl
@[simp] theorem setGroup_frontQ (s : State) (g : Nat) (x : Group) : (s.setGroup g x).frontQ = s.frontQ := rfl
@[simp] theorem setGroup_adoption (s : State) (g : Nat) (x : Group) : (s.setGroup g x).adoption = s.adoption := rfl
@[simp] theorem setGroup_dumps (s : State) (g : Nat) (x : Group) : (s.setGroup g x).dumps = s.dumps := rfl
@[simp] theorem setGroup_dumpCopied (s : State) (g : Nat) (x : Group) : (s.setGroup g x).dumpCopied = s.dumpCopied := rfl
@[simp] theorem setGroup_power (s : State) (g : Nat) (x : Group) : (s.setGroup g x).power = s.power := rfl
@[simp] theorem setGroup_sec (s : State) (g : Nat) (x : Group) : (s.setGroup g x).sec = s.sec := rfl
@[simp] theorem setGroup_boot (s : State) (g : Nat) (x : Group) : (s.setGroup g x).boot = s.boot := rfl
@[simp] theorem setGroup_pins (s : State) (g : Nat) (x : Group) : (s.setGroup g x).pins = s.pins := rfl
@[simp] theorem setGroup_sessions (s : State) (g : Nat) (x : Group) : (s.setGroup g x).sessions = s.sessions := rfl
@[simp] theorem setGroup_answers (s : State) (g : Nat) (x : Group) : (s.setGroup g x).answers = s.answers := rfl
@[simp] theorem setGroup_commits (s : State) (g : Nat) (x : Group) : (s.setGroup g x).commits = s.commits := rfl
@[simp] theorem setGroup_inbox (s : State) (g : Nat) (x : Group) : (s.setGroup g x).inbox = s.inbox := rfl
@[simp] theorem setGroup_apxReq (s : State) (g : Nat) (x : Group) : (s.setGroup g x).apxReq = s.apxReq := rfl
@[simp] theorem setGroup_apxRsp (s : State) (g : Nat) (x : Group) : (s.setGroup g x).apxRsp = s.apxRsp := rfl
@[simp] theorem setGroup_mclk (s : State) (g : Nat) (x : Group) : (s.setGroup g x).mclk = s.mclk := rfl
@[simp] theorem setGroup_uid (s : State) (g : Nat) (x : Group) : (s.setGroup g x).uid = s.uid := rfl
@[simp] theorem setGroup_out (s : State) (g : Nat) (x : Group) : (s.setGroup g x).out = s.out := rfl
@[simp] theorem setGroup_freeCtr (s : State) (g : Nat) (x : Group) : (s.setGroup g x).freeCtr = s.freeCtr := rfl
@[simp] theorem setGroup_pending (s : State) (g : Nat) (x : Group) : (s.setGroup g x).pending = s.pending := rfl
@[simp] theorem setGroup_arcTabs (s : State) (g : Nat) (x : Group) : (s.setGroup g x).arcTabs = s.arcTabs := rfl
@[simp] theorem setGroup_past (s : State) (g : Nat) (x : Group) : (s.setGroup g x).past = s.past := rfl
@[simp] theorem setGroup_watches (s : State) (g : Nat) (x : Group) : (s.setGroup g x).watches = s.watches := rfl
@[simp] theorem setGroup_ptPlaces (s : State) (g : Nat) (x : Group) : (s.setGroup g x).ptPlaces = s.ptPlaces := rfl
@[simp] theorem setGroup_bloom (s : State) (g : Nat) (x : Group) : (s.setGroup g x).bloom = s.bloom := rfl
@[simp] theorem setGroup_dumping (s : State) (g : Nat) (x : Group) : (s.setGroup g x).dumping = s.dumping := rfl
@[simp] theorem setGroup_dbgHeld (s : State) (g : Nat) (x : Group) : (s.setGroup g x).dbgHeld = s.dbgHeld := rfl
@[simp] theorem setGroup_links (s : State) (g : Nat) (x : Group) : (s.setGroup g x).links = s.links := rfl
@[simp] theorem setGroup_wtLeft (s : State) (g : Nat) (x : Group) : (s.setGroup g x).wtLeft = s.wtLeft := rfl
@[simp] theorem setGroup_mosaic (s : State) (g : Nat) (x : Group) : (s.setGroup g x).mosaic = s.mosaic := rfl
@[simp] theorem setGroup_adoptionSeen (s : State) (g : Nat) (x : Group) : (s.setGroup g x).adoptionSeen = s.adoptionSeen := rfl
@[simp] theorem setGroup_ucVertex (s : State) (g : Nat) (x : Group) : (s.setGroup g x).ucVertex = s.ucVertex := rfl

end Sys2Proof.Machine
end

