-- ==== Sys2Proof/Laws/Access.lean ====
section
/-! SUPPORT. Register access and issue: what a served doorbell does, the result of a command register, the error log's frame,
and the issue of a slot. -/

namespace Sys2Proof.Machine

/-- A served write does what its register does. -/
theorem gate_serves {s : State} {r : Requester} {c : Card} {i : Nat} (h : s.serves r c i) (k : State → State) : s.gate r c i k = k s := by
  obtain ⟨h1, h2, h3, h4, h5⟩ := h
  have h0 : ¬(s.boot.phase = 0 ∨ (s.linkOff = true ∧ r ≠ .mc) ∨ (!s.exists_ c i) = true) := by
    rintro (h | h | h)
    · exact h1 h
    · rcases h2 with e | e
      · rw [e] at h; exact Bool.noConfusion h.1
      · exact h.2 e
    · rw [h5] at h; exact Bool.noConfusion h
  unfold State.gate
  rw [if_neg h0, if_pos h3, if_pos h4]

/-- LAST and STATUS after a command. -/
theorem cmdDone_fields (s : State) (c : Card) (i code st : Nat) :
    (s.cmdDone c i code st).gf ⟨c, 27, 24⟩ i = code % 16 ∧ (s.cmdDone c i code st).gf ⟨c, 23, 20⟩ i = st % 16 := by
  have ok1 : Fld.ok ⟨c, 27, 24⟩ := by simp [Fld.ok]
  have ok2 : Fld.ok ⟨c, 23, 20⟩ := by simp [Fld.ok]
  unfold State.cmdDone
  refine ⟨?_, gf_sf_same _ ⟨c, 23, 20⟩ i st ok2⟩
  rw [gf_sf_field _ ⟨c, 23, 20⟩ ⟨c, 27, 24⟩ i st rfl ok2 ok1 (by simp [Fld.apart])]
  exact gf_sf_same _ ⟨c, 27, 24⟩ i code ok1

/-- LAST, STATUS and CODE after a command. -/
theorem cmdCode_fields (s : State) (c : Card) (i code st res : Nat) :
    (s.cmdCode c i code st res).gf ⟨c, 27, 24⟩ i = code % 16 ∧ (s.cmdCode c i code st res).gf ⟨c, 23, 20⟩ i = st % 16 ∧
    (s.cmdCode c i code st res).gf ⟨c, 19, 16⟩ i = res % 16 := by
  have ok1 : Fld.ok ⟨c, 27, 24⟩ := by simp [Fld.ok]
  have ok2 : Fld.ok ⟨c, 23, 20⟩ := by simp [Fld.ok]
  have ok3 : Fld.ok ⟨c, 19, 16⟩ := by simp [Fld.ok]
  have h := cmdDone_fields s c i code st
  unfold State.cmdCode
  refine ⟨?_, ?_, gf_sf_same _ ⟨c, 19, 16⟩ i res ok3⟩
  · rw [gf_sf_field _ ⟨c, 19, 16⟩ ⟨c, 27, 24⟩ i res rfl ok3 ok1 (by simp [Fld.apart])]; exact h.1
  · rw [gf_sf_field _ ⟨c, 19, 16⟩ ⟨c, 23, 20⟩ i res rfl ok3 ok2 (by simp [Fld.apart])]; exact h.2

/-- A command register's write leaves every other register. -/
theorem gf_cmdDone_card (s : State) (c : Card) (i code st : Nat) (g : Fld) (j : Nat) (h : g.card ≠ c) (hi : i < 1048576) (hj : j < 1048576) :
    (s.cmdDone c i code st).gf g j = s.gf g j := by
  unfold State.cmdDone
  rw [gf_sf_card _ _ _ _ _ _ h hi hj, gf_sf_card _ _ _ _ _ _ h hi hj]

theorem gf_cmdCode_card (s : State) (c : Card) (i code st res : Nat) (g : Fld) (j : Nat) (h : g.card ≠ c) (hi : i < 1048576) (hj : j < 1048576) :
    (s.cmdCode c i code st res).gf g j = s.gf g j := by
  unfold State.cmdCode
  rw [gf_sf_card _ _ _ _ _ _ h hi hj, gf_cmdDone_card _ _ _ _ _ _ _ h hi hj]

/-! ### What an error-log report changes -/

/-- What reports, events and counters never touch. -/
structure SameCore (s t : State) : Prop where
  facets : t.facets = s.facets
  parts : t.parts = s.parts
  tickets : t.tickets = s.tickets
  mem : t.mem = s.mem
  imem : t.imem = s.imem
  sram : t.sram = s.sram
  lost : t.lost = s.lost
  boot : t.boot = s.boot
  power : t.power = s.power
  sec : t.sec = s.sec
  pins : t.pins = s.pins
  regs : ∀ c i, c ≠ .dictStat → c ≠ .errlogPtr → c ≠ .errlogOvfFullLo → c ≠ .errlogOvfFullHi → c ≠ .errlogOvfRateLo →
    c ≠ .errlogOvfRateHi → i < 1048576 → t.rd c i = s.rd c i

theorem SameCore.refl (s : State) : SameCore s s := ⟨rfl, rfl, rfl, rfl, rfl, rfl, rfl, rfl, rfl, rfl, rfl, fun _ _ _ _ _ _ _ _ _ => rfl⟩

theorem SameCore.trans {a b c : State} (h : SameCore a b) (k : SameCore b c) : SameCore a c :=
  ⟨k.facets.trans h.facets, k.parts.trans h.parts, k.tickets.trans h.tickets, k.mem.trans h.mem, k.imem.trans h.imem,
   k.sram.trans h.sram, k.lost.trans h.lost, k.boot.trans h.boot, k.power.trans h.power, k.sec.trans h.sec, k.pins.trans h.pins,
   fun x i h1 h2 h3 h4 h5 h6 hi => (k.regs x i h1 h2 h3 h4 h5 h6 hi).trans (h.regs x i h1 h2 h3 h4 h5 h6 hi)⟩

theorem SameCore.gf {s t : State} (h : SameCore s t) (f : Fld) (i : Nat) (h1 : f.card ≠ .dictStat) (h2 : f.card ≠ .errlogPtr)
    (h3 : f.card ≠ .errlogOvfFullLo) (h4 : f.card ≠ .errlogOvfFullHi) (h5 : f.card ≠ .errlogOvfRateLo) (h6 : f.card ≠ .errlogOvfRateHi)
    (hi : i < 1048576) : t.gf f i = s.gf f i := by
  unfold State.gf; rw [h.regs _ _ h1 h2 h3 h4 h5 h6 hi]

theorem SameCore.facet {s t : State} (h : SameCore s t) (f : Nat) : t.facet f = s.facet f := by unfold State.facet; rw [h.facets]
theorem SameCore.prt {s t : State} (h : SameCore s t) (p : Nat) : t.prt p = s.prt p := by unfold State.prt; rw [h.parts]

end Sys2Proof.Machine
end

