-- ==== Sys2Proof/Laws/Issue.lean ====
section
/-! SUPPORT. The issue of a slot: what it comes to when the slot is the next to issue, and what closing a bundle leaves
alone. -/

namespace Sys2Proof.Machine

/-- A bundle with an operation in a slot is not one of no-ops. -/
theorem nopDue_of_op {s : State} {f k w : Nat} (hk : k < 4) (hw : w ≠ 0) (h : s.slotWord f (s.pc f) k = w) : s.nopDue f = false := by
  unfold State.nopDue State.noopBundle
  have : (List.range 4).all (fun k => s.slotWord f (s.pc f) k == 0) = false := by
    rw [List.all_eq_false]
    exact ⟨k, List.mem_range.mpr hk, by simp [h, hw]⟩
  rw [this, Bool.and_false]

/-- A Facet whose next bundle is due and holds an operation needs no bringing up. -/
theorem bringUp_due {s : State} {f g : Nat} (hr : (s.facet f).rest = 0) (hn : s.nopDue f = false) (n : Nat) :
    State.bringUp f g n s = s := by
  cases n with
  | zero => rfl
  | succ n =>
    unfold State.bringUp
    split
    · rfl
    · rw [if_pos (by simp [hr, hn])]

theorem imemEc_nil {s : State} {f a n b : Nat} (h : hits size8 s.ecImem (f * 262144 + a) n = []) : s.imemEc f a n b = s := by
  unfold State.imemEc; rw [h]; rfl

theorem bundleEc_clean {s : State} {f : Nat} (h : hits size8 s.ecImem (f * 262144 + s.pc f * 32) 32 = [])
    (e : ∀ a, s.bundleEntry f = some a → hits size8 s.ecImem (f * 262144 + a) 16 = []) : s.bundleEc f = s := by
  unfold State.bundleEc
  simp only [imemEc_nil h]
  cases hb : s.bundleEntry f with
  | none => rfl
  | some a => exact imemEc_nil (e a hb)

/-- The issue of the operation `w` of slot `k`: its effect, then the bundle closes. -/
theorem issue_eq {s : State} {f k w : Nat} {is : Nat → Bool} {act flow : State → Nat → State} (h : s.issues f k w) (hi : is w = true) :
    s.issue f k is act flow = (act s w).closeBundle f k (fun t => flow t w) := by
  obtain ⟨_, h1, hr, _, hc, h2, h3, h4, h5, h6, h7, h8, h9⟩ := h
  have hs := bringUp_due (g := s.groupOf f) hr (nopDue_of_op h2 h3 h4) bringFuel
  unfold State.issue
  rw [if_neg (by simp [h1, hc])]
  simp only [hs, h1, hr, h4, h7, hi, bundleEc_clean h8 h9]
  rw [if_neg (by simp), if_neg (by simp)]
  have e : (if (s.facet f).slot = 0 then (none : Option Nat) else none) = none := by split <;> rfl
  simp only [e, ite_self]
  rw [if_neg ?_]
  rintro (hh | hh | hh)
  · omega
  · simp only [Bool.not_eq_true', List.all_eq_false, List.mem_range] at hh
    obtain ⟨j, hj, hn⟩ := hh
    refine hn ?_
    by_cases hjs : j < (s.facet f).slot
    · simp [hjs]
    · simp [h6 j hj (by omega)]
  · simp at hh

theorem SameFacet.refl (x : Facet) : SameFacet x x :=
  ⟨rfl, rfl, rfl, rfl, rfl, rfl, rfl, rfl, rfl, rfl, rfl, rfl, rfl, rfl, rfl, rfl⟩

theorem SameFacet.trans {x y z : Facet} (h : SameFacet x y) (k : SameFacet y z) : SameFacet x z :=
  ⟨k.vregs.trans h.vregs, k.pregs.trans h.pregs, k.sregs.trans h.sregs, k.acc.trans h.acc, k.buf0.trans h.buf0,
   k.buf1.trans h.buf1, k.wait.trans h.wait, k.pourQ.trans h.pourQ, k.haltReq.trans h.haltReq, k.solo.trans h.solo,
   k.arcValid.trans h.arcValid, k.stepBounds.trans h.stepBounds, k.selfTest.trans h.selfTest, k.imemLoad.trans h.imemLoad,
   k.hid.trans h.hid, k.fenced.trans h.fenced⟩

theorem Moved.refl (s : State) (f : Nat) : Moved s s f :=
  ⟨rfl, fun _ _ => rfl, SameFacet.refl _, fun _ _ _ _ => rfl, rfl, rfl⟩

theorem Moved.trans {a b c : State} {f : Nat} (h : Moved a b f) (k : Moved b c f) : Moved a c f := by
  refine ⟨?_, fun g hg => (k.others g hg).trans (h.others g hg), h.same.trans k.same,
    fun x j hj hx => (k.regs x j hj hx).trans (h.regs x j hj hx), k.state.trans h.state, k.detached.trans h.detached⟩
  have h1 := h.rest
  have h2 := k.rest
  rw [← h2] at h1
  exact h1

theorem Moved.memories {s t : State} {f : Nat} (h : Moved s t f) : t.memories = s.memories := by
  have e : t.memories = State.memories { t with facets := s.facets, regs := s.regs } := rfl
  rw [e, h.rest]

theorem Moved.parts {s t : State} {f : Nat} (h : Moved s t f) : t.parts = s.parts := by
  have e : t.parts = State.parts { t with facets := s.facets, regs := s.regs } := rfl
  rw [e, h.rest]

theorem Moved.part {s t : State} {f : Nat} (h : Moved s t f) : t.part = s.part := by
  have e : t.part = State.part { t with facets := s.facets, regs := s.regs } := rfl
  rw [e, h.rest]

theorem Moved.lost {s t : State} {f : Nat} (h : Moved s t f) : t.lost = s.lost := by
  have e : t.lost = State.lost { t with facets := s.facets, regs := s.regs } := rfl
  rw [e, h.rest]

theorem Moved.mem {s t : State} {f : Nat} (h : Moved s t f) : t.mem = s.mem := by
  have e : t.mem = State.mem { t with facets := s.facets, regs := s.regs } := rfl
  rw [e, h.rest]

theorem Moved.pstate {s t : State} {f p : Nat} (h : Moved s t f) (hp : p < 16) : t.pstate p = s.pstate p := by
  have e : t.rd R.partStat_STATE.card p = s.rd R.partStat_STATE.card p := h.regs .partStat p (by omega) (fun e => by cases e)
  unfold State.pstate State.gf
  rw [e]

theorem find?_ext {α : Type} {p q : α → Bool} {l : List α} (h : ∀ x ∈ l, p x = q x) : l.find? p = l.find? q := by
  induction l with
  | nil => rfl
  | cons a l ih =>
    rw [List.find?_cons, List.find?_cons, h a List.mem_cons_self, ih (fun x hx => h x (List.mem_cons_of_mem _ hx))]

theorem Moved.facetIn {s t : State} {f p g : Nat} (h : Moved s t f) (hp : p < 16) : t.facetIn p g = s.facetIn p g := by
  unfold State.facetIn
  rw [h.pstate hp]
  unfold State.inRect State.prt State.facetCount State.cols
  rw [h.parts, h.part]

theorem Moved.facetPart {s t : State} {f : Nat} (h : Moved s t f) (g : Nat) : t.facetPart g = s.facetPart g := by
  have e : ∀ p ∈ List.range 16, (t.facetIn p g && decide (t.pstate p ≠ 4)) = (s.facetIn p g && decide (s.pstate p ≠ 4)) := by
    intro p hp
    have hp := List.mem_range.mp hp
    rw [h.facetIn hp, h.pstate hp]
  have e' : ∀ p ∈ List.range 16, t.facetIn p g = s.facetIn p g := fun p hp => h.facetIn (List.mem_range.mp hp)
  unfold State.facetPart findPart
  rw [find?_ext e, find?_ext e']

theorem Moved.groupOf {s t : State} {f : Nat} (h : Moved s t f) : t.groupOf f = s.groupOf f := by
  unfold State.groupOf
  rw [h.same.solo, h.facetPart f]
  unfold State.dieOf State.cols
  rw [h.part]

theorem moved_setFacet (s : State) (f : Nat) (x : Facet) (h : SameFacet (s.facet f) x) : Moved s (s.setFacet f x) f :=
  ⟨rfl, fun g hg => facet_setFacet_other s f g x hg, by rw [facet_setFacet_same]; exact h, fun _ _ _ _ => rfl, rfl, rfl⟩

theorem rd_sf_inst (s : State) (g : Fld) (i v : Nat) (c : Card) (j : Nat) (hi : i < 1048576) (hj : j < 1048576)
    (h : c = g.card → j ≠ i) : (s.sf g i v).rd c j = s.rd c j := by
  unfold State.sf
  by_cases hc : c = g.card
  · rw [hc]; exact rd_wr_inst _ _ _ _ _ (h hc)
  · exact rd_wr_card _ _ _ _ _ _ hc hi hj

theorem moved_pc (s : State) (f v : Nat) (hf : f < 1048576) : Moved s (s.sf R.fctStat_PC f v) f :=
  ⟨rfl, fun _ _ => rfl, SameFacet.refl _, fun c j hj hc => rd_sf_inst s R.fctStat_PC f v c j hf hj hc,
   gf_sf_field s R.fctStat_PC R.fctStat_STATE f v rfl (by decide) (by decide) (by decide),
   gf_sf_field s R.fctStat_PC R.fctStat_DETACHED f v rfl (by decide) (by decide) (by decide)⟩

theorem moved_flowSeq (s : State) (f : Nat) (hf : f < 1048576) : Moved s (s.flowSeq f) f :=
  (moved_setFacet s f { s.facet f with loops := (loopAdvance (s.facet f).loops (s.pc f)).1, rest := 1, slot := 0 }
    ⟨rfl, rfl, rfl, rfl, rfl, rfl, rfl, rfl, rfl, rfl, rfl, rfl, rfl, rfl, rfl, rfl⟩).trans (moved_pc _ f _ hf)

/-- A key that does not read as unlisted is listed. -/
theorem mem_of_get_ne {α : Type} {d : Nat → α} {m : List (Nat × α)} {k : Nat} (h : Sparse.get d m k ≠ d k) : ∃ v, (k, v) ∈ m := by
  induction m with
  | nil => exact absurd rfl h
  | cons x t ih =>
    obtain ⟨a, v⟩ := x
    unfold Sparse.get at h
    by_cases e : k = a
    · exact ⟨v, by rw [e]; exact List.mem_cons_self⟩
    · rw [if_neg e] at h
      obtain ⟨v, hv⟩ := ih h
      exact ⟨v, List.mem_cons_of_mem _ hv⟩

/-- A Facet that runs is among those of its group that issue. -/
theorem mem_runners {s : State} {f : Nat} (hf : f < s.facetCount) (h : s.gf R.fctStat_STATE f = 1) : f ∈ s.runners (s.groupOf f) := by
  have hlt : f < 1048576 := by
    have h2 : s.facetCount ≤ 256 := by unfold State.facetCount State.cols; split <;> omega
    omega
  have hne : s.rd .fctStat f ≠ regDefault (regKey .fctStat f) := by
    intro e
    have hd : regDefault (regKey .fctStat f) = cardReset .fctStat := by
      unfold regDefault regKey
      rw [show (cardIdx Card.fctStat * 1048576 + f) / 1048576 = cardIdx .fctStat by omega, cardOf_cardIdx]
    unfold State.gf at h
    have e2 : s.rd R.fctStat_STATE.card f = cardReset .fctStat := e.trans hd
    rw [e2] at h
    exact absurd h (by decide)
  obtain ⟨v, hv⟩ := mem_of_get_ne hne
  unfold State.runners State.atWork
  rw [List.mem_filter, List.mem_filter, List.mem_map]
  refine ⟨⟨⟨(regKey .fctStat f, v), ?_, ?_⟩, ?_⟩, ?_⟩
  · rw [List.mem_filter]
    refine ⟨hv, ?_⟩
    have e : regKey .fctStat f / 1048576 = cardIdx .fctStat := by unfold regKey; omega
    simp [e]
  · show regKey .fctStat f % 1048576 = f
    unfold regKey; omega
  · simp [hf, h, fsIdle]
  · simp [h, fsRunning]

/-- Where a member issues, nothing more follows. -/
theorem settle_of_runner {s : State} {f : Nat} (hf : f < s.facetCount) (h : s.gf R.fctStat_STATE f = 1) :
    s.settle (s.groupOf f) = s := by
  unfold State.settle
  rw [if_pos]
  have := mem_runners hf h
  cases e : s.runners (s.groupOf f) with
  | nil => rw [e] at this; exact absurd this List.not_mem_nil
  | cons a l => simp

theorem boundary_of_no_halt {s : State} {f : Nat} (h : (s.facet f).haltReq = false) : s.boundary f = s := by
  unfold State.boundary; rw [if_neg (by simp [h])]

theorem facetCount_le (s : State) : s.facetCount ≤ 1048576 := by
  unfold State.facetCount State.cols
  split <;> omega

/-- Closing a bundle in sequence, on a Facet that goes on, only moves issue on. -/
theorem moved_closeSeq (s : State) (f k : Nat) (hf : f < s.facetCount) (hs : s.gf R.fctStat_STATE f = 1) (hh : (s.facet f).haltReq = false) :
    Moved s (s.closeBundle f k (fun t => t.flowSeq f)) f := by
  have hlt := Nat.lt_of_lt_of_le hf (facetCount_le s)
  unfold State.closeBundle
  split
  · have m := moved_flowSeq s f hlt
    have e1 : ((s.flowSeq f).boundary f) = s.flowSeq f := boundary_of_no_halt (by rw [m.same.haltReq]; exact hh)
    have e2 : (s.flowSeq f).settle (s.groupOf f) = s.flowSeq f := by
      rw [← m.groupOf]
      refine settle_of_runner ?_ (by rw [m.state]; exact hs)
      unfold State.facetCount State.cols; rw [m.part]; exact hf
    simp only [e1, e2]
    exact m
  · exact moved_setFacet s f { s.facet f with slot := k + 1 } ⟨rfl, rfl, rfl, rfl, rfl, rfl, rfl, rfl, rfl, rfl, rfl, rfl, rfl, rfl, rfl, rfl⟩

theorem issuing_state {s : State} {f : Nat} (h : s.issuing f = true) : s.gf R.fctStat_STATE f = 1 := by
  unfold State.issuing at h
  simp only [Bool.and_eq_true, beq_iff_eq] at h
  exact h.1.1

/-- The issue of an operation that flows on in sequence and leaves the Facet running: its effect, then issue moves on. -/
theorem issue_moved {s : State} {f k w : Nat} {is : Nat → Bool} {act : State → Nat → State} (h : s.issues f k w) (hi : is w = true)
    (hp : (act s w).part = s.part) (hs : (act s w).gf R.fctStat_STATE f = s.gf R.fctStat_STATE f)
    (hh : ((act s w).facet f).haltReq = (s.facet f).haltReq) :
    Moved (act s w) (s.issue f k is act (seqFlow f)) f := by
  rw [issue_eq h hi]
  refine moved_closeSeq _ f k ?_ ?_ ?_
  · unfold State.facetCount State.cols; rw [hp]; exact h.1
  · rw [hs]; exact issuing_state h.2.1
  · rw [hh]; exact h.2.2.2.1

end Sys2Proof.Machine
end

