-- ==== Sys2Proof/Laws/Vector.lean ====
section
/-! SUPPORT. The registers of a Facet: lanes written and read back, and a result that lands when its cycles have passed. -/

namespace Sys2Proof.Machine

theorem vreg_length (x : Facet) (r : Nat) : (x.vreg r).length = 512 := by
  unfold Facet.vreg
  exact Sparse.gets_length _ _ _ _

theorem maskLanes_length (pen : Bool) (p : Nat) (old new : List Word) (h : old.length = 512) (k : new.length = 512) :
    (maskLanes pen p old new).length = 512 := by
  unfold maskLanes
  split
  · simp [h, k]
  · exact k

/-- Written lanes read back, and other registers keep theirs. -/
theorem vreg_set {x y : Facet} {r : Nat} {vs : List Word}
    (hv : y.vregs = Sparse.blit (fun _ => 0) x.vregs (r * 512) vs) (hl : vs.length = 512) :
    y.vreg r = vs ∧ ∀ q, q ≠ r → y.vreg q = x.vreg q := by
  unfold Facet.vreg
  refine ⟨?_, fun q hq => ?_⟩
  · rw [hv]
    have h := Sparse.gets_blit (fun _ => (0 : Word)) x.vregs (r * 512) vs
    rw [hl] at h
    exact h
  · rw [hv]
    refine Sparse.gets_blit_other _ _ _ _ _ _ ?_
    omega

/-- Only Facet `f` differs, and only as a Facet. -/
structure OnlyFacet (s t : State) (f : Nat) : Prop where
  rest : { t with facets := s.facets } = s
  others : ∀ g, g ≠ f → t.facet g = s.facet g

theorem OnlyFacet.refl (s : State) (f : Nat) : OnlyFacet s s f := ⟨rfl, fun _ _ => rfl⟩

theorem OnlyFacet.trans {a b c : State} {f : Nat} (h : OnlyFacet a b f) (k : OnlyFacet b c f) : OnlyFacet a c f := by
  refine ⟨?_, fun g hg => (k.others g hg).trans (h.others g hg)⟩
  have h1 := h.rest
  rw [← k.rest] at h1
  exact h1

theorem onlyFacet_mod (s : State) (f : Nat) (u : Facet → Facet) : OnlyFacet s (s.modFacet f u) f :=
  ⟨rfl, fun g hg => facet_setFacet_other s f g _ hg⟩

theorem OnlyFacet.regs {s t : State} {f : Nat} (h : OnlyFacet s t f) : t.regs = s.regs := by
  have e : t.regs = State.regs { t with facets := s.facets } := rfl
  rw [e, h.rest]

/-- A change of what `Moved` does not name. -/
theorem OnlyFacet.moved {s t : State} {f : Nat} (h : OnlyFacet s t f) (k : SameFacet (s.facet f) (t.facet f)) : Moved s t f := by
  refine ⟨?_, h.others, k, fun c j _ _ => ?_, ?_, ?_⟩
  · have e : { t with facets := s.facets, regs := s.regs } = { ({ t with facets := s.facets } : State) with regs := s.regs } := rfl
    rw [e, h.rest]
  · unfold State.rd; rw [h.regs]
  · unfold State.gf State.rd; rw [h.regs]
  · unfold State.gf State.rd; rw [h.regs]

/-- One cycle of a Facet with nothing in flight. -/
theorem cycle_no_flight {s : State} {f : Nat} (h : (s.facet f).flights = []) :
    s.cycle [(f, true)] = (State.landAll (((s.modFacet f (fun y => { y with flights := [] })).modFacet f (fun y => { y with flights := [] }))) f).modFacet f Facet.tick := by
  unfold State.cycle State.portUses
  simp only [List.flatMap_cons, List.flatMap_nil, h, List.filter_nil, List.append_nil, List.map_nil, List.eraseDups_nil, List.foldl_nil,
    List.foldl_cons, modFacet_def, facet_setFacet_same, State.endCycle, State.ageFlights, if_true, List.map_nil]

/-- A result that is not due ages; one that is due is written. -/
theorem landAll_one {s : State} {f : Nat} {l : Land} (h : (s.facet f).lands = [l]) (hs : l.spoilt = false) :
    OnlyFacet s (s.landAll f) f ∧ (s.landAll f).facet f =
      if l.age + 1 = l.lat then { (s.facet f).putReg l.put with lands := [] }
      else { s.facet f with lands := [{ l with age := l.age + 1 }] } := by
  unfold State.landAll
  by_cases e : l.age + 1 = l.lat
  · have e1 : List.filter (fun l => l.age + 1 == l.lat) [l] = [l] := by simp [e]
    have e2 : ∀ (b : Bool), ¬ (1 < (List.filter (fun y => y.writing && y.put.dest == l.put.dest) [l]).length) := by
      intro _; have := List.length_filter_le (fun y => y.writing && y.put.dest == l.put.dest) [l]; simp at this; omega
    simp only [h, e1, List.foldl_cons, List.foldl_nil, State.landOne, hs, e2 true, decide_false, Bool.or_false, Bool.false_eq_true, if_false, e, if_true]
    refine ⟨(onlyFacet_mod s f _).trans (onlyFacet_mod _ f _), ?_⟩
    simp [e]
  · have e1 : List.filter (fun l => l.age + 1 == l.lat) [l] = [] := by simp [e]
    simp only [h, e1, List.foldl_nil, if_neg e]
    refine ⟨onlyFacet_mod _ f _, ?_⟩
    simp [e, hs]

theorem putReg_lands (x : Facet) (p : Put) : (x.putReg p).lands = x.lands := by cases p <;> rfl
theorem putReg_flights (x : Facet) (p : Put) : (x.putReg p).flights = x.flights := by cases p <;> rfl
theorem putReg_busy (x : Facet) (p : Put) : (x.putReg p).busy = x.busy := by cases p <;> rfl
theorem putReg_arcBusy (x : Facet) (p : Put) : (x.putReg p).arcBusy = x.arcBusy := by cases p <;> rfl

/-- The fields that cycles change when a single result is under way. -/
def Facet.still (x : Facet) : Facet := { x with flights := [], lands := [], busy := [], rest := 0, arcBusy := 0 }

theorem still_putReg (x : Facet) (p : Put) : (x.putReg p).still = x.still.putReg p := by cases p <;> rfl

theorem pending_still (x : Facet) (h1 : x.flights = []) (h2 : x.lands = []) (h3 : x.busy = []) (h4 : x.arcBusy = 0) : x.pending true = false := by
  unfold Facet.pending; simp [h1, h2, h3, h4]

/-- With nothing under way no cycle passes. -/
theorem flush_settled {s : State} {f : Nat} (h : s.settled f) (n : Nat) : State.flush f n s = s := by
  cases n with
  | zero => rfl
  | succ n =>
    unfold State.flush
    rw [pending_still _ h.1 h.2.1 h.2.2.1 h.2.2.2]
    rfl

/-- A single result under way, with the Arc unit's occupation over by then, is written when its cycles have passed, and nothing
else changes. -/
theorem flush_land {f : Nat} (n : Nat) : ∀ {s : State} {l : Land}, (s.facet f).flights = [] → (s.facet f).lands = [l] → (s.facet f).busy = [] →
    (s.facet f).arcBusy ≤ l.lat - l.age → l.spoilt = false → l.age < l.lat → l.lat - l.age ≤ n →
    OnlyFacet s (State.flush f n s) f ∧ (State.flush f n s).settled f ∧
      ((State.flush f n s).facet f).still = (s.facet f).still.putReg l.put := by
  induction n with
  | zero => intro s l _ _ _ _ _ h1 h2; omega
  | succ n ih =>
    intro s l hf hl hb ha hs h1 h2
    have hp : (s.facet f).pending true = true := by unfold Facet.pending; simp [hl]
    unfold State.flush
    rw [if_pos hp, cycle_no_flight hf]
    generalize hu : ((s.modFacet f (fun y => { y with flights := [] })).modFacet f (fun y => { y with flights := [] })) = u
    have ou : OnlyFacet s u f := by rw [← hu]; exact (onlyFacet_mod s f _).trans (onlyFacet_mod _ f _)
    have eu : u.facet f = { s.facet f with flights := [] } := by rw [← hu]; simp
    have lu : (u.facet f).lands = [l] := by rw [eu]; exact hl
    obtain ⟨o1, e1⟩ := landAll_one lu hs
    have o2 := ou.trans (o1.trans (onlyFacet_mod (u.landAll f) f Facet.tick))
    have e2 : (((u.landAll f).modFacet f Facet.tick).facet f) = Facet.tick ((u.landAll f).facet f) := facet_modFacet_same _ _ _
    rw [e1] at e2
    by_cases e : l.age + 1 = l.lat
    · rw [if_pos e] at e2
      have hset : ((u.landAll f).modFacet f Facet.tick).settled f := by
        unfold State.settled
        rw [e2]
        unfold Facet.tick
        simp only [putReg_flights, putReg_busy, putReg_arcBusy, eu, hb, List.map_nil, List.filter_nil]
        refine ⟨trivial, trivial, trivial, ?_⟩
        show (s.facet f).arcBusy - 1 = 0
        omega
      rw [flush_settled hset]
      refine ⟨o2, hset, ?_⟩
      rw [e2, eu]
      have : ∀ x : Facet, (Facet.tick { x with lands := [] }).still = x.still := fun _ => rfl
      rw [this, still_putReg]
      rfl
    · rw [if_neg e] at e2
      have g1 : (((u.landAll f).modFacet f Facet.tick).facet f).flights = [] := by rw [e2, eu]; rfl
      have g2 : (((u.landAll f).modFacet f Facet.tick).facet f).lands = [{ l with age := l.age + 1 }] := by rw [e2]; rfl
      have g3 : (((u.landAll f).modFacet f Facet.tick).facet f).busy = [] := by
        rw [e2, eu]; unfold Facet.tick; simp [hb]
      have g4 : (((u.landAll f).modFacet f Facet.tick).facet f).arcBusy ≤ l.lat - (l.age + 1) := by
        rw [e2, eu]; show (s.facet f).arcBusy - 1 ≤ _; omega
      obtain ⟨o3, s3, e3⟩ := ih (l := { l with age := l.age + 1 }) g1 g2 g3 g4 hs (by show l.age + 1 < l.lat; omega) (by show l.lat - (l.age + 1) ≤ n; omega)
      refine ⟨o2.trans o3, s3, ?_⟩
      rw [e3, e2, eu]
      rfl

end Sys2Proof.Machine
end

