-- ==== Sys2Proof/Laws/Facet.lean ====
section
/-! SUPPORT. What the shared operations of the Facets do where nothing is under way: results entered and landed, lanes written
under PRED, clean line reads, and how a store reads back. -/

namespace Sys2Proof.Machine

theorem unready_settled {s : State} {f : Nat} (h : s.settled f) (d : Dest) : (s.facet f).unready d = false := by
  unfold Facet.unready; simp [h.2.1, h.2.2.1]

/-- Where nothing is under way a result enters alone, and in order. -/
theorem land_settled {s : State} {f : Nat} (h : s.settled f) (srcs : List Dest) (p : Put) (lat : Nat) :
    OnlyFacet s (s.land f srcs p lat) f ∧
      (s.land f srcs p lat).facet f = { s.facet f with lands := [⟨p, 0, lat, lat - 1, 0, false, false⟩] } := by
  unfold State.land State.addLand
  have e : srcs.any (fun d => (s.facet f).unready d) = false := by
    rw [List.any_eq_false]; intro d _; rw [unready_settled h]; simp
  refine ⟨onlyFacet_mod s f _, ?_⟩
  rw [facet_modFacet_same, e, h.2.1]
  rfl

theorem SameFacet.still {x y z : Facet} (h : SameFacet x y) (k : z.still = y.still) : SameFacet x z := by
  have e : ∀ {α : Type} (g : Facet → α), (∀ v : Facet, g v.still = g v) → g z = g y := fun g hg => by rw [← hg z, k, hg y]
  exact ⟨(e Facet.vregs (fun _ => rfl)).trans h.vregs, (e Facet.pregs (fun _ => rfl)).trans h.pregs, (e Facet.sregs (fun _ => rfl)).trans h.sregs,
    (e Facet.acc (fun _ => rfl)).trans h.acc, (e Facet.buf0 (fun _ => rfl)).trans h.buf0, (e Facet.buf1 (fun _ => rfl)).trans h.buf1,
    (e Facet.wait (fun _ => rfl)).trans h.wait, (e Facet.pourQ (fun _ => rfl)).trans h.pourQ, (e Facet.haltReq (fun _ => rfl)).trans h.haltReq,
    (e Facet.solo (fun _ => rfl)).trans h.solo, (e Facet.arcValid (fun _ => rfl)).trans h.arcValid,
    (e Facet.stepBounds (fun _ => rfl)).trans h.stepBounds, (e Facet.selfTest (fun _ => rfl)).trans h.selfTest,
    (e Facet.imemLoad (fun _ => rfl)).trans h.imemLoad, (e Facet.hid (fun _ => rfl)).trans h.hid,
    (e Facet.fenced (fun _ => rfl)).trans h.fenced⟩

theorem SameFacet.putReg {x y : Facet} (h : SameFacet x y) (p : Put) : SameFacet (x.putReg p) (y.putReg p) := by
  cases p with
  | vreg r off vs mask =>
    exact ⟨by show Sparse.blit _ y.vregs _ _ = _; rw [h.vregs]; rfl, h.pregs, h.sregs, h.acc, h.buf0, h.buf1, h.wait, h.pourQ, h.haltReq, h.solo,
      h.arcValid, h.stepBounds, h.selfTest, h.imemLoad, h.hid, h.fenced⟩
  | preg q v m =>
    exact ⟨h.vregs, by show Sparse.put _ y.pregs _ _ = _; rw [h.pregs]; rfl, h.sregs, h.acc, h.buf0, h.buf1, h.wait, h.pourQ, h.haltReq, h.solo,
      h.arcValid, h.stepBounds, h.selfTest, h.imemLoad, h.hid, h.fenced⟩

theorem SameFacet.ofStill {x y : Facet} (k : y.still = x.still) : SameFacet x y := (SameFacet.refl x).still k

/-- From `s`, once a single result has landed: the registers hold it, and nothing else differs but where issue stands. -/
theorem landed_moved {s t : State} {f : Nat} {l : Land} (ht : Moved s t f) (hf : (t.facet f).flights = []) (hl : (t.facet f).lands = [l])
    (hb : (t.facet f).busy = []) (ha : (t.facet f).arcBusy ≤ l.lat - l.age) (hs : l.spoilt = false) (h1 : l.age < l.lat)
    (h2 : l.lat - l.age ≤ drainFuel) : Moved (s.modFacet f (fun x => x.putReg l.put)) (t.through f) f := by
  obtain ⟨o, _, e⟩ := flush_land drainFuel hf hl hb ha hs h1 h2
  have k : SameFacet ((s.facet f).putReg l.put) ((State.flush f drainFuel t).facet f) := by
    refine (SameFacet.putReg (SameFacet.trans ht.same (SameFacet.ofStill rfl : SameFacet (t.facet f) (t.facet f).still)) l.put).still ?_
    rw [e, ← still_putReg]
    rfl
  refine ⟨?_, fun g hg => ?_, by rw [facet_modFacet_same]; exact k, fun c j hj hc => ?_, ?_, ?_⟩
  · have e1 := ht.rest
    rw [← o.rest] at e1
    have : ({ State.flush f drainFuel t with facets := s.facets, regs := s.regs } : State) = s := e1
    show ({ State.flush f drainFuel t with facets := (s.modFacet f (fun x => x.putReg l.put)).facets, regs := s.regs } : State) = _
    rw [show ({ State.flush f drainFuel t with facets := (s.modFacet f (fun x => x.putReg l.put)).facets, regs := s.regs } : State) =
      { ({ State.flush f drainFuel t with facets := s.facets, regs := s.regs } : State) with facets := (s.modFacet f (fun x => x.putReg l.put)).facets } from rfl, this]
    rfl
  · exact (o.others g hg).trans ((ht.others g hg).trans (facet_setFacet_other s f g _ hg).symm)
  · unfold State.through State.rd
    rw [o.regs]
    exact ht.regs c j hj hc
  · exact (show (State.flush f drainFuel t).gf R.fctStat_STATE f = t.gf R.fctStat_STATE f by unfold State.gf State.rd; rw [o.regs]).trans ht.state
  · exact (show (State.flush f drainFuel t).gf R.fctStat_DETACHED f = t.gf R.fctStat_DETACHED f by unfold State.gf State.rd; rw [o.regs]).trans ht.detached

/-- The lanes that a vector operation has written. -/
theorem lanesSet_of_moved {s u : State} {f w : Nat} {vs : List Word} (hl : vs.length = 512)
    (h : Moved (s.modFacet f (fun x => x.putReg (lanesPut (s.facet f) w vs))) u f) : s.lanesSet u f w vs := by
  have hv : (u.facet f).vregs = Sparse.blit (fun _ => 0) (s.facet f).vregs (vDst w * 512)
      (maskLanes (vPen w) ((s.facet f).preg (vPred w)) ((s.facet f).vreg (vDst w)) vs) := by
    rw [h.same.vregs, facet_modFacet_same]
    unfold lanesPut Facet.putReg maskLanes Facet.vreg
    cases vPen w <;> simp [hl]
  have e := vreg_set hv (maskLanes_length _ _ _ _ (vreg_length _ _) hl)
  refine ⟨e.1, e.2, ?_⟩
  have : s.modFacet f (fun x => { x with vregs := (u.facet f).vregs }) = s.modFacet f (fun x => x.putReg (lanesPut (s.facet f) w vs)) := by
    rw [modFacet_def, modFacet_def, hv]
    unfold lanesPut Facet.putReg maskLanes Facet.vreg
    cases vPen w <;> simp [hl]
  rw [this]; exact h

/-- A vector operation that issues where nothing is under way: what it leaves when it is through. -/
theorem vecIssue_lanes {s : State} {f w op : Nat} {act : State → Nat → State} {vs : List Word} {lat : Nat} {srcs : List Dest}
    (h : s.issues f 1 w) (hs : s.settled f) (ho : opc w = op) (hl : vs.length = 512) (h1 : 0 < lat) (h2 : lat ≤ drainFuel)
    (ha : act s w = s.land f srcs (lanesPut (s.facet f) w vs) lat) :
    s.lanesSet ((s.vecIssue f op act).through f) f w vs := by
  obtain ⟨o, e⟩ := land_settled hs srcs (lanesPut (s.facet f) w vs) lat
  have hm : Moved (act s w) (s.vecIssue f op act) f := by
    unfold State.vecIssue
    refine issue_moved h (by simp [ho]) ?_ ?_ ?_
    · rw [ha]; have := congrArg State.part o.rest; exact this
    · rw [ha]; unfold State.gf State.rd; rw [o.regs]
    · rw [ha, e]
  have hsame : SameFacet (s.facet f) ((act s w).facet f) := by rw [ha, e]; exact SameFacet.ofStill rfl
  have hpre : Moved s (act s w) f := by rw [ha]; rw [ha] at hsame; exact o.moved hsame
  -- what is under way after the issue
  have hk : ∀ x y : Facet, x = y → x.flights = y.flights ∧ x.lands = y.lands ∧ x.busy = y.busy ∧ x.arcBusy = y.arcBusy := by
    rintro x y rfl; exact ⟨rfl, rfl, rfl, rfl⟩
  have hway : ((s.vecIssue f op act).facet f).flights = ((act s w).facet f).flights ∧ ((s.vecIssue f op act).facet f).lands = ((act s w).facet f).lands ∧
      ((s.vecIssue f op act).facet f).busy = ((act s w).facet f).busy ∧ ((s.vecIssue f op act).facet f).arcBusy = ((act s w).facet f).arcBusy := by
    unfold State.vecIssue
    rw [issue_eq h (by simp [ho])]
    unfold State.closeBundle
    split
    · have hlt := Nat.lt_of_lt_of_le h.1 (facetCount_le s)
      have m := moved_flowSeq (act s w) f hlt
      have hrun : (act s w).gf R.fctStat_STATE f = 1 := by rw [hpre.state]; exact issuing_state h.2.1
      have e1 : ((act s w).flowSeq f).boundary f = (act s w).flowSeq f :=
        boundary_of_no_halt (by rw [m.same.haltReq, hpre.same.haltReq]; exact h.2.2.2.1)
      have e2 : ((act s w).flowSeq f).settle ((act s w).groupOf f) = (act s w).flowSeq f := by
        rw [← m.groupOf]
        refine settle_of_runner ?_ (by rw [m.state]; exact hrun)
        unfold State.facetCount State.cols; rw [m.part, hpre.part]; exact h.1
      show ((((act s w).flowSeq f).boundary f).settle ((act s w).groupOf f) |>.facet f).flights = _ ∧ _
      simp only [seqFlow] at *
      rw [e1, e2]
      unfold State.flowSeq
      show (((act s w).setFacet f _).facet f).flights = _ ∧ (((act s w).setFacet f _).facet f).lands = _ ∧ (((act s w).setFacet f _).facet f).busy = _ ∧
        (((act s w).setFacet f _).facet f).arcBusy = _
      rw [facet_setFacet_same]
      exact ⟨rfl, rfl, rfl, rfl⟩
    · rw [facet_modFacet_same]; exact ⟨rfl, rfl, rfl, rfl⟩
  have hl' : ((act s w).facet f).lands = [⟨lanesPut (s.facet f) w vs, 0, lat, lat - 1, 0, false, false⟩] := by rw [ha, e]
  have hf' : ((act s w).facet f).flights = [] := by rw [ha, e]; exact hs.1
  have hb' : ((act s w).facet f).busy = [] := by rw [ha, e]; exact hs.2.2.1
  have ha' : ((act s w).facet f).arcBusy = 0 := by rw [ha, e]; exact hs.2.2.2
  refine lanesSet_of_moved hl ?_
  refine landed_moved (hpre.trans hm) (hway.1.trans hf') (hway.2.1.trans hl') (hway.2.2.1.trans hb') ?_ rfl h1 h2
  rw [hway.2.2.2, ha']; exact Nat.zero_le _

/-- Reading lines of a memory that holds no error, none of which waits for a counter. -/
theorem takeLine_clean (s : State) (f l : Nat) (h : s.ucMem = []) (e : s.ecMem = []) (u : s.unwaited = []) :
    s.takeLine f l = (s, s.readMem (spAddr f (l * 128)) 128) := by
  unfold State.takeLine State.ucAt hits State.consume
  simp [h, e, u]

theorem takeLines_clean (s : State) (f : Nat) (ls : List Nat) (h : s.ucMem = []) (e : s.ecMem = []) (u : s.unwaited = []) :
    s.takeLines f ls = (s, ls.flatMap (fun l => s.readMem (spAddr f (l * 128)) 128)) := by
  unfold State.takeLines
  suffices H : ∀ acc : List Byte, List.foldl (fun (acc : State × List Byte) l => let r := acc.1.takeLine f l; (r.1, acc.2 ++ r.2)) (s, acc) ls =
      (s, acc ++ ls.flatMap (fun l => s.readMem (spAddr f (l * 128)) 128)) by simpa using H []
  induction ls with
  | nil => intro acc; simp
  | cons a l ih => intro acc; simp only [List.foldl_cons, takeLine_clean s f a h e u, List.flatMap_cons]; rw [ih]; simp

theorem elemsOf_length (n k : Nat) (bs : List Byte) : (elemsOf n k bs).length = k := by
  induction k generalizing bs with
  | zero => rfl
  | succ k ih => unfold elemsOf; simp [ih]

theorem writeMem_clean (s : State) (a : Nat) (bs : List Byte) (h : s.ucMem = []) (e : s.ecMem = []) :
    s.writeMem a bs = ({ s with mem := Sparse.blit s.memD s.mem a bs, watches := markWatches s.watches a bs.length }, []) := by
  unfold State.writeMem writeEcc hits
  simp only [h, e, List.filter_nil, List.isEmpty_nil, if_true]

theorem readMem_blit (s t : State) (a : Nat) (bs : List Byte) (h : t.mem = Sparse.blit s.memD s.mem a bs) (hl : t.lost = s.lost) :
    t.readMem a bs.length = bs ∧ s.memKept t a bs.length := by
  have hd : t.memD = s.memD := by unfold State.memD; rw [hl]
  unfold State.memKept State.readMem
  rw [h, hd]
  refine ⟨Sparse.gets_blit _ _ _ _, fun b hb => Sparse.gets_blit_other _ _ _ _ _ _ ?_⟩
  omega

theorem stored {s t : State} {f a : Nat} {bs : List Byte} {ws : List Watch}
    (h : Moved { s with mem := Sparse.blit s.memD s.mem a bs, watches := ws } t f) :
    t.readMem a bs.length = bs ∧ s.memKept t a bs.length ∧ Moved { s with mem := t.mem, watches := ws } t f := by
  have h1 : t.mem = Sparse.blit s.memD s.mem a bs := h.mem
  have h2 := readMem_blit s t a bs h1 h.lost
  exact ⟨h2.1, h2.2, by rw [h1]; exact h⟩

theorem readMem_length (s : State) (a n : Nat) : (s.readMem a n).length = n := Sparse.gets_length _ _ _ _

end Sys2Proof.Machine
end

