-- ==== Sys2Proof/Laws/KeepOps.lean ====
section
/-! SUPPORT. What happens to the memories, and that they keep their canonical form: registers, reports, memories, operands, flags. -/

namespace Sys2Proof.Machine

/-! ### The form in the memories alone -/

/-- Equal memories have the same form. -/
theorem wf_of_memories {s t : State} (h : t.memories = s.memories) : Memory.wf t = Memory.wf s := by
  unfold State.memories at h
  injection h with h1 h2 h3 h4 h5 h6 h7 h8 h9
  have e1 : t.memD = s.memD := by funext a; unfold State.memD; rw [h4]
  have e2 : t.imemD = s.imemD := by funext a; unfold State.imemD; rw [h4]
  have e3 : t.sramD = s.sramD := by funext a; unfold State.sramD; rw [h4]
  unfold Memory.wf
  rw [e1, e2, e3, h1, h2, h3, h5, h6, h7, h8, h9]

theorem memories_mk (part time regs shadows mem imem sram lost hop host ucMem ucImem ucSram ecMem ecImem ecSram dict tags errlog spent subs facets groups unwaited engineArcs arcTabs arcUc arcEc arcFails selfAll seams taken past watches tables routes ops xfers portTags links tearAt tearMask everLocked slew slewTicks parts leaves ptPlaces tableFaulty ptPool shadowGib holds stages moves clocks hopLost wtLeft flash bloom blmJob cursor kvPages ranges hashes radix salts saltDue keys gens aslots jobs activations tickets rails rings reasm retired kept frontQ mosaic adoptionSeen ucVertex adoption dumps dumpCopied dumping dbgHeld power sec boot pins sessions answers commits inbox apxReq apxRsp mclk uid out freeCtr pending) :
    State.memories (State.mk part time regs shadows mem imem sram lost hop host ucMem ucImem ucSram ecMem ecImem ecSram dict tags errlog spent subs facets groups unwaited engineArcs arcTabs arcUc arcEc arcFails selfAll seams taken past watches tables routes ops xfers portTags links tearAt tearMask everLocked slew slewTicks parts leaves ptPlaces tableFaulty ptPool shadowGib holds stages moves clocks hopLost wtLeft flash bloom blmJob cursor kvPages ranges hashes radix salts saltDue keys gens aslots jobs activations tickets rails rings reasm retired kept frontQ mosaic adoptionSeen ucVertex adoption dumps dumpCopied dumping dbgHeld power sec boot pins sessions answers commits inbox apxReq apxRsp mclk uid out freeCtr pending) =
      ⟨mem, imem, sram, lost, hop, host, boot.nor, apxReq, apxRsp⟩ := rfl

theorem memories_eta (s : State) : Memories.mk s.mem s.imem s.sram s.lost s.hop s.host s.boot.nor s.apxReq s.apxRsp = s.memories := rfl

theorem ite_memories (c : Prop) [Decidable c] (a b : State) : (if c then a else b).memories = if c then a.memories else b.memories := by
  split <;> rfl

theorem foldl_memories {α : Type} (g : State → α → State) (l : List α) (s : State) (h : ∀ t x, (g t x).memories = t.memories) :
    (l.foldl g s).memories = s.memories := by
  induction l generalizing s with
  | nil => rfl
  | cons x l ih => exact (ih (g s x)).trans (h s x)

theorem foldl_memories' {α : Type} (g : State → α → State) (l : List α) (s : State) (h : ∀ t x, (g t x).memories = t.memories) :
    (l.foldl g s).memories = s.memories := foldl_memories g l s h

/-- The canonical form as it stands in the memories alone. -/
@[irreducible] def Memories.wf (m : Memories) : Bool :=
  Sparse.wf (fun a => if a < apertureBase ∨ (a - apertureBase) / 0x200000 ≥ 256 then 0 else lostByte m.lost ((a - apertureBase) / 0x200000) a) m.mem &&
  Sparse.wf (fun a => if a / 262144 ≥ 256 then 0 else lostByte m.lost (256 + a / 262144) a) m.imem &&
  Sparse.wf (fun a => lostByte m.lost (512 + a / 2097152) a) m.sram && Sparse.wf zeroByte m.hop &&
  Sparse.wf zeroByte m.host && Sparse.wf zeroByte m.nor && Sparse.wf zeroByte m.apxReq && Sparse.wf zeroByte m.apxRsp

theorem wf_eq (s : State) : Memory.wf s = s.memories.wf := by
  unfold Memories.wf Memory.wf
  rfl

theorem ite_wf (c : Prop) [Decidable c] (a b : State) (ha : a.memories.wf = true) (hb : b.memories.wf = true) :
    (if c then a else b).memories.wf = true := by split <;> assumption

theorem Memories.ite_wf (c : Prop) [Decidable c] (a b : Memories) : (if c then a else b).wf = if c then a.wf else b.wf := by
  split <;> rfl

theorem foldl_wf {α : Type} (g : State → α → State) (l : List α) (s : State) (hs : s.memories.wf = true)
    (h : ∀ t x, t.memories.wf = true → (g t x).memories.wf = true) : (l.foldl g s).memories.wf = true := by
  induction l generalizing s with
  | nil => exact hs
  | cons x l ih => exact ih (g s x) (h s x hs)

/-- The eight forms, one by one. -/
theorem Memories.wf_iff (m : Memories) : m.wf = true ↔
    Sparse.wf (fun a => if a < apertureBase ∨ (a - apertureBase) / 0x200000 ≥ 256 then 0 else lostByte m.lost ((a - apertureBase) / 0x200000) a) m.mem = true ∧
    Sparse.wf (fun a => if a / 262144 ≥ 256 then 0 else lostByte m.lost (256 + a / 262144) a) m.imem = true ∧
    Sparse.wf (fun a => lostByte m.lost (512 + a / 2097152) a) m.sram = true ∧ Sparse.wf zeroByte m.hop = true ∧
    Sparse.wf zeroByte m.host = true ∧ Sparse.wf zeroByte m.nor = true ∧ Sparse.wf zeroByte m.apxReq = true ∧
    Sparse.wf zeroByte m.apxRsp = true := by
  unfold Memories.wf
  simp only [Bool.and_eq_true, and_assoc]

theorem foldl1_wf {α β : Type} (g : State × β → α → State × β) (l : List α) (s : State × β) (hs : s.1.memories.wf = true)
    (h : ∀ t x, t.1.memories.wf = true → (g t x).1.memories.wf = true) : (l.foldl g s).1.memories.wf = true := by
  induction l generalizing s with
  | nil => exact hs
  | cons x l ih => exact ih (g s x) (h s x hs)

theorem foldl1_memories {α β : Type} (g : State × β → α → State × β) (l : List α) (s : State × β)
    (h : ∀ t x, (g t x).1.memories = t.1.memories) : (l.foldl g s).1.memories = s.1.memories := by
  induction l generalizing s with
  | nil => rfl
  | cons x l ih => exact (ih (g s x)).trans (h s x)

/-! ### Ops -/

@[simp] theorem State.wr_memories (s : State) (c : Card) (i : Nat) (w : Word) : (State.wr s c i w).memories = s.memories := by
  unfold State.wr
  simp only [memories_mk, memories_eta]

@[simp] theorem State.sf_memories (s : State) (f : Fld) (i v : Nat) : (State.sf s f i v).memories = s.memories := by
  unfold State.sf
  simp only [State.wr_memories]

@[simp] theorem State.setPair_memories (s : State) (lo hi : Card) (i v : Nat) : (State.setPair s lo hi i v).memories = s.memories := by
  unfold State.setPair
  simp only [State.wr_memories]

@[simp] theorem State.resetRegs_memories (s : State) (sel : Card → Nat → Bool) : (State.resetRegs s sel).memories = s.memories := by
  unfold State.resetRegs
  simp only [memories_mk, memories_eta]

@[simp] theorem State.emit_memories (s : State) (o : Output) : (State.emit s o).memories = s.memories := by
  unfold State.emit
  simp only [memories_mk, memories_eta]

@[simp] theorem State.modBoot_memories (s : State) (f : Boot → Boot) (hnor : (f s.boot).nor = s.boot.nor) : (State.modBoot s f).memories = s.memories := by
  unfold State.modBoot
  rw [memories_mk, hnor]
  rfl

@[simp] theorem State.emits_memories (s : State) (os : List Output) : (State.emits s os).memories = s.memories := by
  unfold State.emits
  simp only [memories_mk, memories_eta]

@[simp] theorem State.spin_memories (s : State) : (State.spin s).memories = s.memories := by
  unfold State.spin
  repeat' first
    | with_reducible rfl
    | (simp only [ite_memories, ite_self, foldl_memories, implies_true]; done)
    | (with_reducible refine (foldl_memories _ _ _ (fun t x => ?_)).trans ?_)
    | (with_reducible refine (foldl1_memories _ _ _ (fun t x => ?_)).trans ?_)
    | split
    | (simp only [])
    | (simp only [memories_mk])
    | (simp only [memories_eta])

@[simp] theorem State.until_memories (s : State) (t : Nat) : (State.until s t).memories = s.memories := by
  unfold State.until
  repeat' first
    | with_reducible rfl
    | (simp only [ite_memories, ite_self, foldl_memories, implies_true, State.spin_memories]; done)
    | (with_reducible refine (foldl_memories _ _ _ (fun t x => ?_)).trans ?_)
    | (with_reducible refine (foldl1_memories _ _ _ (fun t x => ?_)).trans ?_)
    | split
    | (simp only [State.spin_memories])
    | (simp only [])
    | (simp only [memories_mk])
    | (simp only [memories_eta])

@[simp] theorem State.untilM_memories (s : State) (t : Nat) : (State.untilM s t).memories = s.memories := by
  unfold State.untilM
  repeat' first
    | with_reducible rfl
    | (simp only [ite_memories, ite_self, foldl_memories, implies_true, State.spin_memories]; done)
    | (with_reducible refine (foldl_memories _ _ _ (fun t x => ?_)).trans ?_)
    | (with_reducible refine (foldl1_memories _ _ _ (fun t x => ?_)).trans ?_)
    | split
    | (simp only [State.spin_memories])
    | (simp only [])
    | (simp only [memories_mk])
    | (simp only [memories_eta])

@[simp] theorem State.portFrame_memories (s : State) (n : Nat) : (State.portFrame s n).memories = s.memories := by
  unfold State.portFrame
  simp only [memories_mk, memories_eta, ite_memories, ite_self]

@[simp] theorem State.sendOut_memories (s : State) (n : Nat) (o : Output) : (State.sendOut s n o).memories = s.memories := by
  unfold State.sendOut
  simp only [State.emit_memories, State.portFrame_memories]

@[simp] theorem State.fresh_memories (s : State) : (State.fresh s).2.memories = s.memories := by
  unfold State.fresh
  simp only [memories_mk, memories_eta]

@[simp] theorem State.newUid_memories (s : State) : (State.newUid s).2.memories = s.memories := by
  unfold State.newUid
  simp only [memories_mk, memories_eta]

@[simp] theorem State.setFacet_memories (s : State) (f : Nat) (x : Facet) : (State.setFacet s f x).memories = s.memories := by
  unfold State.setFacet
  simp only [memories_mk, memories_eta]

@[simp] theorem State.modFacet_memories (s : State) (f : Nat) (g : Facet → Facet) : (State.modFacet s f g).memories = s.memories := by
  unfold State.modFacet
  simp only [State.setFacet_memories]

@[simp] theorem State.setPrt_memories (s : State) (p : Nat) (x : Partition) : (State.setPrt s p x).memories = s.memories := by
  unfold State.setPrt
  simp only [memories_mk, memories_eta]

@[simp] theorem State.modPrt_memories (s : State) (p : Nat) (g : Partition → Partition) : (State.modPrt s p g).memories = s.memories := by
  unfold State.modPrt
  simp only [State.setPrt_memories]

@[simp] theorem State.setRail_memories (s : State) (p : Nat) (x : Rail) : (State.setRail s p x).memories = s.memories := by
  unfold State.setRail
  repeat' first
    | with_reducible rfl
    | (simp only [ite_memories, ite_self, foldl_memories, implies_true]; done)
    | (with_reducible refine (foldl_memories _ _ _ (fun t x => ?_)).trans ?_)
    | (with_reducible refine (foldl1_memories _ _ _ (fun t x => ?_)).trans ?_)
    | split
    | (simp only [])
    | (simp only [memories_mk])
    | (simp only [memories_eta])

@[simp] theorem State.modRail_memories (s : State) (p : Nat) (g : Rail → Rail) : (State.modRail s p g).memories = s.memories := by
  unfold State.modRail
  repeat' first
    | with_reducible rfl
    | (simp only [ite_memories, ite_self, foldl_memories, implies_true, State.setRail_memories]; done)
    | (with_reducible refine (foldl_memories _ _ _ (fun t x => ?_)).trans ?_)
    | (with_reducible refine (foldl1_memories _ _ _ (fun t x => ?_)).trans ?_)
    | split
    | (simp only [State.setRail_memories])
    | (simp only [])
    | (simp only [memories_mk])
    | (simp only [memories_eta])

@[simp] theorem State.setD_memories (s : State) (index sub : Nat) (v : DVal) : (State.setD s index sub v).memories = s.memories := by
  unfold State.setD
  simp only [memories_mk, memories_eta, ite_memories, ite_self]

@[simp] theorem State.setN_memories (s : State) (index sub n : Nat) : (State.setN s index sub n).memories = s.memories := by
  unfold State.setN
  simp only [State.setD_memories]

@[simp] theorem State.bump_memories (s : State) (index sub : Nat) : (State.bump s index sub).memories = s.memories := by
  unfold State.bump
  simp only [State.setN_memories]

@[simp] theorem State.bumpBy_memories (s : State) (index sub n : Nat) : (State.bumpBy s index sub n).memories = s.memories := by
  unfold State.bumpBy
  simp only [State.setN_memories]

@[simp] theorem State.pushEvent_memories (s : State) (cls : Nat) (detail : List Byte) (all : Bool) : (State.pushEvent s cls detail all).memories = s.memories := by
  unfold State.pushEvent
  repeat' first
    | with_reducible rfl
    | (simp only [memories_mk, memories_eta, ite_memories, ite_self, State.bump_memories, State.sf_memories]; done)
    | (with_reducible refine (foldl_memories _ _ _ (fun t x => ?_)).trans ?_)
    | split

@[simp] theorem State.setSpent_memories (s : State) (src n since : Nat) : (State.setSpent s src n since).memories = s.memories := by
  unfold State.setSpent
  repeat' first
    | with_reducible rfl
    | (simp only [ite_memories, ite_self, foldl_memories, implies_true]; done)
    | (with_reducible refine (foldl_memories _ _ _ (fun t x => ?_)).trans ?_)
    | (with_reducible refine (foldl1_memories _ _ _ (fun t x => ?_)).trans ?_)
    | split
    | (simp only [])
    | (simp only [memories_mk])
    | (simp only [memories_eta])

@[simp] theorem State.logWrite_memories (s : State) (e : LogEntry) : (State.logWrite s e).memories = s.memories := by
  unfold State.logWrite
  simp only [memories_mk, memories_eta, ite_memories, ite_self, foldl_memories, implies_true, State.bump_memories, State.emit_memories, State.pushEvent_memories, State.sf_memories]

@[simp] theorem State.logLost_memories (s : State) (lo hi : Card) : (State.logLost s lo hi).memories = s.memories := by
  unfold State.logLost
  simp only [State.setPair_memories]

@[simp] theorem State.report_memories (s : State) (src code cls : Nat) (part : Option Nat) (detail : Nat) : (State.report s src code cls part detail).memories = s.memories := by
  unfold State.report
  repeat' first
    | with_reducible rfl
    | (simp only [ite_memories, ite_self, foldl_memories, implies_true, State.bump_memories, State.logLost_memories, State.logWrite_memories, State.setSpent_memories, State.sf_memories]; done)
    | (with_reducible refine (foldl_memories _ _ _ (fun t x => ?_)).trans ?_)
    | (with_reducible refine (foldl1_memories _ _ _ (fun t x => ?_)).trans ?_)
    | split
    | (simp only [State.bump_memories, State.logLost_memories, State.logWrite_memories, State.setSpent_memories, State.sf_memories])
    | (simp only [])
    | (simp only [memories_mk])
    | (simp only [memories_eta])

@[simp] theorem State.setFlt_memories (s : State) (v : Nat) : (State.setFlt s v).memories = s.memories := by
  unfold State.setFlt
  simp only [ite_memories, ite_self, State.pushEvent_memories, State.sf_memories]

theorem writeEcc_wf (d : Nat → Byte) (size : Nat → Nat) (m : List Host.Cell) (uc : List Nat) (a : Nat) (bs : List Byte)
    (h : Sparse.wf d m = true) : Sparse.wf d (writeEcc d size m uc a bs).1 = true := by
  unfold writeEcc
  exact Sparse.wf_blit _ _ _ _ h

theorem State.writeMem_wf (s : State) (a : Nat) (bs : List Byte) (hwf : s.memories.wf = true) :
    (s.writeMem a bs).1.memories.wf = true := by
  rw [Memories.wf_iff] at hwf ⊢
  exact ⟨writeEcc_wf _ _ _ _ _ _ hwf.1, hwf.2⟩

theorem State.zeroMem_wf (s : State) (a n : Nat) (hwf : s.memories.wf = true) : (s.zeroMem a n).memories.wf = true := by
  rw [Memories.wf_iff] at hwf ⊢
  exact ⟨Sparse.wf_erase _ _ _ _ hwf.1, hwf.2⟩

theorem erase_wf_of (d d' : Nat → Byte) (m : List Host.Cell) (a n : Nat) (h : Sparse.wf d m = true)
    (e : ∀ k, ¬(a ≤ k ∧ k < a + n) → d' k = d k) : Sparse.wf d' (Sparse.erase m a n) = true := by
  have h2 := Sparse.wf_erase d m a n h
  rw [Sparse.wf_iff] at h2 ⊢
  refine ⟨h2.1, fun x hx => ?_⟩
  have h3 := h2.2 x hx
  unfold Sparse.erase Sparse.drop at hx
  have h4 := (List.mem_filter.mp hx).2
  rw [e x.1 (fun hh => by simp [hh.1, hh.2] at h4)]
  exact h3

theorem wf_of_eq (d d' : Nat → Byte) (m : List Host.Cell) (h : Sparse.wf d m = true) (e : ∀ k, d' k = d k) :
    Sparse.wf d' m = true := by
  have : d' = d := funext e
  rw [this]; exact h

theorem lostByte_put_other (l : List (Nat × Nat)) (k k' v a : Nat) (h : k' ≠ k) :
    lostByte (Sparse.put (fun _ => 0) l k v) k' a = lostByte l k' a := by
  unfold lostByte; rw [Sparse.get_put_other _ _ _ _ _ h]

theorem State.clearScratch_wf (s : State) (f v : Nat) (hwf : s.memories.wf = true) :
    (s.clearScratch f v).memories.wf = true := by
  unfold State.clearScratch
  split
  · exact hwf
  rename_i hf
  rw [Memories.wf_iff] at hwf ⊢
  refine ⟨erase_wf_of _ _ _ _ _ hwf.1 (fun k hk => ?_), wf_of_eq _ _ _ hwf.2.1 (fun k => ?_), wf_of_eq _ _ _ hwf.2.2.1 (fun k => ?_), hwf.2.2.2⟩
  · show (if _ then _ else _) = (if _ then _ else _)
    split
    · rfl
    · refine lostByte_put_other _ _ _ _ _ ?_
      unfold spAddr apertureBase at *
      omega
  · show (if _ then _ else _) = (if _ then _ else _)
    split
    · rfl
    · exact lostByte_put_other _ _ _ _ _ (by omega)
  · exact lostByte_put_other _ _ _ _ _ (by omega)

theorem State.clearImem_wf (s : State) (f v : Nat) (hwf : s.memories.wf = true) :
    (s.clearImem f v).memories.wf = true := by
  unfold State.clearImem
  split
  · exact hwf
  rename_i hf
  rw [Memories.wf_iff] at hwf ⊢
  refine ⟨wf_of_eq _ _ _ hwf.1 (fun k => ?_), erase_wf_of _ _ _ _ _ hwf.2.1 (fun k hk => ?_), wf_of_eq _ _ _ hwf.2.2.1 (fun k => ?_), hwf.2.2.2⟩
  · show (if _ then _ else _) = (if _ then _ else _)
    split
    · rfl
    · exact lostByte_put_other _ _ _ _ _ (by omega)
  · show (if _ then _ else _) = (if _ then _ else _)
    split
    · rfl
    · exact lostByte_put_other _ _ _ _ _ (by omega)
  · exact lostByte_put_other _ _ _ _ _ (by omega)

theorem State.clearSram_wf (s : State) (e v : Nat) (hwf : s.memories.wf = true) : (s.clearSram e v).memories.wf = true := by
  rw [Memories.wf_iff] at hwf ⊢
  refine ⟨wf_of_eq _ _ _ hwf.1 (fun k => ?_), wf_of_eq _ _ _ hwf.2.1 (fun k => ?_), erase_wf_of _ _ _ _ _ hwf.2.2.1 (fun k hk => ?_), hwf.2.2.2⟩
  · show (if _ then _ else _) = (if _ then _ else _)
    split
    · rfl
    · exact lostByte_put_other _ _ _ _ _ (by omega)
  · show (if _ then _ else _) = (if _ then _ else _)
    split
    · rfl
    · exact lostByte_put_other _ _ _ _ _ (by omega)
  · exact lostByte_put_other _ _ _ _ _ (by omega)

theorem State.writeImem_wf (s : State) (f b : Nat) (bs : List Byte) (hwf : s.memories.wf = true) :
    (s.writeImem f b bs).1.memories.wf = true := by
  rw [Memories.wf_iff] at hwf ⊢
  exact ⟨hwf.1, writeEcc_wf _ _ _ _ _ _ hwf.2.1, hwf.2.2⟩

theorem State.writeSram_wf (s : State) (e b : Nat) (bs : List Byte) (hwf : s.memories.wf = true) :
    (s.writeSram e b bs).1.memories.wf = true := by
  rw [Memories.wf_iff] at hwf ⊢
  exact ⟨hwf.1, hwf.2.1, writeEcc_wf _ _ _ _ _ _ hwf.2.2.1, hwf.2.2.2⟩

@[simp] theorem State.reportUc_memories (s : State) (a : Nat) (part : Option Nat) : (State.reportUc s a part).memories = s.memories := by
  unfold State.reportUc
  simp only [ite_memories, ite_self, State.bump_memories, State.report_memories]

@[simp] theorem State.reportEc_memories (s : State) (a n : Nat) : (State.reportEc s a n).memories = s.memories := by
  unfold State.reportEc
  simp only [ite_memories, ite_self, foldl_memories, implies_true, State.bump_memories, State.report_memories]

@[simp] theorem State.watch_memories (s : State) (owner : Option Nat) (idx : Nat) (l : List (Nat × Nat)) : (State.watch s owner idx l).memories = s.memories := by
  unfold State.watch
  repeat' first
    | with_reducible rfl
    | (simp only [ite_memories, ite_self, foldl_memories, implies_true]; done)
    | (with_reducible refine (foldl_memories _ _ _ (fun t x => ?_)).trans ?_)
    | (with_reducible refine (foldl1_memories _ _ _ (fun t x => ?_)).trans ?_)
    | split
    | (simp only [])
    | (simp only [memories_mk])
    | (simp only [memories_eta])

@[simp] theorem State.unwatch_memories (s : State) (owner : Option Nat) : (State.unwatch s owner).memories = s.memories := by
  unfold State.unwatch
  repeat' first
    | with_reducible rfl
    | (simp only [ite_memories, ite_self, foldl_memories, implies_true]; done)
    | (with_reducible refine (foldl_memories _ _ _ (fun t x => ?_)).trans ?_)
    | (with_reducible refine (foldl1_memories _ _ _ (fun t x => ?_)).trans ?_)
    | split
    | (simp only [])
    | (simp only [memories_mk])
    | (simp only [memories_eta])

@[simp] theorem State.sbAdd_memories (s : State) (f c n : Nat) : (State.sbAdd s f c n).memories = s.memories := by
  unfold State.sbAdd
  simp only [ite_memories, ite_self, State.sf_memories]

@[simp] theorem State.sbInc_memories (s : State) (f c : Nat) (err : Bool) : (State.sbInc s f c err).memories = s.memories := by
  unfold State.sbInc
  simp only [ite_memories, ite_self, State.sbAdd_memories, State.sf_memories]

/-! ### Operands -/

@[simp] theorem State.setTicket_memories (s : State) (k : Nat) (x : Ticket) : (State.setTicket s k x).memories = s.memories := by
  unfold State.setTicket
  repeat' first
    | (simp only [memories_mk])
    | (simp only [memories_eta])

@[simp] theorem State.modTicket_memories (s : State) (k : Nat) (g : Ticket → Ticket) : (State.modTicket s k g).memories = s.memories := by
  unfold State.modTicket
  simp only [State.setTicket_memories]

@[simp] theorem State.pruneTables_memories (s : State) : (State.pruneTables s).memories = s.memories := by
  unfold State.pruneTables
  repeat' first
    | with_reducible rfl
    | (simp only [ite_memories, ite_self, foldl_memories, implies_true]; done)
    | (with_reducible refine (foldl_memories _ _ _ (fun t x => ?_)).trans ?_)
    | (with_reducible refine (foldl1_memories _ _ _ (fun t x => ?_)).trans ?_)
    | split
    | (simp only [])
    | (simp only [memories_mk])
    | (simp only [memories_eta])

theorem State.placeTables_wf (s : State) (hwf : s.memories.wf = true) : (State.placeTables s).memories.wf = true := by
  unfold State.placeTables
  refine foldl_wf _ _ _ ?_ (fun t x hwf => ?_)
  · simp only [State.pruneTables_memories, hwf]
  · dsimp only
    split
    · assumption
    · exact State.zeroMem_wf _ _ _ hwf

theorem State.writePieces_wf (s : State) (l : List (Nat × Nat)) (bs : List Byte) (hwf : s.memories.wf = true) :
    (State.writePieces s l bs).1.memories.wf = true := by
  induction l generalizing s bs with
  | nil => exact hwf
  | cons x l ih => exact ih _ _ (State.writeMem_wf _ _ _ hwf)

@[simp] theorem State.touchKv_memories (s : State) (off n : Nat) (write : Bool) : (State.touchKv s off n write).memories = s.memories := by
  unfold State.touchKv
  repeat' first
    | with_reducible rfl
    | (simp only [ite_memories, ite_self, foldl_memories, implies_true]; done)
    | (with_reducible refine (foldl_memories _ _ _ (fun t x => ?_)).trans ?_)
    | (with_reducible refine (foldl1_memories _ _ _ (fun t x => ?_)).trans ?_)
    | split
    | (simp only [])
    | (simp only [memories_mk])
    | (simp only [memories_eta])

@[simp] theorem State.touch_memories (s : State) (p off n : Nat) (write : Bool) : (State.touch s p off n write).memories = s.memories := by
  unfold State.touch
  split
  · rfl
  split
  · simp only [State.touchKv_memories]
  · simp only [State.bumpBy_memories]
    rfl

@[simp] theorem State.markTable_memories (s : State) (t : Nat × Nat × Nat) : (State.markTable s t).memories = s.memories := by
  unfold State.markTable
  repeat' first
    | (simp only [ite_memories, State.bump_memories]; done)
    | split
    | (simp only [State.bump_memories])
    | (simp only [memories_mk])
    | (simp only [memories_eta])

/-! ### Flags -/

@[simp] theorem State.setBit_memories (s : State) (c : Card) (i k : Nat) : (State.setBit s c i k).memories = s.memories := by
  unfold State.setBit
  simp only [State.sf_memories]

@[simp] theorem State.facetErr_memories (s : State) (f k detail : Nat) : (State.facetErr s f k detail).memories = s.memories := by
  unfold State.facetErr
  simp only [ite_memories, ite_self, State.bump_memories, State.report_memories, State.setBit_memories]

@[simp] theorem State.haltOwed_memories (s : State) (p f : Nat) : (State.haltOwed s p f).memories = s.memories := by
  unfold State.haltOwed
  repeat' first
    | with_reducible rfl
    | (simp only [ite_memories, ite_self, foldl_memories, implies_true, State.modPrt_memories]; done)
    | (with_reducible refine (foldl_memories _ _ _ (fun t x => ?_)).trans ?_)
    | (with_reducible refine (foldl1_memories _ _ _ (fun t x => ?_)).trans ?_)
    | split
    | (simp only [State.modPrt_memories])
    | (simp only [])
    | (simp only [memories_mk])
    | (simp only [memories_eta])

@[simp] theorem State.haltErr_memories (s : State) (f k detail : Nat) : (State.haltErr s f k detail).memories = s.memories := by
  unfold State.haltErr
  repeat' first
    | with_reducible rfl
    | (simp only [ite_memories, ite_self, foldl_memories, implies_true, State.bump_memories, State.facetErr_memories, State.haltOwed_memories, State.modFacet_memories, State.sf_memories]; done)
    | (with_reducible refine (foldl_memories _ _ _ (fun t x => ?_)).trans ?_)
    | (with_reducible refine (foldl1_memories _ _ _ (fun t x => ?_)).trans ?_)
    | split
    | (simp only [State.bump_memories, State.facetErr_memories, State.haltOwed_memories, State.modFacet_memories, State.sf_memories])
    | (simp only [])
    | (simp only [memories_mk])
    | (simp only [memories_eta])

@[simp] theorem State.arcFlag_memories (s : State) (f k detail : Nat) : (State.arcFlag s f k detail).memories = s.memories := by
  unfold State.arcFlag
  repeat' first
    | with_reducible rfl
    | (simp only [ite_memories, ite_self, foldl_memories, implies_true, State.report_memories, State.setBit_memories]; done)
    | (with_reducible refine (foldl_memories _ _ _ (fun t x => ?_)).trans ?_)
    | (with_reducible refine (foldl1_memories _ _ _ (fun t x => ?_)).trans ?_)
    | split
    | (simp only [State.report_memories, State.setBit_memories])
    | (simp only [])
    | (simp only [memories_mk])
    | (simp only [memories_eta])

@[simp] theorem State.astat_memories (s : State) (c : Card) (i : Nat) (g : CvtFlags) : (State.astat s c i g).memories = s.memories := by
  unfold State.astat
  simp only [ite_memories, ite_self, State.setBit_memories]

/-! ### Access -/

@[simp] theorem State.rejectAccess_memories (s : State) (r : Requester) (addr : Nat) (write : Bool) : (State.rejectAccess s r addr write).memories = s.memories := by
  unfold State.rejectAccess
  repeat' first
    | (simp only [State.emit_memories, State.report_memories]; done)
    | split

@[simp] theorem State.stopAll_memories (s : State) : (State.stopAll s).memories = s.memories := by
  unfold State.stopAll
  repeat' first
    | with_reducible rfl
    | (simp only [ite_memories, ite_self, foldl_memories, implies_true, State.sf_memories, State.wr_memories]; done)
    | (with_reducible refine (foldl_memories _ _ _ (fun t x => ?_)).trans ?_)
    | (with_reducible refine (foldl1_memories _ _ _ (fun t x => ?_)).trans ?_)
    | split
    | (simp only [State.sf_memories, State.wr_memories])
    | (simp only [])
    | (simp only [memories_mk])
    | (simp only [memories_eta])

@[simp] theorem State.fatal_memories (s : State) (src code detail : Nat) : (State.fatal s src code detail).memories = s.memories := by
  unfold State.fatal
  repeat' first
    | with_reducible rfl
    | (simp only [ite_memories, ite_self, foldl_memories, implies_true, State.bump_memories, State.emit_memories, State.pushEvent_memories, State.report_memories, State.setFlt_memories, State.stopAll_memories]; done)
    | (with_reducible refine (foldl_memories _ _ _ (fun t x => ?_)).trans ?_)
    | (with_reducible refine (foldl1_memories _ _ _ (fun t x => ?_)).trans ?_)
    | split
    | (simp only [State.bump_memories, State.emit_memories, State.pushEvent_memories, State.report_memories, State.setFlt_memories, State.stopAll_memories])
    | (simp only [])
    | (simp only [memories_mk])
    | (simp only [memories_eta])

@[simp] theorem State.fatalVertex_memories (s : State) (k : Nat) : (State.fatalVertex s k).memories = s.memories := by
  unfold State.fatalVertex
  repeat' first
    | with_reducible rfl
    | (simp only [ite_memories, ite_self, foldl_memories, implies_true, State.fatal_memories]; done)
    | (with_reducible refine (foldl_memories _ _ _ (fun t x => ?_)).trans ?_)
    | (with_reducible refine (foldl1_memories _ _ _ (fun t x => ?_)).trans ?_)
    | split
    | (simp only [State.fatal_memories])
    | (simp only [])
    | (simp only [memories_mk])
    | (simp only [memories_eta])

@[simp] theorem State.gate_memories (s : State) (r : Requester) (c : Card) (i : Nat) (k : State → State) (hk : ∀ t , (k t ).memories = t.memories) : (State.gate s r c i k).memories = s.memories := by
  unfold State.gate
  simp only [ite_memories, ite_self, State.rejectAccess_memories, hk]

theorem State.gate_wf (s : State) (r : Requester) (c : Card) (i : Nat) (k : State → State) (hwf : s.memories.wf = true) (hk : ∀ t , t.memories.wf = true → (k t ).memories.wf = true) : (State.gate s r c i k).memories.wf = true := by
  unfold State.gate
  simp only [hwf, ite_memories, Memories.ite_wf, ite_self, State.rejectAccess_memories, hk]

@[simp] theorem State.cmdDone_memories (s : State) (c : Card) (i code status : Nat) : (State.cmdDone s c i code status).memories = s.memories := by
  unfold State.cmdDone
  simp only [State.sf_memories]

@[simp] theorem State.cmdCode_memories (s : State) (c : Card) (i code status res : Nat) : (State.cmdCode s c i code status res).memories = s.memories := by
  unfold State.cmdCode
  simp only [State.cmdDone_memories, State.sf_memories]

@[simp] theorem State.mergeReg_memories (s : State) (c : Card) (i be : Nat) (val : Word) : (State.mergeReg s c i be val).memories = s.memories := by
  unfold State.mergeReg
  simp only [State.wr_memories]

@[simp] theorem State.unshadow_memories (s : State) (r : Requester) (lo : Card) (i : Nat) : (State.unshadow s r lo i).memories = s.memories := by
  unfold State.unshadow
  repeat' first
    | with_reducible rfl
    | (simp only [ite_memories, ite_self, foldl_memories, implies_true]; done)
    | (with_reducible refine (foldl_memories _ _ _ (fun t x => ?_)).trans ?_)
    | (with_reducible refine (foldl1_memories _ _ _ (fun t x => ?_)).trans ?_)
    | split
    | (simp only [])
    | (simp only [memories_mk])
    | (simp only [memories_eta])

@[simp] theorem State.shadow_memories (s : State) (x : Shadow) : (State.shadow s x).memories = s.memories :=
  (State.unshadow_memories s _ _ _ : (s.unshadow x.r x.card x.inst).memories = s.memories)

theorem State.pairHold_memories (s : State) (r : Requester) (lo hi c : Card) (i be : Nat) (val : Word)
    (go : Card → (State → State) → State → State)
    (hgo : ∀ c g t, (∀ u, (g u).memories = u.memories) → (go c g t).memories = t.memories) :
    (State.pairHold s r lo hi c i be val go).memories = s.memories := by
  unfold State.pairHold
  repeat' first
    | (simp only [State.shadow_memories, State.unshadow_memories]; done)
    | split
    | (rw [hgo _ _ _ (fun u => by simp only [State.mergeReg_memories]), State.unshadow_memories]; done)
    | (simp only [])

theorem State.pairHold_wf (s : State) (r : Requester) (lo hi c : Card) (i be : Nat) (val : Word)
    (go : Card → (State → State) → State → State) (hwf : s.memories.wf = true)
    (hgo : ∀ c g t, (∀ u, (g u).memories = u.memories) → t.memories.wf = true → (go c g t).memories.wf = true) :
    (State.pairHold s r lo hi c i be val go).memories.wf = true := by
  unfold State.pairHold
  repeat' first
    | (simp only [State.shadow_memories, State.unshadow_memories, hwf]; done)
    | split
    | (refine hgo _ _ _ (fun u => ?_) ?_ <;> simp only [State.mergeReg_memories, State.unshadow_memories, hwf]; done)
    | (simp only [])

theorem State.write4_memories (s : State) (r : Requester) (c : Card) (i be : Nat) (val : Word)
    (go : Card → (State → State) → State → State)
    (hgo : ∀ c g t, (∀ u, (g u).memories = u.memories) → (go c g t).memories = t.memories) :
    (State.write4 s r c i be val go).memories = s.memories := by
  unfold State.write4
  repeat' first
    | split
    | exact State.pairHold_memories _ _ _ _ _ _ _ _ _ hgo
    | exact hgo _ _ _ (fun u => by simp only [State.mergeReg_memories])

theorem State.write4_wf (s : State) (r : Requester) (c : Card) (i be : Nat) (val : Word)
    (go : Card → (State → State) → State → State) (hwf : s.memories.wf = true)
    (hgo : ∀ c g t, (∀ u, (g u).memories = u.memories) → t.memories.wf = true → (go c g t).memories.wf = true) :
    (State.write4 s r c i be val go).memories.wf = true := by
  unfold State.write4
  repeat' first
    | split
    | exact State.pairHold_wf _ _ _ _ _ _ _ _ _ hwf hgo
    | exact hgo _ _ _ (fun u => by simp only [State.mergeReg_memories]) hwf

end Sys2Proof.Machine
end

