-- ==== Sys2Proof/Laws/KeepFacet.lean ====
section
/-! SUPPORT. What happens to the memories, and that they keep their canonical form: the Facets: matrix, vector, Arc, control and neighbour operations. -/

namespace Sys2Proof.Machine

/-! ### Lattice -/

@[simp] theorem State.flowSeq_memories (s : State) (f : Nat) : (State.flowSeq s f).memories = s.memories := by
  unfold State.flowSeq
  simp only [State.setFacet_memories, State.sf_memories]

@[simp] theorem State.flowJump_memories (s : State) (f target : Nat) : (State.flowJump s f target).memories = s.memories := by
  unfold State.flowJump
  simp only [State.setFacet_memories, State.sf_memories]

@[simp] theorem State.flowIdle_memories (s : State) (f : Nat) : (State.flowIdle s f).memories = s.memories := by
  unfold State.flowIdle
  simp only [State.flowSeq_memories, State.modFacet_memories]

theorem State.scramble_wf (s : State) (f : Nat) (d : Dest) (hwf : s.memories.wf = true) : (State.scramble s f d).memories.wf = true := by
  unfold State.scramble
  repeat' first
    | (simp only [hwf, State.fresh_memories, State.modFacet_memories, State.writeMem_wf]; done)
    | split

theorem State.scrambleAll_wf (s : State) (f : Nat) (ds : List Dest) (hwf : s.memories.wf = true) : (State.scrambleAll s f ds).memories.wf = true := by
  unfold State.scrambleAll
  repeat' first
    | with_reducible assumption
    | (simp only [hwf, State.scramble_wf]; done)
    | (with_reducible refine foldl_wf _ _ _ ?_ (fun t x hwf => ?_))

/-! ### Cells -/

@[simp] theorem State.putRow_memories (s : State) (f b r : Nat) (cs : List Cell) : (State.putRow s f b r cs).memories = s.memories := by
  unfold State.putRow
  simp only [State.modFacet_memories]

/-! ### Lanes -/

/-! ### Cycle -/

@[simp] theorem State.setGroup_memories (s : State) (g : Nat) (x : Group) : (State.setGroup s g x).memories = s.memories := by
  unfold State.setGroup
  repeat' first
    | with_reducible rfl
    | (simp only [ite_memories, ite_self, foldl_memories, implies_true]; done)
    | (with_reducible refine (foldl_memories _ _ _ (fun t x => ?_)).trans ?_)
    | (with_reducible refine (foldl1_memories _ _ _ (fun t x => ?_)).trans ?_)
    | split
    | (simp only [])
    | (simp only [memories_mk])
    | (simp only [memories_eta])

@[simp] theorem State.wakeGroup_memories (s : State) (g : Nat) : (State.wakeGroup s g).memories = s.memories := by
  unfold State.wakeGroup
  repeat' first
    | with_reducible rfl
    | (simp only [ite_memories, ite_self, foldl_memories, implies_true, State.setGroup_memories]; done)
    | (with_reducible refine (foldl_memories _ _ _ (fun t x => ?_)).trans ?_)
    | (with_reducible refine (foldl1_memories _ _ _ (fun t x => ?_)).trans ?_)
    | split
    | (simp only [State.setGroup_memories])
    | (simp only [])
    | (simp only [memories_mk])
    | (simp only [memories_eta])

@[simp] theorem State.consume_memories (s : State) (a : Nat) (bs : List Byte) : (State.consume s a bs).1.memories = s.memories := by
  unfold State.consume
  repeat' first
    | with_reducible rfl
    | (simp only [ite_memories, ite_self, foldl_memories, implies_true, State.fresh_memories]; done)
    | (with_reducible refine (foldl_memories _ _ _ (fun t x => ?_)).trans ?_)
    | (with_reducible refine (foldl1_memories _ _ _ (fun t x => ?_)).trans ?_)
    | split
    | (simp only [State.fresh_memories])
    | (simp only [])
    | (simp only [memories_mk])
    | (simp only [memories_eta])

@[simp] theorem State.unsettled_memories (s : State) (ps : List (Nat × Nat)) (ord : Unwaited → Bool) (bs : List Byte) : (State.unsettled s ps ord bs).1.memories = s.memories := by
  unfold State.unsettled
  repeat' first
    | with_reducible rfl
    | (simp only [ite_memories, ite_self, foldl_memories, implies_true, State.fresh_memories]; done)
    | (with_reducible refine (foldl_memories _ _ _ (fun t x => ?_)).trans ?_)
    | (with_reducible refine (foldl1_memories _ _ _ (fun t x => ?_)).trans ?_)
    | split
    | (simp only [State.fresh_memories])
    | (simp only [])
    | (simp only [memories_mk])
    | (simp only [memories_eta])

@[simp] theorem State.expect_memories (s : State) (f by_ uid run : Nat) (rs : List (Nat × Nat)) : (State.expect s f by_ uid run rs).memories = s.memories := by
  unfold State.expect
  repeat' first
    | with_reducible rfl
    | (simp only [ite_memories, ite_self, foldl_memories, implies_true]; done)
    | (with_reducible refine (foldl_memories _ _ _ (fun t x => ?_)).trans ?_)
    | (with_reducible refine (foldl1_memories _ _ _ (fun t x => ?_)).trans ?_)
    | split
    | (simp only [])
    | (simp only [memories_mk])
    | (simp only [memories_eta])

@[simp] theorem State.arrivedRuns_memories (s : State) (uid ctr : Nat) (is : Nat → Bool) : (State.arrivedRuns s uid ctr is).memories = s.memories := by
  unfold State.arrivedRuns
  repeat' first
    | with_reducible rfl
    | (simp only [ite_memories, ite_self, foldl_memories, implies_true]; done)
    | (with_reducible refine (foldl_memories _ _ _ (fun t x => ?_)).trans ?_)
    | (with_reducible refine (foldl1_memories _ _ _ (fun t x => ?_)).trans ?_)
    | split
    | (simp only [])
    | (simp only [memories_mk])
    | (simp only [memories_eta])

@[simp] theorem State.arrivedAll_memories (s : State) (uid ctr : Nat) : (State.arrivedAll s uid ctr).memories = s.memories := by
  unfold State.arrivedAll
  repeat' first
    | with_reducible rfl
    | (simp only [ite_memories, ite_self, foldl_memories, implies_true, State.arrivedRuns_memories]; done)
    | (with_reducible refine (foldl_memories _ _ _ (fun t x => ?_)).trans ?_)
    | (with_reducible refine (foldl1_memories _ _ _ (fun t x => ?_)).trans ?_)
    | split
    | (simp only [State.arrivedRuns_memories])
    | (simp only [])
    | (simp only [memories_mk])
    | (simp only [memories_eta])

@[simp] theorem State.waited_memories (s : State) (f ctr : Nat) : (State.waited s f ctr).memories = s.memories := by
  unfold State.waited
  repeat' first
    | with_reducible rfl
    | (simp only [ite_memories, ite_self, foldl_memories, implies_true]; done)
    | (with_reducible refine (foldl_memories _ _ _ (fun t x => ?_)).trans ?_)
    | (with_reducible refine (foldl1_memories _ _ _ (fun t x => ?_)).trans ?_)
    | split
    | (simp only [])
    | (simp only [memories_mk])
    | (simp only [memories_eta])

@[simp] theorem State.noteDelay_memories (s : State) (f c h : Nat) : (State.noteDelay s f c h).memories = s.memories := by
  unfold State.noteDelay
  repeat' first
    | with_reducible rfl
    | (simp only [ite_memories, ite_self, foldl_memories, implies_true, State.modFacet_memories]; done)
    | (with_reducible refine (foldl_memories _ _ _ (fun t x => ?_)).trans ?_)
    | (with_reducible refine (foldl1_memories _ _ _ (fun t x => ?_)).trans ?_)
    | split
    | (simp only [State.modFacet_memories])
    | (simp only [])
    | (simp only [memories_mk])
    | (simp only [memories_eta])

@[simp] theorem State.credit_memories (s : State) (f c n : Nat) : (State.credit s f c n).memories = s.memories := by
  unfold State.credit
  repeat' first
    | with_reducible rfl
    | (simp only [ite_memories, ite_self, foldl_memories, implies_true, State.modFacet_memories, State.modRail_memories]; done)
    | (with_reducible refine (foldl_memories _ _ _ (fun t x => ?_)).trans ?_)
    | (with_reducible refine (foldl1_memories _ _ _ (fun t x => ?_)).trans ?_)
    | split
    | (simp only [State.modFacet_memories, State.modRail_memories])
    | (simp only [])
    | (simp only [memories_mk])
    | (simp only [memories_eta])

@[simp] theorem State.takeLine_memories (s : State) (f l : Nat) : (State.takeLine s f l).1.memories = s.memories := by
  unfold State.takeLine
  repeat' first
    | with_reducible rfl
    | (simp only [ite_memories, ite_self, foldl_memories, implies_true, State.consume_memories, State.facetErr_memories, State.fresh_memories, State.haltErr_memories, State.reportEc_memories]; done)
    | (with_reducible refine (foldl_memories _ _ _ (fun t x => ?_)).trans ?_)
    | (with_reducible refine (foldl1_memories _ _ _ (fun t x => ?_)).trans ?_)
    | split
    | (simp only [State.consume_memories, State.facetErr_memories, State.fresh_memories, State.haltErr_memories, State.reportEc_memories])
    | (simp only [])
    | (simp only [memories_mk])
    | (simp only [memories_eta])

@[simp] theorem State.takeLines_memories (s : State) (f : Nat) (ls : List Nat) : (State.takeLines s f ls).1.memories = s.memories := by
  unfold State.takeLines
  repeat' first
    | with_reducible rfl
    | (simp only [ite_memories, ite_self, foldl_memories, implies_true, State.takeLine_memories]; done)
    | (with_reducible refine (foldl_memories _ _ _ (fun t x => ?_)).trans ?_)
    | (with_reducible refine (foldl1_memories _ _ _ (fun t x => ?_)).trans ?_)
    | split
    | (simp only [State.takeLine_memories])
    | (simp only [])
    | (simp only [memories_mk])
    | (simp only [memories_eta])

@[simp] theorem State.fillTile_memories (s : State) (f : Nat) (x : Flight) (bs : List Byte) : (State.fillTile s f x bs).memories = s.memories := by
  unfold State.fillTile
  repeat' first
    | with_reducible rfl
    | (simp only [ite_memories, ite_self, foldl_memories, implies_true, State.fresh_memories, State.modFacet_memories]; done)
    | (with_reducible refine (foldl_memories _ _ _ (fun t x => ?_)).trans ?_)
    | (with_reducible refine (foldl1_memories _ _ _ (fun t x => ?_)).trans ?_)
    | split
    | (simp only [State.fresh_memories, State.modFacet_memories])
    | (simp only [])
    | (simp only [memories_mk])
    | (simp only [memories_eta])

theorem State.mmaRow_wf (s : State) (f : Nat) (x : Flight) (bs : List Byte) (hwf : s.memories.wf = true) : (State.mmaRow s f x bs).1.memories.wf = true := by
  unfold State.mmaRow
  repeat' first
    | with_reducible assumption
    | (simp only [hwf, ite_memories, Memories.ite_wf, ite_self, foldl_memories, implies_true, State.bump_memories, State.putRow_memories, State.setBit_memories, State.scramble_wf]; done)
    | (with_reducible refine State.scramble_wf _ _ _ ?_)
    | (with_reducible refine foldl_wf _ _ _ ?_ (fun t x hwf => ?_))
    | (with_reducible refine foldl1_wf _ _ _ ?_ (fun t x hwf => ?_))
    | split
    | (simp only [State.bump_memories, State.putRow_memories, State.setBit_memories])
    | (simp only [])
    | (simp only [memories_mk])
    | (simp only [memories_eta])

@[simp] theorem State.setSeam_memories (s : State) (lane : Nat) (l : List SeamXfer) : (State.setSeam s lane l).memories = s.memories := by
  unfold State.setSeam
  repeat' first
    | (simp only [memories_mk])
    | (simp only [memories_eta])

@[simp] theorem State.seamBeat_memories (s : State) (f : Nat) (x : Flight) (bs : List Byte) : (State.seamBeat s f x bs).memories = s.memories := by
  unfold State.seamBeat
  repeat' first
    | with_reducible rfl
    | (simp only [ite_memories, ite_self, foldl_memories, implies_true, State.facetErr_memories, State.setSeam_memories, State.sf_memories]; done)
    | (with_reducible refine (foldl_memories _ _ _ (fun t x => ?_)).trans ?_)
    | (with_reducible refine (foldl1_memories _ _ _ (fun t x => ?_)).trans ?_)
    | split
    | (simp only [State.facetErr_memories, State.setSeam_memories, State.sf_memories])
    | (simp only [])
    | (simp only [memories_mk])
    | (simp only [memories_eta])

@[simp] theorem State.showPour_memories (s : State) (f : Nat) : (State.showPour s f).memories = s.memories := by
  unfold State.showPour
  repeat' first
    | with_reducible rfl
    | (simp only [ite_memories, ite_self, foldl_memories, implies_true, State.sf_memories]; done)
    | (with_reducible refine (foldl_memories _ _ _ (fun t x => ?_)).trans ?_)
    | (with_reducible refine (foldl1_memories _ _ _ (fun t x => ?_)).trans ?_)
    | split
    | (simp only [State.sf_memories])
    | (simp only [])
    | (simp only [memories_mk])
    | (simp only [memories_eta])

@[simp] theorem State.setPourQ_memories (s : State) (f : Nat) (q : List PourDesc) : (State.setPourQ s f q).memories = s.memories := by
  unfold State.setPourQ
  repeat' first
    | with_reducible rfl
    | (simp only [ite_memories, ite_self, foldl_memories, implies_true, State.modFacet_memories, State.showPour_memories]; done)
    | (with_reducible refine (foldl_memories _ _ _ (fun t x => ?_)).trans ?_)
    | (with_reducible refine (foldl1_memories _ _ _ (fun t x => ?_)).trans ?_)
    | split
    | (simp only [State.modFacet_memories, State.showPour_memories])
    | (simp only [])
    | (simp only [memories_mk])
    | (simp only [memories_eta])

@[simp] theorem State.pourLine_memories (s : State) (f : Nat) (x : Flight) (bs : List Byte) : (State.pourLine s f x bs).1.memories = s.memories := by
  unfold State.pourLine
  repeat' first
    | with_reducible rfl
    | (simp only [ite_memories, ite_self, foldl_memories, implies_true, State.facetErr_memories, State.setPourQ_memories]; done)
    | (with_reducible refine (foldl_memories _ _ _ (fun t x => ?_)).trans ?_)
    | (with_reducible refine (foldl1_memories _ _ _ (fun t x => ?_)).trans ?_)
    | split
    | (simp only [State.facetErr_memories, State.setPourQ_memories])
    | (simp only [])
    | (simp only [memories_mk])
    | (simp only [memories_eta])

@[simp] theorem State.addLand_memories (s : State) (f : Nat) (l : Land) : (State.addLand s f l).memories = s.memories := by
  unfold State.addLand
  repeat' first
    | with_reducible rfl
    | (simp only [ite_memories, ite_self, foldl_memories, implies_true, State.modFacet_memories]; done)
    | (with_reducible refine (foldl_memories _ _ _ (fun t x => ?_)).trans ?_)
    | (with_reducible refine (foldl1_memories _ _ _ (fun t x => ?_)).trans ?_)
    | split
    | (simp only [State.modFacet_memories])
    | (simp only [])
    | (simp only [memories_mk])
    | (simp only [memories_eta])

theorem State.readStep_wf (s : State) (f : Nat) (x : Flight) (hwf : s.memories.wf = true) : (State.readStep s f x).1.memories.wf = true := by
  unfold State.readStep
  repeat' first
    | with_reducible assumption
    | (simp only [hwf, ite_memories, Memories.ite_wf, ite_self, foldl_memories, implies_true, State.addLand_memories, State.fillTile_memories, State.fresh_memories, State.pourLine_memories, State.seamBeat_memories, State.takeLines_memories, State.mmaRow_wf]; done)
    | (with_reducible refine State.mmaRow_wf _ _ _ _ ?_)
    | (with_reducible refine foldl_wf _ _ _ ?_ (fun t x hwf => ?_))
    | (with_reducible refine foldl1_wf _ _ _ ?_ (fun t x hwf => ?_))
    | split
    | (simp only [State.addLand_memories, State.fillTile_memories, State.fresh_memories, State.pourLine_memories, State.seamBeat_memories, State.takeLines_memories])
    | (simp only [])
    | (simp only [memories_mk])
    | (simp only [memories_eta])

theorem State.writeLine_wf (s : State) (f l : Nat) (bs : List Byte) (bad : Bool) (hwf : s.memories.wf = true) : (State.writeLine s f l bs bad).memories.wf = true := by
  unfold State.writeLine
  repeat' first
    | with_reducible assumption
    | (simp only [hwf, ite_memories, Memories.ite_wf, ite_self, foldl_memories, implies_true, State.fresh_memories, State.writeMem_wf]; done)
    | (with_reducible refine State.writeMem_wf _ _ _ ?_)
    | (with_reducible refine foldl_wf _ _ _ ?_ (fun t x hwf => ?_))
    | (with_reducible refine foldl1_wf _ _ _ ?_ (fun t x hwf => ?_))
    | split
    | (simp only [State.fresh_memories])
    | (simp only [])
    | (simp only [memories_mk])
    | (simp only [memories_eta])

theorem State.writeStep_wf (s : State) (f : Nat) (x : Flight) (hwf : s.memories.wf = true) : (State.writeStep s f x).memories.wf = true := by
  unfold State.writeStep
  repeat' first
    | with_reducible assumption
    | (simp only [hwf, ite_memories, Memories.ite_wf, ite_self, foldl_memories, implies_true, State.writeLine_wf]; done)
    | (with_reducible refine State.writeLine_wf _ _ _ _ _ ?_)
    | (with_reducible refine foldl_wf _ _ _ ?_ (fun t x hwf => ?_))
    | (with_reducible refine foldl1_wf _ _ _ ?_ (fun t x hwf => ?_))
    | split
    | (simp only [])
    | (simp only [memories_mk])
    | (simp only [memories_eta])

theorem State.landOne_wf (s : State) (f : Nat) (ls : List Land) (l : Land) (hwf : s.memories.wf = true) : (State.landOne s f ls l).memories.wf = true := by
  unfold State.landOne
  repeat' first
    | with_reducible assumption
    | (simp only [hwf, ite_memories, Memories.ite_wf, ite_self, foldl_memories, implies_true, State.modFacet_memories, State.scramble_wf]; done)
    | (with_reducible refine State.scramble_wf _ _ _ ?_)
    | (with_reducible refine foldl_wf _ _ _ ?_ (fun t x hwf => ?_))
    | (with_reducible refine foldl1_wf _ _ _ ?_ (fun t x hwf => ?_))
    | split
    | (simp only [State.modFacet_memories])
    | (simp only [])
    | (simp only [memories_mk])
    | (simp only [memories_eta])

theorem State.landAll_wf (s : State) (f : Nat) (hwf : s.memories.wf = true) : (State.landAll s f).memories.wf = true := by
  unfold State.landAll
  repeat' first
    | with_reducible assumption
    | (simp only [hwf, ite_memories, Memories.ite_wf, ite_self, foldl_memories, implies_true, State.modFacet_memories, State.landOne_wf]; done)
    | (with_reducible refine State.landOne_wf _ _ _ _ ?_)
    | (with_reducible refine foldl_wf _ _ _ ?_ (fun t x hwf => ?_))
    | (with_reducible refine foldl1_wf _ _ _ ?_ (fun t x hwf => ?_))
    | split
    | (simp only [State.modFacet_memories])
    | (simp only [])
    | (simp only [memories_mk])
    | (simp only [memories_eta])

@[simp] theorem State.ageFlights_memories (s : State) (f : Nat) (all : Bool) : (State.ageFlights s f all).memories = s.memories := by
  unfold State.ageFlights
  repeat' first
    | with_reducible rfl
    | (simp only [ite_memories, ite_self, foldl_memories, implies_true, State.modFacet_memories]; done)
    | (with_reducible refine (foldl_memories _ _ _ (fun t x => ?_)).trans ?_)
    | (with_reducible refine (foldl1_memories _ _ _ (fun t x => ?_)).trans ?_)
    | split
    | (simp only [State.modFacet_memories])
    | (simp only [])
    | (simp only [memories_mk])
    | (simp only [memories_eta])

theorem State.endCycle_wf (s : State) (f : Nat) (all : Bool) (hwf : s.memories.wf = true) : (State.endCycle s f all).memories.wf = true := by
  unfold State.endCycle
  repeat' first
    | with_reducible assumption
    | (simp only [hwf, ite_memories, Memories.ite_wf, ite_self, foldl_memories, implies_true, State.ageFlights_memories, State.modFacet_memories, State.landAll_wf]; done)
    | (with_reducible refine State.landAll_wf _ _ ?_)
    | (with_reducible refine foldl_wf _ _ _ ?_ (fun t x hwf => ?_))
    | (with_reducible refine foldl1_wf _ _ _ ?_ (fun t x hwf => ?_))
    | split
    | (simp only [State.ageFlights_memories, State.modFacet_memories])
    | (simp only [])
    | (simp only [memories_mk])
    | (simp only [memories_eta])

theorem State.clashOf_wf (s : State) (f : Nat) (ls : List Nat) (tell : Bool) (hwf : s.memories.wf = true) : (State.clashOf s f ls tell).memories.wf = true := by
  unfold State.clashOf
  repeat' first
    | with_reducible assumption
    | (simp only [hwf, ite_memories, Memories.ite_wf, ite_self, foldl_memories, implies_true, State.facetErr_memories, State.scrambleAll_wf]; done)
    | (with_reducible refine State.scrambleAll_wf _ _ _ ?_)
    | (with_reducible refine foldl_wf _ _ _ ?_ (fun t x hwf => ?_))
    | (with_reducible refine foldl1_wf _ _ _ ?_ (fun t x hwf => ?_))
    | split
    | (simp only [State.facetErr_memories])
    | (simp only [])
    | (simp only [memories_mk])
    | (simp only [memories_eta])

theorem State.cycle_wf (s : State) (ms : List (Nat × Bool)) (hwf : s.memories.wf = true) : (State.cycle s ms).memories.wf = true := by
  unfold State.cycle
  repeat' first
    | with_reducible assumption
    | (simp only [hwf, ite_memories, Memories.ite_wf, ite_self, foldl_memories, implies_true, State.modFacet_memories, State.clashOf_wf, State.endCycle_wf, State.readStep_wf, State.writeStep_wf]; done)
    | (with_reducible refine State.clashOf_wf _ _ _ _ ?_)
    | (with_reducible refine State.endCycle_wf _ _ _ ?_)
    | (with_reducible refine State.readStep_wf _ _ _ ?_)
    | (with_reducible refine State.writeStep_wf _ _ _ ?_)
    | (with_reducible refine foldl_wf _ _ _ ?_ (fun t x hwf => ?_))
    | (with_reducible refine foldl1_wf _ _ _ ?_ (fun t x hwf => ?_))
    | split
    | (simp only [State.modFacet_memories])
    | (simp only [])
    | (simp only [memories_mk])
    | (simp only [memories_eta])

theorem State.groupTick_wf (s : State) (g : Nat) (hwf : s.memories.wf = true) : (State.groupTick s g).memories.wf = true := by
  unfold State.groupTick
  repeat' first
    | with_reducible assumption
    | (simp only [hwf, ite_memories, Memories.ite_wf, ite_self, foldl_memories, implies_true, State.setGroup_memories, State.cycle_wf]; done)
    | (with_reducible refine State.cycle_wf _ _ ?_)
    | (with_reducible refine foldl_wf _ _ _ ?_ (fun t x hwf => ?_))
    | (with_reducible refine foldl1_wf _ _ _ ?_ (fun t x hwf => ?_))
    | split
    | (simp only [State.setGroup_memories])
    | (simp only [])
    | (simp only [memories_mk])
    | (simp only [memories_eta])

theorem State.drain_wf (g : Nat) (n : Nat) (s : State) (hwf : s.memories.wf = true) : (State.drain g n s).memories.wf = true := by
  induction n generalizing s with
  | zero => first | rfl | exact hwf | (unfold State.drain; split <;> first | rfl | assumption)
  | succ n ih =>
    unfold State.drain
    repeat' first
      | with_reducible assumption
      | (simp only [hwf, ite_memories, Memories.ite_wf, ite_self, foldl_memories, implies_true, State.groupTick_wf, ih]; done)
      | (with_reducible refine State.groupTick_wf _ _ ?_)
      | (with_reducible refine ih _ ?_)
      | (with_reducible refine foldl_wf _ _ _ ?_ (fun t x hwf => ?_))
      | (with_reducible refine foldl1_wf _ _ _ ?_ (fun t x hwf => ?_))
      | split
      | (simp only [])
      | (simp only [memories_mk])
      | (simp only [memories_eta])

theorem State.stallOn_wf (s : State) (g : Nat) (hwf : s.memories.wf = true) : (State.stallOn s g).memories.wf = true := by
  unfold State.stallOn
  repeat' first
    | with_reducible assumption
    | (simp only [hwf, ite_memories, Memories.ite_wf, ite_self, foldl_memories, implies_true, State.fresh_memories, State.drain_wf]; done)
    | (with_reducible refine State.drain_wf _ _ _ ?_)
    | (with_reducible refine foldl_wf _ _ _ ?_ (fun t x hwf => ?_))
    | (with_reducible refine foldl1_wf _ _ _ ?_ (fun t x hwf => ?_))
    | split
    | (simp only [State.fresh_memories])
    | (simp only [])
    | (simp only [memories_mk])
    | (simp only [memories_eta])

theorem State.settle_wf (s : State) (g : Nat) (hwf : s.memories.wf = true) : (State.settle s g).memories.wf = true := by
  unfold State.settle
  repeat' first
    | with_reducible assumption
    | (simp only [hwf, ite_memories, Memories.ite_wf, ite_self, foldl_memories, implies_true, State.fresh_memories, State.setGroup_memories, State.drain_wf, State.stallOn_wf]; done)
    | (with_reducible refine State.drain_wf _ _ _ ?_)
    | (with_reducible refine State.stallOn_wf _ _ ?_)
    | (with_reducible refine foldl_wf _ _ _ ?_ (fun t x hwf => ?_))
    | (with_reducible refine foldl1_wf _ _ _ ?_ (fun t x hwf => ?_))
    | split
    | (simp only [State.fresh_memories, State.setGroup_memories])
    | (simp only [])
    | (simp only [memories_mk])
    | (simp only [memories_eta])

theorem State.pass_wf (g : Nat) (ready : State → Bool) (n : Nat) (s : State) (hwf : s.memories.wf = true) : (State.pass g ready n s).memories.wf = true := by
  induction n generalizing s with
  | zero => first | rfl | exact hwf | (unfold State.pass; split <;> first | rfl | assumption)
  | succ n ih =>
    unfold State.pass
    repeat' first
      | with_reducible assumption
      | (simp only [hwf, ite_memories, Memories.ite_wf, ite_self, foldl_memories, implies_true, State.groupTick_wf, ih]; done)
      | (with_reducible refine State.groupTick_wf _ _ ?_)
      | (with_reducible refine ih _ ?_)
      | (with_reducible refine foldl_wf _ _ _ ?_ (fun t x hwf => ?_))
      | (with_reducible refine foldl1_wf _ _ _ ?_ (fun t x hwf => ?_))
      | split
      | (simp only [])
      | (simp only [memories_mk])
      | (simp only [memories_eta])

theorem State.flush_wf (f : Nat) (n : Nat) (s : State) (hwf : s.memories.wf = true) : (State.flush f n s).memories.wf = true := by
  induction n generalizing s with
  | zero => first | rfl | exact hwf | (unfold State.flush; split <;> first | rfl | assumption)
  | succ n ih =>
    unfold State.flush
    repeat' first
      | with_reducible assumption
      | (simp only [hwf, ite_memories, Memories.ite_wf, ite_self, foldl_memories, implies_true, State.cycle_wf, ih]; done)
      | (with_reducible refine State.cycle_wf _ _ ?_)
      | (with_reducible refine ih _ ?_)
      | (with_reducible refine foldl_wf _ _ _ ?_ (fun t x hwf => ?_))
      | (with_reducible refine foldl1_wf _ _ _ ?_ (fun t x hwf => ?_))
      | split
      | (simp only [])
      | (simp only [memories_mk])
      | (simp only [memories_eta])

@[simp] theorem State.stopFacet_memories (s : State) (f : Nat) : (State.stopFacet s f).memories = s.memories := by
  unfold State.stopFacet
  repeat' first
    | with_reducible rfl
    | (simp only [ite_memories, ite_self, foldl_memories, implies_true, State.modFacet_memories, State.sf_memories]; done)
    | (with_reducible refine (foldl_memories _ _ _ (fun t x => ?_)).trans ?_)
    | (with_reducible refine (foldl1_memories _ _ _ (fun t x => ?_)).trans ?_)
    | split
    | (simp only [State.modFacet_memories, State.sf_memories])
    | (simp only [])
    | (simp only [memories_mk])
    | (simp only [memories_eta])

@[simp] theorem State.boundary_memories (s : State) (f : Nat) : (State.boundary s f).memories = s.memories := by
  unfold State.boundary
  repeat' first
    | with_reducible rfl
    | (simp only [ite_memories, ite_self, foldl_memories, implies_true, State.stopFacet_memories]; done)
    | (with_reducible refine (foldl_memories _ _ _ (fun t x => ?_)).trans ?_)
    | (with_reducible refine (foldl1_memories _ _ _ (fun t x => ?_)).trans ?_)
    | split
    | (simp only [State.stopFacet_memories])
    | (simp only [])
    | (simp only [memories_mk])
    | (simp only [memories_eta])

@[simp] theorem State.imemEc_memories (s : State) (f a n b : Nat) : (State.imemEc s f a n b).memories = s.memories := by
  unfold State.imemEc
  repeat' first
    | with_reducible rfl
    | (simp only [ite_memories, ite_self, foldl_memories, implies_true, State.report_memories]; done)
    | (with_reducible refine (foldl_memories _ _ _ (fun t x => ?_)).trans ?_)
    | (with_reducible refine (foldl1_memories _ _ _ (fun t x => ?_)).trans ?_)
    | split
    | (simp only [State.report_memories])
    | (simp only [])
    | (simp only [memories_mk])
    | (simp only [memories_eta])

@[simp] theorem State.nopStep_memories (s : State) (f : Nat) : (State.nopStep s f).memories = s.memories := by
  unfold State.nopStep
  repeat' first
    | with_reducible rfl
    | (simp only [ite_memories, ite_self, foldl_memories, implies_true, State.boundary_memories, State.flowSeq_memories, State.haltErr_memories, State.imemEc_memories]; done)
    | (with_reducible refine (foldl_memories _ _ _ (fun t x => ?_)).trans ?_)
    | (with_reducible refine (foldl1_memories _ _ _ (fun t x => ?_)).trans ?_)
    | split
    | (simp only [State.boundary_memories, State.flowSeq_memories, State.haltErr_memories, State.imemEc_memories])
    | (simp only [])
    | (simp only [memories_mk])
    | (simp only [memories_eta])

theorem State.bringUp_wf (f g : Nat) (n : Nat) (s : State) (hwf : s.memories.wf = true) : (State.bringUp f g n s).memories.wf = true := by
  induction n generalizing s with
  | zero => first | rfl | exact hwf | (unfold State.bringUp; split <;> first | rfl | assumption)
  | succ n ih =>
    unfold State.bringUp
    repeat' first
      | with_reducible assumption
      | (simp only [hwf, ite_memories, Memories.ite_wf, ite_self, foldl_memories, implies_true, State.nopStep_memories, State.groupTick_wf, ih]; done)
      | (with_reducible refine State.groupTick_wf _ _ ?_)
      | (with_reducible refine ih _ ?_)
      | (with_reducible refine foldl_wf _ _ _ ?_ (fun t x hwf => ?_))
      | (with_reducible refine foldl1_wf _ _ _ ?_ (fun t x hwf => ?_))
      | split
      | (simp only [State.nopStep_memories])
      | (simp only [])
      | (simp only [memories_mk])
      | (simp only [memories_eta])

theorem State.closeBundle_wf (s : State) (f k : Nat) (flow : State → State) (hwf : s.memories.wf = true) (hflow : ∀ t, t.memories.wf = true → (flow t).memories.wf = true) : (State.closeBundle s f k flow).memories.wf = true := by
  unfold State.closeBundle
  repeat' first
    | with_reducible assumption
    | (simp only [hwf, ite_memories, Memories.ite_wf, ite_self, foldl_memories, implies_true, State.boundary_memories, State.modFacet_memories, State.settle_wf, hflow]; done)
    | (with_reducible refine State.settle_wf _ _ ?_)
    | (with_reducible refine hflow _ ?_)
    | (with_reducible refine foldl_wf _ _ _ ?_ (fun t x hwf => ?_))
    | (with_reducible refine foldl1_wf _ _ _ ?_ (fun t x hwf => ?_))
    | split
    | (simp only [State.boundary_memories, State.modFacet_memories])
    | (simp only [])
    | (simp only [memories_mk])
    | (simp only [memories_eta])

@[simp] theorem State.bundleEc_memories (s : State) (f : Nat) : (State.bundleEc s f).memories = s.memories := by
  unfold State.bundleEc
  repeat' first
    | with_reducible rfl
    | (simp only [ite_memories, ite_self, foldl_memories, implies_true, State.imemEc_memories]; done)
    | (with_reducible refine (foldl_memories _ _ _ (fun t x => ?_)).trans ?_)
    | (with_reducible refine (foldl1_memories _ _ _ (fun t x => ?_)).trans ?_)
    | split
    | (simp only [State.imemEc_memories])
    | (simp only [])
    | (simp only [memories_mk])
    | (simp only [memories_eta])

theorem State.issue_wf (s0 : State) (f k : Nat) (is : Nat → Bool) (act : State → Nat → State) (flow : State → Nat → State) (hwf : s0.memories.wf = true) (hact : ∀ t x1, t.memories.wf = true → (act t x1).memories.wf = true) (hflow : ∀ t x1, t.memories.wf = true → (flow t x1).memories.wf = true) : (State.issue s0 f k is act flow).memories.wf = true := by
  unfold State.issue
  repeat' first
    | with_reducible assumption
    | (simp only [hwf, ite_memories, Memories.ite_wf, ite_self, foldl_memories, implies_true, State.bundleEc_memories, State.haltErr_memories, State.bringUp_wf, State.closeBundle_wf, State.settle_wf, hact, hflow]; done)
    | (with_reducible refine State.bringUp_wf _ _ _ _ ?_)
    | (with_reducible refine State.closeBundle_wf _ _ _ _ ?_ (fun t hwf => ?_))
    | (with_reducible refine State.settle_wf _ _ ?_)
    | (with_reducible refine hact _ _ ?_)
    | (with_reducible refine hflow _ _ ?_)
    | (with_reducible refine foldl_wf _ _ _ ?_ (fun t x hwf => ?_))
    | (with_reducible refine foldl1_wf _ _ _ ?_ (fun t x hwf => ?_))
    | split
    | (simp only [State.bundleEc_memories, State.haltErr_memories])
    | (simp only [])
    | (simp only [memories_mk])
    | (simp only [memories_eta])

@[simp] theorem seqFlow_memories (f : Nat) (s : State) (w : Nat) : (seqFlow f s w).memories = s.memories :=
  State.flowSeq_memories s f

@[simp] theorem State.busyFor_memories (s : State) (f : Nat) (ds : List Dest) (n : Nat) : (State.busyFor s f ds n).memories = s.memories := by
  unfold State.busyFor
  repeat' first
    | with_reducible rfl
    | (simp only [ite_memories, ite_self, foldl_memories, implies_true, State.modFacet_memories]; done)
    | (with_reducible refine (foldl_memories _ _ _ (fun t x => ?_)).trans ?_)
    | (with_reducible refine (foldl1_memories _ _ _ (fun t x => ?_)).trans ?_)
    | split
    | (simp only [State.modFacet_memories])
    | (simp only [])
    | (simp only [memories_mk])
    | (simp only [memories_eta])

@[simp] theorem State.addFlight_memories (s : State) (f : Nat) (x : Flight) : (State.addFlight s f x).memories = s.memories := by
  unfold State.addFlight
  repeat' first
    | with_reducible rfl
    | (simp only [ite_memories, ite_self, foldl_memories, implies_true, State.modFacet_memories]; done)
    | (with_reducible refine (foldl_memories _ _ _ (fun t x => ?_)).trans ?_)
    | (with_reducible refine (foldl1_memories _ _ _ (fun t x => ?_)).trans ?_)
    | split
    | (simp only [State.modFacet_memories])
    | (simp only [])
    | (simp only [memories_mk])
    | (simp only [memories_eta])

theorem State.spoil_wf (s : State) (f : Nat) (p : Flight → Bool) (hwf : s.memories.wf = true) : (State.spoil s f p).memories.wf = true := by
  unfold State.spoil
  repeat' first
    | with_reducible assumption
    | (simp only [hwf, ite_memories, Memories.ite_wf, ite_self, foldl_memories, implies_true, State.modFacet_memories, State.scrambleAll_wf]; done)
    | (with_reducible refine State.scrambleAll_wf _ _ _ ?_)
    | (with_reducible refine foldl_wf _ _ _ ?_ (fun t x hwf => ?_))
    | (with_reducible refine foldl1_wf _ _ _ ?_ (fun t x hwf => ?_))
    | split
    | (simp only [State.modFacet_memories])
    | (simp only [])
    | (simp only [memories_mk])
    | (simp only [memories_eta])

/-! ### Matrix -/

theorem State.mlw_wf (f : Nat) (s : State) (w : Nat) (hwf : s.memories.wf = true) : (State.mlw f s w).memories.wf = true := by
  unfold State.mlw
  repeat' first
    | with_reducible assumption
    | (simp only [hwf, ite_memories, Memories.ite_wf, ite_self, foldl_memories, implies_true, State.addFlight_memories, State.busyFor_memories, State.modFacet_memories, State.spoil_wf]; done)
    | (with_reducible refine State.spoil_wf _ _ _ ?_)
    | (with_reducible refine foldl_wf _ _ _ ?_ (fun t x hwf => ?_))
    | (with_reducible refine foldl1_wf _ _ _ ?_ (fun t x hwf => ?_))
    | split
    | (simp only [State.addFlight_memories, State.busyFor_memories, State.modFacet_memories])
    | (simp only [])
    | (simp only [memories_mk])
    | (simp only [memories_eta])

theorem execMlw_wf (f : Nat) (s : State) (t : State) (ht : execMlw f s = .next t) (hwf : s.memories.wf = true) : t.memories.wf = true := by
  injection ht with ht
  rw [← ht]
  repeat' first
    | with_reducible assumption
    | (simp only [hwf, State.mlw_wf, seqFlow_memories]; done)
    | (with_reducible refine State.issue_wf _ _ _ _ _ _ ?_ (fun t x0 hwf => ?_) (fun t x0 hwf => ?_))

theorem State.setLayout_wf (s : State) (f b : Nat) (isRef : Bool) (rows : List Dest) (hwf : s.memories.wf = true) : (State.setLayout s f b isRef rows).memories.wf = true := by
  unfold State.setLayout
  repeat' first
    | with_reducible assumption
    | (simp only [hwf, ite_memories, Memories.ite_wf, ite_self, foldl_memories, implies_true, State.sf_memories, State.scrambleAll_wf]; done)
    | (with_reducible refine State.scrambleAll_wf _ _ _ ?_)
    | (with_reducible refine foldl_wf _ _ _ ?_ (fun t x hwf => ?_))
    | (with_reducible refine foldl1_wf _ _ _ ?_ (fun t x hwf => ?_))
    | split
    | (simp only [State.sf_memories])
    | (simp only [])
    | (simp only [memories_mk])
    | (simp only [memories_eta])

@[simp] theorem State.setIntok_memories (s : State) (f w : Nat) (t : Tile) : (State.setIntok s f w t).memories = s.memories := by
  unfold State.setIntok
  repeat' first
    | with_reducible rfl
    | (simp only [ite_memories, ite_self, foldl_memories, implies_true, State.sf_memories]; done)
    | (with_reducible refine (foldl_memories _ _ _ (fun t x => ?_)).trans ?_)
    | (with_reducible refine (foldl1_memories _ _ _ (fun t x => ?_)).trans ?_)
    | split
    | (simp only [State.sf_memories])
    | (simp only [])
    | (simp only [memories_mk])
    | (simp only [memories_eta])

theorem State.mma_wf (isRef : Bool) (f : Nat) (s : State) (w : Nat) (hwf : s.memories.wf = true) : (State.mma isRef f s w).memories.wf = true := by
  unfold State.mma
  repeat' first
    | with_reducible assumption
    | (simp only [hwf, ite_memories, Memories.ite_wf, ite_self, foldl_memories, implies_true, State.addFlight_memories, State.busyFor_memories, State.setIntok_memories, State.setLayout_wf, State.spoil_wf]; done)
    | (with_reducible refine State.setLayout_wf _ _ _ _ _ ?_)
    | (with_reducible refine State.spoil_wf _ _ _ ?_)
    | (with_reducible refine foldl_wf _ _ _ ?_ (fun t x hwf => ?_))
    | (with_reducible refine foldl1_wf _ _ _ ?_ (fun t x hwf => ?_))
    | split
    | (simp only [State.addFlight_memories, State.busyFor_memories, State.setIntok_memories])
    | (simp only [])
    | (simp only [memories_mk])
    | (simp only [memories_eta])

theorem execMma_wf (f : Nat) (s : State) (t : State) (ht : execMma f s = .next t) (hwf : s.memories.wf = true) : t.memories.wf = true := by
  injection ht with ht
  rw [← ht]
  repeat' first
    | with_reducible assumption
    | (simp only [hwf, State.mma_wf, seqFlow_memories]; done)
    | (with_reducible refine State.issue_wf _ _ _ _ _ _ ?_ (fun t x0 hwf => ?_) (fun t x0 hwf => ?_))

theorem execMmaRef_wf (f : Nat) (s : State) (t : State) (ht : execMmaRef f s = .next t) (hwf : s.memories.wf = true) : t.memories.wf = true := by
  injection ht with ht
  rw [← ht]
  repeat' first
    | with_reducible assumption
    | (simp only [hwf, State.mma_wf, seqFlow_memories]; done)
    | (with_reducible refine State.issue_wf _ _ _ _ _ _ ?_ (fun t x0 hwf => ?_) (fun t x0 hwf => ?_))

@[simp] theorem State.clearRows_memories (s : State) (f w : Nat) : (State.clearRows s f w).memories = s.memories := by
  unfold State.clearRows
  repeat' first
    | with_reducible rfl
    | (simp only [ite_memories, ite_self, foldl_memories, implies_true, State.putRow_memories]; done)
    | (with_reducible refine (foldl_memories _ _ _ (fun t x => ?_)).trans ?_)
    | (with_reducible refine (foldl1_memories _ _ _ (fun t x => ?_)).trans ?_)
    | split
    | (simp only [State.putRow_memories])
    | (simp only [])
    | (simp only [memories_mk])
    | (simp only [memories_eta])

theorem State.mst_wf (f : Nat) (s : State) (w : Nat) (hwf : s.memories.wf = true) : (State.mst f s w).memories.wf = true := by
  unfold State.mst
  repeat' first
    | with_reducible assumption
    | (simp only [hwf, ite_memories, Memories.ite_wf, ite_self, foldl_memories, implies_true, State.addFlight_memories, State.addLand_memories, State.astat_memories, State.bump_memories, State.clearRows_memories, State.scrambleAll_wf, State.spoil_wf]; done)
    | (with_reducible refine State.scrambleAll_wf _ _ _ ?_)
    | (with_reducible refine State.spoil_wf _ _ _ ?_)
    | (with_reducible refine foldl_wf _ _ _ ?_ (fun t x hwf => ?_))
    | (with_reducible refine foldl1_wf _ _ _ ?_ (fun t x hwf => ?_))
    | split
    | (simp only [State.addFlight_memories, State.addLand_memories, State.astat_memories, State.bump_memories, State.clearRows_memories])
    | (simp only [])
    | (simp only [memories_mk])
    | (simp only [memories_eta])

theorem execMst_wf (f : Nat) (s : State) (t : State) (ht : execMst f s = .next t) (hwf : s.memories.wf = true) : t.memories.wf = true := by
  injection ht with ht
  rw [← ht]
  repeat' first
    | with_reducible assumption
    | (simp only [hwf, State.mst_wf, seqFlow_memories]; done)
    | (with_reducible refine State.issue_wf _ _ _ _ _ _ ?_ (fun t x0 hwf => ?_) (fun t x0 hwf => ?_))

/-! ### Vector -/

@[simp] theorem State.land_memories (s : State) (f : Nat) (srcs : List Dest) (p : Put) (lat : Nat) : (State.land s f srcs p lat).memories = s.memories := by
  unfold State.land
  repeat' first
    | with_reducible rfl
    | (simp only [ite_memories, ite_self, foldl_memories, implies_true, State.addLand_memories]; done)
    | (with_reducible refine (foldl_memories _ _ _ (fun t x => ?_)).trans ?_)
    | (with_reducible refine (foldl1_memories _ _ _ (fun t x => ?_)).trans ?_)
    | split
    | (simp only [State.addLand_memories])
    | (simp only [])
    | (simp only [memories_mk])
    | (simp only [memories_eta])

@[simp] theorem State.vec1_memories (s : State) (f w : Nat) (op : Word → Word) : (State.vec1 s f w op).memories = s.memories := by
  unfold State.vec1
  repeat' first
    | with_reducible rfl
    | (simp only [ite_memories, ite_self, foldl_memories, implies_true, State.land_memories]; done)
    | (with_reducible refine (foldl_memories _ _ _ (fun t x => ?_)).trans ?_)
    | (with_reducible refine (foldl1_memories _ _ _ (fun t x => ?_)).trans ?_)
    | split
    | (simp only [State.land_memories])
    | (simp only [])
    | (simp only [memories_mk])
    | (simp only [memories_eta])

@[simp] theorem State.vec2_memories (s : State) (f w : Nat) (op : Word → Word → Word) : (State.vec2 s f w op).memories = s.memories := by
  unfold State.vec2
  repeat' first
    | with_reducible rfl
    | (simp only [ite_memories, ite_self, foldl_memories, implies_true, State.land_memories]; done)
    | (with_reducible refine (foldl_memories _ _ _ (fun t x => ?_)).trans ?_)
    | (with_reducible refine (foldl1_memories _ _ _ (fun t x => ?_)).trans ?_)
    | split
    | (simp only [State.land_memories])
    | (simp only [])
    | (simp only [memories_mk])
    | (simp only [memories_eta])

@[simp] theorem State.vec3_memories (s : State) (f w : Nat) (op : Word → Word → Word → Word) : (State.vec3 s f w op).memories = s.memories := by
  unfold State.vec3
  repeat' first
    | with_reducible rfl
    | (simp only [ite_memories, ite_self, foldl_memories, implies_true, State.land_memories]; done)
    | (with_reducible refine (foldl_memories _ _ _ (fun t x => ?_)).trans ?_)
    | (with_reducible refine (foldl1_memories _ _ _ (fun t x => ?_)).trans ?_)
    | split
    | (simp only [State.land_memories])
    | (simp only [])
    | (simp only [memories_mk])
    | (simp only [memories_eta])

@[simp] theorem State.vecRed_memories (s : State) (f w : Nat) (op : Word → Word → Word) : (State.vecRed s f w op).memories = s.memories := by
  unfold State.vecRed
  repeat' first
    | with_reducible rfl
    | (simp only [ite_memories, ite_self, foldl_memories, implies_true, State.land_memories]; done)
    | (with_reducible refine (foldl_memories _ _ _ (fun t x => ?_)).trans ?_)
    | (with_reducible refine (foldl1_memories _ _ _ (fun t x => ?_)).trans ?_)
    | split
    | (simp only [State.land_memories])
    | (simp only [])
    | (simp only [memories_mk])
    | (simp only [memories_eta])

@[simp] theorem State.vecCmp_memories (s : State) (f w : Nat) : (State.vecCmp s f w).memories = s.memories := by
  unfold State.vecCmp
  repeat' first
    | with_reducible rfl
    | (simp only [ite_memories, ite_self, foldl_memories, implies_true, State.land_memories]; done)
    | (with_reducible refine (foldl_memories _ _ _ (fun t x => ?_)).trans ?_)
    | (with_reducible refine (foldl1_memories _ _ _ (fun t x => ?_)).trans ?_)
    | split
    | (simp only [State.land_memories])
    | (simp only [])
    | (simp only [memories_mk])
    | (simp only [memories_eta])

theorem State.vecIssue_wf (s : State) (f op : Nat) (act : State → Nat → State) (hwf : s.memories.wf = true) (hact : ∀ t x0, t.memories.wf = true → (act t x0).memories.wf = true) : (State.vecIssue s f op act).memories.wf = true := by
  unfold State.vecIssue
  repeat' first
    | with_reducible assumption
    | (simp only [hwf, seqFlow_memories, hact]; done)
    | (with_reducible refine State.issue_wf _ _ _ _ _ _ ?_ (fun t x0 hwf => ?_) (fun t x0 hwf => ?_))

theorem execAdd_wf (f : Nat) (s : State) (t : State) (ht : execAdd f s = .next t) (hwf : s.memories.wf = true) : t.memories.wf = true := by
  injection ht with ht
  rw [← ht]
  repeat' first
    | with_reducible assumption
    | (simp only [hwf, ite_memories, Memories.ite_wf, ite_self, foldl_memories, implies_true, State.vec2_memories, State.vecIssue_wf]; done)
    | (with_reducible refine State.vecIssue_wf _ _ _ _ ?_ (fun t x1 hwf => ?_))
    | (with_reducible refine foldl_wf _ _ _ ?_ (fun t x hwf => ?_))
    | (with_reducible refine foldl1_wf _ _ _ ?_ (fun t x hwf => ?_))
    | split
    | (simp only [State.vec2_memories])
    | (simp only [])
    | (simp only [memories_mk])
    | (simp only [memories_eta])

theorem execSub_wf (f : Nat) (s : State) (t : State) (ht : execSub f s = .next t) (hwf : s.memories.wf = true) : t.memories.wf = true := by
  injection ht with ht
  rw [← ht]
  repeat' first
    | with_reducible assumption
    | (simp only [hwf, ite_memories, Memories.ite_wf, ite_self, foldl_memories, implies_true, State.vec2_memories, State.vecIssue_wf]; done)
    | (with_reducible refine State.vecIssue_wf _ _ _ _ ?_ (fun t x1 hwf => ?_))
    | (with_reducible refine foldl_wf _ _ _ ?_ (fun t x hwf => ?_))
    | (with_reducible refine foldl1_wf _ _ _ ?_ (fun t x hwf => ?_))
    | split
    | (simp only [State.vec2_memories])
    | (simp only [])
    | (simp only [memories_mk])
    | (simp only [memories_eta])

theorem execMul_wf (f : Nat) (s : State) (t : State) (ht : execMul f s = .next t) (hwf : s.memories.wf = true) : t.memories.wf = true := by
  injection ht with ht
  rw [← ht]
  repeat' first
    | with_reducible assumption
    | (simp only [hwf, ite_memories, Memories.ite_wf, ite_self, foldl_memories, implies_true, State.vec2_memories, State.vecIssue_wf]; done)
    | (with_reducible refine State.vecIssue_wf _ _ _ _ ?_ (fun t x1 hwf => ?_))
    | (with_reducible refine foldl_wf _ _ _ ?_ (fun t x hwf => ?_))
    | (with_reducible refine foldl1_wf _ _ _ ?_ (fun t x hwf => ?_))
    | split
    | (simp only [State.vec2_memories])
    | (simp only [])
    | (simp only [memories_mk])
    | (simp only [memories_eta])

theorem execFma_wf (f : Nat) (s : State) (t : State) (ht : execFma f s = .next t) (hwf : s.memories.wf = true) : t.memories.wf = true := by
  injection ht with ht
  rw [← ht]
  repeat' first
    | with_reducible assumption
    | (simp only [hwf, ite_memories, Memories.ite_wf, ite_self, foldl_memories, implies_true, State.vec3_memories, State.vecIssue_wf]; done)
    | (with_reducible refine State.vecIssue_wf _ _ _ _ ?_ (fun t x1 hwf => ?_))
    | (with_reducible refine foldl_wf _ _ _ ?_ (fun t x hwf => ?_))
    | (with_reducible refine foldl1_wf _ _ _ ?_ (fun t x hwf => ?_))
    | split
    | (simp only [State.vec3_memories])
    | (simp only [])
    | (simp only [memories_mk])
    | (simp only [memories_eta])

theorem execMax_wf (f : Nat) (s : State) (t : State) (ht : execMax f s = .next t) (hwf : s.memories.wf = true) : t.memories.wf = true := by
  injection ht with ht
  rw [← ht]
  repeat' first
    | with_reducible assumption
    | (simp only [hwf, ite_memories, Memories.ite_wf, ite_self, foldl_memories, implies_true, State.vec2_memories, State.vecIssue_wf]; done)
    | (with_reducible refine State.vecIssue_wf _ _ _ _ ?_ (fun t x1 hwf => ?_))
    | (with_reducible refine foldl_wf _ _ _ ?_ (fun t x hwf => ?_))
    | (with_reducible refine foldl1_wf _ _ _ ?_ (fun t x hwf => ?_))
    | split
    | (simp only [State.vec2_memories])
    | (simp only [])
    | (simp only [memories_mk])
    | (simp only [memories_eta])

theorem execMin_wf (f : Nat) (s : State) (t : State) (ht : execMin f s = .next t) (hwf : s.memories.wf = true) : t.memories.wf = true := by
  injection ht with ht
  rw [← ht]
  repeat' first
    | with_reducible assumption
    | (simp only [hwf, ite_memories, Memories.ite_wf, ite_self, foldl_memories, implies_true, State.vec2_memories, State.vecIssue_wf]; done)
    | (with_reducible refine State.vecIssue_wf _ _ _ _ ?_ (fun t x1 hwf => ?_))
    | (with_reducible refine foldl_wf _ _ _ ?_ (fun t x hwf => ?_))
    | (with_reducible refine foldl1_wf _ _ _ ?_ (fun t x hwf => ?_))
    | split
    | (simp only [State.vec2_memories])
    | (simp only [])
    | (simp only [memories_mk])
    | (simp only [memories_eta])

theorem execCmp_wf (f : Nat) (s : State) (t : State) (ht : execCmp f s = .next t) (hwf : s.memories.wf = true) : t.memories.wf = true := by
  injection ht with ht
  rw [← ht]
  repeat' first
    | with_reducible assumption
    | (simp only [hwf, ite_memories, Memories.ite_wf, ite_self, foldl_memories, implies_true, State.vecCmp_memories, State.vecIssue_wf]; done)
    | (with_reducible refine State.vecIssue_wf _ _ _ _ ?_ (fun t x1 hwf => ?_))
    | (with_reducible refine foldl_wf _ _ _ ?_ (fun t x hwf => ?_))
    | (with_reducible refine foldl1_wf _ _ _ ?_ (fun t x hwf => ?_))
    | split
    | (simp only [State.vecCmp_memories])
    | (simp only [])
    | (simp only [memories_mk])
    | (simp only [memories_eta])

theorem execSel_wf (f : Nat) (s : State) (t : State) (ht : execSel f s = .next t) (hwf : s.memories.wf = true) : t.memories.wf = true := by
  injection ht with ht
  rw [← ht]
  repeat' first
    | with_reducible assumption
    | (simp only [hwf, ite_memories, Memories.ite_wf, ite_self, foldl_memories, implies_true, State.vec3_memories, State.vecIssue_wf]; done)
    | (with_reducible refine State.vecIssue_wf _ _ _ _ ?_ (fun t x1 hwf => ?_))
    | (with_reducible refine foldl_wf _ _ _ ?_ (fun t x hwf => ?_))
    | (with_reducible refine foldl1_wf _ _ _ ?_ (fun t x hwf => ?_))
    | split
    | (simp only [State.vec3_memories])
    | (simp only [])
    | (simp only [memories_mk])
    | (simp only [memories_eta])

theorem execCvt_wf (f : Nat) (s : State) (t : State) (ht : execCvt f s = .next t) (hwf : s.memories.wf = true) : t.memories.wf = true := by
  injection ht with ht
  rw [← ht]
  repeat' first
    | with_reducible assumption
    | (simp only [hwf, ite_memories, Memories.ite_wf, ite_self, foldl_memories, implies_true, State.vec1_memories, State.vecIssue_wf]; done)
    | (with_reducible refine State.vecIssue_wf _ _ _ _ ?_ (fun t x1 hwf => ?_))
    | (with_reducible refine foldl_wf _ _ _ ?_ (fun t x hwf => ?_))
    | (with_reducible refine foldl1_wf _ _ _ ?_ (fun t x hwf => ?_))
    | split
    | (simp only [State.vec1_memories])
    | (simp only [])
    | (simp only [memories_mk])
    | (simp only [memories_eta])

theorem execAnd_wf (f : Nat) (s : State) (t : State) (ht : execAnd f s = .next t) (hwf : s.memories.wf = true) : t.memories.wf = true := by
  injection ht with ht
  rw [← ht]
  repeat' first
    | with_reducible assumption
    | (simp only [hwf, ite_memories, Memories.ite_wf, ite_self, foldl_memories, implies_true, State.vec2_memories, State.vecIssue_wf]; done)
    | (with_reducible refine State.vecIssue_wf _ _ _ _ ?_ (fun t x1 hwf => ?_))
    | (with_reducible refine foldl_wf _ _ _ ?_ (fun t x hwf => ?_))
    | (with_reducible refine foldl1_wf _ _ _ ?_ (fun t x hwf => ?_))
    | split
    | (simp only [State.vec2_memories])
    | (simp only [])
    | (simp only [memories_mk])
    | (simp only [memories_eta])

theorem execOr_wf (f : Nat) (s : State) (t : State) (ht : execOr f s = .next t) (hwf : s.memories.wf = true) : t.memories.wf = true := by
  injection ht with ht
  rw [← ht]
  repeat' first
    | with_reducible assumption
    | (simp only [hwf, ite_memories, Memories.ite_wf, ite_self, foldl_memories, implies_true, State.vec2_memories, State.vecIssue_wf]; done)
    | (with_reducible refine State.vecIssue_wf _ _ _ _ ?_ (fun t x1 hwf => ?_))
    | (with_reducible refine foldl_wf _ _ _ ?_ (fun t x hwf => ?_))
    | (with_reducible refine foldl1_wf _ _ _ ?_ (fun t x hwf => ?_))
    | split
    | (simp only [State.vec2_memories])
    | (simp only [])
    | (simp only [memories_mk])
    | (simp only [memories_eta])

theorem execXor_wf (f : Nat) (s : State) (t : State) (ht : execXor f s = .next t) (hwf : s.memories.wf = true) : t.memories.wf = true := by
  injection ht with ht
  rw [← ht]
  repeat' first
    | with_reducible assumption
    | (simp only [hwf, ite_memories, Memories.ite_wf, ite_self, foldl_memories, implies_true, State.vec2_memories, State.vecIssue_wf]; done)
    | (with_reducible refine State.vecIssue_wf _ _ _ _ ?_ (fun t x1 hwf => ?_))
    | (with_reducible refine foldl_wf _ _ _ ?_ (fun t x hwf => ?_))
    | (with_reducible refine foldl1_wf _ _ _ ?_ (fun t x hwf => ?_))
    | split
    | (simp only [State.vec2_memories])
    | (simp only [])
    | (simp only [memories_mk])
    | (simp only [memories_eta])

theorem execShl_wf (f : Nat) (s : State) (t : State) (ht : execShl f s = .next t) (hwf : s.memories.wf = true) : t.memories.wf = true := by
  injection ht with ht
  rw [← ht]
  repeat' first
    | with_reducible assumption
    | (simp only [hwf, ite_memories, Memories.ite_wf, ite_self, foldl_memories, implies_true, State.vec2_memories, State.vecIssue_wf]; done)
    | (with_reducible refine State.vecIssue_wf _ _ _ _ ?_ (fun t x1 hwf => ?_))
    | (with_reducible refine foldl_wf _ _ _ ?_ (fun t x hwf => ?_))
    | (with_reducible refine foldl1_wf _ _ _ ?_ (fun t x hwf => ?_))
    | split
    | (simp only [State.vec2_memories])
    | (simp only [])
    | (simp only [memories_mk])
    | (simp only [memories_eta])

theorem execShr_wf (f : Nat) (s : State) (t : State) (ht : execShr f s = .next t) (hwf : s.memories.wf = true) : t.memories.wf = true := by
  injection ht with ht
  rw [← ht]
  repeat' first
    | with_reducible assumption
    | (simp only [hwf, ite_memories, Memories.ite_wf, ite_self, foldl_memories, implies_true, State.vec2_memories, State.vecIssue_wf]; done)
    | (with_reducible refine State.vecIssue_wf _ _ _ _ ?_ (fun t x1 hwf => ?_))
    | (with_reducible refine foldl_wf _ _ _ ?_ (fun t x hwf => ?_))
    | (with_reducible refine foldl1_wf _ _ _ ?_ (fun t x hwf => ?_))
    | split
    | (simp only [State.vec2_memories])
    | (simp only [])
    | (simp only [memories_mk])
    | (simp only [memories_eta])

theorem execRsum_wf (f : Nat) (s : State) (t : State) (ht : execRsum f s = .next t) (hwf : s.memories.wf = true) : t.memories.wf = true := by
  injection ht with ht
  rw [← ht]
  repeat' first
    | with_reducible assumption
    | (simp only [hwf, ite_memories, Memories.ite_wf, ite_self, foldl_memories, implies_true, State.vecRed_memories, State.vecIssue_wf]; done)
    | (with_reducible refine State.vecIssue_wf _ _ _ _ ?_ (fun t x1 hwf => ?_))
    | (with_reducible refine foldl_wf _ _ _ ?_ (fun t x hwf => ?_))
    | (with_reducible refine foldl1_wf _ _ _ ?_ (fun t x hwf => ?_))
    | split
    | (simp only [State.vecRed_memories])
    | (simp only [])
    | (simp only [memories_mk])
    | (simp only [memories_eta])

theorem execRmax_wf (f : Nat) (s : State) (t : State) (ht : execRmax f s = .next t) (hwf : s.memories.wf = true) : t.memories.wf = true := by
  injection ht with ht
  rw [← ht]
  repeat' first
    | with_reducible assumption
    | (simp only [hwf, ite_memories, Memories.ite_wf, ite_self, foldl_memories, implies_true, State.vecRed_memories, State.vecIssue_wf]; done)
    | (with_reducible refine State.vecIssue_wf _ _ _ _ ?_ (fun t x1 hwf => ?_))
    | (with_reducible refine foldl_wf _ _ _ ?_ (fun t x hwf => ?_))
    | (with_reducible refine foldl1_wf _ _ _ ?_ (fun t x hwf => ?_))
    | split
    | (simp only [State.vecRed_memories])
    | (simp only [])
    | (simp only [memories_mk])
    | (simp only [memories_eta])

theorem execVld_wf (f : Nat) (s : State) (t : State) (ht : execVld f s = .next t) (hwf : s.memories.wf = true) : t.memories.wf = true := by
  injection ht with ht
  rw [← ht]
  repeat' first
    | with_reducible assumption
    | (simp only [hwf, ite_memories, Memories.ite_wf, ite_self, foldl_memories, implies_true, State.addFlight_memories, State.vecIssue_wf]; done)
    | (with_reducible refine State.vecIssue_wf _ _ _ _ ?_ (fun t x1 hwf => ?_))
    | (with_reducible refine foldl_wf _ _ _ ?_ (fun t x hwf => ?_))
    | (with_reducible refine foldl1_wf _ _ _ ?_ (fun t x hwf => ?_))
    | split
    | (simp only [State.addFlight_memories])
    | (simp only [])
    | (simp only [memories_mk])
    | (simp only [memories_eta])

@[simp] theorem State.vst_memories (f : Nat) (s : State) (w : Nat) : (State.vst f s w).memories = s.memories := by
  unfold State.vst
  repeat' first
    | with_reducible rfl
    | (simp only [ite_memories, ite_self, foldl_memories, implies_true, State.addFlight_memories, State.astat_memories, State.bump_memories]; done)
    | (with_reducible refine (foldl_memories _ _ _ (fun t x => ?_)).trans ?_)
    | (with_reducible refine (foldl1_memories _ _ _ (fun t x => ?_)).trans ?_)
    | split
    | (simp only [State.addFlight_memories, State.astat_memories, State.bump_memories])
    | (simp only [])
    | (simp only [memories_mk])
    | (simp only [memories_eta])

theorem execVst_wf (f : Nat) (s : State) (t : State) (ht : execVst f s = .next t) (hwf : s.memories.wf = true) : t.memories.wf = true := by
  injection ht with ht
  rw [← ht]
  repeat' first
    | with_reducible assumption
    | (simp only [hwf, ite_memories, Memories.ite_wf, ite_self, foldl_memories, implies_true, State.vst_memories, State.vecIssue_wf]; done)
    | (with_reducible refine State.vecIssue_wf _ _ _ _ ?_ (fun t x1 hwf => ?_))
    | (with_reducible refine foldl_wf _ _ _ ?_ (fun t x hwf => ?_))
    | (with_reducible refine foldl1_wf _ _ _ ?_ (fun t x hwf => ?_))
    | split
    | (simp only [State.vst_memories])
    | (simp only [])
    | (simp only [memories_mk])
    | (simp only [memories_eta])

theorem State.spmov_wf (s : State) (f mode : Nat) (hwf : s.memories.wf = true) : (State.spmov s f mode).memories.wf = true := by
  unfold State.spmov
  repeat' first
    | with_reducible assumption
    | (simp only [hwf, ite_memories, Memories.ite_wf, ite_self, foldl_memories, implies_true, State.addFlight_memories, seqFlow_memories, State.issue_wf]; done)
    | (with_reducible refine State.issue_wf _ _ _ _ _ _ ?_ (fun t x1 hwf => ?_) (fun t x1 hwf => ?_))
    | (with_reducible refine foldl_wf _ _ _ ?_ (fun t x hwf => ?_))
    | (with_reducible refine foldl1_wf _ _ _ ?_ (fun t x hwf => ?_))
    | split
    | (simp only [State.addFlight_memories, seqFlow_memories])
    | (simp only [])
    | (simp only [memories_mk])
    | (simp only [memories_eta])

theorem execSpmovLinear_wf (f : Nat) (s : State) (t : State) (ht : execSpmovLinear f s = .next t) (hwf : s.memories.wf = true) : t.memories.wf = true := by
  injection ht with ht
  rw [← ht]
  repeat' first
    | with_reducible assumption
    | (simp only [hwf, ite_memories, Memories.ite_wf, ite_self, foldl_memories, implies_true, State.spmov_wf]; done)
    | (with_reducible refine State.spmov_wf _ _ _ ?_)
    | (with_reducible refine foldl_wf _ _ _ ?_ (fun t x hwf => ?_))
    | (with_reducible refine foldl1_wf _ _ _ ?_ (fun t x hwf => ?_))
    | split
    | (simp only [])
    | (simp only [memories_mk])
    | (simp only [memories_eta])

theorem execSpmovStrided_wf (f : Nat) (s : State) (t : State) (ht : execSpmovStrided f s = .next t) (hwf : s.memories.wf = true) : t.memories.wf = true := by
  injection ht with ht
  rw [← ht]
  repeat' first
    | with_reducible assumption
    | (simp only [hwf, ite_memories, Memories.ite_wf, ite_self, foldl_memories, implies_true, State.spmov_wf]; done)
    | (with_reducible refine State.spmov_wf _ _ _ ?_)
    | (with_reducible refine foldl_wf _ _ _ ?_ (fun t x hwf => ?_))
    | (with_reducible refine foldl1_wf _ _ _ ?_ (fun t x hwf => ?_))
    | split
    | (simp only [])
    | (simp only [memories_mk])
    | (simp only [memories_eta])

theorem execSpmovTranspose_wf (f : Nat) (s : State) (t : State) (ht : execSpmovTranspose f s = .next t) (hwf : s.memories.wf = true) : t.memories.wf = true := by
  injection ht with ht
  rw [← ht]
  repeat' first
    | with_reducible assumption
    | (simp only [hwf, ite_memories, Memories.ite_wf, ite_self, foldl_memories, implies_true, State.spmov_wf]; done)
    | (with_reducible refine State.spmov_wf _ _ _ ?_)
    | (with_reducible refine foldl_wf _ _ _ ?_ (fun t x hwf => ?_))
    | (with_reducible refine foldl1_wf _ _ _ ?_ (fun t x hwf => ?_))
    | split
    | (simp only [])
    | (simp only [memories_mk])
    | (simp only [memories_eta])

/-! ### ArcRef -/

/-! ### Arc -/

@[simp] theorem State.setArc_memories (s : State) (u : Nat) (valid testing : Bool) : (State.setArc s u valid testing).memories = s.memories := by
  unfold State.setArc
  repeat' first
    | (simp only [ite_memories, State.modFacet_memories, State.sf_memories]; done)
    | split
    | (simp only [State.sf_memories])
    | (simp only [memories_mk])
    | (simp only [memories_eta])

@[simp] theorem State.usedBounds_memories (s : State) (u : Nat) : (State.usedBounds s u).memories = s.memories := by
  unfold State.usedBounds
  repeat' first
    | with_reducible rfl
    | (simp only [ite_memories, ite_self, foldl_memories, implies_true, State.modFacet_memories, State.report_memories, State.setBit_memories]; done)
    | (with_reducible refine (foldl_memories _ _ _ (fun t x => ?_)).trans ?_)
    | (with_reducible refine (foldl1_memories _ _ _ (fun t x => ?_)).trans ?_)
    | split
    | (simp only [State.modFacet_memories, State.report_memories, State.setBit_memories])
    | (simp only [])
    | (simp only [memories_mk])
    | (simp only [memories_eta])

@[simp] theorem State.arcFault_memories (s : State) (u : Nat) : (State.arcFault s u).memories = s.memories := by
  unfold State.arcFault
  simp only [State.bump_memories, State.report_memories, State.setArc_memories, State.setBit_memories]

@[simp] theorem State.writeTables_memories (s : State) (u : Nat) (ok : Bool) : (State.writeTables s u ok).memories = s.memories := by
  unfold State.writeTables
  repeat' first
    | with_reducible rfl
    | (simp only [ite_memories, ite_self, foldl_memories, implies_true, State.fresh_memories]; done)
    | (with_reducible refine (foldl_memories _ _ _ (fun t x => ?_)).trans ?_)
    | (with_reducible refine (foldl1_memories _ _ _ (fun t x => ?_)).trans ?_)
    | split
    | (simp only [State.fresh_memories])
    | (simp only [])
    | (simp only [memories_mk])
    | (simp only [memories_eta])

@[simp] theorem State.loseTables_memories (s : State) (u : Nat) : (State.loseTables s u).memories = s.memories := by
  unfold State.loseTables
  repeat' first
    | with_reducible rfl
    | (simp only [ite_memories, ite_self, foldl_memories, implies_true, State.setArc_memories]; done)
    | (with_reducible refine (foldl_memories _ _ _ (fun t x => ?_)).trans ?_)
    | (with_reducible refine (foldl1_memories _ _ _ (fun t x => ?_)).trans ?_)
    | split
    | (simp only [State.setArc_memories])
    | (simp only [])
    | (simp only [memories_mk])
    | (simp only [memories_eta])

@[simp] theorem State.arcMet_memories (s : State) (u mode : Nat) (words : Option (List Nat)) (errs : List (Nat × Nat)) : (State.arcMet s u mode words errs).2.memories = s.memories := by
  unfold State.arcMet
  repeat' first
    | with_reducible rfl
    | (simp only [ite_memories, ite_self, foldl_memories, implies_true, State.fresh_memories]; done)
    | (with_reducible refine (foldl_memories _ _ _ (fun t x => ?_)).trans ?_)
    | (with_reducible refine (foldl1_memories _ _ _ (fun t x => ?_)).trans ?_)
    | split
    | (simp only [State.fresh_memories])
    | (simp only [])
    | (simp only [memories_mk])
    | (simp only [memories_eta])

@[simp] theorem State.arcPath_memories (s : State) (u mode : Nat) (words : Option (List Nat)) : (State.arcPath s u mode words).1.memories = s.memories := by
  unfold State.arcPath
  repeat' first
    | with_reducible rfl
    | (simp only [ite_memories, ite_self, foldl_memories, implies_true, State.arcFault_memories, State.arcMet_memories, State.bump_memories, State.report_memories, State.setBit_memories, State.usedBounds_memories]; done)
    | (with_reducible refine (foldl_memories _ _ _ (fun t x => ?_)).trans ?_)
    | (with_reducible refine (foldl1_memories _ _ _ (fun t x => ?_)).trans ?_)
    | split
    | (simp only [State.arcFault_memories, State.arcMet_memories, State.bump_memories, State.report_memories, State.setBit_memories, State.usedBounds_memories])
    | (simp only [])
    | (simp only [memories_mk])
    | (simp only [memories_eta])

@[simp] theorem State.beginTest_memories (s : State) (u : Nat) : (State.beginTest s u).memories = s.memories := by
  unfold State.beginTest
  repeat' first
    | with_reducible rfl
    | (simp only [ite_memories, ite_self, foldl_memories, implies_true, State.setArc_memories]; done)
    | (with_reducible refine (foldl_memories _ _ _ (fun t x => ?_)).trans ?_)
    | (with_reducible refine (foldl1_memories _ _ _ (fun t x => ?_)).trans ?_)
    | split
    | (simp only [State.setArc_memories])
    | (simp only [])
    | (simp only [memories_mk])
    | (simp only [memories_eta])

@[simp] theorem State.testOver_memories (s : State) (ok : Bool) : (State.testOver s ok).memories = s.memories := by
  unfold State.testOver
  repeat' first
    | with_reducible rfl
    | (simp only [ite_memories, ite_self, foldl_memories, implies_true, State.beginTest_memories, State.setN_memories]; done)
    | (with_reducible refine (foldl_memories _ _ _ (fun t x => ?_)).trans ?_)
    | (with_reducible refine (foldl1_memories _ _ _ (fun t x => ?_)).trans ?_)
    | split
    | (simp only [State.beginTest_memories, State.setN_memories])
    | (simp only [])
    | (simp only [memories_mk])
    | (simp only [memories_eta])

@[simp] theorem State.loseUnits_memories (s : State) (units : List Nat) : (State.loseUnits s units).memories = s.memories := by
  unfold State.loseUnits
  repeat' first
    | with_reducible rfl
    | (simp only [ite_memories, ite_self, foldl_memories, implies_true, State.loseTables_memories, State.testOver_memories]; done)
    | (with_reducible refine (foldl_memories _ _ _ (fun t x => ?_)).trans ?_)
    | (with_reducible refine (foldl1_memories _ _ _ (fun t x => ?_)).trans ?_)
    | split
    | (simp only [State.loseTables_memories, State.testOver_memories])
    | (simp only [])
    | (simp only [memories_mk])
    | (simp only [memories_eta])

@[simp] theorem State.arcLand_memories (s : State) (f w lat : Nat) (bad : Bool) (ps : List (Put × Bool)) : (State.arcLand s f w lat bad ps).memories = s.memories := by
  unfold State.arcLand
  repeat' first
    | with_reducible rfl
    | (simp only [ite_memories, ite_self, foldl_memories, implies_true, State.addLand_memories, State.facetErr_memories, State.modFacet_memories]; done)
    | (with_reducible refine (foldl_memories _ _ _ (fun t x => ?_)).trans ?_)
    | (with_reducible refine (foldl1_memories _ _ _ (fun t x => ?_)).trans ?_)
    | split
    | (simp only [State.addLand_memories, State.facetErr_memories, State.modFacet_memories])
    | (simp only [])
    | (simp only [memories_mk])
    | (simp only [memories_eta])

@[simp] theorem State.arcElem_memories (f : Nat) (s : State) (w : Nat) : (State.arcElem f s w).memories = s.memories := by
  unfold State.arcElem
  repeat' first
    | with_reducible rfl
    | (simp only [ite_memories, ite_self, foldl_memories, implies_true, State.arcFlag_memories, State.arcLand_memories, State.arcPath_memories]; done)
    | (with_reducible refine (foldl_memories _ _ _ (fun t x => ?_)).trans ?_)
    | (with_reducible refine (foldl1_memories _ _ _ (fun t x => ?_)).trans ?_)
    | split
    | (simp only [State.arcFlag_memories, State.arcLand_memories, State.arcPath_memories])
    | (simp only [])
    | (simp only [memories_mk])
    | (simp only [memories_eta])

@[simp] theorem State.arcRowOp_memories (f : Nat) (s : State) (w : Nat) : (State.arcRowOp f s w).memories = s.memories := by
  unfold State.arcRowOp
  repeat' first
    | with_reducible rfl
    | (simp only [ite_memories, ite_self, foldl_memories, implies_true, State.arcFlag_memories, State.arcLand_memories, State.arcPath_memories, State.fresh_memories]; done)
    | (with_reducible refine (foldl_memories _ _ _ (fun t x => ?_)).trans ?_)
    | (with_reducible refine (foldl1_memories _ _ _ (fun t x => ?_)).trans ?_)
    | split
    | (simp only [State.arcFlag_memories, State.arcLand_memories, State.arcPath_memories, State.fresh_memories])
    | (simp only [])
    | (simp only [memories_mk])
    | (simp only [memories_eta])

theorem State.arcIssue_wf (s : State) (f fn : Nat) (hwf : s.memories.wf = true) : (State.arcIssue s f fn).memories.wf = true := by
  unfold State.arcIssue
  repeat' first
    | with_reducible assumption
    | (simp only [hwf, ite_memories, Memories.ite_wf, ite_self, foldl_memories, implies_true, State.arcElem_memories, seqFlow_memories, State.issue_wf]; done)
    | (with_reducible refine State.issue_wf _ _ _ _ _ _ ?_ (fun t x1 hwf => ?_) (fun t x1 hwf => ?_))
    | (with_reducible refine foldl_wf _ _ _ ?_ (fun t x hwf => ?_))
    | (with_reducible refine foldl1_wf _ _ _ ?_ (fun t x hwf => ?_))
    | split
    | (simp only [State.arcElem_memories, seqFlow_memories])
    | (simp only [])
    | (simp only [memories_mk])
    | (simp only [memories_eta])

theorem State.arcRowIssue_wf (s : State) (f fn : Nat) (p : Nat → Nat → Bool) (hwf : s.memories.wf = true) : (State.arcRowIssue s f fn p).memories.wf = true := by
  unfold State.arcRowIssue
  repeat' first
    | with_reducible assumption
    | (simp only [hwf, ite_memories, Memories.ite_wf, ite_self, foldl_memories, implies_true, State.arcRowOp_memories, seqFlow_memories, State.bringUp_wf, State.issue_wf]; done)
    | (with_reducible refine State.bringUp_wf _ _ _ _ ?_)
    | (with_reducible refine State.issue_wf _ _ _ _ _ _ ?_ (fun t x1 hwf => ?_) (fun t x1 hwf => ?_))
    | (with_reducible refine foldl_wf _ _ _ ?_ (fun t x hwf => ?_))
    | (with_reducible refine foldl1_wf _ _ _ ?_ (fun t x hwf => ?_))
    | split
    | (simp only [State.arcRowOp_memories, seqFlow_memories])
    | (simp only [])
    | (simp only [memories_mk])
    | (simp only [memories_eta])

theorem execArcExp2_wf (f : Nat) (s : State) (t : State) (ht : execArcExp2 f s = .next t) (hwf : s.memories.wf = true) : t.memories.wf = true := by
  injection ht with ht
  rw [← ht]
  simp only [hwf, State.arcIssue_wf]

theorem execArcExp_wf (f : Nat) (s : State) (t : State) (ht : execArcExp f s = .next t) (hwf : s.memories.wf = true) : t.memories.wf = true := by
  injection ht with ht
  rw [← ht]
  simp only [hwf, State.arcIssue_wf]

theorem execArcLog2_wf (f : Nat) (s : State) (t : State) (ht : execArcLog2 f s = .next t) (hwf : s.memories.wf = true) : t.memories.wf = true := by
  injection ht with ht
  rw [← ht]
  simp only [hwf, State.arcIssue_wf]

theorem execArcLn_wf (f : Nat) (s : State) (t : State) (ht : execArcLn f s = .next t) (hwf : s.memories.wf = true) : t.memories.wf = true := by
  injection ht with ht
  rw [← ht]
  simp only [hwf, State.arcIssue_wf]

theorem execArcRecip_wf (f : Nat) (s : State) (t : State) (ht : execArcRecip f s = .next t) (hwf : s.memories.wf = true) : t.memories.wf = true := by
  injection ht with ht
  rw [← ht]
  simp only [hwf, State.arcIssue_wf]

theorem execArcRsqrt_wf (f : Nat) (s : State) (t : State) (ht : execArcRsqrt f s = .next t) (hwf : s.memories.wf = true) : t.memories.wf = true := by
  injection ht with ht
  rw [← ht]
  simp only [hwf, State.arcIssue_wf]

theorem execArcSqrt_wf (f : Nat) (s : State) (t : State) (ht : execArcSqrt f s = .next t) (hwf : s.memories.wf = true) : t.memories.wf = true := by
  injection ht with ht
  rw [← ht]
  simp only [hwf, State.arcIssue_wf]

theorem execArcTanh_wf (f : Nat) (s : State) (t : State) (ht : execArcTanh f s = .next t) (hwf : s.memories.wf = true) : t.memories.wf = true := by
  injection ht with ht
  rw [← ht]
  simp only [hwf, State.arcIssue_wf]

theorem execArcSigmoid_wf (f : Nat) (s : State) (t : State) (ht : execArcSigmoid f s = .next t) (hwf : s.memories.wf = true) : t.memories.wf = true := by
  injection ht with ht
  rw [← ht]
  simp only [hwf, State.arcIssue_wf]

theorem execArcGelu_wf (f : Nat) (s : State) (t : State) (ht : execArcGelu f s = .next t) (hwf : s.memories.wf = true) : t.memories.wf = true := by
  injection ht with ht
  rw [← ht]
  simp only [hwf, State.arcIssue_wf]

theorem execArcSilu_wf (f : Nat) (s : State) (t : State) (ht : execArcSilu f s = .next t) (hwf : s.memories.wf = true) : t.memories.wf = true := by
  injection ht with ht
  rw [← ht]
  simp only [hwf, State.arcIssue_wf]

theorem execArcSin_wf (f : Nat) (s : State) (t : State) (ht : execArcSin f s = .next t) (hwf : s.memories.wf = true) : t.memories.wf = true := by
  injection ht with ht
  rw [← ht]
  simp only [hwf, State.arcIssue_wf]

theorem execArcCos_wf (f : Nat) (s : State) (t : State) (ht : execArcCos f s = .next t) (hwf : s.memories.wf = true) : t.memories.wf = true := by
  injection ht with ht
  rw [← ht]
  simp only [hwf, State.arcIssue_wf]

theorem execArcSoftmaxStep_wf (f : Nat) (s : State) (t : State) (ht : execArcSoftmaxStep f s = .next t) (hwf : s.memories.wf = true) : t.memories.wf = true := by
  injection ht with ht
  rw [← ht]
  simp only [hwf, State.arcRowIssue_wf]

theorem execArcSoftmaxMaxPass_wf (f : Nat) (s : State) (t : State) (ht : execArcSoftmaxMaxPass f s = .next t) (hwf : s.memories.wf = true) : t.memories.wf = true := by
  injection ht with ht
  rw [← ht]
  simp only [hwf, State.arcRowIssue_wf]

theorem execArcSoftmaxSumPass_wf (f : Nat) (s : State) (t : State) (ht : execArcSoftmaxSumPass f s = .next t) (hwf : s.memories.wf = true) : t.memories.wf = true := by
  injection ht with ht
  rw [← ht]
  simp only [hwf, State.arcRowIssue_wf]

theorem execArcFinalNormalise_wf (f : Nat) (s : State) (t : State) (ht : execArcFinalNormalise f s = .next t) (hwf : s.memories.wf = true) : t.memories.wf = true := by
  injection ht with ht
  rw [← ht]
  simp only [hwf, State.arcRowIssue_wf]

theorem execArcFinalProbabilities_wf (f : Nat) (s : State) (t : State) (ht : execArcFinalProbabilities f s = .next t) (hwf : s.memories.wf = true) : t.memories.wf = true := by
  injection ht with ht
  rw [← ht]
  simp only [hwf, State.arcRowIssue_wf]

theorem execArcFinalRescale_wf (f : Nat) (s : State) (t : State) (ht : execArcFinalRescale f s = .next t) (hwf : s.memories.wf = true) : t.memories.wf = true := by
  injection ht with ht
  rw [← ht]
  simp only [hwf, State.arcRowIssue_wf]

theorem execArcRmsAccumulate_wf (f : Nat) (s : State) (t : State) (ht : execArcRmsAccumulate f s = .next t) (hwf : s.memories.wf = true) : t.memories.wf = true := by
  injection ht with ht
  rw [← ht]
  simp only [hwf, State.arcRowIssue_wf]

theorem execArcRmsApply_wf (f : Nat) (s : State) (t : State) (ht : execArcRmsApply f s = .next t) (hwf : s.memories.wf = true) : t.memories.wf = true := by
  injection ht with ht
  rw [← ht]
  simp only [hwf, State.arcRowIssue_wf]

theorem execArcLayernormAccumulate_wf (f : Nat) (s : State) (t : State) (ht : execArcLayernormAccumulate f s = .next t) (hwf : s.memories.wf = true) : t.memories.wf = true := by
  injection ht with ht
  rw [← ht]
  simp only [hwf, State.arcRowIssue_wf]

theorem execArcLayernormApply_wf (f : Nat) (s : State) (t : State) (ht : execArcLayernormApply f s = .next t) (hwf : s.memories.wf = true) : t.memories.wf = true := by
  injection ht with ht
  rw [← ht]
  simp only [hwf, State.arcRowIssue_wf]

/-! ### Control -/

theorem State.ctlIssue_wf (s : State) (f : Nat) (is : Nat → Bool) (act flow : State → Nat → State) (hwf : s.memories.wf = true) (hact : ∀ t x0, t.memories.wf = true → (act t x0).memories.wf = true) (hflow : ∀ t x0, t.memories.wf = true → (flow t x0).memories.wf = true) : (State.ctlIssue s f is act flow).memories.wf = true := by
  unfold State.ctlIssue
  repeat' first
    | with_reducible assumption
    | (simp only [hwf, hact, hflow]; done)
    | (with_reducible refine State.issue_wf _ _ _ _ _ _ ?_ (fun t x0 hwf => ?_) (fun t x0 hwf => ?_))

@[simp] theorem State.setSreg_memories (s : State) (f r : Nat) (v : Word) : (State.setSreg s f r v).memories = s.memories := by
  unfold State.setSreg
  simp only [State.modFacet_memories]

theorem execSmov_wf (f : Nat) (s : State) (t : State) (ht : execSmov f s = .next t) (hwf : s.memories.wf = true) : t.memories.wf = true := by
  injection ht with ht
  rw [← ht]
  repeat' first
    | with_reducible assumption
    | (simp only [hwf, State.setSreg_memories, seqFlow_memories]; done)
    | (with_reducible refine State.ctlIssue_wf _ _ _ _ _ ?_ (fun t x0 hwf => ?_) (fun t x0 hwf => ?_))

theorem execSadd_wf (f : Nat) (s : State) (t : State) (ht : execSadd f s = .next t) (hwf : s.memories.wf = true) : t.memories.wf = true := by
  injection ht with ht
  rw [← ht]
  repeat' first
    | with_reducible assumption
    | (simp only [hwf, State.setSreg_memories, seqFlow_memories]; done)
    | (with_reducible refine State.ctlIssue_wf _ _ _ _ _ ?_ (fun t x0 hwf => ?_) (fun t x0 hwf => ?_))

theorem execSrdc_wf (f : Nat) (s : State) (t : State) (ht : execSrdc f s = .next t) (hwf : s.memories.wf = true) : t.memories.wf = true := by
  injection ht with ht
  rw [← ht]
  repeat' first
    | with_reducible assumption
    | (simp only [hwf, State.setSreg_memories, seqFlow_memories]; done)
    | (with_reducible refine State.ctlIssue_wf _ _ _ _ _ ?_ (fun t x0 hwf => ?_) (fun t x0 hwf => ?_))

theorem execSbopSet_wf (f : Nat) (s : State) (t : State) (ht : execSbopSet f s = .next t) (hwf : s.memories.wf = true) : t.memories.wf = true := by
  injection ht with ht
  rw [← ht]
  repeat' first
    | with_reducible assumption
    | (simp only [hwf, State.sf_memories, seqFlow_memories]; done)
    | (with_reducible refine State.ctlIssue_wf _ _ _ _ _ ?_ (fun t x0 hwf => ?_) (fun t x0 hwf => ?_))

theorem execSbopAdd_wf (f : Nat) (s : State) (t : State) (ht : execSbopAdd f s = .next t) (hwf : s.memories.wf = true) : t.memories.wf = true := by
  injection ht with ht
  rw [← ht]
  repeat' first
    | with_reducible assumption
    | (simp only [hwf, State.sbAdd_memories, seqFlow_memories]; done)
    | (with_reducible refine State.ctlIssue_wf _ _ _ _ _ ?_ (fun t x0 hwf => ?_) (fun t x0 hwf => ?_))

theorem execSbopClearErr_wf (f : Nat) (s : State) (t : State) (ht : execSbopClearErr f s = .next t) (hwf : s.memories.wf = true) : t.memories.wf = true := by
  injection ht with ht
  rw [← ht]
  repeat' first
    | with_reducible assumption
    | (simp only [hwf, State.sf_memories, seqFlow_memories]; done)
    | (with_reducible refine State.ctlIssue_wf _ _ _ _ _ ?_ (fun t x0 hwf => ?_) (fun t x0 hwf => ?_))

@[simp] theorem State.waitDone_memories (s : State) (f : Nat) (v : WaitRec) : (State.waitDone s f v).memories = s.memories := by
  unfold State.waitDone
  repeat' first
    | with_reducible rfl
    | (simp only [ite_memories, ite_self, foldl_memories, implies_true, State.credit_memories, State.waited_memories]; done)
    | (with_reducible refine (foldl_memories _ _ _ (fun t x => ?_)).trans ?_)
    | (with_reducible refine (foldl1_memories _ _ _ (fun t x => ?_)).trans ?_)
    | split
    | (simp only [State.credit_memories, State.waited_memories])
    | (simp only [])
    | (simp only [memories_mk])
    | (simp only [memories_eta])

@[simp] theorem State.enterWait_memories (s : State) (f : Nat) (v : WaitRec) : (State.enterWait s f v).memories = s.memories := by
  unfold State.enterWait
  repeat' first
    | with_reducible rfl
    | (simp only [ite_memories, ite_self, foldl_memories, implies_true, State.haltErr_memories, State.modFacet_memories, State.sf_memories, State.waitDone_memories]; done)
    | (with_reducible refine (foldl_memories _ _ _ (fun t x => ?_)).trans ?_)
    | (with_reducible refine (foldl1_memories _ _ _ (fun t x => ?_)).trans ?_)
    | split
    | (simp only [State.haltErr_memories, State.modFacet_memories, State.sf_memories, State.waitDone_memories])
    | (simp only [])
    | (simp only [memories_mk])
    | (simp only [memories_eta])

theorem execWaitLocal_wf (f : Nat) (s : State) (t : State) (ht : execWaitLocal f s = .next t) (hwf : s.memories.wf = true) : t.memories.wf = true := by
  injection ht with ht
  rw [← ht]
  repeat' first
    | with_reducible assumption
    | (simp only [hwf, State.enterWait_memories, State.flowSeq_memories, State.sf_memories]; done)
    | (with_reducible refine State.ctlIssue_wf _ _ _ _ _ ?_ (fun t x0 hwf => ?_) (fun t x0 hwf => ?_))

theorem execWaitGroup_wf (f : Nat) (s : State) (t : State) (ht : execWaitGroup f s = .next t) (hwf : s.memories.wf = true) : t.memories.wf = true := by
  injection ht with ht
  rw [← ht]
  repeat' first
    | with_reducible assumption
    | (simp only [hwf, State.enterWait_memories, State.flowSeq_memories]; done)
    | (with_reducible refine State.ctlIssue_wf _ _ _ _ _ ?_ (fun t x0 hwf => ?_) (fun t x0 hwf => ?_))

@[simp] theorem State.goOn_memories (s : State) (fs : List Nat) : (State.goOn s fs).memories = s.memories := by
  unfold State.goOn
  repeat' first
    | with_reducible rfl
    | (simp only [ite_memories, ite_self, foldl_memories, implies_true, State.modFacet_memories, State.sf_memories]; done)
    | (with_reducible refine (foldl_memories _ _ _ (fun t x => ?_)).trans ?_)
    | (with_reducible refine (foldl1_memories _ _ _ (fun t x => ?_)).trans ?_)
    | split
    | (simp only [State.modFacet_memories, State.sf_memories])
    | (simp only [])
    | (simp only [memories_mk])
    | (simp only [memories_eta])

theorem State.waitSatisfied_wf (s : State) (f : Nat) (hwf : s.memories.wf = true) : (State.waitSatisfied s f).memories.wf = true := by
  unfold State.waitSatisfied
  repeat' first
    | with_reducible assumption
    | (simp only [hwf, ite_memories, Memories.ite_wf, ite_self, foldl_memories, implies_true, State.goOn_memories, State.haltErr_memories, State.waitDone_memories, State.wakeGroup_memories, State.settle_wf]; done)
    | (with_reducible refine State.settle_wf _ _ ?_)
    | (with_reducible refine foldl_wf _ _ _ ?_ (fun t x hwf => ?_))
    | (with_reducible refine foldl1_wf _ _ _ ?_ (fun t x hwf => ?_))
    | split
    | (simp only [State.goOn_memories, State.haltErr_memories, State.waitDone_memories, State.wakeGroup_memories])
    | (simp only [])
    | (simp only [memories_mk])
    | (simp only [memories_eta])

theorem execWaitSatisfied_wf (f : Nat) (s : State) (t : State) (ht : execWaitSatisfied f s = .next t) (hwf : s.memories.wf = true) : t.memories.wf = true := by
  injection ht with ht
  rw [← ht]
  repeat' first
    | with_reducible assumption
    | (simp only [hwf, ite_memories, Memories.ite_wf, ite_self, foldl_memories, implies_true, State.waitSatisfied_wf]; done)
    | (with_reducible refine State.waitSatisfied_wf _ _ ?_)
    | (with_reducible refine foldl_wf _ _ _ ?_ (fun t x hwf => ?_))
    | (with_reducible refine foldl1_wf _ _ _ ?_ (fun t x hwf => ?_))
    | split
    | (simp only [])
    | (simp only [memories_mk])
    | (simp only [memories_eta])

@[simp] theorem State.waitsDone_memories (s : State) (fs : List Nat) : (State.waitsDone s fs).memories = s.memories := by
  unfold State.waitsDone
  repeat' first
    | with_reducible rfl
    | (simp only [ite_memories, ite_self, foldl_memories, implies_true, State.waitDone_memories]; done)
    | (with_reducible refine (foldl_memories _ _ _ (fun t x => ?_)).trans ?_)
    | (with_reducible refine (foldl1_memories _ _ _ (fun t x => ?_)).trans ?_)
    | split
    | (simp only [State.waitDone_memories])
    | (simp only [])
    | (simp only [memories_mk])
    | (simp only [memories_eta])

@[simp] theorem State.groupResume_memories (s : State) (g : Nat) : (State.groupResume s g).memories = s.memories := by
  unfold State.groupResume
  repeat' first
    | with_reducible rfl
    | (simp only [ite_memories, ite_self, foldl_memories, implies_true, State.goOn_memories, State.sf_memories, State.waitsDone_memories, State.wakeGroup_memories]; done)
    | (with_reducible refine (foldl_memories _ _ _ (fun t x => ?_)).trans ?_)
    | (with_reducible refine (foldl1_memories _ _ _ (fun t x => ?_)).trans ?_)
    | split
    | (simp only [State.goOn_memories, State.sf_memories, State.waitsDone_memories, State.wakeGroup_memories])
    | (simp only [])
    | (simp only [memories_mk])
    | (simp only [memories_eta])

theorem execGroupResume_memories (g : Nat) (s : State) (t : State) (ht : execGroupResume g s = .next t) : t.memories = s.memories := by
  injection ht with ht
  rw [← ht]
  simp only [State.groupResume_memories]

@[simp] theorem State.openLoop_memories (s : State) (f w : Nat) : (State.openLoop s f w).memories = s.memories := by
  unfold State.openLoop
  simp only [State.modFacet_memories, State.sf_memories]

theorem execLoop_wf (f : Nat) (s : State) (t : State) (ht : execLoop f s = .next t) (hwf : s.memories.wf = true) : t.memories.wf = true := by
  injection ht with ht
  rw [← ht]
  repeat' first
    | with_reducible assumption
    | (simp only [hwf, State.openLoop_memories]; done)
    | (with_reducible refine State.ctlIssue_wf _ _ _ _ _ ?_ (fun t x0 hwf => ?_) (fun t x0 hwf => ?_))

theorem execJmp_wf (f : Nat) (s : State) (t : State) (ht : execJmp f s = .next t) (hwf : s.memories.wf = true) : t.memories.wf = true := by
  injection ht with ht
  rw [← ht]
  repeat' first
    | with_reducible assumption
    | (simp only [hwf, State.flowJump_memories]; done)
    | (with_reducible refine State.ctlIssue_wf _ _ _ _ _ ?_ (fun t x0 hwf => ?_) (fun t x0 hwf => ?_))

theorem execBr_wf (f : Nat) (s : State) (t : State) (ht : execBr f s = .next t) (hwf : s.memories.wf = true) : t.memories.wf = true := by
  injection ht with ht
  rw [← ht]
  repeat' first
    | with_reducible assumption
    | (simp only [hwf, ite_memories, ite_self, State.flowIdle_memories, State.flowJump_memories, State.sf_memories]; done)
    | (with_reducible refine State.ctlIssue_wf _ _ _ _ _ ?_ (fun t x0 hwf => ?_) (fun t x0 hwf => ?_))

@[simp] theorem State.tellHalt_memories (s : State) (f : Nat) : (State.tellHalt s f).memories = s.memories := by
  unfold State.tellHalt
  repeat' first
    | with_reducible rfl
    | (simp only [ite_memories, ite_self, foldl_memories, implies_true, State.modPrt_memories]; done)
    | (with_reducible refine (foldl_memories _ _ _ (fun t x => ?_)).trans ?_)
    | (with_reducible refine (foldl1_memories _ _ _ (fun t x => ?_)).trans ?_)
    | split
    | (simp only [State.modPrt_memories])
    | (simp only [])
    | (simp only [memories_mk])
    | (simp only [memories_eta])

theorem execHalt_wf (f : Nat) (s : State) (t : State) (ht : execHalt f s = .next t) (hwf : s.memories.wf = true) : t.memories.wf = true := by
  injection ht with ht
  rw [← ht]
  repeat' first
    | with_reducible assumption
    | (simp only [hwf, ite_memories, Memories.ite_wf, ite_self, foldl_memories, implies_true, State.flowSeq_memories, State.sf_memories, State.tellHalt_memories, State.ctlIssue_wf]; done)
    | (with_reducible refine State.ctlIssue_wf _ _ _ _ _ ?_ (fun t x1 hwf => ?_) (fun t x1 hwf => ?_))
    | (with_reducible refine foldl_wf _ _ _ ?_ (fun t x hwf => ?_))
    | (with_reducible refine foldl1_wf _ _ _ ?_ (fun t x hwf => ?_))
    | split
    | (simp only [State.flowSeq_memories, State.sf_memories, State.tellHalt_memories])
    | (simp only [])
    | (simp only [memories_mk])
    | (simp only [memories_eta])

/-! ### Neighbour -/

theorem State.nxferAct_wf (f : Nat) (s : State) (w : Nat) (hwf : s.memories.wf = true) : (State.nxferAct f s w).memories.wf = true := by
  unfold State.nxferAct
  repeat' first
    | with_reducible assumption
    | (simp only [hwf, ite_memories, Memories.ite_wf, ite_self, foldl_memories, implies_true, State.addFlight_memories, State.facetErr_memories, State.spoil_wf]; done)
    | (with_reducible refine State.spoil_wf _ _ _ ?_)
    | (with_reducible refine foldl_wf _ _ _ ?_ (fun t x hwf => ?_))
    | (with_reducible refine foldl1_wf _ _ _ ?_ (fun t x hwf => ?_))
    | split
    | (simp only [State.addFlight_memories, State.facetErr_memories])
    | (simp only [])
    | (simp only [memories_mk])
    | (simp only [memories_eta])

theorem execNxfer_wf (f : Nat) (s : State) (t : State) (ht : execNxfer f s = .next t) (hwf : s.memories.wf = true) : t.memories.wf = true := by
  injection ht with ht
  rw [← ht]
  repeat' first
    | with_reducible assumption
    | (simp only [hwf, State.nxferAct_wf, seqFlow_memories]; done)
    | (with_reducible refine State.ctlIssue_wf _ _ _ _ _ ?_ (fun t x0 hwf => ?_) (fun t x0 hwf => ?_))

theorem State.nxferSeam_wf (f : Nat) (s : State) (w : Nat) (hwf : s.memories.wf = true) : (State.nxferSeam f s w).memories.wf = true := by
  unfold State.nxferSeam
  repeat' first
    | with_reducible assumption
    | (simp only [hwf, ite_memories, Memories.ite_wf, ite_self, foldl_memories, implies_true, State.addFlight_memories, State.expect_memories, State.facetErr_memories, State.newUid_memories, State.setSeam_memories, State.spoil_wf]; done)
    | (with_reducible refine State.spoil_wf _ _ _ ?_)
    | (with_reducible refine foldl_wf _ _ _ ?_ (fun t x hwf => ?_))
    | (with_reducible refine foldl1_wf _ _ _ ?_ (fun t x hwf => ?_))
    | split
    | (simp only [State.addFlight_memories, State.expect_memories, State.facetErr_memories, State.newUid_memories, State.setSeam_memories])
    | (simp only [])
    | (simp only [memories_mk])
    | (simp only [memories_eta])

theorem execNxferSeam_wf (f : Nat) (s : State) (t : State) (ht : execNxferSeam f s = .next t) (hwf : s.memories.wf = true) : t.memories.wf = true := by
  injection ht with ht
  rw [← ht]
  repeat' first
    | with_reducible assumption
    | (simp only [hwf, State.nxferSeam_wf, seqFlow_memories]; done)
    | (with_reducible refine State.ctlIssue_wf _ _ _ _ _ ?_ (fun t x0 hwf => ?_) (fun t x0 hwf => ?_))

theorem State.putBeats_wf (s : State) (x : SeamXfer) (hwf : s.memories.wf = true) : (State.putBeats s x).memories.wf = true := by
  unfold State.putBeats
  repeat' first
    | with_reducible assumption
    | (simp only [hwf, ite_memories, Memories.ite_wf, ite_self, foldl_memories, implies_true, State.writeMem_wf]; done)
    | (with_reducible refine State.writeMem_wf _ _ _ ?_)
    | (with_reducible refine foldl_wf _ _ _ ?_ (fun t x hwf => ?_))
    | (with_reducible refine foldl1_wf _ _ _ ?_ (fun t x hwf => ?_))
    | split
    | (simp only [])
    | (simp only [memories_mk])
    | (simp only [memories_eta])

theorem State.seamReady_wf (s : State) (lane : Nat) (hwf : s.memories.wf = true) : (State.seamReady s lane).memories.wf = true := by
  unfold State.seamReady
  repeat' first
    | with_reducible assumption
    | (simp only [hwf, ite_memories, Memories.ite_wf, ite_self, foldl_memories, implies_true, State.pass_wf]; done)
    | (with_reducible refine State.pass_wf _ _ _ _ ?_)
    | (with_reducible refine foldl_wf _ _ _ ?_ (fun t x hwf => ?_))
    | (with_reducible refine foldl1_wf _ _ _ ?_ (fun t x hwf => ?_))
    | split
    | (simp only [])
    | (simp only [memories_mk])
    | (simp only [memories_eta])

theorem State.seamDelivery_wf (s0 : State) (lane : Nat) (hwf : s0.memories.wf = true) : (State.seamDelivery s0 lane).memories.wf = true := by
  unfold State.seamDelivery
  repeat' first
    | with_reducible assumption
    | (simp only [hwf, ite_memories, Memories.ite_wf, ite_self, foldl_memories, implies_true, State.arrivedAll_memories, State.sbInc_memories, State.setSeam_memories, State.putBeats_wf, State.seamReady_wf]; done)
    | (with_reducible refine State.putBeats_wf _ _ ?_)
    | (with_reducible refine State.seamReady_wf _ _ ?_)
    | (with_reducible refine foldl_wf _ _ _ ?_ (fun t x hwf => ?_))
    | (with_reducible refine foldl1_wf _ _ _ ?_ (fun t x hwf => ?_))
    | split
    | (simp only [State.arrivedAll_memories, State.sbInc_memories, State.setSeam_memories])
    | (simp only [])
    | (simp only [memories_mk])
    | (simp only [memories_eta])

theorem execSeamDelivery_wf (lane : Nat) (s : State) (t : State) (ht : execSeamDelivery lane s = .next t) (hwf : s.memories.wf = true) : t.memories.wf = true := by
  injection ht with ht
  rw [← ht]
  simp only [hwf, State.seamDelivery_wf]

@[simp] theorem State.seamAck_memories (s : State) (lane : Nat) : (State.seamAck s lane).memories = s.memories := by
  unfold State.seamAck
  repeat' first
    | with_reducible rfl
    | (simp only [ite_memories, ite_self, State.sbInc_memories, State.setSeam_memories]; done)
    | split

theorem execSeamAck_memories (lane : Nat) (s : State) (t : State) (ht : execSeamAck lane s = .next t) : t.memories = s.memories := by
  injection ht with ht
  rw [← ht]
  simp only [State.seamAck_memories]

end Sys2Proof.Machine
end

