-- ==== Sys2Proof/Laws/KeepEngine.lean ====
section
/-! SUPPORT. What happens to the memories, and that they keep their canonical form: pours, rings and the Drip engines. -/

namespace Sys2Proof.Machine

/-! ### Routes -/

@[simp] theorem State.tell_memories (s : State) (p : Nat) (kind : String) (v : Nat) : (State.tell s p kind v).memories = s.memories := by
  unfold State.tell
  repeat' first
    | with_reducible rfl
    | (simp only [ite_memories, ite_self, foldl_memories, implies_true, State.emit_memories]; done)
    | (with_reducible refine (foldl_memories _ _ _ (fun t x => ?_)).trans ?_)
    | (with_reducible refine (foldl1_memories _ _ _ (fun t x => ?_)).trans ?_)
    | split
    | (simp only [State.emit_memories])
    | (simp only [])
    | (simp only [memories_mk])
    | (simp only [memories_eta])

@[simp] theorem State.modLink_memories (s : State) (n : Nat) (g : Link → Link) : (State.modLink s n g).memories = s.memories := by
  unfold State.modLink
  repeat' first
    | with_reducible rfl
    | (simp only [ite_memories, ite_self, foldl_memories, implies_true]; done)
    | (with_reducible refine (foldl_memories _ _ _ (fun t x => ?_)).trans ?_)
    | (with_reducible refine (foldl1_memories _ _ _ (fun t x => ?_)).trans ?_)
    | split
    | (simp only [])
    | (simp only [memories_mk])
    | (simp only [memories_eta])

@[simp] theorem State.sendFrame_memories (s : State) (n : Nat) (resp : Bool) (f : Frame) : (State.sendFrame s n resp f).memories = s.memories := by
  unfold State.sendFrame
  repeat' first
    | with_reducible rfl
    | (simp only [ite_memories, ite_self, foldl_memories, implies_true, State.modLink_memories, State.sendOut_memories]; done)
    | (with_reducible refine (foldl_memories _ _ _ (fun t x => ?_)).trans ?_)
    | (with_reducible refine (foldl1_memories _ _ _ (fun t x => ?_)).trans ?_)
    | split
    | (simp only [State.modLink_memories, State.sendOut_memories])
    | (simp only [])
    | (simp only [memories_mk])
    | (simp only [memories_eta])

@[simp] theorem State.setEnt_memories (s : State) (k : Nat) (e : Ent) : (State.setEnt s k e).memories = s.memories := by
  unfold State.setEnt
  repeat' first
    | (simp only [memories_mk])
    | (simp only [memories_eta])

@[simp] theorem State.modXfer_memories (s : State) (who : Issuer) (g : Xfer → Xfer) : (State.modXfer s who g).memories = s.memories := by
  unfold State.modXfer
  repeat' first
    | split
    | (simp only [memories_mk])
    | (simp only [memories_eta])

@[simp] theorem State.dropXfer_memories (s : State) (who : Issuer) : (State.dropXfer s who).memories = s.memories := by
  unfold State.dropXfer
  repeat' first
    | (simp only [memories_mk])
    | (simp only [memories_eta])

@[simp] theorem State.failSeg_memories (s : State) (who : Issuer) (st : Nat) (g : Seg) : (State.failSeg s who st g).memories = s.memories := by
  unfold State.failSeg
  simp only [State.modXfer_memories]

@[simp] theorem State.showOutst_memories (s : State) (n : Nat) : (State.showOutst s n).memories = s.memories := by
  unfold State.showOutst
  simp only [State.sf_memories]

@[simp] theorem State.sendOp_memories (s : State) (o : FabOp) : (State.sendOp s o).memories = s.memories := by
  unfold State.sendOp
  repeat' first
    | with_reducible rfl
    | (simp only [ite_memories, ite_self, foldl_memories, implies_true, State.sendFrame_memories, State.showOutst_memories]; done)
    | (with_reducible refine (foldl_memories _ _ _ (fun t x => ?_)).trans ?_)
    | (with_reducible refine (foldl1_memories _ _ _ (fun t x => ?_)).trans ?_)
    | split
    | (simp only [State.sendFrame_memories, State.showOutst_memories])
    | (simp only [])
    | (simp only [memories_mk])
    | (simp only [memories_eta])

@[simp] theorem State.pump_memories (s : State) : (State.pump s).memories = s.memories := by
  unfold State.pump
  simp only [ite_memories, ite_self, foldl_memories, implies_true, State.sendOp_memories]

@[simp] theorem State.refuseSeg_memories (s : State) (who : Issuer) (st : Nat) (g : Seg) : (State.refuseSeg s who st g).memories = s.memories := by
  unfold State.refuseSeg
  repeat' first
    | with_reducible rfl
    | (simp only [ite_memories, ite_self, foldl_memories, implies_true, State.failSeg_memories, State.report_memories, State.sf_memories]; done)
    | (with_reducible refine (foldl_memories _ _ _ (fun t x => ?_)).trans ?_)
    | (with_reducible refine (foldl1_memories _ _ _ (fun t x => ?_)).trans ?_)
    | split
    | (simp only [State.failSeg_memories, State.report_memories, State.sf_memories])
    | (simp only [])
    | (simp only [memories_mk])
    | (simp only [memories_eta])

@[simp] theorem State.launch1_memories (s : State) (p : Option Nat) (who : Issuer) (op : Nat) (g : Seg) (data : List Byte) : (State.launch1 s p who op g data).memories = s.memories := by
  unfold State.launch1
  repeat' first
    | with_reducible rfl
    | (simp only [ite_memories, ite_self, foldl_memories, implies_true, State.fatalVertex_memories, State.newUid_memories, State.refuseSeg_memories]; done)
    | (with_reducible refine (foldl_memories _ _ _ (fun t x => ?_)).trans ?_)
    | (with_reducible refine (foldl1_memories _ _ _ (fun t x => ?_)).trans ?_)
    | split
    | (simp only [State.fatalVertex_memories, State.newUid_memories, State.refuseSeg_memories])
    | (simp only [])
    | (simp only [memories_mk])
    | (simp only [memories_eta])

@[simp] theorem State.launch_memories (s : State) (p : Option Nat) (who : Issuer) (op : Nat) (gs : List Seg) (src : List Host.Cell) : (State.launch s p who op gs src).memories = s.memories := by
  unfold State.launch
  simp only [foldl_memories, implies_true, State.launch1_memories, State.pump_memories]

@[simp] theorem State.launchRed_memories (s : State) (who : Issuer) (gs : List Seg) (src : List Host.Cell) : (State.launchRed s who gs src).memories = s.memories := by
  unfold State.launchRed
  repeat' first
    | with_reducible rfl
    | (simp only [State.newUid_memories, State.pump_memories]; done)
    | (with_reducible refine (foldl_memories _ _ _ (fun t x => ?_)).trans ?_)
    | (simp only [State.pump_memories])
    | (simp only [memories_mk])
    | (simp only [memories_eta])

@[simp] theorem State.secondHalf_memories (s : State) (who : Issuer) : (State.secondHalf s who).memories = s.memories := by
  unfold State.secondHalf
  repeat' first
    | with_reducible rfl
    | (simp only [ite_memories, ite_self, State.launch_memories, State.launchRed_memories, State.modXfer_memories]; done)
    | split

@[simp] theorem State.completeOp_memories (s : State) (o : FabOp) (st : Nat) (data : List Byte) : (State.completeOp s o st data).memories = s.memories := by
  unfold State.completeOp
  repeat' first
    | split
    | (simp only [State.emit_memories, State.failSeg_memories, State.modXfer_memories, State.pump_memories, State.report_memories, State.secondHalf_memories, State.sf_memories, State.showOutst_memories])
    | (simp only [memories_mk])
    | (simp only [memories_eta])

/-! ### Pour -/

@[simp] theorem State.addHolds_memories (s : State) (p : Nat) (who : Issuer) (write : Bool) (pages : List Nat) : (State.addHolds s p who write pages).memories = s.memories := by
  unfold State.addHolds
  repeat' first
    | (simp only [State.bumpBy_memories])
    | (simp only [memories_mk])
    | (simp only [memories_eta])

@[simp] theorem State.refuseRow_memories (s : State) (dom : Option Nat) (fga : Nat) (r : Res) : (State.refuseRow s dom fga r).memories = s.memories := by
  unfold State.refuseRow
  repeat' first
    | with_reducible rfl
    | (simp only [ite_memories, ite_self, foldl_memories, implies_true, State.markTable_memories, State.report_memories]; done)
    | (with_reducible refine (foldl_memories _ _ _ (fun t x => ?_)).trans ?_)
    | (with_reducible refine (foldl1_memories _ _ _ (fun t x => ?_)).trans ?_)
    | split
    | (simp only [State.markTable_memories, State.report_memories])
    | (simp only [])
    | (simp only [memories_mk])
    | (simp only [memories_eta])

@[simp] theorem State.noteRead_memories (s : State) (dom : Option Nat) (fga n : Nat) (ps : List (Nat × Nat)) : (State.noteRead s dom fga n ps).memories = s.memories := by
  unfold State.noteRead
  repeat' first
    | with_reducible rfl
    | (simp only [ite_memories, ite_self, foldl_memories, implies_true, State.reportEc_memories, State.touch_memories]; done)
    | (with_reducible refine (foldl_memories _ _ _ (fun t x => ?_)).trans ?_)
    | (with_reducible refine (foldl1_memories _ _ _ (fun t x => ?_)).trans ?_)
    | split
    | (simp only [State.reportEc_memories, State.touch_memories])
    | (simp only [])
    | (simp only [memories_mk])
    | (simp only [memories_eta])

@[simp] theorem State.readRow_memories (s : State) (dom : Option Nat) (fga n : Nat) : (State.readRow s dom fga n).1.memories = s.memories := by
  unfold State.readRow
  repeat' first
    | with_reducible rfl
    | (simp only [ite_memories, ite_self, foldl_memories, implies_true, State.fatalVertex_memories, State.fresh_memories, State.noteRead_memories, State.refuseRow_memories, State.reportUc_memories]; done)
    | (with_reducible refine (foldl_memories _ _ _ (fun t x => ?_)).trans ?_)
    | (with_reducible refine (foldl1_memories _ _ _ (fun t x => ?_)).trans ?_)
    | split
    | (simp only [State.fatalVertex_memories, State.fresh_memories, State.noteRead_memories, State.refuseRow_memories, State.reportUc_memories])
    | (simp only [])
    | (simp only [memories_mk])
    | (simp only [memories_eta])

theorem State.writeRow_wf (s : State) (dom : Option Nat) (fga : Nat) (bs : List Byte) (hwf : s.memories.wf = true) : (State.writeRow s dom fga bs).1.memories.wf = true := by
  unfold State.writeRow
  repeat' first
    | with_reducible assumption
    | (simp only [hwf, ite_memories, Memories.ite_wf, ite_self, foldl_memories, implies_true, State.fatalVertex_memories, State.refuseRow_memories, State.reportUc_memories, State.touch_memories, State.writePieces_wf]; done)
    | (with_reducible refine State.writePieces_wf _ _ _ ?_)
    | (with_reducible refine foldl_wf _ _ _ ?_ (fun t x hwf => ?_))
    | (with_reducible refine foldl1_wf _ _ _ ?_ (fun t x hwf => ?_))
    | split
    | (simp only [State.fatalVertex_memories, State.refuseRow_memories, State.reportUc_memories, State.touch_memories])
    | (simp only [])
    | (simp only [memories_mk])
    | (simp only [memories_eta])

theorem execPour_wf (f : Nat) (s : State) (t : State) (ht : execPour f s = .next t) (hwf : s.memories.wf = true) : t.memories.wf = true := by
  injection ht with ht
  rw [← ht]
  repeat' first
    | with_reducible assumption
    | (simp only [hwf, ite_memories, Memories.ite_wf, ite_self, foldl_memories, implies_true, State.addFlight_memories, seqFlow_memories, State.ctlIssue_wf]; done)
    | (with_reducible refine State.ctlIssue_wf _ _ _ _ _ ?_ (fun t x1 hwf => ?_) (fun t x1 hwf => ?_))
    | (with_reducible refine foldl_wf _ _ _ ?_ (fun t x hwf => ?_))
    | (with_reducible refine foldl1_wf _ _ _ ?_ (fun t x hwf => ?_))
    | split
    | (simp only [State.addFlight_memories, seqFlow_memories])
    | (simp only [])
    | (simp only [memories_mk])
    | (simp only [memories_eta])

@[simp] theorem State.pourSource_memories (s : State) (f : Nat) (d : PourDesc) (r : Nat) : (State.pourSource s f d r).1.memories = s.memories := by
  unfold State.pourSource
  repeat' first
    | with_reducible rfl
    | (simp only [ite_memories, ite_self, foldl_memories, implies_true, State.readRow_memories, State.unsettled_memories]; done)
    | (with_reducible refine (foldl_memories _ _ _ (fun t x => ?_)).trans ?_)
    | (with_reducible refine (foldl1_memories _ _ _ (fun t x => ?_)).trans ?_)
    | split
    | (simp only [State.readRow_memories, State.unsettled_memories])
    | (simp only [])
    | (simp only [memories_mk])
    | (simp only [memories_eta])

@[simp] theorem State.pourLaunch_memories (s : State) (f : Nat) (d : PourDesc) : (State.pourLaunch s f d).memories = s.memories := by
  unfold State.pourLaunch
  repeat' first
    | with_reducible rfl
    | (simp only [ite_memories, ite_self, foldl_memories, implies_true, State.launch_memories, State.modXfer_memories, State.pourSource_memories, State.secondHalf_memories]; done)
    | (with_reducible refine (foldl_memories _ _ _ (fun t x => ?_)).trans ?_)
    | (with_reducible refine (foldl1_memories _ _ _ (fun t x => ?_)).trans ?_)
    | split
    | (simp only [State.launch_memories, State.modXfer_memories, State.pourSource_memories, State.secondHalf_memories])
    | (simp only [])
    | (simp only [memories_mk])
    | (simp only [memories_eta])

@[simp] theorem State.pourEnd_memories (s : State) (f : Nat) (d : PourDesc) (ctrFacet : Nat) (err : Bool) : (State.pourEnd s f d ctrFacet err).memories = s.memories := by
  unfold State.pourEnd
  repeat' first
    | with_reducible rfl
    | (simp only [ite_memories, ite_self, foldl_memories, implies_true, State.arrivedAll_memories, State.dropXfer_memories, State.noteDelay_memories, State.sbInc_memories, State.setPourQ_memories]; done)
    | (with_reducible refine (foldl_memories _ _ _ (fun t x => ?_)).trans ?_)
    | (with_reducible refine (foldl1_memories _ _ _ (fun t x => ?_)).trans ?_)
    | split
    | (simp only [State.arrivedAll_memories, State.dropXfer_memories, State.noteDelay_memories, State.sbInc_memories, State.setPourQ_memories])
    | (simp only [])
    | (simp only [memories_mk])
    | (simp only [memories_eta])

theorem State.pourReady_wf (s : State) (f : Nat) (hwf : s.memories.wf = true) : (State.pourReady s f).memories.wf = true := by
  unfold State.pourReady
  repeat' first
    | with_reducible assumption
    | (simp only [hwf, ite_memories, Memories.ite_wf, ite_self, foldl_memories, implies_true, State.pass_wf]; done)
    | (with_reducible refine State.pass_wf _ _ _ _ ?_)
    | (with_reducible refine foldl_wf _ _ _ ?_ (fun t x hwf => ?_))
    | (with_reducible refine foldl1_wf _ _ _ ?_ (fun t x hwf => ?_))
    | split
    | (simp only [])
    | (simp only [memories_mk])
    | (simp only [memories_eta])

theorem State.pourStart_wf (s0 : State) (f : Nat) (hwf : s0.memories.wf = true) : (State.pourStart s0 f).memories.wf = true := by
  unfold State.pourStart
  have h0 : (s0.pourReady f).memories.wf = true := State.pourReady_wf _ _ hwf
  generalize s0.pourReady f = s at h0
  extract_lets q
  split
  · exact h0
  · rename_i d _
    split
    · exact h0
    · have h1 : (if pdFence d then s.modFacet f (fun x => { x with fenced := d.uid }) else s).memories.wf = true := by
        split
        · rw [State.modFacet_memories]; exact h0
        · exact h0
      generalize (if pdFence d then s.modFacet f (fun x => { x with fenced := d.uid }) else s) = u at h1
      extract_lets c chk m1 m2 own dom mine before run m3 rd wrp
      split
      · simp only [State.pourEnd_memories, m2, State.facetErr_memories, m1]
        rw [foldl_memories _ _ _ (fun t x => State.markTable_memories t x)]
        exact h1
      · have h3 : m3.memories.wf = true := by
          simp only [m3, State.expect_memories, State.setPourQ_memories]; exact h1
        clear_value rd wrp m3 mine dom
        cases dom with
        | none => exact (congrArg Memories.wf (State.pourLaunch_memories _ _ _)).trans h3
        | some p =>
          have h4 : ((m3.addHolds p (Issuer.pour f d.uid) false rd.eraseDups).addHolds p (Issuer.pour f d.uid) true
              wrp.eraseDups).memories.wf = true := by
            simp only [State.addHolds_memories]; exact h3
          refine ite_wf _ _ _ ?_ h4
          exact (congrArg Memories.wf (State.pourLaunch_memories _ _ _)).trans h4

theorem execPourDescriptorStart_wf (f : Nat) (s : State) (t : State) (ht : execPourDescriptorStart f s = .next t) (hwf : s.memories.wf = true) : t.memories.wf = true := by
  injection ht with ht
  rw [← ht]
  repeat' first
    | with_reducible assumption
    | (simp only [hwf, ite_memories, Memories.ite_wf, ite_self, foldl_memories, implies_true, State.pourStart_wf]; done)
    | (with_reducible refine State.pourStart_wf _ _ ?_)
    | (with_reducible refine foldl_wf _ _ _ ?_ (fun t x hwf => ?_))
    | (with_reducible refine foldl1_wf _ _ _ ?_ (fun t x hwf => ?_))
    | split
    | (simp only [])
    | (simp only [memories_mk])
    | (simp only [memories_eta])

theorem State.freeRanges_wf (s : State) (l : List (Nat × Nat)) (hwf : s.memories.wf = true) : (State.freeRanges s l).memories.wf = true := by
  unfold State.freeRanges
  repeat' first
    | with_reducible assumption
    | (simp only [hwf, ite_memories, Memories.ite_wf, ite_self, State.fresh_memories, State.writeImem_wf, State.writeMem_wf]; done)
    | (with_reducible refine foldl_wf _ _ _ ?_ (fun t x hwf => ?_))

theorem State.pourRow_wf (s : State) (f : Nat) (d : PourDesc) (r : Nat) (hwf : s.memories.wf = true) : (State.pourRow s f d r).1.memories.wf = true := by
  unfold State.pourRow
  repeat' first
    | with_reducible assumption
    | (simp only [hwf, ite_memories, Memories.ite_wf, ite_self, foldl_memories, implies_true, State.pourSource_memories, State.report_memories, State.writeImem_wf, State.writeRow_wf]; done)
    | (with_reducible refine State.writeImem_wf _ _ _ _ ?_)
    | (with_reducible refine State.writeRow_wf _ _ _ _ ?_)
    | (with_reducible refine foldl_wf _ _ _ ?_ (fun t x hwf => ?_))
    | (with_reducible refine foldl1_wf _ _ _ ?_ (fun t x hwf => ?_))
    | split
    | (simp only [State.pourSource_memories, State.report_memories])
    | (simp only [])
    | (simp only [memories_mk])
    | (simp only [memories_eta])

theorem State.pourComplete_wf (s : State) (f idx : Nat) (hwf : s.memories.wf = true) : (State.pourComplete s f idx).memories.wf = true := by
  unfold State.pourComplete
  repeat' first
    | with_reducible assumption
    | (simp only [hwf, ite_memories, Memories.ite_wf, State.addHolds_memories, State.freeRanges_wf, State.pourEnd_memories, State.pourRow_wf]; done)
    | (with_reducible refine State.freeRanges_wf _ _ ?_)
    | (with_reducible refine foldl1_wf _ _ _ ?_ (fun t x hwf => ?_))
    | split
    | (simp only [hwf, ite_memories, Memories.ite_wf, State.addHolds_memories, State.freeRanges_wf, State.pourEnd_memories])

theorem execPourComplete_wf (f idx : Nat) (s : State) (t : State) (ht : execPourComplete f idx s = .next t) (hwf : s.memories.wf = true) : t.memories.wf = true := by
  injection ht with ht
  rw [← ht]
  simp only [hwf, State.pourComplete_wf]

/-! ### Rings -/

@[simp] theorem State.setTaken_memories (s : State) (r : Nat) (l : List RingDesc) : (State.setTaken s r l).memories = s.memories := by
  unfold State.setTaken
  repeat' first
    | (simp only [memories_mk])
    | (simp only [memories_eta])

@[simp] theorem State.setPast_memories (s : State) (e : Nat) (l : List RingDesc) : (State.setPast s e l).memories = s.memories := by
  unfold State.setPast
  repeat' first
    | with_reducible rfl
    | (simp only [ite_memories, ite_self, foldl_memories, implies_true]; done)
    | (with_reducible refine (foldl_memories _ _ _ (fun t x => ?_)).trans ?_)
    | (with_reducible refine (foldl1_memories _ _ _ (fun t x => ?_)).trans ?_)
    | split
    | (simp only [])
    | (simp only [memories_mk])
    | (simp only [memories_eta])

@[simp] theorem State.modDesc_memories (s : State) (r uid : Nat) (g : RingDesc → RingDesc) : (State.modDesc s r uid g).memories = s.memories := by
  unfold State.modDesc
  simp only [State.setTaken_memories]

@[simp] theorem State.dripErr_memories (s : State) (e k detail : Nat) : (State.dripErr s e k detail).memories = s.memories := by
  unfold State.dripErr
  simp only [State.report_memories, State.setBit_memories]

@[simp] theorem State.slotUc_memories (s : State) (r : Nat) : (State.slotUc s r).memories = s.memories := by
  unfold State.slotUc
  repeat' first
    | with_reducible rfl
    | (simp only [ite_memories, ite_self, State.dripErr_memories, State.reportUc_memories]; done)
    | split

@[simp] theorem State.ringPoll_memories (s : State) (r : Nat) : (State.ringPoll s r).memories = s.memories := by
  unfold State.ringPoll
  repeat' first
    | with_reducible rfl
    | (simp only [ite_memories, ite_self, foldl_memories, implies_true, State.reportEc_memories, State.sf_memories, State.slotUc_memories]; done)
    | (with_reducible refine (foldl_memories _ _ _ (fun t x => ?_)).trans ?_)
    | (with_reducible refine (foldl1_memories _ _ _ (fun t x => ?_)).trans ?_)
    | split
    | (simp only [State.reportEc_memories, State.sf_memories, State.slotUc_memories])
    | (simp only [])
    | (simp only [memories_mk])
    | (simp only [memories_eta])

theorem execRingPoll_memories (ring : Nat) (s : State) (t : State) (ht : execRingPoll ring s = .next t) : t.memories = s.memories := by
  injection ht with ht
  rw [← ht]
  simp only [State.ringPoll_memories]

@[simp] theorem State.descriptorTake_memories (s : State) (r : Nat) : (State.descriptorTake s r).memories = s.memories := by
  unfold State.descriptorTake
  repeat' first
    | with_reducible rfl
    | (simp only [ite_memories, ite_self, foldl_memories, implies_true, State.newUid_memories, State.reportEc_memories, State.setTaken_memories, State.sf_memories]; done)
    | (with_reducible refine (foldl_memories _ _ _ (fun t x => ?_)).trans ?_)
    | (with_reducible refine (foldl1_memories _ _ _ (fun t x => ?_)).trans ?_)
    | split
    | (simp only [State.newUid_memories, State.reportEc_memories, State.setTaken_memories, State.sf_memories])
    | (simp only [])
    | (simp only [memories_mk])
    | (simp only [memories_eta])

theorem execDescriptorTake_memories (ring : Nat) (s : State) (t : State) (ht : execDescriptorTake ring s = .next t) : t.memories = s.memories := by
  injection ht with ht
  rw [← ht]
  simp only [State.descriptorTake_memories]

@[simp] theorem State.showBusy_memories (s : State) (e : Nat) : (State.showBusy s e).memories = s.memories := by
  unfold State.showBusy
  simp only [State.sf_memories]

@[simp] theorem State.engineInc_memories (s : State) (e : Nat) (d : RingDesc) (ctr : Nat) (err : Bool) : (State.engineInc s e d ctr err).memories = s.memories := by
  unfold State.engineInc
  repeat' first
    | with_reducible rfl
    | (simp only [ite_memories, ite_self, foldl_memories, implies_true, State.haltOwed_memories, State.noteDelay_memories, State.sbInc_memories]; done)
    | (with_reducible refine (foldl_memories _ _ _ (fun t x => ?_)).trans ?_)
    | (with_reducible refine (foldl1_memories _ _ _ (fun t x => ?_)).trans ?_)
    | split
    | (simp only [State.haltOwed_memories, State.noteDelay_memories, State.sbInc_memories])
    | (simp only [])
    | (simp only [memories_mk])
    | (simp only [memories_eta])

@[simp] theorem State.dripFail_memories (s : State) (e : Nat) (d : RingDesc) : (State.dripFail s e d).memories = s.memories := by
  unfold State.dripFail
  simp only [ite_memories, ite_self, State.bump_memories, State.dripErr_memories, State.engineInc_memories, State.setTaken_memories]

theorem State.dripEnd_wf (s : State) (e : Nat) (d : RingDesc) (err : Bool) (hwf : s.memories.wf = true) : (State.dripEnd s e d err).memories.wf = true := by
  unfold State.dripEnd
  repeat' first
    | with_reducible assumption
    | (simp only [hwf, ite_memories, Memories.ite_wf, ite_self, foldl_memories, implies_true, State.arrivedAll_memories, State.dropXfer_memories, State.engineInc_memories, State.setPast_memories, State.setTaken_memories, State.showBusy_memories, State.unwatch_memories, State.freeRanges_wf]; done)
    | (with_reducible refine State.freeRanges_wf _ _ ?_)
    | (with_reducible refine foldl_wf _ _ _ ?_ (fun t x hwf => ?_))
    | (with_reducible refine foldl1_wf _ _ _ ?_ (fun t x hwf => ?_))
    | split
    | (simp only [State.arrivedAll_memories, State.dropXfer_memories, State.engineInc_memories, State.setPast_memories, State.setTaken_memories, State.showBusy_memories, State.unwatch_memories])
    | (simp only [])
    | (simp only [memories_mk])
    | (simp only [memories_eta])

/-! ### Drip -/

@[simp] theorem State.sramEc_memories (s : State) (e b n : Nat) : (State.sramEc s e b n).memories = s.memories := by
  unfold State.sramEc
  repeat' first
    | with_reducible rfl
    | (simp only [ite_memories, ite_self, foldl_memories, implies_true, State.report_memories]; done)
    | (with_reducible refine (foldl_memories _ _ _ (fun t x => ?_)).trans ?_)
    | (with_reducible refine (foldl1_memories _ _ _ (fun t x => ?_)).trans ?_)
    | split
    | (simp only [State.report_memories])
    | (simp only [])
    | (simp only [memories_mk])
    | (simp only [memories_eta])

@[simp] theorem State.sramTake_memories (s : State) (e b n : Nat) : (State.sramTake s e b n).1.memories = s.memories := by
  unfold State.sramTake
  repeat' first
    | with_reducible rfl
    | (simp only [ite_memories, ite_self, foldl_memories, implies_true, State.dripErr_memories, State.fresh_memories, State.sramEc_memories]; done)
    | (with_reducible refine (foldl_memories _ _ _ (fun t x => ?_)).trans ?_)
    | (with_reducible refine (foldl1_memories _ _ _ (fun t x => ?_)).trans ?_)
    | split
    | (simp only [State.dripErr_memories, State.fresh_memories, State.sramEc_memories])
    | (simp only [])
    | (simp only [memories_mk])
    | (simp only [memories_eta])

theorem State.sramPut_wf (s : State) (e b : Nat) (bs : List Byte) (hwf : s.memories.wf = true) : (State.sramPut s e b bs).1.memories.wf = true := by
  unfold State.sramPut
  simp only [hwf, foldl_memories, implies_true, State.report_memories, State.writeSram_wf]

theorem sramBlit_wf (s : State) (a : Nat) (bs : List Byte) (hwf : s.memories.wf = true) :
    (State.memories { s with sram := Sparse.blit s.sramD s.sram a bs }).wf = true := by
  rw [Memories.wf_iff] at hwf ⊢
  exact ⟨hwf.1, hwf.2.1, Sparse.wf_blit _ _ _ _ hwf.2.2.1, hwf.2.2.2⟩

theorem State.freeSram_wf (s : State) (e : Nat) (l : List (Nat × Nat)) (hwf : s.memories.wf = true) :
    (State.freeSram s e l).memories.wf = true := by
  unfold State.freeSram
  refine foldl_wf _ _ _ hwf (fun t x h => ?_)
  exact sramBlit_wf t.fresh.2 _ _ (by rw [State.fresh_memories]; exact h)

@[simp] theorem State.dripTake_memories (s : State) (e uid fga n : Nat) : (State.dripTake s e uid fga n).1.memories = s.memories := by
  unfold State.dripTake
  repeat' first
    | with_reducible rfl
    | (simp only [ite_memories, ite_self, foldl_memories, implies_true, State.dripErr_memories, State.fatalVertex_memories, State.fresh_memories, State.noteRead_memories, State.refuseRow_memories, State.reportUc_memories, State.unsettled_memories]; done)
    | (with_reducible refine (foldl_memories _ _ _ (fun t x => ?_)).trans ?_)
    | (with_reducible refine (foldl1_memories _ _ _ (fun t x => ?_)).trans ?_)
    | split
    | (simp only [State.dripErr_memories, State.fatalVertex_memories, State.fresh_memories, State.noteRead_memories, State.refuseRow_memories, State.reportUc_memories, State.unsettled_memories])
    | (simp only [])
    | (simp only [memories_mk])
    | (simp only [memories_eta])

theorem State.dripPut_wf (s : State) (e fga : Nat) (bs : List Byte) (hwf : s.memories.wf = true) : (State.dripPut s e fga bs).1.memories.wf = true := by
  unfold State.dripPut
  simp only [hwf, State.writeRow_wf]

@[simp] theorem State.wReportEc_memories (s : State) (d : RingDesc) (b : Nat) : (State.wReportEc s d b).memories = s.memories := by
  unfold State.wReportEc
  repeat' first
    | with_reducible rfl
    | (simp only [ite_memories, ite_self, foldl_memories, implies_true, State.reportEc_memories]; done)
    | (with_reducible refine (foldl_memories _ _ _ (fun t x => ?_)).trans ?_)
    | (with_reducible refine (foldl1_memories _ _ _ (fun t x => ?_)).trans ?_)
    | split
    | (simp only [State.reportEc_memories])
    | (simp only [])
    | (simp only [memories_mk])
    | (simp only [memories_eta])

theorem State.wWrite_wf (s : State) (e : Nat) (d : RingDesc) (b : Nat) (outs : List (List Nat)) (hwf : s.memories.wf = true) : (State.wWrite s e d b outs).1.memories.wf = true := by
  unfold State.wWrite
  repeat' first
    | with_reducible assumption
    | (simp only [hwf, State.dripPut_wf, State.launch_memories]; done)
    | (with_reducible refine foldl1_wf _ _ _ ?_ (fun t x hwf => ?_))
    | split
    | (simp only [])

theorem State.wFree_wf (s : State) (e : Nat) (d : RingDesc) (b : Nat) (hwf : s.memories.wf = true) : (State.wFree s e d b).1.memories.wf = true := by
  unfold State.wFree
  repeat' first
    | with_reducible assumption
    | (simp only [hwf, ite_memories, Memories.ite_wf, ite_self, foldl_memories, implies_true, State.fresh_memories, State.setBit_memories, State.wWrite_wf]; done)
    | (with_reducible refine State.wWrite_wf _ _ _ _ _ ?_)
    | (with_reducible refine foldl_wf _ _ _ ?_ (fun t x hwf => ?_))
    | (with_reducible refine foldl1_wf _ _ _ ?_ (fun t x hwf => ?_))
    | split
    | (simp only [State.fresh_memories, State.setBit_memories])
    | (simp only [])
    | (simp only [memories_mk])
    | (simp only [memories_eta])

@[simp] theorem State.setLate_memories (s : State) (e : Nat) (d : RingDesc) (on : Bool) : (State.setLate s e d on).memories = s.memories := by
  unfold State.setLate
  repeat' first
    | with_reducible rfl
    | (simp only [ite_memories, ite_self, foldl_memories, implies_true, State.modDesc_memories]; done)
    | (with_reducible refine (foldl_memories _ _ _ (fun t x => ?_)).trans ?_)
    | (with_reducible refine (foldl1_memories _ _ _ (fun t x => ?_)).trans ?_)
    | split
    | (simp only [State.modDesc_memories])
    | (simp only [])
    | (simp only [memories_mk])
    | (simp only [memories_eta])

@[simp] theorem State.wReportUc_memories (s : State) (e : Nat) (l : List Nat) : (State.wReportUc s e l).memories = s.memories := by
  unfold State.wReportUc
  repeat' first
    | with_reducible rfl
    | (simp only [ite_memories, ite_self, foldl_memories, implies_true, State.dripErr_memories, State.reportUc_memories]; done)
    | (with_reducible refine (foldl_memories _ _ _ (fun t x => ?_)).trans ?_)
    | (with_reducible refine (foldl1_memories _ _ _ (fun t x => ?_)).trans ?_)
    | split
    | (simp only [State.dripErr_memories, State.reportUc_memories])
    | (simp only [])
    | (simp only [memories_mk])
    | (simp only [memories_eta])

theorem State.wBlock_wf (s : State) (e : Nat) (d : RingDesc) (b : Nat) (hwf : s.memories.wf = true) : (State.wBlock s e d b).1.memories.wf = true := by
  unfold State.wBlock
  repeat' first
    | with_reducible assumption
    | (simp only [hwf, ite_memories, Memories.ite_wf, ite_self, foldl_memories, implies_true, State.astat_memories, State.bump_memories, State.dripErr_memories, State.fresh_memories, State.setBit_memories, State.setLate_memories, State.sramEc_memories, State.wReportEc_memories, State.wReportUc_memories, State.wFree_wf, State.wWrite_wf]; done)
    | (with_reducible refine State.wFree_wf _ _ _ _ ?_)
    | (with_reducible refine State.wWrite_wf _ _ _ _ _ ?_)
    | (with_reducible refine foldl_wf _ _ _ ?_ (fun t x hwf => ?_))
    | (with_reducible refine foldl1_wf _ _ _ ?_ (fun t x hwf => ?_))
    | split
    | (simp only [State.astat_memories, State.bump_memories, State.dripErr_memories, State.fresh_memories, State.setBit_memories, State.setLate_memories, State.sramEc_memories, State.wReportEc_memories, State.wReportUc_memories])
    | (simp only [])
    | (simp only [memories_mk])
    | (simp only [memories_eta])

theorem State.aloadUnit_wf (s : State) (e : Nat) (d : RingDesc) (i : Nat) (hwf : s.memories.wf = true) : (State.aloadUnit s e d i).1.memories.wf = true := by
  unfold State.aloadUnit
  repeat' first
    | with_reducible assumption
    | (simp only [hwf, State.dripTake_memories, State.fresh_memories]; done)
    | (with_reducible refine State.sramPut_wf _ _ _ _ ?_)
    | split

theorem State.astoreUnit_wf (s : State) (e : Nat) (d : RingDesc) (i : Nat) (hwf : s.memories.wf = true) : (State.astoreUnit s e d i).1.memories.wf = true := by
  unfold State.astoreUnit
  repeat' first
    | with_reducible assumption
    | (simp only [hwf, State.dripPut_wf, State.sramTake_memories]; done)
    | split
    | (simp only [])

@[simp] theorem State.blockTake_memories (s : State) (e b : Nat) : (State.blockTake s e b).1.memories = s.memories := by
  unfold State.blockTake
  simp only [State.sramTake_memories]

theorem State.blockPut_wf (s : State) (e b : Nat) (ws : List Word) (hwf : s.memories.wf = true) : (State.blockPut s e b ws).1.memories.wf = true := by
  unfold State.blockPut
  simp only [hwf, State.sramPut_wf]

@[simp] theorem State.drpFlag_memories (s : State) (e k detail : Nat) : (State.drpFlag s e k detail).memories = s.memories := by
  unfold State.drpFlag
  repeat' first
    | with_reducible rfl
    | (simp only [ite_memories, ite_self, foldl_memories, implies_true, State.report_memories, State.setBit_memories]; done)
    | (with_reducible refine (foldl_memories _ _ _ (fun t x => ?_)).trans ?_)
    | (with_reducible refine (foldl1_memories _ _ _ (fun t x => ?_)).trans ?_)
    | split
    | (simp only [State.report_memories, State.setBit_memories])
    | (simp only [])
    | (simp only [memories_mk])
    | (simp only [memories_eta])

theorem State.arcUnit_wf (s : State) (e : Nat) (d : RingDesc) (i : Nat) (hwf : s.memories.wf = true) : (State.arcUnit s e d i).1.memories.wf = true := by
  unfold State.arcUnit
  repeat' first
    | with_reducible assumption
    | (simp only [hwf, ite_memories, Memories.ite_wf, ite_self, foldl_memories, implies_true, State.arcPath_memories, State.blockTake_memories, State.drpFlag_memories, State.setLate_memories, State.blockPut_wf]; done)
    | (with_reducible refine State.blockPut_wf _ _ _ _ ?_)
    | (with_reducible refine foldl_wf _ _ _ ?_ (fun t x hwf => ?_))
    | (with_reducible refine foldl1_wf _ _ _ ?_ (fun t x hwf => ?_))
    | split
    | (simp only [State.arcPath_memories, State.blockTake_memories, State.drpFlag_memories, State.setLate_memories])
    | (simp only [])
    | (simp only [memories_mk])
    | (simp only [memories_eta])

@[simp] theorem State.aEntries_memories (s : State) (e : Nat) (d : RingDesc) (ts : List Nat) : (State.aEntries s e d ts).1.memories = s.memories := by
  unfold State.aEntries
  repeat' first
    | with_reducible rfl
    | (simp only [ite_memories, ite_self, foldl_memories, implies_true, State.dripTake_memories, State.fresh_memories]; done)
    | (with_reducible refine (foldl_memories _ _ _ (fun t x => ?_)).trans ?_)
    | (with_reducible refine (foldl1_memories _ _ _ (fun t x => ?_)).trans ?_)
    | split
    | (simp only [State.dripTake_memories, State.fresh_memories])
    | (simp only [])
    | (simp only [memories_mk])
    | (simp only [memories_eta])

theorem State.scoreUnit_wf (s : State) (e : Nat) (d : RingDesc) (j : Nat) (hwf : s.memories.wf = true) : (State.scoreUnit s e d j).1.memories.wf = true := by
  unfold State.scoreUnit
  repeat' first
    | with_reducible assumption
    | (simp only [hwf, ite_memories, Memories.ite_wf, ite_self, foldl_memories, implies_true, State.aEntries_memories, State.setBit_memories, State.setLate_memories, State.sramTake_memories, State.blockPut_wf]; done)
    | (with_reducible refine State.blockPut_wf _ _ _ _ ?_)
    | (with_reducible refine foldl_wf _ _ _ ?_ (fun t x hwf => ?_))
    | (with_reducible refine foldl1_wf _ _ _ ?_ (fun t x hwf => ?_))
    | split
    | (simp only [State.aEntries_memories, State.setBit_memories, State.setLate_memories, State.sramTake_memories])
    | (simp only [])
    | (simp only [memories_mk])
    | (simp only [memories_eta])

theorem State.valueHead_wf (s : State) (e : Nat) (d : RingDesc) (j h : Nat) (path : ArcPath) (dec : List (Nat × List FVal)) (late0 : Bool) (hwf : s.memories.wf = true) : (State.valueHead s e d j h path dec late0).1.memories.wf = true := by
  unfold State.valueHead
  extract_lets g r first pb xs0 stb st late1 xs1 xs live stLane sm f put a1 a2 a3 a4 a5 w1 ps ob old oldW late col o s9
  have hput : ∀ (acc : State × Bool) b ws, acc.1.memories.wf = true → (put acc b ws).1.memories.wf = true :=
    fun acc b ws h => State.blockPut_wf _ _ _ _ h
  have hst : st.1.memories.wf = true := by
    unfold st; split
    · rw [State.sramTake_memories, State.sramTake_memories]; exact hwf
    · unfold xs0; rw [State.sramTake_memories]; exact hwf
  clear_value put st sm
  have hw1 : w1.1.memories.wf = true := by
    unfold w1; split
    · simp only []
      rw [foldl_memories _ _ _ (fun t k => State.drpFlag_memories _ _ _ _)]
      exact hput _ _ _ (hput _ _ _ (hput _ _ _ (hput _ _ _ (hput _ _ _ hst))))
    · exact hst
  clear_value w1
  have hold : old.1.memories.wf = true := by
    unfold old; split
    · exact hw1
    · rw [State.sramTake_memories]; exact hw1
  clear_value old col o
  have h9 : s9.memories.wf = true := by
    unfold s9; split
    · rw [State.setBit_memories]; exact hold
    · exact hold
  clear_value s9
  split
  · dsimp only
    rw [foldl_memories _ _ _ (fun t k => State.drpFlag_memories _ _ _ _)]
    exact hput _ _ _ (hput _ _ _ (hput _ _ _ h9))
  · exact hput _ _ _ h9

theorem State.valueUnit_wf (s : State) (e : Nat) (d : RingDesc) (j : Nat) (hwf : s.memories.wf = true) : (State.valueUnit s e d j).1.memories.wf = true := by
  unfold State.valueUnit
  repeat' first
    | with_reducible assumption
    | (simp only [hwf, ite_memories, Memories.ite_wf, ite_self, foldl_memories, implies_true, State.aEntries_memories, State.arcPath_memories, State.setLate_memories, State.valueHead_wf]; done)
    | (with_reducible refine State.valueHead_wf _ _ _ _ _ _ _ _ ?_)
    | (with_reducible refine foldl_wf _ _ _ ?_ (fun t x hwf => ?_))
    | (with_reducible refine foldl1_wf _ _ _ ?_ (fun t x hwf => ?_))
    | split
    | (simp only [State.aEntries_memories, State.arcPath_memories, State.setLate_memories])
    | (simp only [])
    | (simp only [memories_mk])
    | (simp only [memories_eta])

theorem State.dripUnit_wf (s : State) (e : Nat) (d : RingDesc) (i : Nat) (hwf : s.memories.wf = true) : (State.dripUnit s e d i).1.memories.wf = true := by
  unfold State.dripUnit
  repeat' first
    | with_reducible assumption
    | (simp only [hwf, State.aloadUnit_wf, State.arcUnit_wf, State.astoreUnit_wf, State.scoreUnit_wf, State.valueUnit_wf, State.wBlock_wf]; done)
    | split

theorem dripAdvance_wf (e uid : Nat) (n : Nat) (s : State) (hwf : s.memories.wf = true) : (dripAdvance e uid n s).memories.wf = true := by
  induction n generalizing s with
  | zero => first | rfl | exact hwf | (unfold dripAdvance; split <;> first | rfl | assumption)
  | succ n ih =>
    unfold dripAdvance
    repeat' first
      | with_reducible assumption
      | (simp only [hwf, ite_memories, Memories.ite_wf, ite_self, foldl_memories, implies_true, State.modDesc_memories, State.dripUnit_wf, State.freeSram_wf, ih]; done)
      | (with_reducible refine State.dripUnit_wf _ _ _ _ ?_)
      | (with_reducible refine State.freeSram_wf _ _ _ ?_)
      | (with_reducible refine ih _ ?_)
      | (with_reducible refine foldl_wf _ _ _ ?_ (fun t x hwf => ?_))
      | (with_reducible refine foldl1_wf _ _ _ ?_ (fun t x hwf => ?_))
      | split
      | (simp only [State.modDesc_memories])
      | (simp only [])
      | (simp only [memories_mk])
      | (simp only [memories_eta])

theorem State.freeComputed_wf (s : State) (e : Nat) (d : RingDesc) (l : List (Nat × Nat)) (hwf : s.memories.wf = true) : (State.freeComputed s e d l).memories.wf = true := by
  unfold State.freeComputed
  repeat' first
    | with_reducible assumption
    | (simp only [hwf, ite_memories, Memories.ite_wf, ite_self, foldl_memories, implies_true, State.fresh_memories, State.dripPut_wf, State.freeSram_wf]; done)
    | (with_reducible refine State.dripPut_wf _ _ _ _ ?_)
    | (with_reducible refine State.freeSram_wf _ _ _ ?_)
    | (with_reducible refine foldl_wf _ _ _ ?_ (fun t x hwf => ?_))
    | (with_reducible refine foldl1_wf _ _ _ ?_ (fun t x hwf => ?_))
    | split
    | (simp only [State.fresh_memories])
    | (simp only [])
    | (simp only [memories_mk])
    | (simp only [memories_eta])

theorem State.freeWritten_wf (s : State) (e : Nat) (d : RingDesc) (hwf : s.memories.wf = true) : (State.freeWritten s e d).memories.wf = true := by
  unfold State.freeWritten
  repeat' first
    | with_reducible assumption
    | (simp only [hwf, ite_memories, Memories.ite_wf, ite_self, foldl_memories, implies_true, State.freeSram_wf, State.wFree_wf]; done)
    | (with_reducible refine State.freeSram_wf _ _ _ ?_)
    | (with_reducible refine State.wFree_wf _ _ _ _ ?_)
    | (with_reducible refine foldl_wf _ _ _ ?_ (fun t x hwf => ?_))
    | (with_reducible refine foldl1_wf _ _ _ ?_ (fun t x hwf => ?_))
    | split
    | (simp only [])
    | (simp only [memories_mk])
    | (simp only [memories_eta])

@[simp] theorem State.dripWatch_memories (s : State) (e : Nat) (d : RingDesc) : (State.dripWatch s e d).memories = s.memories := by
  unfold State.dripWatch
  repeat' first
    | with_reducible rfl
    | (simp only [ite_memories, ite_self, foldl_memories, implies_true, State.watch_memories]; done)
    | (with_reducible refine (foldl_memories _ _ _ (fun t x => ?_)).trans ?_)
    | (with_reducible refine (foldl1_memories _ _ _ (fun t x => ?_)).trans ?_)
    | split
    | (simp only [State.watch_memories])
    | (simp only [])
    | (simp only [memories_mk])
    | (simp only [memories_eta])

@[simp] theorem State.dripExpect_memories (s : State) (e : Nat) (d : RingDesc) : (State.dripExpect s e d).memories = s.memories := by
  unfold State.dripExpect
  repeat' first
    | with_reducible rfl
    | (simp only [ite_memories, ite_self, foldl_memories, implies_true, State.expect_memories]; done)
    | (with_reducible refine (foldl_memories _ _ _ (fun t x => ?_)).trans ?_)
    | (with_reducible refine (foldl1_memories _ _ _ (fun t x => ?_)).trans ?_)
    | split
    | (simp only [State.expect_memories])
    | (simp only [])
    | (simp only [memories_mk])
    | (simp only [memories_eta])

theorem State.dripLaunch_wf (s : State) (e : Nat) (d : RingDesc) (hwf : s.memories.wf = true) : (State.dripLaunch s e d).memories.wf = true := by
  unfold State.dripLaunch
  repeat' first
    | with_reducible assumption
    | (simp only [hwf, ite_memories, Memories.ite_wf, ite_self, State.launch_memories, State.modDesc_memories, State.sramTake_memories, dripAdvance_wf]; done)
    | (with_reducible refine foldl1_wf _ _ _ ?_ (fun t x hwf => ?_))
    | split
    | (simp only [hwf, ite_memories, Memories.ite_wf, State.launch_memories, State.modDesc_memories])

@[simp] theorem State.dripHold_memories (s : State) (e : Nat) (d : RingDesc) : (State.dripHold s e d).memories = s.memories := by
  unfold State.dripHold
  repeat' first
    | with_reducible rfl
    | (simp only [foldl_memories, implies_true, State.addHolds_memories]; done)
    | split

theorem State.dripStart_wf (s : State) (e : Nat) (is : RingDesc → Bool) (hwf : s.memories.wf = true) : (State.dripStart s e is).memories.wf = true := by
  unfold State.dripStart
  repeat' first
    | with_reducible assumption
    | (simp only [hwf, ite_memories, Memories.ite_wf, ite_self, foldl_memories, implies_true, State.dripExpect_memories, State.dripFail_memories, State.dripHold_memories, State.dripWatch_memories, State.markTable_memories, State.setPast_memories, State.setTaken_memories, State.showBusy_memories, State.dripLaunch_wf, State.freeComputed_wf, State.freeSram_wf]; done)
    | (with_reducible refine State.dripLaunch_wf _ _ _ ?_)
    | (with_reducible refine State.freeComputed_wf _ _ _ _ ?_)
    | (with_reducible refine State.freeSram_wf _ _ _ ?_)
    | (with_reducible refine foldl_wf _ _ _ ?_ (fun t x hwf => ?_))
    | (with_reducible refine foldl1_wf _ _ _ ?_ (fun t x hwf => ?_))
    | split
    | (simp only [State.dripExpect_memories, State.dripFail_memories, State.dripHold_memories, State.dripWatch_memories, State.markTable_memories, State.setPast_memories, State.setTaken_memories, State.showBusy_memories])
    | (simp only [])
    | (simp only [memories_mk])
    | (simp only [memories_eta])

@[simp] theorem State.dripNop_memories (s : State) (e : Nat) : (State.dripNop s e).memories = s.memories := by
  unfold State.dripNop
  repeat' first
    | with_reducible rfl
    | (simp only [ite_memories, ite_self, foldl_memories, implies_true, State.dripFail_memories, State.setPast_memories, State.setTaken_memories]; done)
    | (with_reducible refine (foldl_memories _ _ _ (fun t x => ?_)).trans ?_)
    | (with_reducible refine (foldl1_memories _ _ _ (fun t x => ?_)).trans ?_)
    | split
    | (simp only [State.dripFail_memories, State.setPast_memories, State.setTaken_memories])
    | (simp only [])
    | (simp only [memories_mk])
    | (simp only [memories_eta])

theorem execDripNop_memories (e : Nat) (s : State) (t : State) (ht : execDripNop e s = .next t) : t.memories = s.memories := by
  injection ht with ht
  rw [← ht]
  simp only [State.dripNop_memories]

theorem execWpour_wf (e : Nat) (s : State) (t : State) (ht : execWpour e s = .next t) (hwf : s.memories.wf = true) : t.memories.wf = true := by
  injection ht with ht
  rw [← ht]
  simp only [hwf, State.dripStart_wf]

theorem execAload_wf (e : Nat) (s : State) (t : State) (ht : execAload e s = .next t) (hwf : s.memories.wf = true) : t.memories.wf = true := by
  injection ht with ht
  rw [← ht]
  simp only [hwf, State.dripStart_wf]

theorem execAstore_wf (e : Nat) (s : State) (t : State) (ht : execAstore e s = .next t) (hwf : s.memories.wf = true) : t.memories.wf = true := by
  injection ht with ht
  rw [← ht]
  simp only [hwf, State.dripStart_wf]

theorem execDripArcExp2_wf (e : Nat) (s : State) (t : State) (ht : execDripArcExp2 e s = .next t) (hwf : s.memories.wf = true) : t.memories.wf = true := by
  injection ht with ht
  rw [← ht]
  simp only [hwf, State.dripStart_wf]

theorem execDripArcExp_wf (e : Nat) (s : State) (t : State) (ht : execDripArcExp e s = .next t) (hwf : s.memories.wf = true) : t.memories.wf = true := by
  injection ht with ht
  rw [← ht]
  simp only [hwf, State.dripStart_wf]

theorem execDripArcRecip_wf (e : Nat) (s : State) (t : State) (ht : execDripArcRecip e s = .next t) (hwf : s.memories.wf = true) : t.memories.wf = true := by
  injection ht with ht
  rw [← ht]
  simp only [hwf, State.dripStart_wf]

theorem execDripArcRsqrt_wf (e : Nat) (s : State) (t : State) (ht : execDripArcRsqrt e s = .next t) (hwf : s.memories.wf = true) : t.memories.wf = true := by
  injection ht with ht
  rw [← ht]
  simp only [hwf, State.dripStart_wf]

theorem execDripArcSoftmaxStep_wf (e : Nat) (s : State) (t : State) (ht : execDripArcSoftmaxStep e s = .next t) (hwf : s.memories.wf = true) : t.memories.wf = true := by
  injection ht with ht
  rw [← ht]
  simp only [hwf, State.dripStart_wf]

theorem execDripArcSoftmaxFinal_wf (e : Nat) (s : State) (t : State) (ht : execDripArcSoftmaxFinal e s = .next t) (hwf : s.memories.wf = true) : t.memories.wf = true := by
  injection ht with ht
  rw [← ht]
  simp only [hwf, State.dripStart_wf]

theorem execDripArcRmsStats_wf (e : Nat) (s : State) (t : State) (ht : execDripArcRmsStats e s = .next t) (hwf : s.memories.wf = true) : t.memories.wf = true := by
  injection ht with ht
  rw [← ht]
  simp only [hwf, State.dripStart_wf]

theorem execScorePour_wf (e : Nat) (s : State) (t : State) (ht : execScorePour e s = .next t) (hwf : s.memories.wf = true) : t.memories.wf = true := by
  injection ht with ht
  rw [← ht]
  simp only [hwf, State.dripStart_wf]

theorem execValuePour_wf (e : Nat) (s : State) (t : State) (ht : execValuePour e s = .next t) (hwf : s.memories.wf = true) : t.memories.wf = true := by
  injection ht with ht
  rw [← ht]
  simp only [hwf, State.dripStart_wf]

@[simp] theorem State.dripPoison_memories (s : State) (e : Nat) (d : RingDesc) : (State.dripPoison s e d).memories = s.memories := by
  unfold State.dripPoison
  repeat' first
    | with_reducible rfl
    | (simp only [ite_memories, ite_self, foldl_memories, implies_true, State.dripErr_memories, State.modDesc_memories]; done)
    | (with_reducible refine (foldl_memories _ _ _ (fun t x => ?_)).trans ?_)
    | (with_reducible refine (foldl1_memories _ _ _ (fun t x => ?_)).trans ?_)
    | split
    | (simp only [State.dripErr_memories, State.modDesc_memories])
    | (simp only [])
    | (simp only [memories_mk])
    | (simp only [memories_eta])

theorem State.wReturn_wf (s : State) (e uid : Nat) (hwf : s.memories.wf = true) : (State.wReturn s e uid).memories.wf = true := by
  unfold State.wReturn
  repeat' first
    | with_reducible assumption
    | (simp only [hwf, ite_memories, Memories.ite_wf, ite_self, foldl_memories, implies_true, State.arrivedRuns_memories, State.engineInc_memories, State.modDesc_memories, State.freeWritten_wf]; done)
    | (with_reducible refine State.freeWritten_wf _ _ _ ?_)
    | (with_reducible refine foldl_wf _ _ _ ?_ (fun t x hwf => ?_))
    | (with_reducible refine foldl1_wf _ _ _ ?_ (fun t x hwf => ?_))
    | split
    | (simp only [State.arrivedRuns_memories, State.engineInc_memories, State.modDesc_memories])
    | (simp only [])
    | (simp only [memories_mk])
    | (simp only [memories_eta])

theorem State.wpourReturn_wf (s : State) (e : Nat) (hwf : s.memories.wf = true) : (State.wpourReturn s e).memories.wf = true := by
  unfold State.wpourReturn
  repeat' first
    | with_reducible assumption
    | (simp only [hwf, ite_memories, Memories.ite_wf, ite_self, foldl_memories, implies_true, State.dripHold_memories, State.dripPoison_memories, State.wReturn_wf, dripAdvance_wf]; done)
    | (with_reducible refine State.wReturn_wf _ _ _ ?_)
    | (with_reducible refine dripAdvance_wf _ _ _ _ ?_)
    | (with_reducible refine foldl_wf _ _ _ ?_ (fun t x hwf => ?_))
    | (with_reducible refine foldl1_wf _ _ _ ?_ (fun t x hwf => ?_))
    | split
    | (simp only [State.dripHold_memories, State.dripPoison_memories])
    | (simp only [])
    | (simp only [memories_mk])
    | (simp only [memories_eta])

theorem execWpourReturn_wf (e : Nat) (s : State) (t : State) (ht : execWpourReturn e s = .next t) (hwf : s.memories.wf = true) : t.memories.wf = true := by
  injection ht with ht
  rw [← ht]
  simp only [hwf, State.wpourReturn_wf]

theorem State.dripFinish_wf (s : State) (e uid : Nat) (hwf : s.memories.wf = true) : (State.dripFinish s e uid).memories.wf = true := by
  unfold State.dripFinish
  repeat' first
    | with_reducible assumption
    | (simp only [hwf, ite_memories, Memories.ite_wf, ite_self, foldl_memories, implies_true, State.arrivedRuns_memories, State.engineInc_memories, State.dripEnd_wf, State.freeSram_wf, State.freeWritten_wf]; done)
    | (with_reducible refine State.dripEnd_wf _ _ _ _ ?_)
    | (with_reducible refine State.freeSram_wf _ _ _ ?_)
    | (with_reducible refine State.freeWritten_wf _ _ _ ?_)
    | (with_reducible refine foldl_wf _ _ _ ?_ (fun t x hwf => ?_))
    | (with_reducible refine foldl1_wf _ _ _ ?_ (fun t x hwf => ?_))
    | split
    | (simp only [State.arrivedRuns_memories, State.engineInc_memories])
    | (simp only [])
    | (simp only [memories_mk])
    | (simp only [memories_eta])

theorem State.dripComplete_wf (s : State) (e cls : Nat) (hwf : s.memories.wf = true) : (State.dripComplete s e cls).memories.wf = true := by
  unfold State.dripComplete
  repeat' first
    | with_reducible assumption
    | (simp only [hwf, ite_memories, Memories.ite_wf, ite_self, foldl_memories, implies_true, State.dripHold_memories, State.dripPoison_memories, State.dripFinish_wf, dripAdvance_wf]; done)
    | (with_reducible refine State.dripFinish_wf _ _ _ ?_)
    | (with_reducible refine dripAdvance_wf _ _ _ _ ?_)
    | (with_reducible refine foldl_wf _ _ _ ?_ (fun t x hwf => ?_))
    | (with_reducible refine foldl1_wf _ _ _ ?_ (fun t x hwf => ?_))
    | split
    | (simp only [State.dripHold_memories, State.dripPoison_memories])
    | (simp only [])
    | (simp only [memories_mk])
    | (simp only [memories_eta])

theorem execDripDescriptorComplete_wf (e cls : Nat) (s : State) (t : State) (ht : execDripDescriptorComplete e cls s = .next t) (hwf : s.memories.wf = true) : t.memories.wf = true := by
  injection ht with ht
  rw [← ht]
  simp only [hwf, State.dripComplete_wf]

@[simp] theorem State.dripReturn_memories (s : State) (e : Nat) : (State.dripReturn s e).memories = s.memories := by
  unfold State.dripReturn
  repeat' first
    | with_reducible rfl
    | (simp only [State.setTaken_memories, State.sf_memories]; done)
    | split

theorem abortRuns_wf (e uid : Nat) (n : Nat) (s : State) (hwf : s.memories.wf = true) : (abortRuns e uid n s).memories.wf = true := by
  induction n generalizing s with
  | zero => first | rfl | exact hwf | (unfold abortRuns; split <;> first | rfl | assumption)
  | succ n ih =>
    unfold abortRuns
    repeat' first
      | with_reducible assumption
      | (simp only [hwf, ite_memories, Memories.ite_wf, ite_self, foldl_memories, implies_true, State.wReturn_wf, dripAdvance_wf, ih]; done)
      | (with_reducible refine State.wReturn_wf _ _ _ ?_)
      | (with_reducible refine dripAdvance_wf _ _ _ _ ?_)
      | (with_reducible refine ih _ ?_)
      | (with_reducible refine foldl_wf _ _ _ ?_ (fun t x hwf => ?_))
      | (with_reducible refine foldl1_wf _ _ _ ?_ (fun t x hwf => ?_))
      | split
      | (simp only [])
      | (simp only [memories_mk])
      | (simp only [memories_eta])

theorem State.dripAbort1_wf (s : State) (e : Nat) (d : RingDesc) (hwf : s.memories.wf = true) : (State.dripAbort1 s e d).memories.wf = true := by
  unfold State.dripAbort1
  repeat' first
    | with_reducible assumption
    | (simp only [hwf, ite_memories, Memories.ite_wf, ite_self, foldl_memories, implies_true, State.dripPoison_memories, State.fresh_memories, State.modDesc_memories, State.showOutst_memories, State.dripFinish_wf, abortRuns_wf]; done)
    | (with_reducible refine State.dripFinish_wf _ _ _ ?_)
    | (with_reducible refine abortRuns_wf _ _ _ _ ?_)
    | (with_reducible refine foldl_wf _ _ _ ?_ (fun t x hwf => ?_))
    | (with_reducible refine foldl1_wf _ _ _ ?_ (fun t x hwf => ?_))
    | split
    | (simp only [State.dripPoison_memories, State.fresh_memories, State.modDesc_memories, State.showOutst_memories])
    | (simp only [])
    | (simp only [memories_mk])
    | (simp only [memories_eta])

theorem State.dripHalt_wf (s : State) (e : Nat) (abort : Bool) (hwf : s.memories.wf = true) : (State.dripHalt s e abort).memories.wf = true := by
  unfold State.dripHalt
  repeat' first
    | (simp only [hwf, ite_memories, Memories.ite_wf, ite_self, State.dripAbort1_wf, State.dripReturn_memories, State.sf_memories]; done)
    | (with_reducible refine foldl_wf _ _ _ ?_ (fun t x hwf => ?_))
    | split
    | (simp only [ite_memories, ite_self, State.sf_memories])

@[simp] theorem State.drpCmd_memories (s : State) (r : Requester) (e code : Nat) (k : State → State × Nat) (hk : ∀ t , (k t ).1.memories = t.memories) : (State.drpCmd s r e code k).memories = s.memories := by
  unfold State.drpCmd
  simp only [implies_true, State.cmdDone_memories, State.gate_memories, hk]

theorem State.drpCmd_wf (s : State) (r : Requester) (e code : Nat) (k : State → State × Nat) (hwf : s.memories.wf = true) (hk : ∀ t , t.memories.wf = true → (k t ).1.memories.wf = true) : (State.drpCmd s r e code k).memories.wf = true := by
  unfold State.drpCmd
  repeat' first
    | with_reducible assumption
    | (simp only [hwf, State.cmdDone_memories, hk]; done)
    | (with_reducible refine State.gate_wf _ _ _ _ _ ?_ (fun t  hwf => ?_))

theorem execDrpStart_memories (r : Requester) (e : Nat) (s : State) (t : State) (ht : execDrpStart r e s = .next t) : t.memories = s.memories := by
  injection ht with ht
  rw [← ht]
  repeat' first
    | with_reducible rfl
    | (simp only [State.sf_memories]; done)
    | (with_reducible refine (State.drpCmd_memories _ _ _ _ _ (fun t  => ?_)).trans ?_)
    | split

theorem execDrpStop_wf (r : Requester) (e : Nat) (s : State) (t : State) (ht : execDrpStop r e s = .next t) (hwf : s.memories.wf = true) : t.memories.wf = true := by
  injection ht with ht
  rw [← ht]
  repeat' first
    | with_reducible assumption
    | (simp only [hwf, State.dripHalt_wf]; done)
    | (with_reducible refine State.drpCmd_wf _ _ _ _ _ ?_ (fun t  hwf => ?_))

theorem execDrpAbort_wf (r : Requester) (e : Nat) (s : State) (t : State) (ht : execDrpAbort r e s = .next t) (hwf : s.memories.wf = true) : t.memories.wf = true := by
  injection ht with ht
  rw [← ht]
  repeat' first
    | with_reducible assumption
    | (simp only [hwf, State.dripHalt_wf]; done)
    | (with_reducible refine State.drpCmd_wf _ _ _ _ _ ?_ (fun t  hwf => ?_))

theorem execDrpZero_wf (r : Requester) (e : Nat) (s : State) (t : State) (ht : execDrpZero r e s = .next t) (hwf : s.memories.wf = true) : t.memories.wf = true := by
  injection ht with ht
  rw [← ht]
  repeat' first
    | with_reducible assumption
    | (simp only [hwf, State.clearSram_wf]; done)
    | (with_reducible refine State.drpCmd_wf _ _ _ _ _ ?_ (fun t  hwf => ?_))
    | split

@[simp] theorem State.drpStopped_memories (s : State) (e : Nat) : (State.drpStopped s e).memories = s.memories := by
  unfold State.drpStopped
  repeat' first
    | with_reducible rfl
    | (simp only [ite_memories, ite_self, foldl_memories, implies_true, State.setPast_memories, State.sf_memories]; done)
    | (with_reducible refine (foldl_memories _ _ _ (fun t x => ?_)).trans ?_)
    | (with_reducible refine (foldl1_memories _ _ _ (fun t x => ?_)).trans ?_)
    | split
    | (simp only [State.setPast_memories, State.sf_memories])
    | (simp only [])
    | (simp only [memories_mk])
    | (simp only [memories_eta])

theorem execDrpStopped_memories (e : Nat) (s : State) (t : State) (ht : execDrpStopped e s = .next t) : t.memories = s.memories := by
  injection ht with ht
  rw [← ht]
  simp only [State.drpStopped_memories]

@[simp] theorem State.drpRingWrite_memories (s : State) (r : Requester) (e : Nat) (c : Card) (put : State → State) (hput : ∀ t , (put t ).memories = t.memories) : (State.drpRingWrite s r e c put).memories = s.memories := by
  unfold State.drpRingWrite
  simp only [ite_memories, ite_self, implies_true, State.gate_memories, State.setBit_memories, hput]

theorem State.drpRingWrite_wf (s : State) (r : Requester) (e : Nat) (c : Card) (put : State → State) (hwf : s.memories.wf = true) (hput : ∀ t , t.memories.wf = true → (put t ).memories.wf = true) : (State.drpRingWrite s r e c put).memories.wf = true := by
  unfold State.drpRingWrite
  repeat' first
    | with_reducible assumption
    | (simp only [hwf, ite_memories, Memories.ite_wf, ite_self, State.setBit_memories, hput]; done)
    | (with_reducible refine State.gate_wf _ _ _ _ _ ?_ (fun t  hwf => ?_))

theorem execDrpRingWrite_memories (r : Requester) (e off be : Nat) (val : Word) (s : State) (t : State) (ht : execDrpRingWrite r e off be val s = .next t) : t.memories = s.memories := by
  injection ht with ht
  rw [← ht]
  repeat' first
    | with_reducible rfl
    | (simp only [ite_memories, ite_self, foldl_memories, implies_true, State.drpRingWrite_memories, State.write4_memories]; done)
    | (with_reducible refine (foldl_memories _ _ _ (fun t x => ?_)).trans ?_)
    | (with_reducible refine (foldl1_memories _ _ _ (fun t x => ?_)).trans ?_)
    | (with_reducible refine State.write4_memories _ _ _ _ _ _ _ (fun c g t hg => ?_))
    | (simp only [implies_true, hg, State.drpRingWrite_memories, State.write4_memories]; done)
    | split
    | (simp only [State.drpRingWrite_memories, State.write4_memories])
    | (simp only [])
    | (simp only [memories_mk])
    | (simp only [memories_eta])

@[simp] theorem State.drpCfgWrite_memories (s : State) (r : Requester) (e be : Nat) (val : Word) : (State.drpCfgWrite s r e be val).memories = s.memories := by
  unfold State.drpCfgWrite
  simp only [ite_memories, ite_self, implies_true, State.gate_memories, State.setBit_memories, State.wr_memories]

theorem execDrpCfgWrite_memories (r : Requester) (e be : Nat) (val : Word) (s : State) (t : State) (ht : execDrpCfgWrite r e be val s = .next t) : t.memories = s.memories := by
  injection ht with ht
  rw [← ht]
  simp only [State.drpCfgWrite_memories]

@[simp] theorem State.carafeScrub_memories (s : State) (stack q : Nat) (corrected : List Nat) : (State.carafeScrub s stack q corrected).memories = s.memories := by
  unfold State.carafeScrub
  repeat' first
    | with_reducible rfl
    | (simp only [ite_memories, foldl_memories, implies_true, State.bump_memories, State.report_memories]; done)
    | split
    | (simp only [ite_memories])
    | (simp only [memories_mk])
    | (simp only [memories_eta])

theorem execCarafeScrub_memories (stack quadrant : Nat) (corrected : List Nat) (s : State) (t : State) (ht : execCarafeScrub stack quadrant corrected s = .next t) : t.memories = s.memories := by
  injection ht with ht
  rw [← ht]
  simp only [State.carafeScrub_memories]

end Sys2Proof.Machine
end

