-- ==== Sys2Proof/Laws/KeepFabric.lean ====
section
/-! SUPPORT. What happens to the memories, and that they keep their canonical form: the power cap, the fabric and copies. -/

namespace Sys2Proof.Machine

/-! ### PowerCap -/

@[simp] theorem State.setClocks_memories (s : State) (cs : List Nat) : (State.setClocks s cs).memories = s.memories := by
  unfold State.setClocks
  repeat' first
    | with_reducible rfl
    | (simp only [ite_memories, ite_self, foldl_memories, implies_true]; done)
    | (with_reducible refine (foldl_memories _ _ _ (fun t x => ?_)).trans ?_)
    | (with_reducible refine (foldl1_memories _ _ _ (fun t x => ?_)).trans ?_)
    | split
    | (simp only [])
    | (simp only [memories_mk])
    | (simp only [memories_eta])

@[simp] theorem State.settleClocks_memories (s : State) : (State.settleClocks s).memories = s.memories := by
  unfold State.settleClocks
  repeat' first
    | with_reducible rfl
    | (simp only [ite_memories, ite_self, foldl_memories, implies_true, State.setClocks_memories]; done)
    | (with_reducible refine (foldl_memories _ _ _ (fun t x => ?_)).trans ?_)
    | (with_reducible refine (foldl1_memories _ _ _ (fun t x => ?_)).trans ?_)
    | split
    | (simp only [State.setClocks_memories])
    | (simp only [])
    | (simp only [memories_mk])
    | (simp only [memories_eta])

@[simp] theorem State.recap_memories (s : State) : (State.recap s).memories = s.memories := by
  unfold State.recap
  simp only [foldl_memories, implies_true, State.settleClocks_memories, State.sf_memories]

/-! ### Fabric -/

@[simp] theorem State.portStart_memories (s : State) (n : Nat) : (State.portStart s n).memories = s.memories := by
  unfold State.portStart
  simp only [ite_memories, ite_self, State.wr_memories]

@[simp] theorem State.portFail_memories (s : State) (n : Nat) : (State.portFail s n).memories = s.memories := by
  unfold State.portFail
  simp only [State.bump_memories, State.report_memories, State.wr_memories]

@[simp] theorem State.linkTrained_memories (s : State) (n : Nat) (native all : Bool) : (State.linkTrained s n native all).memories = s.memories := by
  unfold State.linkTrained
  simp only [ite_memories, ite_self, State.portFail_memories, State.sf_memories]

theorem execLinkTrained_memories (port : Nat) (native allLanes : Bool) (s : State) (t : State) (ht : execLinkTrained port native allLanes s = .next t) : t.memories = s.memories := by
  injection ht with ht
  rw [← ht]
  simp only [State.linkTrained_memories]

@[simp] theorem State.nativeTimeout_memories (s : State) (n : Nat) : (State.nativeTimeout s n).memories = s.memories := by
  unfold State.nativeTimeout
  simp only [ite_memories, ite_self, State.sf_memories]

theorem execNativeTrainingTimeout_memories (port : Nat) (s : State) (t : State) (ht : execNativeTrainingTimeout port s = .next t) : t.memories = s.memories := by
  injection ht with ht
  rw [← ht]
  simp only [State.nativeTimeout_memories]

@[simp] theorem State.sendHello_memories (s : State) (n : Nat) : (State.sendHello s n).memories = s.memories := by
  unfold State.sendHello
  simp only [State.sendOut_memories]

@[simp] theorem State.mkaSecure_memories (s : State) (a : Assoc) : (State.mkaSecure s a).memories = s.memories := by
  unfold State.mkaSecure
  repeat' first
    | with_reducible rfl
    | (simp only [ite_memories, ite_self, foldl_memories, implies_true, State.modLink_memories, State.sendHello_memories, State.sf_memories]; done)
    | (with_reducible refine (foldl_memories _ _ _ (fun t x => ?_)).trans ?_)
    | (with_reducible refine (foldl1_memories _ _ _ (fun t x => ?_)).trans ?_)
    | split
    | (simp only [State.modLink_memories, State.sendHello_memories, State.sf_memories])
    | (simp only [])
    | (simp only [memories_mk])
    | (simp only [memories_eta])

theorem execMkaSecure_memories (port : Assoc) (s : State) (t : State) (ht : execMkaSecure port s = .next t) : t.memories = s.memories := by
  injection ht with ht
  rw [← ht]
  repeat' first
    | with_reducible rfl
    | (simp only [ite_memories, ite_self, foldl_memories, implies_true, State.mkaSecure_memories]; done)
    | (with_reducible refine (foldl_memories _ _ _ (fun t x => ?_)).trans ?_)
    | (with_reducible refine (foldl1_memories _ _ _ (fun t x => ?_)).trans ?_)
    | split
    | (simp only [State.mkaSecure_memories])
    | (simp only [])
    | (simp only [memories_mk])
    | (simp only [memories_eta])

@[simp] theorem State.mkaTimeout_memories (s : State) (n : Nat) : (State.mkaTimeout s n).memories = s.memories := by
  unfold State.mkaTimeout
  simp only [ite_memories, ite_self, State.portFail_memories]

theorem execMkaTimeout_memories (port : Nat) (s : State) (t : State) (ht : execMkaTimeout port s = .next t) : t.memories = s.memories := by
  injection ht with ht
  rw [← ht]
  simp only [State.mkaTimeout_memories]

@[simp] theorem State.reroute_memories (s : State) (o : FabOp) : (State.reroute s o).memories = s.memories := by
  unfold State.reroute
  repeat' first
    | with_reducible rfl
    | (simp only [ite_memories, ite_self, foldl_memories, implies_true, State.completeOp_memories]; done)
    | (with_reducible refine (foldl_memories _ _ _ (fun t x => ?_)).trans ?_)
    | (with_reducible refine (foldl1_memories _ _ _ (fun t x => ?_)).trans ?_)
    | split
    | (simp only [State.completeOp_memories])
    | (simp only [])
    | (simp only [memories_mk])
    | (simp only [memories_eta])

@[simp] theorem State.applyRoute_memories (s : State) (e : Nat) : (State.applyRoute s e).memories = s.memories := by
  unfold State.applyRoute
  repeat' first
    | with_reducible rfl
    | (simp only [ite_memories, ite_self, foldl_memories, implies_true, State.pump_memories, State.reroute_memories]; done)
    | (with_reducible refine (foldl_memories _ _ _ (fun t x => ?_)).trans ?_)
    | (with_reducible refine (foldl1_memories _ _ _ (fun t x => ?_)).trans ?_)
    | split
    | (simp only [State.pump_memories, State.reroute_memories])
    | (simp only [])
    | (simp only [memories_mk])
    | (simp only [memories_eta])

@[simp] theorem State.hello_memories (s : State) (n : Nat) (h : Hello) : (State.hello s n h).memories = s.memories := by
  unfold State.hello
  repeat' first
    | with_reducible rfl
    | (simp only [ite_memories, ite_self, foldl_memories, implies_true, State.modLink_memories, State.portFail_memories, State.portFrame_memories, State.sf_memories]; done)
    | (with_reducible refine (foldl_memories _ _ _ (fun t x => ?_)).trans ?_)
    | (with_reducible refine (foldl1_memories _ _ _ (fun t x => ?_)).trans ?_)
    | split
    | (simp only [State.modLink_memories, State.portFail_memories, State.portFrame_memories, State.sf_memories])
    | (simp only [])
    | (simp only [memories_mk])
    | (simp only [memories_eta])

theorem execHello_memories (port : Nat) (h : Hello) (s : State) (t : State) (ht : execHello port h s = .next t) : t.memories = s.memories := by
  injection ht with ht
  rw [← ht]
  simp only [State.hello_memories]

@[simp] theorem State.bringupRetry_memories (s : State) (n : Nat) : (State.bringupRetry s n).memories = s.memories := by
  unfold State.bringupRetry
  simp only [ite_memories, ite_self, State.portStart_memories]

theorem execBringupRetry_memories (port : Nat) (s : State) (t : State) (ht : execBringupRetry port s = .next t) : t.memories = s.memories := by
  injection ht with ht
  rw [← ht]
  simp only [State.bringupRetry_memories]

@[simp] theorem State.keepalive_memories (s : State) (n : Nat) : (State.keepalive s n).memories = s.memories := by
  unfold State.keepalive
  simp only [ite_memories, ite_self, State.sendOut_memories]

theorem execKeepalive_memories (port : Nat) (s : State) (t : State) (ht : execKeepalive port s = .next t) : t.memories = s.memories := by
  injection ht with ht
  rw [← ht]
  simp only [State.keepalive_memories]

@[simp] theorem State.helloAll_memories (s : State) : (State.helloAll s).memories = s.memories := by
  unfold State.helloAll
  simp only [ite_memories, ite_self, foldl_memories, implies_true, State.sendHello_memories]

@[simp] theorem State.unclaim_memories (s : State) : (State.unclaim s).memories = s.memories := by
  unfold State.unclaim
  repeat' first
    | with_reducible rfl
    | (simp only [ite_memories, ite_self, foldl_memories, implies_true, State.completeOp_memories, State.sf_memories]; done)
    | (with_reducible refine (foldl_memories _ _ _ (fun t x => ?_)).trans ?_)
    | (with_reducible refine (foldl1_memories _ _ _ (fun t x => ?_)).trans ?_)
    | split
    | (simp only [State.completeOp_memories, State.sf_memories])
    | (simp only [])
    | (simp only [memories_mk])
    | (simp only [memories_eta])

@[simp] theorem State.identity_memories (s : State) (v : Nat) : (State.identity s v).memories = s.memories := by
  unfold State.identity
  repeat' first
    | with_reducible rfl
    | (simp only [ite_memories, ite_self, foldl_memories, implies_true, State.helloAll_memories, State.setN_memories, State.sf_memories, State.unclaim_memories]; done)
    | (with_reducible refine (foldl_memories _ _ _ (fun t x => ?_)).trans ?_)
    | (with_reducible refine (foldl1_memories _ _ _ (fun t x => ?_)).trans ?_)
    | split
    | (simp only [State.helloAll_memories, State.setN_memories, State.sf_memories, State.unclaim_memories])
    | (simp only [])
    | (simp only [memories_mk])
    | (simp only [memories_eta])

@[simp] theorem State.claimConflict_memories (s : State) (ep home eui : Nat) : (State.claimConflict s ep home eui).memories = s.memories := by
  unfold State.claimConflict
  repeat' first
    | with_reducible rfl
    | (simp only [ite_memories, ite_self, foldl_memories, implies_true, State.bump_memories, State.recap_memories, State.report_memories, State.setBit_memories, State.setFlt_memories, State.setN_memories, State.unclaim_memories]; done)
    | (with_reducible refine (foldl_memories _ _ _ (fun t x => ?_)).trans ?_)
    | (with_reducible refine (foldl1_memories _ _ _ (fun t x => ?_)).trans ?_)
    | split
    | (simp only [State.bump_memories, State.recap_memories, State.report_memories, State.setBit_memories, State.setFlt_memories, State.setN_memories, State.unclaim_memories])
    | (simp only [])
    | (simp only [memories_mk])
    | (simp only [memories_eta])

theorem execClaimConflict_memories (epoch home eui : Nat) (s : State) (t : State) (ht : execClaimConflict epoch home eui s = .next t) : t.memories = s.memories := by
  injection ht with ht
  rw [← ht]
  simp only [State.claimConflict_memories]

@[simp] theorem State.sakChange_memories (s : State) (a : Assoc) : (State.sakChange s a).memories = s.memories := by
  unfold State.sakChange
  repeat' first
    | with_reducible rfl
    | (simp only [ite_memories, ite_self, foldl_memories, implies_true, State.bump_memories, State.modLink_memories]; done)
    | (with_reducible refine (foldl_memories _ _ _ (fun t x => ?_)).trans ?_)
    | (with_reducible refine (foldl1_memories _ _ _ (fun t x => ?_)).trans ?_)
    | split
    | (simp only [State.bump_memories, State.modLink_memories])
    | (simp only [])
    | (simp only [memories_mk])
    | (simp only [memories_eta])

theorem execSakChange_memories (port : Assoc) (s : State) (t : State) (ht : execSakChange port s = .next t) : t.memories = s.memories := by
  injection ht with ht
  rw [← ht]
  repeat' first
    | with_reducible rfl
    | (simp only [ite_memories, ite_self, foldl_memories, implies_true, State.sakChange_memories]; done)
    | (with_reducible refine (foldl_memories _ _ _ (fun t x => ?_)).trans ?_)
    | (with_reducible refine (foldl1_memories _ _ _ (fun t x => ?_)).trans ?_)
    | split
    | (simp only [State.sakChange_memories])
    | (simp only [])
    | (simp only [memories_mk])
    | (simp only [memories_eta])

@[simp] theorem State.sakRequest_memories (s : State) (n : Nat) : (State.sakRequest s n).memories = s.memories := by
  unfold State.sakRequest
  simp only [ite_memories, ite_self, State.sendOut_memories]

theorem execSakRequest_memories (port : Nat) (s : State) (t : State) (ht : execSakRequest port s = .next t) : t.memories = s.memories := by
  injection ht with ht
  rw [← ht]
  simp only [State.sakRequest_memories]

@[simp] theorem State.heard_memories (s : State) (n : Nat) (w : Wire) : (State.heard s n w).memories = s.memories := by
  unfold State.heard
  repeat' first
    | with_reducible rfl
    | (simp only [ite_memories, ite_self, foldl_memories, implies_true, State.modLink_memories, State.portFrame_memories]; done)
    | (with_reducible refine (foldl_memories _ _ _ (fun t x => ?_)).trans ?_)
    | (with_reducible refine (foldl1_memories _ _ _ (fun t x => ?_)).trans ?_)
    | split
    | (simp only [State.modLink_memories, State.portFrame_memories])
    | (simp only [])
    | (simp only [memories_mk])
    | (simp only [memories_eta])

@[simp] theorem State.badFcs_memories (s : State) (n : Nat) : (State.badFcs s n).memories = s.memories := by
  unfold State.badFcs
  repeat' first
    | with_reducible rfl
    | (simp only [ite_memories, ite_self, foldl_memories, implies_true, State.bump_memories, State.portFrame_memories, State.sendOut_memories]; done)
    | (with_reducible refine (foldl_memories _ _ _ (fun t x => ?_)).trans ?_)
    | (with_reducible refine (foldl1_memories _ _ _ (fun t x => ?_)).trans ?_)
    | split
    | (simp only [State.bump_memories, State.portFrame_memories, State.sendOut_memories])
    | (simp only [])
    | (simp only [memories_mk])
    | (simp only [memories_eta])

@[simp] theorem State.arrive_memories (s : State) (n : Nat) (w : Wire) (sec : Bool) (k : State → State) (hk : ∀ t, (k t).memories = t.memories) : (State.arrive s n w sec k).memories = s.memories := by
  unfold State.arrive
  repeat' first
    | with_reducible rfl
    | (simp only [ite_memories, ite_self, foldl_memories, implies_true, State.badFcs_memories, State.bump_memories, State.heard_memories, State.portFrame_memories, State.report_memories, State.setBit_memories, hk]; done)
    | (with_reducible refine (foldl_memories _ _ _ (fun t x => ?_)).trans ?_)
    | (with_reducible refine (foldl1_memories _ _ _ (fun t x => ?_)).trans ?_)
    | split
    | (simp only [State.badFcs_memories, State.bump_memories, State.heard_memories, State.portFrame_memories, State.report_memories, State.setBit_memories, hk])
    | (simp only [])
    | (simp only [memories_mk])
    | (simp only [memories_eta])

theorem State.arrive_wf (s : State) (n : Nat) (w : Wire) (sec : Bool) (k : State → State) (hwf : s.memories.wf = true) (hk : ∀ t, t.memories.wf = true → (k t).memories.wf = true) : (State.arrive s n w sec k).memories.wf = true := by
  unfold State.arrive
  repeat' first
    | with_reducible assumption
    | (simp only [hwf, ite_memories, Memories.ite_wf, ite_self, foldl_memories, implies_true, State.badFcs_memories, State.bump_memories, State.heard_memories, State.portFrame_memories, State.report_memories, State.setBit_memories, hk]; done)
    | (with_reducible refine hk _ ?_)
    | (with_reducible refine foldl_wf _ _ _ ?_ (fun t x hwf => ?_))
    | (with_reducible refine foldl1_wf _ _ _ ?_ (fun t x hwf => ?_))
    | split
    | (simp only [State.badFcs_memories, State.bump_memories, State.heard_memories, State.portFrame_memories, State.report_memories, State.setBit_memories])
    | (simp only [])
    | (simp only [memories_mk])
    | (simp only [memories_eta])

@[simp] theorem State.receive_memories (s : State) (n : Nat) (f : Frame) (k : State → State) (hk : ∀ t, (k t).memories = t.memories) : (State.receive s n f k).memories = s.memories := by
  unfold State.receive
  repeat' first
    | with_reducible rfl
    | (simp only [ite_memories, ite_self, foldl_memories, implies_true, State.arrive_memories, hk]; done)
    | (with_reducible refine (foldl_memories _ _ _ (fun t x => ?_)).trans ?_)
    | (with_reducible refine (foldl1_memories _ _ _ (fun t x => ?_)).trans ?_)
    | split
    | (simp only [State.arrive_memories, hk])
    | (simp only [])
    | (simp only [memories_mk])
    | (simp only [memories_eta])

theorem State.receive_wf (s : State) (n : Nat) (f : Frame) (k : State → State) (hwf : s.memories.wf = true) (hk : ∀ t, t.memories.wf = true → (k t).memories.wf = true) : (State.receive s n f k).memories.wf = true := by
  unfold State.receive
  repeat' first
    | with_reducible assumption
    | (simp only [hwf, ite_memories, Memories.ite_wf, ite_self, foldl_memories, implies_true, State.arrive_memories, State.arrive_wf, hk]; done)
    | (with_reducible refine State.arrive_wf _ _ _ _ _ ?_ (fun t hwf => ?_))
    | (with_reducible refine hk _ ?_)
    | (with_reducible refine foldl_wf _ _ _ ?_ (fun t x hwf => ?_))
    | (with_reducible refine foldl1_wf _ _ _ ?_ (fun t x hwf => ?_))
    | split
    | (simp only [State.arrive_memories])
    | (simp only [])
    | (simp only [memories_mk])
    | (simp only [memories_eta])

@[simp] theorem State.refuseAnswer_memories (s : State) (n : Nat) (f : Frame) : (State.refuseAnswer s n f).memories = s.memories := by
  unfold State.refuseAnswer
  repeat' first
    | with_reducible rfl
    | (simp only [ite_memories, ite_self, foldl_memories, implies_true, State.bump_memories, State.report_memories, State.setBit_memories]; done)
    | (with_reducible refine (foldl_memories _ _ _ (fun t x => ?_)).trans ?_)
    | (with_reducible refine (foldl1_memories _ _ _ (fun t x => ?_)).trans ?_)
    | split
    | (simp only [State.bump_memories, State.report_memories, State.setBit_memories])
    | (simp only [])
    | (simp only [memories_mk])
    | (simp only [memories_eta])

@[simp] theorem State.respond_memories (s : State) (n : Nat) (f : Frame) (st : Nat) (payload : List Byte) : (State.respond s n f st payload).memories = s.memories := by
  unfold State.respond
  repeat' first
    | with_reducible rfl
    | (simp only [ite_memories, ite_self, foldl_memories, implies_true, State.sendFrame_memories]; done)
    | (with_reducible refine (foldl_memories _ _ _ (fun t x => ?_)).trans ?_)
    | (with_reducible refine (foldl1_memories _ _ _ (fun t x => ?_)).trans ?_)
    | split
    | (simp only [State.sendFrame_memories])
    | (simp only [])
    | (simp only [memories_mk])
    | (simp only [memories_eta])

@[simp] theorem State.refuse_memories (s : State) (n : Nat) (f : Frame) (st : Nat) (part : Option Nat) : (State.refuse s n f st part).memories = s.memories := by
  unfold State.refuse
  simp only [State.bump_memories, State.report_memories, State.respond_memories, State.setBit_memories]

theorem State.inbound_wf (s : State) (n : Nat) (f : Frame) (k : State → Nat → State) (hwf : s.memories.wf = true) (hk : ∀ t x1, t.memories.wf = true → (k t x1).memories.wf = true) : (State.inbound s n f k).memories.wf = true := by
  unfold State.inbound
  repeat' first
    | with_reducible assumption
    | (simp only [hwf, ite_memories, Memories.ite_wf, ite_self, foldl_memories, implies_true, State.bump_memories, State.fatalVertex_memories, State.markTable_memories, State.receive_memories, State.refuse_memories, State.receive_wf, hk]; done)
    | (with_reducible refine State.receive_wf _ _ _ _ ?_ (fun t hwf => ?_))
    | (with_reducible refine hk _ _ ?_)
    | (with_reducible refine foldl_wf _ _ _ ?_ (fun t x hwf => ?_))
    | (with_reducible refine foldl1_wf _ _ _ ?_ (fun t x hwf => ?_))
    | split
    | (simp only [State.bump_memories, State.fatalVertex_memories, State.markTable_memories, State.receive_memories, State.refuse_memories])
    | (simp only [])
    | (simp only [memories_mk])
    | (simp only [memories_eta])

@[simp] theorem State.outLoud_memories (s : State) (n : Nat) (f : Frame) (p : Nat) (k : State → State) (hk : ∀ t, (k t).memories = t.memories) : (State.outLoud s n f p k).memories = s.memories := by
  unfold State.outLoud
  repeat' first
    | with_reducible rfl
    | (simp only [ite_memories, ite_self, foldl_memories, implies_true, State.refuse_memories, hk]; done)
    | (with_reducible refine (foldl_memories _ _ _ (fun t x => ?_)).trans ?_)
    | (with_reducible refine (foldl1_memories _ _ _ (fun t x => ?_)).trans ?_)
    | split
    | (simp only [State.refuse_memories, hk])
    | (simp only [])
    | (simp only [memories_mk])
    | (simp only [memories_eta])

theorem State.outLoud_wf (s : State) (n : Nat) (f : Frame) (p : Nat) (k : State → State) (hwf : s.memories.wf = true) (hk : ∀ t, t.memories.wf = true → (k t).memories.wf = true) : (State.outLoud s n f p k).memories.wf = true := by
  unfold State.outLoud
  repeat' first
    | with_reducible assumption
    | (simp only [hwf, ite_memories, Memories.ite_wf, ite_self, foldl_memories, implies_true, State.refuse_memories, hk]; done)
    | (with_reducible refine hk _ ?_)
    | (with_reducible refine foldl_wf _ _ _ ?_ (fun t x hwf => ?_))
    | (with_reducible refine foldl1_wf _ _ _ ?_ (fun t x hwf => ?_))
    | split
    | (simp only [State.refuse_memories])
    | (simp only [])
    | (simp only [memories_mk])
    | (simp only [memories_eta])

theorem State.inLoad_wf (s : State) (n : Nat) (f : Frame) (hwf : s.memories.wf = true) : (State.inLoad s n f).memories.wf = true := by
  unfold State.inLoad
  repeat' first
    | with_reducible assumption
    | (simp only [hwf, ite_memories, Memories.ite_wf, ite_self, foldl_memories, implies_true, State.outLoud_memories, State.readRow_memories, State.refuse_memories, State.respond_memories, State.inbound_wf, State.outLoud_wf]; done)
    | (with_reducible refine State.inbound_wf _ _ _ _ ?_ (fun t x1 hwf => ?_))
    | (with_reducible refine State.outLoud_wf _ _ _ _ _ ?_ (fun t hwf => ?_))
    | (with_reducible refine foldl_wf _ _ _ ?_ (fun t x hwf => ?_))
    | (with_reducible refine foldl1_wf _ _ _ ?_ (fun t x hwf => ?_))
    | split
    | (simp only [State.outLoud_memories, State.readRow_memories, State.refuse_memories, State.respond_memories])
    | (simp only [])
    | (simp only [memories_mk])
    | (simp only [memories_eta])

theorem State.inStore_wf (s : State) (n : Nat) (f : Frame) (hwf : s.memories.wf = true) : (State.inStore s n f).memories.wf = true := by
  unfold State.inStore
  repeat' first
    | with_reducible assumption
    | (simp only [hwf, ite_memories, ite_self, State.refuse_memories, State.respond_memories, State.writeRow_wf]; done)
    | (with_reducible refine State.inbound_wf _ _ _ _ ?_ (fun t x0 hwf => ?_))

@[simp] theorem State.tearAt__memories (s : State) (rs : List (Nat × Nat)) (u : Unwaited) : (State.tearAt_ s rs u).memories = s.memories := by
  unfold State.tearAt_
  repeat' first
    | with_reducible rfl
    | (simp only [ite_memories, ite_self, foldl_memories, implies_true, State.modDesc_memories, State.setPourQ_memories]; done)
    | (with_reducible refine (foldl_memories _ _ _ (fun t x => ?_)).trans ?_)
    | (with_reducible refine (foldl1_memories _ _ _ (fun t x => ?_)).trans ?_)
    | split
    | (simp only [State.modDesc_memories, State.setPourQ_memories])
    | (simp only [])
    | (simp only [memories_mk])
    | (simp only [memories_eta])

theorem State.inAtomic_wf (s : State) (n : Nat) (f : Frame) (hwf : s.memories.wf = true) : (State.inAtomic s n f).memories.wf = true := by
  unfold State.inAtomic
  repeat' first
    | with_reducible assumption
    | (simp only [hwf, ite_memories, Memories.ite_wf, ite_self, foldl_memories, implies_true, State.fresh_memories, State.outLoud_memories, State.readRow_memories, State.refuse_memories, State.respond_memories, State.tearAt__memories, State.inbound_wf, State.outLoud_wf, State.writeRow_wf]; done)
    | (with_reducible refine State.inbound_wf _ _ _ _ ?_ (fun t x1 hwf => ?_))
    | (with_reducible refine State.outLoud_wf _ _ _ _ _ ?_ (fun t hwf => ?_))
    | (with_reducible refine State.writeRow_wf _ _ _ _ ?_)
    | (with_reducible refine foldl_wf _ _ _ ?_ (fun t x hwf => ?_))
    | (with_reducible refine foldl1_wf _ _ _ ?_ (fun t x hwf => ?_))
    | split
    | (simp only [State.fresh_memories, State.outLoud_memories, State.readRow_memories, State.refuse_memories, State.respond_memories, State.tearAt__memories])
    | (simp only [])
    | (simp only [memories_mk])
    | (simp only [memories_eta])

@[simp] theorem State.onOp_memories (s : State) (f : Frame) (op : Nat) (k : State → State) (hk : ∀ t , (k t ).memories = t.memories) : (State.onOp s f op k).memories = s.memories := by
  unfold State.onOp
  simp only [ite_memories, ite_self, hk]

theorem State.onOp_wf (s : State) (f : Frame) (op : Nat) (k : State → State) (hwf : s.memories.wf = true) (hk : ∀ t , t.memories.wf = true → (k t ).memories.wf = true) : (State.onOp s f op k).memories.wf = true := by
  unfold State.onOp
  simp only [hwf, ite_memories, Memories.ite_wf, ite_self, hk]

@[simp] theorem State.onAop_memories (s : State) (f : Frame) (a : Nat) (k : State → State) (hk : ∀ t , (k t ).memories = t.memories) : (State.onAop s f a k).memories = s.memories := by
  unfold State.onAop
  simp only [ite_memories, ite_self, hk]

theorem State.onAop_wf (s : State) (f : Frame) (a : Nat) (k : State → State) (hwf : s.memories.wf = true) (hk : ∀ t , t.memories.wf = true → (k t ).memories.wf = true) : (State.onAop s f a k).memories.wf = true := by
  unfold State.onAop
  simp only [hwf, ite_memories, Memories.ite_wf, ite_self, hk]

theorem execLoad_wf (port : Nat) (fr : Frame) (s : State) (t : State) (ht : execLoad port fr s = .next t) (hwf : s.memories.wf = true) : t.memories.wf = true := by
  injection ht with ht
  rw [← ht]
  repeat' first
    | with_reducible assumption
    | (simp only [hwf, ite_memories, Memories.ite_wf, ite_self, foldl_memories, implies_true, State.inLoad_wf]; done)
    | (with_reducible refine State.inLoad_wf _ _ _ ?_)
    | (with_reducible refine foldl_wf _ _ _ ?_ (fun t x hwf => ?_))
    | (with_reducible refine foldl1_wf _ _ _ ?_ (fun t x hwf => ?_))
    | split
    | (simp only [])
    | (simp only [memories_mk])
    | (simp only [memories_eta])

theorem execStore_wf (port : Nat) (fr : Frame) (s : State) (t : State) (ht : execStore port fr s = .next t) (hwf : s.memories.wf = true) : t.memories.wf = true := by
  injection ht with ht
  rw [← ht]
  repeat' first
    | with_reducible assumption
    | (simp only [hwf, State.inStore_wf]; done)
    | (with_reducible refine State.onOp_wf _ _ _ _ ?_ (fun t  hwf => ?_))

theorem execAtomicAdd_wf (port : Nat) (fr : Frame) (s : State) (t : State) (ht : execAtomicAdd port fr s = .next t) (hwf : s.memories.wf = true) : t.memories.wf = true := by
  injection ht with ht
  rw [← ht]
  repeat' first
    | with_reducible assumption
    | (simp only [hwf, ite_memories, Memories.ite_wf, ite_self, State.inAtomic_wf]; done)
    | (with_reducible refine State.onOp_wf _ _ _ _ ?_ (fun t  hwf => ?_))

theorem execAtomicAnd_wf (port : Nat) (fr : Frame) (s : State) (t : State) (ht : execAtomicAnd port fr s = .next t) (hwf : s.memories.wf = true) : t.memories.wf = true := by
  injection ht with ht
  rw [← ht]
  repeat' first
    | with_reducible assumption
    | (simp only [hwf, State.inAtomic_wf]; done)
    | (with_reducible refine State.onAop_wf _ _ _ _ ?_ (fun t  hwf => ?_))

theorem execAtomicOr_wf (port : Nat) (fr : Frame) (s : State) (t : State) (ht : execAtomicOr port fr s = .next t) (hwf : s.memories.wf = true) : t.memories.wf = true := by
  injection ht with ht
  rw [← ht]
  repeat' first
    | with_reducible assumption
    | (simp only [hwf, State.inAtomic_wf]; done)
    | (with_reducible refine State.onAop_wf _ _ _ _ ?_ (fun t  hwf => ?_))

theorem execAtomicXor_wf (port : Nat) (fr : Frame) (s : State) (t : State) (ht : execAtomicXor port fr s = .next t) (hwf : s.memories.wf = true) : t.memories.wf = true := by
  injection ht with ht
  rw [← ht]
  repeat' first
    | with_reducible assumption
    | (simp only [hwf, State.inAtomic_wf]; done)
    | (with_reducible refine State.onAop_wf _ _ _ _ ?_ (fun t  hwf => ?_))

theorem execAtomicSmax_wf (port : Nat) (fr : Frame) (s : State) (t : State) (ht : execAtomicSmax port fr s = .next t) (hwf : s.memories.wf = true) : t.memories.wf = true := by
  injection ht with ht
  rw [← ht]
  repeat' first
    | with_reducible assumption
    | (simp only [hwf, State.inAtomic_wf]; done)
    | (with_reducible refine State.onAop_wf _ _ _ _ ?_ (fun t  hwf => ?_))

theorem execAtomicSmin_wf (port : Nat) (fr : Frame) (s : State) (t : State) (ht : execAtomicSmin port fr s = .next t) (hwf : s.memories.wf = true) : t.memories.wf = true := by
  injection ht with ht
  rw [← ht]
  repeat' first
    | with_reducible assumption
    | (simp only [hwf, State.inAtomic_wf]; done)
    | (with_reducible refine State.onAop_wf _ _ _ _ ?_ (fun t  hwf => ?_))

theorem execAtomicUmax_wf (port : Nat) (fr : Frame) (s : State) (t : State) (ht : execAtomicUmax port fr s = .next t) (hwf : s.memories.wf = true) : t.memories.wf = true := by
  injection ht with ht
  rw [← ht]
  repeat' first
    | with_reducible assumption
    | (simp only [hwf, State.inAtomic_wf]; done)
    | (with_reducible refine State.onAop_wf _ _ _ _ ?_ (fun t  hwf => ?_))

theorem execAtomicUmin_wf (port : Nat) (fr : Frame) (s : State) (t : State) (ht : execAtomicUmin port fr s = .next t) (hwf : s.memories.wf = true) : t.memories.wf = true := by
  injection ht with ht
  rw [← ht]
  repeat' first
    | with_reducible assumption
    | (simp only [hwf, State.inAtomic_wf]; done)
    | (with_reducible refine State.onAop_wf _ _ _ _ ?_ (fun t  hwf => ?_))

theorem execAtomicSwap_wf (port : Nat) (fr : Frame) (s : State) (t : State) (ht : execAtomicSwap port fr s = .next t) (hwf : s.memories.wf = true) : t.memories.wf = true := by
  injection ht with ht
  rw [← ht]
  repeat' first
    | with_reducible assumption
    | (simp only [hwf, State.inAtomic_wf]; done)
    | (with_reducible refine State.onAop_wf _ _ _ _ ?_ (fun t  hwf => ?_))

theorem execAtomicCas_wf (port : Nat) (fr : Frame) (s : State) (t : State) (ht : execAtomicCas port fr s = .next t) (hwf : s.memories.wf = true) : t.memories.wf = true := by
  injection ht with ht
  rw [← ht]
  repeat' first
    | with_reducible assumption
    | (simp only [hwf, State.inAtomic_wf]; done)
    | (with_reducible refine State.onAop_wf _ _ _ _ ?_ (fun t  hwf => ?_))

theorem execCload_wf (port : Nat) (fr : Frame) (s : State) (t : State) (ht : execCload port fr s = .next t) (hwf : s.memories.wf = true) : t.memories.wf = true := by
  injection ht with ht
  rw [← ht]
  repeat' first
    | with_reducible assumption
    | (simp only [hwf, ite_memories, Memories.ite_wf, ite_self, foldl_memories, implies_true, State.onOp_memories, State.inLoad_wf, State.onOp_wf]; done)
    | (with_reducible refine State.inLoad_wf _ _ _ ?_)
    | (with_reducible refine State.onOp_wf _ _ _ _ ?_ (fun t hwf => ?_))
    | (with_reducible refine foldl_wf _ _ _ ?_ (fun t x hwf => ?_))
    | (with_reducible refine foldl1_wf _ _ _ ?_ (fun t x hwf => ?_))
    | split
    | (simp only [State.onOp_memories])
    | (simp only [])
    | (simp only [memories_mk])
    | (simp only [memories_eta])

theorem execCstore_wf (port : Nat) (fr : Frame) (s : State) (t : State) (ht : execCstore port fr s = .next t) (hwf : s.memories.wf = true) : t.memories.wf = true := by
  injection ht with ht
  rw [← ht]
  repeat' first
    | with_reducible assumption
    | (simp only [hwf, State.inStore_wf]; done)
    | (with_reducible refine State.onOp_wf _ _ _ _ ?_ (fun t  hwf => ?_))

theorem State.resp_wf (s : State) (n : Nat) (f : Frame) (hwf : s.memories.wf = true) : (State.resp s n f).memories.wf = true := by
  unfold State.resp
  repeat' first
    | with_reducible assumption
    | (simp only [hwf, ite_memories, Memories.ite_wf, ite_self, foldl_memories, implies_true, State.bump_memories, State.completeOp_memories, State.receive_memories, State.refuseAnswer_memories, State.receive_wf]; done)
    | (with_reducible refine State.receive_wf _ _ _ _ ?_ (fun t hwf => ?_))
    | (with_reducible refine foldl_wf _ _ _ ?_ (fun t x hwf => ?_))
    | (with_reducible refine foldl1_wf _ _ _ ?_ (fun t x hwf => ?_))
    | split
    | (simp only [State.bump_memories, State.completeOp_memories, State.receive_memories, State.refuseAnswer_memories])
    | (simp only [])
    | (simp only [memories_mk])
    | (simp only [memories_eta])

theorem execResp_wf (port : Nat) (fr : Frame) (s : State) (t : State) (ht : execResp port fr s = .next t) (hwf : s.memories.wf = true) : t.memories.wf = true := by
  injection ht with ht
  rw [← ht]
  repeat' first
    | with_reducible assumption
    | (simp only [hwf, ite_memories, Memories.ite_wf, ite_self, foldl_memories, implies_true, State.onOp_memories, State.onOp_wf, State.resp_wf]; done)
    | (with_reducible refine State.onOp_wf _ _ _ _ ?_ (fun t hwf => ?_))
    | (with_reducible refine State.resp_wf _ _ _ ?_)
    | (with_reducible refine foldl_wf _ _ _ ?_ (fun t x hwf => ?_))
    | (with_reducible refine foldl1_wf _ _ _ ?_ (fun t x hwf => ?_))
    | split
    | (simp only [State.onOp_memories])
    | (simp only [])
    | (simp only [memories_mk])
    | (simp only [memories_eta])

@[simp] theorem State.requestTimeout_memories (s : State) (uid : Nat) : (State.requestTimeout s uid).memories = s.memories := by
  unfold State.requestTimeout
  repeat' first
    | with_reducible rfl
    | (simp only [ite_memories, ite_self, foldl_memories, implies_true, State.bump_memories, State.completeOp_memories, State.until_memories]; done)
    | (with_reducible refine (foldl_memories _ _ _ (fun t x => ?_)).trans ?_)
    | (with_reducible refine (foldl1_memories _ _ _ (fun t x => ?_)).trans ?_)
    | split
    | (simp only [State.bump_memories, State.completeOp_memories, State.until_memories])
    | (simp only [])
    | (simp only [memories_mk])
    | (simp only [memories_eta])

theorem execRequestTimeout_memories (op : Nat) (s : State) (t : State) (ht : execRequestTimeout op s = .next t) : t.memories = s.memories := by
  injection ht with ht
  rw [← ht]
  simp only [State.requestTimeout_memories]

@[simp] theorem State.epochReissue_memories (s : State) (uid : Nat) : (State.epochReissue s uid).memories = s.memories := by
  unfold State.epochReissue
  repeat' first
    | with_reducible rfl
    | (simp only [ite_memories, ite_self, State.completeOp_memories, State.sendOp_memories]; done)
    | split

theorem execEpochReissue_memories (op : Nat) (s : State) (t : State) (ht : execEpochReissue op s = .next t) : t.memories = s.memories := by
  injection ht with ht
  rw [← ht]
  simp only [State.epochReissue_memories]

theorem execRouteSetChange_memories (entry : Nat) (s : State) (t : State) (ht : execRouteSetChange entry s = .next t) : t.memories = s.memories := by
  injection ht with ht
  rw [← ht]
  simp only [ite_memories, ite_self, State.applyRoute_memories]

theorem execOutstandingLimitRelease_memories (s : State) (t : State) (ht : execOutstandingLimitRelease s = .next t) : t.memories = s.memories := by
  injection ht with ht
  rw [← ht]
  simp only [State.pump_memories]

@[simp] theorem State.putEntData_memories (s : State) (e : Ent) : (State.putEntData s e).memories = s.memories := by
  unfold State.putEntData
  simp only [foldl_memories, implies_true, State.wr_memories]

@[simp] theorem State.entCmd_memories (s : State) (r : Requester) (code : Nat) (k : State → State × Nat) (hk : ∀ t , (k t ).1.memories = t.memories) : (State.entCmd s r code k).memories = s.memories := by
  unfold State.entCmd
  simp only [implies_true, State.cmdCode_memories, State.gate_memories, hk]

theorem State.entCmd_wf (s : State) (r : Requester) (code : Nat) (k : State → State × Nat) (hwf : s.memories.wf = true) (hk : ∀ t , t.memories.wf = true → (k t ).1.memories.wf = true) : (State.entCmd s r code k).memories.wf = true := by
  unfold State.entCmd
  repeat' first
    | with_reducible assumption
    | (simp only [hwf, State.cmdCode_memories, hk]; done)
    | (with_reducible refine State.gate_wf _ _ _ _ _ ?_ (fun t  hwf => ?_))

theorem execWriteRegion_memories (r : Requester) (idx : Nat) (s : State) (t : State) (ht : execWriteRegion r idx s = .next t) : t.memories = s.memories := by
  injection ht with ht
  rw [← ht]
  simp only [ite_memories, ite_self, implies_true, State.entCmd_memories, State.setEnt_memories]

theorem execReadRegion_memories (r : Requester) (idx : Nat) (s : State) (t : State) (ht : execReadRegion r idx s = .next t) : t.memories = s.memories := by
  injection ht with ht
  rw [← ht]
  repeat' first
    | with_reducible rfl
    | (simp only [State.putEntData_memories]; done)
    | (with_reducible refine (State.entCmd_memories _ _ _ _ (fun t  => ?_)).trans ?_)
    | split

theorem execWriteGrant_memories (r : Requester) (idx : Nat) (s : State) (t : State) (ht : execWriteGrant r idx s = .next t) : t.memories = s.memories := by
  injection ht with ht
  rw [← ht]
  simp only [ite_memories, ite_self, implies_true, State.entCmd_memories, State.setEnt_memories]

theorem execReadGrant_memories (r : Requester) (idx : Nat) (s : State) (t : State) (ht : execReadGrant r idx s = .next t) : t.memories = s.memories := by
  injection ht with ht
  rw [← ht]
  repeat' first
    | with_reducible rfl
    | (simp only [State.putEntData_memories]; done)
    | (with_reducible refine (State.entCmd_memories _ _ _ _ (fun t  => ?_)).trans ?_)
    | split

theorem execWriteGroup_memories (r : Requester) (idx : Nat) (s : State) (t : State) (ht : execWriteGroup r idx s = .next t) : t.memories = s.memories := by
  injection ht with ht
  rw [← ht]
  simp only [ite_memories, ite_self, implies_true, State.entCmd_memories, State.setEnt_memories]

theorem execReadGroup_memories (r : Requester) (idx : Nat) (s : State) (t : State) (ht : execReadGroup r idx s = .next t) : t.memories = s.memories := by
  injection ht with ht
  rw [← ht]
  repeat' first
    | with_reducible rfl
    | (simp only [State.putEntData_memories]; done)
    | (with_reducible refine (State.entCmd_memories _ _ _ _ (fun t  => ?_)).trans ?_)
    | split

/-! ### Copy -/

@[simp] theorem State.showCopies_memories (s : State) (p : Nat) : (State.showCopies s p).memories = s.memories := by
  unfold State.showCopies
  simp only [State.sf_memories]

@[simp] theorem State.copyInc_memories (s : State) (p : Nat) (d : RingDesc) (err : Bool) : (State.copyInc s p d err).memories = s.memories := by
  unfold State.copyInc
  repeat' first
    | with_reducible rfl
    | (simp only [ite_memories, ite_self, foldl_memories, implies_true, State.modPrt_memories, State.noteDelay_memories, State.sbInc_memories]; done)
    | (with_reducible refine (foldl_memories _ _ _ (fun t x => ?_)).trans ?_)
    | (with_reducible refine (foldl1_memories _ _ _ (fun t x => ?_)).trans ?_)
    | split
    | (simp only [State.modPrt_memories, State.noteDelay_memories, State.sbInc_memories])
    | (simp only [])
    | (simp only [memories_mk])
    | (simp only [memories_eta])

@[simp] theorem State.copyHold_memories (s : State) (p : Nat) (d : RingDesc) : (State.copyHold s p d).memories = s.memories := by
  unfold State.copyHold
  simp only [foldl_memories, implies_true, State.addHolds_memories]

@[simp] theorem State.copyTake_memories (s : State) (p : Nat) (d : RingDesc) (c : Nat × Nat) : (State.copyTake s p d c).1.memories = s.memories := by
  unfold State.copyTake
  repeat' first
    | with_reducible rfl
    | (simp only [ite_memories, ite_self, foldl_memories, implies_true, State.readRow_memories, State.unsettled_memories]; done)
    | (with_reducible refine (foldl_memories _ _ _ (fun t x => ?_)).trans ?_)
    | (with_reducible refine (foldl1_memories _ _ _ (fun t x => ?_)).trans ?_)
    | split
    | (simp only [State.readRow_memories, State.unsettled_memories])
    | (simp only [])
    | (simp only [memories_mk])
    | (simp only [memories_eta])

@[simp] theorem State.copyRead_memories (s : State) (p : Nat) (d : RingDesc) (cs : List (Nat × Nat)) : (State.copyRead s p d cs).1.memories = s.memories := by
  unfold State.copyRead
  repeat' first
    | with_reducible rfl
    | (simp only [ite_memories, ite_self, foldl_memories, implies_true, State.copyTake_memories]; done)
    | (with_reducible refine (foldl_memories _ _ _ (fun t x => ?_)).trans ?_)
    | (with_reducible refine (foldl1_memories _ _ _ (fun t x => ?_)).trans ?_)
    | split
    | (simp only [State.copyTake_memories])
    | (simp only [])
    | (simp only [memories_mk])
    | (simp only [memories_eta])

@[simp] theorem State.copySettle_memories (s : State) (p : Nat) : (State.copySettle s p).memories = s.memories := by
  unfold State.copySettle
  repeat' first
    | with_reducible rfl
    | (simp only [ite_memories, ite_self, foldl_memories, implies_true, State.setPast_memories, State.sf_memories, State.showCopies_memories]; done)
    | (with_reducible refine (foldl_memories _ _ _ (fun t x => ?_)).trans ?_)
    | (with_reducible refine (foldl1_memories _ _ _ (fun t x => ?_)).trans ?_)
    | split
    | (simp only [State.setPast_memories, State.sf_memories, State.showCopies_memories])
    | (simp only [])
    | (simp only [memories_mk])
    | (simp only [memories_eta])

@[simp] theorem State.copyEnd_memories (s : State) (p : Nat) (d : RingDesc) (err : Bool) : (State.copyEnd s p d err).memories = s.memories := by
  unfold State.copyEnd
  repeat' first
    | with_reducible rfl
    | (simp only [ite_memories, ite_self, foldl_memories, implies_true, State.arrivedAll_memories, State.copyInc_memories, State.copySettle_memories, State.dropXfer_memories, State.setPast_memories, State.setTaken_memories]; done)
    | (with_reducible refine (foldl_memories _ _ _ (fun t x => ?_)).trans ?_)
    | (with_reducible refine (foldl1_memories _ _ _ (fun t x => ?_)).trans ?_)
    | split
    | (simp only [State.arrivedAll_memories, State.copyInc_memories, State.copySettle_memories, State.dropXfer_memories, State.setPast_memories, State.setTaken_memories])
    | (simp only [])
    | (simp only [memories_mk])
    | (simp only [memories_eta])

@[simp] theorem State.copyLoud_memories (s : State) (p : Nat) (d : RingDesc) : (State.copyLoud s p d).memories = s.memories := by
  unfold State.copyLoud
  repeat' first
    | with_reducible rfl
    | (simp only [ite_memories, ite_self, foldl_memories, implies_true, State.copyEnd_memories, State.report_memories, State.setBit_memories]; done)
    | (with_reducible refine (foldl_memories _ _ _ (fun t x => ?_)).trans ?_)
    | (with_reducible refine (foldl1_memories _ _ _ (fun t x => ?_)).trans ?_)
    | split
    | (simp only [State.copyEnd_memories, State.report_memories, State.setBit_memories])
    | (simp only [])
    | (simp only [memories_mk])
    | (simp only [memories_eta])

@[simp] theorem State.copyLaunch_memories (s : State) (p : Nat) (d : RingDesc) : (State.copyLaunch s p d).memories = s.memories := by
  unfold State.copyLaunch
  repeat' first
    | with_reducible rfl
    | (simp only [ite_memories, ite_self, foldl_memories, implies_true, State.copyLoud_memories, State.copyRead_memories, State.launch_memories, State.modXfer_memories, State.secondHalf_memories]; done)
    | (with_reducible refine (foldl_memories _ _ _ (fun t x => ?_)).trans ?_)
    | (with_reducible refine (foldl1_memories _ _ _ (fun t x => ?_)).trans ?_)
    | split
    | (simp only [State.copyLoud_memories, State.copyRead_memories, State.launch_memories, State.modXfer_memories, State.secondHalf_memories])
    | (simp only [])
    | (simp only [memories_mk])
    | (simp only [memories_eta])

@[simp] theorem State.copyFail_memories (s : State) (p : Nat) (d : RingDesc) : (State.copyFail s p d).memories = s.memories := by
  unfold State.copyFail
  repeat' first
    | with_reducible rfl
    | (simp only [ite_memories, ite_self, foldl_memories, implies_true, State.copyInc_memories, State.report_memories, State.setBit_memories, State.setTaken_memories]; done)
    | (with_reducible refine (foldl_memories _ _ _ (fun t x => ?_)).trans ?_)
    | (with_reducible refine (foldl1_memories _ _ _ (fun t x => ?_)).trans ?_)
    | split
    | (simp only [State.copyInc_memories, State.report_memories, State.setBit_memories, State.setTaken_memories])
    | (simp only [])
    | (simp only [memories_mk])
    | (simp only [memories_eta])

@[simp] theorem State.copyStart_memories (s : State) (p : Nat) (is : RingDesc → Bool) : (State.copyStart s p is).memories = s.memories := by
  unfold State.copyStart
  repeat' first
    | with_reducible rfl
    | (simp only [ite_memories, ite_self, foldl_memories, implies_true, State.copyFail_memories, State.copyHold_memories, State.copyLaunch_memories, State.expect_memories, State.markTable_memories, State.modDesc_memories, State.setEnt_memories, State.setPast_memories, State.showCopies_memories]; done)
    | (with_reducible refine (foldl_memories _ _ _ (fun t x => ?_)).trans ?_)
    | (with_reducible refine (foldl1_memories _ _ _ (fun t x => ?_)).trans ?_)
    | split
    | (simp only [State.copyFail_memories, State.copyHold_memories, State.copyLaunch_memories, State.expect_memories, State.markTable_memories, State.modDesc_memories, State.setEnt_memories, State.setPast_memories, State.showCopies_memories])
    | (simp only [])
    | (simp only [memories_mk])
    | (simp only [memories_eta])

@[simp] theorem State.copyNop_memories (s : State) (p : Nat) : (State.copyNop s p).memories = s.memories := by
  unfold State.copyNop
  repeat' first
    | with_reducible rfl
    | (simp only [ite_memories, ite_self, State.copyFail_memories, State.setTaken_memories]; done)
    | split

theorem execCopyNop_memories (p : Nat) (s : State) (t : State) (ht : execCopyNop p s = .next t) : t.memories = s.memories := by
  injection ht with ht
  rw [← ht]
  simp only [State.copyNop_memories]

theorem execCopy_memories (p : Nat) (s : State) (t : State) (ht : execCopy p s = .next t) : t.memories = s.memories := by
  injection ht with ht
  rw [← ht]
  simp only [State.copyStart_memories]

theorem execReduce_memories (p : Nat) (s : State) (t : State) (ht : execReduce p s = .next t) : t.memories = s.memories := by
  injection ht with ht
  rw [← ht]
  simp only [State.copyStart_memories]

theorem State.copyChunk_wf (s : State) (p : Nat) (d : RingDesc) (c : Nat × Nat) (hwf : s.memories.wf = true) : (State.copyChunk s p d c).1.memories.wf = true := by
  unfold State.copyChunk
  repeat' first
    | with_reducible assumption
    | (simp only [hwf, ite_memories, Memories.ite_wf, ite_self, foldl_memories, implies_true, State.copyTake_memories, State.fresh_memories, State.writeRow_wf]; done)
    | (with_reducible refine State.writeRow_wf _ _ _ _ ?_)
    | (with_reducible refine foldl_wf _ _ _ ?_ (fun t x hwf => ?_))
    | (with_reducible refine foldl1_wf _ _ _ ?_ (fun t x hwf => ?_))
    | split
    | (simp only [State.copyTake_memories, State.fresh_memories])
    | (simp only [])
    | (simp only [memories_mk])
    | (simp only [memories_eta])

theorem State.copyComplete_wf (s : State) (p idx : Nat) (hwf : s.memories.wf = true) : (State.copyComplete s p idx).memories.wf = true := by
  unfold State.copyComplete
  repeat' first
    | with_reducible assumption
    | (simp only [hwf, ite_memories, Memories.ite_wf, ite_self, State.copyChunk_wf, State.copyEnd_memories, State.copyHold_memories, State.freeRanges_wf]; done)
    | (with_reducible refine State.freeRanges_wf _ _ ?_)
    | (with_reducible refine foldl1_wf _ _ _ ?_ (fun t x hwf => ?_))
    | split
    | (simp only [hwf, ite_memories, Memories.ite_wf, State.copyEnd_memories, State.copyHold_memories])

theorem execCopyComplete_wf (p idx : Nat) (s : State) (t : State) (ht : execCopyComplete p idx s = .next t) (hwf : s.memories.wf = true) : t.memories.wf = true := by
  injection ht with ht
  rw [← ht]
  simp only [hwf, State.copyComplete_wf]

@[simp] theorem State.reduceSettle_memories (s : State) (p uid : Nat) : (State.reduceSettle s p uid).memories = s.memories := by
  unfold State.reduceSettle
  repeat' first
    | with_reducible rfl
    | (simp only [ite_memories, ite_self, State.copyEnd_memories]; done)
    | split

@[simp] theorem State.chunkFail_memories (s : State) (o : FabOp) : (State.chunkFail s o).memories = s.memories := by
  unfold State.chunkFail
  simp only [State.bump_memories, State.completeOp_memories]

theorem State.rdres_wf (s : State) (n : Nat) (f : Frame) (hwf : s.memories.wf = true) : (State.rdres s n f).memories.wf = true := by
  unfold State.rdres
  repeat' first
    | with_reducible assumption
    | (simp only [hwf, ite_memories, Memories.ite_wf, ite_self, foldl_memories, implies_true, State.bump_memories, State.chunkFail_memories, State.completeOp_memories, State.modDesc_memories, State.receive_memories, State.reduceSettle_memories, State.refuseAnswer_memories, State.receive_wf, State.writeRow_wf]; done)
    | (with_reducible refine State.receive_wf _ _ _ _ ?_ (fun t hwf => ?_))
    | (with_reducible refine State.writeRow_wf _ _ _ _ ?_)
    | (with_reducible refine foldl_wf _ _ _ ?_ (fun t x hwf => ?_))
    | (with_reducible refine foldl1_wf _ _ _ ?_ (fun t x hwf => ?_))
    | split
    | (simp only [State.bump_memories, State.chunkFail_memories, State.completeOp_memories, State.modDesc_memories, State.receive_memories, State.reduceSettle_memories, State.refuseAnswer_memories])
    | (simp only [])
    | (simp only [memories_mk])
    | (simp only [memories_eta])

theorem execRdres_wf (port : Nat) (fr : Frame) (s : State) (t : State) (ht : execRdres port fr s = .next t) (hwf : s.memories.wf = true) : t.memories.wf = true := by
  injection ht with ht
  rw [← ht]
  repeat' first
    | with_reducible assumption
    | (simp only [hwf, State.rdres_wf]; done)
    | (with_reducible refine State.onOp_wf _ _ _ _ ?_ (fun t  hwf => ?_))

@[simp] theorem State.reductionTimeout_memories (s : State) (p idx chunk : Nat) : (State.reductionTimeout s p idx chunk).memories = s.memories := by
  unfold State.reductionTimeout
  repeat' first
    | with_reducible rfl
    | (simp only [ite_memories, ite_self, foldl_memories, implies_true, State.chunkFail_memories, State.reduceSettle_memories, State.until_memories]; done)
    | (with_reducible refine (foldl_memories _ _ _ (fun t x => ?_)).trans ?_)
    | (with_reducible refine (foldl1_memories _ _ _ (fun t x => ?_)).trans ?_)
    | split
    | (simp only [State.chunkFail_memories, State.reduceSettle_memories, State.until_memories])
    | (simp only [])
    | (simp only [memories_mk])
    | (simp only [memories_eta])

theorem execReductionTimeout_memories (p idx chunk : Nat) (s : State) (t : State) (ht : execReductionTimeout p idx chunk s = .next t) : t.memories = s.memories := by
  injection ht with ht
  rw [← ht]
  simp only [State.reductionTimeout_memories]

@[simp] theorem State.portDown_memories (s : State) (n : Nat) : (State.portDown s n).memories = s.memories := by
  unfold State.portDown
  repeat' first
    | with_reducible rfl
    | (simp only [ite_memories, ite_self, foldl_memories, implies_true, State.bump_memories, State.completeOp_memories, State.portStart_memories, State.reduceSettle_memories, State.report_memories]; done)
    | (with_reducible refine (foldl_memories _ _ _ (fun t x => ?_)).trans ?_)
    | (with_reducible refine (foldl1_memories _ _ _ (fun t x => ?_)).trans ?_)
    | split
    | (simp only [State.bump_memories, State.completeOp_memories, State.portStart_memories, State.reduceSettle_memories, State.report_memories])
    | (simp only [])
    | (simp only [memories_mk])
    | (simp only [memories_eta])

@[simp] theorem State.linkDown_memories (s : State) (n : Nat) : (State.linkDown s n).memories = s.memories := by
  unfold State.linkDown
  simp only [ite_memories, ite_self, State.portDown_memories]

theorem execLinkDown_memories (port : Nat) (s : State) (t : State) (ht : execLinkDown port s = .next t) : t.memories = s.memories := by
  injection ht with ht
  rw [← ht]
  simp only [State.linkDown_memories]

@[simp] theorem State.linkFault_memories (s : State) (n : Nat) : (State.linkFault s n).memories = s.memories := by
  unfold State.linkFault
  simp only [ite_memories, ite_self, State.portDown_memories]

theorem execLinkFault_memories (port : Nat) (s : State) (t : State) (ht : execLinkFault port s = .next t) : t.memories = s.memories := by
  injection ht with ht
  rw [← ht]
  simp only [State.linkFault_memories]

@[simp] theorem State.portDownWrite_memories (s : State) (r : Requester) (n be : Nat) (val : Word) : (State.portDownWrite s r n be val).memories = s.memories := by
  unfold State.portDownWrite
  simp only [ite_memories, ite_self, implies_true, State.gate_memories, State.portDown_memories, State.portStart_memories]

theorem execPortDownWrite_memories (r : Requester) (port be : Nat) (val : Word) (s : State) (t : State) (ht : execPortDownWrite r port be val s = .next t) : t.memories = s.memories := by
  injection ht with ht
  rw [← ht]
  simp only [ite_memories, ite_self, State.portDownWrite_memories]

@[simp] theorem State.copyReturn_memories (s : State) (p : Nat) : (State.copyReturn s p).memories = s.memories := by
  unfold State.copyReturn
  repeat' first
    | with_reducible rfl
    | (simp only [State.setTaken_memories, State.sf_memories]; done)
    | split

theorem State.copyAbort1_wf (s : State) (p : Nat) (d : RingDesc) (hwf : s.memories.wf = true) : (State.copyAbort1 s p d).memories.wf = true := by
  unfold State.copyAbort1
  repeat' first
    | with_reducible assumption
    | (simp only [hwf, ite_memories, Memories.ite_wf, ite_self, foldl_memories, implies_true, State.copyEnd_memories, State.fresh_memories, State.modDesc_memories, State.copyChunk_wf]; done)
    | (with_reducible refine State.copyChunk_wf _ _ _ _ ?_)
    | (with_reducible refine foldl_wf _ _ _ ?_ (fun t x hwf => ?_))
    | (with_reducible refine foldl1_wf _ _ _ ?_ (fun t x hwf => ?_))
    | split
    | (simp only [State.copyEnd_memories, State.fresh_memories, State.modDesc_memories])
    | (simp only [])
    | (simp only [memories_mk])
    | (simp only [memories_eta])

theorem State.copyHalt_wf (s : State) (p : Nat) (abort : Bool) (hwf : s.memories.wf = true) : (State.copyHalt s p abort).memories.wf = true := by
  unfold State.copyHalt
  repeat' first
    | (simp only [hwf, ite_memories, Memories.ite_wf, ite_self, State.copyAbort1_wf, State.copyReturn_memories, State.copySettle_memories, State.sf_memories]; done)
    | (with_reducible refine foldl_wf _ _ _ ?_ (fun t x hwf => ?_))
    | split
    | (simp only [State.copySettle_memories])

@[simp] theorem State.cqCmd_memories (s : State) (r : Requester) (p code : Nat) (k : State → State × Nat) (hk : ∀ t , (k t ).1.memories = t.memories) : (State.cqCmd s r p code k).memories = s.memories := by
  unfold State.cqCmd
  simp only [implies_true, State.cmdDone_memories, State.gate_memories, hk]

theorem State.cqCmd_wf (s : State) (r : Requester) (p code : Nat) (k : State → State × Nat) (hwf : s.memories.wf = true) (hk : ∀ t , t.memories.wf = true → (k t ).1.memories.wf = true) : (State.cqCmd s r p code k).memories.wf = true := by
  unfold State.cqCmd
  repeat' first
    | with_reducible assumption
    | (simp only [hwf, State.cmdDone_memories, hk]; done)
    | (with_reducible refine State.gate_wf _ _ _ _ _ ?_ (fun t  hwf => ?_))

theorem execCqStart_memories (r : Requester) (p : Nat) (s : State) (t : State) (ht : execCqStart r p s = .next t) : t.memories = s.memories := by
  injection ht with ht
  rw [← ht]
  repeat' first
    | with_reducible rfl
    | (simp only [State.sf_memories]; done)
    | (with_reducible refine (State.cqCmd_memories _ _ _ _ _ (fun t  => ?_)).trans ?_)
    | split

theorem execCqStop_wf (r : Requester) (p : Nat) (s : State) (t : State) (ht : execCqStop r p s = .next t) (hwf : s.memories.wf = true) : t.memories.wf = true := by
  injection ht with ht
  rw [← ht]
  repeat' first
    | with_reducible assumption
    | (simp only [hwf, State.copyHalt_wf]; done)
    | (with_reducible refine State.cqCmd_wf _ _ _ _ _ ?_ (fun t  hwf => ?_))

theorem execCqAbort_wf (r : Requester) (p : Nat) (s : State) (t : State) (ht : execCqAbort r p s = .next t) (hwf : s.memories.wf = true) : t.memories.wf = true := by
  injection ht with ht
  rw [← ht]
  repeat' first
    | with_reducible assumption
    | (simp only [hwf, State.copyHalt_wf]; done)
    | (with_reducible refine State.cqCmd_wf _ _ _ _ _ ?_ (fun t  hwf => ?_))

@[simp] theorem State.cqWrite_memories (s : State) (r : Requester) (p : Nat) (c : Card) (put : State → State) (hput : ∀ t , (put t ).memories = t.memories) : (State.cqWrite s r p c put).memories = s.memories := by
  unfold State.cqWrite
  simp only [ite_memories, ite_self, implies_true, State.gate_memories, State.setBit_memories, hput]

theorem State.cqWrite_wf (s : State) (r : Requester) (p : Nat) (c : Card) (put : State → State) (hwf : s.memories.wf = true) (hput : ∀ t , t.memories.wf = true → (put t ).memories.wf = true) : (State.cqWrite s r p c put).memories.wf = true := by
  unfold State.cqWrite
  repeat' first
    | with_reducible assumption
    | (simp only [hwf, ite_memories, Memories.ite_wf, ite_self, State.setBit_memories, hput]; done)
    | (with_reducible refine State.gate_wf _ _ _ _ _ ?_ (fun t  hwf => ?_))

theorem execCqRegisterWrite_memories (r : Requester) (p off be : Nat) (val : Word) (s : State) (t : State) (ht : execCqRegisterWrite r p off be val s = .next t) : t.memories = s.memories := by
  injection ht with ht
  rw [← ht]
  repeat' first
    | with_reducible rfl
    | (simp only [ite_memories, ite_self, foldl_memories, implies_true, State.cqWrite_memories, State.write4_memories]; done)
    | (with_reducible refine (foldl_memories _ _ _ (fun t x => ?_)).trans ?_)
    | (with_reducible refine (foldl1_memories _ _ _ (fun t x => ?_)).trans ?_)
    | (with_reducible refine State.write4_memories _ _ _ _ _ _ _ (fun c g t hg => ?_))
    | (simp only [implies_true, hg, State.cqWrite_memories, State.write4_memories]; done)
    | split
    | (simp only [State.cqWrite_memories, State.write4_memories])
    | (simp only [])
    | (simp only [memories_mk])
    | (simp only [memories_eta])

theorem State.ptp_wf (s : State) (port : Nat) (x : PtpTime) (hwf : s.memories.wf = true) : (State.ptp s port x).memories.wf = true := by
  unfold State.ptp
  repeat' first
    | with_reducible assumption
    | (simp only [hwf, ite_memories, Memories.ite_wf, ite_self, foldl_memories, implies_true, State.arrive_memories, State.setN_memories, State.sf_memories, State.arrive_wf]; done)
    | (with_reducible refine State.arrive_wf _ _ _ _ _ ?_ (fun t hwf => ?_))
    | (with_reducible refine foldl_wf _ _ _ ?_ (fun t x hwf => ?_))
    | (with_reducible refine foldl1_wf _ _ _ ?_ (fun t x hwf => ?_))
    | split
    | (simp only [State.arrive_memories, State.setN_memories, State.sf_memories])
    | (simp only [])
    | (simp only [memories_mk])
    | (simp only [memories_eta])

theorem execPtpMessage_wf (port : Nat) (gmTime : PtpTime) (s : State) (t : State) (ht : execPtpMessage port gmTime s = .next t) (hwf : s.memories.wf = true) : t.memories.wf = true := by
  injection ht with ht
  rw [← ht]
  repeat' first
    | with_reducible assumption
    | (simp only [hwf, ite_memories, Memories.ite_wf, ite_self, foldl_memories, implies_true, State.ptp_wf]; done)
    | (with_reducible refine State.ptp_wf _ _ _ ?_)
    | (with_reducible refine foldl_wf _ _ _ ?_ (fun t x hwf => ?_))
    | (with_reducible refine foldl1_wf _ _ _ ?_ (fun t x hwf => ?_))
    | split
    | (simp only [])
    | (simp only [memories_mk])
    | (simp only [memories_eta])

@[simp] theorem State.tick_memories (s : State) : (State.tick s).memories = s.memories := by
  unfold State.tick
  repeat' first
    | with_reducible rfl
    | (simp only [ite_memories, ite_self, foldl_memories, implies_true, State.spin_memories]; done)
    | (with_reducible refine (foldl_memories _ _ _ (fun t x => ?_)).trans ?_)
    | (with_reducible refine (foldl1_memories _ _ _ (fun t x => ?_)).trans ?_)
    | split
    | (simp only [State.spin_memories])
    | (simp only [])
    | (simp only [memories_mk])
    | (simp only [memories_eta])

end Sys2Proof.Machine
end

