-- ==== Sys2Proof/Laws/KeepTiers.lean ====
section
/-! SUPPORT. What happens to the memories, and that they keep their canonical form: the tiers, Hopper and the key-value cache. -/

namespace Sys2Proof.Machine

/-! ### Flash -/

@[simp] theorem State.modFlash_memories (s : State) (g : Flash → Flash) : (State.modFlash s g).memories = s.memories := by
  unfold State.modFlash
  repeat' first
    | with_reducible rfl
    | (simp only [ite_memories, ite_self, foldl_memories, implies_true]; done)
    | (with_reducible refine (foldl_memories _ _ _ (fun t x => ?_)).trans ?_)
    | (with_reducible refine (foldl1_memories _ _ _ (fun t x => ?_)).trans ?_)
    | split
    | (simp only [])
    | (simp only [memories_mk])
    | (simp only [memories_eta])

@[simp] theorem State.modBlk_memories (s : State) (b : Nat) (g : FlashBlock → FlashBlock) : (State.modBlk s b g).memories = s.memories := by
  unfold State.modBlk
  repeat' first
    | with_reducible rfl
    | (simp only [ite_memories, ite_self, foldl_memories, implies_true, State.modFlash_memories]; done)
    | (with_reducible refine (foldl_memories _ _ _ (fun t x => ?_)).trans ?_)
    | (with_reducible refine (foldl1_memories _ _ _ (fun t x => ?_)).trans ?_)
    | split
    | (simp only [State.modFlash_memories])
    | (simp only [])
    | (simp only [memories_mk])
    | (simp only [memories_eta])

@[simp] theorem State.setOpen_memories (s : State) (stream ch b : Nat) : (State.setOpen s stream ch b).memories = s.memories := by
  unfold State.setOpen
  repeat' first
    | with_reducible rfl
    | (simp only [ite_memories, ite_self, foldl_memories, implies_true, State.modFlash_memories]; done)
    | (with_reducible refine (foldl_memories _ _ _ (fun t x => ?_)).trans ?_)
    | (with_reducible refine (foldl1_memories _ _ _ (fun t x => ?_)).trans ?_)
    | split
    | (simp only [State.modFlash_memories])
    | (simp only [])
    | (simp only [memories_mk])
    | (simp only [memories_eta])

@[simp] theorem State.closeBands_memories (s : State) : (State.closeBands s).memories = s.memories := by
  unfold State.closeBands
  repeat' first
    | with_reducible rfl
    | (simp only [ite_memories, ite_self, foldl_memories, implies_true, State.modFlash_memories]; done)
    | (with_reducible refine (foldl_memories _ _ _ (fun t x => ?_)).trans ?_)
    | (with_reducible refine (foldl1_memories _ _ _ (fun t x => ?_)).trans ?_)
    | split
    | (simp only [State.modFlash_memories])
    | (simp only [])
    | (simp only [memories_mk])
    | (simp only [memories_eta])

@[simp] theorem State.writeParity_memories (s : State) (x : Stripe) (want : List Nat) : (State.writeParity s x want).memories = s.memories := by
  unfold State.writeParity
  repeat' first
    | with_reducible rfl
    | (simp only [ite_memories, ite_self, foldl_memories, implies_true, State.modBlk_memories, State.modFlash_memories, State.setOpen_memories]; done)
    | (with_reducible refine (foldl_memories _ _ _ (fun t x => ?_)).trans ?_)
    | (with_reducible refine (foldl1_memories _ _ _ (fun t x => ?_)).trans ?_)
    | split
    | (simp only [State.modBlk_memories, State.modFlash_memories, State.setOpen_memories])
    | (simp only [])
    | (simp only [memories_mk])
    | (simp only [memories_eta])

@[simp] theorem State.placeIn_memories (s : State) (stream u b : Nat) : (State.placeIn s stream u b).memories = s.memories := by
  unfold State.placeIn
  repeat' first
    | with_reducible rfl
    | (simp only [ite_memories, ite_self, foldl_memories, implies_true, State.modBlk_memories, State.modFlash_memories, State.writeParity_memories]; done)
    | (with_reducible refine (foldl_memories _ _ _ (fun t x => ?_)).trans ?_)
    | (with_reducible refine (foldl1_memories _ _ _ (fun t x => ?_)).trans ?_)
    | split
    | (simp only [State.modBlk_memories, State.modFlash_memories, State.writeParity_memories])
    | (simp only [])
    | (simp only [memories_mk])
    | (simp only [memories_eta])

@[simp] theorem State.unplace_memories (s : State) (gone : Nat → Bool) : (State.unplace s gone).memories = s.memories := by
  unfold State.unplace
  repeat' first
    | with_reducible rfl
    | (simp only [ite_memories, ite_self, foldl_memories, implies_true, State.modFlash_memories]; done)
    | (with_reducible refine (foldl_memories _ _ _ (fun t x => ?_)).trans ?_)
    | (with_reducible refine (foldl1_memories _ _ _ (fun t x => ?_)).trans ?_)
    | split
    | (simp only [State.modFlash_memories])
    | (simp only [])
    | (simp only [memories_mk])
    | (simp only [memories_eta])

@[simp] theorem State.placeUnit_memories (s : State) (stream u : Nat) : (State.placeUnit s stream u).memories = s.memories := by
  unfold State.placeUnit
  repeat' first
    | with_reducible rfl
    | (simp only [ite_memories, ite_self, foldl_memories, implies_true, State.placeIn_memories, State.setOpen_memories, State.unplace_memories]; done)
    | (with_reducible refine (foldl_memories _ _ _ (fun t x => ?_)).trans ?_)
    | (with_reducible refine (foldl1_memories _ _ _ (fun t x => ?_)).trans ?_)
    | split
    | (simp only [State.placeIn_memories, State.setOpen_memories, State.unplace_memories])
    | (simp only [])
    | (simp only [memories_mk])
    | (simp only [memories_eta])

theorem hopBlit_wf (s : State) (a : Nat) (bs : List Byte) (lost : List Nat) (hwf : s.memories.wf = true) :
    (State.memories { s with hop := Sparse.blit zeroByte s.hop a bs, hopLost := lost }).wf = true := by
  rw [Memories.wf_iff] at hwf ⊢
  exact ⟨hwf.1, hwf.2.1, hwf.2.2.1, Sparse.wf_blit _ _ _ _ hwf.2.2.2.1, hwf.2.2.2.2⟩

theorem State.hopWrite_wf (s : State) (stream frame : Nat) (bs : List Byte) (hwf : s.memories.wf = true) :
    (State.hopWrite s stream frame bs).memories.wf = true := by
  unfold State.hopWrite
  refine foldl_wf _ _ _ (hopBlit_wf s _ _ _ hwf) (fun t x h => ?_)
  rw [State.placeUnit_memories]; exact h

@[simp] theorem State.freeUnits_memories (s : State) (frame n : Nat) : (State.freeUnits s frame n).memories = s.memories := by
  unfold State.freeUnits
  repeat' first
    | with_reducible rfl
    | (simp only [ite_memories, ite_self, foldl_memories, implies_true, State.unplace_memories]; done)
    | (with_reducible refine (foldl_memories _ _ _ (fun t x => ?_)).trans ?_)
    | (with_reducible refine (foldl1_memories _ _ _ (fun t x => ?_)).trans ?_)
    | split
    | (simp only [State.unplace_memories])
    | (simp only [])
    | (simp only [memories_mk])
    | (simp only [memories_eta])

@[simp] theorem State.stripeReads_memories (s : State) (x : Placed) : (State.stripeReads s x).memories = s.memories := by
  unfold State.stripeReads
  repeat' first
    | with_reducible rfl
    | (simp only [ite_memories, ite_self, foldl_memories, implies_true, State.modBlk_memories]; done)
    | (with_reducible refine (foldl_memories _ _ _ (fun t x => ?_)).trans ?_)
    | (with_reducible refine (foldl1_memories _ _ _ (fun t x => ?_)).trans ?_)
    | split
    | (simp only [State.modBlk_memories])
    | (simp only [])
    | (simp only [memories_mk])
    | (simp only [memories_eta])

@[simp] theorem State.readUnit_memories (s : State) (u rung : Nat) : (State.readUnit s u rung).memories = s.memories := by
  unfold State.readUnit
  repeat' first
    | with_reducible rfl
    | (simp only [ite_memories, ite_self, foldl_memories, implies_true, State.bump_memories, State.modBlk_memories, State.report_memories, State.stripeReads_memories]; done)
    | (with_reducible refine (foldl_memories _ _ _ (fun t x => ?_)).trans ?_)
    | (with_reducible refine (foldl1_memories _ _ _ (fun t x => ?_)).trans ?_)
    | split
    | (simp only [State.bump_memories, State.modBlk_memories, State.report_memories, State.stripeReads_memories])
    | (simp only [])
    | (simp only [memories_mk])
    | (simp only [memories_eta])

@[simp] theorem State.readUnits_memories (s : State) (us : List Nat) (rungs : List (Nat × Nat)) : (State.readUnits s us rungs).memories = s.memories := by
  unfold State.readUnits
  repeat' first
    | with_reducible rfl
    | (simp only [ite_memories, ite_self, foldl_memories, implies_true, State.readUnit_memories]; done)
    | (with_reducible refine (foldl_memories _ _ _ (fun t x => ?_)).trans ?_)
    | (with_reducible refine (foldl1_memories _ _ _ (fun t x => ?_)).trans ?_)
    | split
    | (simp only [State.readUnit_memories])
    | (simp only [])
    | (simp only [memories_mk])
    | (simp only [memories_eta])

@[simp] theorem State.hopReads_memories (s : State) (frame n : Nat) (rungs : List (Nat × Nat)) : (State.hopReads s frame n rungs).memories = s.memories := by
  unfold State.hopReads
  repeat' first
    | with_reducible rfl
    | (simp only [ite_memories, ite_self, foldl_memories, implies_true, State.readUnits_memories]; done)
    | (with_reducible refine (foldl_memories _ _ _ (fun t x => ?_)).trans ?_)
    | (with_reducible refine (foldl1_memories _ _ _ (fun t x => ?_)).trans ?_)
    | split
    | (simp only [State.readUnits_memories])
    | (simp only [])
    | (simp only [memories_mk])
    | (simp only [memories_eta])

/-! ### Tiers -/

@[simp] theorem State.overwrite_memories (s : State) (a n : Nat) : (State.overwrite s a n).memories = s.memories := by
  unfold State.overwrite
  repeat' first
    | with_reducible rfl
    | (simp only [ite_memories, ite_self, foldl_memories, implies_true]; done)
    | (with_reducible refine (foldl_memories _ _ _ (fun t x => ?_)).trans ?_)
    | (with_reducible refine (foldl1_memories _ _ _ (fun t x => ?_)).trans ?_)
    | split
    | (simp only [])
    | (simp only [memories_mk])
    | (simp only [memories_eta])

theorem State.tierWrite_wf (s : State) (tier frame : Nat) (bs : List Byte) (hwf : s.memories.wf = true) : (State.tierWrite s tier frame bs).memories.wf = true := by
  unfold State.tierWrite
  repeat' first
    | with_reducible assumption
    | (simp only [hwf, ite_memories, Memories.ite_wf, ite_self, foldl_memories, implies_true, State.overwrite_memories, State.hopWrite_wf, State.writeMem_wf]; done)
    | (with_reducible refine State.hopWrite_wf _ _ _ _ ?_)
    | (with_reducible refine State.writeMem_wf _ _ _ ?_)
    | (with_reducible refine foldl_wf _ _ _ ?_ (fun t x hwf => ?_))
    | (with_reducible refine foldl1_wf _ _ _ ?_ (fun t x hwf => ?_))
    | split
    | (simp only [State.overwrite_memories])
    | (simp only [])
    | (simp only [memories_mk])
    | (simp only [memories_eta])

@[simp] theorem State.noteEc_memories (s : State) (tier frame n : Nat) : (State.noteEc s tier frame n).memories = s.memories := by
  unfold State.noteEc
  repeat' first
    | with_reducible rfl
    | (simp only [ite_memories, ite_self, foldl_memories, implies_true, State.reportEc_memories]; done)
    | (with_reducible refine (foldl_memories _ _ _ (fun t x => ?_)).trans ?_)
    | (with_reducible refine (foldl1_memories _ _ _ (fun t x => ?_)).trans ?_)
    | split
    | (simp only [State.reportEc_memories])
    | (simp only [])
    | (simp only [memories_mk])
    | (simp only [memories_eta])

@[simp] theorem State.blmReason_memories (s : State) (r : Nat) : (State.blmReason s r).memories = s.memories := by
  unfold State.blmReason
  simp only [State.bump_memories, State.setN_memories, State.sf_memories]

@[simp] theorem bloomFill_memories (n : Nat) (s : State) : (bloomFill n s).memories = s.memories := by
  induction n generalizing s with
  | zero => first | rfl | exact hwf | (unfold bloomFill; split <;> first | rfl | assumption)
  | succ n ih =>
    unfold bloomFill
    repeat' first
      | with_reducible rfl
      | (simp only [ite_memories, ite_self, foldl_memories, implies_true, ih]; done)
      | (with_reducible refine (foldl_memories _ _ _ (fun t x => ?_)).trans ?_)
      | (with_reducible refine (foldl1_memories _ _ _ (fun t x => ?_)).trans ?_)
      | split
      | (simp only [ih])
      | (simp only [])
      | (simp only [memories_mk])
      | (simp only [memories_eta])

@[simp] theorem State.bloomShow_memories (s : State) : (State.bloomShow s).memories = s.memories := by
  unfold State.bloomShow
  repeat' first
    | with_reducible rfl
    | (simp only [ite_memories, ite_self, foldl_memories, implies_true, State.sf_memories, bloomFill_memories]; done)
    | (with_reducible refine (foldl_memories _ _ _ (fun t x => ?_)).trans ?_)
    | (with_reducible refine (foldl1_memories _ _ _ (fun t x => ?_)).trans ?_)
    | split
    | (simp only [State.sf_memories, bloomFill_memories])
    | (simp only [])
    | (simp only [memories_mk])
    | (simp only [memories_eta])

@[simp] theorem State.bloomAsk_memories (s : State) (x : BloomFor) (rs : List (Nat × Nat)) : (State.bloomAsk s x rs).memories = s.memories := by
  unfold State.bloomAsk
  repeat' first
    | with_reducible rfl
    | (simp only [ite_memories, ite_self, foldl_memories, implies_true, State.bloomShow_memories, State.watch_memories]; done)
    | (with_reducible refine (foldl_memories _ _ _ (fun t x => ?_)).trans ?_)
    | (with_reducible refine (foldl1_memories _ _ _ (fun t x => ?_)).trans ?_)
    | split
    | (simp only [State.bloomShow_memories, State.watch_memories])
    | (simp only [])
    | (simp only [memories_mk])
    | (simp only [memories_eta])

@[simp] theorem State.bloomFree_memories (s : State) (x : BloomFor) : (State.bloomFree s x).memories = s.memories := by
  unfold State.bloomFree
  repeat' first
    | with_reducible rfl
    | (simp only [ite_memories, ite_self, foldl_memories, implies_true, State.bloomShow_memories]; done)
    | (with_reducible refine (foldl_memories _ _ _ (fun t x => ?_)).trans ?_)
    | (with_reducible refine (foldl1_memories _ _ _ (fun t x => ?_)).trans ?_)
    | split
    | (simp only [State.bloomShow_memories])
    | (simp only [])
    | (simp only [memories_mk])
    | (simp only [memories_eta])

@[simp] theorem State.bloomEnd_memories (s : State) (x : BloomFor) : (State.bloomEnd s x).memories = s.memories := by
  unfold State.bloomEnd
  repeat' first
    | with_reducible rfl
    | (simp only [ite_memories, ite_self, foldl_memories, implies_true, State.bloomFree_memories]; done)
    | (with_reducible refine (foldl_memories _ _ _ (fun t x => ?_)).trans ?_)
    | (with_reducible refine (foldl1_memories _ _ _ (fun t x => ?_)).trans ?_)
    | split
    | (simp only [State.bloomFree_memories])
    | (simp only [])
    | (simp only [memories_mk])
    | (simp only [memories_eta])

@[simp] theorem State.tampered_memories (s : State) (x : BloomFor) (n : Nat) (b : PageBytes) : (State.tampered s x n b).1.memories = s.memories := by
  unfold State.tampered
  repeat' first
    | with_reducible rfl
    | (simp only [ite_memories, ite_self, foldl_memories, implies_true, State.fresh_memories]; done)
    | (with_reducible refine (foldl_memories _ _ _ (fun t x => ?_)).trans ?_)
    | (with_reducible refine (foldl1_memories _ _ _ (fun t x => ?_)).trans ?_)
    | split
    | (simp only [State.fresh_memories])
    | (simp only [])
    | (simp only [memories_mk])
    | (simp only [memories_eta])

@[simp] theorem State.setLeaf_memories (s : State) (p va : Nat) (g : Leaf → Leaf) : (State.setLeaf s p va g).memories = s.memories := by
  unfold State.setLeaf
  repeat' first
    | (simp only [memories_mk])
    | (simp only [memories_eta])

@[simp] theorem State.leaveBytes_memories (s : State) (l : Leaf) (tier frame n : Nat) : (State.leaveBytes s l tier frame n).memories = s.memories := by
  unfold State.leaveBytes
  repeat' first
    | with_reducible rfl
    | (simp only [ite_memories, ite_self, foldl_memories, implies_true]; done)
    | (with_reducible refine (foldl_memories _ _ _ (fun t x => ?_)).trans ?_)
    | (with_reducible refine (foldl1_memories _ _ _ (fun t x => ?_)).trans ?_)
    | split
    | (simp only [])
    | (simp only [memories_mk])
    | (simp only [memories_eta])

@[simp] theorem State.freeLeaf_memories (s : State) (l : Leaf) : (State.freeLeaf s l).memories = s.memories := by
  unfold State.freeLeaf
  repeat' first
    | with_reducible rfl
    | (simp only [ite_memories, ite_self, foldl_memories, implies_true, State.freeUnits_memories, State.leaveBytes_memories]; done)
    | (with_reducible refine (foldl_memories _ _ _ (fun t x => ?_)).trans ?_)
    | (with_reducible refine (foldl1_memories _ _ _ (fun t x => ?_)).trans ?_)
    | split
    | (simp only [State.freeUnits_memories, State.leaveBytes_memories])
    | (simp only [])
    | (simp only [memories_mk])
    | (simp only [memories_eta])

@[simp] theorem State.addHeld_memories (s : State) (who : Issuer) (t : Nat) : (State.addHeld s who t).memories = s.memories := by
  unfold State.addHeld
  repeat' first
    | with_reducible rfl
    | (simp only [ite_memories, ite_self, foldl_memories, implies_true, State.modDesc_memories, State.setPourQ_memories]; done)
    | (with_reducible refine (foldl_memories _ _ _ (fun t x => ?_)).trans ?_)
    | (with_reducible refine (foldl1_memories _ _ _ (fun t x => ?_)).trans ?_)
    | split
    | (simp only [State.modDesc_memories, State.setPourQ_memories])
    | (simp only [])
    | (simp only [memories_mk])
    | (simp only [memories_eta])

theorem State.unhold_wf (s : State) (who : Issuer) (t : Nat) (hwf : s.memories.wf = true) : (State.unhold s who t).memories.wf = true := by
  unfold State.unhold
  repeat' first
    | with_reducible assumption
    | (simp only [hwf, ite_memories, Memories.ite_wf, ite_self, foldl_memories, implies_true, State.addHeld_memories, State.copyLaunch_memories, State.pourLaunch_memories, State.dripLaunch_wf]; done)
    | (with_reducible refine State.dripLaunch_wf _ _ _ ?_)
    | (with_reducible refine foldl_wf _ _ _ ?_ (fun t x hwf => ?_))
    | (with_reducible refine foldl1_wf _ _ _ ?_ (fun t x hwf => ?_))
    | split
    | (simp only [State.addHeld_memories, State.copyLaunch_memories, State.pourLaunch_memories])
    | (simp only [])
    | (simp only [memories_mk])
    | (simp only [memories_eta])

theorem State.release_wf (s : State) (p va : Nat) (hwf : s.memories.wf = true) : (State.release s p va).memories.wf = true := by
  unfold State.release
  repeat' first
    | with_reducible assumption
    | (simp only [hwf, State.unhold_wf]; done)
    | (with_reducible refine foldl_wf _ _ _ ?_ (fun t x hwf => ?_))
    | (simp only [memories_mk])
    | (simp only [memories_eta])

@[simp] theorem State.endHold_memories (s : State) (h : Hold) (st : Nat) : (State.endHold s h st).memories = s.memories := by
  unfold State.endHold
  repeat' first
    | with_reducible rfl
    | (simp only [ite_memories, ite_self, foldl_memories, implies_true, State.report_memories]; done)
    | (with_reducible refine (foldl_memories _ _ _ (fun t x => ?_)).trans ?_)
    | (with_reducible refine (foldl1_memories _ _ _ (fun t x => ?_)).trans ?_)
    | split
    | (simp only [State.report_memories])
    | (simp only [])
    | (simp only [memories_mk])
    | (simp only [memories_eta])

theorem State.failHold_wf (s : State) (h : Hold) (st : Nat) (hwf : s.memories.wf = true) : (State.failHold s h st).memories.wf = true := by
  unfold State.failHold
  repeat' first
    | with_reducible assumption
    | (simp only [hwf, ite_memories, Memories.ite_wf, ite_self, foldl_memories, implies_true, State.endHold_memories, State.failSeg_memories, State.unhold_wf]; done)
    | (with_reducible refine State.unhold_wf _ _ _ ?_)
    | (with_reducible refine foldl_wf _ _ _ ?_ (fun t x hwf => ?_))
    | (with_reducible refine foldl1_wf _ _ _ ?_ (fun t x hwf => ?_))
    | split
    | (simp only [State.endHold_memories, State.failSeg_memories])
    | (simp only [])
    | (simp only [memories_mk])
    | (simp only [memories_eta])

theorem State.failHolds_wf (s : State) (p va st : Nat) (hwf : s.memories.wf = true) : (State.failHolds s p va st).memories.wf = true := by
  unfold State.failHolds
  repeat' first
    | with_reducible assumption
    | (simp only [hwf, State.failHold_wf]; done)
    | (with_reducible refine foldl_wf _ _ _ ?_ (fun t x hwf => ?_))

theorem State.holdTimeout_wf (s : State) (idx : Nat) (hwf : s.memories.wf = true) : (State.holdTimeout s idx).memories.wf = true := by
  unfold State.holdTimeout
  repeat' first
    | with_reducible assumption
    | (simp only [hwf, ite_memories, Memories.ite_wf, ite_self, foldl_memories, implies_true, State.bump_memories, State.until_memories, State.failHold_wf]; done)
    | (with_reducible refine State.failHold_wf _ _ _ ?_)
    | (with_reducible refine foldl_wf _ _ _ ?_ (fun t x hwf => ?_))
    | (with_reducible refine foldl1_wf _ _ _ ?_ (fun t x hwf => ?_))
    | split
    | (simp only [State.bump_memories, State.until_memories])
    | (simp only [])
    | (simp only [memories_mk])
    | (simp only [memories_eta])

theorem execHoldTimeout_wf (idx : Nat) (s : State) (t : State) (ht : execHoldTimeout idx s = .next t) (hwf : s.memories.wf = true) : t.memories.wf = true := by
  injection ht with ht
  rw [← ht]
  simp only [hwf, State.holdTimeout_wf]

@[simp] theorem State.failMove_memories (s : State) (p va : Nat) : (State.failMove s p va).memories = s.memories := by
  unfold State.failMove
  repeat' first
    | with_reducible rfl
    | (simp only [ite_memories, ite_self, foldl_memories, implies_true]; done)
    | (with_reducible refine (foldl_memories _ _ _ (fun t x => ?_)).trans ?_)
    | (with_reducible refine (foldl1_memories _ _ _ (fun t x => ?_)).trans ?_)
    | split
    | (simp only [])
    | (simp only [memories_mk])
    | (simp only [memories_eta])

theorem State.promoteFail_wf (s : State) (l : Leaf) (hwf : s.memories.wf = true) : (State.promoteFail s l).memories.wf = true := by
  unfold State.promoteFail
  repeat' first
    | with_reducible assumption
    | (simp only [hwf, ite_memories, Memories.ite_wf, ite_self, foldl_memories, implies_true, State.bump_memories, State.failMove_memories, State.setLeaf_memories, State.failHolds_wf]; done)
    | (with_reducible refine State.failHolds_wf _ _ _ _ ?_)
    | (with_reducible refine foldl_wf _ _ _ ?_ (fun t x hwf => ?_))
    | (with_reducible refine foldl1_wf _ _ _ ?_ (fun t x hwf => ?_))
    | split
    | (simp only [State.bump_memories, State.failMove_memories, State.setLeaf_memories])
    | (simp only [])
    | (simp only [memories_mk])
    | (simp only [memories_eta])

@[simp] theorem State.noteUc_memories (s : State) (tier frame n : Nat) : (State.noteUc s tier frame n).memories = s.memories := by
  unfold State.noteUc
  repeat' first
    | with_reducible rfl
    | (simp only [ite_memories, ite_self, foldl_memories, implies_true, State.reportUc_memories]; done)
    | (with_reducible refine (foldl_memories _ _ _ (fun t x => ?_)).trans ?_)
    | (with_reducible refine (foldl1_memories _ _ _ (fun t x => ?_)).trans ?_)
    | split
    | (simp only [State.reportUc_memories])
    | (simp only [])
    | (simp only [memories_mk])
    | (simp only [memories_eta])

theorem State.promoteInto_wf (s : State) (l : Leaf) (tier frame : Nat) (rungs : List (Nat × Nat)) (hwf : s.memories.wf = true) : (State.promoteInto s l tier frame rungs).memories.wf = true := by
  unfold State.promoteInto
  repeat' first
    | with_reducible assumption
    | (simp only [hwf, ite_memories, Memories.ite_wf, ite_self, foldl_memories, implies_true, State.blmReason_memories, State.freeUnits_memories, State.hopReads_memories, State.leaveBytes_memories, State.noteEc_memories, State.noteUc_memories, State.setLeaf_memories, State.tampered_memories, State.promoteFail_wf, State.release_wf, State.tierWrite_wf]; done)
    | (with_reducible refine State.promoteFail_wf _ _ ?_)
    | (with_reducible refine State.release_wf _ _ _ ?_)
    | (with_reducible refine State.tierWrite_wf _ _ _ _ ?_)
    | (with_reducible refine foldl_wf _ _ _ ?_ (fun t x hwf => ?_))
    | (with_reducible refine foldl1_wf _ _ _ ?_ (fun t x hwf => ?_))
    | split
    | (simp only [State.blmReason_memories, State.freeUnits_memories, State.hopReads_memories, State.leaveBytes_memories, State.noteEc_memories, State.noteUc_memories, State.setLeaf_memories, State.tampered_memories])
    | (simp only [])
    | (simp only [memories_mk])
    | (simp only [memories_eta])

theorem State.demoteInto_wf (s : State) (l : Leaf) (tier frame : Nat) (hwf : s.memories.wf = true) : (State.demoteInto s l tier frame).memories.wf = true := by
  unfold State.demoteInto
  repeat' first
    | with_reducible assumption
    | (simp only [hwf, ite_memories, Memories.ite_wf, ite_self, foldl_memories, implies_true, State.failMove_memories, State.leaveBytes_memories, State.noteEc_memories, State.noteUc_memories, State.setLeaf_memories, State.tierWrite_wf]; done)
    | (with_reducible refine State.tierWrite_wf _ _ _ _ ?_)
    | (with_reducible refine foldl_wf _ _ _ ?_ (fun t x hwf => ?_))
    | (with_reducible refine foldl1_wf _ _ _ ?_ (fun t x hwf => ?_))
    | split
    | (simp only [State.failMove_memories, State.leaveBytes_memories, State.noteEc_memories, State.noteUc_memories, State.setLeaf_memories])
    | (simp only [])
    | (simp only [memories_mk])
    | (simp only [memories_eta])

@[simp] theorem State.dropLeaf_memories (s : State) (l : Leaf) : (State.dropLeaf s l).memories = s.memories := by
  unfold State.dropLeaf
  repeat' first
    | with_reducible rfl
    | (simp only [ite_memories, ite_self, foldl_memories, implies_true, State.leaveBytes_memories, State.setLeaf_memories]; done)
    | (with_reducible refine (foldl_memories _ _ _ (fun t x => ?_)).trans ?_)
    | (with_reducible refine (foldl1_memories _ _ _ (fun t x => ?_)).trans ?_)
    | split
    | (simp only [State.leaveBytes_memories, State.setLeaf_memories])
    | (simp only [])
    | (simp only [memories_mk])
    | (simp only [memories_eta])

@[simp] theorem State.clockPick_memories (s : State) (fromUrn : Bool) (p hint : Nat) :
    (State.clockPick s fromUrn p hint).2.memories = s.memories := by
  unfold State.clockPick
  extract_lets
  split <;> rfl

@[simp] theorem lowPick_memories (fromUrn : Bool) (p : Nat) (l : List Nat) (s : State) :
    (lowPick fromUrn p l s).2.memories = s.memories := by
  induction l generalizing s with
  | nil => rfl
  | cons x l ih =>
    simp only [lowPick]
    split
    · exact State.clockPick_memories _ _ _ _
    · exact (ih _).trans (State.clockPick_memories _ _ _ _)

theorem State.demoteNow_wf (s : State) (l : Leaf) (hwf : s.memories.wf = true) : (State.demoteNow s l).memories.wf = true := by
  unfold State.demoteNow
  repeat' first
    | with_reducible assumption
    | (simp only [hwf, ite_memories, Memories.ite_wf, ite_self, foldl_memories, implies_true, State.dropLeaf_memories, State.demoteInto_wf]; done)
    | (with_reducible refine State.demoteInto_wf _ _ _ _ ?_)
    | (with_reducible refine foldl_wf _ _ _ ?_ (fun t x hwf => ?_))
    | (with_reducible refine foldl1_wf _ _ _ ?_ (fun t x hwf => ?_))
    | split
    | (simp only [State.dropLeaf_memories])
    | (simp only [])
    | (simp only [memories_mk])
    | (simp only [memories_eta])

theorem urnRoom_wf (n : Nat) (s : State) (hwf : s.memories.wf = true) : (urnRoom n s).memories.wf = true := by
  induction n generalizing s with
  | zero => first | rfl | exact hwf | (unfold urnRoom; split <;> first | rfl | assumption)
  | succ n ih =>
    unfold urnRoom
    repeat' first
      | with_reducible assumption
      | (simp only [hwf, ite_memories, Memories.ite_wf, ite_self, foldl_memories, implies_true, lowPick_memories, State.demoteNow_wf, ih]; done)
      | (with_reducible refine State.demoteNow_wf _ _ ?_)
      | (with_reducible refine ih _ ?_)
      | (with_reducible refine foldl_wf _ _ _ ?_ (fun t x hwf => ?_))
      | (with_reducible refine foldl1_wf _ _ _ ?_ (fun t x hwf => ?_))
      | split
      | (simp only [lowPick_memories])
      | (simp only [])
      | (simp only [memories_mk])
      | (simp only [memories_eta])

theorem carafeRoom_wf (p : Nat) (n : Nat) (s : State) (hwf : s.memories.wf = true) : (carafeRoom p n s).memories.wf = true := by
  induction n generalizing s with
  | zero => first | rfl | exact hwf | (unfold carafeRoom; split <;> first | rfl | assumption)
  | succ n ih =>
    unfold carafeRoom
    repeat' first
      | with_reducible assumption
      | (simp only [hwf, ite_memories, Memories.ite_wf, ite_self, foldl_memories, implies_true, lowPick_memories, State.demoteNow_wf, urnRoom_wf, ih]; done)
      | (with_reducible refine State.demoteNow_wf _ _ ?_)
      | (with_reducible refine urnRoom_wf _ _ ?_)
      | (with_reducible refine ih _ ?_)
      | (with_reducible refine foldl_wf _ _ _ ?_ (fun t x hwf => ?_))
      | (with_reducible refine foldl1_wf _ _ _ ?_ (fun t x hwf => ?_))
      | split
      | (simp only [lowPick_memories])
      | (simp only [])
      | (simp only [memories_mk])
      | (simp only [memories_eta])

theorem State.placeFor_wf (s : State) (p : Nat) (l : Leaf) (tier : Nat) (hwf : s.memories.wf = true) : (State.placeFor s p l tier).1.memories.wf = true := by
  unfold State.placeFor
  repeat' first
    | with_reducible assumption
    | (simp only [hwf, ite_memories, Memories.ite_wf, ite_self, foldl_memories, implies_true, carafeRoom_wf, urnRoom_wf]; done)
    | (with_reducible refine carafeRoom_wf _ _ _ ?_)
    | (with_reducible refine urnRoom_wf _ _ ?_)
    | (with_reducible refine foldl_wf _ _ _ ?_ (fun t x hwf => ?_))
    | (with_reducible refine foldl1_wf _ _ _ ?_ (fun t x hwf => ?_))
    | split
    | (simp only [])
    | (simp only [memories_mk])
    | (simp only [memories_eta])

theorem State.pagePromotion_wf (s : State) (p va : Nat) (hwf : s.memories.wf = true) : (State.pagePromotion s p va).memories.wf = true := by
  unfold State.pagePromotion
  repeat' first
    | with_reducible assumption
    | (simp only [hwf, ite_memories, Memories.ite_wf, ite_self, foldl_memories, implies_true, State.bloomAsk_memories, State.setLeaf_memories, State.placeFor_wf]; done)
    | (with_reducible refine State.placeFor_wf _ _ _ _ ?_)
    | (with_reducible refine foldl_wf _ _ _ ?_ (fun t x hwf => ?_))
    | (with_reducible refine foldl1_wf _ _ _ ?_ (fun t x hwf => ?_))
    | split
    | (simp only [State.bloomAsk_memories, State.setLeaf_memories])
    | (simp only [])
    | (simp only [memories_mk])
    | (simp only [memories_eta])

theorem execPagePromotion_wf (p va : Nat) (s : State) (t : State) (ht : execPagePromotion p va s = .next t) (hwf : s.memories.wf = true) : t.memories.wf = true := by
  injection ht with ht
  rw [← ht]
  simp only [hwf, State.pagePromotion_wf]

@[simp] theorem State.settleMoves_memories (s : State) : (State.settleMoves s).memories = s.memories := by
  unfold State.settleMoves
  repeat' first
    | (simp only [memories_mk])
    | (simp only [memories_eta])

@[simp] theorem State.pinMove_memories (s : State) (p va : Nat) : (State.pinMove s p va).1.memories = s.memories := by
  unfold State.pinMove
  repeat' first
    | with_reducible rfl
    | (simp only [ite_memories, ite_self, foldl_memories, implies_true]; done)
    | (with_reducible refine (foldl_memories _ _ _ (fun t x => ?_)).trans ?_)
    | (with_reducible refine (foldl1_memories _ _ _ (fun t x => ?_)).trans ?_)
    | split
    | (simp only [])
    | (simp only [memories_mk])
    | (simp only [memories_eta])

theorem State.trAct_wf (s : State) (p code hint va : Nat) (hwf : s.memories.wf = true) : (State.trAct s p code hint va).1.memories.wf = true := by
  unfold State.trAct
  repeat' first
    | with_reducible assumption
    | (simp only [hwf, ite_memories, Memories.ite_wf, ite_self, foldl_memories, implies_true, State.freeLeaf_memories, State.pinMove_memories, State.setLeaf_memories, State.failHolds_wf]; done)
    | (with_reducible refine State.failHolds_wf _ _ _ _ ?_)
    | (with_reducible refine foldl_wf _ _ _ ?_ (fun t x hwf => ?_))
    | (with_reducible refine foldl1_wf _ _ _ ?_ (fun t x hwf => ?_))
    | split
    | (simp only [State.freeLeaf_memories, State.pinMove_memories, State.setLeaf_memories])
    | (simp only [])
    | (simp only [memories_mk])
    | (simp only [memories_eta])

theorem trActs_wf (p code hint : Nat) (n : List Nat) (s : State) (hwf : s.memories.wf = true) : (trActs p code hint n s).1.memories.wf = true := by
  induction n generalizing s with
  | nil => first | rfl | exact hwf | (unfold trActs; split <;> first | rfl | assumption)
  | cons x l ih =>
    unfold trActs
    repeat' first
      | with_reducible assumption
      | (simp only [hwf, ite_memories, Memories.ite_wf, ite_self, foldl_memories, implies_true, State.trAct_wf, ih]; done)
      | (with_reducible refine State.trAct_wf _ _ _ _ _ ?_)
      | (with_reducible refine ih _ ?_)
      | (with_reducible refine foldl_wf _ _ _ ?_ (fun t x hwf => ?_))
      | (with_reducible refine foldl1_wf _ _ _ ?_ (fun t x hwf => ?_))
      | split
      | (simp only [])
      | (simp only [memories_mk])
      | (simp only [memories_eta])

theorem State.trResume_wf (s : State) (p : Nat) (hwf : s.memories.wf = true) : (State.trResume s p).memories.wf = true := by
  unfold State.trResume
  repeat' first
    | with_reducible assumption
    | (simp only [hwf, ite_memories, Memories.ite_wf, ite_self, foldl_memories, implies_true, State.modPrt_memories, State.sf_memories, State.placeTables_wf, trActs_wf]; done)
    | (with_reducible refine State.placeTables_wf _ ?_)
    | (with_reducible refine trActs_wf _ _ _ _ _ ?_)
    | (with_reducible refine foldl_wf _ _ _ ?_ (fun t x hwf => ?_))
    | (with_reducible refine foldl1_wf _ _ _ ?_ (fun t x hwf => ?_))
    | split
    | (simp only [State.modPrt_memories, State.sf_memories])
    | (simp only [])
    | (simp only [memories_mk])
    | (simp only [memories_eta])

theorem State.promotionComplete_wf (s : State) (p va : Nat) (rungs : List (Nat × Nat)) (hwf : s.memories.wf = true) : (State.promotionComplete s p va rungs).memories.wf = true := by
  unfold State.promotionComplete
  repeat' first
    | with_reducible assumption
    | (simp only [hwf, ite_memories, Memories.ite_wf, ite_self, foldl_memories, implies_true, State.bloomEnd_memories, State.settleMoves_memories, State.promoteInto_wf, State.trResume_wf]; done)
    | (with_reducible refine State.promoteInto_wf _ _ _ _ _ ?_)
    | (with_reducible refine State.trResume_wf _ _ ?_)
    | (with_reducible refine foldl_wf _ _ _ ?_ (fun t x hwf => ?_))
    | (with_reducible refine foldl1_wf _ _ _ ?_ (fun t x hwf => ?_))
    | split
    | (simp only [State.bloomEnd_memories, State.settleMoves_memories])
    | (simp only [])
    | (simp only [memories_mk])
    | (simp only [memories_eta])

theorem execPromotionComplete_wf (p va : Nat) (rungs : List (Nat × Nat)) (s : State) (t : State) (ht : execPromotionComplete p va rungs s = .next t) (hwf : s.memories.wf = true) : t.memories.wf = true := by
  injection ht with ht
  rw [← ht]
  repeat' first
    | with_reducible assumption
    | (simp only [hwf, ite_memories, Memories.ite_wf, ite_self, foldl_memories, implies_true, State.promotionComplete_wf]; done)
    | (with_reducible refine State.promotionComplete_wf _ _ _ _ ?_)
    | (with_reducible refine foldl_wf _ _ _ ?_ (fun t x hwf => ?_))
    | (with_reducible refine foldl1_wf _ _ _ ?_ (fun t x hwf => ?_))
    | split
    | (simp only [])
    | (simp only [memories_mk])
    | (simp only [memories_eta])

theorem State.lowWater_memories (s : State) (l : Leaf) (t : State) (ht : State.lowWater s l = some t) : t.memories = s.memories := by
  unfold State.lowWater at ht
  repeat' first
    | (cases ht; done)
    | (with_reducible injection ht with ht; rw [← ht]; exact lowPick_memories _ _ _ _)
    | split at ht
    | simp only [] at ht

theorem State.demoteGo_wf (s : State) (p : Nat) (l : Leaf) (va t : Nat) (hwf : s.memories.wf = true) : (State.demoteGo s p l va t).memories.wf = true := by
  unfold State.demoteGo
  repeat' first
    | with_reducible assumption
    | (simp only [hwf, ite_memories, Memories.ite_wf, ite_self, foldl_memories, implies_true, State.dropLeaf_memories, State.failMove_memories, State.setLeaf_memories, State.settleMoves_memories, State.placeFor_wf]; done)
    | (with_reducible refine State.placeFor_wf _ _ _ _ ?_)
    | (with_reducible refine foldl_wf _ _ _ ?_ (fun t x hwf => ?_))
    | (with_reducible refine foldl1_wf _ _ _ ?_ (fun t x hwf => ?_))
    | split
    | (simp only [State.dropLeaf_memories, State.failMove_memories, State.setLeaf_memories, State.settleMoves_memories])
    | (simp only [])
    | (simp only [memories_mk])
    | (simp only [memories_eta])

theorem State.pageDemotion_wf (s : State) (p va : Nat) (hwf : s.memories.wf = true) : (State.pageDemotion s p va).memories.wf = true := by
  unfold State.pageDemotion
  split
  · exact hwf
  split
  · exact hwf
  dsimp only
  split
  · exact hwf
  · rename_i x hx
    refine State.demoteGo_wf _ _ _ _ _ ?_
    split at hx
    · split at hx
      · cases hx; exact hwf
      · cases hx
    · obtain ⟨t, ht, rfl⟩ := Option.map_eq_some_iff.mp hx
      rw [State.lowWater_memories _ _ _ ht]; exact hwf

theorem execPageDemotion_wf (p va : Nat) (s : State) (t : State) (ht : execPageDemotion p va s = .next t) (hwf : s.memories.wf = true) : t.memories.wf = true := by
  injection ht with ht
  rw [← ht]
  simp only [hwf, State.pageDemotion_wf]

theorem State.demotionComplete_wf (s : State) (p va : Nat) (ok : Bool) (hwf : s.memories.wf = true) : (State.demotionComplete s p va ok).memories.wf = true := by
  unfold State.demotionComplete
  repeat' first
    | with_reducible assumption
    | (simp only [hwf, ite_memories, Memories.ite_wf, ite_self, foldl_memories, implies_true, State.failMove_memories, State.setLeaf_memories, State.settleMoves_memories, State.demoteInto_wf, State.trResume_wf]; done)
    | (with_reducible refine State.demoteInto_wf _ _ _ _ ?_)
    | (with_reducible refine State.trResume_wf _ _ ?_)
    | (with_reducible refine foldl_wf _ _ _ ?_ (fun t x hwf => ?_))
    | (with_reducible refine foldl1_wf _ _ _ ?_ (fun t x hwf => ?_))
    | split
    | (simp only [State.failMove_memories, State.setLeaf_memories, State.settleMoves_memories])
    | (simp only [])
    | (simp only [memories_mk])
    | (simp only [memories_eta])

theorem execDemotionComplete_wf (p va : Nat) (ok : Bool) (s : State) (t : State) (ht : execDemotionComplete p va ok s = .next t) (hwf : s.memories.wf = true) : t.memories.wf = true := by
  injection ht with ht
  rw [← ht]
  simp only [hwf, State.demotionComplete_wf]

theorem mapPages_wf (p : Nat) (l : List Nat) (s : State) (t : State) (ht : mapPages p l s = some t)
    (hwf : s.memories.wf = true) : t.memories.wf = true := by
  induction l generalizing s with
  | nil => cases ht; exact hwf
  | cons va l ih =>
    unfold mapPages at ht
    dsimp only at ht
    split at ht
    · cases ht
    · refine ih _ ht ?_
      have h2 := State.placeFor_wf s p (s.newLeaf p va) (s.newLeaf p va).tier hwf
      exact ite_wf _ _ _ (State.hopWrite_wf _ _ _ _ h2) (State.zeroMem_wf _ _ _ h2)

@[simp] theorem State.trRoot_memories (s : State) (p : Nat) : (State.trRoot s p).memories = s.memories := by
  unfold State.trRoot
  repeat' first
    | with_reducible rfl
    | (simp only [ite_memories, ite_self, foldl_memories, implies_true, State.setPair_memories]; done)
    | (with_reducible refine (foldl_memories _ _ _ (fun t x => ?_)).trans ?_)
    | (with_reducible refine (foldl1_memories _ _ _ (fun t x => ?_)).trans ?_)
    | split
    | (simp only [State.setPair_memories])
    | (simp only [])
    | (simp only [memories_mk])
    | (simp only [memories_eta])

theorem State.trRun_wf (s : State) (p code hint : Nat) (pages : List Nat) (hwf : s.memories.wf = true) : (State.trRun s p code hint pages).1.memories.wf = true := by
  unfold State.trRun
  repeat' first
    | with_reducible assumption
    | (simp only [hwf, ite_memories, Memories.ite_wf, ite_self, foldl_memories, implies_true, State.modPrt_memories, State.placeTables_wf, trActs_wf]; done)
    | (with_reducible refine State.placeTables_wf _ ?_)
    | (with_reducible refine trActs_wf _ _ _ _ _ ?_)
    | (with_reducible refine foldl_wf _ _ _ ?_ (fun t x hwf => ?_))
    | (with_reducible refine foldl1_wf _ _ _ ?_ (fun t x hwf => ?_))
    | split
    | (simp only [State.modPrt_memories])
    | (simp only [])
    | (simp only [memories_mk])
    | (simp only [memories_eta])

@[simp] theorem State.barRange_memories (s : State) (p : Nat) (pages : List Nat) : (State.barRange s p pages).memories = s.memories := by
  unfold State.barRange
  repeat' first
    | with_reducible rfl
    | (simp only [ite_memories, ite_self, foldl_memories, implies_true, State.modPrt_memories]; done)
    | (with_reducible refine (foldl_memories _ _ _ (fun t x => ?_)).trans ?_)
    | (with_reducible refine (foldl1_memories _ _ _ (fun t x => ?_)).trans ?_)
    | split
    | (simp only [State.modPrt_memories])
    | (simp only [])
    | (simp only [memories_mk])
    | (simp only [memories_eta])

theorem State.trDo_wf (s : State) (p code : Nat) (hwf : s.memories.wf = true) : (State.trDo s p code).1.memories.wf = true := by
  unfold State.trDo
  extract_lets pages
  split
  · split
    · exact hwf
    · rename_i u hu
      have h1 := mapPages_wf _ _ _ _ hu hwf
      extract_lets t
      split
      · exact hwf
      · exact (congrArg Memories.wf (State.trRoot_memories _ _)).trans (State.placeTables_wf _ h1)
  · exact State.trRun_wf _ _ _ _ _ hwf
  · split
    · exact hwf
    · split
      · exact hwf
      · exact (congrArg Memories.wf (State.modPrt_memories _ _ _)).trans hwf
  · split
    · exact hwf
    · exact State.trRun_wf _ _ _ _ _ hwf
  · exact (congrArg Memories.wf (State.wr_memories _ _ _ _)).trans hwf

theorem State.trCmd_wf (s : State) (r : Requester) (p code : Nat) (hwf : s.memories.wf = true) : (State.trCmd s r p code).memories.wf = true := by
  unfold State.trCmd
  repeat' first
    | with_reducible assumption
    | (simp only [hwf, ite_memories, Memories.ite_wf, ite_self, State.cmdCode_memories, State.trDo_wf]; done)
    | (with_reducible refine State.gate_wf _ _ _ _ _ ?_ (fun t  hwf => ?_))

theorem execTrMap_wf (r : Requester) (p : Nat) (s : State) (t : State) (ht : execTrMap r p s = .next t) (hwf : s.memories.wf = true) : t.memories.wf = true := by
  injection ht with ht
  rw [← ht]
  simp only [hwf, State.trCmd_wf]

theorem execTrUnmap_wf (r : Requester) (p : Nat) (s : State) (t : State) (ht : execTrUnmap r p s = .next t) (hwf : s.memories.wf = true) : t.memories.wf = true := by
  injection ht with ht
  rw [← ht]
  simp only [hwf, State.trCmd_wf]

theorem execTrMigrate_wf (r : Requester) (p : Nat) (s : State) (t : State) (ht : execTrMigrate r p s = .next t) (hwf : s.memories.wf = true) : t.memories.wf = true := by
  injection ht with ht
  rw [← ht]
  simp only [hwf, State.trCmd_wf]

theorem execTrHint_wf (r : Requester) (p : Nat) (s : State) (t : State) (ht : execTrHint r p s = .next t) (hwf : s.memories.wf = true) : t.memories.wf = true := by
  injection ht with ht
  rw [← ht]
  simp only [hwf, State.trCmd_wf]

theorem execTrQuery_wf (r : Requester) (p : Nat) (s : State) (t : State) (ht : execTrQuery r p s = .next t) (hwf : s.memories.wf = true) : t.memories.wf = true := by
  injection ht with ht
  rw [← ht]
  simp only [hwf, State.trCmd_wf]

theorem State.migrateComplete_wf (s0 : State) (p : Nat) (hwf : s0.memories.wf = true) : (State.migrateComplete s0 p).memories.wf = true := by
  unfold State.migrateComplete
  repeat' first
    | with_reducible assumption
    | (simp only [hwf, ite_memories, Memories.ite_wf, ite_self, foldl_memories, implies_true, State.modPrt_memories, State.settleMoves_memories, State.sf_memories, State.trResume_wf]; done)
    | (with_reducible refine State.trResume_wf _ _ ?_)
    | (with_reducible refine foldl_wf _ _ _ ?_ (fun t x hwf => ?_))
    | (with_reducible refine foldl1_wf _ _ _ ?_ (fun t x hwf => ?_))
    | split
    | (simp only [State.modPrt_memories, State.settleMoves_memories, State.sf_memories])
    | (simp only [])
    | (simp only [memories_mk])
    | (simp only [memories_eta])

theorem execMigrateComplete_wf (p : Nat) (s : State) (t : State) (ht : execMigrateComplete p s = .next t) (hwf : s.memories.wf = true) : t.memories.wf = true := by
  injection ht with ht
  rw [← ht]
  repeat' first
    | with_reducible assumption
    | (simp only [hwf, ite_memories, Memories.ite_wf, ite_self, foldl_memories, implies_true, State.migrateComplete_wf]; done)
    | (with_reducible refine State.migrateComplete_wf _ _ ?_)
    | (with_reducible refine foldl_wf _ _ _ ?_ (fun t x hwf => ?_))
    | (with_reducible refine foldl1_wf _ _ _ ?_ (fun t x hwf => ?_))
    | split
    | (simp only [])
    | (simp only [memories_mk])
    | (simp only [memories_eta])

@[simp] theorem State.pfFail_memories (s : State) (p i : Nat) (x : PfEnt) : (State.pfFail s p i x).memories = s.memories := by
  unfold State.pfFail
  simp only [ite_memories, ite_self, State.report_memories, State.sbInc_memories, State.sf_memories]

@[simp] theorem State.pfMoves_memories (s : State) (p : Nat) (x : PfEnt) : (State.pfMoves s p x).memories = s.memories := by
  unfold State.pfMoves
  repeat' first
    | split
    | (simp only [])
    | (simp only [memories_mk])
    | (simp only [memories_eta])

@[simp] theorem State.showStages_memories (s : State) (p : Nat) : (State.showStages s p).memories = s.memories := by
  unfold State.showStages
  simp only [State.sf_memories]

@[simp] theorem State.pfRead_memories (s : State) (p i : Nat) : (State.pfRead s p i).memories = s.memories := by
  unfold State.pfRead
  repeat' first
    | with_reducible rfl
    | (simp only [ite_memories, ite_self, foldl_memories, implies_true, State.noteEc_memories, State.noteUc_memories]; done)
    | (with_reducible refine (foldl_memories _ _ _ (fun t x => ?_)).trans ?_)
    | (with_reducible refine (foldl1_memories _ _ _ (fun t x => ?_)).trans ?_)
    | split
    | (simp only [State.noteEc_memories, State.noteUc_memories])
    | (simp only [])
    | (simp only [memories_mk])
    | (simp only [memories_eta])

@[simp] theorem pfWalk_memories (p mark : Nat) (n : Nat) (s : State) : (pfWalk p mark n s).memories = s.memories := by
  induction n generalizing s with
  | zero => first | rfl | exact hwf | (unfold pfWalk; split <;> first | rfl | assumption)
  | succ n ih =>
    unfold pfWalk
    repeat' first
      | with_reducible rfl
      | (simp only [ite_memories, ite_self, foldl_memories, implies_true, State.bloomAsk_memories, State.expect_memories, State.newUid_memories, State.pfFail_memories, State.pfMoves_memories, State.pfRead_memories, State.sf_memories, State.showStages_memories, ih]; done)
      | (with_reducible refine (foldl_memories _ _ _ (fun t x => ?_)).trans ?_)
      | (with_reducible refine (foldl1_memories _ _ _ (fun t x => ?_)).trans ?_)
      | split
      | (simp only [State.bloomAsk_memories, State.expect_memories, State.newUid_memories, State.pfFail_memories, State.pfMoves_memories, State.pfRead_memories, State.sf_memories, State.showStages_memories, ih])
      | (simp only [])
      | (simp only [memories_mk])
      | (simp only [memories_eta])

@[simp] theorem State.cursorPoll_memories (s0 : State) (p : Nat) : (State.cursorPoll s0 p).memories = s0.memories := by
  unfold State.cursorPoll
  repeat' first
    | with_reducible rfl
    | (simp only [ite_memories, ite_self, foldl_memories, implies_true, State.noteEc_memories, State.noteUc_memories, State.sf_memories, pfWalk_memories]; done)
    | (with_reducible refine (foldl_memories _ _ _ (fun t x => ?_)).trans ?_)
    | (with_reducible refine (foldl1_memories _ _ _ (fun t x => ?_)).trans ?_)
    | split
    | (simp only [State.noteEc_memories, State.noteUc_memories, State.sf_memories, pfWalk_memories])
    | (simp only [])
    | (simp only [memories_mk])
    | (simp only [memories_eta])

theorem execCursorPoll_memories (p : Nat) (s : State) (t : State) (ht : execCursorPoll p s = .next t) : t.memories = s.memories := by
  injection ht with ht
  rw [← ht]
  simp only [State.cursorPoll_memories]

@[simp] theorem State.stageRead_memories (s : State) (uid va n : Nat) (rungs : List (Nat × Nat)) (l : Leaf) : (State.stageRead s uid va n rungs l).1.memories = s.memories := by
  unfold State.stageRead
  repeat' first
    | with_reducible rfl
    | (simp only [ite_memories, ite_self, foldl_memories, implies_true, State.blmReason_memories, State.hopReads_memories, State.noteEc_memories, State.noteUc_memories, State.tampered_memories]; done)
    | (with_reducible refine (foldl_memories _ _ _ (fun t x => ?_)).trans ?_)
    | (with_reducible refine (foldl1_memories _ _ _ (fun t x => ?_)).trans ?_)
    | split
    | (simp only [State.blmReason_memories, State.hopReads_memories, State.noteEc_memories, State.noteUc_memories, State.tampered_memories])
    | (simp only [])
    | (simp only [memories_mk])
    | (simp only [memories_eta])

@[simp] theorem stageReads_memories (uid va n : Nat) (rungs : List (Nat × Nat)) (l : List Leaf) (s : State) : (stageReads uid va n rungs l s).1.memories = s.memories := by
  induction l generalizing s with
  | nil => first | rfl | exact hwf | (unfold stageReads; split <;> first | rfl | assumption)
  | cons x l ih =>
    unfold stageReads
    repeat' first
      | with_reducible rfl
      | (simp only [ite_memories, ite_self, foldl_memories, implies_true, State.stageRead_memories, ih]; done)
      | (with_reducible refine (foldl_memories _ _ _ (fun t x => ?_)).trans ?_)
      | (with_reducible refine (foldl1_memories _ _ _ (fun t x => ?_)).trans ?_)
      | split
      | (simp only [State.stageRead_memories, ih])
      | (simp only [])
      | (simp only [memories_mk])
      | (simp only [memories_eta])

@[simp] theorem stageExpand_memories (uid : Nat) (n : Nat) (s : State) : (stageExpand uid n s).memories = s.memories := by
  induction n generalizing s with
  | zero => first | rfl | exact hwf | (unfold stageExpand; split <;> first | rfl | assumption)
  | succ n ih =>
    unfold stageExpand
    repeat' first
      | with_reducible rfl
      | (simp only [ite_memories, ite_self, foldl_memories, implies_true, State.bloomFree_memories, ih]; done)
      | (with_reducible refine (foldl_memories _ _ _ (fun t x => ?_)).trans ?_)
      | (with_reducible refine (foldl1_memories _ _ _ (fun t x => ?_)).trans ?_)
      | split
      | (simp only [State.bloomFree_memories, ih])
      | (simp only [])
      | (simp only [memories_mk])
      | (simp only [memories_eta])

theorem State.stageComplete_wf (s : State) (p idx : Nat) (rungs : List (Nat × Nat)) (hwf : s.memories.wf = true) : (State.stageComplete s p idx rungs).memories.wf = true := by
  unfold State.stageComplete
  repeat' first
    | with_reducible assumption
    | (simp only [hwf, ite_memories, Memories.ite_wf, ite_self, foldl_memories, implies_true, State.arrivedAll_memories, State.fresh_memories, State.noteDelay_memories, State.sbInc_memories, State.showStages_memories, pfWalk_memories, stageExpand_memories, stageReads_memories, State.writeRow_wf]; done)
    | (with_reducible refine State.writeRow_wf _ _ _ _ ?_)
    | (with_reducible refine foldl_wf _ _ _ ?_ (fun t x hwf => ?_))
    | (with_reducible refine foldl1_wf _ _ _ ?_ (fun t x hwf => ?_))
    | split
    | (simp only [State.arrivedAll_memories, State.fresh_memories, State.noteDelay_memories, State.sbInc_memories, State.showStages_memories, pfWalk_memories, stageExpand_memories, stageReads_memories])
    | (simp only [])
    | (simp only [memories_mk])
    | (simp only [memories_eta])

theorem execStageComplete_wf (p idx : Nat) (rungs : List (Nat × Nat)) (s : State) (t : State) (ht : execStageComplete p idx rungs s = .next t) (hwf : s.memories.wf = true) : t.memories.wf = true := by
  injection ht with ht
  rw [← ht]
  repeat' first
    | with_reducible assumption
    | (simp only [hwf, ite_memories, Memories.ite_wf, ite_self, foldl_memories, implies_true, State.stageComplete_wf]; done)
    | (with_reducible refine State.stageComplete_wf _ _ _ _ ?_)
    | (with_reducible refine foldl_wf _ _ _ ?_ (fun t x hwf => ?_))
    | (with_reducible refine foldl1_wf _ _ _ ?_ (fun t x hwf => ?_))
    | split
    | (simp only [])
    | (simp only [memories_mk])
    | (simp only [memories_eta])

@[simp] theorem State.pfCtlWrite_memories (s : State) (r : Requester) (p be : Nat) (val : Word) : (State.pfCtlWrite s r p be val).memories = s.memories := by
  unfold State.pfCtlWrite
  simp only [ite_memories, ite_self, implies_true, State.gate_memories, State.mergeReg_memories, State.report_memories, State.sf_memories]

theorem execPfCtlWrite_memories (r : Requester) (p be : Nat) (val : Word) (s : State) (t : State) (ht : execPfCtlWrite r p be val s = .next t) : t.memories = s.memories := by
  injection ht with ht
  rw [← ht]
  simp only [State.pfCtlWrite_memories]

@[simp] theorem State.pfWrite_memories (s : State) (r : Requester) (p : Nat) (c : Card) (put : State → State) (hput : ∀ t , (put t ).memories = t.memories) : (State.pfWrite s r p c put).memories = s.memories := by
  unfold State.pfWrite
  simp only [ite_memories, ite_self, implies_true, State.gate_memories, State.report_memories, hput]

theorem State.pfWrite_wf (s : State) (r : Requester) (p : Nat) (c : Card) (put : State → State) (hwf : s.memories.wf = true) (hput : ∀ t , t.memories.wf = true → (put t ).memories.wf = true) : (State.pfWrite s r p c put).memories.wf = true := by
  unfold State.pfWrite
  repeat' first
    | with_reducible assumption
    | (simp only [hwf, ite_memories, Memories.ite_wf, ite_self, State.report_memories, hput]; done)
    | (with_reducible refine State.gate_wf _ _ _ _ _ ?_ (fun t  hwf => ?_))

theorem execPfAddressWrite_memories (r : Requester) (p off be : Nat) (val : Word) (s : State) (t : State) (ht : execPfAddressWrite r p off be val s = .next t) : t.memories = s.memories := by
  injection ht with ht
  rw [← ht]
  repeat' first
    | with_reducible rfl
    | (simp only [ite_memories, ite_self, foldl_memories, implies_true, State.pfWrite_memories, State.write4_memories]; done)
    | (with_reducible refine (foldl_memories _ _ _ (fun t x => ?_)).trans ?_)
    | (with_reducible refine (foldl1_memories _ _ _ (fun t x => ?_)).trans ?_)
    | (with_reducible refine State.write4_memories _ _ _ _ _ _ _ (fun c g t hg => ?_))
    | (simp only [implies_true, hg, State.pfWrite_memories, State.write4_memories]; done)
    | split
    | (simp only [State.pfWrite_memories, State.write4_memories])
    | (simp only [])
    | (simp only [memories_mk])
    | (simp only [memories_eta])

@[simp] theorem State.resetTiers_memories (s : State) (p : Nat) : (State.resetTiers s p).memories = s.memories := by
  unfold State.resetTiers
  repeat' first
    | with_reducible rfl
    | (simp only [ite_memories, ite_self, foldl_memories, implies_true, State.bloomShow_memories, State.endHold_memories, State.freeLeaf_memories]; done)
    | (with_reducible refine (foldl_memories _ _ _ (fun t x => ?_)).trans ?_)
    | (with_reducible refine (foldl1_memories _ _ _ (fun t x => ?_)).trans ?_)
    | split
    | (simp only [State.bloomShow_memories, State.endHold_memories, State.freeLeaf_memories])
    | (simp only [])
    | (simp only [memories_mk])
    | (simp only [memories_eta])

/-! ### Hopper -/

theorem State.blmExpand_wf (s : State) (r : Requester) (hwf : s.memories.wf = true) : (State.blmExpand s r).memories.wf = true := by
  unfold State.blmExpand
  repeat' first
    | with_reducible assumption
    | (simp only [hwf, ite_memories, Memories.ite_wf, ite_self, foldl_memories, implies_true, State.bloomAsk_memories, State.cmdCode_memories, State.gate_memories, State.gate_wf]; done)
    | (with_reducible refine State.gate_wf _ _ _ _ _ ?_ (fun t hwf => ?_))
    | (with_reducible refine foldl_wf _ _ _ ?_ (fun t x hwf => ?_))
    | (with_reducible refine foldl1_wf _ _ _ ?_ (fun t x hwf => ?_))
    | split
    | (simp only [State.bloomAsk_memories, State.cmdCode_memories, State.gate_memories])
    | (simp only [])
    | (simp only [memories_mk])
    | (simp only [memories_eta])

theorem execBlmExpand_wf (r : Requester) (s : State) (t : State) (ht : execBlmExpand r s = .next t) (hwf : s.memories.wf = true) : t.memories.wf = true := by
  injection ht with ht
  rw [← ht]
  repeat' first
    | with_reducible assumption
    | (simp only [hwf, ite_memories, Memories.ite_wf, ite_self, foldl_memories, implies_true, State.blmExpand_wf]; done)
    | (with_reducible refine State.blmExpand_wf _ _ ?_)
    | (with_reducible refine foldl_wf _ _ _ ?_ (fun t x hwf => ?_))
    | (with_reducible refine foldl1_wf _ _ _ ?_ (fun t x hwf => ?_))
    | split
    | (simp only [])
    | (simp only [memories_mk])
    | (simp only [memories_eta])

theorem State.blmDone_wf (s : State) (hwf : s.memories.wf = true) : (State.blmDone s).memories.wf = true := by
  unfold State.blmDone
  repeat' first
    | with_reducible assumption
    | (simp only [hwf, ite_memories, Memories.ite_wf, ite_self, foldl_memories, implies_true, State.blmReason_memories, State.bloomEnd_memories, State.cmdCode_memories, State.fresh_memories, State.reportUc_memories, State.wr_memories, State.freeRanges_wf, State.writeMem_wf]; done)
    | (with_reducible refine State.freeRanges_wf _ _ ?_)
    | (with_reducible refine State.writeMem_wf _ _ _ ?_)
    | (with_reducible refine foldl_wf _ _ _ ?_ (fun t x hwf => ?_))
    | (with_reducible refine foldl1_wf _ _ _ ?_ (fun t x hwf => ?_))
    | split
    | (simp only [State.blmReason_memories, State.bloomEnd_memories, State.cmdCode_memories, State.fresh_memories, State.reportUc_memories, State.wr_memories])
    | (simp only [])
    | (simp only [memories_mk])
    | (simp only [memories_eta])

theorem execBlmExpandDone_wf (s : State) (t : State) (ht : execBlmExpandDone s = .next t) (hwf : s.memories.wf = true) : t.memories.wf = true := by
  injection ht with ht
  rw [← ht]
  simp only [hwf, State.blmDone_wf]

@[simp] theorem State.setHop_memories (s : State) (st reason : Nat) : (State.setHop s st reason).memories = s.memories := by
  unfold State.setHop
  repeat' first
    | with_reducible rfl
    | (simp only [ite_memories, ite_self, foldl_memories, implies_true, State.bumpBy_memories, State.modFlash_memories, State.sf_memories]; done)
    | (with_reducible refine (foldl_memories _ _ _ (fun t x => ?_)).trans ?_)
    | (with_reducible refine (foldl1_memories _ _ _ (fun t x => ?_)).trans ?_)
    | split
    | (simp only [State.bumpBy_memories, State.modFlash_memories, State.sf_memories])
    | (simp only [])
    | (simp only [memories_mk])
    | (simp only [memories_eta])

@[simp] theorem State.hopCheck_memories (s : State) : (State.hopCheck s).memories = s.memories := by
  unfold State.hopCheck
  simp only [ite_memories, ite_self, State.setHop_memories, State.setN_memories]

@[simp] theorem State.hopOnline_memories (s : State) : (State.hopOnline s).memories = s.memories := by
  unfold State.hopOnline
  repeat' first
    | with_reducible rfl
    | (simp only [ite_memories, ite_self, foldl_memories, implies_true, State.hopCheck_memories, State.setHop_memories, State.setN_memories]; done)
    | (with_reducible refine (foldl_memories _ _ _ (fun t x => ?_)).trans ?_)
    | (with_reducible refine (foldl1_memories _ _ _ (fun t x => ?_)).trans ?_)
    | split
    | (simp only [State.hopCheck_memories, State.setHop_memories, State.setN_memories])
    | (simp only [])
    | (simp only [memories_mk])
    | (simp only [memories_eta])

@[simp] theorem State.hopMount_memories (s : State) (nand : Nand) : (State.hopMount s nand).memories = s.memories := by
  unfold State.hopMount
  repeat' first
    | with_reducible rfl
    | (simp only [ite_memories, ite_self, foldl_memories, implies_true, State.hopOnline_memories, State.modBlk_memories, State.modFlash_memories, State.report_memories, State.setHop_memories, State.setN_memories, State.sf_memories]; done)
    | (with_reducible refine (foldl_memories _ _ _ (fun t x => ?_)).trans ?_)
    | (with_reducible refine (foldl1_memories _ _ _ (fun t x => ?_)).trans ?_)
    | split
    | (simp only [State.hopOnline_memories, State.modBlk_memories, State.modFlash_memories, State.report_memories, State.setHop_memories, State.setN_memories, State.sf_memories])
    | (simp only [])
    | (simp only [memories_mk])
    | (simp only [memories_eta])

theorem execHopperMount_memories (nand : Nand) (s : State) (t : State) (ht : execHopperMount nand s = .next t) : t.memories = s.memories := by
  injection ht with ht
  rw [← ht]
  simp only [State.hopMount_memories]

@[simp] theorem State.hopFormat_memories (s : State) (r : Requester) : (State.hopFormat s r).memories = s.memories := by
  unfold State.hopFormat
  repeat' first
    | with_reducible rfl
    | (simp only [ite_memories, ite_self, foldl_memories, implies_true, State.cmdDone_memories, State.gate_memories, State.modFlash_memories, State.setHop_memories]; done)
    | (with_reducible refine (foldl_memories _ _ _ (fun t x => ?_)).trans ?_)
    | (with_reducible refine (foldl1_memories _ _ _ (fun t x => ?_)).trans ?_)
    | split
    | (simp only [State.cmdDone_memories, State.gate_memories, State.modFlash_memories, State.setHop_memories])
    | (simp only [])
    | (simp only [memories_mk])
    | (simp only [memories_eta])

theorem execHopFormat_memories (r : Requester) (s : State) (t : State) (ht : execHopFormat r s = .next t) : t.memories = s.memories := by
  injection ht with ht
  rw [← ht]
  simp only [State.hopFormat_memories]

theorem hopErased_wf (s : State) (hwf : s.memories.wf = true) :
    (Memories.mk s.mem s.imem s.sram s.lost [] s.host s.boot.nor s.apxReq s.apxRsp).wf = true := by
  rw [Memories.wf_iff] at hwf ⊢
  exact ⟨hwf.1, hwf.2.1, hwf.2.2.1, rfl, hwf.2.2.2.2⟩

theorem State.formatDone_wf (s : State) (hwf : s.memories.wf = true) : (State.formatDone s).memories.wf = true := by
  unfold State.formatDone
  refine ite_wf _ _ _ hwf ?_
  simp only [ite_memories, State.sf_memories, State.hopOnline_memories, State.modFlash_memories, memories_mk, ite_self]
  exact hopErased_wf s hwf

theorem execFormatDone_wf (s : State) (t : State) (ht : execFormatDone s = .next t) (hwf : s.memories.wf = true) : t.memories.wf = true := by
  injection ht with ht
  rw [← ht]
  simp only [hwf, State.formatDone_wf]

@[simp] theorem State.relocate_memories (s : State) (b why : Nat) : (State.relocate s b why).memories = s.memories := by
  unfold State.relocate
  repeat' first
    | with_reducible rfl
    | (simp only [ite_memories, ite_self, foldl_memories, implies_true, State.bump_memories, State.modBlk_memories, State.modFlash_memories]; done)
    | (with_reducible refine (foldl_memories _ _ _ (fun t x => ?_)).trans ?_)
    | (with_reducible refine (foldl1_memories _ _ _ (fun t x => ?_)).trans ?_)
    | split
    | (simp only [State.bump_memories, State.modBlk_memories, State.modFlash_memories])
    | (simp only [])
    | (simp only [memories_mk])
    | (simp only [memories_eta])

@[simp] theorem State.eraseBlk_memories (s : State) (b : Nat) : (State.eraseBlk s b).memories = s.memories := by
  unfold State.eraseBlk
  repeat' first
    | with_reducible rfl
    | (simp only [ite_memories, ite_self, foldl_memories, implies_true, State.hopCheck_memories, State.modBlk_memories, State.modFlash_memories, State.writeParity_memories]; done)
    | (with_reducible refine (foldl_memories _ _ _ (fun t x => ?_)).trans ?_)
    | (with_reducible refine (foldl1_memories _ _ _ (fun t x => ?_)).trans ?_)
    | split
    | (simp only [State.hopCheck_memories, State.modBlk_memories, State.modFlash_memories, State.writeParity_memories])
    | (simp only [])
    | (simp only [memories_mk])
    | (simp only [memories_eta])

@[simp] theorem State.unitCommit_memories (s : State) (u rung : Nat) : (State.unitCommit s u rung).memories = s.memories := by
  unfold State.unitCommit
  repeat' first
    | with_reducible rfl
    | (simp only [ite_memories, ite_self, foldl_memories, implies_true, State.eraseBlk_memories, State.placeIn_memories, State.readUnit_memories, State.unplace_memories]; done)
    | (with_reducible refine (foldl_memories _ _ _ (fun t x => ?_)).trans ?_)
    | (with_reducible refine (foldl1_memories _ _ _ (fun t x => ?_)).trans ?_)
    | split
    | (simp only [State.eraseBlk_memories, State.placeIn_memories, State.readUnit_memories, State.unplace_memories])
    | (simp only [])
    | (simp only [memories_mk])
    | (simp only [memories_eta])

theorem execUnitMoveCommit_memories (unit : UnitRead) (s : State) (t : State) (ht : execUnitMoveCommit unit s = .next t) : t.memories = s.memories := by
  injection ht with ht
  rw [← ht]
  repeat' first
    | with_reducible rfl
    | (simp only [ite_memories, ite_self, foldl_memories, implies_true, State.unitCommit_memories]; done)
    | (with_reducible refine (foldl_memories _ _ _ (fun t x => ?_)).trans ?_)
    | (with_reducible refine (foldl1_memories _ _ _ (fun t x => ?_)).trans ?_)
    | split
    | (simp only [State.unitCommit_memories])
    | (simp only [])
    | (simp only [memories_mk])
    | (simp only [memories_eta])

@[simp] theorem State.refreshBlk_memories (s : State) (b : Nat) : (State.refreshBlk s b).memories = s.memories := by
  unfold State.refreshBlk
  repeat' first
    | with_reducible rfl
    | (simp only [ite_memories, ite_self, foldl_memories, implies_true, State.relocate_memories]; done)
    | (with_reducible refine (foldl_memories _ _ _ (fun t x => ?_)).trans ?_)
    | (with_reducible refine (foldl1_memories _ _ _ (fun t x => ?_)).trans ?_)
    | split
    | (simp only [State.relocate_memories])
    | (simp only [])
    | (simp only [memories_mk])
    | (simp only [memories_eta])

@[simp] theorem State.scanBlock_memories (s : State) (b rung corrected : Nat) : (State.scanBlock s b rung corrected).memories = s.memories := by
  unfold State.scanBlock
  repeat' first
    | with_reducible rfl
    | (simp only [ite_memories, ite_self, foldl_memories, implies_true, State.bump_memories, State.modFlash_memories, State.readUnit_memories, State.refreshBlk_memories, State.sf_memories]; done)
    | (with_reducible refine (foldl_memories _ _ _ (fun t x => ?_)).trans ?_)
    | (with_reducible refine (foldl1_memories _ _ _ (fun t x => ?_)).trans ?_)
    | split
    | (simp only [State.bump_memories, State.modFlash_memories, State.readUnit_memories, State.refreshBlk_memories, State.sf_memories])
    | (simp only [])
    | (simp only [memories_mk])
    | (simp only [memories_eta])

theorem execScanInterval_memories (blk rung corrected : Nat) (s : State) (t : State) (ht : execScanInterval blk rung corrected s = .next t) : t.memories = s.memories := by
  injection ht with ht
  rw [← ht]
  simp only [State.scanBlock_memories]

@[simp] theorem State.hopScan_memories (s : State) (r : Requester) : (State.hopScan s r).memories = s.memories := by
  unfold State.hopScan
  repeat' first
    | with_reducible rfl
    | (simp only [ite_memories, ite_self, foldl_memories, implies_true, State.cmdDone_memories, State.gate_memories, State.modFlash_memories]; done)
    | (with_reducible refine (foldl_memories _ _ _ (fun t x => ?_)).trans ?_)
    | (with_reducible refine (foldl1_memories _ _ _ (fun t x => ?_)).trans ?_)
    | split
    | (simp only [State.cmdDone_memories, State.gate_memories, State.modFlash_memories])
    | (simp only [])
    | (simp only [memories_mk])
    | (simp only [memories_eta])

theorem execHopScan_memories (r : Requester) (s : State) (t : State) (ht : execHopScan r s = .next t) : t.memories = s.memories := by
  injection ht with ht
  rw [← ht]
  repeat' first
    | with_reducible rfl
    | (simp only [ite_memories, ite_self, foldl_memories, implies_true, State.hopScan_memories]; done)
    | (with_reducible refine (foldl_memories _ _ _ (fun t x => ?_)).trans ?_)
    | (with_reducible refine (foldl1_memories _ _ _ (fun t x => ?_)).trans ?_)
    | split
    | (simp only [State.hopScan_memories])
    | (simp only [])
    | (simp only [memories_mk])
    | (simp only [memories_eta])

@[simp] theorem State.readDisturb_memories (s : State) (b : Nat) : (State.readDisturb s b).memories = s.memories := by
  unfold State.readDisturb
  simp only [ite_memories, ite_self, State.bump_memories, State.relocate_memories]

theorem execReadDisturbRelocate_memories (blk : Nat) (s : State) (t : State) (ht : execReadDisturbRelocate blk s = .next t) : t.memories = s.memories := by
  injection ht with ht
  rw [← ht]
  simp only [State.readDisturb_memories]

@[simp] theorem State.wearMove_memories (s : State) (die : Nat) : (State.wearMove s die).memories = s.memories := by
  unfold State.wearMove
  repeat' first
    | with_reducible rfl
    | (simp only [ite_memories, ite_self, foldl_memories, implies_true, State.eraseBlk_memories, State.relocate_memories]; done)
    | (with_reducible refine (foldl_memories _ _ _ (fun t x => ?_)).trans ?_)
    | (with_reducible refine (foldl1_memories _ _ _ (fun t x => ?_)).trans ?_)
    | split
    | (simp only [State.eraseBlk_memories, State.relocate_memories])
    | (simp only [])
    | (simp only [memories_mk])
    | (simp only [memories_eta])

theorem execWearLevelMove_wf (die : Nat) (s : State) (t : State) (ht : execWearLevelMove die s = .next t) (hwf : s.memories.wf = true) : t.memories.wf = true := by
  obtain rfl : s.wearMove die = t := Host.Outcome.next.inj ht
  exact (congrArg Memories.wf (State.wearMove_memories s die)).trans hwf

@[simp] theorem State.collect_memories (s0 : State) (b : Nat) : (State.collect s0 b).memories = s0.memories := by
  unfold State.collect
  repeat' first
    | with_reducible rfl
    | (simp only [ite_memories, ite_self, foldl_memories, implies_true, State.closeBands_memories, State.eraseBlk_memories, State.refreshBlk_memories, State.relocate_memories]; done)
    | (with_reducible refine (foldl_memories _ _ _ (fun t x => ?_)).trans ?_)
    | (with_reducible refine (foldl1_memories _ _ _ (fun t x => ?_)).trans ?_)
    | split
    | (simp only [State.closeBands_memories, State.eraseBlk_memories, State.refreshBlk_memories, State.relocate_memories])
    | (simp only [])
    | (simp only [memories_mk])
    | (simp only [memories_eta])

theorem execCollection_memories (blk : Nat) (s : State) (t : State) (ht : execCollection blk s = .next t) : t.memories = s.memories := by
  injection ht with ht
  rw [← ht]
  simp only [State.collect_memories]

@[simp] theorem State.rebuildUnits_memories (s : State) (us : List Nat) (rungs : List (Nat × Nat)) : (State.rebuildUnits s us rungs).memories = s.memories := by
  unfold State.rebuildUnits
  repeat' first
    | with_reducible rfl
    | (simp only [ite_memories, ite_self, foldl_memories, implies_true, State.bump_memories, State.placeUnit_memories, State.stripeReads_memories, State.unplace_memories]; done)
    | (with_reducible refine (foldl_memories _ _ _ (fun t x => ?_)).trans ?_)
    | (with_reducible refine (foldl1_memories _ _ _ (fun t x => ?_)).trans ?_)
    | split
    | (simp only [State.bump_memories, State.placeUnit_memories, State.stripeReads_memories, State.unplace_memories])
    | (simp only [])
    | (simp only [memories_mk])
    | (simp only [memories_eta])

@[simp] theorem State.moveParity_memories (s : State) (gone : Nat → Bool) : (State.moveParity s gone).memories = s.memories := by
  unfold State.moveParity
  repeat' first
    | with_reducible rfl
    | (simp only [ite_memories, ite_self, foldl_memories, implies_true, State.writeParity_memories]; done)
    | (with_reducible refine (foldl_memories _ _ _ (fun t x => ?_)).trans ?_)
    | (with_reducible refine (foldl1_memories _ _ _ (fun t x => ?_)).trans ?_)
    | split
    | (simp only [State.writeParity_memories])
    | (simp only [])
    | (simp only [memories_mk])
    | (simp only [memories_eta])

@[simp] theorem State.closeBlocks_memories (s : State) (gone : Nat → Bool) : (State.closeBlocks s gone).memories = s.memories := by
  unfold State.closeBlocks
  repeat' first
    | with_reducible rfl
    | (simp only [ite_memories, ite_self, foldl_memories, implies_true, State.modFlash_memories]; done)
    | (with_reducible refine (foldl_memories _ _ _ (fun t x => ?_)).trans ?_)
    | (with_reducible refine (foldl1_memories _ _ _ (fun t x => ?_)).trans ?_)
    | split
    | (simp only [State.modFlash_memories])
    | (simp only [])
    | (simp only [memories_mk])
    | (simp only [memories_eta])

@[simp] theorem State.dieRetire_memories (s : State) (die : Nat) (rungs : List (Nat × Nat)) : (State.dieRetire s die rungs).memories = s.memories := by
  unfold State.dieRetire
  repeat' first
    | with_reducible rfl
    | (simp only [ite_memories, ite_self, foldl_memories, implies_true, State.closeBlocks_memories, State.modBlk_memories, State.moveParity_memories, State.rebuildUnits_memories]; done)
    | (with_reducible refine (foldl_memories _ _ _ (fun t x => ?_)).trans ?_)
    | (with_reducible refine (foldl1_memories _ _ _ (fun t x => ?_)).trans ?_)
    | split
    | (simp only [State.closeBlocks_memories, State.modBlk_memories, State.moveParity_memories, State.rebuildUnits_memories])
    | (simp only [])
    | (simp only [memories_mk])
    | (simp only [memories_eta])

@[simp] theorem State.programFailure_memories (s : State) (b : Nat) (rungs : List (Nat × Nat)) : (State.programFailure s b rungs).memories = s.memories := by
  unfold State.programFailure
  repeat' first
    | with_reducible rfl
    | (simp only [ite_memories, ite_self, foldl_memories, implies_true, State.bump_memories, State.closeBlocks_memories, State.dieRetire_memories, State.hopCheck_memories, State.modBlk_memories, State.moveParity_memories, State.placeUnit_memories, State.readUnits_memories, State.report_memories, State.unplace_memories]; done)
    | (with_reducible refine (foldl_memories _ _ _ (fun t x => ?_)).trans ?_)
    | (with_reducible refine (foldl1_memories _ _ _ (fun t x => ?_)).trans ?_)
    | split
    | (simp only [State.bump_memories, State.closeBlocks_memories, State.dieRetire_memories, State.hopCheck_memories, State.modBlk_memories, State.moveParity_memories, State.placeUnit_memories, State.readUnits_memories, State.report_memories, State.unplace_memories])
    | (simp only [])
    | (simp only [memories_mk])
    | (simp only [memories_eta])

theorem execProgramFailure_memories (blk : MediaLoss) (s : State) (t : State) (ht : execProgramFailure blk s = .next t) : t.memories = s.memories := by
  injection ht with ht
  rw [← ht]
  repeat' first
    | with_reducible rfl
    | (simp only [ite_memories, ite_self, foldl_memories, implies_true, State.programFailure_memories]; done)
    | (with_reducible refine (foldl_memories _ _ _ (fun t x => ?_)).trans ?_)
    | (with_reducible refine (foldl1_memories _ _ _ (fun t x => ?_)).trans ?_)
    | split
    | (simp only [State.programFailure_memories])
    | (simp only [])
    | (simp only [memories_mk])
    | (simp only [memories_eta])

@[simp] theorem State.channelRetire_memories (s : State) (ch : Nat) (rungs : List (Nat × Nat)) : (State.channelRetire s ch rungs).memories = s.memories := by
  unfold State.channelRetire
  repeat' first
    | with_reducible rfl
    | (simp only [ite_memories, ite_self, foldl_memories, implies_true, State.closeBlocks_memories, State.hopCheck_memories, State.modFlash_memories, State.moveParity_memories, State.rebuildUnits_memories, State.report_memories, State.sf_memories]; done)
    | (with_reducible refine (foldl_memories _ _ _ (fun t x => ?_)).trans ?_)
    | (with_reducible refine (foldl1_memories _ _ _ (fun t x => ?_)).trans ?_)
    | split
    | (simp only [State.closeBlocks_memories, State.hopCheck_memories, State.modFlash_memories, State.moveParity_memories, State.rebuildUnits_memories, State.report_memories, State.sf_memories])
    | (simp only [])
    | (simp only [memories_mk])
    | (simp only [memories_eta])

theorem execChannelRetire_memories (ch : MediaLoss) (s : State) (t : State) (ht : execChannelRetire ch s = .next t) : t.memories = s.memories := by
  injection ht with ht
  rw [← ht]
  repeat' first
    | with_reducible rfl
    | (simp only [ite_memories, ite_self, foldl_memories, implies_true, State.channelRetire_memories]; done)
    | (with_reducible refine (foldl_memories _ _ _ (fun t x => ?_)).trans ?_)
    | (with_reducible refine (foldl1_memories _ _ _ (fun t x => ?_)).trans ?_)
    | split
    | (simp only [State.channelRetire_memories])
    | (simp only [])
    | (simp only [memories_mk])
    | (simp only [memories_eta])

/-! ### Kv -/

@[simp] theorem State.kvLayoutWrite_memories (s : State) (r : Requester) (p l be : Nat) (val : Word) : (State.kvLayoutWrite s r p l be val).memories = s.memories := by
  unfold State.kvLayoutWrite
  simp only [ite_memories, ite_self, implies_true, State.gate_memories, State.mergeReg_memories, State.report_memories]

theorem execKvLayoutWrite_memories (r : Requester) (p l be : Nat) (val : Word) (s : State) (t : State) (ht : execKvLayoutWrite r p l be val s = .next t) : t.memories = s.memories := by
  injection ht with ht
  rw [← ht]
  simp only [State.kvLayoutWrite_memories]

theorem State.kvTake_memories (s : State) (p e z : Nat) (room : Bool) (t : _) (ht : (State.kvTake s p e z room) = some t) : t.2.memories = s.memories := by
  unfold State.kvTake at ht
  repeat' (first | (cases ht; done) | (with_reducible injection ht with ht; subst ht) | split at ht | simp only [] at ht)
  repeat' first
    | with_reducible rfl
    | (simp only [State.modPrt_memories]; done)

@[simp] theorem State.kvUncarve_memories (s : State) (p : Nat) : (State.kvUncarve s p).memories = s.memories := by
  unfold State.kvUncarve
  simp only [State.modPrt_memories]

@[simp] theorem State.reapRanges_memories (s : State) : (State.reapRanges s).memories = s.memories := by
  unfold State.reapRanges
  repeat' first
    | (simp only [])
    | (simp only [memories_mk])
    | (simp only [memories_eta])

@[simp] theorem State.addRef_memories (s : State) (id addr layer n : Nat) : (State.addRef s id addr layer n).memories = s.memories := by
  unfold State.addRef
  repeat' first
    | with_reducible rfl
    | (simp only [ite_memories, ite_self, foldl_memories, implies_true]; done)
    | (with_reducible refine (foldl_memories _ _ _ (fun t x => ?_)).trans ?_)
    | (with_reducible refine (foldl1_memories _ _ _ (fun t x => ?_)).trans ?_)
    | split
    | (simp only [])
    | (simp only [memories_mk])
    | (simp only [memories_eta])

@[simp] theorem State.dropRef_memories (s : State) (id addr layer n : Nat) : (State.dropRef s id addr layer n).memories = s.memories := by
  unfold State.dropRef
  repeat' first
    | with_reducible rfl
    | (simp only [ite_memories, ite_self, foldl_memories, implies_true]; done)
    | (with_reducible refine (foldl_memories _ _ _ (fun t x => ?_)).trans ?_)
    | (with_reducible refine (foldl1_memories _ _ _ (fun t x => ?_)).trans ?_)
    | split
    | (simp only [])
    | (simp only [memories_mk])
    | (simp only [memories_eta])

@[simp] theorem State.dropLent_memories (s : State) (id : Nat) : (State.dropLent s id).memories = s.memories := by
  unfold State.dropLent
  repeat' first
    | with_reducible rfl
    | (simp only [ite_memories, ite_self, foldl_memories, implies_true, State.dropRef_memories]; done)
    | (with_reducible refine (foldl_memories _ _ _ (fun t x => ?_)).trans ?_)
    | (with_reducible refine (foldl1_memories _ _ _ (fun t x => ?_)).trans ?_)
    | split
    | (simp only [State.dropRef_memories])
    | (simp only [])
    | (simp only [memories_mk])
    | (simp only [memories_eta])

@[simp] theorem State.endRange_memories (s : State) (id : Nat) : (State.endRange s id).memories = s.memories := by
  unfold State.endRange
  repeat' first
    | with_reducible rfl
    | (simp only [ite_memories, ite_self, foldl_memories, implies_true, State.dropLent_memories, State.freeUnits_memories, State.reapRanges_memories]; done)
    | (with_reducible refine (foldl_memories _ _ _ (fun t x => ?_)).trans ?_)
    | (with_reducible refine (foldl1_memories _ _ _ (fun t x => ?_)).trans ?_)
    | split
    | (simp only [State.dropLent_memories, State.freeUnits_memories, State.reapRanges_memories])
    | (simp only [])
    | (simp only [memories_mk])
    | (simp only [memories_eta])

@[simp] theorem roomBelow_memories (tier n : Nat) (l : Nat) (s : State) : (roomBelow tier n l s).1.memories = s.memories := by
  induction l generalizing s with
  | zero => first | rfl | exact hwf | (unfold roomBelow; split <;> first | rfl | assumption)
  | succ n ih =>
    unfold roomBelow
    repeat' first
      | with_reducible rfl
      | (simp only [ite_memories, ite_self, foldl_memories, implies_true, State.bump_memories, State.endRange_memories, ih]; done)
      | (with_reducible refine (foldl_memories _ _ _ (fun t x => ?_)).trans ?_)
      | (with_reducible refine (foldl1_memories _ _ _ (fun t x => ?_)).trans ?_)
      | split
      | (simp only [State.bump_memories, State.endRange_memories, ih])
      | (simp only [])
      | (simp only [memories_mk])
      | (simp only [memories_eta])

theorem State.demoteRange_wf (s : State) (r : KvRange) (hwf : s.memories.wf = true) : (State.demoteRange s r).memories.wf = true := by
  unfold State.demoteRange
  repeat' first
    | with_reducible assumption
    | (simp only [hwf, ite_memories, Memories.ite_wf, ite_self, foldl_memories, implies_true, State.dropRef_memories, State.reapRanges_memories, roomBelow_memories, State.hopWrite_wf, State.writeMem_wf]; done)
    | (with_reducible refine State.hopWrite_wf _ _ _ _ ?_)
    | (with_reducible refine State.writeMem_wf _ _ _ ?_)
    | (with_reducible refine foldl_wf _ _ _ ?_ (fun t x hwf => ?_))
    | (with_reducible refine foldl1_wf _ _ _ ?_ (fun t x hwf => ?_))
    | split
    | (simp only [State.dropRef_memories, State.reapRanges_memories, roomBelow_memories])
    | (simp only [])
    | (simp only [memories_mk])
    | (simp only [memories_eta])

theorem kvTakeRoom_wf (p e z : Nat) (l : List KvRange) (s : State) (hwf : s.memories.wf = true) : (kvTakeRoom p e z l s).1.memories.wf = true := by
  induction l generalizing s with
  | nil => exact hwf
  | cons r l ih =>
    unfold kvTakeRoom
    dsimp only
    have h := State.demoteRange_wf s r hwf
    split
    · rename_i x hx
      dsimp only
      rw [State.kvTake_memories _ _ _ _ _ _ hx]; exact h
    · exact ih _ h

theorem State.kvAlloc_wf (s : State) (p e z : Nat) (hwf : s.memories.wf = true) : (State.kvAlloc s p e z).1.memories.wf = true := by
  unfold State.kvAlloc
  split
  · rename_i x hx
    dsimp only
    rw [State.kvTake_memories _ _ _ _ _ _ hx]; exact hwf
  · split
    · exact hwf
    · exact kvTakeRoom_wf _ _ _ _ _ hwf

theorem State.rangeDemotion_wf (s : State) (id : Nat) (hwf : s.memories.wf = true) : (State.rangeDemotion s id).memories.wf = true := by
  unfold State.rangeDemotion
  repeat' first
    | with_reducible assumption
    | (simp only [hwf, ite_memories, Memories.ite_wf, ite_self, State.demoteRange_wf, State.until_memories]; done)
    | split

theorem execRetainedRangeDemotion_wf (id : Nat) (s : State) (t : State) (ht : execRetainedRangeDemotion id s = .next t) (hwf : s.memories.wf = true) : t.memories.wf = true := by
  injection ht with ht
  rw [← ht]
  simp only [hwf, State.rangeDemotion_wf]

@[simp] theorem State.rangeExpiry_memories (s : State) (id : Nat) : (State.rangeExpiry s id).memories = s.memories := by
  unfold State.rangeExpiry
  repeat' first
    | with_reducible rfl
    | (simp only [ite_memories, ite_self, State.endRange_memories, State.until_memories]; done)
    | split

theorem execRetainedRangeExpiry_memories (id : Nat) (s : State) (t : State) (ht : execRetainedRangeExpiry id s = .next t) : t.memories = s.memories := by
  injection ht with ht
  rw [← ht]
  simp only [State.rangeExpiry_memories]

theorem State.kvMap_wf (s : State) (p slot layer n : Nat) (hwf : s.memories.wf = true) : (State.kvMap s p slot layer n).1.memories.wf = true := by
  unfold State.kvMap
  repeat' first
    | with_reducible assumption
    | (simp only [hwf, ite_memories, Memories.ite_wf, ite_self, foldl_memories, implies_true, State.kvAlloc_wf, State.placeTables_wf]; done)
    | (with_reducible refine State.kvAlloc_wf _ _ _ _ ?_)
    | (with_reducible refine State.placeTables_wf _ ?_)
    | (with_reducible refine foldl_wf _ _ _ ?_ (fun t x hwf => ?_))
    | (with_reducible refine foldl1_wf _ _ _ ?_ (fun t x hwf => ?_))
    | split
    | (simp only [])
    | (simp only [memories_mk])
    | (simp only [memories_eta])

theorem kvMapSome_wf (p slot : Nat) (n : List (Nat × Nat)) (s : State) (hwf : s.memories.wf = true) : (kvMapSome p slot n s).1.memories.wf = true := by
  induction n generalizing s with
  | nil => first | rfl | exact hwf | (unfold kvMapSome; split <;> first | rfl | assumption)
  | cons x l ih =>
    unfold kvMapSome
    repeat' first
      | with_reducible assumption
      | (simp only [hwf, ite_memories, Memories.ite_wf, ite_self, foldl_memories, implies_true, State.kvMap_wf, ih]; done)
      | (with_reducible refine State.kvMap_wf _ _ _ _ _ ?_)
      | (with_reducible refine ih _ ?_)
      | (with_reducible refine foldl_wf _ _ _ ?_ (fun t x hwf => ?_))
      | (with_reducible refine foldl1_wf _ _ _ ?_ (fun t x hwf => ?_))
      | split
      | (simp only [])
      | (simp only [memories_mk])
      | (simp only [memories_eta])

theorem kvMapAll_wf (p slot : Nat) (l : List (Nat × Nat)) (s : State) (hwf : s.memories.wf = true) : (kvMapAll p slot l s).1.memories.wf = true := by
  unfold kvMapAll
  repeat' first
    | with_reducible assumption
    | (simp only [hwf, ite_memories, Memories.ite_wf, ite_self, foldl_memories, implies_true, State.pruneTables_memories, kvMapSome_wf]; done)
    | (with_reducible refine kvMapSome_wf _ _ _ _ ?_)
    | (with_reducible refine foldl_wf _ _ _ ?_ (fun t x hwf => ?_))
    | (with_reducible refine foldl1_wf _ _ _ ?_ (fun t x hwf => ?_))
    | split
    | (simp only [State.pruneTables_memories])
    | (simp only [])
    | (simp only [memories_mk])
    | (simp only [memories_eta])

@[simp] theorem State.unref_memories (s : State) (g : KvPage) : (State.unref s g).memories = s.memories := by
  unfold State.unref
  repeat' first
    | with_reducible rfl
    | (simp only [ite_memories, ite_self, foldl_memories, implies_true, State.dropRef_memories]; done)
    | (with_reducible refine (foldl_memories _ _ _ (fun t x => ?_)).trans ?_)
    | (with_reducible refine (foldl1_memories _ _ _ (fun t x => ?_)).trans ?_)
    | split
    | (simp only [State.dropRef_memories])
    | (simp only [])
    | (simp only [memories_mk])
    | (simp only [memories_eta])

@[simp] theorem State.kvUnmapSlot_memories (s : State) (slot : Nat) : (State.kvUnmapSlot s slot).memories = s.memories := by
  unfold State.kvUnmapSlot
  repeat' first
    | (simp only [foldl_memories, implies_true, State.reapRanges_memories, State.unref_memories]; done)
    | (simp only [State.reapRanges_memories])
    | (simp only [memories_mk])
    | (simp only [memories_eta])

@[simp] theorem State.kvResetPart_memories (s : State) (p : Nat) : (State.kvResetPart s p).memories = s.memories := by
  unfold State.kvResetPart
  repeat' first
    | with_reducible rfl
    | (simp only [ite_memories, ite_self, foldl_memories, implies_true, State.freeUnits_memories, State.kvUncarve_memories, State.kvUnmapSlot_memories]; done)
    | (with_reducible refine (foldl_memories _ _ _ (fun t x => ?_)).trans ?_)
    | (with_reducible refine (foldl1_memories _ _ _ (fun t x => ?_)).trans ?_)
    | split
    | (simp only [State.freeUnits_memories, State.kvUncarve_memories, State.kvUnmapSlot_memories])
    | (simp only [])
    | (simp only [memories_mk])
    | (simp only [memories_eta])

@[simp] theorem State.pgReject_memories (s : State) (cmd code : Nat) : (State.pgReject s cmd code).memories = s.memories := by
  unfold State.pgReject
  simp only [State.bump_memories, State.cmdCode_memories]

theorem State.kvFree_wf (s : State) (r : Requester) (hwf : s.memories.wf = true) : (State.kvFree s r).memories.wf = true := by
  unfold State.kvFree
  repeat' first
    | with_reducible assumption
    | (simp only [hwf, ite_memories, Memories.ite_wf, ite_self, foldl_memories, implies_true, State.cmdCode_memories, State.gate_memories, State.pgReject_memories, State.pruneTables_memories, State.gate_wf]; done)
    | (with_reducible refine State.gate_wf _ _ _ _ _ ?_ (fun t hwf => ?_))
    | (with_reducible refine foldl_wf _ _ _ ?_ (fun t x hwf => ?_))
    | (with_reducible refine foldl1_wf _ _ _ ?_ (fun t x hwf => ?_))
    | split
    | (simp only [State.cmdCode_memories, State.gate_memories, State.pgReject_memories, State.pruneTables_memories])
    | (simp only [])
    | (simp only [memories_mk])
    | (simp only [memories_eta])

theorem execKvFree_wf (r : Requester) (s : State) (t : State) (ht : execKvFree r s = .next t) (hwf : s.memories.wf = true) : t.memories.wf = true := by
  injection ht with ht
  rw [← ht]
  repeat' first
    | with_reducible assumption
    | (simp only [hwf, ite_memories, Memories.ite_wf, ite_self, foldl_memories, implies_true, State.kvFree_wf]; done)
    | (with_reducible refine State.kvFree_wf _ _ ?_)
    | (with_reducible refine foldl_wf _ _ _ ?_ (fun t x hwf => ?_))
    | (with_reducible refine foldl1_wf _ _ _ ?_ (fun t x hwf => ?_))
    | split
    | (simp only [])
    | (simp only [memories_mk])
    | (simp only [memories_eta])

theorem State.kvFreeBelow_wf (s : State) (r : Requester) (hwf : s.memories.wf = true) : (State.kvFreeBelow s r).memories.wf = true := by
  unfold State.kvFreeBelow
  repeat' first
    | with_reducible assumption
    | (simp only [hwf, ite_memories, Memories.ite_wf, ite_self, foldl_memories, implies_true, State.cmdCode_memories, State.gate_memories, State.pgReject_memories, State.pruneTables_memories, State.gate_wf]; done)
    | (with_reducible refine State.gate_wf _ _ _ _ _ ?_ (fun t hwf => ?_))
    | (with_reducible refine foldl_wf _ _ _ ?_ (fun t x hwf => ?_))
    | (with_reducible refine foldl1_wf _ _ _ ?_ (fun t x hwf => ?_))
    | split
    | (simp only [State.cmdCode_memories, State.gate_memories, State.pgReject_memories, State.pruneTables_memories])
    | (simp only [])
    | (simp only [memories_mk])
    | (simp only [memories_eta])

theorem execKvFreeBelow_wf (r : Requester) (s : State) (t : State) (ht : execKvFreeBelow r s = .next t) (hwf : s.memories.wf = true) : t.memories.wf = true := by
  injection ht with ht
  rw [← ht]
  repeat' first
    | with_reducible assumption
    | (simp only [hwf, ite_memories, Memories.ite_wf, ite_self, foldl_memories, implies_true, State.kvFreeBelow_wf]; done)
    | (with_reducible refine State.kvFreeBelow_wf _ _ ?_)
    | (with_reducible refine foldl_wf _ _ _ ?_ (fun t x hwf => ?_))
    | (with_reducible refine foldl1_wf _ _ _ ?_ (fun t x hwf => ?_))
    | split
    | (simp only [])
    | (simp only [memories_mk])
    | (simp only [memories_eta])

@[simp] theorem State.kvQuery_memories (s : State) (r : Requester) : (State.kvQuery s r).memories = s.memories := by
  unfold State.kvQuery
  repeat' first
    | with_reducible rfl
    | (simp only [ite_memories, ite_self, State.cmdCode_memories, State.pgReject_memories, State.wr_memories]; done)
    | (with_reducible refine (State.gate_memories _ _ _ _ _ (fun t  => ?_)).trans ?_)
    | split

theorem execKvQuery_memories (r : Requester) (s : State) (t : State) (ht : execKvQuery r s = .next t) : t.memories = s.memories := by
  injection ht with ht
  rw [← ht]
  simp only [State.kvQuery_memories]

@[simp] theorem State.salt_memories (s : State) (tenant : Nat) : (State.salt s tenant).2.memories = s.memories := by
  unfold State.salt
  repeat' first
    | with_reducible rfl
    | (simp only [State.fresh_memories]; done)
    | split
    | (simp only [])
    | (simp only [memories_mk])
    | (simp only [memories_eta])

@[simp] theorem State.indexRange_memories (s : State) (r : KvRange) : (State.indexRange s r).memories = s.memories := by
  unfold State.indexRange
  repeat' first
    | (simp only [State.salt_memories]; done)
    | (simp only [])
    | (simp only [memories_mk])
    | (simp only [memories_eta])

@[simp] theorem State.hashMatch_memories (s : State) (p tenant gen : Nat) (prompt : List Nat) : (State.hashMatch s p tenant gen prompt).2.2.memories = s.memories := by
  unfold State.hashMatch
  repeat' first
    | with_reducible rfl
    | (simp only [State.bump_memories, State.salt_memories]; done)
    | split
    | (simp only [])
    | (simp only [memories_mk])
    | (simp only [memories_eta])

@[simp] theorem State.prefixWalk_memories (s : State) (p tenant gen : Nat) (prompt : List Nat) : (State.prefixWalk s p tenant gen prompt).2.2.memories = s.memories := by
  unfold State.prefixWalk
  simp only [State.hashMatch_memories]

@[simp] theorem State.radixRef_memories (s : State) (p : Nat) (ids : List Nat) (up : Bool) : (State.radixRef s p ids up).memories = s.memories := by
  unfold State.radixRef
  repeat' first
    | split
    | (simp only [memories_mk])
    | (simp only [memories_eta])

@[simp] theorem State.noteMatch_memories (s : State) (id p tenant gen : Nat) (prompt : List Nat) : (State.noteMatch s id p tenant gen prompt).1.memories = s.memories := by
  unfold State.noteMatch
  repeat' first
    | with_reducible rfl
    | split
    | (simp only [State.radixRef_memories])
    | (simp only [memories_mk])
    | (simp only [memories_eta])

@[simp] theorem State.pruneRadix_memories (s : State) (p : Nat) : (State.pruneRadix s p).memories = s.memories := by
  unfold State.pruneRadix
  repeat' first
    | (simp only [foldl_memories, implies_true, State.endRange_memories]; done)
    | (with_reducible refine (foldl_memories _ _ _ (fun t x => ?_)).trans ?_)
    | (simp only [memories_mk])
    | (simp only [memories_eta])

@[simp] theorem State.renewSalts_memories (s : State) : (State.renewSalts s).memories = s.memories := by
  unfold State.renewSalts
  repeat' first
    | (simp only [State.fresh_memories]; done)
    | (with_reducible refine (foldl_memories _ _ _ (fun t x => ?_)).trans ?_)
    | (simp only [])
    | (simp only [memories_mk])
    | (simp only [memories_eta])

@[simp] theorem State.retainAs_memories (s : State) (slot id : Nat) : (State.retainAs s slot id).memories = s.memories := by
  unfold State.retainAs
  repeat' first
    | with_reducible rfl
    | (simp only [ite_memories, ite_self, foldl_memories, implies_true, State.indexRange_memories]; done)
    | (with_reducible refine (foldl_memories _ _ _ (fun t x => ?_)).trans ?_)
    | (with_reducible refine (foldl1_memories _ _ _ (fun t x => ?_)).trans ?_)
    | split
    | (simp only [State.indexRange_memories])
    | (simp only [])
    | (simp only [memories_mk])
    | (simp only [memories_eta])

@[simp] theorem State.retainPages_memories (s : State) (slot told : Nat) : (State.retainPages s slot told).memories = s.memories := by
  unfold State.retainPages
  repeat' first
    | with_reducible rfl
    | (simp only [ite_memories, ite_self, foldl_memories, implies_true, State.retainAs_memories]; done)
    | (with_reducible refine (foldl_memories _ _ _ (fun t x => ?_)).trans ?_)
    | (with_reducible refine (foldl1_memories _ _ _ (fun t x => ?_)).trans ?_)
    | split
    | (simp only [State.retainAs_memories])
    | (simp only [])
    | (simp only [memories_mk])
    | (simp only [memories_eta])

theorem State.replicate_wf (s : State) (p e : Nat) (g : KvPage) (hwf : s.memories.wf = true) : (State.replicate s p e g).1.memories.wf = true := by
  unfold State.replicate
  repeat' first
    | with_reducible assumption
    | (simp only [hwf, ite_memories, Memories.ite_wf, ite_self, foldl_memories, implies_true, State.kvAlloc_wf, State.writeMem_wf]; done)
    | (with_reducible refine State.kvAlloc_wf _ _ _ _ ?_)
    | (with_reducible refine State.writeMem_wf _ _ _ ?_)
    | (with_reducible refine foldl_wf _ _ _ ?_ (fun t x hwf => ?_))
    | (with_reducible refine foldl1_wf _ _ _ ?_ (fun t x hwf => ?_))
    | split
    | (simp only [])
    | (simp only [memories_mk])
    | (simp only [memories_eta])

theorem replicateAll_wf (p id : Nat) (n : List (Nat × KvPage)) (s : State) (hwf : s.memories.wf = true) : (replicateAll p id n s).1.memories.wf = true := by
  induction n generalizing s with
  | nil => first | rfl | exact hwf | (unfold replicateAll; split <;> first | rfl | assumption)
  | cons x l ih =>
    unfold replicateAll
    repeat' first
      | with_reducible assumption
      | (simp only [hwf, ite_memories, Memories.ite_wf, ite_self, foldl_memories, implies_true, State.replicate_wf, ih]; done)
      | (with_reducible refine State.replicate_wf _ _ _ _ ?_)
      | (with_reducible refine ih _ ?_)
      | (with_reducible refine foldl_wf _ _ _ ?_ (fun t x hwf => ?_))
      | (with_reducible refine foldl1_wf _ _ _ ?_ (fun t x hwf => ?_))
      | split
      | (simp only [])
      | (simp only [memories_mk])
      | (simp only [memories_eta])

theorem State.publishPages_wf (s : State) (slot id : Nat) (hwf : s.memories.wf = true) : (State.publishPages s slot id).1.memories.wf = true := by
  unfold State.publishPages
  repeat' first
    | with_reducible assumption
    | (simp only [hwf, ite_memories, Memories.ite_wf, ite_self, foldl_memories, implies_true, replicateAll_wf]; done)
    | (with_reducible refine replicateAll_wf _ _ _ _ ?_)
    | (with_reducible refine foldl_wf _ _ _ ?_ (fun t x hwf => ?_))
    | (with_reducible refine foldl1_wf _ _ _ ?_ (fun t x hwf => ?_))
    | split
    | (simp only [])
    | (simp only [memories_mk])
    | (simp only [memories_eta])

theorem State.publish_wf (s : State) (slot : Nat) (hwf : s.memories.wf = true) : (State.publish s slot).1.memories.wf = true := by
  unfold State.publish
  repeat' first
    | with_reducible assumption
    | (simp only [hwf, ite_memories, Memories.ite_wf, ite_self, foldl_memories, implies_true, State.publishPages_wf]; done)
    | (with_reducible refine State.publishPages_wf _ _ _ ?_)
    | (with_reducible refine foldl_wf _ _ _ ?_ (fun t x hwf => ?_))
    | (with_reducible refine foldl1_wf _ _ _ ?_ (fun t x hwf => ?_))
    | split
    | (simp only [])
    | (simp only [memories_mk])
    | (simp only [memories_eta])

theorem State.prefixPublish_wf (s : State) (slot told : Nat) (others : Bool) (hwf : s.memories.wf = true) : (State.prefixPublish s slot told others).memories.wf = true := by
  unfold State.prefixPublish
  repeat' first
    | with_reducible assumption
    | (simp only [hwf, ite_memories, Memories.ite_wf, ite_self, foldl_memories, implies_true, State.modTicket_memories, State.tell_memories, State.publish_wf, State.publishPages_wf]; done)
    | (with_reducible refine State.publish_wf _ _ ?_)
    | (with_reducible refine State.publishPages_wf _ _ _ ?_)
    | (with_reducible refine foldl_wf _ _ _ ?_ (fun t x hwf => ?_))
    | (with_reducible refine foldl1_wf _ _ _ ?_ (fun t x hwf => ?_))
    | split
    | (simp only [State.modTicket_memories, State.tell_memories])
    | (simp only [])
    | (simp only [memories_mk])
    | (simp only [memories_eta])

theorem execPrefixPublish_wf (a : Publication) (s : State) (t : State) (ht : execPrefixPublish a s = .next t) (hwf : s.memories.wf = true) : t.memories.wf = true := by
  injection ht with ht
  rw [← ht]
  repeat' first
    | with_reducible assumption
    | (simp only [hwf, ite_memories, Memories.ite_wf, ite_self, foldl_memories, implies_true, State.prefixPublish_wf]; done)
    | (with_reducible refine State.prefixPublish_wf _ _ _ _ ?_)
    | (with_reducible refine foldl_wf _ _ _ ?_ (fun t x hwf => ?_))
    | (with_reducible refine foldl1_wf _ _ _ ?_ (fun t x hwf => ?_))
    | split
    | (simp only [])
    | (simp only [memories_mk])
    | (simp only [memories_eta])

theorem mapMatch_wf (r : KvRange) (t : Ticket) (slot m l e home : Nat) (n : List Nat) (s : State) (hwf : s.memories.wf = true) : (mapMatch r t slot m l e home n s).1.memories.wf = true := by
  induction n generalizing s with
  | nil => first | rfl | exact hwf | (unfold mapMatch; split <;> first | rfl | assumption)
  | cons x l ih =>
    unfold mapMatch
    repeat' first
      | with_reducible assumption
      | (simp only [hwf, ite_memories, Memories.ite_wf, ite_self, foldl_memories, implies_true, State.addRef_memories, State.kvMap_wf, State.placeTables_wf, State.writeMem_wf, ih]; done)
      | (with_reducible refine State.kvMap_wf _ _ _ _ _ ?_)
      | (with_reducible refine State.placeTables_wf _ ?_)
      | (with_reducible refine State.writeMem_wf _ _ _ ?_)
      | (with_reducible refine ih _ ?_)
      | (with_reducible refine foldl_wf _ _ _ ?_ (fun t x hwf => ?_))
      | (with_reducible refine foldl1_wf _ _ _ ?_ (fun t x hwf => ?_))
      | split
      | (simp only [State.addRef_memories])
      | (simp only [])
      | (simp only [memories_mk])
      | (simp only [memories_eta])

theorem mapLayers_wf (r : KvRange) (t : Ticket) (slot m : Nat) (n : List Nat) (s : State) (hwf : s.memories.wf = true) : (mapLayers r t slot m n s).1.memories.wf = true := by
  induction n generalizing s with
  | nil => first | rfl | exact hwf | (unfold mapLayers; split <;> first | rfl | assumption)
  | cons x l ih =>
    unfold mapLayers
    repeat' first
      | with_reducible assumption
      | (simp only [hwf, ite_memories, Memories.ite_wf, ite_self, foldl_memories, implies_true, mapMatch_wf, ih]; done)
      | (with_reducible refine mapMatch_wf _ _ _ _ _ _ _ _ _ ?_)
      | (with_reducible refine ih _ ?_)
      | (with_reducible refine foldl_wf _ _ _ ?_ (fun t x hwf => ?_))
      | (with_reducible refine foldl1_wf _ _ _ ?_ (fun t x hwf => ?_))
      | split
      | (simp only [])
      | (simp only [memories_mk])
      | (simp only [memories_eta])

@[simp] theorem State.unmapNew_memories (s : State) (old : List KvPage) : (State.unmapNew s old).memories = s.memories := by
  unfold State.unmapNew
  repeat' first
    | with_reducible rfl
    | (simp only [ite_memories, ite_self, foldl_memories, implies_true, State.pruneTables_memories, State.unref_memories]; done)
    | (with_reducible refine (foldl_memories _ _ _ (fun t x => ?_)).trans ?_)
    | (with_reducible refine (foldl1_memories _ _ _ (fun t x => ?_)).trans ?_)
    | split
    | (simp only [State.pruneTables_memories, State.unref_memories])
    | (simp only [])
    | (simp only [memories_mk])
    | (simp only [memories_eta])

theorem State.mapPrefix_wf (s : State) (slot : Nat) (r : KvRange) (m : Nat) (hwf : s.memories.wf = true) : (State.mapPrefix s slot r m).1.memories.wf = true := by
  unfold State.mapPrefix
  repeat' first
    | with_reducible assumption
    | (simp only [hwf, ite_memories, Memories.ite_wf, ite_self, foldl_memories, implies_true, State.unmapNew_memories, mapLayers_wf]; done)
    | (with_reducible refine mapLayers_wf _ _ _ _ _ _ ?_)
    | (with_reducible refine foldl_wf _ _ _ ?_ (fun t x hwf => ?_))
    | (with_reducible refine foldl1_wf _ _ _ ?_ (fun t x hwf => ?_))
    | split
    | (simp only [State.unmapNew_memories])
    | (simp only [])
    | (simp only [memories_mk])
    | (simp only [memories_eta])

theorem foldlOpt_wf {α : Type} (g : Option State → α → Option State) (l : List α) (o : Option State) (t : State)
    (h : ∀ x v, g none x ≠ some v) (k : ∀ u x v, u.memories.wf = true → g (some u) x = some v → v.memories.wf = true)
    (ho : ∀ u, o = some u → u.memories.wf = true) (ht : l.foldl g o = some t) : t.memories.wf = true := by
  induction l generalizing o with
  | nil => exact ho t ht
  | cons x l ih =>
    refine ih (g o x) (fun u hu => ?_) ht
    cases o with
    | none => exact absurd hu (h x u)
    | some w => exact k w x u (ho w rfl) hu

theorem State.prefixMatchMap_wf (s : State) (slot others : Nat) (rungs : List (Nat × Nat)) (hwf : s.memories.wf = true) : (State.prefixMatchMap s slot others rungs).memories.wf = true := by
  unfold State.prefixMatchMap
  repeat' first
    | with_reducible assumption
    | (simp only [hwf, ite_memories, Memories.ite_wf, ite_self, foldl_memories, implies_true, State.bump_memories, State.modTicket_memories, State.readUnits_memories, State.tell_memories, State.mapPrefix_wf]; done)
    | (with_reducible refine State.mapPrefix_wf _ _ _ _ ?_)
    | (with_reducible refine foldl_wf _ _ _ ?_ (fun t x hwf => ?_))
    | (with_reducible refine foldl1_wf _ _ _ ?_ (fun t x hwf => ?_))
    | split
    | (simp only [State.bump_memories, State.modTicket_memories, State.readUnits_memories, State.tell_memories])
    | (simp only [])
    | (simp only [memories_mk])
    | (simp only [memories_eta])

theorem execPrefixMatchMap_wf (a : MatchWord) (s : State) (t : State) (ht : execPrefixMatchMap a s = .next t) (hwf : s.memories.wf = true) : t.memories.wf = true := by
  injection ht with ht
  rw [← ht]
  repeat' first
    | with_reducible assumption
    | (simp only [hwf, ite_memories, Memories.ite_wf, ite_self, foldl_memories, implies_true, State.prefixMatchMap_wf]; done)
    | (with_reducible refine State.prefixMatchMap_wf _ _ _ _ ?_)
    | (with_reducible refine foldl_wf _ _ _ ?_ (fun t x hwf => ?_))
    | (with_reducible refine foldl1_wf _ _ _ ?_ (fun t x hwf => ?_))
    | split
    | (simp only [])
    | (simp only [memories_mk])
    | (simp only [memories_eta])

end Sys2Proof.Machine
end

