-- ==== Sys2Proof/Laws/KeepRail.lean ====
section
/-! SUPPORT. What happens to the memories, and that they keep their canonical form: weights, the Ticket rail and steps. -/

namespace Sys2Proof.Machine

/-! ### Mosaic -/

@[simp] theorem State.shadowSend_memories (s : State) (x : Nat) (bs : List Byte) : (State.shadowSend s x bs).memories = s.memories := by
  unfold State.shadowSend
  repeat' first
    | with_reducible rfl
    | (simp only [ite_memories, ite_self, foldl_memories, implies_true, State.emit_memories, State.shadow_memories]; done)
    | (with_reducible refine (foldl_memories _ _ _ (fun t x => ?_)).trans ?_)
    | (with_reducible refine (foldl1_memories _ _ _ (fun t x => ?_)).trans ?_)
    | split
    | (simp only [State.emit_memories, State.shadow_memories])
    | (simp only [])
    | (simp only [memories_mk])
    | (simp only [memories_eta])

@[simp] theorem State.shadowUnit_memories (s : State) (x : Nat) (bs : List Byte) : (State.shadowUnit s x bs).memories = s.memories := by
  unfold State.shadowUnit
  repeat' first
    | with_reducible rfl
    | (simp only [ite_memories, ite_self, foldl_memories, implies_true, State.shadowSend_memories]; done)
    | (with_reducible refine (foldl_memories _ _ _ (fun t x => ?_)).trans ?_)
    | (with_reducible refine (foldl1_memories _ _ _ (fun t x => ?_)).trans ?_)
    | split
    | (simp only [State.shadowSend_memories])
    | (simp only [])
    | (simp only [memories_mk])
    | (simp only [memories_eta])

@[simp] theorem State.shadowWrite_memories (s : State) (x n : Nat) (bs : List Byte) : (State.shadowWrite s x n bs).memories = s.memories := by
  unfold State.shadowWrite
  repeat' first
    | with_reducible rfl
    | (simp only [ite_memories, ite_self, foldl_memories, implies_true, State.shadowUnit_memories]; done)
    | (with_reducible refine (foldl_memories _ _ _ (fun t x => ?_)).trans ?_)
    | (with_reducible refine (foldl1_memories _ _ _ (fun t x => ?_)).trans ?_)
    | split
    | (simp only [State.shadowUnit_memories])
    | (simp only [])
    | (simp only [memories_mk])
    | (simp only [memories_eta])

@[simp] theorem State.shadowConfig_memories (s : State) : (State.shadowConfig s).memories = s.memories := by
  unfold State.shadowConfig
  repeat' first
    | with_reducible rfl
    | (simp only [ite_memories, ite_self, foldl_memories, implies_true, State.shadowUnit_memories, State.shadowWrite_memories]; done)
    | (with_reducible refine (foldl_memories _ _ _ (fun t x => ?_)).trans ?_)
    | (with_reducible refine (foldl1_memories _ _ _ (fun t x => ?_)).trans ?_)
    | split
    | (simp only [State.shadowUnit_memories, State.shadowWrite_memories])
    | (simp only [])
    | (simp only [memories_mk])
    | (simp only [memories_eta])

@[simp] theorem State.shadowFrameIn_memories (s : State) (f : Nat) : (State.shadowFrameIn s f).memories = s.memories := by
  unfold State.shadowFrameIn
  repeat' first
    | with_reducible rfl
    | (simp only [ite_memories, ite_self, foldl_memories, implies_true]; done)
    | (with_reducible refine (foldl_memories _ _ _ (fun t x => ?_)).trans ?_)
    | (with_reducible refine (foldl1_memories _ _ _ (fun t x => ?_)).trans ?_)
    | split
    | (simp only [])
    | (simp only [memories_mk])
    | (simp only [memories_eta])

@[simp] theorem State.shadowFramesIn_memories (s : State) : (State.shadowFramesIn s).memories = s.memories := by
  unfold State.shadowFramesIn
  repeat' first
    | with_reducible rfl
    | (simp only [ite_memories, ite_self, foldl_memories, implies_true, State.shadowFrameIn_memories, State.shadowUnit_memories]; done)
    | (with_reducible refine (foldl_memories _ _ _ (fun t x => ?_)).trans ?_)
    | (with_reducible refine (foldl1_memories _ _ _ (fun t x => ?_)).trans ?_)
    | split
    | (simp only [State.shadowFrameIn_memories, State.shadowUnit_memories])
    | (simp only [])
    | (simp only [memories_mk])
    | (simp only [memories_eta])

@[simp] theorem State.shadowIndex_memories (s : State) (idxs : List Nat) : (State.shadowIndex s idxs).memories = s.memories := by
  unfold State.shadowIndex
  repeat' first
    | with_reducible rfl
    | (simp only [ite_memories, ite_self, foldl_memories, implies_true, State.shadowUnit_memories]; done)
    | (with_reducible refine (foldl_memories _ _ _ (fun t x => ?_)).trans ?_)
    | (with_reducible refine (foldl1_memories _ _ _ (fun t x => ?_)).trans ?_)
    | split
    | (simp only [State.shadowUnit_memories])
    | (simp only [])
    | (simp only [memories_mk])
    | (simp only [memories_eta])

@[simp] theorem State.dropStripes_memories (s : State) (is : ChunkStripe → Bool) : (State.dropStripes s is).memories = s.memories := by
  unfold State.dropStripes
  repeat' first
    | with_reducible rfl
    | (simp only [ite_memories, ite_self, foldl_memories, implies_true, State.shadowIndex_memories]; done)
    | (with_reducible refine (foldl_memories _ _ _ (fun t x => ?_)).trans ?_)
    | (with_reducible refine (foldl1_memories _ _ _ (fun t x => ?_)).trans ?_)
    | split
    | (simp only [State.shadowIndex_memories])
    | (simp only [])
    | (simp only [memories_mk])
    | (simp only [memories_eta])

@[simp] theorem State.shadowCipher_memories (s : State) (key : List Byte) (x : Nat) (bs : List Byte) : (State.shadowCipher s key x bs).memories = s.memories := by
  unfold State.shadowCipher
  repeat' first
    | with_reducible rfl
    | (simp only [ite_memories, ite_self, foldl_memories, implies_true, State.shadowUnit_memories]; done)
    | (with_reducible refine (foldl_memories _ _ _ (fun t x => ?_)).trans ?_)
    | (with_reducible refine (foldl1_memories _ _ _ (fun t x => ?_)).trans ?_)
    | split
    | (simp only [State.shadowUnit_memories])
    | (simp only [])
    | (simp only [memories_mk])
    | (simp only [memories_eta])

@[simp] theorem State.stripeAt_memories (s : State) (x : ChunkStripe) (key bs : List Byte) : (State.stripeAt s x key bs).memories = s.memories := by
  unfold State.stripeAt
  repeat' first
    | with_reducible rfl
    | (simp only [ite_memories, ite_self, foldl_memories, implies_true, State.shadowCipher_memories, State.shadowIndex_memories]; done)
    | (with_reducible refine (foldl_memories _ _ _ (fun t x => ?_)).trans ?_)
    | (with_reducible refine (foldl1_memories _ _ _ (fun t x => ?_)).trans ?_)
    | split
    | (simp only [State.shadowCipher_memories, State.shadowIndex_memories])
    | (simp only [])
    | (simp only [memories_mk])
    | (simp only [memories_eta])

@[simp] theorem State.stripeIn_memories (s : State) (x : ChunkStripe) (key bs : List Byte) :
    (State.stripeIn s x key bs).memories = s.memories := by
  unfold State.stripeIn
  generalize s.unitRun x.n = o
  generalize s.mosaic.freeEntry = e
  cases o <;> cases e <;> first | rfl | exact State.stripeAt_memories _ _ _ _

@[simp] theorem State.shadowStripe_memories (s : State) (p gen : Nat) (aslot : Option Nat) (mid chunk : Nat) (key h bs : List Byte) (n : Nat) : (State.shadowStripe s p gen aslot mid chunk key h bs n).memories = s.memories := by
  unfold State.shadowStripe
  repeat' first
    | with_reducible rfl
    | (simp only [ite_memories, ite_self, foldl_memories, implies_true, State.dropStripes_memories, State.stripeIn_memories]; done)
    | (with_reducible refine (foldl_memories _ _ _ (fun t x => ?_)).trans ?_)
    | (with_reducible refine (foldl1_memories _ _ _ (fun t x => ?_)).trans ?_)
    | split
    | (simp only [State.dropStripes_memories, State.stripeIn_memories])
    | (simp only [])
    | (simp only [memories_mk])
    | (simp only [memories_eta])

@[simp] theorem State.sealSlot_memories (s : State) (j : Nat) : (State.sealSlot s j).memories = s.memories := by
  unfold State.sealSlot
  repeat' first
    | with_reducible rfl
    | (simp only [ite_memories, ite_self, foldl_memories, implies_true, State.emit_memories, State.shadow_memories]; done)
    | (with_reducible refine (foldl_memories _ _ _ (fun t x => ?_)).trans ?_)
    | (with_reducible refine (foldl1_memories _ _ _ (fun t x => ?_)).trans ?_)
    | split
    | (simp only [State.emit_memories, State.shadow_memories])
    | (simp only [])
    | (simp only [memories_mk])
    | (simp only [memories_eta])

@[simp] theorem State.sealSlots_memories (s : State) : (State.sealSlots s).memories = s.memories := by
  unfold State.sealSlots
  repeat' first
    | with_reducible rfl
    | (simp only [ite_memories, ite_self, foldl_memories, implies_true, State.sealSlot_memories]; done)
    | (with_reducible refine (foldl_memories _ _ _ (fun t x => ?_)).trans ?_)
    | (with_reducible refine (foldl1_memories _ _ _ (fun t x => ?_)).trans ?_)
    | split
    | (simp only [State.sealSlot_memories])
    | (simp only [])
    | (simp only [memories_mk])
    | (simp only [memories_eta])

@[simp] theorem State.rewriteStripe_memories (s : State) (j : Nat) : (State.rewriteStripe s j).memories = s.memories := by
  unfold State.rewriteStripe
  repeat' first
    | with_reducible rfl
    | (simp only [ite_memories, ite_self, foldl_memories, implies_true, State.emit_memories, State.sealSlot_memories, State.shadowSend_memories]; done)
    | (with_reducible refine (foldl_memories _ _ _ (fun t x => ?_)).trans ?_)
    | (with_reducible refine (foldl1_memories _ _ _ (fun t x => ?_)).trans ?_)
    | split
    | (simp only [State.emit_memories, State.sealSlot_memories, State.shadowSend_memories])
    | (simp only [])
    | (simp only [memories_mk])
    | (simp only [memories_eta])

@[simp] theorem State.forgetPeer_memories (s : State) (j : Nat) : (State.forgetPeer s j).memories = s.memories := by
  unfold State.forgetPeer
  repeat' first
    | with_reducible rfl
    | (simp only [ite_memories, ite_self, foldl_memories, implies_true]; done)
    | (with_reducible refine (foldl_memories _ _ _ (fun t x => ?_)).trans ?_)
    | (with_reducible refine (foldl1_memories _ _ _ (fun t x => ?_)).trans ?_)
    | split
    | (simp only [])
    | (simp only [memories_mk])
    | (simp only [memories_eta])

/-! ### Weights -/

@[simp] theorem State.ldr_memories (s : State) (r : Requester) (k : State → State) (hk : ∀ t , (k t ).memories = t.memories) : (State.ldr s r k).memories = s.memories := by
  unfold State.ldr
  repeat' first
    | with_reducible rfl
    | (with_reducible refine (State.gate_memories _ _ _ _ _ (fun t  => ?_)).trans ?_)
    | (with_reducible refine (hk _).trans ?_)
    | (simp only [memories_mk])
    | (simp only [memories_eta])

theorem State.ldr_wf (s : State) (r : Requester) (k : State → State) (hwf : s.memories.wf = true) (hk : ∀ t , t.memories.wf = true → (k t ).memories.wf = true) : (State.ldr s r k).memories.wf = true := by
  unfold State.ldr
  repeat' first
    | with_reducible assumption
    | (with_reducible refine State.gate_wf _ _ _ _ _ ?_ (fun t  hwf => ?_))
    | (with_reducible refine hk _ ?_)
    | (simp only [memories_mk])
    | (simp only [memories_eta])

@[simp] theorem State.ldrEnd_memories (s : State) (cmd code : Nat) : (State.ldrEnd s cmd code).memories = s.memories := by
  unfold State.ldrEnd
  simp only [State.cmdCode_memories]

theorem State.writeHost_wf (s : State) (a : Nat) (bs : List Byte) (hwf : s.memories.wf = true) : (State.writeHost s a bs).memories.wf = true := by
  rw [Memories.wf_iff] at hwf ⊢
  exact ⟨hwf.1, hwf.2.1, hwf.2.2.1, hwf.2.2.2.1, Sparse.wf_blit _ _ _ _ hwf.2.2.2.2.1, hwf.2.2.2.2.2⟩

@[simp] theorem State.extend_memories (s : State) (n : Nat) (d : List Byte) : (State.extend s n d).memories = s.memories := by
  unfold State.extend
  repeat' first
    | (simp only [])
    | (simp only [memories_mk])
    | (simp only [memories_eta])

@[simp] theorem State.unwrap_memories (s : State) (r : Requester) : (State.unwrap s r).memories = s.memories := by
  unfold State.unwrap
  repeat' first
    | with_reducible rfl
    | (with_reducible refine (State.ldr_memories _ _ _ (fun t  => ?_)).trans ?_)
    | split
    | (simp only [ite_memories, State.bump_memories, State.extend_memories, State.ldrEnd_memories])
    | (simp only [memories_mk])
    | (simp only [memories_eta])

theorem execUnwrap_memories (r : Requester) (s : State) (t : State) (ht : execUnwrap r s = .next t) : t.memories = s.memories := by
  injection ht with ht
  rw [← ht]
  simp only [State.unwrap_memories]

@[simp] theorem State.showGens_memories (s : State) (p : Nat) : (State.showGens s p).memories = s.memories := by
  unfold State.showGens
  simp only [State.wr_memories]

@[simp] theorem State.modGen_memories (s : State) (p gen : Nat) (f : Gen → Gen) : (State.modGen s p gen f).memories = s.memories := by
  unfold State.modGen
  repeat' first
    | (simp only [State.showGens_memories])
    | (simp only [memories_mk])
    | (simp only [memories_eta])

@[simp] theorem State.modAslot_memories (s : State) (p k : Nat) (f : ASlot → ASlot) : (State.modAslot s p k f).memories = s.memories := by
  unfold State.modAslot
  repeat' first
    | (simp only [memories_mk])
    | (simp only [memories_eta])

@[simp] theorem State.freeModelKey_memories (s : State) (mid gen : Nat) : (State.freeModelKey s mid gen).memories = s.memories := by
  unfold State.freeModelKey
  repeat' first
    | with_reducible rfl
    | split
    | (simp only [memories_mk])
    | (simp only [memories_eta])

theorem State.freePages_wf (s : State) (p : Nat) (vas : List Nat) (hwf : s.memories.wf = true) : (State.freePages s p vas).memories.wf = true := by
  unfold State.freePages
  repeat' first
    | with_reducible assumption
    | (simp only [hwf, ite_memories, Memories.ite_wf, ite_self, foldl_memories, implies_true, State.bloomEnd_memories, State.freeLeaf_memories, State.pruneTables_memories, State.failHolds_wf]; done)
    | (with_reducible refine State.failHolds_wf _ _ _ _ ?_)
    | (with_reducible refine foldl_wf _ _ _ ?_ (fun t x hwf => ?_))
    | (with_reducible refine foldl1_wf _ _ _ ?_ (fun t x hwf => ?_))
    | split
    | (simp only [State.bloomEnd_memories, State.freeLeaf_memories, State.pruneTables_memories])
    | (simp only [])
    | (simp only [memories_mk])
    | (simp only [memories_eta])

@[simp] theorem State.jobKeyEnd_memories (s : State) (j : Job) : (State.jobKeyEnd s j).memories = s.memories := by
  unfold State.jobKeyEnd
  repeat' first
    | with_reducible rfl
    | split
    | (simp only [memories_mk])
    | (simp only [memories_eta])

@[simp] theorem State.putJob_memories (s : State) (j : Job) : (State.putJob s j).memories = s.memories := by
  unfold State.putJob
  repeat' first
    | with_reducible rfl
    | (simp only [ite_memories, ite_self, foldl_memories, implies_true, State.bloomEnd_memories, State.jobKeyEnd_memories, State.sf_memories, State.wr_memories]; done)
    | (with_reducible refine (foldl_memories _ _ _ (fun t x => ?_)).trans ?_)
    | (with_reducible refine (foldl1_memories _ _ _ (fun t x => ?_)).trans ?_)
    | split
    | (simp only [State.bloomEnd_memories, State.jobKeyEnd_memories, State.sf_memories, State.wr_memories])
    | (simp only [])
    | (simp only [memories_mk])
    | (simp only [memories_eta])

@[simp] theorem State.modLoad_memories (s : State) (j : Job) (f : Load → Load) : (State.modLoad s j f).memories = s.memories := by
  unfold State.modLoad
  simp only [ite_memories, ite_self, State.modAslot_memories, State.modGen_memories]

@[simp] theorem State.memberFail_memories (s : State) (j : Job) (code : Nat) : (State.memberFail s j code).memories = s.memories := by
  unfold State.memberFail
  simp only [ite_memories, ite_self, State.bump_memories, State.jobKeyEnd_memories, State.modLoad_memories, State.putJob_memories]

@[simp] theorem State.memberPoll_memories (s : State) (j : Job) : (State.memberPoll s j).memories = s.memories := by
  unfold State.memberPoll
  repeat' first
    | with_reducible rfl
    | (simp only [ite_memories, ite_self, foldl_memories, implies_true, State.dropXfer_memories, State.launch_memories, State.putJob_memories]; done)
    | (with_reducible refine (foldl_memories _ _ _ (fun t x => ?_)).trans ?_)
    | (with_reducible refine (foldl1_memories _ _ _ (fun t x => ?_)).trans ?_)
    | split
    | (simp only [State.dropXfer_memories, State.launch_memories, State.putJob_memories])
    | (simp only [])
    | (simp only [memories_mk])
    | (simp only [memories_eta])

@[simp] theorem State.memberSettle_memories (s : State) (j : Job) : (State.memberSettle s j).memories = s.memories := by
  unfold State.memberSettle
  repeat' first
    | with_reducible rfl
    | (simp only [ite_memories, ite_self, foldl_memories, implies_true, State.memberPoll_memories, State.modAslot_memories, State.modLoad_memories]; done)
    | (with_reducible refine (foldl_memories _ _ _ (fun t x => ?_)).trans ?_)
    | (with_reducible refine (foldl1_memories _ _ _ (fun t x => ?_)).trans ?_)
    | split
    | (simp only [State.memberPoll_memories, State.modAslot_memories, State.modLoad_memories])
    | (simp only [])
    | (simp only [memories_mk])
    | (simp only [memories_eta])

@[simp] theorem State.readerSettle_memories (s : State) (j : Job) : (State.readerSettle s j).1.memories = s.memories := by
  unfold State.readerSettle
  repeat' first
    | (simp only [State.putJob_memories]; done)
    | split
    | (simp only [])

theorem State.setAborts_wf (s : State) (j : Job) (hwf : s.memories.wf = true) : (State.setAborts s j).memories.wf = true := by
  unfold State.setAborts
  repeat' first
    | with_reducible assumption
    | (simp only [hwf, ite_memories, Memories.ite_wf, State.writeMem_wf]; done)
    | (with_reducible refine foldl_wf _ _ _ ?_ (fun t x hwf => ?_))
    | split

theorem State.readerFail_wf (s : State) (j : Job) (code : Nat) (hwf : s.memories.wf = true) : (State.readerFail s j code).memories.wf = true := by
  unfold State.readerFail
  simp only [hwf, State.putJob_memories, State.setAborts_wf]

@[simp] theorem State.beginMember_memories (s : State) (j : Job) : (State.beginMember s j).memories = s.memories := by
  unfold State.beginMember
  repeat' first
    | with_reducible rfl
    | (simp only [ite_memories, State.modGen_memories]; done)
    | split
    | (simp only [State.modGen_memories])
    | (simp only [memories_mk])
    | (simp only [memories_eta])

theorem State.ldrStart_wf (s : State) (r : Requester) (ctx : Nat) (hwf : s.memories.wf = true) : (State.ldrStart s r ctx).memories.wf = true := by
  unfold State.ldrStart
  repeat' first
    | with_reducible assumption
    | (simp only [hwf, ite_memories, Memories.ite_wf, ite_self, foldl_memories, implies_true, State.beginMember_memories, State.ldr_memories, State.ldrEnd_memories, State.memberSettle_memories, State.putJob_memories, State.readerSettle_memories, State.ldr_wf]; done)
    | (with_reducible refine State.ldr_wf _ _ _ ?_ (fun t hwf => ?_))
    | (with_reducible refine foldl_wf _ _ _ ?_ (fun t x hwf => ?_))
    | (with_reducible refine foldl1_wf _ _ _ ?_ (fun t x hwf => ?_))
    | split
    | (simp only [State.beginMember_memories, State.ldr_memories, State.ldrEnd_memories, State.memberSettle_memories, State.putJob_memories, State.readerSettle_memories])
    | (simp only [])
    | (simp only [memories_mk])
    | (simp only [memories_eta])

theorem execLdrStart_wf (r : Requester) (job : Nat) (s : State) (t : State) (ht : execLdrStart r job s = .next t) (hwf : s.memories.wf = true) : t.memories.wf = true := by
  injection ht with ht
  rw [← ht]
  repeat' first
    | with_reducible assumption
    | (simp only [hwf, ite_memories, Memories.ite_wf, ite_self, foldl_memories, implies_true, State.ldrStart_wf]; done)
    | (with_reducible refine State.ldrStart_wf _ _ _ ?_)
    | (with_reducible refine foldl_wf _ _ _ ?_ (fun t x hwf => ?_))
    | (with_reducible refine foldl1_wf _ _ _ ?_ (fun t x hwf => ?_))
    | split
    | (simp only [])
    | (simp only [memories_mk])
    | (simp only [memories_eta])

theorem State.abortJob_wf (s : State) (j : Job) (hwf : s.memories.wf = true) : (State.abortJob s j).memories.wf = true := by
  unfold State.abortJob
  repeat' first
    | with_reducible assumption
    | (simp only [hwf, ite_memories, Memories.ite_wf, ite_self, State.memberFail_memories, State.readerFail_wf]; done)
    | split
    | (simp only [])

theorem State.ldrAbort_wf (s : State) (r : Requester) (ctx : Nat) (hwf : s.memories.wf = true) : (State.ldrAbort s r ctx).memories.wf = true := by
  unfold State.ldrAbort
  repeat' first
    | with_reducible assumption
    | (simp only [hwf, State.abortJob_wf, State.ldrEnd_memories]; done)
    | (with_reducible refine State.ldr_wf _ _ _ ?_ (fun t  hwf => ?_))
    | split

theorem execLdrAbort_wf (r : Requester) (job : Nat) (s : State) (t : State) (ht : execLdrAbort r job s = .next t) (hwf : s.memories.wf = true) : t.memories.wf = true := by
  injection ht with ht
  rw [← ht]
  simp only [hwf, State.ldrAbort_wf]

theorem State.readerPublish_wf (s : State) (ctx : Nat) (hostOk : Bool) (hwf : s.memories.wf = true) : (State.readerPublish s ctx hostOk).memories.wf = true := by
  unfold State.readerPublish
  repeat' first
    | with_reducible assumption
    | (simp only [hwf, ite_memories, Memories.ite_wf, State.readerFail_wf, State.readerSettle_memories, State.writeMem_wf]; done)
    | (with_reducible refine State.writeMem_wf _ _ _ ?_)
    | split
    | (simp only [hwf, ite_memories, Memories.ite_wf, State.readerFail_wf, State.readerSettle_memories])

theorem execReaderPublishChunk_wf (job : Nat) (hostOk : Bool) (s : State) (t : State) (ht : execReaderPublishChunk job hostOk s = .next t) (hwf : s.memories.wf = true) : t.memories.wf = true := by
  injection ht with ht
  rw [← ht]
  simp only [hwf, State.readerPublish_wf]

@[simp] theorem State.slotTimeout_memories (s : State) (ctx slot : Nat) : (State.slotTimeout s ctx slot).memories = s.memories := by
  unfold State.slotTimeout
  repeat' first
    | with_reducible rfl
    | (simp only [ite_memories, ite_self, foldl_memories, implies_true, State.readerSettle_memories, State.until_memories]; done)
    | (with_reducible refine (foldl_memories _ _ _ (fun t x => ?_)).trans ?_)
    | (with_reducible refine (foldl1_memories _ _ _ (fun t x => ?_)).trans ?_)
    | split
    | (simp only [State.readerSettle_memories, State.until_memories])
    | (simp only [])
    | (simp only [memories_mk])
    | (simp only [memories_eta])

theorem execStagingSlotTimeout_memories (job slot : Nat) (s : State) (t : State) (ht : execStagingSlotTimeout job slot s = .next t) : t.memories = s.memories := by
  injection ht with ht
  rw [← ht]
  simp only [State.slotTimeout_memories]

theorem State.memberCas_wf (s : State) (j : Job) (hwf : s.memories.wf = true) : (State.memberCas s j).memories.wf = true := by
  unfold State.memberCas
  repeat' first
    | with_reducible assumption
    | (simp only [hwf, ite_memories, Memories.ite_wf, ite_self, foldl_memories, implies_true, State.dropXfer_memories, State.expect_memories, State.launch_memories, State.memberSettle_memories, State.putJob_memories, State.writeMem_wf]; done)
    | (with_reducible refine State.writeMem_wf _ _ _ ?_)
    | (with_reducible refine foldl_wf _ _ _ ?_ (fun t x hwf => ?_))
    | (with_reducible refine foldl1_wf _ _ _ ?_ (fun t x hwf => ?_))
    | split
    | (simp only [State.dropXfer_memories, State.expect_memories, State.launch_memories, State.memberSettle_memories, State.putJob_memories])
    | (simp only [])
    | (simp only [memories_mk])
    | (simp only [memories_eta])

theorem State.memberAcked_wf (s : State) (j : Job) (hwf : s.memories.wf = true) : (State.memberAcked s j).memories.wf = true := by
  unfold State.memberAcked
  repeat' first
    | with_reducible assumption
    | (simp only [hwf, ite_memories, Memories.ite_wf, ite_self, foldl_memories, implies_true, State.expect_memories, State.memberSettle_memories, State.memberCas_wf]; done)
    | (with_reducible refine State.memberCas_wf _ _ ?_)
    | (with_reducible refine foldl_wf _ _ _ ?_ (fun t x hwf => ?_))
    | (with_reducible refine foldl1_wf _ _ _ ?_ (fun t x hwf => ?_))
    | split
    | (simp only [State.expect_memories, State.memberSettle_memories])
    | (simp only [])
    | (simp only [memories_mk])
    | (simp only [memories_eta])

theorem State.memberHeader_wf (s : State) (j : Job) (h : List Byte) (hwf : s.memories.wf = true) : (State.memberHeader s j h).memories.wf = true := by
  unfold State.memberHeader
  repeat' first
    | with_reducible assumption
    | (simp only [hwf, ite_memories, Memories.ite_wf, ite_self, foldl_memories, implies_true, State.bloomAsk_memories, State.dropXfer_memories, State.launch_memories, State.memberSettle_memories, State.modXfer_memories, State.putJob_memories, State.memberCas_wf]; done)
    | (with_reducible refine State.memberCas_wf _ _ ?_)
    | (with_reducible refine foldl_wf _ _ _ ?_ (fun t x hwf => ?_))
    | (with_reducible refine foldl1_wf _ _ _ ?_ (fun t x hwf => ?_))
    | split
    | (simp only [State.bloomAsk_memories, State.dropXfer_memories, State.launch_memories, State.memberSettle_memories, State.modXfer_memories, State.putJob_memories])
    | (simp only [])
    | (simp only [memories_mk])
    | (simp only [memories_eta])

theorem State.memberEntry_wf (s : State) (j : Job) (e : List Byte) (hwf : s.memories.wf = true) : (State.memberEntry s j e).memories.wf = true := by
  unfold State.memberEntry
  repeat' first
    | with_reducible assumption
    | (simp only [hwf, ite_memories, Memories.ite_wf, ite_self, foldl_memories, implies_true, State.dropXfer_memories, State.launch_memories, State.memberFail_memories, State.memberPoll_memories, State.memberSettle_memories, State.putJob_memories, State.memberHeader_wf]; done)
    | (with_reducible refine State.memberHeader_wf _ _ _ ?_)
    | (with_reducible refine foldl_wf _ _ _ ?_ (fun t x hwf => ?_))
    | (with_reducible refine foldl1_wf _ _ _ ?_ (fun t x hwf => ?_))
    | split
    | (simp only [State.dropXfer_memories, State.launch_memories, State.memberFail_memories, State.memberPoll_memories, State.memberSettle_memories, State.putJob_memories])
    | (simp only [])
    | (simp only [memories_mk])
    | (simp only [memories_eta])

theorem State.memberSeen_wf (s : State) (ctx : Nat) (hwf : s.memories.wf = true) : (State.memberSeen s ctx).memories.wf = true := by
  unfold State.memberSeen
  repeat' first
    | with_reducible assumption
    | (simp only [hwf, ite_memories, Memories.ite_wf, ite_self, foldl_memories, implies_true, State.memberPoll_memories, State.memberAcked_wf, State.memberEntry_wf, State.memberHeader_wf]; done)
    | (with_reducible refine State.memberAcked_wf _ _ ?_)
    | (with_reducible refine State.memberEntry_wf _ _ _ ?_)
    | (with_reducible refine State.memberHeader_wf _ _ _ ?_)
    | (with_reducible refine foldl_wf _ _ _ ?_ (fun t x hwf => ?_))
    | (with_reducible refine foldl1_wf _ _ _ ?_ (fun t x hwf => ?_))
    | split
    | (simp only [State.memberPoll_memories])
    | (simp only [])
    | (simp only [memories_mk])
    | (simp only [memories_eta])

theorem execMemberChunkSeen_wf (job chunk : Nat) (s : State) (t : State) (ht : execMemberChunkSeen job chunk s = .next t) (hwf : s.memories.wf = true) : t.memories.wf = true := by
  injection ht with ht
  rw [← ht]
  repeat' first
    | with_reducible assumption
    | (simp only [hwf, ite_memories, Memories.ite_wf, ite_self, foldl_memories, implies_true, State.memberSeen_wf]; done)
    | (with_reducible refine State.memberSeen_wf _ _ ?_)
    | (with_reducible refine foldl_wf _ _ _ ?_ (fun t x hwf => ?_))
    | (with_reducible refine foldl1_wf _ _ _ ?_ (fun t x hwf => ?_))
    | split
    | (simp only [])
    | (simp only [memories_mk])
    | (simp only [memories_eta])

theorem leavesSet_wf (s : State) (l : List Leaf) (hwf : s.memories.wf = true) : (State.memories { s with leaves := l }).wf = true := hwf

theorem State.chunkPlain_wf (s : State) (p : Nat) (l : Leaf) (bs : List Byte) (t : State)
    (ht : State.chunkPlain s p l bs = some t) (hwf : s.memories.wf = true) : t.memories.wf = true := by
  obtain ⟨f, hf, e⟩ := Option.map_eq_some_iff.mp ht
  rw [← e]
  exact State.tierWrite_wf _ _ _ _ (leavesSet_wf _ _ (State.placeFor_wf s p l l.tier hwf))

theorem State.chunkSeg_wf (s : State) (p : Nat) (l : Leaf) (f : Nat) (bs : List Byte) (t : State)
    (ht : State.chunkSeg s p l f bs = some t) (hwf : s.memories.wf = true) : t.memories.wf = true := by
  unfold State.chunkSeg at ht
  split at ht
  · rw [← Option.some.inj ht]
    exact leavesSet_wf s _ hwf
  · obtain ⟨a, ha, e⟩ := Option.map_eq_some_iff.mp ht
    rw [← e, State.setLeaf_memories]
    exact State.writeMem_wf _ _ _ (State.placeFor_wf _ p l 0 (leavesSet_wf s _ hwf))

theorem State.chunkPage_wf (s : State) (p : Nat) (h : List Byte) (va : Nat) (bs : List Byte) (seg : Option (List Byte)) (t : State)
    (ht : State.chunkPage s p h va bs seg = some t) (hwf : s.memories.wf = true) : t.memories.wf = true := by
  cases seg with
  | none => exact State.chunkPlain_wf _ _ _ _ _ ht hwf
  | some g =>
    obtain ⟨f, _, ht⟩ := Option.bind_eq_some_iff.mp ht
    exact State.chunkSeg_wf _ _ _ _ _ _ ht (State.writeMem_wf _ _ _ (State.placeFor_wf s p _ 1 hwf))

theorem mapChunk_wf (p : Nat) (h : List Byte) (seg : Option (List Byte)) (l : List Nat) (bs : List Byte) (s : State) (t : State)
    (ht : mapChunk p h seg l bs s = some t) (hwf : s.memories.wf = true) : t.memories.wf = true := by
  induction l generalizing s bs with
  | nil =>
    unfold mapChunk at ht
    split at ht
    · cases ht
    · cases ht; exact State.placeTables_wf _ hwf
  | cons va l ih =>
    unfold mapChunk at ht
    split at ht
    · cases ht
    · rename_i u hu; exact ih _ _ ht (State.chunkPage_wf _ _ _ _ _ _ _ hu hwf)

@[simp] theorem State.noteWritten_memories (s : State) (j : Job) (h bs : List Byte) : (State.noteWritten s j h bs).memories = s.memories := by
  unfold State.noteWritten
  repeat' first
    | with_reducible rfl
    | (simp only [ite_memories, ite_self, foldl_memories, implies_true, State.modAslot_memories, State.modGen_memories, State.shadowStripe_memories]; done)
    | (with_reducible refine (foldl_memories _ _ _ (fun t x => ?_)).trans ?_)
    | (with_reducible refine (foldl1_memories _ _ _ (fun t x => ?_)).trans ?_)
    | split
    | (simp only [State.modAslot_memories, State.modGen_memories, State.shadowStripe_memories])
    | (simp only [])
    | (simp only [memories_mk])
    | (simp only [memories_eta])

@[simp] theorem State.noteChunk_memories (s : State) (j : Job) (h bs : List Byte) : (State.noteChunk s j h bs).memories = s.memories := by
  unfold State.noteChunk
  repeat' first
    | with_reducible rfl
    | (simp only [ite_memories, ite_self, foldl_memories, implies_true, State.modLoad_memories, State.noteWritten_memories]; done)
    | (with_reducible refine (foldl_memories _ _ _ (fun t x => ?_)).trans ?_)
    | (with_reducible refine (foldl1_memories _ _ _ (fun t x => ?_)).trans ?_)
    | split
    | (simp only [State.modLoad_memories, State.noteWritten_memories])
    | (simp only [])
    | (simp only [memories_mk])
    | (simp only [memories_eta])

theorem State.chunkCommit_wf (s : State) (j : Job) (chunk : List Byte) (hwf : s.memories.wf = true) : (State.chunkCommit s j chunk).1.memories.wf = true := by
  unfold State.chunkCommit
  repeat' first
    | with_reducible assumption
    | (simp only [hwf, ite_memories, Memories.ite_wf, ite_self, foldl_memories, implies_true, State.blmReason_memories, State.modGen_memories, State.noteChunk_memories, State.reportUc_memories, State.freeRanges_wf, State.writeMem_wf, mapChunk_wf]; done)
    | (with_reducible refine mapChunk_wf _ _ _ _ _ _ _ (by assumption) ?_)
    | (with_reducible refine State.freeRanges_wf _ _ ?_)
    | (with_reducible refine State.writeMem_wf _ _ _ ?_)
    | (with_reducible refine foldl_wf _ _ _ ?_ (fun t x hwf => ?_))
    | (with_reducible refine foldl1_wf _ _ _ ?_ (fun t x hwf => ?_))
    | split
    | (simp only [State.blmReason_memories, State.modGen_memories, State.noteChunk_memories, State.reportUc_memories])
    | (simp only [])
    | (simp only [memories_mk])
    | (simp only [memories_eta])

theorem State.memberCommit_wf (s : State) (ctx : Nat) (hwf : s.memories.wf = true) : (State.memberCommit s ctx).memories.wf = true := by
  unfold State.memberCommit
  repeat' first
    | with_reducible assumption
    | (simp only [hwf, ite_memories, Memories.ite_wf, ite_self, foldl_memories, implies_true, State.memberFail_memories, State.memberPoll_memories, State.memberSettle_memories, State.chunkCommit_wf, State.memberCas_wf]; done)
    | (with_reducible refine State.chunkCommit_wf _ _ _ ?_)
    | (with_reducible refine State.memberCas_wf _ _ ?_)
    | (with_reducible refine foldl_wf _ _ _ ?_ (fun t x hwf => ?_))
    | (with_reducible refine foldl1_wf _ _ _ ?_ (fun t x hwf => ?_))
    | split
    | (simp only [State.memberFail_memories, State.memberPoll_memories, State.memberSettle_memories])
    | (simp only [])
    | (simp only [memories_mk])
    | (simp only [memories_eta])

theorem execMemberChunkCommit_wf (job chunk : Nat) (s : State) (t : State) (ht : execMemberChunkCommit job chunk s = .next t) (hwf : s.memories.wf = true) : t.memories.wf = true := by
  injection ht with ht
  rw [← ht]
  repeat' first
    | with_reducible assumption
    | (simp only [hwf, ite_memories, Memories.ite_wf, ite_self, foldl_memories, implies_true, State.memberCommit_wf]; done)
    | (with_reducible refine State.memberCommit_wf _ _ ?_)
    | (with_reducible refine foldl_wf _ _ _ ?_ (fun t x hwf => ?_))
    | (with_reducible refine foldl1_wf _ _ _ ?_ (fun t x hwf => ?_))
    | split
    | (simp only [])
    | (simp only [memories_mk])
    | (simp only [memories_eta])

@[simp] theorem State.loadInactive_memories (s : State) (ctx : Nat) : (State.loadInactive s ctx).memories = s.memories := by
  unfold State.loadInactive
  repeat' first
    | with_reducible rfl
    | (simp only [ite_memories, ite_self, foldl_memories, implies_true, State.memberFail_memories, State.until_memories]; done)
    | (with_reducible refine (foldl_memories _ _ _ (fun t x => ?_)).trans ?_)
    | (with_reducible refine (foldl1_memories _ _ _ (fun t x => ?_)).trans ?_)
    | split
    | (simp only [State.memberFail_memories, State.until_memories])
    | (simp only [])
    | (simp only [memories_mk])
    | (simp only [memories_eta])

theorem execLoadInactivityTimeout_memories (job : Nat) (s : State) (t : State) (ht : execLoadInactivityTimeout job s = .next t) : t.memories = s.memories := by
  injection ht with ht
  rw [← ht]
  simp only [State.loadInactive_memories]

theorem State.dropGen_wf (s : State) (g : Gen) (hwf : s.memories.wf = true) : (State.dropGen s g).memories.wf = true := by
  unfold State.dropGen
  repeat' first
    | with_reducible assumption
    | (simp only [hwf, ite_memories, Memories.ite_wf, ite_self, foldl_memories, implies_true, State.dropStripes_memories, State.freeModelKey_memories, State.showGens_memories, State.abortJob_wf, State.freePages_wf, State.zeroMem_wf]; done)
    | (with_reducible refine State.abortJob_wf _ _ ?_)
    | (with_reducible refine State.freePages_wf _ _ _ ?_)
    | (with_reducible refine State.zeroMem_wf _ _ _ ?_)
    | (with_reducible refine foldl_wf _ _ _ ?_ (fun t x hwf => ?_))
    | (with_reducible refine foldl1_wf _ _ _ ?_ (fun t x hwf => ?_))
    | split
    | (simp only [State.dropStripes_memories, State.freeModelKey_memories, State.showGens_memories])
    | (simp only [])
    | (simp only [memories_mk])
    | (simp only [memories_eta])

theorem State.drop_wf (s : State) (r : Requester) (p gen : Nat) (hwf : s.memories.wf = true) : (State.drop s r p gen).memories.wf = true := by
  unfold State.drop
  repeat' first
    | with_reducible assumption
    | (simp only [hwf, ite_memories, Memories.ite_wf, ite_self, State.dropGen_wf, State.ldrEnd_memories]; done)
    | (with_reducible refine State.ldr_wf _ _ _ ?_ (fun t  hwf => ?_))
    | split

theorem execDrop_wf (r : Requester) (p gen : Nat) (s : State) (t : State) (ht : execDrop r p gen s = .next t) (hwf : s.memories.wf = true) : t.memories.wf = true := by
  injection ht with ht
  rw [← ht]
  simp only [hwf, State.drop_wf]

theorem State.dropAslot_wf (s : State) (a : ASlot) (hwf : s.memories.wf = true) : (State.dropAslot s a).memories.wf = true := by
  unfold State.dropAslot
  repeat' first
    | with_reducible assumption
    | (simp only [hwf, ite_memories, Memories.ite_wf, ite_self, foldl_memories, implies_true, State.dropStripes_memories, State.abortJob_wf, State.freePages_wf]; done)
    | (with_reducible refine State.abortJob_wf _ _ ?_)
    | (with_reducible refine State.freePages_wf _ _ _ ?_)
    | (with_reducible refine foldl_wf _ _ _ ?_ (fun t x hwf => ?_))
    | (with_reducible refine foldl1_wf _ _ _ ?_ (fun t x hwf => ?_))
    | split
    | (simp only [State.dropStripes_memories])
    | (simp only [])
    | (simp only [memories_mk])
    | (simp only [memories_eta])

theorem State.adrop_wf (s : State) (r : Requester) (p slot : Nat) (hwf : s.memories.wf = true) : (State.adrop s r p slot).memories.wf = true := by
  unfold State.adrop
  repeat' first
    | with_reducible assumption
    | (simp only [hwf, ite_memories, Memories.ite_wf, ite_self, State.dropAslot_wf, State.ldrEnd_memories]; done)
    | (with_reducible refine State.ldr_wf _ _ _ ?_ (fun t  hwf => ?_))
    | split

theorem execAdrop_wf (r : Requester) (p slot : Nat) (s : State) (t : State) (ht : execAdrop r p slot s = .next t) (hwf : s.memories.wf = true) : t.memories.wf = true := by
  injection ht with ht
  rw [← ht]
  simp only [hwf, State.adrop_wf]

theorem State.dropPart_wf (s : State) (p : Nat) (hwf : s.memories.wf = true) : (State.dropPart s p).memories.wf = true := by
  unfold State.dropPart
  repeat' first
    | with_reducible assumption
    | (simp only [hwf, ite_memories, Memories.ite_wf, ite_self, foldl_memories, implies_true, State.bloomEnd_memories, State.dropXfer_memories, State.jobKeyEnd_memories, State.sf_memories, State.wr_memories, State.dropAslot_wf, State.dropGen_wf]; done)
    | (with_reducible refine State.dropAslot_wf _ _ ?_)
    | (with_reducible refine State.dropGen_wf _ _ ?_)
    | (with_reducible refine foldl_wf _ _ _ ?_ (fun t x hwf => ?_))
    | (with_reducible refine foldl1_wf _ _ _ ?_ (fun t x hwf => ?_))
    | split
    | (simp only [State.bloomEnd_memories, State.dropXfer_memories, State.jobKeyEnd_memories, State.sf_memories, State.wr_memories])
    | (simp only [])
    | (simp only [memories_mk])
    | (simp only [memories_eta])

@[simp] theorem State.ldrActivate_memories (s : State) (r : Requester) (p gen : Nat) : (State.ldrActivate s r p gen).memories = s.memories := by
  unfold State.ldrActivate
  repeat' first
    | with_reducible rfl
    | (simp only [ite_memories, State.cmdCode_memories, State.ldrEnd_memories]; done)
    | (with_reducible refine (State.ldr_memories _ _ _ (fun t  => ?_)).trans ?_)
    | split
    | (simp only [State.cmdCode_memories])
    | (simp only [memories_mk])
    | (simp only [memories_eta])

theorem execLdrActivate_memories (r : Requester) (p gen : Nat) (s : State) (t : State) (ht : execLdrActivate r p gen s = .next t) : t.memories = s.memories := by
  injection ht with ht
  rw [← ht]
  simp only [State.ldrActivate_memories]

@[simp] theorem State.activateEnd_memories (s : State) (a : Activation) (code : Nat) : (State.activateEnd s a code).memories = s.memories := by
  unfold State.activateEnd
  repeat' first
    | split
    | (simp only [State.ldrEnd_memories])
    | (simp only [memories_mk])
    | (simp only [memories_eta])

@[simp] theorem State.activateCheck_memories (s : State) (p : Nat) (complete : Bool) : (State.activateCheck s p complete).memories = s.memories := by
  unfold State.activateCheck
  repeat' first
    | with_reducible rfl
    | (simp only [ite_memories, State.activateEnd_memories]; done)
    | split
    | (simp only [ite_memories, State.activateEnd_memories])
    | (simp only [memories_mk])
    | (simp only [memories_eta])

theorem execActivateCheckDone_memories (p : Nat) (complete : Bool) (s : State) (t : State) (ht : execActivateCheckDone p complete s = .next t) : t.memories = s.memories := by
  injection ht with ht
  rw [← ht]
  simp only [State.activateCheck_memories]

@[simp] theorem State.switchGen_memories (s : State) (p : Nat) : (State.switchGen s p).memories = s.memories := by
  unfold State.switchGen
  repeat' first
    | with_reducible rfl
    | (simp only [ite_memories, ite_self, foldl_memories, implies_true, State.activateEnd_memories, State.showGens_memories, State.tell_memories]; done)
    | (with_reducible refine (foldl_memories _ _ _ (fun t x => ?_)).trans ?_)
    | (with_reducible refine (foldl1_memories _ _ _ (fun t x => ?_)).trans ?_)
    | split
    | (simp only [State.activateEnd_memories, State.showGens_memories, State.tell_memories])
    | (simp only [])
    | (simp only [memories_mk])
    | (simp only [memories_eta])

@[simp] theorem State.drainExpiry_memories (s : State) (p : Nat) : (State.drainExpiry s p).memories = s.memories := by
  unfold State.drainExpiry
  simp only [memories_mk]
  simp only [memories_eta]
  split
  · exact State.until_memories _ _
  · rfl

theorem execDrainLimitExpiry_memories (p : Nat) (s : State) (t : State) (ht : execDrainLimitExpiry p s = .next t) : t.memories = s.memories := by
  injection ht with ht
  rw [← ht]
  simp only [State.drainExpiry_memories]

/-! ### Rail -/

@[simp] theorem State.setRing_memories (s : State) (fn : Nat) (x : Ring) : (State.setRing s fn x).memories = s.memories := by
  unfold State.setRing
  repeat' first
    | (simp only [memories_mk])
    | (simp only [memories_eta])

@[simp] theorem State.modRing_memories (s : State) (fn : Nat) (g : Ring → Ring) : (State.modRing s fn g).memories = s.memories := by
  unfold State.modRing
  simp only [State.setRing_memories]

theorem State.cqRecord_wf (s : State) (fn : Nat) (w : List Nat) (hwf : s.memories.wf = true) : (State.cqRecord s fn w).memories.wf = true := by
  unfold State.cqRecord
  simp only [hwf, State.modRing_memories, State.sf_memories, State.writeHost_wf]

theorem cqFlush_wf (fn n : Nat) (s : State) (hwf : s.memories.wf = true) : (cqFlush fn n s).memories.wf = true := by
  induction n generalizing s with
  | zero => exact hwf
  | succ k ih =>
    unfold cqFlush
    split
    · exact hwf
    · refine ite_wf _ _ _ hwf (ih _ (State.cqRecord_wf _ _ _ ?_))
      rw [State.modRing_memories]; exact hwf

theorem State.sendRec_wf (s : State) (e : Entry) (w : List Nat) (hwf : s.memories.wf = true) : (State.sendRec s e w).memories.wf = true := by
  unfold State.sendRec
  repeat' first
    | with_reducible assumption
    | (simp only [hwf, State.emit_memories, State.modRing_memories, cqFlush_wf]; done)
    | split
    | (simp only [memories_mk])
    | (simp only [memories_eta])

theorem State.refuseReq_wf (s : State) (e : Entry) (reqid reason w2 : Nat) (hwf : s.memories.wf = true) : (State.refuseReq s e reqid reason w2).memories.wf = true := by
  unfold State.refuseReq
  simp only [hwf, State.bump_memories, State.sendRec_wf]

@[simp] theorem State.qErr_memories (s : State) (fn k : Nat) : (State.qErr s fn k).memories = s.memories := by
  unfold State.qErr
  simp only [State.report_memories, State.setBit_memories]

theorem State.cqFailed_wf (s : State) (fn : Nat) (hwf : s.memories.wf = true) : (State.cqFailed s fn).memories.wf = true := by
  unfold State.cqFailed
  repeat' first
    | with_reducible assumption
    | (simp only [hwf, ite_memories, Memories.ite_wf, ite_self, foldl_memories, implies_true, State.fresh_memories, State.qErr_memories, State.writeHost_wf]; done)
    | (with_reducible refine State.writeHost_wf _ _ _ ?_)
    | (with_reducible refine foldl_wf _ _ _ ?_ (fun t x hwf => ?_))
    | (with_reducible refine foldl1_wf _ _ _ ?_ (fun t x hwf => ?_))
    | split
    | (simp only [State.fresh_memories, State.qErr_memories])
    | (simp only [])
    | (simp only [memories_mk])
    | (simp only [memories_eta])

theorem State.cqInterrupt_wf (s : State) (fn : Nat) (hostOk : Bool) (hwf : s.memories.wf = true) : (State.cqInterrupt s fn hostOk).memories.wf = true := by
  unfold State.cqInterrupt
  repeat' first
    | with_reducible assumption
    | (simp only [hwf, ite_memories, Memories.ite_wf, ite_self, foldl_memories, implies_true, State.emit_memories, State.modRing_memories, State.until_memories, State.cqFailed_wf]; done)
    | (with_reducible refine State.cqFailed_wf _ _ ?_)
    | (with_reducible refine foldl_wf _ _ _ ?_ (fun t x hwf => ?_))
    | (with_reducible refine foldl1_wf _ _ _ ?_ (fun t x hwf => ?_))
    | split
    | (simp only [State.emit_memories, State.modRing_memories, State.until_memories])
    | (simp only [])
    | (simp only [memories_mk])
    | (simp only [memories_eta])

theorem execCqInterrupt_wf (a : CqEvent) (s : State) (t : State) (ht : execCqInterrupt a s = .next t) (hwf : s.memories.wf = true) : t.memories.wf = true := by
  injection ht with ht
  rw [← ht]
  repeat' first
    | with_reducible assumption
    | (simp only [hwf, ite_memories, Memories.ite_wf, ite_self, foldl_memories, implies_true, State.cqInterrupt_wf]; done)
    | (with_reducible refine State.cqInterrupt_wf _ _ _ ?_)
    | (with_reducible refine foldl_wf _ _ _ ?_ (fun t x hwf => ?_))
    | (with_reducible refine foldl1_wf _ _ _ ?_ (fun t x hwf => ?_))
    | split
    | (simp only [])
    | (simp only [memories_mk])
    | (simp only [memories_eta])

@[simp] theorem State.wide_memories (s : State) (r : Requester) (c : Card) (i be : Nat) (k : State → State) (hk : ∀ t , (k t ).memories = t.memories) : (State.wide s r c i be k).memories = s.memories := by
  unfold State.wide
  simp only [ite_memories, ite_self, implies_true, State.gate_memories, State.rejectAccess_memories, hk]

theorem State.wide_wf (s : State) (r : Requester) (c : Card) (i be : Nat) (k : State → State) (hwf : s.memories.wf = true) (hk : ∀ t , t.memories.wf = true → (k t ).memories.wf = true) : (State.wide s r c i be k).memories.wf = true := by
  unfold State.wide
  repeat' first
    | with_reducible assumption
    | (simp only [hwf, ite_memories, Memories.ite_wf, State.rejectAccess_memories, hk]; done)
    | (with_reducible refine State.gate_wf _ _ _ _ _ ?_ (fun t  hwf => ?_))
    | split

@[simp] theorem State.sqTailWrite_memories (s : State) (r : Requester) (be : Nat) (val : Word) : (State.sqTailWrite s r be val).memories = s.memories := by
  unfold State.sqTailWrite
  simp only [ite_memories, ite_self, implies_true, State.modRing_memories, State.qErr_memories, State.wide_memories]

theorem execSqTailWrite_memories (r : Requester) (be : Nat) (val : Word) (s : State) (t : State) (ht : execSqTailWrite r be val s = .next t) : t.memories = s.memories := by
  injection ht with ht
  rw [← ht]
  simp only [State.sqTailWrite_memories]

theorem State.cqHeadWrite_wf (s : State) (r : Requester) (be : Nat) (val : Word) (hwf : s.memories.wf = true) : (State.cqHeadWrite s r be val).memories.wf = true := by
  unfold State.cqHeadWrite
  repeat' first
    | with_reducible assumption
    | (simp only [hwf, ite_memories, Memories.ite_wf, ite_self, State.modRing_memories, State.qErr_memories, cqFlush_wf]; done)
    | (with_reducible refine State.wide_wf _ _ _ _ _ _ ?_ (fun t  hwf => ?_))

theorem execCqHeadWrite_wf (r : Requester) (be : Nat) (val : Word) (s : State) (t : State) (ht : execCqHeadWrite r be val s = .next t) (hwf : s.memories.wf = true) : t.memories.wf = true := by
  injection ht with ht
  rw [← ht]
  simp only [hwf, State.cqHeadWrite_wf]

@[simp] theorem State.qcfgWrite_memories (s : State) (r : Requester) (c : Card) (put : State → State) (hput : ∀ t , (put t ).memories = t.memories) : (State.qcfgWrite s r c put).memories = s.memories := by
  unfold State.qcfgWrite
  simp only [ite_memories, ite_self, implies_true, State.gate_memories, State.qErr_memories, hput]

theorem State.qcfgWrite_wf (s : State) (r : Requester) (c : Card) (put : State → State) (hwf : s.memories.wf = true) (hput : ∀ t , t.memories.wf = true → (put t ).memories.wf = true) : (State.qcfgWrite s r c put).memories.wf = true := by
  unfold State.qcfgWrite
  repeat' first
    | with_reducible assumption
    | (simp only [hwf, ite_memories, Memories.ite_wf, ite_self, State.qErr_memories, hput]; done)
    | (with_reducible refine State.gate_wf _ _ _ _ _ ?_ (fun t  hwf => ?_))

theorem execTktQcfgWrite_memories (r : Requester) (off be : Nat) (val : Word) (s : State) (t : State) (ht : execTktQcfgWrite r off be val s = .next t) : t.memories = s.memories := by
  injection ht with ht
  rw [← ht]
  repeat' first
    | with_reducible rfl
    | (simp only [ite_memories, ite_self, foldl_memories, implies_true, State.qcfgWrite_memories, State.write4_memories]; done)
    | (with_reducible refine (foldl_memories _ _ _ (fun t x => ?_)).trans ?_)
    | (with_reducible refine (foldl1_memories _ _ _ (fun t x => ?_)).trans ?_)
    | (with_reducible refine State.write4_memories _ _ _ _ _ _ _ (fun c g t hg => ?_))
    | (simp only [implies_true, hg, State.qcfgWrite_memories, State.write4_memories]; done)
    | split
    | (simp only [State.qcfgWrite_memories, State.write4_memories])
    | (simp only [])
    | (simp only [memories_mk])
    | (simp only [memories_eta])

@[simp] theorem State.showRail_memories (s : State) : (State.showRail s).memories = s.memories := by
  unfold State.showRail
  simp only [State.sf_memories]

@[simp] theorem State.retire_memories (s : State) (k reason : Nat) : (State.retire s k reason).memories = s.memories := by
  unfold State.retire
  simp only [ite_memories, ite_self, State.modRail_memories, State.setTicket_memories, State.showRail_memories]

@[simp] theorem State.unreserve_memories (s : State) (k n : Nat) : (State.unreserve s k n).memories = s.memories := by
  unfold State.unreserve
  repeat' first
    | with_reducible rfl
    | (simp only [State.modRing_memories, State.modTicket_memories]; done)
    | split
    | (simp only [])

theorem State.sendOwn_wf (s : State) (k : Nat) (w : List Nat) (hwf : s.memories.wf = true) : (State.sendOwn s k w).memories.wf = true := by
  unfold State.sendOwn
  repeat' first
    | with_reducible assumption
    | (simp only [hwf, ite_memories, Memories.ite_wf, ite_self, foldl_memories, implies_true, State.unreserve_memories, State.cqRecord_wf, State.sendRec_wf]; done)
    | (with_reducible refine State.cqRecord_wf _ _ _ ?_)
    | (with_reducible refine State.sendRec_wf _ _ _ ?_)
    | (with_reducible refine foldl_wf _ _ _ ?_ (fun t x hwf => ?_))
    | (with_reducible refine foldl1_wf _ _ _ ?_ (fun t x hwf => ?_))
    | split
    | (simp only [State.unreserve_memories])
    | (simp only [])
    | (simp only [memories_mk])
    | (simp only [memories_eta])

theorem State.endRec_wf (s : State) (k : Nat) (hwf : s.memories.wf = true) : (State.endRec s k).memories.wf = true := by
  unfold State.endRec
  repeat' first
    | with_reducible assumption
    | (simp only [hwf, ite_memories, Memories.ite_wf, ite_self, foldl_memories, implies_true, State.sendOwn_wf]; done)
    | (with_reducible refine State.sendOwn_wf _ _ _ ?_)
    | (with_reducible refine foldl_wf _ _ _ ?_ (fun t x hwf => ?_))
    | (with_reducible refine foldl1_wf _ _ _ ?_ (fun t x hwf => ?_))
    | split
    | (simp only [])
    | (simp only [memories_mk])
    | (simp only [memories_eta])

@[simp] theorem State.releaseTicket_memories (s : State) (k : Nat) : (State.releaseTicket s k).memories = s.memories := by
  unfold State.releaseTicket
  simp only [State.kvUnmapSlot_memories, State.modTicket_memories, State.radixRef_memories]

theorem State.freeSlot_wf (s : State) (k : Nat) (hwf : s.memories.wf = true) : (State.freeSlot s k).memories.wf = true := by
  unfold State.freeSlot
  repeat' first
    | with_reducible assumption
    | (simp only [hwf, ite_memories, Memories.ite_wf, ite_self, foldl_memories, implies_true, State.setTicket_memories, State.showRail_memories, State.unreserve_memories, cqFlush_wf]; done)
    | (with_reducible refine cqFlush_wf _ _ _ ?_)
    | (with_reducible refine foldl_wf _ _ _ ?_ (fun t x hwf => ?_))
    | (with_reducible refine foldl1_wf _ _ _ ?_ (fun t x hwf => ?_))
    | split
    | (simp only [State.setTicket_memories, State.showRail_memories, State.unreserve_memories])
    | (simp only [])
    | (simp only [memories_mk])
    | (simp only [memories_eta])

theorem State.retireRelease_wf (s : State) (k told : Nat) (hwf : s.memories.wf = true) : (State.retireRelease s k told).memories.wf = true := by
  unfold State.retireRelease
  repeat' first
    | with_reducible assumption
    | (simp only [hwf, ite_memories, Memories.ite_wf, ite_self, foldl_memories, implies_true, State.modTicket_memories, State.releaseTicket_memories, State.retainPages_memories, State.endRec_wf, State.freeSlot_wf, State.release_wf]; done)
    | (with_reducible refine State.endRec_wf _ _ ?_)
    | (with_reducible refine State.freeSlot_wf _ _ ?_)
    | (with_reducible refine State.release_wf _ _ _ ?_)
    | (with_reducible refine foldl_wf _ _ _ ?_ (fun t x hwf => ?_))
    | (with_reducible refine foldl1_wf _ _ _ ?_ (fun t x hwf => ?_))
    | split
    | (simp only [State.modTicket_memories, State.releaseTicket_memories, State.retainPages_memories])
    | (simp only [])
    | (simp only [memories_mk])
    | (simp only [memories_eta])

theorem execTicketRetireRelease_wf (a : Retirement) (s : State) (t : State) (ht : execTicketRetireRelease a s = .next t) (hwf : s.memories.wf = true) : t.memories.wf = true := by
  injection ht with ht
  rw [← ht]
  repeat' first
    | with_reducible assumption
    | (simp only [hwf, ite_memories, Memories.ite_wf, ite_self, foldl_memories, implies_true, State.retireRelease_wf]; done)
    | (with_reducible refine State.retireRelease_wf _ _ _ ?_)
    | (with_reducible refine foldl_wf _ _ _ ?_ (fun t x hwf => ?_))
    | (with_reducible refine foldl1_wf _ _ _ ?_ (fun t x hwf => ?_))
    | split
    | (simp only [])
    | (simp only [memories_mk])
    | (simp only [memories_eta])

theorem State.dropTicket_wf (s : State) (k : Nat) (hwf : s.memories.wf = true) : (State.dropTicket s k).memories.wf = true := by
  unfold State.dropTicket
  repeat' first
    | with_reducible assumption
    | (simp only [hwf, ite_memories, Memories.ite_wf, ite_self, foldl_memories, implies_true, State.modTicket_memories, State.releaseTicket_memories, State.freeSlot_wf]; done)
    | (with_reducible refine State.freeSlot_wf _ _ ?_)
    | (with_reducible refine foldl_wf _ _ _ ?_ (fun t x hwf => ?_))
    | (with_reducible refine foldl1_wf _ _ _ ?_ (fun t x hwf => ?_))
    | split
    | (simp only [State.modTicket_memories, State.releaseTicket_memories])
    | (simp only [])
    | (simp only [memories_mk])
    | (simp only [memories_eta])

theorem State.rootSlot_wf (s : State) (k : Nat) (hwf : s.memories.wf = true) : (State.rootSlot s k).memories.wf = true := by
  unfold State.rootSlot
  repeat' first
    | with_reducible assumption
    | (simp only [hwf, ite_memories, Memories.ite_wf, ite_self, foldl_memories, implies_true, State.modTicket_memories, State.placeTables_wf]; done)
    | (with_reducible refine State.placeTables_wf _ ?_)
    | (with_reducible refine foldl_wf _ _ _ ?_ (fun t x hwf => ?_))
    | (with_reducible refine foldl1_wf _ _ _ ?_ (fun t x hwf => ?_))
    | split
    | (simp only [State.modTicket_memories])
    | (simp only [])
    | (simp only [memories_mk])
    | (simp only [memories_eta])

theorem State.place_wf (s : State) (k : Nat) (t : Ticket) (start told : Option Nat) (hwf : s.memories.wf = true) : (State.place s k t start told).memories.wf = true := by
  unfold State.place
  repeat' first
    | with_reducible assumption
    | (simp only [hwf, ite_memories, Memories.ite_wf, ite_self, foldl_memories, implies_true, State.bump_memories, State.modRail_memories, State.noteMatch_memories, State.setTicket_memories, State.showRail_memories, State.tell_memories, State.rootSlot_wf, State.sendRec_wf]; done)
    | (with_reducible refine State.rootSlot_wf _ _ ?_)
    | (with_reducible refine State.sendRec_wf _ _ _ ?_)
    | (with_reducible refine foldl_wf _ _ _ ?_ (fun t x hwf => ?_))
    | (with_reducible refine foldl1_wf _ _ _ ?_ (fun t x hwf => ?_))
    | split
    | (simp only [State.bump_memories, State.modRail_memories, State.noteMatch_memories, State.setTicket_memories, State.showRail_memories, State.tell_memories])
    | (simp only [])
    | (simp only [memories_mk])
    | (simp only [memories_eta])

theorem State.admitTicket_wf (s : State) (e : Entry) (h : ReqHdr) (toks : List Nat) (hwf : s.memories.wf = true) : (State.admitTicket s e h toks).memories.wf = true := by
  unfold State.admitTicket
  repeat' first
    | with_reducible assumption
    | (simp only [hwf, ite_memories, Memories.ite_wf, ite_self, foldl_memories, implies_true, State.bump_memories, State.fresh_memories, State.prefixWalk_memories, State.releaseTicket_memories, State.retire_memories, State.endRec_wf, State.freeSlot_wf, State.place_wf, State.refuseReq_wf, State.sendRec_wf]; done)
    | (with_reducible refine State.endRec_wf _ _ ?_)
    | (with_reducible refine State.freeSlot_wf _ _ ?_)
    | (with_reducible refine State.place_wf _ _ _ _ _ ?_)
    | (with_reducible refine State.refuseReq_wf _ _ _ _ _ ?_)
    | (with_reducible refine State.sendRec_wf _ _ _ ?_)
    | (with_reducible refine foldl_wf _ _ _ ?_ (fun t x hwf => ?_))
    | (with_reducible refine foldl1_wf _ _ _ ?_ (fun t x hwf => ?_))
    | split
    | (simp only [State.bump_memories, State.fresh_memories, State.prefixWalk_memories, State.releaseTicket_memories, State.retire_memories])
    | (simp only [])
    | (simp only [memories_mk])
    | (simp only [memories_eta])

theorem State.cancelAt_wf (s : State) (e : Entry) (h : ReqHdr) (hwf : s.memories.wf = true) : (State.cancelAt s e h).memories.wf = true := by
  unfold State.cancelAt
  simp only [hwf, ite_memories, ite_self, State.modTicket_memories, State.sendRec_wf]

theorem State.queryAt_wf (s : State) (e : Entry) (h : ReqHdr) (hwf : s.memories.wf = true) : (State.queryAt s e h).memories.wf = true := by
  unfold State.queryAt
  repeat' first
    | (simp only [hwf, ite_memories, Memories.ite_wf, State.sendRec_wf]; done)
    | (with_reducible refine State.sendRec_wf _ _ _ ?_)
    | (with_reducible refine foldl_wf _ _ _ ?_ (fun t x hwf => ?_))
    | split
    | (simp only [])

theorem State.request_wf (s : State) (e : Entry) (h : ReqHdr) (op : Nat) (toks : List Nat) (hwf : s.memories.wf = true) : (State.request s e h op toks).memories.wf = true := by
  unfold State.request
  repeat' first
    | with_reducible assumption
    | (simp only [hwf, ite_memories, Memories.ite_wf, ite_self, foldl_memories, implies_true, State.fatalVertex_memories, State.tell_memories, State.admitTicket_wf, State.cancelAt_wf, State.queryAt_wf, State.refuseReq_wf]; done)
    | (with_reducible refine State.admitTicket_wf _ _ _ _ ?_)
    | (with_reducible refine State.cancelAt_wf _ _ _ ?_)
    | (with_reducible refine State.queryAt_wf _ _ _ ?_)
    | (with_reducible refine State.refuseReq_wf _ _ _ _ _ ?_)
    | (with_reducible refine foldl_wf _ _ _ ?_ (fun t x hwf => ?_))
    | (with_reducible refine foldl1_wf _ _ _ ?_ (fun t x hwf => ?_))
    | split
    | (simp only [State.fatalVertex_memories, State.tell_memories])
    | (simp only [])
    | (simp only [memories_mk])
    | (simp only [memories_eta])

theorem execSubmit_wf (e : Entry) (h : ReqHdr) (tokens : List Nat) (s : State) (t : State) (ht : execSubmit e h tokens s = .next t) (hwf : s.memories.wf = true) : t.memories.wf = true := by
  injection ht with ht
  rw [← ht]
  simp only [hwf, State.request_wf]

theorem execCancel_wf (e : Entry) (h : ReqHdr) (s : State) (t : State) (ht : execCancel e h s = .next t) (hwf : s.memories.wf = true) : t.memories.wf = true := by
  injection ht with ht
  rw [← ht]
  simp only [hwf, State.request_wf]

theorem execQuery_wf (e : Entry) (h : ReqHdr) (s : State) (t : State) (ht : execQuery e h s = .next t) (hwf : s.memories.wf = true) : t.memories.wf = true := by
  injection ht with ht
  rw [← ht]
  simp only [hwf, State.request_wf]

theorem State.answerReturn_wf (s : State) (idx w0 w1 w2 w3 : Nat) (hwf : s.memories.wf = true) : (State.answerReturn s idx w0 w1 w2 w3).memories.wf = true := by
  unfold State.answerReturn
  repeat' first
    | with_reducible assumption
    | (with_reducible refine State.sendRec_wf _ _ _ ?_)
    | split
    | (simp only [])
    | (simp only [memories_mk])
    | (simp only [memories_eta])

theorem execAnswerReturn_wf (idx w0 w1 w2 w3 : Nat) (s : State) (t : State) (ht : execAnswerReturn idx w0 w1 w2 w3 s = .next t) (hwf : s.memories.wf = true) : t.memories.wf = true := by
  injection ht with ht
  rw [← ht]
  simp only [hwf, State.answerReturn_wf]

@[simp] theorem State.resubmit_memories (s : State) (idx : Nat) : (State.resubmit s idx).memories = s.memories := by
  unfold State.resubmit
  repeat' first
    | with_reducible rfl
    | (simp only [ite_memories, ite_self, foldl_memories, implies_true, State.tell_memories]; done)
    | (with_reducible refine (foldl_memories _ _ _ (fun t x => ?_)).trans ?_)
    | (with_reducible refine (foldl1_memories _ _ _ (fun t x => ?_)).trans ?_)
    | split
    | (simp only [State.tell_memories])
    | (simp only [])
    | (simp only [memories_mk])
    | (simp only [memories_eta])

theorem execRequestResubmit_memories (idx : Nat) (s : State) (t : State) (ht : execRequestResubmit idx s = .next t) : t.memories = s.memories := by
  injection ht with ht
  rw [← ht]
  simp only [State.resubmit_memories]

theorem State.sqTake_wf (s : State) (fn : Nat) (hostOk : Bool) (hwf : s.memories.wf = true) : (State.sqTake s fn hostOk).memories.wf = true := by
  unfold State.sqTake
  simp only [hwf, ite_memories, Memories.ite_wf, ite_self, State.qErr_memories, State.refuseReq_wf, State.request_wf, State.sf_memories]

theorem execSqEntryTake_wf (fn : Nat) (hostOk : Bool) (s : State) (t : State) (ht : execSqEntryTake fn hostOk s = .next t) (hwf : s.memories.wf = true) : t.memories.wf = true := by
  injection ht with ht
  rw [← ht]
  simp only [hwf, State.sqTake_wf]

@[simp] theorem State.frontDrop_memories (s : State) (port code : Nat) : (State.frontDrop s port code).memories = s.memories := by
  unfold State.frontDrop
  simp only [State.bump_memories, State.report_memories]

@[simp] theorem State.frontReply_memories (s : State) (port : Nat) (mine : Bool) (kind : String) (v : Nat) : (State.frontReply s port mine kind v).memories = s.memories := by
  unfold State.frontReply
  simp only [ite_memories, ite_self, State.emit_memories, State.frontDrop_memories]

theorem execArpRequest_memories (port target : Nat) (s : State) (t : State) (ht : execArpRequest port target s = .next t) : t.memories = s.memories := by
  injection ht with ht
  rw [← ht]
  simp only [State.frontReply_memories]

theorem execNeighbourDiscovery_memories (port target : Nat) (s : State) (t : State) (ht : execNeighbourDiscovery port target s = .next t) : t.memories = s.memories := by
  injection ht with ht
  rw [← ht]
  simp only [State.frontReply_memories]

theorem execIcmpEcho_memories (port target : Nat) (payload : List Byte) (s : State) (t : State) (ht : execIcmpEcho port target payload s = .next t) : t.memories = s.memories := by
  injection ht with ht
  rw [← ht]
  simp only [ite_memories, ite_self, State.emit_memories, State.frontDrop_memories]

theorem State.tryComplete_wf (s : State) (x : Reassembly) (hwf : s.memories.wf = true) : (State.tryComplete s x).memories.wf = true := by
  unfold State.tryComplete
  repeat' first
    | with_reducible assumption
    | (with_reducible refine State.request_wf _ _ _ _ _ ?_)
    | split
    | (simp only [ite_memories, Memories.ite_wf])
    | (simp only [memories_mk])
    | (simp only [memories_eta])

theorem State.datagram_wf (s : State) (port : Nat) (ip : Ends) (ports : Option Ends) (h : ReqHdr) (toks : List Nat) (hwf : s.memories.wf = true) : (State.datagram s port ip ports h toks).memories.wf = true := by
  unfold State.datagram
  repeat' first
    | with_reducible assumption
    | (simp only [hwf, ite_memories, Memories.ite_wf, ite_self, foldl_memories, implies_true, State.frontDrop_memories, State.refuseReq_wf, State.request_wf, State.tryComplete_wf]; done)
    | (with_reducible refine State.refuseReq_wf _ _ _ _ _ ?_)
    | (with_reducible refine State.request_wf _ _ _ _ _ ?_)
    | (with_reducible refine State.tryComplete_wf _ _ ?_)
    | (with_reducible refine foldl_wf _ _ _ ?_ (fun t x hwf => ?_))
    | (with_reducible refine foldl1_wf _ _ _ ?_ (fun t x hwf => ?_))
    | split
    | (simp only [State.frontDrop_memories])
    | (simp only [])
    | (simp only [memories_mk])
    | (simp only [memories_eta])

theorem execRequestDatagram_wf (port : Nat) (addr : Ends) (udp : Option Ends) (h : ReqHdr) (tokens : List Nat) (s : State) (t : State) (ht : execRequestDatagram port addr udp h tokens s = .next t) (hwf : s.memories.wf = true) : t.memories.wf = true := by
  injection ht with ht
  rw [← ht]
  repeat' first
    | with_reducible assumption
    | (simp only [hwf, ite_memories, Memories.ite_wf, ite_self, foldl_memories, implies_true, State.datagram_wf]; done)
    | (with_reducible refine State.datagram_wf _ _ _ _ _ _ ?_)
    | (with_reducible refine foldl_wf _ _ _ ?_ (fun t x hwf => ?_))
    | (with_reducible refine foldl1_wf _ _ _ ?_ (fun t x hwf => ?_))
    | split
    | (simp only [])
    | (simp only [memories_mk])
    | (simp only [memories_eta])

theorem reasmSet_wf (s : State) (l : List Reassembly) (hwf : s.memories.wf = true) : (State.memories { s with reasm := l }).wf = true := hwf

theorem State.reasmTimeout_wf (s : State) (idx : Nat) (hwf : s.memories.wf = true) : (State.reasmTimeout s idx).memories.wf = true := by
  unfold State.reasmTimeout
  split
  · exact hwf
  · refine State.refuseReq_wf _ _ _ _ _ ?_
    rw [State.frontDrop_memories]
    refine reasmSet_wf (State.until s _) _ ?_
    rw [State.until_memories]
    exact hwf

theorem execReassemblyTimeout_wf (idx : Nat) (s : State) (t : State) (ht : execReassemblyTimeout idx s = .next t) (hwf : s.memories.wf = true) : t.memories.wf = true := by
  injection ht with ht
  rw [← ht]
  simp only [hwf, State.reasmTimeout_wf]

@[simp] theorem State.recordFlush_memories (s : State) (port : Nat) : (State.recordFlush s port).memories = s.memories := by
  unfold State.recordFlush
  repeat' first
    | with_reducible rfl
    | split
    | (simp only [])
    | (simp only [memories_mk])
    | (simp only [memories_eta])

theorem execRecordFlush_memories (port : Nat) (s : State) (t : State) (ht : execRecordFlush port s = .next t) : t.memories = s.memories := by
  injection ht with ht
  rw [← ht]
  simp only [State.recordFlush_memories]

/-! ### Steps -/

@[simp] theorem State.shadowFrame_memories (s : State) (f u : Nat) : (State.shadowFrame s f u).memories = s.memories := by
  unfold State.shadowFrame
  repeat' first
    | with_reducible rfl
    | (simp only [ite_memories, ite_self, foldl_memories, implies_true, State.shadowUnit_memories]; done)
    | (with_reducible refine (foldl_memories _ _ _ (fun t x => ?_)).trans ?_)
    | (with_reducible refine (foldl1_memories _ _ _ (fun t x => ?_)).trans ?_)
    | split
    | (simp only [State.shadowUnit_memories])
    | (simp only [])
    | (simp only [memories_mk])
    | (simp only [memories_eta])

@[simp] theorem State.shadowStores_memories (s : State) : (State.shadowStores s).memories = s.memories := by
  unfold State.shadowStores
  repeat' first
    | with_reducible rfl
    | (simp only [ite_memories, ite_self, foldl_memories, implies_true, State.emit_memories]; done)
    | (with_reducible refine (foldl_memories _ _ _ (fun t x => ?_)).trans ?_)
    | (with_reducible refine (foldl1_memories _ _ _ (fun t x => ?_)).trans ?_)
    | split
    | (simp only [State.emit_memories])
    | (simp only [])
    | (simp only [memories_mk])
    | (simp only [memories_eta])

@[simp] theorem State.shadowFlush_memories (s : State) (is : Nat → Bool) : (State.shadowFlush s is).memories = s.memories := by
  unfold State.shadowFlush
  repeat' first
    | with_reducible rfl
    | (simp only [ite_memories, ite_self, foldl_memories, implies_true, State.shadowFrame_memories, State.shadowFramesIn_memories, State.shadowStores_memories, State.shadowUnit_memories]; done)
    | (with_reducible refine (foldl_memories _ _ _ (fun t x => ?_)).trans ?_)
    | (with_reducible refine (foldl1_memories _ _ _ (fun t x => ?_)).trans ?_)
    | split
    | (simp only [State.shadowFrame_memories, State.shadowFramesIn_memories, State.shadowStores_memories, State.shadowUnit_memories])
    | (simp only [])
    | (simp only [memories_mk])
    | (simp only [memories_eta])

@[simp] theorem State.frameRead_memories (s : State) (p a n : Nat) : (State.frameRead s p a n).memories = s.memories := by
  unfold State.frameRead
  repeat' first
    | with_reducible rfl
    | (simp only [ite_memories, ite_self, foldl_memories, implies_true, State.reportEc_memories, State.reportUc_memories]; done)
    | (with_reducible refine (foldl_memories _ _ _ (fun t x => ?_)).trans ?_)
    | (with_reducible refine (foldl1_memories _ _ _ (fun t x => ?_)).trans ?_)
    | split
    | (simp only [State.reportEc_memories, State.reportUc_memories])
    | (simp only [])
    | (simp only [memories_mk])
    | (simp only [memories_eta])

@[simp] theorem State.unlatch_memories (s : State) (u : Nat) : (State.unlatch s u).memories = s.memories := by
  unfold State.unlatch
  repeat' first
    | with_reducible rfl
    | (simp only [ite_memories, State.modFacet_memories]; done)
    | split
    | (simp only [])
    | (simp only [memories_mk])
    | (simp only [memories_eta])

@[simp] theorem State.markServed_memories (s : State) (step : Nat) (bounds : Bool) (e : StepEntry) : (State.markServed s step bounds e).memories = s.memories := by
  unfold State.markServed
  repeat' first
    | with_reducible rfl
    | (simp only [ite_memories, ite_self, foldl_memories, implies_true, State.setTicket_memories]; done)
    | (with_reducible refine (foldl_memories _ _ _ (fun t x => ?_)).trans ?_)
    | (with_reducible refine (foldl1_memories _ _ _ (fun t x => ?_)).trans ?_)
    | split
    | (simp only [State.setTicket_memories])
    | (simp only [])
    | (simp only [memories_mk])
    | (simp only [memories_eta])

theorem State.takeResult_wf (s : State) (p step : Nat) (bounds : Bool) (flags : Nat) (i : Nat) (e : StepEntry) (hwf : s.memories.wf = true) : (State.takeResult s p step bounds flags i e).memories.wf = true := by
  unfold State.takeResult
  repeat' first
    | with_reducible assumption
    | (simp only [hwf, ite_memories, Memories.ite_wf, ite_self, foldl_memories, implies_true, State.bump_memories, State.retire_memories, State.setTicket_memories, State.sendOwn_wf]; done)
    | (with_reducible refine State.sendOwn_wf _ _ _ ?_)
    | (with_reducible refine foldl_wf _ _ _ ?_ (fun t x hwf => ?_))
    | (with_reducible refine foldl1_wf _ _ _ ?_ (fun t x hwf => ?_))
    | split
    | (simp only [State.bump_memories, State.retire_memories, State.setTicket_memories])
    | (simp only [])
    | (simp only [memories_mk])
    | (simp only [memories_eta])

@[simp] theorem State.unlatchAll_memories (s : State) (p : Nat) : (State.unlatchAll s p).memories = s.memories := by
  unfold State.unlatchAll
  repeat' first
    | with_reducible rfl
    | (simp only [ite_memories, ite_self, foldl_memories, implies_true, State.unlatch_memories]; done)
    | (with_reducible refine (foldl_memories _ _ _ (fun t x => ?_)).trans ?_)
    | (with_reducible refine (foldl1_memories _ _ _ (fun t x => ?_)).trans ?_)
    | split
    | (simp only [State.unlatch_memories])
    | (simp only [])
    | (simp only [memories_mk])
    | (simp only [memories_eta])

@[simp] theorem State.sampleBounds_memories (s : State) (p : Nat) (others : Bool) : (State.sampleBounds s p others).2.memories = s.memories := by
  unfold State.sampleBounds
  repeat' first
    | with_reducible rfl
    | (simp only [ite_memories, ite_self, foldl_memories, implies_true, State.bump_memories, State.unlatchAll_memories]; done)
    | (with_reducible refine (foldl_memories _ _ _ (fun t x => ?_)).trans ?_)
    | (with_reducible refine (foldl1_memories _ _ _ (fun t x => ?_)).trans ?_)
    | split
    | (simp only [State.bump_memories, State.unlatchAll_memories])
    | (simp only [])
    | (simp only [memories_mk])
    | (simp only [memories_eta])

@[simp] theorem State.endMirrors_memories (s : State) (p : Nat) : (State.endMirrors s p).memories = s.memories := by
  unfold State.endMirrors
  repeat' first
    | with_reducible rfl
    | (simp only [ite_memories, ite_self, foldl_memories, implies_true, State.modRail_memories]; done)
    | (with_reducible refine (foldl_memories _ _ _ (fun t x => ?_)).trans ?_)
    | (with_reducible refine (foldl1_memories _ _ _ (fun t x => ?_)).trans ?_)
    | split
    | (simp only [State.modRail_memories])
    | (simp only [])
    | (simp only [memories_mk])
    | (simp only [memories_eta])

@[simp] theorem State.reportBounds_memories (s : State) (p : Nat) : (State.reportBounds s p).memories = s.memories := by
  unfold State.reportBounds
  repeat' first
    | with_reducible rfl
    | (simp only [ite_memories, ite_self, foldl_memories, implies_true, State.endMirrors_memories, State.shadowFlush_memories, State.tell_memories, State.unlatchAll_memories]; done)
    | (with_reducible refine (foldl_memories _ _ _ (fun t x => ?_)).trans ?_)
    | (with_reducible refine (foldl1_memories _ _ _ (fun t x => ?_)).trans ?_)
    | split
    | (simp only [State.endMirrors_memories, State.shadowFlush_memories, State.tell_memories, State.unlatchAll_memories])
    | (simp only [])
    | (simp only [memories_mk])
    | (simp only [memories_eta])

@[simp] theorem State.collectStep_memories (s : State) (p : Nat) (others : Bool) : (State.collectStep s p others).2.memories = s.memories := by
  unfold State.collectStep
  repeat' first
    | with_reducible rfl
    | (simp only [ite_memories, ite_self, foldl_memories, implies_true, State.frameRead_memories, State.markServed_memories, State.modRail_memories, State.sampleBounds_memories]; done)
    | (with_reducible refine (foldl_memories _ _ _ (fun t x => ?_)).trans ?_)
    | (with_reducible refine (foldl1_memories _ _ _ (fun t x => ?_)).trans ?_)
    | split
    | (simp only [State.frameRead_memories, State.markServed_memories, State.modRail_memories, State.sampleBounds_memories])
    | (simp only [])
    | (simp only [memories_mk])
    | (simp only [memories_eta])

@[simp] theorem State.retireCancelled_memories (s : State) (p : Nat) : (State.retireCancelled s p).memories = s.memories := by
  unfold State.retireCancelled
  simp only [foldl_memories, implies_true, State.bump_memories, State.retire_memories]

theorem State.endStep_wf (s : State) (p : Nat) (others : Bool) (flags : Nat) (hwf : s.memories.wf = true) : (State.endStep s p others flags).memories.wf = true := by
  unfold State.endStep
  repeat' first
    | with_reducible assumption
    | (simp only [hwf, ite_memories, Memories.ite_wf, ite_self, foldl_memories, implies_true, State.collectStep_memories, State.retireCancelled_memories, State.takeResult_wf]; done)
    | (with_reducible refine State.takeResult_wf _ _ _ _ _ _ _ ?_)
    | (with_reducible refine foldl_wf _ _ _ ?_ (fun t x hwf => ?_))
    | (with_reducible refine foldl1_wf _ _ _ ?_ (fun t x hwf => ?_))
    | split
    | (simp only [State.collectStep_memories, State.retireCancelled_memories])
    | (simp only [])
    | (simp only [memories_mk])
    | (simp only [memories_eta])

@[simp] theorem State.retireDrained_memories (s : State) (p : Nat) : (State.retireDrained s p).memories = s.memories := by
  unfold State.retireDrained
  simp only [foldl_memories, implies_true, State.bump_memories, State.retire_memories]

@[simp] theorem State.drainStep_memories (s : State) (p : Nat) : (State.drainStep s p).memories = s.memories := by
  unfold State.drainStep
  simp only [ite_memories, ite_self, foldl_memories, implies_true, State.modGen_memories, State.retire_memories, State.switchGen_memories]

@[simp] theorem State.passDeadlines_memories (s : State) (p : Nat) : (State.passDeadlines s p).memories = s.memories := by
  unfold State.passDeadlines
  simp only [foldl_memories, implies_true, State.bump_memories, State.retire_memories]

@[simp] theorem startQueued_memories (p : Nat) (l : List Nat) (s : State) : (startQueued p l s).memories = s.memories := by
  induction l generalizing s with
  | nil => rfl
  | cons k l ih =>
    unfold startQueued
    split
    · rfl
    · refine (ih _).trans ?_
      rw [State.showRail_memories, State.modTicket_memories]

@[simp] theorem State.reestimate_memories (s : State) (p : Nat) : (State.reestimate s p).memories = s.memories := by
  unfold State.reestimate
  simp only [foldl_memories, implies_true, State.modTicket_memories]

theorem State.reserve_memories (s : State) (k : Nat) (t : _) (ht : (State.reserve s k) = some t) : t.memories = s.memories := by
  unfold State.reserve at ht
  repeat' (first | (cases ht; done) | (with_reducible injection ht with ht; subst ht) | split at ht | simp only [] at ht)
  repeat' first
    | with_reducible rfl
    | (simp only [State.modRing_memories, State.modTicket_memories]; done)

@[simp] theorem State.rebucket_memories (s : State) (p : Nat) : (State.rebucket s p).memories = s.memories := by
  unfold State.rebucket
  repeat' first
    | with_reducible rfl
    | (simp only [ite_memories, ite_self, foldl_memories, implies_true, State.modTicket_memories]; done)
    | (with_reducible refine (foldl_memories _ _ _ (fun t x => ?_)).trans ?_)
    | (with_reducible refine (foldl1_memories _ _ _ (fun t x => ?_)).trans ?_)
    | split
    | (simp only [State.modTicket_memories])
    | (simp only [])
    | (simp only [memories_mk])
    | (simp only [memories_eta])

theorem State.giveStep_wf (s : State) (short : List Nat) (p k a : Nat) (prefill : Bool) (hwf : s.memories.wf = true) : (State.giveStep s short p k a prefill).1.memories.wf = true := by
  unfold State.giveStep
  repeat' first
    | with_reducible assumption
    | (simp only [hwf, ite_memories, Memories.ite_wf, ite_self, foldl_memories, implies_true, State.bump_memories, State.modTicket_memories, State.pruneTables_memories, State.reserve_memories, State.retire_memories, kvMapAll_wf]; done)
    | (with_reducible refine (congrArg (fun m => Memories.wf m = true) (State.reserve_memories _ _ _ (by assumption))).mpr ?_)
    | (with_reducible refine kvMapAll_wf _ _ _ _ ?_)
    | (with_reducible refine foldl_wf _ _ _ ?_ (fun t x hwf => ?_))
    | (with_reducible refine foldl1_wf _ _ _ ?_ (fun t x hwf => ?_))
    | split
    | (simp only [State.bump_memories, State.modTicket_memories, State.pruneTables_memories, State.reserve_memories, State.retire_memories])
    | (simp only [])
    | (simp only [memories_mk])
    | (simp only [memories_eta])

theorem formDecode_wf (short : List Nat) (p : Nat) (n : List Nat) (s : State) (hwf : s.memories.wf = true) : (formDecode short p n s).1.memories.wf = true := by
  induction n generalizing s with
  | nil => first | rfl | exact hwf | (unfold formDecode; split <;> first | rfl | assumption)
  | cons x l ih =>
    unfold formDecode
    repeat' first
      | with_reducible assumption
      | (simp only [hwf, ite_memories, Memories.ite_wf, ite_self, foldl_memories, implies_true, State.giveStep_wf, ih]; done)
      | (with_reducible refine State.giveStep_wf _ _ _ _ _ _ ?_)
      | (with_reducible refine ih _ ?_)
      | (with_reducible refine foldl_wf _ _ _ ?_ (fun t x hwf => ?_))
      | (with_reducible refine foldl1_wf _ _ _ ?_ (fun t x hwf => ?_))
      | split
      | (simp only [])
      | (simp only [memories_mk])
      | (simp only [memories_eta])

theorem formPrefill_wf (short : List Nat) (p b : Nat) (l : List Nat) (s : State) (hwf : s.memories.wf = true) :
    (formPrefill short p b l s).1.memories.wf = true := by
  induction l generalizing b s with
  | nil => simp only [formPrefill]; exact hwf
  | cons k l ih =>
    simp only [formPrefill]
    split
    · exact ih _ _ hwf
    · exact ih _ _ (State.giveStep_wf _ _ _ _ _ _ hwf)

theorem State.formBatch_wf (s : State) (p : Nat) (short : List Nat) (hwf : s.memories.wf = true) : (State.formBatch s p short).1.memories.wf = true := by
  unfold State.formBatch
  repeat' first
    | with_reducible assumption
    | (simp only [hwf, ite_memories, Memories.ite_wf, ite_self, foldl_memories, implies_true, formDecode_wf, formPrefill_wf]; done)
    | (with_reducible refine formDecode_wf _ _ _ _ ?_)
    | (with_reducible refine formPrefill_wf _ _ _ _ _ ?_)
    | (with_reducible refine foldl_wf _ _ _ ?_ (fun t x hwf => ?_))
    | (with_reducible refine foldl1_wf _ _ _ ?_ (fun t x hwf => ?_))
    | split
    | (simp only [])
    | (simp only [memories_mk])
    | (simp only [memories_eta])

@[simp] theorem State.sendStart_memories (s : State) (p : Nat) : (State.sendStart s p).memories = s.memories := by
  unfold State.sendStart
  repeat' first
    | with_reducible rfl
    | (simp only [ite_memories, ite_self, foldl_memories, implies_true, State.modRail_memories, State.shadowFlush_memories, State.tell_memories]; done)
    | (with_reducible refine (foldl_memories _ _ _ (fun t x => ?_)).trans ?_)
    | (with_reducible refine (foldl1_memories _ _ _ (fun t x => ?_)).trans ?_)
    | split
    | (simp only [State.modRail_memories, State.shadowFlush_memories, State.tell_memories])
    | (simp only [])
    | (simp only [memories_mk])
    | (simp only [memories_eta])

theorem State.nextStep_wf (s : State) (p : Nat) (short : List Nat) (hwf : s.memories.wf = true) : (State.nextStep s p short).memories.wf = true := by
  unfold State.nextStep
  repeat' first
    | with_reducible assumption
    | (simp only [hwf, ite_memories, Memories.ite_wf, ite_self, foldl_memories, implies_true, State.drainStep_memories, State.kvUncarve_memories, State.modRail_memories, State.passDeadlines_memories, State.pruneRadix_memories, State.rebucket_memories, State.reestimate_memories, State.renewSalts_memories, State.sendStart_memories, startQueued_memories, State.drop_wf, State.formBatch_wf]; done)
    | (with_reducible refine State.drop_wf _ _ _ _ ?_)
    | (with_reducible refine State.formBatch_wf _ _ _ ?_)
    | (with_reducible refine foldl_wf _ _ _ ?_ (fun t x hwf => ?_))
    | (with_reducible refine foldl1_wf _ _ _ ?_ (fun t x hwf => ?_))
    | split
    | (simp only [State.drainStep_memories, State.kvUncarve_memories, State.modRail_memories, State.passDeadlines_memories, State.pruneRadix_memories, State.rebucket_memories, State.reestimate_memories, State.renewSalts_memories, State.sendStart_memories, startQueued_memories])
    | (simp only [])
    | (simp only [memories_mk])
    | (simp only [memories_eta])

theorem State.compareResult_wf (s : State) (p : Nat) (x : StepRec) (later : List StepRec) (i : Nat) (e : StepEntry) (hwf : s.memories.wf = true) : (State.compareResult s p x later i e).memories.wf = true := by
  unfold State.compareResult
  repeat' first
    | with_reducible assumption
    | (simp only [hwf, ite_memories, Memories.ite_wf, ite_self, foldl_memories, implies_true, State.bump_memories, State.report_memories, State.retire_memories, State.sendRec_wf]; done)
    | (with_reducible refine State.sendRec_wf _ _ _ ?_)
    | (with_reducible refine foldl_wf _ _ _ ?_ (fun t x hwf => ?_))
    | (with_reducible refine foldl1_wf _ _ _ ?_ (fun t x hwf => ?_))
    | split
    | (simp only [State.bump_memories, State.report_memories, State.retire_memories])
    | (simp only [])
    | (simp only [memories_mk])
    | (simp only [memories_eta])

theorem State.compareResults_wf (s : State) (p : Nat) (x : StepRec) (later : List StepRec) (others : Bool) (hwf : s.memories.wf = true) : (State.compareResults s p x later others).memories.wf = true := by
  unfold State.compareResults
  repeat' first
    | with_reducible assumption
    | (simp only [hwf, ite_memories, Memories.ite_wf, ite_self, foldl_memories, implies_true, State.modTicket_memories, State.sampleBounds_memories, State.compareResult_wf]; done)
    | (with_reducible refine State.compareResult_wf _ _ _ _ _ _ ?_)
    | (with_reducible refine foldl_wf _ _ _ ?_ (fun t x hwf => ?_))
    | (with_reducible refine foldl1_wf _ _ _ ?_ (fun t x hwf => ?_))
    | split
    | (simp only [State.modTicket_memories, State.sampleBounds_memories])
    | (simp only [])
    | (simp only [memories_mk])
    | (simp only [memories_eta])

@[simp] theorem State.replayOver_memories (s : State) (p : Nat) : (State.replayOver s p).memories = s.memories := by
  unfold State.replayOver
  simp only [ite_memories, ite_self, State.modRail_memories, State.setFlt_memories, State.setN_memories, State.sf_memories]

@[simp] theorem State.sendReplay_memories (s : State) (p : Nat) : (State.sendReplay s p).memories = s.memories := by
  unfold State.sendReplay
  repeat' first
    | with_reducible rfl
    | (simp only [ite_memories, ite_self, foldl_memories, implies_true, State.modRail_memories, State.sendStart_memories]; done)
    | (with_reducible refine (foldl_memories _ _ _ (fun t x => ?_)).trans ?_)
    | (with_reducible refine (foldl1_memories _ _ _ (fun t x => ?_)).trans ?_)
    | split
    | (simp only [State.modRail_memories, State.sendStart_memories])
    | (simp only [])
    | (simp only [memories_mk])
    | (simp only [memories_eta])

theorem State.stepBoundary_wf (s : State) (p : Nat) (others : Bool) (short : List Nat) (hwf : s.memories.wf = true) : (State.stepBoundary s p others short).memories.wf = true := by
  unfold State.stepBoundary
  repeat' first
    | with_reducible assumption
    | (simp only [hwf, ite_memories, Memories.ite_wf, ite_self, foldl_memories, implies_true, State.fatalVertex_memories, State.modRail_memories, State.replayOver_memories, State.reportBounds_memories, State.retireDrained_memories, State.sendReplay_memories, State.sendStart_memories, State.compareResults_wf, State.endStep_wf, State.nextStep_wf]; done)
    | (with_reducible refine State.compareResults_wf _ _ _ _ _ ?_)
    | (with_reducible refine State.endStep_wf _ _ _ _ ?_)
    | (with_reducible refine State.nextStep_wf _ _ _ ?_)
    | (with_reducible refine foldl_wf _ _ _ ?_ (fun t x hwf => ?_))
    | (with_reducible refine foldl1_wf _ _ _ ?_ (fun t x hwf => ?_))
    | split
    | (simp only [State.fatalVertex_memories, State.modRail_memories, State.replayOver_memories, State.reportBounds_memories, State.retireDrained_memories, State.sendReplay_memories, State.sendStart_memories])
    | (simp only [])
    | (simp only [memories_mk])
    | (simp only [memories_eta])

theorem execStepBoundary_wf (a : BoundaryWord) (s : State) (t : State) (ht : execStepBoundary a s = .next t) (hwf : s.memories.wf = true) : t.memories.wf = true := by
  injection ht with ht
  rw [← ht]
  repeat' first
    | with_reducible assumption
    | (simp only [hwf, ite_memories, Memories.ite_wf, ite_self, foldl_memories, implies_true, State.stepBoundary_wf]; done)
    | (with_reducible refine State.stepBoundary_wf _ _ _ _ ?_)
    | (with_reducible refine foldl_wf _ _ _ ?_ (fun t x hwf => ?_))
    | (with_reducible refine foldl1_wf _ _ _ ?_ (fun t x hwf => ?_))
    | split
    | (simp only [])
    | (simp only [memories_mk])
    | (simp only [memories_eta])

@[simp] theorem State.stepDonePoll_memories (s : State) (p : Nat) : (State.stepDonePoll s p).memories = s.memories := by
  unfold State.stepDonePoll
  repeat' first
    | with_reducible rfl
    | (simp only [ite_memories, ite_self, foldl_memories, implies_true, State.frameRead_memories, State.modRail_memories, State.shadowFlush_memories]; done)
    | (with_reducible refine (foldl_memories _ _ _ (fun t x => ?_)).trans ?_)
    | (with_reducible refine (foldl1_memories _ _ _ (fun t x => ?_)).trans ?_)
    | split
    | (simp only [State.frameRead_memories, State.modRail_memories, State.shadowFlush_memories])
    | (simp only [])
    | (simp only [memories_mk])
    | (simp only [memories_eta])

theorem execStepDonePoll_memories (p : Nat) (s : State) (t : State) (ht : execStepDonePoll p s = .next t) : t.memories = s.memories := by
  injection ht with ht
  rw [← ht]
  simp only [State.stepDonePoll_memories]

@[simp] theorem State.measure_memories (s : State) (p : Nat) : (State.measure s p).memories = s.memories := by
  unfold State.measure
  repeat' first
    | with_reducible rfl
    | (simp only [State.fresh_memories, State.setN_memories, State.setPair_memories, State.wr_memories]; done)
    | split
    | (simp only [])

@[simp] theorem State.takeRoles_memories (s : State) (p active draining : Nat) : (State.takeRoles s p active draining).memories = s.memories := by
  unfold State.takeRoles
  repeat' first
    | (simp only [State.showGens_memories])
    | (simp only [memories_mk])
    | (simp only [memories_eta])

theorem State.mirror_wf (s : State) (p : Nat) (x : Nat × Ticket) (hwf : s.memories.wf = true) : (State.mirror s p x).memories.wf = true := by
  unfold State.mirror
  repeat' first
    | with_reducible assumption
    | (simp only [hwf, ite_memories, Memories.ite_wf, ite_self, foldl_memories, implies_true, State.noteMatch_memories, State.setTicket_memories, State.dropTicket_wf, State.rootSlot_wf]; done)
    | (with_reducible refine State.dropTicket_wf _ _ ?_)
    | (with_reducible refine State.rootSlot_wf _ _ ?_)
    | (with_reducible refine foldl_wf _ _ _ ?_ (fun t x hwf => ?_))
    | (with_reducible refine foldl1_wf _ _ _ ?_ (fun t x hwf => ?_))
    | split
    | (simp only [State.noteMatch_memories, State.setTicket_memories])
    | (simp only [])
    | (simp only [memories_mk])
    | (simp only [memories_eta])

theorem State.mapMirror_wf (s : State) (p : Nat) (e : StepEntry) (hwf : s.memories.wf = true) : (State.mapMirror s p e).1.memories.wf = true := by
  unfold State.mapMirror
  repeat' first
    | with_reducible assumption
    | (simp only [hwf, ite_memories, Memories.ite_wf, ite_self, foldl_memories, implies_true, State.modTicket_memories, State.mapPrefix_wf, kvMapAll_wf]; done)
    | (with_reducible refine State.mapPrefix_wf _ _ _ _ ?_)
    | (with_reducible refine kvMapAll_wf _ _ _ _ ?_)
    | (with_reducible refine foldl_wf _ _ _ ?_ (fun t x hwf => ?_))
    | (with_reducible refine foldl1_wf _ _ _ ?_ (fun t x hwf => ?_))
    | split
    | (simp only [State.modTicket_memories])
    | (simp only [])
    | (simp only [memories_mk])
    | (simp only [memories_eta])

theorem mapMirrors_wf (p : Nat) (n : List StepEntry) (s : State) (hwf : s.memories.wf = true) : (mapMirrors p n s).1.memories.wf = true := by
  induction n generalizing s with
  | nil => first | rfl | exact hwf | (unfold mapMirrors; split <;> first | rfl | assumption)
  | cons x l ih =>
    unfold mapMirrors
    repeat' first
      | with_reducible assumption
      | (simp only [hwf, ite_memories, Memories.ite_wf, ite_self, foldl_memories, implies_true, State.mapMirror_wf, ih]; done)
      | (with_reducible refine State.mapMirror_wf _ _ _ ?_)
      | (with_reducible refine ih _ ?_)
      | (with_reducible refine foldl_wf _ _ _ ?_ (fun t x hwf => ?_))
      | (with_reducible refine foldl1_wf _ _ _ ?_ (fun t x hwf => ?_))
      | split
      | (simp only [])
      | (simp only [memories_mk])
      | (simp only [memories_eta])

theorem State.takeStep_wf (s : State) (p : Nat) (r : StepRec) (active draining : Nat) (tix : List (Nat × Ticket)) (ended : List Nat) (hwf : s.memories.wf = true) : (State.takeStep s p r active draining tix ended).1.memories.wf = true := by
  unfold State.takeStep
  repeat' first
    | with_reducible assumption
    | (simp only [hwf, ite_memories, Memories.ite_wf, ite_self, foldl_memories, implies_true, State.endMirrors_memories, State.endRange_memories, State.kvUncarve_memories, State.modRail_memories, State.takeRoles_memories, State.drop_wf, State.mirror_wf, mapMirrors_wf]; done)
    | (with_reducible refine State.drop_wf _ _ _ _ ?_)
    | (with_reducible refine State.mirror_wf _ _ _ ?_)
    | (with_reducible refine mapMirrors_wf _ _ _ ?_)
    | (with_reducible refine foldl_wf _ _ _ ?_ (fun t x hwf => ?_))
    | (with_reducible refine foldl1_wf _ _ _ ?_ (fun t x hwf => ?_))
    | split
    | (simp only [State.endMirrors_memories, State.endRange_memories, State.kvUncarve_memories, State.modRail_memories, State.takeRoles_memories])
    | (simp only [])
    | (simp only [memories_mk])
    | (simp only [memories_eta])

theorem State.stepStart_wf (s : State) (p step gen active draining root : Nat) (dec pre : List StepEntry) (tix : List (Nat × Ticket)) (ended : List Nat) (start : Nat) (hwf : s.memories.wf = true) : (State.stepStart s p step gen active draining root dec pre tix ended start).memories.wf = true := by
  unfold State.stepStart
  repeat' first
    | with_reducible assumption
    | (simp only [hwf, ite_memories, Memories.ite_wf, ite_self, foldl_memories, implies_true, State.haltOwed_memories, State.measure_memories, State.modRail_memories, State.sbInc_memories, State.tell_memories, State.unlatchAll_memories, State.takeStep_wf, State.writeMem_wf]; done)
    | (with_reducible refine State.takeStep_wf _ _ _ _ _ _ _ ?_)
    | (with_reducible refine State.writeMem_wf _ _ _ ?_)
    | (with_reducible refine foldl_wf _ _ _ ?_ (fun t x hwf => ?_))
    | (with_reducible refine foldl1_wf _ _ _ ?_ (fun t x hwf => ?_))
    | split
    | (simp only [State.haltOwed_memories, State.measure_memories, State.modRail_memories, State.sbInc_memories, State.tell_memories, State.unlatchAll_memories])
    | (simp only [])
    | (simp only [memories_mk])
    | (simp only [memories_eta])

theorem execStepStart_wf (p step gen active draining root : Nat) (decode : List StepEntry) (rest : StepRest) (s : State) (t : State) (ht : execStepStart p step gen active draining root decode rest s = .next t) (hwf : s.memories.wf = true) : t.memories.wf = true := by
  injection ht with ht
  rw [← ht]
  repeat' first
    | with_reducible assumption
    | (simp only [hwf, ite_memories, Memories.ite_wf, ite_self, foldl_memories, implies_true, State.stepStart_wf]; done)
    | (with_reducible refine State.stepStart_wf _ _ _ _ _ _ _ _ _ _ _ _ ?_)
    | (with_reducible refine foldl_wf _ _ _ ?_ (fun t x hwf => ?_))
    | (with_reducible refine foldl1_wf _ _ _ ?_ (fun t x hwf => ?_))
    | split
    | (simp only [])
    | (simp only [memories_mk])
    | (simp only [memories_eta])

end Sys2Proof.Machine
end

