-- ==== Sys2Proof/Laws/KeepUnits.lean ====
section
/-! SUPPORT. What happens to the memories, and that they keep their canonical form: resets of units, Facet registers, partitions, faults and Arc tables. -/

namespace Sys2Proof.Machine

/-! ### Resets -/

@[simp] theorem State.pruneWatches_memories (s : State) : (State.pruneWatches s).memories = s.memories := by
  unfold State.pruneWatches
  repeat' first
    | with_reducible rfl
    | (simp only [ite_memories, ite_self, foldl_memories, implies_true]; done)
    | (with_reducible refine (foldl_memories _ _ _ (fun t x => ?_)).trans ?_)
    | (with_reducible refine (foldl1_memories _ _ _ (fun t x => ?_)).trans ?_)
    | split
    | (simp only [])
    | (simp only [memories_mk])
    | (simp only [memories_eta])

theorem State.resetUnits_wf (s : State) (fs es : List Nat) (hwf : s.memories.wf = true) : (State.resetUnits s fs es).memories.wf = true := by
  unfold State.resetUnits
  repeat' first
    | with_reducible assumption
    | (simp only [hwf, ite_memories, Memories.ite_wf, ite_self, foldl_memories, implies_true, State.loseTables_memories, State.loseUnits_memories, State.pruneWatches_memories, State.resetRegs_memories, State.setFacet_memories, State.setPast_memories, State.setTaken_memories, State.clearImem_wf, State.clearScratch_wf, State.clearSram_wf]; done)
    | (with_reducible refine State.clearImem_wf _ _ _ ?_)
    | (with_reducible refine State.clearScratch_wf _ _ _ ?_)
    | (with_reducible refine State.clearSram_wf _ _ _ ?_)
    | (with_reducible refine foldl_wf _ _ _ ?_ (fun t x hwf => ?_))
    | (with_reducible refine foldl1_wf _ _ _ ?_ (fun t x hwf => ?_))
    | split
    | (simp only [State.loseTables_memories, State.loseUnits_memories, State.pruneWatches_memories, State.resetRegs_memories, State.setFacet_memories, State.setPast_memories, State.setTaken_memories])
    | (simp only [])
    | (simp only [memories_mk])
    | (simp only [memories_eta])

@[simp] theorem State.showSec_memories (s : State) : (State.showSec s).memories = s.memories := by
  unfold State.showSec
  simp only [foldl_memories, implies_true, State.sf_memories]

theorem State.dropEntered_wf (s : State) (e : Entry) (hwf : s.memories.wf = true) : (State.dropEntered s e).memories.wf = true := by
  unfold State.dropEntered
  repeat' first
    | with_reducible assumption
    | (simp only [hwf, ite_memories, Memories.ite_wf, ite_self, foldl_memories, implies_true, State.dropTicket_wf]; done)
    | (with_reducible refine State.dropTicket_wf _ _ ?_)
    | (with_reducible refine foldl_wf _ _ _ ?_ (fun t x hwf => ?_))
    | (with_reducible refine foldl1_wf _ _ _ ?_ (fun t x hwf => ?_))
    | split
    | (simp only [])
    | (simp only [memories_mk])
    | (simp only [memories_eta])

theorem apxErased_wf (s : State) (a b : Nat) (hwf : s.memories.wf = true) :
    (Memories.mk s.mem s.imem s.sram s.lost s.hop s.host s.boot.nor (Sparse.erase s.apxReq a b) (Sparse.erase s.apxRsp a b)).wf = true := by
  rw [Memories.wf_iff] at hwf ⊢
  exact ⟨hwf.1, hwf.2.1, hwf.2.2.1, hwf.2.2.2.1, hwf.2.2.2.2.1, hwf.2.2.2.2.2.1, Sparse.wf_erase _ _ _ _ hwf.2.2.2.2.2.2.1,
    Sparse.wf_erase _ _ _ _ hwf.2.2.2.2.2.2.2⟩

theorem State.functionReset_wf (s : State) (fn : Nat) (hwf : s.memories.wf = true) : (State.functionReset s fn).memories.wf = true := by
  unfold State.functionReset
  simp only [State.showSec_memories]
  rw [foldl_memories _ _ _ (fun t p => State.tell_memories t _ _ _)]
  refine State.dropEntered_wf _ _ ?_
  simp only [memories_mk]
  refine apxErased_wf (State.resetRegs (State.setRing s fn Ring.blank) _) _ _ ?_
  rw [State.resetRegs_memories, State.setRing_memories]
  exact hwf

theorem State.endTickets_wf (s : State) (p : Nat) (fault : Bool) (hwf : s.memories.wf = true) : (State.endTickets s p fault).memories.wf = true := by
  unfold State.endTickets
  repeat' first
    | with_reducible assumption
    | (simp only [hwf, ite_memories, Memories.ite_wf, ite_self, foldl_memories, implies_true, State.modTicket_memories, State.dropTicket_wf, State.endRec_wf]; done)
    | (with_reducible refine State.dropTicket_wf _ _ ?_)
    | (with_reducible refine State.endRec_wf _ _ ?_)
    | (with_reducible refine foldl_wf _ _ _ ?_ (fun t x hwf => ?_))
    | (with_reducible refine foldl1_wf _ _ _ ?_ (fun t x hwf => ?_))
    | split
    | (simp only [State.modTicket_memories])
    | (simp only [])
    | (simp only [memories_mk])
    | (simp only [memories_eta])

theorem State.partReset_wf (s : State) (p : Nat) (fault : Bool) (hwf : s.memories.wf = true) : (State.partReset s p fault).memories.wf = true := by
  unfold State.partReset
  repeat' first
    | with_reducible assumption
    | (simp only [hwf, ite_memories, Memories.ite_wf, ite_self, foldl_memories, implies_true, State.endHold_memories, State.kvResetPart_memories, State.modPrt_memories, State.resetRegs_memories, State.resetTiers_memories, State.setGroup_memories, State.setN_memories, State.setRail_memories, State.setTaken_memories, State.sf_memories, State.showOutst_memories, State.dropPart_wf, State.endTickets_wf, State.functionReset_wf, State.resetUnits_wf]; done)
    | (with_reducible refine State.dropPart_wf _ _ ?_)
    | (with_reducible refine State.endTickets_wf _ _ _ ?_)
    | (with_reducible refine State.functionReset_wf _ _ ?_)
    | (with_reducible refine State.resetUnits_wf _ _ _ ?_)
    | (with_reducible refine foldl_wf _ _ _ ?_ (fun t x hwf => ?_))
    | (with_reducible refine foldl1_wf _ _ _ ?_ (fun t x hwf => ?_))
    | split
    | (simp only [State.endHold_memories, State.kvResetPart_memories, State.modPrt_memories, State.resetRegs_memories, State.resetTiers_memories, State.setGroup_memories, State.setN_memories, State.setRail_memories, State.setTaken_memories, State.sf_memories, State.showOutst_memories])
    | (simp only [])
    | (simp only [memories_mk])
    | (simp only [memories_eta])

/-! ### FacetRegs -/

@[simp] theorem State.askPower_memories (s : State) (n watts : Nat) : (State.askPower s n watts).memories = s.memories := by
  unfold State.askPower
  repeat' first
    | (simp only [])
    | (simp only [memories_mk])
    | (simp only [memories_eta])

@[simp] theorem State.startExit_memories (s : State) : (State.startExit s).memories = s.memories := by
  unfold State.startExit
  repeat' first
    | with_reducible rfl
    | (simp only [ite_memories, State.askPower_memories]; done)
    | split
    | (simp only [])
    | (simp only [memories_mk])
    | (simp only [memories_eta])

@[simp] theorem State.park_memories (s : State) (i : Parked) : (State.park s i).memories = s.memories := by
  unfold State.park
  repeat' first
    | (simp only [State.startExit_memories])
    | (simp only [memories_mk])
    | (simp only [memories_eta])

theorem State.startFacet_wf (s : State) (f entry : Nat) (solo : Bool) (hwf : s.memories.wf = true) : (State.startFacet s f entry solo).memories.wf = true := by
  unfold State.startFacet
  repeat' first
    | with_reducible assumption
    | (simp only [hwf, ite_memories, Memories.ite_wf, ite_self, foldl_memories, implies_true, State.modFacet_memories, State.modPrt_memories, State.sf_memories, State.flush_wf]; done)
    | (with_reducible refine State.flush_wf _ _ _ ?_)
    | (with_reducible refine foldl_wf _ _ _ ?_ (fun t x hwf => ?_))
    | (with_reducible refine foldl1_wf _ _ _ ?_ (fun t x hwf => ?_))
    | split
    | (simp only [State.modFacet_memories, State.modPrt_memories, State.sf_memories])
    | (simp only [])
    | (simp only [memories_mk])
    | (simp only [memories_eta])

theorem State.startSolo_wf (s : State) (f entry : Nat) (hwf : s.memories.wf = true) : (State.startSolo s f entry).memories.wf = true := by
  unfold State.startSolo
  repeat' first
    | with_reducible assumption
    | (simp only [hwf, ite_memories, Memories.ite_wf, ite_self, foldl_memories, implies_true, State.setGroup_memories, State.startFacet_wf]; done)
    | (with_reducible refine State.startFacet_wf _ _ _ _ ?_)
    | (with_reducible refine foldl_wf _ _ _ ?_ (fun t x hwf => ?_))
    | (with_reducible refine foldl1_wf _ _ _ ?_ (fun t x hwf => ?_))
    | split
    | (simp only [State.setGroup_memories])
    | (simp only [])
    | (simp only [memories_mk])
    | (simp only [memories_eta])

theorem State.haltFacet_wf (s : State) (f : Nat) (hwf : s.memories.wf = true) : (State.haltFacet s f).memories.wf = true := by
  unfold State.haltFacet
  repeat' first
    | with_reducible assumption
    | (simp only [hwf, ite_memories, Memories.ite_wf, ite_self, foldl_memories, implies_true, State.modFacet_memories, State.stopFacet_memories, State.settle_wf]; done)
    | (with_reducible refine State.settle_wf _ _ ?_)
    | (with_reducible refine foldl_wf _ _ _ ?_ (fun t x hwf => ?_))
    | (with_reducible refine foldl1_wf _ _ _ ?_ (fun t x hwf => ?_))
    | split
    | (simp only [State.modFacet_memories, State.stopFacet_memories])
    | (simp only [])
    | (simp only [memories_mk])
    | (simp only [memories_eta])

@[simp] theorem State.clearCounters_memories (s : State) (f : Nat) : (State.clearCounters s f).memories = s.memories := by
  unfold State.clearCounters
  simp only [State.modFacet_memories, State.resetRegs_memories]

@[simp] theorem State.fctCmd_memories (s : State) (r : Requester) (f code : Nat) (k : State → State × Nat) (hk : ∀ t , (k t ).1.memories = t.memories) : (State.fctCmd s r f code k).memories = s.memories := by
  unfold State.fctCmd
  simp only [implies_true, State.cmdDone_memories, State.gate_memories, hk]

theorem State.fctCmd_wf (s : State) (r : Requester) (f code : Nat) (k : State → State × Nat) (hwf : s.memories.wf = true) (hk : ∀ t , t.memories.wf = true → (k t ).1.memories.wf = true) : (State.fctCmd s r f code k).memories.wf = true := by
  unfold State.fctCmd
  repeat' first
    | with_reducible assumption
    | (simp only [hwf, State.cmdDone_memories, hk]; done)
    | (with_reducible refine State.gate_wf _ _ _ _ _ ?_ (fun t  hwf => ?_))

theorem State.fctStart_wf (s : State) (r : Requester) (f entry : Nat) (hwf : s.memories.wf = true) : (State.fctStart s r f entry).memories.wf = true := by
  unfold State.fctStart
  repeat' first
    | with_reducible assumption
    | (simp only [hwf, ite_memories, Memories.ite_wf, ite_self, foldl_memories, implies_true, State.fctCmd_memories, State.park_memories, State.fctCmd_wf, State.startSolo_wf]; done)
    | (with_reducible refine State.fctCmd_wf _ _ _ _ _ ?_ (fun t hwf => ?_))
    | (with_reducible refine State.startSolo_wf _ _ _ ?_)
    | (with_reducible refine foldl_wf _ _ _ ?_ (fun t x hwf => ?_))
    | (with_reducible refine foldl1_wf _ _ _ ?_ (fun t x hwf => ?_))
    | split
    | (simp only [State.fctCmd_memories, State.park_memories])
    | (simp only [])
    | (simp only [memories_mk])
    | (simp only [memories_eta])

theorem execFctStart_wf (r : Requester) (f entry : Nat) (s : State) (t : State) (ht : execFctStart r f entry s = .next t) (hwf : s.memories.wf = true) : t.memories.wf = true := by
  injection ht with ht
  rw [← ht]
  repeat' first
    | with_reducible assumption
    | (simp only [hwf, ite_memories, Memories.ite_wf, ite_self, foldl_memories, implies_true, State.fctStart_wf]; done)
    | (with_reducible refine State.fctStart_wf _ _ _ _ ?_)
    | (with_reducible refine foldl_wf _ _ _ ?_ (fun t x hwf => ?_))
    | (with_reducible refine foldl1_wf _ _ _ ?_ (fun t x hwf => ?_))
    | split
    | (simp only [])
    | (simp only [memories_mk])
    | (simp only [memories_eta])

theorem execFctHalt_wf (r : Requester) (f : Nat) (s : State) (t : State) (ht : execFctHalt r f s = .next t) (hwf : s.memories.wf = true) : t.memories.wf = true := by
  injection ht with ht
  rw [← ht]
  repeat' first
    | with_reducible assumption
    | (simp only [hwf, ite_memories, Memories.ite_wf, ite_self, foldl_memories, implies_true, State.fctCmd_memories, State.fctCmd_wf, State.haltFacet_wf]; done)
    | (with_reducible refine State.fctCmd_wf _ _ _ _ _ ?_ (fun t hwf => ?_))
    | (with_reducible refine State.haltFacet_wf _ _ ?_)
    | (with_reducible refine foldl_wf _ _ _ ?_ (fun t x hwf => ?_))
    | (with_reducible refine foldl1_wf _ _ _ ?_ (fun t x hwf => ?_))
    | split
    | (simp only [State.fctCmd_memories])
    | (simp only [])
    | (simp only [memories_mk])
    | (simp only [memories_eta])

theorem execClrsb_memories (r : Requester) (f : Nat) (s : State) (t : State) (ht : execClrsb r f s = .next t) : t.memories = s.memories := by
  injection ht with ht
  rw [← ht]
  repeat' first
    | with_reducible rfl
    | (simp only [State.clearCounters_memories]; done)
    | (with_reducible refine (State.fctCmd_memories _ _ _ _ _ (fun t  => ?_)).trans ?_)
    | split

@[simp] theorem State.imemLoad_memories (s : State) (r : Requester) (f entry : Nat) : (State.imemLoad s r f entry).memories = s.memories := by
  unfold State.imemLoad
  repeat' first
    | with_reducible rfl
    | (simp only [State.modFacet_memories, State.park_memories, State.report_memories, State.sf_memories]; done)
    | (with_reducible refine (State.fctCmd_memories _ _ _ _ _ (fun t  => ?_)).trans ?_)
    | split
    | (simp only [])

theorem execImemLoad_memories (r : Requester) (f entry : Nat) (s : State) (t : State) (ht : execImemLoad r f entry s = .next t) : t.memories = s.memories := by
  injection ht with ht
  rw [← ht]
  simp only [State.imemLoad_memories]

theorem State.copyBundles_wf (s : State) (f entry n src : Nat) (ok : Bool) (hwf : s.memories.wf = true) : (State.copyBundles s f entry n src ok).1.memories.wf = true := by
  unfold State.copyBundles
  repeat' first
    | (simp only [hwf, State.fresh_memories, State.readRow_memories, State.report_memories, State.writeImem_wf]; done)
    | split
    | (simp only [])

theorem State.imemLoadDone_wf (s : State) (f : Nat) (ok : Bool) (hwf : s.memories.wf = true) : (State.imemLoadDone s f ok).memories.wf = true := by
  unfold State.imemLoadDone
  repeat' first
    | with_reducible assumption
    | (simp only [hwf, ite_memories, Memories.ite_wf, ite_self, State.copyBundles_wf, State.modFacet_memories, State.sf_memories]; done)
    | split

theorem execImemLoadDone_wf (f : Nat) (ok : Bool) (s : State) (t : State) (ht : execImemLoadDone f ok s = .next t) (hwf : s.memories.wf = true) : t.memories.wf = true := by
  injection ht with ht
  rw [← ht]
  simp only [hwf, State.imemLoadDone_wf]

@[simp] theorem State.mcfgWrite_memories (s : State) (r : Requester) (f be : Nat) (val : Word) : (State.mcfgWrite s r f be val).memories = s.memories := by
  unfold State.mcfgWrite
  simp only [ite_memories, ite_self, implies_true, State.facetErr_memories, State.gate_memories, State.mergeReg_memories]

theorem execFctMcfgWrite_memories (r : Requester) (f be : Nat) (val : Word) (s : State) (t : State) (ht : execFctMcfgWrite r f be val s = .next t) : t.memories = s.memories := by
  injection ht with ht
  rw [← ht]
  simp only [State.mcfgWrite_memories]

@[simp] theorem State.sbWrite_memories (s : State) (r : Requester) (f n be : Nat) (val : Word) : (State.sbWrite s r f n be val).memories = s.memories := by
  unfold State.sbWrite
  simp only [ite_memories, ite_self, implies_true, State.facetErr_memories, State.gate_memories, State.mergeReg_memories]

theorem execSbCounterWrite_memories (r : Requester) (f n be : Nat) (val : Word) (s : State) (t : State) (ht : execSbCounterWrite r f n be val s = .next t) : t.memories = s.memories := by
  injection ht with ht
  rw [← ht]
  simp only [State.sbWrite_memories]

/-! ### Partitions -/

@[simp] theorem State.partEnd_memories (s : State) (p cmd status code : Nat) : (State.partEnd s p cmd status code).memories = s.memories := by
  unfold State.partEnd
  simp only [State.cmdCode_memories, State.modPrt_memories]

@[simp] theorem State.partGate_memories (s : State) (r : Requester) (p cmd : Nat) (k : State → State × Nat × Nat) (hk : ∀ t , (k t ).1.memories = t.memories) : (State.partGate s r p cmd k).memories = s.memories := by
  unfold State.partGate
  repeat' first
    | with_reducible rfl
    | (simp only [State.cmdCode_memories, hk]; done)
    | (with_reducible refine (State.gate_memories _ _ _ _ _ (fun t  => ?_)).trans ?_)
    | split

theorem State.partGate_wf (s : State) (r : Requester) (p cmd : Nat) (k : State → State × Nat × Nat) (hwf : s.memories.wf = true) (hk : ∀ t , t.memories.wf = true → (k t ).1.memories.wf = true) : (State.partGate s r p cmd k).memories.wf = true := by
  unfold State.partGate
  repeat' first
    | with_reducible assumption
    | (simp only [hwf, State.cmdCode_memories, hk]; done)
    | (with_reducible refine State.gate_wf _ _ _ _ _ ?_ (fun t  hwf => ?_))
    | split

@[simp] theorem State.partWrite_memories (s : State) (r : Requester) (p : Nat) (c : Card) (i : Nat) (k : State → State) (hk : ∀ t , (k t ).memories = t.memories) : (State.partWrite s r p c i k).memories = s.memories := by
  unfold State.partWrite
  repeat' first
    | with_reducible rfl
    | (simp only [State.sf_memories, hk]; done)
    | (with_reducible refine (State.gate_memories _ _ _ _ _ (fun t  => ?_)).trans ?_)
    | split

theorem State.partWrite_wf (s : State) (r : Requester) (p : Nat) (c : Card) (i : Nat) (k : State → State) (hwf : s.memories.wf = true) (hk : ∀ t , t.memories.wf = true → (k t ).memories.wf = true) : (State.partWrite s r p c i k).memories.wf = true := by
  unfold State.partWrite
  repeat' first
    | with_reducible assumption
    | (simp only [hwf, State.sf_memories, hk]; done)
    | (with_reducible refine State.gate_wf _ _ _ _ _ ?_ (fun t  hwf => ?_))
    | split

theorem State.form_wf (s : State) (r : Requester) (p : Nat) (hwf : s.memories.wf = true) : (State.form s r p).memories.wf = true := by
  unfold State.form
  repeat' first
    | with_reducible assumption
    | (simp only [hwf, ite_memories, Memories.ite_wf, ite_self, foldl_memories, implies_true, State.modPrt_memories, State.park_memories, State.partGate_memories, State.setPair_memories, State.setPrt_memories, State.sf_memories, State.partGate_wf, State.resetUnits_wf]; done)
    | (with_reducible refine State.partGate_wf _ _ _ _ _ ?_ (fun t hwf => ?_))
    | (with_reducible refine State.resetUnits_wf _ _ _ ?_)
    | (with_reducible refine foldl_wf _ _ _ ?_ (fun t x hwf => ?_))
    | (with_reducible refine foldl1_wf _ _ _ ?_ (fun t x hwf => ?_))
    | split
    | (simp only [State.modPrt_memories, State.park_memories, State.partGate_memories, State.setPair_memories, State.setPrt_memories, State.sf_memories])
    | (simp only [])
    | (simp only [memories_mk])
    | (simp only [memories_eta])

theorem execForm_wf (r : Requester) (p : Nat) (s : State) (t : State) (ht : execForm r p s = .next t) (hwf : s.memories.wf = true) : t.memories.wf = true := by
  injection ht with ht
  rw [← ht]
  simp only [hwf, State.form_wf]

theorem State.partStop_wf (s : State) (r : Requester) (p cmd : Nat) (hwf : s.memories.wf = true) : (State.partStop s r p cmd).memories.wf = true := by
  unfold State.partStop
  repeat' first
    | with_reducible assumption
    | (simp only [hwf, State.modPrt_memories, State.partReset_wf]; done)
    | (with_reducible refine State.partGate_wf _ _ _ _ _ ?_ (fun t  hwf => ?_))
    | split

theorem execDissolve_wf (r : Requester) (p : Nat) (s : State) (t : State) (ht : execDissolve r p s = .next t) (hwf : s.memories.wf = true) : t.memories.wf = true := by
  injection ht with ht
  rw [← ht]
  simp only [hwf, State.partStop_wf]

theorem execPartReset_wf (r : Requester) (p : Nat) (s : State) (t : State) (ht : execPartReset r p s = .next t) (hwf : s.memories.wf = true) : t.memories.wf = true := by
  injection ht with ht
  rw [← ht]
  simp only [hwf, State.partStop_wf]

@[simp] theorem State.partResetDone_memories (s : State) (p : Nat) : (State.partResetDone s p).memories = s.memories := by
  unfold State.partResetDone
  simp only [ite_memories, ite_self, State.partEnd_memories, State.setPair_memories, State.setPrt_memories, State.sf_memories]

theorem execPartResetDone_memories (p : Nat) (s : State) (t : State) (ht : execPartResetDone p s = .next t) : t.memories = s.memories := by
  injection ht with ht
  rw [← ht]
  simp only [State.partResetDone_memories]

theorem State.preempt_wf (s : State) (r : Requester) (p : Nat) (hwf : s.memories.wf = true) : (State.preempt s r p).memories.wf = true := by
  unfold State.preempt
  repeat' first
    | with_reducible assumption
    | (simp only [hwf, ite_memories, Memories.ite_wf, ite_self, foldl_memories, implies_true, State.modPrt_memories, State.partGate_memories, State.tell_memories, State.partGate_wf]; done)
    | (with_reducible refine State.partGate_wf _ _ _ _ _ ?_ (fun t hwf => ?_))
    | (with_reducible refine foldl_wf _ _ _ ?_ (fun t x hwf => ?_))
    | (with_reducible refine foldl1_wf _ _ _ ?_ (fun t x hwf => ?_))
    | split
    | (simp only [State.modPrt_memories, State.partGate_memories, State.tell_memories])
    | (simp only [])
    | (simp only [memories_mk])
    | (simp only [memories_eta])

theorem execPreempt_wf (r : Requester) (p : Nat) (s : State) (t : State) (ht : execPreempt r p s = .next t) (hwf : s.memories.wf = true) : t.memories.wf = true := by
  injection ht with ht
  rw [← ht]
  repeat' first
    | with_reducible assumption
    | (simp only [hwf, ite_memories, Memories.ite_wf, ite_self, foldl_memories, implies_true, State.preempt_wf]; done)
    | (with_reducible refine State.preempt_wf _ _ _ ?_)
    | (with_reducible refine foldl_wf _ _ _ ?_ (fun t x hwf => ?_))
    | (with_reducible refine foldl1_wf _ _ _ ?_ (fun t x hwf => ?_))
    | split
    | (simp only [])
    | (simp only [memories_mk])
    | (simp only [memories_eta])

@[simp] theorem State.wakeGroups_memories (s : State) (p : Nat) : (State.wakeGroups s p).memories = s.memories := by
  unfold State.wakeGroups
  repeat' first
    | with_reducible rfl
    | (simp only [ite_memories, ite_self, foldl_memories, implies_true, State.wakeGroup_memories]; done)
    | (with_reducible refine (foldl_memories _ _ _ (fun t x => ?_)).trans ?_)
    | (with_reducible refine (foldl1_memories _ _ _ (fun t x => ?_)).trans ?_)
    | split
    | (simp only [State.wakeGroup_memories])
    | (simp only [])
    | (simp only [memories_mk])
    | (simp only [memories_eta])

@[simp] theorem State.closeCycle_memories (s : State) (g : Nat) : (State.closeCycle s g).memories = s.memories := by
  unfold State.closeCycle
  repeat' first
    | with_reducible rfl
    | (simp only [ite_memories, ite_self, foldl_memories, implies_true, State.nopStep_memories]; done)
    | (with_reducible refine (foldl_memories _ _ _ (fun t x => ?_)).trans ?_)
    | (with_reducible refine (foldl1_memories _ _ _ (fun t x => ?_)).trans ?_)
    | split
    | (simp only [State.nopStep_memories])
    | (simp only [])
    | (simp only [memories_mk])
    | (simp only [memories_eta])

@[simp] theorem State.freezeMessage_memories (s0 : State) (p : Nat) : (State.freezeMessage s0 p).memories = s0.memories := by
  unfold State.freezeMessage
  repeat' first
    | with_reducible rfl
    | (simp only [ite_memories, ite_self, foldl_memories, implies_true, State.addHeld_memories, State.closeCycle_memories, State.modPrt_memories, State.modRail_memories, State.sf_memories, State.wakeGroups_memories]; done)
    | (with_reducible refine (foldl_memories _ _ _ (fun t x => ?_)).trans ?_)
    | (with_reducible refine (foldl1_memories _ _ _ (fun t x => ?_)).trans ?_)
    | split
    | (simp only [State.addHeld_memories, State.closeCycle_memories, State.modPrt_memories, State.modRail_memories, State.sf_memories, State.wakeGroups_memories])
    | (simp only [])
    | (simp only [memories_mk])
    | (simp only [memories_eta])

theorem execFreezeMessage_memories (p : Nat) (s : State) (t : State) (ht : execFreezeMessage p s = .next t) : t.memories = s.memories := by
  injection ht with ht
  rw [← ht]
  simp only [State.freezeMessage_memories]

theorem drainLane_wf (lane n : Nat) (s : State) (hwf : s.memories.wf = true) : (drainLane lane n s).memories.wf = true := by
  induction n generalizing s with
  | zero => exact hwf
  | succ k ih =>
    refine ih _ ?_
    rw [State.seamAck_memories]
    exact State.seamDelivery_wf _ _ hwf

theorem State.quiesceDone_wf (s : State) (p : Nat) (hwf : s.memories.wf = true) : (State.quiesceDone s p).memories.wf = true := by
  unfold State.quiesceDone
  repeat' first
    | with_reducible assumption
    | (simp only [hwf, ite_memories, Memories.ite_wf, ite_self, foldl_memories, implies_true, State.dripReturn_memories, State.modPrt_memories, State.tell_memories, drainLane_wf]; done)
    | (with_reducible refine drainLane_wf _ _ _ ?_)
    | (with_reducible refine foldl_wf _ _ _ ?_ (fun t x hwf => ?_))
    | (with_reducible refine foldl1_wf _ _ _ ?_ (fun t x hwf => ?_))
    | split
    | (simp only [State.dripReturn_memories, State.modPrt_memories, State.tell_memories])
    | (simp only [])
    | (simp only [memories_mk])
    | (simp only [memories_eta])

theorem execQuiesceDone_wf (p : Nat) (s : State) (t : State) (ht : execQuiesceDone p s = .next t) (hwf : s.memories.wf = true) : t.memories.wf = true := by
  injection ht with ht
  rw [← ht]
  simp only [hwf, State.quiesceDone_wf]

@[simp] theorem State.saveMessage_memories (s : State) (p : Nat) : (State.saveMessage s p).memories = s.memories := by
  unfold State.saveMessage
  repeat' first
    | with_reducible rfl
    | (simp only [ite_memories, ite_self, foldl_memories, implies_true, State.sf_memories, State.tell_memories]; done)
    | (with_reducible refine (foldl_memories _ _ _ (fun t x => ?_)).trans ?_)
    | (with_reducible refine (foldl1_memories _ _ _ (fun t x => ?_)).trans ?_)
    | split
    | (simp only [State.sf_memories, State.tell_memories])
    | (simp only [])
    | (simp only [memories_mk])
    | (simp only [memories_eta])

theorem execSaveMessage_memories (p : Nat) (s : State) (t : State) (ht : execSaveMessage p s = .next t) : t.memories = s.memories := by
  injection ht with ht
  rw [← ht]
  simp only [State.saveMessage_memories]

@[simp] theorem State.saveDone_memories (s : State) (p : Nat) : (State.saveDone s p).memories = s.memories := by
  unfold State.saveDone
  repeat' first
    | with_reducible rfl
    | (simp only [ite_memories, ite_self, foldl_memories, implies_true, State.bump_memories, State.modPrt_memories, State.partEnd_memories, State.sf_memories, State.tell_memories]; done)
    | (with_reducible refine (foldl_memories _ _ _ (fun t x => ?_)).trans ?_)
    | (with_reducible refine (foldl1_memories _ _ _ (fun t x => ?_)).trans ?_)
    | split
    | (simp only [State.bump_memories, State.modPrt_memories, State.partEnd_memories, State.sf_memories, State.tell_memories])
    | (simp only [])
    | (simp only [memories_mk])
    | (simp only [memories_eta])

theorem execSaveDone_memories (p : Nat) (s : State) (t : State) (ht : execSaveDone p s = .next t) : t.memories = s.memories := by
  injection ht with ht
  rw [← ht]
  simp only [State.saveDone_memories]

@[simp] theorem State.quiescenceTimeout_memories (s : State) (p : Nat) : (State.quiescenceTimeout s p).memories = s.memories := by
  unfold State.quiescenceTimeout
  repeat' first
    | with_reducible rfl
    | (simp only [ite_memories, ite_self, foldl_memories, implies_true, State.bump_memories, State.partEnd_memories, State.tell_memories, State.until_memories]; done)
    | (with_reducible refine (foldl_memories _ _ _ (fun t x => ?_)).trans ?_)
    | (with_reducible refine (foldl1_memories _ _ _ (fun t x => ?_)).trans ?_)
    | split
    | (simp only [State.bump_memories, State.partEnd_memories, State.tell_memories, State.until_memories])
    | (simp only [])
    | (simp only [memories_mk])
    | (simp only [memories_eta])

theorem execQuiescenceTimeout_memories (p : Nat) (s : State) (t : State) (ht : execQuiescenceTimeout p s = .next t) : t.memories = s.memories := by
  injection ht with ht
  rw [← ht]
  simp only [State.quiescenceTimeout_memories]

theorem State.holdAgain_wf (s : State) (hs : List Hold) (hwf : s.memories.wf = true) : (State.holdAgain s hs).memories.wf = true := by
  unfold State.holdAgain
  repeat' first
    | with_reducible assumption
    | (simp only [hwf, ite_memories, Memories.ite_wf, ite_self, foldl_memories, implies_true, State.unhold_wf]; done)
    | (with_reducible refine State.unhold_wf _ _ _ ?_)
    | (with_reducible refine foldl_wf _ _ _ ?_ (fun t x hwf => ?_))
    | (with_reducible refine foldl1_wf _ _ _ ?_ (fun t x hwf => ?_))
    | split
    | (simp only [])
    | (simp only [memories_mk])
    | (simp only [memories_eta])

theorem State.unfreeze_wf (s : State) (p : Nat) (hwf : s.memories.wf = true) : (State.unfreeze s p).memories.wf = true := by
  unfold State.unfreeze
  repeat' first
    | with_reducible assumption
    | (simp only [hwf, ite_memories, Memories.ite_wf, ite_self, foldl_memories, implies_true, State.modPrt_memories, State.modRail_memories, State.pump_memories, State.sf_memories, State.holdAgain_wf, State.settle_wf]; done)
    | (with_reducible refine State.holdAgain_wf _ _ ?_)
    | (with_reducible refine State.settle_wf _ _ ?_)
    | (with_reducible refine foldl_wf _ _ _ ?_ (fun t x hwf => ?_))
    | (with_reducible refine foldl1_wf _ _ _ ?_ (fun t x hwf => ?_))
    | split
    | (simp only [State.modPrt_memories, State.modRail_memories, State.pump_memories, State.sf_memories])
    | (simp only [])
    | (simp only [memories_mk])
    | (simp only [memories_eta])

theorem State.thawMessage_wf (s : State) (p : Nat) (hwf : s.memories.wf = true) : (State.thawMessage s p).memories.wf = true := by
  unfold State.thawMessage
  repeat' first
    | with_reducible assumption
    | (simp only [hwf, ite_memories, Memories.ite_wf, ite_self, foldl_memories, implies_true, State.unfreeze_wf]; done)
    | (with_reducible refine State.unfreeze_wf _ _ ?_)
    | (with_reducible refine foldl_wf _ _ _ ?_ (fun t x hwf => ?_))
    | (with_reducible refine foldl1_wf _ _ _ ?_ (fun t x hwf => ?_))
    | split
    | (simp only [])
    | (simp only [memories_mk])
    | (simp only [memories_eta])

theorem execThawMessage_wf (p : Nat) (s : State) (t : State) (ht : execThawMessage p s = .next t) (hwf : s.memories.wf = true) : t.memories.wf = true := by
  injection ht with ht
  rw [← ht]
  repeat' first
    | with_reducible assumption
    | (simp only [hwf, ite_memories, Memories.ite_wf, ite_self, foldl_memories, implies_true, State.thawMessage_wf]; done)
    | (with_reducible refine State.thawMessage_wf _ _ ?_)
    | (with_reducible refine foldl_wf _ _ _ ?_ (fun t x hwf => ?_))
    | (with_reducible refine foldl1_wf _ _ _ ?_ (fun t x hwf => ?_))
    | split
    | (simp only [])
    | (simp only [memories_mk])
    | (simp only [memories_eta])

theorem State.partResume_wf (s : State) (r : Requester) (p : Nat) (hwf : s.memories.wf = true) : (State.partResume s r p).memories.wf = true := by
  unfold State.partResume
  repeat' first
    | with_reducible assumption
    | (simp only [hwf, ite_memories, Memories.ite_wf, ite_self, foldl_memories, implies_true, State.modPrt_memories, State.park_memories, State.partGate_memories, State.sf_memories, State.tell_memories, State.partGate_wf]; done)
    | (with_reducible refine State.partGate_wf _ _ _ _ _ ?_ (fun t hwf => ?_))
    | (with_reducible refine foldl_wf _ _ _ ?_ (fun t x hwf => ?_))
    | (with_reducible refine foldl1_wf _ _ _ ?_ (fun t x hwf => ?_))
    | split
    | (simp only [State.modPrt_memories, State.park_memories, State.partGate_memories, State.sf_memories, State.tell_memories])
    | (simp only [])
    | (simp only [memories_mk])
    | (simp only [memories_eta])

theorem execPartResume_wf (r : Requester) (p : Nat) (s : State) (t : State) (ht : execPartResume r p s = .next t) (hwf : s.memories.wf = true) : t.memories.wf = true := by
  injection ht with ht
  rw [← ht]
  repeat' first
    | with_reducible assumption
    | (simp only [hwf, ite_memories, Memories.ite_wf, ite_self, foldl_memories, implies_true, State.partResume_wf]; done)
    | (with_reducible refine State.partResume_wf _ _ _ ?_)
    | (with_reducible refine foldl_wf _ _ _ ?_ (fun t x hwf => ?_))
    | (with_reducible refine foldl1_wf _ _ _ ?_ (fun t x hwf => ?_))
    | split
    | (simp only [])
    | (simp only [memories_mk])
    | (simp only [memories_eta])

theorem putAll_form (d : Nat → Byte) (l m : List Host.Cell) (h : Sparse.wf d m = true) : Sparse.wf d (putAll d m l) = true := by
  unfold putAll
  induction l generalizing m with
  | nil => exact h
  | cons x l ih => exact ih _ (Sparse.wf_put _ _ _ _ h)

theorem get_putAll_other (l m : List (Nat × Nat)) (k : Nat) (h : ∀ x ∈ l, x.1 ≠ k) :
    Sparse.get (fun _ => 0) (putAll (fun _ => 0) m l) k = Sparse.get (fun _ => 0) m k := by
  unfold putAll
  induction l generalizing m with
  | nil => rfl
  | cons x l ih =>
    refine (ih _ (fun y hy => h y (List.mem_cons_of_mem _ hy))).trans ?_
    exact Sparse.get_put_other _ _ _ _ _ (fun e => h x List.mem_cons_self e.symm)

/-- The memories of the units that have been cleared list nothing there. -/

structure Cleared (t : State) (fs es : List Nat) : Prop where
  mem : ∀ f ∈ fs, f < 256 → ∀ x ∈ t.mem, ¬(spAddr f 0 ≤ x.1 ∧ x.1 < spAddr f 0 + 0x200000)
  imem : ∀ f ∈ fs, f < 256 → ∀ x ∈ t.imem, ¬(f * 262144 ≤ x.1 ∧ x.1 < f * 262144 + 262144)
  sram : ∀ e ∈ es, ∀ x ∈ t.sram, ¬(e * 2097152 ≤ x.1 ∧ x.1 < e * 2097152 + 2097152)

theorem Cleared.of_memories {t u : State} {fs es : List Nat} (h : Cleared t fs es) (e : u.memories = t.memories) : Cleared u fs es := by
  unfold State.memories at e
  injection e with e1 e2 e3
  exact ⟨by rw [e1]; exact h.mem, by rw [e2]; exact h.imem, by rw [e3]; exact h.sram⟩

theorem mem_erase {m : List Host.Cell} {a n : Nat} {x : Host.Cell} (h : x ∈ Sparse.erase m a n) :
    x ∈ m ∧ ¬(a ≤ x.1 ∧ x.1 < a + n) := by
  unfold Sparse.erase Sparse.drop at h
  have h2 := List.mem_filter.mp h
  refine ⟨h2.1, fun hh => ?_⟩
  have h3 := h2.2
  simp [hh.1, hh.2] at h3

theorem facetsCleared (fs : List Nat) (s : State) (done es : List Nat) (h : Cleared s done es) :
    Cleared (fs.foldl (fun (t : State) f => ((t.clearScratch f 0).clearImem f 0).setFacet f Facet.blank) s) (fs ++ done) es := by
  induction fs generalizing s done with
  | nil => exact h
  | cons f fs ih =>
    have h1 : Cleared (((s.clearScratch f 0).clearImem f 0).setFacet f Facet.blank) (f :: done) es := by
      refine Cleared.of_memories ?_ (State.setFacet_memories _ _ _)
      unfold State.clearScratch
      by_cases hf : f ≥ 256
      · rw [if_pos hf]
        unfold State.clearImem
        rw [if_pos hf]
        refine ⟨fun g hg hl => ?_, fun g hg hl => ?_, h.sram⟩
        · cases hg with
          | head => omega
          | tail _ hg => exact h.mem g hg hl
        · cases hg with
          | head => omega
          | tail _ hg => exact h.imem g hg hl
      · rw [if_neg hf]
        unfold State.clearImem
        rw [if_neg hf]
        refine ⟨fun g hg hl x hx => ?_, fun g hg hl x hx => ?_, h.sram⟩
        · have hx := mem_erase hx
          cases hg with
          | head => exact hx.2
          | tail _ hg => exact h.mem g hg hl x hx.1
        · have hx := mem_erase hx
          cases hg with
          | head => exact hx.2
          | tail _ hg => exact h.imem g hg hl x hx.1
    have h2 := ih _ _ h1
    refine ⟨fun g hg => h2.mem g ?_, fun g hg => h2.imem g ?_, h2.sram⟩ <;>
      (simp only [List.cons_append, List.mem_cons, List.mem_append] at hg ⊢; rcases hg with hg | hg | hg <;> simp [hg])

theorem enginesCleared (es : List Nat) (s : State) (fs done : List Nat) (h : Cleared s fs done) :
    Cleared (es.foldl (fun (t : State) e => ((t.clearSram e 0).setTaken e []).setPast e []) s) fs (es ++ done) := by
  induction es generalizing s done with
  | nil => exact h
  | cons e es ih =>
    have h1 : Cleared (((s.clearSram e 0).setTaken e []).setPast e []) fs (e :: done) := by
      refine Cleared.of_memories ?_ ((State.setPast_memories _ _ _).trans (State.setTaken_memories _ _ _))
      unfold State.clearSram
      refine ⟨h.mem, h.imem, fun g hg x hx => ?_⟩
      have hx := mem_erase hx
      cases hg with
      | head => exact hx.2
      | tail _ hg => exact h.sram g hg x hx.1
    have h2 := ih _ _ h1
    refine ⟨h2.mem, h2.imem, fun g hg => h2.sram g ?_⟩
    simp only [List.cons_append, List.mem_cons, List.mem_append] at hg ⊢; rcases hg with hg | hg | hg <;> simp [hg]

theorem resetUnits_cleared (s : State) (fs es : List Nat) : Cleared (s.resetUnits fs es) fs es := by
  unfold State.resetUnits
  have ha := facetsCleared fs (s.loseUnits (fs ++ es.map (fun e => 256 + e))) [] []
    (Cleared.mk (fun _ h => absurd h List.not_mem_nil) (fun _ h => absurd h List.not_mem_nil) (fun _ h => absurd h List.not_mem_nil))
  have hb := enginesCleared es _ _ _ ha
  rw [List.append_nil, List.append_nil] at hb
  refine hb.of_memories ((foldl_memories _ _ _ (fun t u => State.loseTables_memories t u)).trans ((State.pruneWatches_memories _).trans ?_))
  exact State.resetRegs_memories _ (unitReg fs.contains es.contains)

theorem facetsOf_lt (s : State) (p f : Nat) (h : f ∈ s.facetsOf p) : f < 256 := by
  unfold State.facetsOf at h
  have h1 := List.mem_range.mp (List.mem_filter.mp h).1
  unfold State.facetCount State.cols at h1
  split at h1 <;> omega

theorem lostByte_putAll (l m : List (Nat × Nat)) (k a : Nat) (h : ∀ x ∈ l, x.1 ≠ k) :
    lostByte (putAll (fun _ => 0) m l) k a = lostByte m k a := by
  unfold lostByte; rw [get_putAll_other _ _ _ h]

theorem wf_of_keys (d d' : Nat → Byte) (m : List Host.Cell) (h : Sparse.wf d m = true) (e : ∀ x ∈ m, d' x.1 = d x.1) :
    Sparse.wf d' m = true := by
  rw [Sparse.wf_iff] at h ⊢
  exact ⟨h.1, fun x hx => by rw [e x hx]; exact h.2 x hx⟩

theorem lostSet_wf (s : State) (fs es : List Nat) (l : List (Nat × Nat)) (hc : Cleared s fs es) (hf : ∀ f ∈ fs, f < 256)
    (hl : ∀ x ∈ l, (fs.contains x.1 || (decide (256 ≤ x.1) && fs.contains (x.1 - 256)) || (decide (512 ≤ x.1) && es.contains (x.1 - 512))) = true)
    (hwf : s.memories.wf = true) : (State.memories { s with lost := putAll (fun _ => 0) s.lost l }).wf = true := by
  have key : ∀ x ∈ l, x.1 ∈ fs ∨ (256 ≤ x.1 ∧ x.1 - 256 ∈ fs) ∨ (512 ≤ x.1 ∧ x.1 - 512 ∈ es) := by
    intro x hx
    have h := hl x hx
    simp only [Bool.or_eq_true, Bool.and_eq_true, decide_eq_true_eq, List.contains_iff_mem, or_assoc] at h
    exact h
  rw [Memories.wf_iff] at hwf ⊢
  refine ⟨wf_of_keys _ _ _ hwf.1 (fun x hx => ?_), wf_of_keys _ _ _ hwf.2.1 (fun x hx => ?_), wf_of_keys _ _ _ hwf.2.2.1 (fun x hx => ?_), hwf.2.2.2⟩
  · show (if _ then _ else _) = (if _ then _ else _)
    split
    · rfl
    · rename_i hr
      refine lostByte_putAll _ _ _ _ (fun y hy he => ?_)
      rcases key y hy with h | h | h
      · rw [he] at h
        refine hc.mem _ h (hf _ h) x hx ?_
        unfold spAddr apertureBase at *
        omega
      · omega
      · omega
  · show (if _ then _ else _) = (if _ then _ else _)
    split
    · rfl
    · rename_i hr
      refine lostByte_putAll _ _ _ _ (fun y hy he => ?_)
      rcases key y hy with h | h | h
      · have := hf _ h; omega
      · have h2 := h.2
        rw [show y.1 - 256 = x.1 / 262144 by omega] at h2
        refine hc.imem _ h2 (hf _ h2) x hx ?_
        omega
      · omega
  · refine lostByte_putAll _ _ _ _ (fun y hy he => ?_)
    rcases key y hy with h | h | h
    · have := hf _ h; omega
    · have := hf _ h.2; omega
    · have h2 := h.2
      rw [show y.1 - 512 = x.1 / 2097152 by omega] at h2
      refine hc.sram _ h2 x hx ?_
      omega

theorem restored_wf (s : State) (a b c : List Host.Cell) (hwf : s.memories.wf = true) :
    (Memories.mk (putAll s.memD s.mem a) (putAll s.imemD s.imem b) (putAll s.sramD s.sram c) s.lost s.hop s.host s.boot.nor s.apxReq s.apxRsp).wf = true := by
  rw [Memories.wf_iff] at hwf ⊢
  exact ⟨putAll_form _ _ _ hwf.1, putAll_form _ _ _ hwf.2.1, putAll_form _ _ _ hwf.2.2.1, hwf.2.2.2⟩

theorem State.restore_wf (s : State) (p : Nat) (im : SaveImage) (hwf : s.memories.wf = true) : (State.restore s p im).memories.wf = true := by
  unfold State.restore
  extract_lets fs es a mine b c
  have ha : a.memories.wf = true := State.resetUnits_wf _ _ _ hwf
  have hb : b.memories.wf = true := by
    refine lostSet_wf a fs es _ (resetUnits_cleared _ _ _) (fun f h => facetsOf_lt s p f h) (fun x hx => ?_) ha
    exact (List.mem_filter.mp hx).2
  have hc : c.memories.wf = true := restored_wf b _ _ _ hb
  refine foldl_wf _ _ _ hc (fun t x h => ?_)
  rw [State.setArc_memories]; exact h

theorem State.restoreDone_wf (s : State) (p : Nat) (ok : Bool) (hwf : s.memories.wf = true) : (State.restoreDone s p ok).memories.wf = true := by
  unfold State.restoreDone
  repeat' first
    | with_reducible assumption
    | (simp only [hwf, ite_memories, Memories.ite_wf, ite_self, foldl_memories, implies_true, State.bump_memories, State.modPrt_memories, State.partEnd_memories, State.sf_memories, State.tell_memories, State.partReset_wf, State.restore_wf]; done)
    | (with_reducible refine State.partReset_wf _ _ _ ?_)
    | (with_reducible refine State.restore_wf _ _ _ ?_)
    | (with_reducible refine foldl_wf _ _ _ ?_ (fun t x hwf => ?_))
    | (with_reducible refine foldl1_wf _ _ _ ?_ (fun t x hwf => ?_))
    | split
    | (simp only [State.bump_memories, State.modPrt_memories, State.partEnd_memories, State.sf_memories, State.tell_memories])
    | (simp only [])
    | (simp only [memories_mk])
    | (simp only [memories_eta])

theorem execRestoreDone_wf (p : Nat) (ok : Bool) (s : State) (t : State) (ht : execRestoreDone p ok s = .next t) (hwf : s.memories.wf = true) : t.memories.wf = true := by
  injection ht with ht
  rw [← ht]
  simp only [hwf, State.restoreDone_wf]

theorem State.goMessage_wf (s : State) (p : Nat) (hwf : s.memories.wf = true) : (State.goMessage s p).memories.wf = true := by
  unfold State.goMessage
  repeat' first
    | with_reducible assumption
    | (simp only [hwf, ite_memories, Memories.ite_wf, ite_self, foldl_memories, implies_true, State.partEnd_memories, State.tell_memories, State.unfreeze_wf]; done)
    | (with_reducible refine State.unfreeze_wf _ _ ?_)
    | (with_reducible refine foldl_wf _ _ _ ?_ (fun t x hwf => ?_))
    | (with_reducible refine foldl1_wf _ _ _ ?_ (fun t x hwf => ?_))
    | split
    | (simp only [State.partEnd_memories, State.tell_memories])
    | (simp only [])
    | (simp only [memories_mk])
    | (simp only [memories_eta])

theorem execGoMessage_wf (p : Nat) (s : State) (t : State) (ht : execGoMessage p s = .next t) (hwf : s.memories.wf = true) : t.memories.wf = true := by
  injection ht with ht
  rw [← ht]
  repeat' first
    | with_reducible assumption
    | (simp only [hwf, ite_memories, Memories.ite_wf, ite_self, foldl_memories, implies_true, State.goMessage_wf]; done)
    | (with_reducible refine State.goMessage_wf _ _ ?_)
    | (with_reducible refine foldl_wf _ _ _ ?_ (fun t x hwf => ?_))
    | (with_reducible refine foldl1_wf _ _ _ ?_ (fun t x hwf => ?_))
    | split
    | (simp only [])
    | (simp only [memories_mk])
    | (simp only [memories_eta])

@[simp] theorem State.partitionHalt_memories (s : State) (p facet : Nat) : (State.partitionHalt s p facet).memories = s.memories := by
  unfold State.partitionHalt
  repeat' first
    | with_reducible rfl
    | (simp only [ite_memories, ite_self, foldl_memories, implies_true, State.bump_memories, State.modPrt_memories, State.modRail_memories, State.report_memories, State.sf_memories, State.tell_memories]; done)
    | (with_reducible refine (foldl_memories _ _ _ (fun t x => ?_)).trans ?_)
    | (with_reducible refine (foldl1_memories _ _ _ (fun t x => ?_)).trans ?_)
    | split
    | (simp only [State.bump_memories, State.modPrt_memories, State.modRail_memories, State.report_memories, State.sf_memories, State.tell_memories])
    | (simp only [])
    | (simp only [memories_mk])
    | (simp only [memories_eta])

theorem execPartitionHalt_memories (p facet : Nat) (s : State) (t : State) (ht : execPartitionHalt p facet s = .next t) : t.memories = s.memories := by
  injection ht with ht
  rw [← ht]
  simp only [State.partitionHalt_memories]

@[simp] theorem State.amapWrite_memories (s : State) (r : Requester) (p n : Nat) (c : Card) (put : State → State) (hput : ∀ t , (put t ).memories = t.memories) : (State.amapWrite s r p n c put).memories = s.memories := by
  unfold State.amapWrite
  simp only [ite_memories, ite_self, implies_true, State.partWrite_memories, State.report_memories, hput]

theorem State.amapWrite_wf (s : State) (r : Requester) (p n : Nat) (c : Card) (put : State → State) (hwf : s.memories.wf = true) (hput : ∀ t , t.memories.wf = true → (put t ).memories.wf = true) : (State.amapWrite s r p n c put).memories.wf = true := by
  unfold State.amapWrite
  repeat' first
    | with_reducible assumption
    | (simp only [hwf, ite_memories, Memories.ite_wf, ite_self, State.report_memories, hput]; done)
    | (with_reducible refine State.partWrite_wf _ _ _ _ _ _ ?_ (fun t  hwf => ?_))

theorem execAmapWrite_memories (r : Requester) (p n off be : Nat) (val : Word) (s : State) (t : State) (ht : execAmapWrite r p n off be val s = .next t) : t.memories = s.memories := by
  injection ht with ht
  rw [← ht]
  repeat' first
    | with_reducible rfl
    | (simp only [ite_memories, ite_self, foldl_memories, implies_true, State.amapWrite_memories, State.write4_memories]; done)
    | (with_reducible refine (foldl_memories _ _ _ (fun t x => ?_)).trans ?_)
    | (with_reducible refine (foldl1_memories _ _ _ (fun t x => ?_)).trans ?_)
    | (with_reducible refine State.write4_memories _ _ _ _ _ _ _ (fun c g t hg => ?_))
    | (simp only [implies_true, hg, State.amapWrite_memories, State.write4_memories]; done)
    | split
    | (simp only [State.amapWrite_memories, State.write4_memories])
    | (simp only [])
    | (simp only [memories_mk])
    | (simp only [memories_eta])

/-! ### Faults -/

@[simp] theorem State.dumpChanged_memories (s : State) : (State.dumpChanged s).memories = s.memories := by
  unfold State.dumpChanged
  repeat' first
    | (simp only [])
    | (simp only [memories_mk])
    | (simp only [memories_eta])

theorem State.writeDump_wf (s : State) (trigger : Nat) (hwf : s.memories.wf = true) : (State.writeDump s trigger).memories.wf = true := by
  unfold State.writeDump
  repeat' first
    | (simp only [hwf, State.dumpChanged_memories, State.writeMem_wf, State.zeroMem_wf]; done)
    | (with_reducible refine State.writeMem_wf _ _ _ ?_)
    | (simp only [State.dumpChanged_memories])
    | (simp only [memories_mk])
    | (simp only [memories_eta])

theorem State.fatalDump_wf (s : State) (trigger : Nat) (hwf : s.memories.wf = true) : (State.fatalDump s trigger).memories.wf = true := by
  unfold State.fatalDump
  simp only [hwf, ite_memories, Memories.ite_wf, ite_self, State.report_memories, State.setFlt_memories, State.writeDump_wf]

theorem execFatalDump_wf (trigger : Nat) (s : State) (t : State) (ht : execFatalDump trigger s = .next t) (hwf : s.memories.wf = true) : t.memories.wf = true := by
  injection ht with ht
  rw [← ht]
  simp only [hwf, State.fatalDump_wf]

@[simp] theorem State.showDumps_memories (s : State) : (State.showDumps s).memories = s.memories := by
  unfold State.showDumps
  simp only [State.setN_memories]

@[simp] theorem State.dumpCopy_memories (s : State) : (State.dumpCopy s).memories = s.memories := by
  unfold State.dumpCopy
  repeat' first
    | with_reducible rfl
    | split
    | (simp only [State.showDumps_memories])
    | (simp only [memories_mk])
    | (simp only [memories_eta])

theorem execDumpCopy_memories (s : State) (t : State) (ht : execDumpCopy s = .next t) : t.memories = s.memories := by
  injection ht with ht
  rw [← ht]
  simp only [State.dumpCopy_memories]

theorem State.dumpWrite_wf (s : State) (hwf : s.memories.wf = true) : (State.dumpWrite s).memories.wf = true := by
  unfold State.dumpWrite
  repeat' first
    | with_reducible assumption
    | (simp only [hwf, ite_memories, Memories.ite_wf, ite_self, foldl_memories, implies_true, State.report_memories, State.setN_memories, State.writeDump_wf]; done)
    | (with_reducible refine State.writeDump_wf _ _ ?_)
    | (with_reducible refine foldl_wf _ _ _ ?_ (fun t x hwf => ?_))
    | (with_reducible refine foldl1_wf _ _ _ ?_ (fun t x hwf => ?_))
    | split
    | (simp only [State.report_memories, State.setN_memories])
    | (simp only [])
    | (simp only [memories_mk])
    | (simp only [memories_eta])

theorem State.dumpInvalidate_wf (s : State) (hwf : s.memories.wf = true) : (State.dumpInvalidate s).memories.wf = true := by
  unfold State.dumpInvalidate
  simp only [hwf, State.dumpChanged_memories, State.setN_memories, State.zeroMem_wf]

@[simp] theorem State.setTorn_memories (s : State) (p : Nat) (on : Bool) : (State.setTorn s p on).memories = s.memories := by
  unfold State.setTorn
  simp only [State.sf_memories]

@[simp] theorem State.restFlt_memories (s : State) (v : Nat) : (State.restFlt s v).memories = s.memories := by
  unfold State.restFlt
  simp only [ite_memories, ite_self, State.setFlt_memories]

theorem State.loseScratch_wf (s : State) (f : Nat) (hwf : s.memories.wf = true) : (State.loseScratch s f).memories.wf = true := by
  unfold State.loseScratch
  simp only [hwf, State.clearScratch_wf, State.fresh_memories]

theorem State.loseSram_wf (s : State) (e : Nat) (hwf : s.memories.wf = true) : (State.loseSram s e).memories.wf = true := by
  unfold State.loseSram
  simp only [hwf, State.clearSram_wf, State.fresh_memories]

theorem State.stopNow_wf (s : State) (f : Nat) (hwf : s.memories.wf = true) : (State.stopNow s f).memories.wf = true := by
  unfold State.stopNow
  repeat' first
    | with_reducible assumption
    | (simp only [hwf, ite_memories, Memories.ite_wf, ite_self, foldl_memories, implies_true, State.stopFacet_memories, State.flush_wf]; done)
    | (with_reducible refine State.flush_wf _ _ _ ?_)
    | (with_reducible refine foldl_wf _ _ _ ?_ (fun t x hwf => ?_))
    | (with_reducible refine foldl1_wf _ _ _ ?_ (fun t x hwf => ?_))
    | split
    | (simp only [State.stopFacet_memories])
    | (simp only [])
    | (simp only [memories_mk])
    | (simp only [memories_eta])

theorem State.teardownPart_wf (s : State) (p : Nat) (hwf : s.memories.wf = true) : (State.teardownPart s p).memories.wf = true := by
  unfold State.teardownPart
  repeat' first
    | with_reducible assumption
    | (simp only [hwf, ite_memories, Memories.ite_wf, ite_self, foldl_memories, implies_true, State.clearCounters_memories, State.modPrt_memories, State.modRail_memories, State.partEnd_memories, State.setPast_memories, State.setTaken_memories, State.setTorn_memories, State.sf_memories, State.copyHalt_wf, State.dripHalt_wf, State.loseScratch_wf, State.loseSram_wf, State.stopNow_wf]; done)
    | (with_reducible refine State.copyHalt_wf _ _ _ ?_)
    | (with_reducible refine State.dripHalt_wf _ _ _ ?_)
    | (with_reducible refine State.loseScratch_wf _ _ ?_)
    | (with_reducible refine State.loseSram_wf _ _ ?_)
    | (with_reducible refine State.stopNow_wf _ _ ?_)
    | (with_reducible refine foldl_wf _ _ _ ?_ (fun t x hwf => ?_))
    | (with_reducible refine foldl1_wf _ _ _ ?_ (fun t x hwf => ?_))
    | split
    | (simp only [State.clearCounters_memories, State.modPrt_memories, State.modRail_memories, State.partEnd_memories, State.setPast_memories, State.setTaken_memories, State.setTorn_memories, State.sf_memories])
    | (simp only [])
    | (simp only [memories_mk])
    | (simp only [memories_eta])

@[simp] theorem State.rotateKeys_memories (s : State) (secret : Nat) : (State.rotateKeys s secret).memories = s.memories := by
  unfold State.rotateKeys
  repeat' first
    | (simp only [foldl_memories, implies_true, State.report_memories, State.setEnt_memories]; done)
    | (with_reducible refine (foldl_memories _ _ _ (fun t x => ?_)).trans ?_)
    | (simp only [])
    | (simp only [memories_mk])
    | (simp only [memories_eta])

@[simp] theorem State.endRetained_memories (s : State) (p : Nat) : (State.endRetained s p).memories = s.memories := by
  unfold State.endRetained
  repeat' first
    | with_reducible rfl
    | (simp only [ite_memories, ite_self, foldl_memories, implies_true, State.endRange_memories]; done)
    | (with_reducible refine (foldl_memories _ _ _ (fun t x => ?_)).trans ?_)
    | (with_reducible refine (foldl1_memories _ _ _ (fun t x => ?_)).trans ?_)
    | split
    | (simp only [State.endRange_memories])
    | (simp only [])
    | (simp only [memories_mk])
    | (simp only [memories_eta])

theorem State.teardown_wf (s : State) (v : List Byte) (hwf : s.memories.wf = true) : (State.teardown s v).memories.wf = true := by
  unfold State.teardown
  repeat' first
    | with_reducible assumption
    | (simp only [hwf, ite_memories, Memories.ite_wf, ite_self, foldl_memories, implies_true, State.bump_memories, State.endRetained_memories, State.restFlt_memories, State.rotateKeys_memories, State.setN_memories, State.shadowConfig_memories, State.teardownPart_wf]; done)
    | (with_reducible refine State.teardownPart_wf _ _ ?_)
    | (with_reducible refine foldl_wf _ _ _ ?_ (fun t x hwf => ?_))
    | (with_reducible refine foldl1_wf _ _ _ ?_ (fun t x hwf => ?_))
    | split
    | (simp only [State.bump_memories, State.endRetained_memories, State.restFlt_memories, State.rotateKeys_memories, State.setN_memories, State.shadowConfig_memories])
    | (simp only [])
    | (simp only [memories_mk])
    | (simp only [memories_eta])

@[simp] theorem State.faultTickets_memories (s : State) (p : Nat) : (State.faultTickets s p).memories = s.memories := by
  unfold State.faultTickets
  simp only [foldl_memories, implies_true, State.retire_memories]

@[simp] theorem State.resumePart_memories (s : State) (p : Nat) : (State.resumePart s p).1.memories = s.memories := by
  unfold State.resumePart
  repeat' first
    | with_reducible rfl
    | (simp only [ite_memories, ite_self, foldl_memories, implies_true, State.faultTickets_memories, State.modRail_memories, State.tell_memories]; done)
    | (with_reducible refine (foldl_memories _ _ _ (fun t x => ?_)).trans ?_)
    | (with_reducible refine (foldl1_memories _ _ _ (fun t x => ?_)).trans ?_)
    | split
    | (simp only [State.faultTickets_memories, State.modRail_memories, State.tell_memories])
    | (simp only [])
    | (simp only [memories_mk])
    | (simp only [memories_eta])

@[simp] theorem State.faultResume_memories (s : State) (mask : Nat) : (State.faultResume s mask).memories = s.memories := by
  unfold State.faultResume
  repeat' first
    | with_reducible rfl
    | (simp only [ite_memories, ite_self, foldl_memories, implies_true, State.restFlt_memories, State.resumePart_memories, State.setN_memories]; done)
    | (with_reducible refine (foldl_memories _ _ _ (fun t x => ?_)).trans ?_)
    | (with_reducible refine (foldl1_memories _ _ _ (fun t x => ?_)).trans ?_)
    | split
    | (simp only [State.restFlt_memories, State.resumePart_memories, State.setN_memories])
    | (simp only [])
    | (simp only [memories_mk])
    | (simp only [memories_eta])

theorem State.reloadFacet_wf (s : State) (p f i : Nat) (hwf : s.memories.wf = true) : (State.reloadFacet s p f i).1.memories.wf = true := by
  unfold State.reloadFacet
  repeat' first
    | with_reducible assumption
    | (simp only [hwf, ite_memories, Memories.ite_wf, ite_self, foldl_memories, implies_true, State.copyBundles_wf, State.startFacet_wf]; done)
    | (with_reducible refine State.copyBundles_wf _ _ _ _ _ _ ?_)
    | (with_reducible refine State.startFacet_wf _ _ _ _ ?_)
    | (with_reducible refine foldl_wf _ _ _ ?_ (fun t x hwf => ?_))
    | (with_reducible refine foldl1_wf _ _ _ ?_ (fun t x hwf => ?_))
    | split
    | (simp only [])
    | (simp only [memories_mk])
    | (simp only [memories_eta])

theorem State.reloadFacets_wf (s : State) (p : Nat) (hwf : s.memories.wf = true) : (State.reloadFacets s p).1.memories.wf = true := by
  unfold State.reloadFacets
  repeat' first
    | with_reducible assumption
    | (simp only [hwf, ite_memories, Memories.ite_wf, ite_self, foldl_memories, implies_true, State.reloadFacet_wf]; done)
    | (with_reducible refine State.reloadFacet_wf _ _ _ _ ?_)
    | (with_reducible refine foldl_wf _ _ _ ?_ (fun t x hwf => ?_))
    | (with_reducible refine foldl1_wf _ _ _ ?_ (fun t x hwf => ?_))
    | split
    | (simp only [])
    | (simp only [memories_mk])
    | (simp only [memories_eta])

theorem State.zeroRing_wf (s : State) (r : Nat) (hwf : s.memories.wf = true) : (State.zeroRing s r).memories.wf = true := by
  unfold State.zeroRing
  simp only [hwf, ite_memories, Memories.ite_wf, ite_self, State.sf_memories, State.zeroMem_wf]

theorem State.replayPart_wf (s : State) (p g : Nat) (hwf : s.memories.wf = true) : (State.replayPart s p g).memories.wf = true := by
  unfold State.replayPart
  repeat' first
    | with_reducible assumption
    | (simp only [hwf, ite_memories, Memories.ite_wf, ite_self, foldl_memories, implies_true, State.fatal_memories, State.replayOver_memories, State.restFlt_memories, State.sendReplay_memories, State.setEnt_memories, State.setGroup_memories, State.setTorn_memories, State.sf_memories, State.reloadFacets_wf, State.zeroRing_wf]; done)
    | (with_reducible refine State.reloadFacets_wf _ _ ?_)
    | (with_reducible refine State.zeroRing_wf _ _ ?_)
    | (with_reducible refine foldl_wf _ _ _ ?_ (fun t x hwf => ?_))
    | (with_reducible refine foldl1_wf _ _ _ ?_ (fun t x hwf => ?_))
    | split
    | (simp only [State.fatal_memories, State.replayOver_memories, State.restFlt_memories, State.sendReplay_memories, State.setEnt_memories, State.setGroup_memories, State.setTorn_memories, State.sf_memories])
    | (simp only [])
    | (simp only [memories_mk])
    | (simp only [memories_eta])

theorem State.replayStart_wf (s : State) (p g : Nat) (hwf : s.memories.wf = true) : (State.replayStart s p g).memories.wf = true := by
  unfold State.replayStart
  repeat' first
    | with_reducible assumption
    | (simp only [hwf, ite_memories, Memories.ite_wf, ite_self, foldl_memories, implies_true, State.restFlt_memories, State.replayPart_wf, State.teardownPart_wf]; done)
    | (with_reducible refine State.replayPart_wf _ _ _ ?_)
    | (with_reducible refine State.teardownPart_wf _ _ ?_)
    | (with_reducible refine foldl_wf _ _ _ ?_ (fun t x hwf => ?_))
    | (with_reducible refine foldl1_wf _ _ _ ?_ (fun t x hwf => ?_))
    | split
    | (simp only [State.restFlt_memories])
    | (simp only [])
    | (simp only [memories_mk])
    | (simp only [memories_eta])

theorem execReplayStart_wf (p g : Nat) (s : State) (t : State) (ht : execReplayStart p g s = .next t) (hwf : s.memories.wf = true) : t.memories.wf = true := by
  injection ht with ht
  rw [← ht]
  simp only [hwf, State.replayStart_wf]

theorem State.replayHoldoff_wf (s : State) (p : Nat) (hwf : s.memories.wf = true) : (State.replayHoldoff s p).memories.wf = true := by
  unfold State.replayHoldoff
  repeat' first
    | with_reducible assumption
    | (simp only [hwf, ite_memories, Memories.ite_wf, ite_self, foldl_memories, implies_true, State.bump_memories, State.faultTickets_memories, State.modRail_memories, State.restFlt_memories, State.retire_memories, State.tell_memories, State.until_memories, State.teardownPart_wf]; done)
    | (with_reducible refine State.teardownPart_wf _ _ ?_)
    | (with_reducible refine foldl_wf _ _ _ ?_ (fun t x hwf => ?_))
    | (with_reducible refine foldl1_wf _ _ _ ?_ (fun t x hwf => ?_))
    | split
    | (simp only [State.bump_memories, State.faultTickets_memories, State.modRail_memories, State.restFlt_memories, State.retire_memories, State.tell_memories, State.until_memories])
    | (simp only [])
    | (simp only [memories_mk])
    | (simp only [memories_eta])

theorem execReplayHoldoffExpiry_wf (p : Nat) (s : State) (t : State) (ht : execReplayHoldoffExpiry p s = .next t) (hwf : s.memories.wf = true) : t.memories.wf = true := by
  injection ht with ht
  rw [← ht]
  simp only [hwf, State.replayHoldoff_wf]

@[simp] theorem State.stepSeal_memories (s : State) (p : Nat) : (State.stepSeal s p).memories = s.memories := by
  unfold State.stepSeal
  repeat' first
    | with_reducible rfl
    | (simp only [ite_memories, ite_self, foldl_memories, implies_true, State.modRail_memories, State.sealSlots_memories, State.setN_memories, State.tell_memories]; done)
    | (with_reducible refine (foldl_memories _ _ _ (fun t x => ?_)).trans ?_)
    | (with_reducible refine (foldl1_memories _ _ _ (fun t x => ?_)).trans ?_)
    | split
    | (simp only [State.modRail_memories, State.sealSlots_memories, State.setN_memories, State.tell_memories])
    | (simp only [])
    | (simp only [memories_mk])
    | (simp only [memories_eta])

theorem execStepSeal_memories (p : Nat) (s : State) (t : State) (ht : execStepSeal p s = .next t) : t.memories = s.memories := by
  injection ht with ht
  rw [← ht]
  simp only [State.stepSeal_memories]

theorem execConfigRecordRewrite_memories (s : State) (t : State) (ht : execConfigRecordRewrite s = .next t) : t.memories = s.memories := by
  injection ht with ht
  rw [← ht]
  repeat' first
    | with_reducible rfl
    | (simp only [ite_memories, ite_self, foldl_memories, implies_true, State.shadowConfig_memories]; done)
    | (with_reducible refine (foldl_memories _ _ _ (fun t x => ?_)).trans ?_)
    | (with_reducible refine (foldl1_memories _ _ _ (fun t x => ?_)).trans ?_)
    | split
    | (simp only [State.shadowConfig_memories])
    | (simp only [])
    | (simp only [memories_mk])
    | (simp only [memories_eta])

@[simp] theorem State.reprotect_memories (s : State) (peer : Nat) : (State.reprotect s peer).memories = s.memories := by
  unfold State.reprotect
  repeat' first
    | with_reducible rfl
    | (simp only [ite_memories, ite_self, foldl_memories, implies_true, State.rewriteStripe_memories, State.setN_memories, State.tell_memories]; done)
    | (with_reducible refine (foldl_memories _ _ _ (fun t x => ?_)).trans ?_)
    | (with_reducible refine (foldl1_memories _ _ _ (fun t x => ?_)).trans ?_)
    | split
    | (simp only [State.rewriteStripe_memories, State.setN_memories, State.tell_memories])
    | (simp only [])
    | (simp only [memories_mk])
    | (simp only [memories_eta])

theorem execReprotection_memories (peer : Nat) (s : State) (t : State) (ht : execReprotection peer s = .next t) : t.memories = s.memories := by
  injection ht with ht
  rw [← ht]
  repeat' first
    | with_reducible rfl
    | (simp only [ite_memories, ite_self, foldl_memories, implies_true, State.reprotect_memories]; done)
    | (with_reducible refine (foldl_memories _ _ _ (fun t x => ?_)).trans ?_)
    | (with_reducible refine (foldl1_memories _ _ _ (fun t x => ?_)).trans ?_)
    | split
    | (simp only [State.reprotect_memories])
    | (simp only [])
    | (simp only [memories_mk])
    | (simp only [memories_eta])

@[simp] theorem State.adopt_memories (s : State) (v : List Byte) (found : AdoptView) : (State.adopt s v found).memories = s.memories := by
  unfold State.adopt
  repeat' first
    | with_reducible rfl
    | split
    | (simp only [ite_memories, State.bump_memories, State.identity_memories, State.recap_memories, State.setFlt_memories, State.setN_memories])
    | (simp only [memories_mk])
    | (simp only [memories_eta])

@[simp] theorem State.formShadow_memories (s : State) (c : ShadowCarve) : (State.formShadow s c).memories = s.memories := by
  unfold State.formShadow
  simp only [State.setPair_memories, State.setPrt_memories, State.setTorn_memories, State.sf_memories]

@[simp] theorem State.journalPut_memories (s : State) (index sub : Nat) (v : DVal) : (State.journalPut s index sub v).memories = s.memories := by
  unfold State.journalPut
  repeat' first
    | with_reducible rfl
    | (simp only [ite_memories, ite_self, foldl_memories, implies_true, State.modBoot_memories]; done)
    | (with_reducible refine (foldl_memories _ _ _ (fun t x => ?_)).trans ?_)
    | (with_reducible refine (foldl1_memories _ _ _ (fun t x => ?_)).trans ?_)
    | split
    | (simp only [State.modBoot_memories])
    | (simp only [])
    | (simp only [memories_mk])
    | (simp only [memories_eta])

theorem State.rebuildDone_wf (s : State) (r : ShadowRecord) (hwf : s.memories.wf = true) : (State.rebuildDone s r).memories.wf = true := by
  unfold State.rebuildDone
  repeat' first
    | with_reducible assumption
    | (simp only [hwf, ite_memories, Memories.ite_wf, ite_self, foldl_memories, implies_true, State.bump_memories, State.emit_memories, State.faultTickets_memories, State.formShadow_memories, State.journalPut_memories, State.modRail_memories, State.reapRanges_memories, State.recap_memories, State.restFlt_memories, State.retire_memories, State.rotateKeys_memories, State.setD_memories, State.setEnt_memories, State.setN_memories, State.setTicket_memories, State.showGens_memories, State.showRail_memories, State.wr_memories, State.writeMem_wf]; done)
    | (with_reducible refine State.writeMem_wf _ _ _ ?_)
    | (with_reducible refine foldl_wf _ _ _ ?_ (fun t x hwf => ?_))
    | (with_reducible refine foldl1_wf _ _ _ ?_ (fun t x hwf => ?_))
    | split
    | (simp only [State.bump_memories, State.emit_memories, State.faultTickets_memories, State.formShadow_memories, State.journalPut_memories, State.modRail_memories, State.reapRanges_memories, State.recap_memories, State.restFlt_memories, State.retire_memories, State.rotateKeys_memories, State.setD_memories, State.setEnt_memories, State.setN_memories, State.setTicket_memories, State.showGens_memories, State.showRail_memories, State.wr_memories])
    | (simp only [])
    | (simp only [memories_mk])
    | (simp only [memories_eta])

theorem execAdoptionRebuildDone_wf (rec : ShadowRecord) (s : State) (t : State) (ht : execAdoptionRebuildDone rec s = .next t) (hwf : s.memories.wf = true) : t.memories.wf = true := by
  injection ht with ht
  rw [← ht]
  simp only [hwf, State.rebuildDone_wf]

@[simp] theorem State.adoptionExpiry_memories (s : State) : (State.adoptionExpiry s).memories = s.memories := by
  unfold State.adoptionExpiry
  repeat' first
    | with_reducible rfl
    | (simp only [foldl_memories, implies_true, State.faultTickets_memories, State.until_memories]; done)
    | split

theorem execAdoptionLimitExpiry_memories (s : State) (t : State) (ht : execAdoptionLimitExpiry s = .next t) : t.memories = s.memories := by
  injection ht with ht
  rw [← ht]
  simp only [State.adoptionExpiry_memories]

@[simp] theorem State.errlogRd_memories (s : State) (r : Requester) (be : Nat) (val : Word) : (State.errlogRd s r be val).memories = s.memories := by
  unfold State.errlogRd
  simp only [ite_memories, ite_self, implies_true, State.gate_memories, State.sf_memories]

theorem execErrlogRdWrite_memories (r : Requester) (be : Nat) (val : Word) (s : State) (t : State) (ht : execErrlogRdWrite r be val s = .next t) : t.memories = s.memories := by
  injection ht with ht
  rw [← ht]
  simp only [State.errlogRd_memories]

@[simp] theorem State.budgetRefill_memories (s : State) (src : Nat) : (State.budgetRefill s src).memories = s.memories := by
  unfold State.budgetRefill
  repeat' first
    | with_reducible rfl
    | (simp only [ite_memories, ite_self, foldl_memories, implies_true, State.setSpent_memories, State.until_memories]; done)
    | (with_reducible refine (foldl_memories _ _ _ (fun t x => ?_)).trans ?_)
    | (with_reducible refine (foldl1_memories _ _ _ (fun t x => ?_)).trans ?_)
    | split
    | (simp only [State.setSpent_memories, State.until_memories])
    | (simp only [])
    | (simp only [memories_mk])
    | (simp only [memories_eta])

theorem execErrorBudgetRefill_memories (source : Nat) (s : State) (t : State) (ht : execErrorBudgetRefill source s = .next t) : t.memories = s.memories := by
  injection ht with ht
  rw [← ht]
  repeat' first
    | with_reducible rfl
    | (simp only [ite_memories, ite_self, foldl_memories, implies_true, State.budgetRefill_memories]; done)
    | (with_reducible refine (foldl_memories _ _ _ (fun t x => ?_)).trans ?_)
    | (with_reducible refine (foldl1_memories _ _ _ (fun t x => ?_)).trans ?_)
    | split
    | (simp only [State.budgetRefill_memories])
    | (simp only [])
    | (simp only [memories_mk])
    | (simp only [memories_eta])

/-! ### ArcTables -/

@[simp] theorem State.arcLoaded_memories (s : State) (u : Nat) : (State.arcLoaded s u).memories = s.memories := by
  unfold State.arcLoaded
  repeat' first
    | with_reducible rfl
    | (simp only [ite_memories, ite_self, foldl_memories, implies_true, State.setArc_memories, State.writeTables_memories]; done)
    | (with_reducible refine (foldl_memories _ _ _ (fun t x => ?_)).trans ?_)
    | (with_reducible refine (foldl1_memories _ _ _ (fun t x => ?_)).trans ?_)
    | split
    | (simp only [State.setArc_memories, State.writeTables_memories])
    | (simp only [])
    | (simp only [memories_mk])
    | (simp only [memories_eta])

@[simp] theorem State.arcMismatch_memories (s : State) (u : Nat) : (State.arcMismatch s u).memories = s.memories := by
  unfold State.arcMismatch
  repeat' first
    | with_reducible rfl
    | (simp only [ite_memories, ite_self, foldl_memories, implies_true, State.bump_memories, State.fatal_memories, State.sf_memories, State.writeTables_memories]; done)
    | (with_reducible refine (foldl_memories _ _ _ (fun t x => ?_)).trans ?_)
    | (with_reducible refine (foldl1_memories _ _ _ (fun t x => ?_)).trans ?_)
    | split
    | (simp only [State.bump_memories, State.fatal_memories, State.sf_memories, State.writeTables_memories])
    | (simp only [])
    | (simp only [memories_mk])
    | (simp only [memories_eta])

@[simp] theorem State.arcTableLoad_memories (s : State) (u : Nat) (ok : Bool) : (State.arcTableLoad s u ok).memories = s.memories := by
  unfold State.arcTableLoad
  repeat' first
    | with_reducible rfl
    | (simp only [ite_memories, ite_self, foldl_memories, implies_true, State.arcLoaded_memories, State.writeTables_memories]; done)
    | (with_reducible refine (foldl_memories _ _ _ (fun t x => ?_)).trans ?_)
    | (with_reducible refine (foldl1_memories _ _ _ (fun t x => ?_)).trans ?_)
    | split
    | (simp only [State.arcLoaded_memories, State.writeTables_memories])
    | (simp only [])
    | (simp only [memories_mk])
    | (simp only [memories_eta])

theorem execArcTableLoad_memories (unit : Nat) (ok : Bool) (s : State) (t : State) (ht : execArcTableLoad unit ok s = .next t) : t.memories = s.memories := by
  injection ht with ht
  rw [← ht]
  simp only [State.arcTableLoad_memories]

@[simp] theorem State.arcTableReload_memories (s : State) (u : Nat) (ok : Bool) : (State.arcTableReload s u ok).memories = s.memories := by
  unfold State.arcTableReload
  simp only [ite_memories, ite_self, State.arcLoaded_memories, State.arcMismatch_memories]

theorem execArcTableReload_memories (unit : Nat) (ok : Bool) (s : State) (t : State) (ht : execArcTableReload unit ok s = .next t) : t.memories = s.memories := by
  injection ht with ht
  rw [← ht]
  simp only [State.arcTableReload_memories]

@[simp] theorem State.arcSelfTest_memories (s : State) (u : Nat) : (State.arcSelfTest s u).memories = s.memories := by
  unfold State.arcSelfTest
  repeat' first
    | with_reducible rfl
    | (simp only [ite_memories, ite_self, State.beginTest_memories, State.setN_memories]; done)
    | split
    | (simp only [State.beginTest_memories, State.setN_memories])
    | (simp only [memories_mk])
    | (simp only [memories_eta])

@[simp] theorem State.arcTestDone_memories (s : State) (u : Nat) (ok : Bool) : (State.arcTestDone s u ok).memories = s.memories := by
  unfold State.arcTestDone
  repeat' first
    | with_reducible rfl
    | (simp only [ite_memories, ite_self, foldl_memories, implies_true, State.arcFault_memories, State.setArc_memories, State.testOver_memories]; done)
    | (with_reducible refine (foldl_memories _ _ _ (fun t x => ?_)).trans ?_)
    | (with_reducible refine (foldl1_memories _ _ _ (fun t x => ?_)).trans ?_)
    | split
    | (simp only [State.arcFault_memories, State.setArc_memories, State.testOver_memories])
    | (simp only [])
    | (simp only [memories_mk])
    | (simp only [memories_eta])

theorem execArcSelfTestDone_memories (unit : Nat) (ok : Bool) (s : State) (t : State) (ht : execArcSelfTestDone unit ok s = .next t) : t.memories = s.memories := by
  injection ht with ht
  rw [← ht]
  simp only [State.arcTestDone_memories]

end Sys2Proof.Machine
end

