-- ==== Sys2Proof/Laws/KeepPower.lean ====
section
/-! SUPPORT. What happens to the memories, and that they keep their canonical form: power, boot and sleep. -/

namespace Sys2Proof.Machine

/-! ### Power -/

@[simp] theorem State.board_memories (s : State) (src code detail : Nat) : (State.board s src code detail).memories = s.memories := by
  unfold State.board
  simp only [State.report_memories]

@[simp] theorem State.evt_memories (s : State) (n : Nat) : (State.evt s n).memories = s.memories := by
  unfold State.evt
  simp only [State.setBit_memories]

@[simp] theorem State.modPower_memories (s : State) (f : Power → Power) : (State.modPower s f).memories = s.memories := by
  unfold State.modPower
  repeat' first
    | (simp only [memories_mk])
    | (simp only [memories_eta])

@[simp] theorem State.setRaw_memories (s : State) (i : Nat) (on : Bool) : (State.setRaw s i on).memories = s.memories := by
  unfold State.setRaw
  repeat' first
    | (simp only [])
    | (simp only [memories_mk])
    | (simp only [memories_eta])

@[simp] theorem State.beginHold_memories (s : State) (d : Nat) : (State.beginHold s d).memories = s.memories := by
  unfold State.beginHold
  simp only [ite_memories, ite_self, State.modPower_memories]

@[simp] theorem State.alertAssert_memories (s : State) (n : Nat) (railDown : Bool) : (State.alertAssert s n railDown).memories = s.memories := by
  unfold State.alertAssert
  simp only [ite_memories, ite_self, State.board_memories, State.bump_memories, State.evt_memories, State.fatal_memories, State.recap_memories, State.setRaw_memories]

@[simp] theorem State.alertDeassert_memories (s : State) (n : Nat) : (State.alertDeassert s n).memories = s.memories := by
  unfold State.alertDeassert
  simp only [ite_memories, ite_self, State.beginHold_memories, State.recap_memories, State.setRaw_memories]

theorem execVrAlertDeassert_memories (n : Nat) (s : State) (t : State) (ht : execVrAlertDeassert n s = .next t) : t.memories = s.memories := by
  injection ht with ht
  rw [← ht]
  simp only [State.alertDeassert_memories]

@[simp] theorem State.askRamp_memories (s : State) : (State.askRamp s).memories = s.memories := by
  unfold State.askRamp
  simp only [State.askPower_memories]

@[simp] theorem State.holdExpiry_memories (s : State) (d : Nat) : (State.holdExpiry s d).memories = s.memories := by
  unfold State.holdExpiry
  simp only [ite_memories, ite_self, State.askRamp_memories, State.modPower_memories, State.recap_memories]

theorem execForceHoldExpiry_memories (d : Nat) (s : State) (t : State) (ht : execForceHoldExpiry d s = .next t) : t.memories = s.memories := by
  injection ht with ht
  rw [← ht]
  simp only [State.holdExpiry_memories]

@[simp] theorem State.shelfAssert_memories (s : State) : (State.shelfAssert s).memories = s.memories := by
  unfold State.shelfAssert
  simp only [ite_memories, ite_self, State.board_memories, State.evt_memories, State.recap_memories, State.setRaw_memories]

@[simp] theorem State.shelfDeassert_memories (s : State) : (State.shelfDeassert s).memories = s.memories := by
  unfold State.shelfDeassert
  simp only [ite_memories, ite_self, State.modPower_memories, State.recap_memories, State.setRaw_memories]

theorem execShelfWarnDeassert_memories (s : State) (t : State) (ht : execShelfWarnDeassert s = .next t) : t.memories = s.memories := by
  injection ht with ht
  rw [← ht]
  simp only [State.shelfDeassert_memories]

theorem execBrakeHoldExpiry_memories (s : State) (t : State) (ht : execBrakeHoldExpiry s = .next t) : t.memories = s.memories := by
  injection ht with ht
  rw [← ht]
  simp only [State.modPower_memories, State.recap_memories]

@[simp] theorem State.coolAssert_memories (s : State) : (State.coolAssert s).memories = s.memories := by
  unfold State.coolAssert
  simp only [ite_memories, ite_self, State.board_memories, State.evt_memories, State.recap_memories, State.setRaw_memories]

theorem execCoolWarnDeassert_memories (s : State) (t : State) (ht : execCoolWarnDeassert s = .next t) : t.memories = s.memories := by
  injection ht with ht
  rw [← ht]
  simp only [State.recap_memories, State.setRaw_memories]

@[simp] theorem State.limit_memories (s : State) (d : Nat) : (State.limit s d).memories = s.memories := by
  unfold State.limit
  repeat' first
    | with_reducible rfl
    | (simp only [ite_memories, ite_self, foldl_memories, implies_true, State.modPower_memories, State.setClocks_memories]; done)
    | (with_reducible refine (foldl_memories _ _ _ (fun t x => ?_)).trans ?_)
    | (with_reducible refine (foldl1_memories _ _ _ (fun t x => ?_)).trans ?_)
    | split
    | (simp only [State.modPower_memories, State.setClocks_memories])
    | (simp only [])
    | (simp only [memories_mk])
    | (simp only [memories_eta])

@[simp] theorem State.relax_memories (s : State) (d : Nat) : (State.relax s d).memories = s.memories := by
  unfold State.relax
  simp only [ite_memories, ite_self, State.modPower_memories]

@[simp] theorem State.limitDomain_memories (s : State) (d : Nat) : (State.limitDomain s d).memories = s.memories := by
  unfold State.limitDomain
  simp only [ite_memories, ite_self, State.bump_memories, State.evt_memories, State.limit_memories, State.modPower_memories, State.relax_memories]

@[simp] theorem State.estimate_memories (s : State) (es : List Nat) : (State.estimate s es).memories = s.memories := by
  unfold State.estimate
  simp only [foldl_memories, implies_true, State.limitDomain_memories, State.modPower_memories, State.recap_memories, State.sf_memories]

theorem execEstimatorTick_memories (e0 e1 e2 e3 : Nat) (s : State) (t : State) (ht : execEstimatorTick e0 e1 e2 e3 s = .next t) : t.memories = s.memories := by
  injection ht with ht
  rw [← ht]
  simp only [State.estimate_memories]

@[simp] theorem State.calibrate_memories (s : State) (d m e : Nat) : (State.calibrate s d m e).memories = s.memories := by
  unfold State.calibrate
  simp only [ite_memories, ite_self, foldl_memories, implies_true, State.board_memories, State.evt_memories, State.modPower_memories, State.recap_memories]

theorem execCalibrationRead_memories (d m e : Nat) (s : State) (t : State) (ht : execCalibrationRead d m e s = .next t) : t.memories = s.memories := by
  injection ht with ht
  rw [← ht]
  simp only [ite_memories, ite_self, State.calibrate_memories]

@[simp] theorem State.telemetryLost_memories (s : State) (g : Nat) : (State.telemetryLost s g).memories = s.memories := by
  unfold State.telemetryLost
  simp only [ite_memories, ite_self, State.board_memories, State.evt_memories, State.modPower_memories, State.recap_memories]

theorem execTelemetryLost_memories (g : Nat) (s : State) (t : State) (ht : execTelemetryLost g s = .next t) : t.memories = s.memories := by
  injection ht with ht
  rw [← ht]
  simp only [State.telemetryLost_memories]

@[simp] theorem State.grantLease_memories (s : State) (path : DapPath) (w : Nat) : (State.grantLease s path w).memories = s.memories := by
  unfold State.grantLease
  simp only [ite_memories, ite_self, State.modPower_memories, State.recap_memories, State.setN_memories]

@[simp] theorem State.leaseExpiry_memories (s : State) : (State.leaseExpiry s).memories = s.memories := by
  unfold State.leaseExpiry
  repeat' first
    | with_reducible rfl
    | (simp only [State.board_memories, State.bump_memories, State.evt_memories, State.modPower_memories, State.recap_memories, State.untilM_memories]; done)
    | split

theorem execLeaseExpiry_memories (s : State) (t : State) (ht : execLeaseExpiry s = .next t) : t.memories = s.memories := by
  injection ht with ht
  rw [← ht]
  simp only [State.leaseExpiry_memories]

@[simp] theorem State.thermalForce_memories (s : State) (d : Nat) (hot cool : Bool) (t : Nat) : (State.thermalForce s d hot cool t).memories = s.memories := by
  unfold State.thermalForce
  simp only [ite_memories, ite_self, State.beginHold_memories, State.board_memories, State.bump_memories, State.evt_memories, State.modPower_memories]

@[simp] theorem State.thermalCap_memories (s : State) (d : Nat) (hot : Bool) (t : Nat) : (State.thermalCap s d hot t).memories = s.memories := by
  unfold State.thermalCap
  simp only [ite_memories, ite_self, State.board_memories, State.bump_memories, State.evt_memories, State.fresh_memories, State.modPower_memories]

@[simp] theorem State.thermalSample_memories (s : State) (l0 l1 v : Nat) (layers : List Nat) : (State.thermalSample s l0 l1 v layers).memories = s.memories := by
  unfold State.thermalSample
  simp only [ite_memories, ite_self, foldl_memories, implies_true, State.bump_memories, State.evt_memories, State.modPower_memories, State.recap_memories, State.sf_memories, State.thermalCap_memories, State.thermalForce_memories]

theorem execThermalSample_memories (lat0 lat1 vtx : Nat) (layers : List Nat) (s : State) (t : State) (ht : execThermalSample lat0 lat1 vtx layers s = .next t) : t.memories = s.memories := by
  injection ht with ht
  rw [← ht]
  simp only [State.thermalSample_memories]

@[simp] theorem State.boostStep_memories (s : State) (die : Nat) : (State.boostStep s die).memories = s.memories := by
  unfold State.boostStep
  repeat' first
    | with_reducible rfl
    | (simp only [ite_memories, ite_self, foldl_memories, implies_true, State.recap_memories, State.setClocks_memories]; done)
    | (with_reducible refine (foldl_memories _ _ _ (fun t x => ?_)).trans ?_)
    | (with_reducible refine (foldl1_memories _ _ _ (fun t x => ?_)).trans ?_)
    | split
    | (simp only [State.recap_memories, State.setClocks_memories])
    | (simp only [])
    | (simp only [memories_mk])
    | (simp only [memories_eta])

theorem execBoostStep_memories (die : Nat) (s : State) (t : State) (ht : execBoostStep die s = .next t) : t.memories = s.memories := by
  injection ht with ht
  rw [← ht]
  simp only [State.boostStep_memories]

@[simp] theorem State.rampStep_memories (s : State) : (State.rampStep s).memories = s.memories := by
  unfold State.rampStep
  repeat' first
    | with_reducible rfl
    | (simp only [ite_memories, ite_self, foldl_memories, implies_true, State.setClocks_memories]; done)
    | (with_reducible refine (foldl_memories _ _ _ (fun t x => ?_)).trans ?_)
    | (with_reducible refine (foldl1_memories _ _ _ (fun t x => ?_)).trans ?_)
    | split
    | (simp only [State.setClocks_memories])
    | (simp only [])
    | (simp only [memories_mk])
    | (simp only [memories_eta])

@[simp] theorem State.grantPower_memories (s : State) : (State.grantPower s).memories = s.memories := by
  unfold State.grantPower
  repeat' first
    | with_reducible rfl
    | (simp only [ite_memories, ite_self, State.board_memories, State.bump_memories, State.evt_memories, State.modPower_memories, State.rampStep_memories, State.recap_memories, State.setN_memories, State.untilM_memories]; done)
    | split

theorem execPowerRequestGrant_memories (s : State) (t : State) (ht : execPowerRequestGrant s = .next t) : t.memories = s.memories := by
  injection ht with ht
  rw [← ht]
  simp only [State.grantPower_memories]

@[simp] theorem State.slackSample_memories (s : State) (die : Nat) (slacks : List Int) : (State.slackSample s die slacks).memories = s.memories := by
  unfold State.slackSample
  repeat' first
    | with_reducible rfl
    | (simp only [State.setD_memories]; done)
    | split

theorem execSlackSample_memories (die : Nat) (slacks : List Int) (s : State) (t : State) (ht : execSlackSample die slacks s = .next t) : t.memories = s.memories := by
  injection ht with ht
  rw [← ht]
  simp only [ite_memories, ite_self, State.slackSample_memories]

@[simp] theorem State.pointLost_memories (s : State) (before : Nat) : (State.pointLost s before).memories = s.memories := by
  unfold State.pointLost
  simp only [ite_memories, ite_self, State.board_memories, State.evt_memories, State.setN_memories]

@[simp] theorem State.vfReplan_memories (s : State) (plan : List Nat) : (State.vfReplan s plan).memories = s.memories := by
  unfold State.vfReplan
  simp only [ite_memories, ite_self, foldl_memories, implies_true, State.board_memories, State.evt_memories, State.modPower_memories, State.pointLost_memories, State.recap_memories, State.setD_memories, State.setN_memories]

theorem execVfReplan_memories (plan : List Nat) (s : State) (t : State) (ht : execVfReplan plan s = .next t) : t.memories = s.memories := by
  injection ht with ht
  rw [← ht]
  simp only [State.vfReplan_memories]

@[simp] theorem State.replanNow_memories (s : State) : (State.replanNow s).memories = s.memories := by
  unfold State.replanNow
  simp only [State.modPower_memories, State.setN_memories]

/-! ### Boot -/

@[simp] theorem State.putRec_memories (s : State) (f : BootRec → BootRec) : (State.putRec s f).memories = s.memories := by
  unfold State.putRec
  repeat' first
    | (simp only [])
    | (simp only [memories_mk])
    | (simp only [memories_eta])

@[simp] theorem State.chooseActive_memories (s : State) : (State.chooseActive s).1.memories = s.memories := by
  unfold State.chooseActive
  repeat' first
    | with_reducible rfl
    | (simp only [State.bump_memories, State.putRec_memories, State.sf_memories]; done)
    | split
    | (simp only [])

@[simp] theorem State.chooseSlot_memories (s : State) : (State.chooseSlot s).1.memories = s.memories := by
  unfold State.chooseSlot
  repeat' first
    | with_reducible rfl
    | (simp only [State.bump_memories, State.chooseActive_memories, State.putRec_memories, State.sf_memories]; done)
    | split
    | (simp only [])

@[simp] theorem State.takeBoard_memories (s : State) : (State.takeBoard s).memories = s.memories := by
  unfold State.takeBoard
  repeat' first
    | (simp only [State.report_memories, State.setD_memories]; done)
    | split
    | (simp only [])

@[simp] theorem State.takeJournal_memories (s : State) : (State.takeJournal s).memories = s.memories := by
  unfold State.takeJournal
  simp only [ite_memories, ite_self, foldl_memories, implies_true, State.report_memories, State.setD_memories, State.setN_memories]

@[simp] theorem State.resetDict_memories (s : State) (keep : Nat → Bool) : (State.resetDict s keep).memories = s.memories := by
  unfold State.resetDict
  simp only [foldl_memories, implies_true, State.setD_memories]

theorem urnKept_wf (m : List Host.Cell) (lost : List (Nat × Nat)) (lo hi : Nat) (hh : hi ≤ apertureBase)
    (h : Sparse.wf (fun a => if a < apertureBase ∨ (a - apertureBase) / 0x200000 ≥ 256 then 0 else lostByte lost ((a - apertureBase) / 0x200000) a) m = true) :
    Sparse.wf (fun a => if a < apertureBase ∨ (a - apertureBase) / 0x200000 ≥ 256 then 0 else lostByte [] ((a - apertureBase) / 0x200000) a)
      (m.filter (fun x => decide (lo ≤ x.1) && decide (x.1 < hi))) = true := by
  have h1 := Sparse.wf_filter _ (fun x => decide (lo ≤ x.1) && decide (x.1 < hi)) m h
  rw [Sparse.wf_iff] at h1 ⊢
  refine ⟨h1.1, fun x hx => ?_⟩
  have h2 := h1.2 x hx
  have h3 := (List.mem_filter.mp hx).2
  simp only [Bool.and_eq_true, decide_eq_true_eq] at h3
  have h4 : x.1 < apertureBase := Nat.lt_of_lt_of_le h3.2 hh
  simp only [h4, true_or, if_true] at h2 ⊢
  exact h2

theorem State.warmCleared_wf (s : State) (hwf : s.memories.wf = true) : (State.warmCleared s).memories.wf = true := by
  unfold State.warmCleared
  extract_lets s1
  have h1 : s1.memories.wf = true := by
    show (State.memories (State.resetDict _ _)).wf = true
    rw [State.resetDict_memories]; exact hwf
  clear_value s1
  rw [memories_mk]
  rw [Memories.wf_iff] at h1 ⊢
  exact ⟨urnKept_wf _ _ _ _ (Nat.le_refl _) h1.1, rfl, rfl, h1.2.2.2.1, h1.2.2.2.2.1, h1.2.2.2.2.2.1, rfl, rfl⟩

theorem dumpEnd_le : dumpBase + dumpSize ≤ apertureBase := by decide

theorem State.coldCleared_wf (s : State) (hwf : s.memories.wf = true) : (State.coldCleared s).memories.wf = true := by
  unfold State.coldCleared
  extract_lets d
  rw [memories_mk]
  rw [Memories.wf_iff] at hwf ⊢
  exact ⟨urnKept_wf _ _ _ _ dumpEnd_le hwf.1, rfl, rfl, rfl, hwf.2.2.2.2.1, hwf.2.2.2.2.2.1, rfl, rfl⟩

@[simp] theorem State.updateEvent_memories (s : State) (slot : Nat) : (State.updateEvent s slot).memories = s.memories := by
  unfold State.updateEvent
  simp only [State.pushEvent_memories]

@[simp] theorem State.restart_memories (s : State) (kind : Nat) : (State.restart s kind).memories = s.memories := by
  unfold State.restart
  simp only [State.emit_memories]

@[simp] theorem State.extendFree_memories (s : State) (n : Nat) : (State.extendFree s n).memories = s.memories := by
  unfold State.extendFree
  simp only [State.extend_memories, State.fresh_memories]

@[simp] theorem State.drawKeys_memories (s : State) : (State.drawKeys s).memories = s.memories := by
  unfold State.drawKeys
  simp only [memories_mk]
  exact State.fresh_memories s

@[simp] theorem State.bootSlot_memories (s : State) (kind slot : Nat) : (State.bootSlot s kind slot).memories = s.memories := by
  unfold State.bootSlot
  repeat' first
    | with_reducible rfl
    | (simp only [ite_memories, ite_self, foldl_memories, implies_true, State.extend_memories, State.extendFree_memories, State.putRec_memories, State.restart_memories, State.setN_memories, State.sf_memories, State.updateEvent_memories]; done)
    | (with_reducible refine (foldl_memories _ _ _ (fun t x => ?_)).trans ?_)
    | (with_reducible refine (foldl1_memories _ _ _ (fun t x => ?_)).trans ?_)
    | split
    | (simp only [State.extend_memories, State.extendFree_memories, State.putRec_memories, State.restart_memories, State.setN_memories, State.sf_memories, State.updateEvent_memories])
    | (simp only [])
    | (simp only [memories_mk])
    | (simp only [memories_eta])

@[simp] theorem State.bootFrom_memories (s : State) (kind cause : Nat) : (State.bootFrom s kind cause).memories = s.memories := by
  unfold State.bootFrom
  repeat' first
    | with_reducible rfl
    | (simp only [ite_memories, ite_self, foldl_memories, implies_true, State.bootSlot_memories, State.chooseSlot_memories, State.restart_memories, State.setN_memories, State.sf_memories, State.showSec_memories, State.takeBoard_memories, State.takeJournal_memories]; done)
    | (with_reducible refine (foldl_memories _ _ _ (fun t x => ?_)).trans ?_)
    | (with_reducible refine (foldl1_memories _ _ _ (fun t x => ?_)).trans ?_)
    | split
    | (simp only [State.bootSlot_memories, State.chooseSlot_memories, State.restart_memories, State.setN_memories, State.sf_memories, State.showSec_memories, State.takeBoard_memories, State.takeJournal_memories])
    | (simp only [])
    | (simp only [memories_mk])
    | (simp only [memories_eta])

theorem norSet_wf (s : State) (n : List Host.Cell) (hn : Sparse.wf zeroByte n = true) (hwf : s.memories.wf = true) :
    (Memories.mk s.mem s.imem s.sram s.lost s.hop s.host n s.apxReq s.apxRsp).wf = true := by
  rw [Memories.wf_iff] at hwf ⊢
  exact ⟨hwf.1, hwf.2.1, hwf.2.2.1, hwf.2.2.2.1, hwf.2.2.2.2.1, hn, hwf.2.2.2.2.2.2⟩

theorem nor_wf (s : State) (hwf : s.memories.wf = true) : Sparse.wf zeroByte s.boot.nor = true := by
  rw [Memories.wf_iff] at hwf
  exact hwf.2.2.2.2.2.1

theorem State.porRelease_wf (s : State) (bootSel node : Nat) (fitted : List (Nat × List Byte)) (hwf : s.memories.wf = true) :
    (State.porRelease s bootSel node fitted).memories.wf = true := by
  unfold State.porRelease
  refine ite_wf _ _ _ hwf ?_
  simp only [State.recap_memories, State.bootFrom_memories, State.drawKeys_memories, State.extendFree_memories]
  simp only [memories_mk]
  simp only [memories_eta]
  refine foldl_wf _ _ _ hwf (fun t x h => ite_wf _ _ _ h ?_)
  exact norSet_wf t _ (Sparse.wf_blit _ _ _ _ (nor_wf t h)) h

theorem execPorRelease_wf (bootSel node : Nat) (fitted : List (Nat × List Byte)) (s : State) (t : State) (ht : execPorRelease bootSel node fitted s = .next t) (hwf : s.memories.wf = true) : t.memories.wf = true := by
  injection ht with ht
  rw [← ht]
  simp only [hwf, State.porRelease_wf]

theorem execPorAssert_wf (s : State) (t : State) (ht : execPorAssert s = .next t) (hwf : s.memories.wf = true) : t.memories.wf = true := by
  injection ht with ht
  rw [← ht]
  simp only [hwf, State.coldCleared_wf]

@[simp] theorem State.bootReady_memories (s : State) (faults urnBad : List Nat) : (State.bootReady s faults urnBad).memories = s.memories := by
  unfold State.bootReady
  repeat' first
    | with_reducible rfl
    | (simp only [ite_memories, ite_self, foldl_memories, implies_true, State.extend_memories, State.fatal_memories, State.portStart_memories, State.recap_memories, State.report_memories, State.sf_memories]; done)
    | (with_reducible refine (foldl_memories _ _ _ (fun t x => ?_)).trans ?_)
    | (with_reducible refine (foldl1_memories _ _ _ (fun t x => ?_)).trans ?_)
    | split
    | (simp only [State.extend_memories, State.fatal_memories, State.portStart_memories, State.recap_memories, State.report_memories, State.sf_memories])
    | (simp only [])
    | (simp only [memories_mk])
    | (simp only [memories_eta])

theorem execBootReady_memories (report : BootReport) (s : State) (t : State) (ht : execBootReady report s = .next t) : t.memories = s.memories := by
  injection ht with ht
  rw [← ht]
  repeat' first
    | with_reducible rfl
    | (simp only [ite_memories, ite_self, foldl_memories, implies_true, State.bootReady_memories]; done)
    | (with_reducible refine (foldl_memories _ _ _ (fun t x => ?_)).trans ?_)
    | (with_reducible refine (foldl1_memories _ _ _ (fun t x => ?_)).trans ?_)
    | split
    | (simp only [State.bootReady_memories])
    | (simp only [])
    | (simp only [memories_mk])
    | (simp only [memories_eta])

@[simp] theorem State.levelClosed_memories (s : State) : (State.levelClosed s).memories = s.memories := by
  unfold State.levelClosed
  repeat' first
    | with_reducible rfl
    | (simp only [ite_memories, State.extend_memories, State.report_memories, State.showSec_memories]; done)
    | split
    | (simp only [State.showSec_memories])
    | (simp only [memories_mk])
    | (simp only [memories_eta])

theorem sfBoot_memories (x : State) (tk : List (Nat × Ticket)) (ss : List Session) (ph : Nat) (f g : Fld) (i j v w : Nat) :
    (State.sf { (x.sf f i v) with tickets := tk, sessions := ss, boot := { x.boot with phase := ph } } g j w).memories = x.memories := rfl

@[simp] theorem State.warmHold_memories (s : State) (cause : Nat) : (State.warmHold s cause).memories = s.memories := by
  unfold State.warmHold
  extract_lets a b
  have hb : b.memories = s.memories := by
    unfold b
    rw [State.stopAll_memories, foldl_memories _ _ _ (fun t h => State.endHold_memories t h _)]
    exact State.levelClosed_memories s
  clear_value b
  exact (sfBoot_memories b _ _ _ _ _ _ _ _ _).trans hb

theorem State.warmGo_wf (s : State) (cause : Nat) (hwf : s.memories.wf = true) : (State.warmGo s cause).memories.wf = true := by
  unfold State.warmGo
  repeat' first
    | with_reducible assumption
    | (simp only [hwf, ite_memories, Memories.ite_wf, ite_self, foldl_memories, implies_true, State.bootFrom_memories, State.dumpChanged_memories, State.recap_memories, State.report_memories, State.warmCleared_wf, State.zeroMem_wf]; done)
    | (with_reducible refine State.warmCleared_wf _ ?_)
    | (with_reducible refine State.zeroMem_wf _ _ _ ?_)
    | (with_reducible refine foldl_wf _ _ _ ?_ (fun t x hwf => ?_))
    | (with_reducible refine foldl1_wf _ _ _ ?_ (fun t x hwf => ?_))
    | split
    | (simp only [State.bootFrom_memories, State.dumpChanged_memories, State.recap_memories, State.report_memories])
    | (simp only [])
    | (simp only [memories_mk])
    | (simp only [memories_eta])

theorem State.warmReset_wf (s : State) (cause : Nat) (hwf : s.memories.wf = true) : (State.warmReset s cause).memories.wf = true := by
  unfold State.warmReset
  simp only [hwf, State.warmGo_wf, State.warmHold_memories]

theorem execWarmRstAssert_memories (s : State) (t : State) (ht : execWarmRstAssert s = .next t) : t.memories = s.memories := by
  injection ht with ht
  rw [← ht]
  simp only [ite_memories, ite_self, State.warmHold_memories]

theorem execWarmRstRelease_wf (s : State) (t : State) (ht : execWarmRstRelease s = .next t) (hwf : s.memories.wf = true) : t.memories.wf = true := by
  injection ht with ht
  rw [← ht]
  simp only [hwf, ite_memories, Memories.ite_wf, ite_self, State.warmGo_wf]

theorem State.trialTimeout_wf (s : State) (hwf : s.memories.wf = true) : (State.trialTimeout s).memories.wf = true := by
  unfold State.trialTimeout
  simp only [hwf, ite_memories, Memories.ite_wf, ite_self, State.warmReset_wf]

theorem execTrialReadyTimeout_wf (s : State) (t : State) (ht : execTrialReadyTimeout s = .next t) (hwf : s.memories.wf = true) : t.memories.wf = true := by
  injection ht with ht
  rw [← ht]
  simp only [hwf, State.trialTimeout_wf]

theorem State.watchdog_wf (s : State) (hwf : s.memories.wf = true) : (State.watchdog s).memories.wf = true := by
  unfold State.watchdog
  simp only [hwf, ite_memories, Memories.ite_wf, ite_self, State.fatal_memories, State.warmReset_wf]

theorem execWatchdogExpiry_wf (s : State) (t : State) (ht : execWatchdogExpiry s = .next t) (hwf : s.memories.wf = true) : t.memories.wf = true := by
  injection ht with ht
  rw [← ht]
  simp only [hwf, State.watchdog_wf]

theorem State.perstOn_wf (s : State) (hwf : s.memories.wf = true) : (State.perstOn s).memories.wf = true := by
  unfold State.perstOn
  repeat' first
    | with_reducible assumption
    | (simp only [hwf, State.functionReset_wf, State.setN_memories]; done)
    | (with_reducible refine foldl_wf _ _ _ ?_ (fun t x hwf => ?_))
    | (simp only [State.setN_memories])
    | (simp only [memories_mk])
    | (simp only [memories_eta])

theorem execPerstAssert_wf (s : State) (t : State) (ht : execPerstAssert s = .next t) (hwf : s.memories.wf = true) : t.memories.wf = true := by
  have hp := State.perstOn_wf s hwf
  unfold execPerstAssert at ht
  generalize s.perstOn = x at ht hp
  cases ht
  exact hp

theorem execPerstRelease_memories (s : State) (t : State) (ht : execPerstRelease s = .next t) : t.memories = s.memories := by
  injection ht with ht
  rw [← ht]
  repeat' first
    | (simp only [])
    | (simp only [memories_mk])
    | (simp only [memories_eta])

theorem execFunctionLevelReset_wf (a : FnReset) (s : State) (t : State) (ht : execFunctionLevelReset a s = .next t) (hwf : s.memories.wf = true) : t.memories.wf = true := by
  injection ht with ht
  rw [← ht]
  repeat' first
    | with_reducible assumption
    | (simp only [hwf, ite_memories, Memories.ite_wf, ite_self, foldl_memories, implies_true, State.dropEntered_wf, State.functionReset_wf]; done)
    | (with_reducible refine State.dropEntered_wf _ _ ?_)
    | (with_reducible refine State.functionReset_wf _ _ ?_)
    | (with_reducible refine foldl_wf _ _ _ ?_ (fun t x hwf => ?_))
    | (with_reducible refine foldl1_wf _ _ _ ?_ (fun t x hwf => ?_))
    | split
    | (simp only [])
    | (simp only [memories_mk])
    | (simp only [memories_eta])

/-! ### Sleep -/

@[simp] theorem State.enterSleep_memories (s : State) (n : Nat) : (State.enterSleep s n).memories = s.memories := by
  unfold State.enterSleep
  simp only [ite_memories, ite_self, State.modPower_memories, State.setN_memories]

@[simp] theorem State.autoS1_memories (s : State) : (State.autoS1 s).memories = s.memories := by
  unfold State.autoS1
  simp only [ite_memories, ite_self, State.modPower_memories]

theorem execAutoS1_memories (s : State) (t : State) (ht : execAutoS1 s = .next t) : t.memories = s.memories := by
  injection ht with ht
  rw [← ht]
  simp only [State.autoS1_memories]

@[simp] theorem State.outputsOff_memories (s : State) : (State.outputsOff s).memories = s.memories := by
  unfold State.outputsOff
  repeat' first
    | (simp only [])
    | (simp only [memories_mk])
    | (simp only [memories_eta])

theorem State.loseLattice_wf (s : State) (hwf : s.memories.wf = true) : (State.loseLattice s).memories.wf = true := by
  unfold State.loseLattice
  repeat' first
    | with_reducible assumption
    | (simp only [hwf, ite_memories, Memories.ite_wf, ite_self, foldl_memories, implies_true, State.fresh_memories, State.loseUnits_memories, State.clearImem_wf, State.clearScratch_wf]; done)
    | (with_reducible refine State.clearImem_wf _ _ _ ?_)
    | (with_reducible refine State.clearScratch_wf _ _ _ ?_)
    | (with_reducible refine foldl_wf _ _ _ ?_ (fun t x hwf => ?_))
    | (with_reducible refine foldl1_wf _ _ _ ?_ (fun t x hwf => ?_))
    | split
    | (simp only [State.fresh_memories, State.loseUnits_memories])
    | (simp only [])
    | (simp only [memories_mk])
    | (simp only [memories_eta])

theorem State.standby_wf (s : State) (hwf : s.memories.wf = true) : (State.standby s).memories.wf = true := by
  unfold State.standby
  simp only [hwf, foldl_memories, implies_true, State.levelClosed_memories, State.loseLattice_wf, State.outputsOff_memories, State.sf_memories, State.wr_memories]

theorem State.sleepEntered_wf (s : State) (hwf : s.memories.wf = true) : (State.sleepEntered s).memories.wf = true := by
  unfold State.sleepEntered
  repeat' first
    | with_reducible assumption
    | (simp only [hwf, ite_memories, Memories.ite_wf, ite_self, State.loseLattice_wf, State.modPower_memories, State.recap_memories, State.setN_memories, State.standby_wf, State.startExit_memories]; done)
    | split

theorem execSleepEntryDone_wf (s : State) (t : State) (ht : execSleepEntryDone s = .next t) (hwf : s.memories.wf = true) : t.memories.wf = true := by
  injection ht with ht
  rw [← ht]
  simp only [hwf, State.sleepEntered_wf]

theorem State.wake_wf (s : State) (path : DapPath) (hwf : s.memories.wf = true) : (State.wake s path).memories.wf = true := by
  unfold State.wake
  repeat' first
    | (simp only [hwf, ite_memories, Memories.ite_wf, ite_self, State.park_memories, State.setN_memories, State.startExit_memories, State.warmReset_wf]; done)
    | split

theorem State.perform_wf (s : State) (n : Parked) (hwf : s.memories.wf = true) : (State.perform s n).memories.wf = true := by
  unfold State.perform
  repeat' first
    | with_reducible assumption
    | (simp only [hwf, ite_memories, Memories.ite_wf, ite_self, foldl_memories, implies_true, State.adopt_memories, State.identity_memories, State.imemLoad_memories, State.modPrt_memories, State.fctStart_wf, State.form_wf, State.partResume_wf, State.wake_wf]; done)
    | (with_reducible refine State.fctStart_wf _ _ _ _ ?_)
    | (with_reducible refine State.form_wf _ _ _ ?_)
    | (with_reducible refine State.partResume_wf _ _ _ ?_)
    | (with_reducible refine State.wake_wf _ _ ?_)
    | (with_reducible refine foldl_wf _ _ _ ?_ (fun t x hwf => ?_))
    | (with_reducible refine foldl1_wf _ _ _ ?_ (fun t x hwf => ?_))
    | split
    | (simp only [State.adopt_memories, State.identity_memories, State.imemLoad_memories, State.modPrt_memories])
    | (simp only [])
    | (simp only [memories_mk])
    | (simp only [memories_eta])

theorem State.sleepLeft_wf (s : State) (hwf : s.memories.wf = true) : (State.sleepLeft s).memories.wf = true := by
  unfold State.sleepLeft
  repeat' first
    | with_reducible assumption
    | (simp only [hwf, ite_memories, Memories.ite_wf, ite_self, State.modPower_memories, State.perform_wf, State.recap_memories, State.setN_memories]; done)
    | (with_reducible refine foldl_wf _ _ _ ?_ (fun t x hwf => ?_))
    | split
    | (simp only [State.recap_memories])

theorem execSleepExitDone_wf (s : State) (t : State) (ht : execSleepExitDone s = .next t) (hwf : s.memories.wf = true) : t.memories.wf = true := by
  injection ht with ht
  rw [← ht]
  simp only [hwf, State.sleepLeft_wf]

@[simp] theorem State.assignIdentity_memories (s : State) (v : Nat) : (State.assignIdentity s v).memories = s.memories := by
  unfold State.assignIdentity
  simp only [ite_memories, ite_self, State.identity_memories, State.park_memories]

@[simp] theorem State.adoptOrPark_memories (s : State) (v : List Byte) (found : AdoptView) : (State.adoptOrPark s v found).memories = s.memories := by
  unfold State.adoptOrPark
  simp only [ite_memories, ite_self, State.adopt_memories, State.park_memories, State.setN_memories]

end Sys2Proof.Machine
end

