-- ==== Sys2Proof/Laws/KeepApex.lean ====
section
/-! SUPPORT. What happens to the memories, and that they keep their canonical form: the Apex core, SPDM and updates. -/

namespace Sys2Proof.Machine

/-! ### Security -/

@[simp] theorem State.modSec_memories (s : State) (f : Secure → Secure) : (State.modSec s f).memories = s.memories := by
  unfold State.modSec
  repeat' first
    | (simp only [memories_mk])
    | (simp only [memories_eta])

@[simp] theorem State.setNonce_memories (s : State) (v : Option (List Byte)) : (State.setNonce s v).memories = s.memories := by
  unfold State.setNonce
  simp only [foldl_memories, implies_true, State.modSec_memories, State.wr_memories]

@[simp] theorem State.makeNonce_memories (s : State) : (State.makeNonce s).memories = s.memories := by
  unfold State.makeNonce
  simp only [State.fresh_memories, State.setNonce_memories]

theorem execNonceLapse_memories (s : State) (t : State) (ht : execNonceLapse s = .next t) : t.memories = s.memories := by
  injection ht with ht
  rw [← ht]
  simp only [State.setNonce_memories]

@[simp] theorem State.countFailure_memories (s : State) : (State.countFailure s).memories = s.memories := by
  unfold State.countFailure
  simp only [ite_memories, ite_self, State.modSec_memories, State.report_memories]

@[simp] theorem State.clearFailures_memories (s : State) : (State.clearFailures s).memories = s.memories := by
  unfold State.clearFailures
  simp only [State.modSec_memories]

@[simp] theorem State.lockoutOver_memories (s : State) : (State.lockoutOver s).memories = s.memories := by
  unfold State.lockoutOver
  simp only [ite_memories, ite_self, State.modSec_memories, State.untilM_memories]

theorem execLockoutExpiry_memories (s : State) (t : State) (ht : execLockoutExpiry s = .next t) : t.memories = s.memories := by
  injection ht with ht
  rw [← ht]
  simp only [State.lockoutOver_memories]

@[simp] theorem State.credRefused_memories (s : State) (code : Nat) : (State.credRefused s code).memories = s.memories := by
  unfold State.credRefused
  simp only [State.bump_memories, State.report_memories]

theorem State.zeroCarved_wf (s : State) (p : Nat) (hwf : s.memories.wf = true) : (State.zeroCarved s p).memories.wf = true := by
  unfold State.zeroCarved
  repeat' first
    | with_reducible assumption
    | (simp only [hwf, State.zeroMem_wf]; done)
    | (with_reducible refine foldl_wf _ _ _ ?_ (fun t x hwf => ?_))

theorem State.zeroisePart_wf (s : State) (p : Nat) (hwf : s.memories.wf = true) : (State.zeroisePart s p).memories.wf = true := by
  unfold State.zeroisePart
  repeat' first
    | with_reducible assumption
    | (simp only [hwf, ite_memories, Memories.ite_wf, State.partReset_wf]; done)
    | (with_reducible refine State.zeroCarved_wf _ _ ?_)
    | split
    | (simp only [memories_mk])
    | (simp only [memories_eta])

theorem State.zeroiseAll_wf (s : State) (hwf : s.memories.wf = true) : (State.zeroiseAll s).memories.wf = true := by
  unfold State.zeroiseAll
  extract_lets s1 inDump
  have h1 : s1.memories.wf = true := foldl_wf _ _ _ hwf (fun t p h => State.partReset_wf t p false h)
  rw [State.setD_memories, memories_mk]
  clear_value s1
  rw [Memories.wf_iff] at h1 ⊢
  exact ⟨urnKept_wf _ _ _ _ dumpEnd_le h1.1, rfl, rfl, rfl, h1.2.2.2.2.1, h1.2.2.2.2.2.1, h1.2.2.2.2.2.2⟩

@[simp] theorem State.levelOpened_memories (s : State) (o : Opening) : (State.levelOpened s o).memories = s.memories := by
  unfold State.levelOpened
  simp only [State.bump_memories, State.extend_memories, State.modSec_memories, State.report_memories, State.setN_memories, State.showSec_memories]

theorem State.openLevel_wf (s : State) (c : List Byte) (hwf : s.memories.wf = true) : (State.openLevel s c).1.memories.wf = true := by
  unfold State.openLevel
  repeat' first
    | (simp only [hwf, ite_memories, Memories.ite_wf, ite_self, State.clearFailures_memories, State.countFailure_memories, State.credRefused_memories, State.levelOpened_memories, State.modSec_memories, State.setNonce_memories, State.showSec_memories, State.startExit_memories, State.zeroiseAll_wf, State.zeroisePart_wf]; done)
    | (with_reducible refine foldl_wf _ _ _ ?_ (fun t x hwf => ?_))
    | split
    | (simp only [State.showSec_memories])

@[simp] theorem State.clearBuf_memories (s : State) : (State.clearBuf s).memories = s.memories := by
  unfold State.clearBuf
  simp only [State.resetRegs_memories]

@[simp] theorem State.dbgCmd_memories (s : State) (r : Requester) (k : State → State) (hk : ∀ t , (k t ).memories = t.memories) : (State.dbgCmd s r k).memories = s.memories := by
  unfold State.dbgCmd
  simp only [implies_true, State.clearBuf_memories, State.gate_memories, hk]

theorem State.dbgCmd_wf (s : State) (r : Requester) (k : State → State) (hwf : s.memories.wf = true) (hk : ∀ t , t.memories.wf = true → (k t ).memories.wf = true) : (State.dbgCmd s r k).memories.wf = true := by
  unfold State.dbgCmd
  repeat' first
    | with_reducible assumption
    | (simp only [hwf, State.clearBuf_memories, hk]; done)
    | (with_reducible refine State.gate_wf _ _ _ _ _ ?_ (fun t  hwf => ?_))

@[simp] theorem State.dbgNonce_memories (s : State) (r : Requester) : (State.dbgNonce s r).memories = s.memories := by
  unfold State.dbgNonce
  simp only [implies_true, State.cmdCode_memories, State.dbgCmd_memories, State.makeNonce_memories]

theorem execDbgNonce_memories (r : Requester) (s : State) (t : State) (ht : execDbgNonce r s = .next t) : t.memories = s.memories := by
  injection ht with ht
  rw [← ht]
  simp only [State.dbgNonce_memories]

theorem State.dbgOpen_wf (s : State) (r : Requester) (hwf : s.memories.wf = true) : (State.dbgOpen s r).memories.wf = true := by
  unfold State.dbgOpen
  repeat' first
    | with_reducible assumption
    | (simp only [hwf, State.cmdCode_memories, State.openLevel_wf]; done)
    | (with_reducible refine State.dbgCmd_wf _ _ _ ?_ (fun t  hwf => ?_))

theorem execDbgOpen_wf (r : Requester) (s : State) (t : State) (ht : execDbgOpen r s = .next t) (hwf : s.memories.wf = true) : t.memories.wf = true := by
  injection ht with ht
  rw [← ht]
  simp only [hwf, State.dbgOpen_wf]

theorem State.openEntry_wf (s : State) (c : List Byte) (hwf : s.memories.wf = true) : (State.openEntry s c).memories.wf = true := by
  unfold State.openEntry
  simp only [hwf, State.openLevel_wf, State.setN_memories]

@[simp] theorem State.zeroiseDone_memories (s : State) : (State.zeroiseDone s).memories = s.memories := by
  unfold State.zeroiseDone
  repeat' first
    | with_reducible rfl
    | (simp only [ite_memories, ite_self, State.levelOpened_memories, State.setN_memories, State.sf_memories]; done)
    | split

theorem execZeroiseDone_memories (s : State) (t : State) (ht : execZeroiseDone s = .next t) : t.memories = s.memories := by
  injection ht with ht
  rw [← ht]
  simp only [State.zeroiseDone_memories]

theorem State.closeLevel_wf (s : State) (hwf : s.memories.wf = true) : (State.closeLevel s).memories.wf = true := by
  unfold State.closeLevel
  repeat' first
    | (simp only [hwf, ite_memories, Memories.ite_wf, ite_self, State.levelClosed_memories, State.partReset_wf, State.setN_memories, State.warmReset_wf]; done)
    | (with_reducible refine foldl_wf _ _ _ ?_ (fun t x hwf => ?_))
    | split
    | (simp only [hwf, ite_memories, Memories.ite_wf, ite_self, State.levelClosed_memories, State.setN_memories, State.warmReset_wf])

theorem State.dbgClose_wf (s : State) (r : Requester) (hwf : s.memories.wf = true) : (State.dbgClose s r).memories.wf = true := by
  unfold State.dbgClose
  repeat' first
    | with_reducible assumption
    | (simp only [hwf, ite_memories, Memories.ite_wf, ite_self, State.closeLevel_wf, State.cmdCode_memories]; done)
    | (with_reducible refine State.dbgCmd_wf _ _ _ ?_ (fun t  hwf => ?_))

theorem execDbgClose_wf (r : Requester) (s : State) (t : State) (ht : execDbgClose r s = .next t) (hwf : s.memories.wf = true) : t.memories.wf = true := by
  injection ht with ht
  rw [← ht]
  simp only [hwf, State.dbgClose_wf]

theorem State.levelExpiry_wf (s : State) (hwf : s.memories.wf = true) : (State.levelExpiry s).memories.wf = true := by
  unfold State.levelExpiry
  simp only [hwf, ite_memories, Memories.ite_wf, ite_self, State.closeLevel_wf, State.untilM_memories]

theorem execLevelExpiry_wf (s : State) (t : State) (ht : execLevelExpiry s = .next t) (hwf : s.memories.wf = true) : t.memories.wf = true := by
  injection ht with ht
  rw [← ht]
  simp only [hwf, State.levelExpiry_wf]

@[simp] theorem State.setPassword_memories (s : State) (c : List Byte) : (State.setPassword s c).1.memories = s.memories := by
  unfold State.setPassword
  repeat' first
    | (simp only [ite_memories, ite_self, State.clearFailures_memories, State.countFailure_memories, State.credRefused_memories, State.fresh_memories, State.modSec_memories]; done)
    | split
    | (simp only [])

@[simp] theorem State.setpw_memories (s : State) (r : Requester) : (State.setpw s r).memories = s.memories := by
  unfold State.setpw
  simp only [implies_true, State.cmdCode_memories, State.dbgCmd_memories, State.setPassword_memories]

theorem execSetpw_memories (r : Requester) (s : State) (t : State) (ht : execSetpw r s = .next t) : t.memories = s.memories := by
  injection ht with ht
  rw [← ht]
  simp only [State.setpw_memories]

theorem State.decommissioned_wf (s : State) (hwf : s.memories.wf = true) : (State.decommissioned s).memories.wf = true := by
  unfold State.decommissioned
  repeat' first
    | (simp only [hwf, State.modSec_memories, State.report_memories, State.setN_memories, State.zeroiseAll_wf]; done)
    | (with_reducible refine State.warmReset_wf _ _ ?_)
    | (simp only [State.setN_memories])
    | (simp only [memories_mk])
    | (simp only [memories_eta])

theorem State.lifecycle_wf (s : State) (c : List Byte) (hwf : s.memories.wf = true) : (State.lifecycle s c).memories.wf = true := by
  unfold State.lifecycle
  simp only [hwf, ite_memories, Memories.ite_wf, ite_self, State.clearFailures_memories, State.countFailure_memories, State.credRefused_memories, State.decommissioned_wf, State.modSec_memories, State.report_memories, State.setN_memories, State.setNonce_memories, State.showSec_memories]

theorem execCodeRehash_memories (matches_ : Bool) (s : State) (t : State) (ht : execCodeRehash matches_ s = .next t) : t.memories = s.memories := by
  injection ht with ht
  rw [← ht]
  simp only [ite_memories, ite_self, State.fatal_memories]

@[simp] theorem State.extendSlot_memories (s : State) (v : List Byte) : (State.extendSlot s v).memories = s.memories := by
  unfold State.extendSlot
  simp only [State.extend_memories, State.setN_memories]

@[simp] theorem State.setJtag_memories (s : State) (n : Nat) : (State.setJtag s n).memories = s.memories := by
  unfold State.setJtag
  repeat' first
    | (simp only [])
    | (simp only [memories_mk])
    | (simp only [memories_eta])

theorem execBypass_memories (s : State) (t : State) (ht : execBypass s = .next t) : t.memories = s.memories := by
  injection ht with ht
  rw [← ht]
  simp only [State.emit_memories, State.setJtag_memories]

theorem execIdcode_memories (s : State) (t : State) (ht : execIdcode s = .next t) : t.memories = s.memories := by
  injection ht with ht
  rw [← ht]
  simp only [State.emit_memories, State.setJtag_memories]

@[simp] theorem State.sample_memories (s : State) : (State.sample s).memories = s.memories := by
  unfold State.sample
  simp only [ite_memories, ite_self, State.emit_memories, State.fresh_memories, State.setJtag_memories]

theorem execSamplePreload_memories (s : State) (t : State) (ht : execSamplePreload s = .next t) : t.memories = s.memories := by
  injection ht with ht
  rw [← ht]
  simp only [State.sample_memories]

theorem execExtest_memories (s : State) (t : State) (ht : execExtest s = .next t) : t.memories = s.memories := by
  injection ht with ht
  rw [← ht]
  simp only [ite_memories, ite_self, State.setJtag_memories]

/-! ### Spdm -/

@[simp] theorem State.nonce32_memories (s : State) : (State.nonce32 s).1.memories = s.memories := by
  unfold State.nonce32
  simp only [State.fresh_memories]

@[simp] theorem State.signed_memories (s : State) (req resp : List Byte) : (State.signed s req resp).1.memories = s.memories := by
  unfold State.signed
  repeat' first
    | with_reducible rfl
    | (simp only [ite_memories, ite_self, foldl_memories, implies_true, State.fresh_memories]; done)
    | (with_reducible refine (foldl_memories _ _ _ (fun t x => ?_)).trans ?_)
    | (with_reducible refine (foldl1_memories _ _ _ (fun t x => ?_)).trans ?_)
    | split
    | (simp only [State.fresh_memories])
    | (simp only [])
    | (simp only [memories_mk])
    | (simp only [memories_eta])

@[simp] theorem State.ansVersion_memories (s : State) (_b : List Byte) : (State.ansVersion s _b).1.memories = s.memories := by
  unfold State.ansVersion
  simp only [State.modSec_memories]

@[simp] theorem State.ansCapabilities_memories (s : State) (b : List Byte) : (State.ansCapabilities s b).1.memories = s.memories := by
  unfold State.ansCapabilities
  simp only [State.fresh_memories]

@[simp] theorem State.ansAlgorithms_memories (s : State) (b : List Byte) : (State.ansAlgorithms s b).1.memories = s.memories := by
  unfold State.ansAlgorithms
  with_reducible rfl

@[simp] theorem State.ansDigests_memories (s : State) (b : List Byte) : (State.ansDigests s b).1.memories = s.memories := by
  unfold State.ansDigests
  with_reducible rfl

@[simp] theorem State.ansCertificate_memories (s : State) (b : List Byte) : (State.ansCertificate s b).1.memories = s.memories := by
  unfold State.ansCertificate
  repeat' first
    | with_reducible rfl
    | split
    | (simp only [])

theorem State.ansChallenge_wf (s : State) (b : List Byte) (hwf : s.memories.wf = true) : (State.ansChallenge s b).1.memories.wf = true := by
  unfold State.ansChallenge
  repeat' first
    | with_reducible assumption
    | (simp only [hwf, ite_memories, Memories.ite_wf, ite_self, foldl_memories, implies_true, State.nonce32_memories, State.signed_memories, State.drop_wf]; done)
    | (with_reducible refine State.drop_wf _ _ _ _ ?_)
    | (with_reducible refine foldl_wf _ _ _ ?_ (fun t x hwf => ?_))
    | (with_reducible refine foldl1_wf _ _ _ ?_ (fun t x hwf => ?_))
    | split
    | (simp only [State.nonce32_memories, State.signed_memories])
    | (simp only [])
    | (simp only [memories_mk])
    | (simp only [memories_eta])

theorem State.ansMeasurements_wf (s : State) (b : List Byte) (hwf : s.memories.wf = true) : (State.ansMeasurements s b).1.memories.wf = true := by
  unfold State.ansMeasurements
  repeat' first
    | with_reducible assumption
    | (simp only [hwf, ite_memories, Memories.ite_wf, ite_self, foldl_memories, implies_true, State.nonce32_memories, State.signed_memories, State.drop_wf]; done)
    | (with_reducible refine State.drop_wf _ _ _ _ ?_)
    | (with_reducible refine foldl_wf _ _ _ ?_ (fun t x hwf => ?_))
    | (with_reducible refine foldl1_wf _ _ _ ?_ (fun t x hwf => ?_))
    | split
    | (simp only [State.nonce32_memories, State.signed_memories])
    | (simp only [])
    | (simp only [memories_mk])
    | (simp only [memories_eta])

theorem State.spdmAnswer_wf (s : State) (b : List Byte) (hwf : s.memories.wf = true) : (State.spdmAnswer s b).1.memories.wf = true := by
  unfold State.spdmAnswer
  repeat' first
    | with_reducible assumption
    | (simp only [hwf, ite_memories, Memories.ite_wf, ite_self, foldl_memories, implies_true, State.ansAlgorithms_memories, State.ansCapabilities_memories, State.ansCertificate_memories, State.ansDigests_memories, State.ansVersion_memories, State.ansChallenge_wf, State.ansMeasurements_wf]; done)
    | (with_reducible refine State.ansChallenge_wf _ _ ?_)
    | (with_reducible refine State.ansMeasurements_wf _ _ ?_)
    | (with_reducible refine foldl_wf _ _ _ ?_ (fun t x hwf => ?_))
    | (with_reducible refine foldl1_wf _ _ _ ?_ (fun t x hwf => ?_))
    | split
    | (simp only [State.ansAlgorithms_memories, State.ansCapabilities_memories, State.ansCertificate_memories, State.ansDigests_memories, State.ansVersion_memories])
    | (simp only [])
    | (simp only [memories_mk])
    | (simp only [memories_eta])

theorem apxRsp_wf (s : State) (n : List Host.Cell) (hn : Sparse.wf zeroByte n = true) (hwf : s.memories.wf = true) :
    (Memories.mk s.mem s.imem s.sram s.lost s.hop s.host s.boot.nor s.apxReq n).wf = true := by
  rw [Memories.wf_iff] at hwf ⊢
  exact ⟨hwf.1, hwf.2.1, hwf.2.2.1, hwf.2.2.2.1, hwf.2.2.2.2.1, hwf.2.2.2.2.2.1, hwf.2.2.2.2.2.2.1, hn⟩

theorem State.apxReturn_wf (s : State) (fn : Nat) (body : List Byte) (hwf : s.memories.wf = true) : (State.apxReturn s fn body).memories.wf = true := by
  unfold State.apxReturn
  simp only [State.sf_memories]
  simp only [memories_mk]
  refine apxRsp_wf s _ (Sparse.wf_blit _ _ _ _ ?_) hwf
  rw [Memories.wf_iff] at hwf
  exact hwf.2.2.2.2.2.2.2

theorem State.inboxReturn_wf (s : State) (slot : Nat) (body : List Byte) (hwf : s.memories.wf = true) : (State.inboxReturn s slot body).memories.wf = true := by
  unfold State.inboxReturn
  simp only [hwf, ite_memories, Memories.ite_wf, ite_self, State.launch_memories, State.writeMem_wf]

theorem State.spdmReturn_wf (s : State) (path : SpdmPath) (resp : List Byte) (hwf : s.memories.wf = true) : (State.spdmReturn s path resp).memories.wf = true := by
  unfold State.spdmReturn
  repeat' first
    | (simp only [hwf, State.apxReturn_wf, State.bump_memories, State.emit_memories, State.inboxReturn_wf]; done)
    | split

theorem State.spdm_wf (s : State) (path : SpdmPath) (b : List Byte) (hwf : s.memories.wf = true) : (State.spdm s path b).memories.wf = true := by
  unfold State.spdm
  repeat' first
    | with_reducible assumption
    | (simp only [hwf, ite_memories, Memories.ite_wf, ite_self, foldl_memories, implies_true, State.modSec_memories, State.spdmAnswer_wf, State.spdmReturn_wf]; done)
    | (with_reducible refine State.spdmAnswer_wf _ _ ?_)
    | (with_reducible refine State.spdmReturn_wf _ _ _ ?_)
    | (with_reducible refine foldl_wf _ _ _ ?_ (fun t x hwf => ?_))
    | (with_reducible refine foldl1_wf _ _ _ ?_ (fun t x hwf => ?_))
    | split
    | (simp only [State.modSec_memories])
    | (simp only [])
    | (simp only [memories_mk])
    | (simp only [memories_eta])

theorem State.spdmOf_wf (s : State) (path : SpdmPath) (b : List Byte) (code : Nat) (hwf : s.memories.wf = true) : (State.spdmOf s path b code).memories.wf = true := by
  unfold State.spdmOf
  simp only [hwf, ite_memories, Memories.ite_wf, ite_self, State.spdm_wf]

theorem execGetVersion_wf (path : SpdmPath) (body : List Byte) (s : State) (t : State) (ht : execGetVersion path body s = .next t) (hwf : s.memories.wf = true) : t.memories.wf = true := by
  injection ht with ht
  rw [← ht]
  simp only [hwf, State.spdmOf_wf]

theorem execGetCapabilities_wf (path : SpdmPath) (body : List Byte) (s : State) (t : State) (ht : execGetCapabilities path body s = .next t) (hwf : s.memories.wf = true) : t.memories.wf = true := by
  injection ht with ht
  rw [← ht]
  simp only [hwf, State.spdmOf_wf]

theorem execNegotiateAlgorithms_wf (path : SpdmPath) (body : List Byte) (s : State) (t : State) (ht : execNegotiateAlgorithms path body s = .next t) (hwf : s.memories.wf = true) : t.memories.wf = true := by
  injection ht with ht
  rw [← ht]
  simp only [hwf, State.spdmOf_wf]

theorem execGetDigests_wf (path : SpdmPath) (body : List Byte) (s : State) (t : State) (ht : execGetDigests path body s = .next t) (hwf : s.memories.wf = true) : t.memories.wf = true := by
  injection ht with ht
  rw [← ht]
  simp only [hwf, State.spdmOf_wf]

theorem execGetCertificate_wf (path : SpdmPath) (body : List Byte) (s : State) (t : State) (ht : execGetCertificate path body s = .next t) (hwf : s.memories.wf = true) : t.memories.wf = true := by
  injection ht with ht
  rw [← ht]
  simp only [hwf, State.spdmOf_wf]

theorem execChallenge_wf (path : SpdmPath) (body : List Byte) (s : State) (t : State) (ht : execChallenge path body s = .next t) (hwf : s.memories.wf = true) : t.memories.wf = true := by
  injection ht with ht
  rw [← ht]
  simp only [hwf, State.spdmOf_wf]

theorem execGetMeasurements_wf (path : SpdmPath) (body : List Byte) (s : State) (t : State) (ht : execGetMeasurements path body s = .next t) (hwf : s.memories.wf = true) : t.memories.wf = true := by
  injection ht with ht
  rw [← ht]
  simp only [hwf, State.spdmOf_wf]

theorem execSpdmUnsupported_wf (path : SpdmPath) (body : List Byte) (s : State) (t : State) (ht : execSpdmUnsupported path body s = .next t) (hwf : s.memories.wf = true) : t.memories.wf = true := by
  injection ht with ht
  rw [← ht]
  simp only [hwf, ite_memories, Memories.ite_wf, ite_self, State.spdm_wf]

theorem State.apxSend_wf (s : State) (r : Requester) (len : Nat) (hwf : s.memories.wf = true) : (State.apxSend s r len).memories.wf = true := by
  unfold State.apxSend
  repeat' first
    | with_reducible assumption
    | (simp only [hwf, ite_memories, Memories.ite_wf, ite_self, State.cmdDone_memories, State.sf_memories, State.spdm_wf]; done)
    | (with_reducible refine State.gate_wf _ _ _ _ _ ?_ (fun t  hwf => ?_))

theorem execApxSend_wf (r : Requester) (len : Nat) (s : State) (t : State) (ht : execApxSend r len s = .next t) (hwf : s.memories.wf = true) : t.memories.wf = true := by
  injection ht with ht
  rw [← ht]
  simp only [hwf, State.apxSend_wf]

/-! ### Update -/

@[simp] theorem State.setUpd_memories (s : State) (n slot : Nat) : (State.setUpd s n slot).memories = s.memories := by
  unfold State.setUpd
  simp only [ite_memories, ite_self, State.setN_memories, State.updateEvent_memories]

@[simp] theorem State.downloadEnd_memories (s : State) : (State.downloadEnd s).memories = s.memories := by
  unfold State.downloadEnd
  repeat' first
    | (simp only [State.setUpd_memories])
    | (simp only [memories_mk])
    | (simp only [memories_eta])

theorem State.program_wf (s : State) (off : Nat) (data : List Byte) (hwf : s.memories.wf = true) : (State.program s off data).memories.wf = true := by
  unfold State.program State.modBoot
  simp only []
  rw [memories_mk]
  refine norSet_wf s _ (Sparse.wf_blit _ _ _ _ ?_) hwf
  split
  · exact Sparse.wf_erase _ _ _ _ (nor_wf s hwf)
  · exact nor_wf s hwf

theorem State.downloadSegment_wf (s : State) (path : DapPath) (off : Nat) (data : List Byte) (last programmed : Bool) (hwf : s.memories.wf = true) : (State.downloadSegment s path off data last programmed).1.memories.wf = true := by
  unfold State.downloadSegment
  repeat' first
    | with_reducible assumption
    | (simp only [hwf, State.downloadEnd_memories, State.program_wf, State.setN_memories, State.setUpd_memories]; done)
    | split
    | (simp only [State.downloadEnd_memories, State.setN_memories, State.setUpd_memories])
    | (simp only [memories_mk])
    | (simp only [memories_eta])

@[simp] theorem State.updReject_memories (s : State) (code : Nat) : (State.updReject s code).memories = s.memories := by
  unfold State.updReject
  simp only [State.setN_memories]

@[simp] theorem State.verify_memories (s : State) : (State.verify s).memories = s.memories := by
  unfold State.verify
  simp only [ite_memories, ite_self, State.modBoot_memories, State.setN_memories, State.updReject_memories]

@[simp] theorem State.verifyDone_memories (s : State) : (State.verifyDone s).memories = s.memories := by
  unfold State.verifyDone
  simp only [ite_memories, ite_self, State.modBoot_memories, State.setN_memories, State.setUpd_memories]

theorem execVerifyDone_memories (s : State) (t : State) (ht : execVerifyDone s = .next t) : t.memories = s.memories := by
  injection ht with ht
  rw [← ht]
  simp only [State.verifyDone_memories]

theorem State.commandReset_wf (s : State) (hwf : s.memories.wf = true) : (State.commandReset s).memories.wf = true := by
  unfold State.commandReset
  simp only [hwf, ite_memories, Memories.ite_wf, ite_self, State.warmReset_wf]

theorem State.activateImage_wf (s : State) (hwf : s.memories.wf = true) : (State.activateImage s).memories.wf = true := by
  unfold State.activateImage
  simp only [hwf, ite_memories, Memories.ite_wf, ite_self, State.commandReset_wf, State.putRec_memories, State.setN_memories, State.updReject_memories]

@[simp] theorem State.confirmImage_memories (s : State) : (State.confirmImage s).memories = s.memories := by
  unfold State.confirmImage
  simp only [ite_memories, ite_self, State.modBoot_memories, State.putRec_memories, State.setN_memories, State.setUpd_memories, State.updReject_memories]

theorem State.cancelImage_wf (s : State) (hwf : s.memories.wf = true) : (State.cancelImage s).memories.wf = true := by
  unfold State.cancelImage
  simp only [hwf, ite_memories, Memories.ite_wf, ite_self, State.commandReset_wf, State.putRec_memories, State.setN_memories, State.setUpd_memories, State.updReject_memories]

theorem State.updateCommand_wf (s : State) (n : Nat) (hwf : s.memories.wf = true) : (State.updateCommand s n).memories.wf = true := by
  unfold State.updateCommand
  simp only [hwf, ite_memories, Memories.ite_wf, ite_self, State.activateImage_wf, State.cancelImage_wf, State.confirmImage_memories, State.verify_memories]

theorem State.writeBoard_wf (s : State) (v : List Byte) (hwf : s.memories.wf = true) : (State.writeBoard s v).memories.wf = true := by
  unfold State.writeBoard State.modBoot
  simp only []
  rw [memories_mk]
  exact norSet_wf s _ (Sparse.wf_blit _ _ _ _ (Sparse.wf_blit _ _ _ _ (nor_wf s hwf))) hwf

/-! ### Live -/

@[simp] theorem State.refresh_memories (s : State) (index sub : Nat) : (State.refresh s index sub).memories = s.memories := by
  unfold State.refresh
  repeat' first
    | with_reducible rfl
    | (simp only [State.setD_memories]; done)
    | split

end Sys2Proof.Machine
end

