-- ==== Sys2Proof/Laws/KeepDict.lean ====
section
/-! SUPPORT. What happens to the memories, and that they keep their canonical form: the dictionary. -/

namespace Sys2Proof.Machine

/-! ### Dict -/

@[simp] theorem State.commitValue_memories (s : State) (index sub : Nat) (v : DVal) : (State.commitValue s index sub v).memories = s.memories := by
  unfold State.commitValue
  repeat' first
    | (simp only [State.bump_memories, State.journalPut_memories, State.setN_memories])
    | (simp only [memories_mk])
    | (simp only [memories_eta])

@[simp] theorem State.restoreDefaults_memories (s : State) : (State.restoreDefaults s).memories = s.memories := by
  unfold State.restoreDefaults
  simp only [ite_memories, ite_self, foldl_memories, implies_true, State.journalPut_memories, State.modBoot_memories, State.recap_memories, State.setD_memories, State.setN_memories, State.takeBoard_memories]

@[simp] theorem State.withdraw_memories (s : State) (id : Nat) : (State.withdraw s id).memories = s.memories := by
  unfold State.withdraw
  repeat' first
    | (simp only [ite_memories, State.setN_memories]; done)
    | split
    | (simp only [State.setN_memories])
    | (simp only [memories_mk])
    | (simp only [memories_eta])

@[simp] theorem State.renewSalt_memories (s : State) (tenant : Nat) : (State.renewSalt s tenant).memories = s.memories := by
  unfold State.renewSalt
  repeat' first
    | (simp only [State.setN_memories])
    | (simp only [memories_mk])
    | (simp only [memories_eta])

theorem State.closeEntry_wf (s : State) (hwf : s.memories.wf = true) : (State.closeEntry s).memories.wf = true := by
  unfold State.closeEntry
  simp only [hwf, ite_memories, Memories.ite_wf, ite_self, State.closeLevel_wf, State.setN_memories]

@[simp] theorem State.setpwEntry_memories (s : State) (c : List Byte) : (State.setpwEntry s c).memories = s.memories := by
  unfold State.setpwEntry
  simp only [State.setN_memories, State.setPassword_memories]

theorem State.act_wf (s : State) (path : DapPath) (index sub : Nat) (v : List Byte) (found : AdoptView) (hwf : s.memories.wf = true) : (State.act s path index sub v found).memories.wf = true := by
  unfold State.act
  repeat' first
    | with_reducible assumption
    | (simp only [hwf, ite_memories, Memories.ite_wf, ite_self, State.adoptOrPark_memories, State.arcSelfTest_memories, State.assignIdentity_memories, State.closeEntry_wf, State.commandReset_wf, State.dumpInvalidate_wf, State.dumpWrite_wf, State.enterSleep_memories, State.extendSlot_memories, State.faultResume_memories, State.grantLease_memories, State.lifecycle_wf, State.makeNonce_memories, State.openEntry_wf, State.renewSalt_memories, State.replanNow_memories, State.restoreDefaults_memories, State.setN_memories, State.setpwEntry_memories, State.teardown_wf, State.updateCommand_wf, State.wake_wf, State.withdraw_memories]; done)
    | split

theorem State.store_wf (s : State) (e : DEntry) (sub : Nat) (v : List Byte) (hwf : s.memories.wf = true) : (State.store s e sub v).memories.wf = true := by
  unfold State.store
  repeat' first
    | with_reducible assumption
    | (simp only [hwf, ite_memories, Memories.ite_wf, ite_self, foldl_memories, implies_true, State.commitValue_memories, State.forgetPeer_memories, State.recap_memories, State.setD_memories, State.writeBoard_wf]; done)
    | (with_reducible refine State.writeBoard_wf _ _ ?_)
    | (with_reducible refine foldl_wf _ _ _ ?_ (fun t x hwf => ?_))
    | (with_reducible refine foldl1_wf _ _ _ ?_ (fun t x hwf => ?_))
    | split
    | (simp only [State.commitValue_memories, State.forgetPeer_memories, State.recap_memories, State.setD_memories])
    | (simp only [])
    | (simp only [memories_mk])
    | (simp only [memories_eta])

@[simp] theorem State.dropSession_memories (s : State) (index sub : Nat) : (State.dropSession s index sub).memories = s.memories := by
  unfold State.dropSession
  repeat' first
    | (simp only [memories_mk])
    | (simp only [memories_eta])

theorem State.writeSeg_wf (s : State) (path : DapPath) (bcast : Bool) (index sub off : Nat) (data : List Byte) (last programmed : Bool) (hwf : s.memories.wf = true) : (State.writeSeg s path bcast index sub off data last programmed).1.memories.wf = true := by
  unfold State.writeSeg
  repeat' first
    | with_reducible assumption
    | (simp only [hwf, ite_memories, Memories.ite_wf, ite_self, foldl_memories, implies_true, State.dropSession_memories, State.report_memories, State.downloadSegment_wf, State.store_wf]; done)
    | (with_reducible refine State.downloadSegment_wf _ _ _ _ _ _ ?_)
    | (with_reducible refine State.store_wf _ _ _ _ ?_)
    | (with_reducible refine foldl_wf _ _ _ ?_ (fun t x hwf => ?_))
    | (with_reducible refine foldl1_wf _ _ _ ?_ (fun t x hwf => ?_))
    | split
    | (simp only [State.dropSession_memories, State.report_memories])
    | (simp only [])
    | (simp only [memories_mk])
    | (simp only [memories_eta])

@[simp] theorem State.mailReturn_memories (s : State) (fn : Nat) (bs : List Byte) : (State.mailReturn s fn bs).memories = s.memories := by
  unfold State.mailReturn
  simp only [foldl_memories, implies_true, State.sf_memories, State.wr_memories]

@[simp] theorem State.deliver_memories (s : State) (o : Output) : (State.deliver s o).memories = s.memories := by
  unfold State.deliver
  repeat' first
    | (simp only [State.emit_memories, State.mailReturn_memories]; done)
    | split

@[simp] theorem State.answer_memories (s : State) (path : DapPath) (tid svc index sub status offset vtag : Nat) (more stale : Bool) (payload : List Byte) : (State.answer s path tid svc index sub status offset vtag more stale payload).memories = s.memories := by
  unfold State.answer
  simp only [ite_memories, ite_self, State.bump_memories, State.deliver_memories]

@[simp] theorem State.keepAnswer_memories (s : State) (q : DapReq) (svc : Nat) (o : Output) : (State.keepAnswer s q svc o).memories = s.memories := by
  unfold State.keepAnswer
  repeat' first
    | (simp only [])
    | (simp only [memories_mk])
    | (simp only [memories_eta])

@[simp] theorem State.reply_memories (s : State) (q : DapReq) (svc status vtag : Nat) (more stale : Bool) (payload : List Byte) : (State.reply s q svc status vtag more stale payload).memories = s.memories := by
  unfold State.reply
  simp only [State.answer_memories, State.keepAnswer_memories]

@[simp] theorem State.serve_memories (s : State) (q : DapReq) (svc : Nat) (k : State → State) (hk : ∀ t , (k t ).memories = t.memories) : (State.serve s q svc k).memories = s.memories := by
  unfold State.serve
  repeat' first
    | with_reducible rfl
    | (simp only [ite_memories, State.deliver_memories, hk]; done)
    | split

theorem State.serve_wf (s : State) (q : DapReq) (svc : Nat) (k : State → State) (hwf : s.memories.wf = true) (hk : ∀ t , t.memories.wf = true → (k t ).memories.wf = true) : (State.serve s q svc k).memories.wf = true := by
  unfold State.serve
  repeat' first
    | with_reducible assumption
    | (simp only [hwf, ite_memories, Memories.ite_wf, State.deliver_memories, hk]; done)
    | split

@[simp] theorem State.showPend_memories (s : State) (fn : Nat) : (State.showPend s fn).memories = s.memories := by
  unfold State.showPend
  simp only [State.sf_memories]

@[simp] theorem State.fetchEvent_memories (s : State) (fn : Nat) : (State.fetchEvent s fn).memories = s.memories := by
  unfold State.fetchEvent
  repeat' first
    | (simp only [State.answer_memories, State.mailReturn_memories, State.showPend_memories]; done)
    | split
    | (simp only [State.mailReturn_memories, State.showPend_memories])
    | (simp only [memories_mk])
    | (simp only [memories_eta])

@[simp] theorem State.eventFetch_memories (s : State) (fn : Nat) : (State.eventFetch s fn).memories = s.memories := by
  unfold State.eventFetch
  simp only [ite_memories, ite_self, State.fetchEvent_memories]

theorem execEventFetch_memories (fn : Nat) (s : State) (t : State) (ht : execEventFetch fn s = .next t) : t.memories = s.memories := by
  injection ht with ht
  rw [← ht]
  simp only [State.eventFetch_memories]

@[simp] theorem State.readEntry_memories (s : State) (q : DapReq) : (State.readEntry s q).memories = s.memories := by
  unfold State.readEntry
  repeat' first
    | (simp only [ite_memories, ite_self, State.refresh_memories, State.reply_memories]; done)
    | split

@[simp] theorem State.dapRead_memories (s : State) (q : DapReq) : (State.dapRead s q).memories = s.memories := by
  unfold State.dapRead
  repeat' first
    | (simp only [ite_memories, ite_self, implies_true, State.eventFetch_memories, State.readEntry_memories, State.serve_memories]; done)
    | split

theorem execDapRead_memories (q : DapReq) (s : State) (t : State) (ht : execDapRead q s = .next t) : t.memories = s.memories := by
  injection ht with ht
  rw [← ht]
  simp only [State.dapRead_memories]

theorem State.dapWrite_wf (s : State) (q : DapReq) (hwf : s.memories.wf = true) : (State.dapWrite s q).memories.wf = true := by
  unfold State.dapWrite
  repeat' first
    | with_reducible assumption
    | (simp only [hwf, ite_memories, Memories.ite_wf, State.act_wf, State.reply_memories, State.writeSeg_wf]; done)
    | (with_reducible refine State.serve_wf _ _ _ _ ?_ (fun t  hwf => ?_))
    | split
    | (simp only [])

theorem execDapWrite_wf (q : DapReq) (s : State) (t : State) (ht : execDapWrite q s = .next t) (hwf : s.memories.wf = true) : t.memories.wf = true := by
  injection ht with ht
  rw [← ht]
  simp only [hwf, State.dapWrite_wf]

theorem State.writeEntry_wf (s : State) (path : DapPath) (index sub off : Nat) (v : List Byte) (last programmed : Bool) (found : AdoptView) (hwf : s.memories.wf = true) : (State.writeEntry s path index sub off v last programmed found).memories.wf = true := by
  unfold State.writeEntry
  repeat' first
    | with_reducible assumption
    | (simp only [hwf, ite_memories, Memories.ite_wf, State.act_wf, State.answer_memories, State.writeSeg_wf]; done)
    | split
    | (simp only [])

@[simp] theorem State.dapList_memories (s : State) (q : DapReq) : (State.dapList s q).memories = s.memories := by
  unfold State.dapList
  simp only [ite_memories, ite_self, implies_true, State.reply_memories, State.serve_memories]

theorem execList_memories (q : DapReq) (s : State) (t : State) (ht : execList q s = .next t) : t.memories = s.memories := by
  injection ht with ht
  rw [← ht]
  simp only [State.dapList_memories]

@[simp] theorem State.dapDescribe_memories (s : State) (q : DapReq) : (State.dapDescribe s q).memories = s.memories := by
  unfold State.dapDescribe
  repeat' first
    | with_reducible rfl
    | (simp only [ite_memories, ite_self, State.reply_memories]; done)
    | (with_reducible refine (State.serve_memories _ _ _ _ (fun t  => ?_)).trans ?_)
    | split

theorem execDescribe_memories (q : DapReq) (s : State) (t : State) (ht : execDescribe q s = .next t) : t.memories = s.memories := by
  injection ht with ht
  rw [← ht]
  simp only [State.dapDescribe_memories]

@[simp] theorem State.endSession_memories (s : State) (x : Session) : (State.endSession s x).memories = s.memories := by
  unfold State.endSession
  simp only [ite_memories, ite_self, State.downloadEnd_memories, State.dropSession_memories]

@[simp] theorem State.dapAbort_memories (s : State) (q : DapReq) : (State.dapAbort s q).memories = s.memories := by
  unfold State.dapAbort
  repeat' first
    | with_reducible rfl
    | (simp only [ite_memories, State.endSession_memories, State.reply_memories]; done)
    | (with_reducible refine (State.serve_memories _ _ _ _ (fun t  => ?_)).trans ?_)
    | split

theorem execDapAbort_memories (q : DapReq) (s : State) (t : State) (ht : execDapAbort q s = .next t) : t.memories = s.memories := by
  injection ht with ht
  rw [← ht]
  simp only [State.dapAbort_memories]

@[simp] theorem State.sessionTimeout_memories (s : State) (i : Nat) : (State.sessionTimeout s i).memories = s.memories := by
  unfold State.sessionTimeout
  repeat' first
    | with_reducible rfl
    | (simp only [State.endSession_memories, State.untilM_memories]; done)
    | split

theorem execSegmentIdleTimeout_memories (idx : Nat) (s : State) (t : State) (ht : execSegmentIdleTimeout idx s = .next t) : t.memories = s.memories := by
  injection ht with ht
  rw [← ht]
  simp only [State.sessionTimeout_memories]

/-! ### Events -/

@[simp] theorem State.setSubscriber_memories (s : State) (path : DapPath) (mask : Nat) (watches : List (Nat × Nat × Nat)) : (State.setSubscriber s path mask watches).memories = s.memories := by
  unfold State.setSubscriber
  repeat' first
    | split
    | (simp only [memories_mk])
    | (simp only [memories_eta])

@[simp] theorem State.subscribe_memories (s : State) (q : DapReq) : (State.subscribe s q).memories = s.memories := by
  unfold State.subscribe
  simp only [ite_memories, ite_self, foldl_memories, implies_true, State.refresh_memories, State.reply_memories, State.serve_memories, State.setSubscriber_memories]

theorem execSubscribe_memories (q : DapReq) (s : State) (t : State) (ht : execSubscribe q s = .next t) : t.memories = s.memories := by
  injection ht with ht
  rw [← ht]
  simp only [State.subscribe_memories]

@[simp] theorem State.unsubscribe_memories (s : State) (q : DapReq) : (State.unsubscribe s q).memories = s.memories := by
  unfold State.unsubscribe
  repeat' first
    | with_reducible rfl
    | (simp only [ite_memories, State.reply_memories, State.showPend_memories]; done)
    | (with_reducible refine (State.serve_memories _ _ _ _ (fun t  => ?_)).trans ?_)
    | split
    | (simp only [State.reply_memories, State.showPend_memories])
    | (simp only [memories_mk])
    | (simp only [memories_eta])

theorem execUnsubscribe_memories (q : DapReq) (s : State) (t : State) (ht : execUnsubscribe q s = .next t) : t.memories = s.memories := by
  injection ht with ht
  rw [← ht]
  simp only [State.unsubscribe_memories]

@[simp] theorem State.setQueue_memories (s : State) (path : DapPath) (q : List Ev) : (State.setQueue s path q).memories = s.memories := by
  unfold State.setQueue
  repeat' first
    | split
    | (simp only [State.showPend_memories])
    | (simp only [memories_mk])
    | (simp only [memories_eta])

@[simp] theorem State.eventAck_memories (s : State) (path : DapPath) (seq : Nat) : (State.eventAck s path seq).memories = s.memories := by
  unfold State.eventAck
  simp only [ite_memories, ite_self, State.setQueue_memories]

theorem execEventAck_memories (path : DapPath) (seq : Nat) (s : State) (t : State) (ht : execEventAck path seq s = .next t) : t.memories = s.memories := by
  injection ht with ht
  rw [← ht]
  simp only [State.eventAck_memories]

@[simp] theorem State.eventRetransmit_memories (s : State) (path : DapPath) : (State.eventRetransmit s path).memories = s.memories := by
  unfold State.eventRetransmit
  repeat' first
    | with_reducible rfl
    | (simp only [ite_memories, ite_self, State.bumpBy_memories, State.emits_memories, State.setQueue_memories]; done)
    | split

theorem execEventRetransmit_memories (path : DapPath) (s : State) (t : State) (ht : execEventRetransmit path s = .next t) : t.memories = s.memories := by
  injection ht with ht
  rw [← ht]
  simp only [State.eventRetransmit_memories]

@[simp] theorem State.watchOne_memories (s : State) (path : DapPath) (w : Nat × Nat × Nat) : (State.watchOne s path w).memories = s.memories := by
  unfold State.watchOne
  repeat' first
    | with_reducible rfl
    | (simp only [ite_memories, ite_self, State.bump_memories, State.refresh_memories, State.showPend_memories]; done)
    | split
    | (simp only [ite_memories, State.bump_memories, State.refresh_memories, State.showPend_memories])
    | (simp only [memories_mk])
    | (simp only [memories_eta])

@[simp] theorem State.watchSample_memories (s : State) : (State.watchSample s).memories = s.memories := by
  unfold State.watchSample
  simp only [foldl_memories, implies_true, State.watchOne_memories]

theorem execWatchSample_memories (s : State) (t : State) (ht : execWatchSample s = .next t) : t.memories = s.memories := by
  injection ht with ht
  rw [← ht]
  simp only [State.watchSample_memories]

theorem State.dapService_wf (s : State) (q : DapReq) (svc : Nat) (hwf : s.memories.wf = true) : (State.dapService s q svc).memories.wf = true := by
  unfold State.dapService
  simp only [hwf, ite_memories, Memories.ite_wf, ite_self, implies_true, State.dapAbort_memories, State.dapDescribe_memories, State.dapList_memories, State.dapRead_memories, State.dapWrite_wf, State.reply_memories, State.serve_memories, State.subscribe_memories, State.unsubscribe_memories]

theorem State.dictSend_wf (s : State) (r : Requester) (len : Nat) (hwf : s.memories.wf = true) : (State.dictSend s r len).memories.wf = true := by
  unfold State.dictSend
  repeat' first
    | with_reducible assumption
    | (simp only [hwf, ite_memories, Memories.ite_wf, ite_self, State.cmdDone_memories, State.dapService_wf, State.eventAck_memories, State.sf_memories]; done)
    | (with_reducible refine State.gate_wf _ _ _ _ _ ?_ (fun t  hwf => ?_))

theorem execDictSend_wf (r : Requester) (len : Nat) (s : State) (t : State) (ht : execDictSend r len s = .next t) (hwf : s.memories.wf = true) : t.memories.wf = true := by
  injection ht with ht
  rw [← ht]
  simp only [hwf, State.dictSend_wf]

@[simp] theorem State.mctpReply_memories (s : State) (pcie : Bool) (cmd code : Nat) (data : List Byte) : (State.mctpReply s pcie cmd code data).memories = s.memories := by
  unfold State.mctpReply
  simp only [State.emit_memories]

@[simp] theorem State.setEid_memories (s : State) (pcie : Bool) (eid : Nat) : (State.setEid s pcie eid).memories = s.memories := by
  unfold State.setEid
  simp only [ite_memories, ite_self, State.mctpReply_memories, State.setN_memories]

theorem execSetEndpointId_memories (pcie : Bool) (eid : Nat) (s : State) (t : State) (ht : execSetEndpointId pcie eid s = .next t) : t.memories = s.memories := by
  injection ht with ht
  rw [← ht]
  simp only [State.setEid_memories]

theorem execGetEndpointId_memories (pcie : Bool) (s : State) (t : State) (ht : execGetEndpointId pcie s = .next t) : t.memories = s.memories := by
  injection ht with ht
  rw [← ht]
  simp only [ite_memories, ite_self, State.mctpReply_memories]

@[simp] theorem State.mctpVersion_memories (s : State) (pcie : Bool) (t : Nat) : (State.mctpVersion s pcie t).memories = s.memories := by
  unfold State.mctpVersion
  simp only [ite_memories, ite_self, State.fresh_memories, State.mctpReply_memories]

theorem execGetMctpVersionSupport_memories (pcie : Bool) (msgType : Nat) (s : State) (t : State) (ht : execGetMctpVersionSupport pcie msgType s = .next t) : t.memories = s.memories := by
  injection ht with ht
  rw [← ht]
  simp only [State.mctpVersion_memories]

theorem execGetMessageTypeSupport_memories (pcie : Bool) (s : State) (t : State) (ht : execGetMessageTypeSupport pcie s = .next t) : t.memories = s.memories := by
  injection ht with ht
  rw [← ht]
  simp only [ite_memories, ite_self, State.mctpReply_memories]

@[simp] theorem State.mctpVendor_memories (s : State) (pcie : Bool) (selector : Nat) : (State.mctpVendor s pcie selector).memories = s.memories := by
  unfold State.mctpVendor
  simp only [ite_memories, ite_self, State.mctpReply_memories]

theorem execGetVendorDefinedMessageSupport_memories (pcie : Bool) (selector : Nat) (s : State) (t : State) (ht : execGetVendorDefinedMessageSupport pcie selector s = .next t) : t.memories = s.memories := by
  injection ht with ht
  rw [← ht]
  simp only [State.mctpVendor_memories]

theorem State.inboxTake_wf (s : State) (slot : Nat) (hwf : s.memories.wf = true) : (State.inboxTake s slot).memories.wf = true := by
  unfold State.inboxTake
  repeat' first
    | with_reducible assumption
    | (simp only [hwf, ite_memories, Memories.ite_wf, State.bump_memories]; done)
    | (with_reducible refine State.spdm_wf _ _ _ ?_)
    | split
    | (simp only [hwf, ite_memories, Memories.ite_wf, State.bump_memories])
    | (simp only [memories_mk])
    | (simp only [memories_eta])

theorem execInboxSlotTake_wf (slot : Nat) (s : State) (t : State) (ht : execInboxSlotTake slot s = .next t) (hwf : s.memories.wf = true) : t.memories.wf = true := by
  injection ht with ht
  rw [← ht]
  simp only [hwf, State.inboxTake_wf]

@[simp] theorem State.programImage_memories (s : State) (features : List (Nat × Nat)) : (State.programImage s features).memories = s.memories := by
  unfold State.programImage
  repeat' first
    | with_reducible rfl
    | (simp only [State.report_memories]; done)
    | split

theorem execProgramImageLoad_memories (features : List (Nat × Nat)) (s : State) (t : State) (ht : execProgramImageLoad features s = .next t) : t.memories = s.memories := by
  injection ht with ht
  rw [← ht]
  simp only [State.programImage_memories]

/-! ### DictRows -/

theorem State.putEntry_wf (s : State) (path : DapPath) (index sub : Nat) (v : List Byte) (hwf : s.memories.wf = true) : (State.putEntry s path index sub v).memories.wf = true := by
  unfold State.putEntry
  simp only [hwf, State.writeEntry_wf]

theorem execArcSelfTest_wf (path : DapPath) (unit : Nat) (s : State) (t : State) (ht : execArcSelfTest path unit s = .next t) (hwf : s.memories.wf = true) : t.memories.wf = true := by
  injection ht with ht
  rw [← ht]
  simp only [hwf, State.putEntry_wf]

theorem execWithdrawPrefix_wf (path : DapPath) (id : Nat) (s : State) (t : State) (ht : execWithdrawPrefix path id s = .next t) (hwf : s.memories.wf = true) : t.memories.wf = true := by
  injection ht with ht
  rw [← ht]
  simp only [hwf, State.putEntry_wf]

theorem execSaltRenewal_wf (path : DapPath) (tenant : Nat) (s : State) (t : State) (ht : execSaltRenewal path tenant s = .next t) (hwf : s.memories.wf = true) : t.memories.wf = true := by
  injection ht with ht
  rw [← ht]
  simp only [hwf, State.putEntry_wf]

theorem execIdentityAssign_wf (path : DapPath) (val : DWord) (s : State) (t : State) (ht : execIdentityAssign path val s = .next t) (hwf : s.memories.wf = true) : t.memories.wf = true := by
  injection ht with ht
  rw [← ht]
  simp only [hwf, State.putEntry_wf]

theorem execIdentityRelease_wf (path : DapPath) (val : DWord) (s : State) (t : State) (ht : execIdentityRelease path val s = .next t) (hwf : s.memories.wf = true) : t.memories.wf = true := by
  injection ht with ht
  rw [← ht]
  simp only [hwf, State.putEntry_wf]

theorem execDumpWriteCommand_wf (path : DapPath) (s : State) (t : State) (ht : execDumpWriteCommand path s = .next t) (hwf : s.memories.wf = true) : t.memories.wf = true := by
  injection ht with ht
  rw [← ht]
  simp only [hwf, State.putEntry_wf]

theorem execDumpInvalidate_wf (path : DapPath) (s : State) (t : State) (ht : execDumpInvalidate path s = .next t) (hwf : s.memories.wf = true) : t.memories.wf = true := by
  injection ht with ht
  rw [← ht]
  simp only [hwf, State.putEntry_wf]

theorem execTeardown_wf (path : DapPath) (v : List Byte) (s : State) (t : State) (ht : execTeardown path v s = .next t) (hwf : s.memories.wf = true) : t.memories.wf = true := by
  injection ht with ht
  rw [← ht]
  simp only [hwf, State.putEntry_wf]

theorem execAdopt_wf (path : DapPath) (v : List Byte) (found : AdoptView) (s : State) (t : State) (ht : execAdopt path v found s = .next t) (hwf : s.memories.wf = true) : t.memories.wf = true := by
  injection ht with ht
  rw [← ht]
  simp only [hwf, State.writeEntry_wf]

theorem execFaultResume_wf (path : DapPath) (mask : Nat) (s : State) (t : State) (ht : execFaultResume path mask s = .next t) (hwf : s.memories.wf = true) : t.memories.wf = true := by
  injection ht with ht
  rw [← ht]
  simp only [hwf, State.putEntry_wf]

theorem execCapLease_wf (path : DapPath) (w : Nat) (s : State) (t : State) (ht : execCapLease path w s = .next t) (hwf : s.memories.wf = true) : t.memories.wf = true := by
  injection ht with ht
  rw [← ht]
  simp only [hwf, State.putEntry_wf]

theorem execPowerStateActive_wf (path : DapPath) (s : State) (t : State) (ht : execPowerStateActive path s = .next t) (hwf : s.memories.wf = true) : t.memories.wf = true := by
  injection ht with ht
  rw [← ht]
  simp only [hwf, State.putEntry_wf]

theorem execEnterS1_wf (path : DapPath) (s : State) (t : State) (ht : execEnterS1 path s = .next t) (hwf : s.memories.wf = true) : t.memories.wf = true := by
  injection ht with ht
  rw [← ht]
  simp only [hwf, State.putEntry_wf]

theorem execEnterS2_wf (path : DapPath) (s : State) (t : State) (ht : execEnterS2 path s = .next t) (hwf : s.memories.wf = true) : t.memories.wf = true := by
  injection ht with ht
  rw [← ht]
  simp only [hwf, State.putEntry_wf]

theorem execEnterS3_wf (path : DapPath) (s : State) (t : State) (ht : execEnterS3 path s = .next t) (hwf : s.memories.wf = true) : t.memories.wf = true := by
  injection ht with ht
  rw [← ht]
  simp only [hwf, State.putEntry_wf]

theorem execReplanNow_wf (path : DapPath) (s : State) (t : State) (ht : execReplanNow path s = .next t) (hwf : s.memories.wf = true) : t.memories.wf = true := by
  injection ht with ht
  rw [← ht]
  simp only [hwf, State.putEntry_wf]

theorem State.lifeRow_wf (s : State) (path : DapPath) (target : Nat) (cred : List Byte) (hwf : s.memories.wf = true) : (State.lifeRow s path target cred).memories.wf = true := by
  unfold State.lifeRow
  simp only [hwf, ite_memories, Memories.ite_wf, ite_self, State.putEntry_wf]

theorem execLifecycleProvision_wf (path : DapPath) (cred : List Byte) (s : State) (t : State) (ht : execLifecycleProvision path cred s = .next t) (hwf : s.memories.wf = true) : t.memories.wf = true := by
  injection ht with ht
  rw [← ht]
  simp only [hwf, State.lifeRow_wf]

theorem execFieldLock_wf (path : DapPath) (cred : List Byte) (s : State) (t : State) (ht : execFieldLock path cred s = .next t) (hwf : s.memories.wf = true) : t.memories.wf = true := by
  injection ht with ht
  rw [← ht]
  simp only [hwf, State.lifeRow_wf]

theorem execDecommission_wf (path : DapPath) (cred : List Byte) (s : State) (t : State) (ht : execDecommission path cred s = .next t) (hwf : s.memories.wf = true) : t.memories.wf = true := by
  injection ht with ht
  rw [← ht]
  simp only [hwf, State.lifeRow_wf]

theorem execExtendCustomerSlot_wf (path : DapPath) (v : List Byte) (s : State) (t : State) (ht : execExtendCustomerSlot path v s = .next t) (hwf : s.memories.wf = true) : t.memories.wf = true := by
  injection ht with ht
  rw [← ht]
  simp only [hwf, State.putEntry_wf]

theorem execRestoreDefaults_wf (path : DapPath) (s : State) (t : State) (ht : execRestoreDefaults path s = .next t) (hwf : s.memories.wf = true) : t.memories.wf = true := by
  injection ht with ht
  rw [← ht]
  simp only [hwf, State.putEntry_wf]

theorem execWarmResetCommand_wf (path : DapPath) (v : Nat) (s : State) (t : State) (ht : execWarmResetCommand path v s = .next t) (hwf : s.memories.wf = true) : t.memories.wf = true := by
  injection ht with ht
  rw [← ht]
  simp only [hwf, State.putEntry_wf]

theorem execImageDownloadSegment_wf (path : DapPath) (off : Nat) (data : List Byte) (last programmed : Bool) (s : State) (t : State) (ht : execImageDownloadSegment path off data last programmed s = .next t) (hwf : s.memories.wf = true) : t.memories.wf = true := by
  injection ht with ht
  rw [← ht]
  simp only [hwf, State.writeEntry_wf]

theorem execUpdateVerify_wf (path : DapPath) (s : State) (t : State) (ht : execUpdateVerify path s = .next t) (hwf : s.memories.wf = true) : t.memories.wf = true := by
  injection ht with ht
  rw [← ht]
  simp only [hwf, State.putEntry_wf]

theorem execUpdateActivate_wf (path : DapPath) (s : State) (t : State) (ht : execUpdateActivate path s = .next t) (hwf : s.memories.wf = true) : t.memories.wf = true := by
  injection ht with ht
  rw [← ht]
  simp only [hwf, State.putEntry_wf]

theorem execUpdateConfirm_wf (path : DapPath) (s : State) (t : State) (ht : execUpdateConfirm path s = .next t) (hwf : s.memories.wf = true) : t.memories.wf = true := by
  injection ht with ht
  rw [← ht]
  simp only [hwf, State.putEntry_wf]

theorem execUpdateCancel_wf (path : DapPath) (s : State) (t : State) (ht : execUpdateCancel path s = .next t) (hwf : s.memories.wf = true) : t.memories.wf = true := by
  injection ht with ht
  rw [← ht]
  simp only [hwf, State.putEntry_wf]

theorem execBoardRecordWrite_wf (path : DapPath) (v : List Byte) (s : State) (t : State) (ht : execBoardRecordWrite path v s = .next t) (hwf : s.memories.wf = true) : t.memories.wf = true := by
  injection ht with ht
  rw [← ht]
  simp only [hwf, State.putEntry_wf]

end Sys2Proof.Machine
end

