-- ==== Sys2Proof/Laws/KeepBus.lean ====
section
/-! SUPPORT. What happens to the memories, and that they keep their canonical form: pins, register accesses, a debugger and the step. -/

namespace Sys2Proof.Machine

/-! ### Pins -/

@[simp] theorem State.modPins_memories (s : State) (f : Pins → Pins) : (State.modPins s f).memories = s.memories := by
  unfold State.modPins
  repeat' first
    | (simp only [memories_mk])
    | (simp only [memories_eta])

@[simp] theorem State.sbWrite'_memories (s : State) (r : Requester) (n be : Nat) (val : Word) : (State.sbWrite' s r n be val).memories = s.memories := by
  unfold State.sbWrite'
  simp only [ite_memories, ite_self, implies_true, State.gate_memories, State.mergeReg_memories, State.modPins_memories, State.rejectAccess_memories, State.sf_memories]

theorem execSbCfgWrite_memories (r : Requester) (n be : Nat) (val : Word) (s : State) (t : State) (ht : execSbCfgWrite r n be val s = .next t) : t.memories = s.memories := by
  injection ht with ht
  rw [← ht]
  simp only [State.sbWrite'_memories]

@[simp] theorem State.sbApply_memories (s : State) (n : Nat) : (State.sbApply s n).memories = s.memories := by
  unfold State.sbApply
  repeat' first
    | with_reducible rfl
    | (simp only [ite_memories, ite_self, State.emit_memories, State.modPins_memories, State.sf_memories]; done)
    | split
    | (simp only [])

theorem execSbFunctionApply_memories (n : Nat) (s : State) (t : State) (ht : execSbFunctionApply n s = .next t) : t.memories = s.memories := by
  injection ht with ht
  rw [← ht]
  simp only [State.sbApply_memories]

@[simp] theorem State.sbInput_memories (s : State) (n : Nat) (level : Bool) : (State.sbInput s n level).memories = s.memories := by
  unfold State.sbInput
  simp only [ite_memories, ite_self, State.sf_memories]

theorem execSbInputChange_memories (pin : Nat) (level : Bool) (s : State) (t : State) (ht : execSbInputChange pin level s = .next t) : t.memories = s.memories := by
  injection ht with ht
  rw [← ht]
  simp only [State.sbInput_memories]

@[simp] theorem State.indicatorOff_memories (s : State) (n : Nat) : (State.indicatorOff s n).memories = s.memories := by
  unfold State.indicatorOff
  simp only [ite_memories, ite_self, State.emit_memories, State.modPins_memories]

theorem execFabricActivityIndicatorExpiry_memories (n : Nat) (s : State) (t : State) (ht : execFabricActivityIndicatorExpiry n s = .next t) : t.memories = s.memories := by
  injection ht with ht
  rw [← ht]
  simp only [State.indicatorOff_memories]

@[simp] theorem State.countAssert_memories (s : State) (i : Nat) : (State.countAssert s i).memories = s.memories := by
  unfold State.countAssert
  simp only [ite_memories, ite_self, State.board_memories, State.bump_memories, State.modPins_memories, State.recap_memories, State.setBit_memories]

@[simp] theorem State.inputAssert_memories (s : State) (i : Nat) (k : State → State) (hk : ∀ t , (k t ).memories = t.memories) : (State.inputAssert s i k).memories = s.memories := by
  unfold State.inputAssert
  simp only [ite_memories, ite_self, State.countAssert_memories, State.recap_memories, State.setRaw_memories, hk]

theorem State.inputAssert_wf (s : State) (i : Nat) (k : State → State) (hwf : s.memories.wf = true) (hk : ∀ t , t.memories.wf = true → (k t ).memories.wf = true) : (State.inputAssert s i k).memories.wf = true := by
  unfold State.inputAssert
  simp only [hwf, ite_memories, Memories.ite_wf, ite_self, State.countAssert_memories, State.recap_memories, State.setRaw_memories, hk]

theorem execVrAlertAssert_memories (n : Nat) (railDown : Bool) (s : State) (t : State) (ht : execVrAlertAssert n railDown s = .next t) : t.memories = s.memories := by
  injection ht with ht
  rw [← ht]
  simp only [ite_memories, ite_self, implies_true, State.alertAssert_memories, State.inputAssert_memories]

theorem execShelfWarnAssert_memories (s : State) (t : State) (ht : execShelfWarnAssert s = .next t) : t.memories = s.memories := by
  injection ht with ht
  rw [← ht]
  simp only [implies_true, State.inputAssert_memories, State.shelfAssert_memories]

theorem execCoolWarnAssert_memories (s : State) (t : State) (ht : execCoolWarnAssert s = .next t) : t.memories = s.memories := by
  injection ht with ht
  rw [← ht]
  simp only [implies_true, State.coolAssert_memories, State.inputAssert_memories]

@[simp] theorem State.stormOver_memories (s : State) (i : Nat) : (State.stormOver s i).memories = s.memories := by
  unfold State.stormOver
  simp only [ite_memories, ite_self, State.beginHold_memories, State.modPins_memories, State.modPower_memories, State.recap_memories]

theorem execStormRelease_memories (i : Nat) (s : State) (t : State) (ht : execStormRelease i s = .next t) : t.memories = s.memories := by
  injection ht with ht
  rw [← ht]
  simp only [State.stormOver_memories]

@[simp] theorem State.stuck_memories (s : State) (i : Nat) : (State.stuck s i).memories = s.memories := by
  unfold State.stuck
  simp only [ite_memories, ite_self, State.board_memories, State.bump_memories, State.setBit_memories]

theorem execInputStuck_memories (i : Nat) (s : State) (t : State) (ht : execInputStuck i s = .next t) : t.memories = s.memories := by
  injection ht with ht
  rw [← ht]
  simp only [State.stuck_memories]

@[simp] theorem State.setRego_memories (s : State) (x : Rego) : (State.setRego s x).memories = s.memories := by
  unfold State.setRego
  simp only [State.modPins_memories]

@[simp] theorem State.ramp_memories (s : State) (k restarts : Nat) : (State.ramp s k restarts).memories = s.memories := by
  unfold State.ramp
  simp only [State.emit_memories, State.setRego_memories]

@[simp] theorem State.regoOff_memories (s : State) (k state : Nat) (due : Bool) : (State.regoOff s k state due).memories = s.memories := by
  unfold State.regoOff
  simp only [State.emit_memories, State.setRego_memories]

@[simp] theorem State.afterVcc_memories (s : State) (k : Nat) : (State.afterVcc s k).memories = s.memories := by
  unfold State.afterVcc
  simp only [ite_memories, ite_self, State.untilM_memories]

@[simp] theorem State.outputStart_memories (s : State) (k : Nat) : (State.outputStart s k).memories = s.memories := by
  unfold State.outputStart
  simp only [ite_memories, ite_self, State.afterVcc_memories, State.ramp_memories]

theorem execOutputStart_memories (k : Nat) (s : State) (t : State) (ht : execOutputStart k s = .next t) : t.memories = s.memories := by
  injection ht with ht
  rw [← ht]
  simp only [State.outputStart_memories]

@[simp] theorem State.latchEffect_memories (s : State) (k : Nat) : (State.latchEffect s k).memories = s.memories := by
  unfold State.latchEffect
  simp only [ite_memories, ite_self, foldl_memories, implies_true, State.channelRetire_memories, State.portDown_memories, State.setBit_memories]

@[simp] theorem State.outputShort_memories (s : State) (k : Nat) : (State.outputShort s k).memories = s.memories := by
  unfold State.outputShort
  repeat' first
    | with_reducible rfl
    | (simp only [ite_memories, ite_self, State.board_memories, State.bump_memories, State.latchEffect_memories, State.regoOff_memories]; done)
    | split

theorem execOutputShort_memories (k : Nat) (s : State) (t : State) (ht : execOutputShort k s = .next t) : t.memories = s.memories := by
  injection ht with ht
  rw [← ht]
  simp only [State.outputShort_memories]

@[simp] theorem State.outputRetry_memories (s : State) (k : Nat) : (State.outputRetry s k).memories = s.memories := by
  unfold State.outputRetry
  simp only [ite_memories, ite_self, State.afterVcc_memories, State.ramp_memories, State.untilM_memories]

theorem execOutputRetry_memories (k : Nat) (s : State) (t : State) (ht : execOutputRetry k s = .next t) : t.memories = s.memories := by
  injection ht with ht
  rw [← ht]
  simp only [State.outputRetry_memories]

@[simp] theorem State.unlatchRego_memories (s : State) (k : Nat) : (State.unlatchRego s k).memories = s.memories := by
  unfold State.unlatchRego
  simp only [ite_memories, ite_self, State.sf_memories]

@[simp] theorem State.startAnew_memories (s : State) (k : Nat) : (State.startAnew s k).memories = s.memories := by
  unfold State.startAnew
  simp only [ite_memories, ite_self, State.afterVcc_memories, State.ramp_memories, State.setRego_memories]

@[simp] theorem State.retry_memories (s : State) (r : Requester) (k : Nat) : (State.retry s r k).memories = s.memories := by
  unfold State.retry
  simp only [ite_memories, ite_self, implies_true, State.cmdDone_memories, State.gate_memories, State.startAnew_memories, State.unlatchRego_memories]

theorem execRetry_memories (r : Requester) (k : Nat) (s : State) (t : State) (ht : execRetry r k s = .next t) : t.memories = s.memories := by
  injection ht with ht
  rw [← ht]
  simp only [State.retry_memories]

@[simp] theorem State.supplyDroop_memories (s : State) (vlas : Bool) : (State.supplyDroop s vlas).memories = s.memories := by
  unfold State.supplyDroop
  simp only [ite_memories, ite_self, foldl_memories, implies_true, State.modPins_memories, State.regoOff_memories]

theorem execSupplyDroop_memories (vlas : Bool) (s : State) (t : State) (ht : execSupplyDroop vlas s = .next t) : t.memories = s.memories := by
  injection ht with ht
  rw [← ht]
  simp only [State.supplyDroop_memories]

@[simp] theorem State.supplyRecovered_memories (s : State) (vlas : Bool) : (State.supplyRecovered s vlas).memories = s.memories := by
  unfold State.supplyRecovered
  simp only [ite_memories, ite_self, foldl_memories, implies_true, State.modPins_memories, State.ramp_memories]

theorem execSupplyRecovered_memories (vlas : Bool) (s : State) (t : State) (ht : execSupplyRecovered vlas s = .next t) : t.memories = s.memories := by
  injection ht with ht
  rw [← ht]
  simp only [State.supplyRecovered_memories]

@[simp] theorem State.thermalTrip_memories (s : State) : (State.thermalTrip s).memories = s.memories := by
  unfold State.thermalTrip
  simp only [State.emit_memories, State.fatal_memories, State.modPins_memories, State.outputsOff_memories]

theorem execThermalTrip_memories (s : State) (t : State) (ht : execThermalTrip s = .next t) : t.memories = s.memories := by
  injection ht with ht
  rw [← ht]
  simp only [State.thermalTrip_memories]

/-! ### Bus -/

@[simp] theorem State.read32_memories (s : State) (r : Requester) (a be : Nat) : (State.read32 s r a be).2.memories = s.memories := by
  unfold State.read32
  repeat' first
    | with_reducible rfl
    | (simp only [ite_memories, ite_self, State.wr_memories]; done)
    | split

@[simp] theorem State.pairWrite_memories (s : State) (r : Requester) (c : Card) (i : Nat) (put : State → State) (hput : ∀ t , (put t ).memories = t.memories) : (State.pairWrite s r c i put).memories = s.memories := by
  unfold State.pairWrite
  repeat' first
    | (simp only [ite_memories, ite_self, implies_true, State.amapWrite_memories, State.cqWrite_memories, State.drpRingWrite_memories, State.gate_memories, State.partWrite_memories, State.pfWrite_memories, State.qcfgWrite_memories, hput]; done)
    | split

theorem State.pairWrite_wf (s : State) (r : Requester) (c : Card) (i : Nat) (put : State → State) (hwf : s.memories.wf = true) (hput : ∀ t , t.memories.wf = true → (put t ).memories.wf = true) : (State.pairWrite s r c i put).memories.wf = true := by
  unfold State.pairWrite
  repeat' first
    | with_reducible assumption
    | (simp only [hwf, ite_memories, Memories.ite_wf, hput]; done)
    | (with_reducible refine State.amapWrite_wf _ _ _ _ _ _ ?_ (fun t  hwf => ?_))
    | (with_reducible refine State.cqWrite_wf _ _ _ _ _ ?_ (fun t  hwf => ?_))
    | (with_reducible refine State.drpRingWrite_wf _ _ _ _ _ ?_ (fun t  hwf => ?_))
    | (with_reducible refine State.gate_wf _ _ _ _ _ ?_ (fun t  hwf => ?_))
    | (with_reducible refine State.partWrite_wf _ _ _ _ _ _ ?_ (fun t  hwf => ?_))
    | (with_reducible refine State.pfWrite_wf _ _ _ _ _ ?_ (fun t  hwf => ?_))
    | (with_reducible refine State.qcfgWrite_wf _ _ _ _ ?_ (fun t  hwf => ?_))
    | split

@[simp] theorem State.badCode_memories (s : State) (r : Requester) (c : Card) (i code status res : Nat) : (State.badCode s r c i code status res).memories = s.memories := by
  unfold State.badCode
  simp only [ite_memories, ite_self, implies_true, State.cmdCode_memories, State.cmdDone_memories, State.gate_memories]

theorem State.fctCmdWrite_wf (s : State) (r : Requester) (f code entry : Nat) (hwf : s.memories.wf = true) : (State.fctCmdWrite s r f code entry).memories.wf = true := by
  unfold State.fctCmdWrite
  repeat' first
    | with_reducible assumption
    | (simp only [hwf, ite_memories, Memories.ite_wf, ite_self, foldl_memories, implies_true, State.badCode_memories, State.clearCounters_memories, State.fctCmd_memories, State.imemLoad_memories, State.fctCmd_wf, State.fctStart_wf, State.haltFacet_wf]; done)
    | (with_reducible refine State.fctCmd_wf _ _ _ _ _ ?_ (fun t hwf => ?_))
    | (with_reducible refine State.fctStart_wf _ _ _ _ ?_)
    | (with_reducible refine State.haltFacet_wf _ _ ?_)
    | (with_reducible refine foldl_wf _ _ _ ?_ (fun t x hwf => ?_))
    | (with_reducible refine foldl1_wf _ _ _ ?_ (fun t x hwf => ?_))
    | split
    | (simp only [State.badCode_memories, State.clearCounters_memories, State.fctCmd_memories, State.imemLoad_memories])
    | (simp only [])
    | (simp only [memories_mk])
    | (simp only [memories_eta])

theorem rowAfter_memories (s : State) (o : Host.Outcome State Fault Refusal) (h : ∀ t, o = .next t → t.memories = s.memories) :
    (afterRow s o).memories = s.memories := by
  unfold afterRow
  split
  · exact h _ rfl
  · rfl

theorem rowAfter_wf (s : State) (o : Host.Outcome State Fault Refusal) (hwf : s.memories.wf = true)
    (h : ∀ t, o = .next t → t.memories.wf = true) : (afterRow s o).memories.wf = true := by
  unfold afterRow
  split
  · exact h _ rfl
  · exact hwf

theorem State.drpCmdWrite_wf (s : State) (r : Requester) (e code : Nat) (hwf : s.memories.wf = true) :
    (State.drpCmdWrite s r e code).memories.wf = true := by
  unfold State.drpCmdWrite
  split
  · exact hwf
  · rw [rowAfter_memories s _ (fun t h => execDrpStart_memories _ _ _ t h)]; exact hwf
  · exact rowAfter_wf s _ hwf (fun t h => execDrpStop_wf _ _ _ t h hwf)
  · exact rowAfter_wf s _ hwf (fun t h => execDrpAbort_wf _ _ _ t h hwf)
  · exact rowAfter_wf s _ hwf (fun t h => execDrpZero_wf _ _ _ t h hwf)
  · rw [State.badCode_memories]; exact hwf

theorem State.kvCmdWrite_wf (s : State) (r : Requester) (code : Nat) (hwf : s.memories.wf = true) : (State.kvCmdWrite s r code).memories.wf = true := by
  unfold State.kvCmdWrite
  repeat' first
    | with_reducible assumption
    | (simp only [hwf, ite_memories, Memories.ite_wf, ite_self, foldl_memories, implies_true, State.gate_memories, State.kvQuery_memories, State.pgReject_memories, State.gate_wf, State.kvFree_wf, State.kvFreeBelow_wf]; done)
    | (with_reducible refine State.gate_wf _ _ _ _ _ ?_ (fun t hwf => ?_))
    | (with_reducible refine State.kvFree_wf _ _ ?_)
    | (with_reducible refine State.kvFreeBelow_wf _ _ ?_)
    | (with_reducible refine foldl_wf _ _ _ ?_ (fun t x hwf => ?_))
    | (with_reducible refine foldl1_wf _ _ _ ?_ (fun t x hwf => ?_))
    | split
    | (simp only [State.gate_memories, State.kvQuery_memories, State.pgReject_memories])
    | (simp only [])
    | (simp only [memories_mk])
    | (simp only [memories_eta])

theorem State.trCmdWrite_wf (s : State) (r : Requester) (p code : Nat) (hwf : s.memories.wf = true) : (State.trCmdWrite s r p code).memories.wf = true := by
  unfold State.trCmdWrite
  simp only [hwf, ite_memories, Memories.ite_wf, ite_self, State.badCode_memories, State.trCmd_wf]

theorem State.ldrCmdWrite_wf (s : State) (r : Requester) (code v : Nat) (hwf : s.memories.wf = true) : (State.ldrCmdWrite s r code v).memories.wf = true := by
  unfold State.ldrCmdWrite
  repeat' first
    | with_reducible assumption
    | (simp only [hwf, ite_memories, Memories.ite_wf, ite_self, foldl_memories, implies_true, State.ldr_memories, State.ldrActivate_memories, State.ldrEnd_memories, State.unwrap_memories, State.adrop_wf, State.drop_wf, State.ldr_wf, State.ldrAbort_wf, State.ldrStart_wf]; done)
    | (with_reducible refine State.adrop_wf _ _ _ _ ?_)
    | (with_reducible refine State.drop_wf _ _ _ _ ?_)
    | (with_reducible refine State.ldr_wf _ _ _ ?_ (fun t hwf => ?_))
    | (with_reducible refine State.ldrAbort_wf _ _ _ ?_)
    | (with_reducible refine State.ldrStart_wf _ _ _ ?_)
    | (with_reducible refine foldl_wf _ _ _ ?_ (fun t x hwf => ?_))
    | (with_reducible refine foldl1_wf _ _ _ ?_ (fun t x hwf => ?_))
    | split
    | (simp only [State.ldr_memories, State.ldrActivate_memories, State.ldrEnd_memories, State.unwrap_memories])
    | (simp only [])
    | (simp only [memories_mk])
    | (simp only [memories_eta])

theorem State.partCmdWrite_wf (s : State) (r : Requester) (p code : Nat) (hwf : s.memories.wf = true) : (State.partCmdWrite s r p code).memories.wf = true := by
  unfold State.partCmdWrite
  repeat' first
    | with_reducible assumption
    | (simp only [hwf, ite_memories, Memories.ite_wf, ite_self, foldl_memories, implies_true, State.partGate_memories, State.form_wf, State.partGate_wf, State.partResume_wf, State.partStop_wf, State.preempt_wf]; done)
    | (with_reducible refine State.form_wf _ _ _ ?_)
    | (with_reducible refine State.partGate_wf _ _ _ _ _ ?_ (fun t hwf => ?_))
    | (with_reducible refine State.partResume_wf _ _ _ ?_)
    | (with_reducible refine State.partStop_wf _ _ _ _ ?_)
    | (with_reducible refine State.preempt_wf _ _ _ ?_)
    | (with_reducible refine foldl_wf _ _ _ ?_ (fun t x hwf => ?_))
    | (with_reducible refine foldl1_wf _ _ _ ?_ (fun t x hwf => ?_))
    | split
    | (simp only [State.partGate_memories])
    | (simp only [])
    | (simp only [memories_mk])
    | (simp only [memories_eta])

@[simp] theorem State.entCmdWrite_memories (s : State) (r : Requester) (code idx : Nat) : (State.entCmdWrite s r code idx).memories = s.memories := by
  unfold State.entCmdWrite
  split
  · rfl
  · exact rowAfter_memories s _ (fun t h => execWriteRegion_memories _ _ _ t h)
  · exact rowAfter_memories s _ (fun t h => execReadRegion_memories _ _ _ t h)
  · exact rowAfter_memories s _ (fun t h => execWriteGrant_memories _ _ _ t h)
  · exact rowAfter_memories s _ (fun t h => execReadGrant_memories _ _ _ t h)
  · exact rowAfter_memories s _ (fun t h => execWriteGroup_memories _ _ _ t h)
  · exact rowAfter_memories s _ (fun t h => execReadGroup_memories _ _ _ t h)
  · rw [State.badCode_memories]

theorem State.cqCmdWrite_wf (s : State) (r : Requester) (p code : Nat) (hwf : s.memories.wf = true) :
    (State.cqCmdWrite s r p code).memories.wf = true := by
  unfold State.cqCmdWrite
  split
  · exact hwf
  · rw [rowAfter_memories s _ (fun t h => execCqStart_memories _ _ _ t h)]; exact hwf
  · exact rowAfter_wf s _ hwf (fun t h => execCqStop_wf _ _ _ t h hwf)
  · exact rowAfter_wf s _ hwf (fun t h => execCqAbort_wf _ _ _ t h hwf)
  · rw [State.badCode_memories]; exact hwf

theorem State.dbgCmdWrite_wf (s : State) (r : Requester) (code : Nat) (hwf : s.memories.wf = true) : (State.dbgCmdWrite s r code).memories.wf = true := by
  unfold State.dbgCmdWrite
  repeat' first
    | with_reducible assumption
    | (simp only [hwf, implies_true, State.cmdCode_memories, State.dbgClose_wf, State.dbgCmd_memories, State.dbgNonce_memories, State.dbgOpen_wf, State.setpw_memories]; done)
    | split

@[simp] theorem State.oneCmd_memories (s : State) (r : Requester) (c : Card) (i code : Nat) (go : State → State) (hgo : ∀ t , (go t ).memories = t.memories) : (State.oneCmd s r c i code go).memories = s.memories := by
  unfold State.oneCmd
  simp only [ite_memories, ite_self, State.badCode_memories, hgo]

theorem State.oneCmd_wf (s : State) (r : Requester) (c : Card) (i code : Nat) (go : State → State) (hwf : s.memories.wf = true) (hgo : ∀ t , t.memories.wf = true → (go t ).memories.wf = true) : (State.oneCmd s r c i code go).memories.wf = true := by
  unfold State.oneCmd
  simp only [hwf, ite_memories, Memories.ite_wf, ite_self, State.badCode_memories, hgo]

theorem State.cardWrite_wf (s : State) (r : Requester) (c : Card) (i be : Nat) (val : Word) (hwf : s.memories.wf = true) : (State.cardWrite s r c i be val).memories.wf = true := by
  unfold State.cardWrite
  repeat' first
    | with_reducible assumption
    | (simp only [hwf, ite_memories, Memories.ite_wf, ite_self, foldl_memories, implies_true, State.amapWrite_memories, State.cqWrite_memories, State.dbgCmd_memories, State.drpCfgWrite_memories, State.drpCmd_memories, State.drpRingWrite_memories, State.entCmdWrite_memories, State.errlogRd_memories, State.fctCmd_memories, State.gate_memories, State.hopFormat_memories, State.hopScan_memories, State.kvLayoutWrite_memories, State.mcfgWrite_memories, State.mergeReg_memories, State.oneCmd_memories, State.pairWrite_memories, State.pfCtlWrite_memories, State.portDownWrite_memories, State.qcfgWrite_memories, State.retry_memories, State.sbWrite_memories, State.sbWrite'_memories, State.sqTailWrite_memories, State.wr_memories, State.amapWrite_wf, State.apxSend_wf, State.blmExpand_wf, State.cqCmdWrite_wf, State.cqHeadWrite_wf, State.cqWrite_wf, State.dbgCmd_wf, State.dbgCmdWrite_wf, State.dictSend_wf, State.drpCmd_wf, State.drpCmdWrite_wf, State.drpRingWrite_wf, State.fctCmd_wf, State.fctCmdWrite_wf, State.gate_wf, State.kvCmdWrite_wf, State.ldrCmdWrite_wf, State.oneCmd_wf, State.pairWrite_wf, State.partCmdWrite_wf, State.qcfgWrite_wf, State.trCmd_wf, State.trCmdWrite_wf]; done)
    | (with_reducible refine State.amapWrite_wf _ _ _ _ _ _ ?_ (fun t hwf => ?_))
    | (with_reducible refine State.apxSend_wf _ _ _ ?_)
    | (with_reducible refine State.blmExpand_wf _ _ ?_)
    | (with_reducible refine State.cqCmdWrite_wf _ _ _ _ ?_)
    | (with_reducible refine State.cqHeadWrite_wf _ _ _ _ ?_)
    | (with_reducible refine State.cqWrite_wf _ _ _ _ _ ?_ (fun t hwf => ?_))
    | (with_reducible refine State.dbgCmd_wf _ _ _ ?_ (fun t hwf => ?_))
    | (with_reducible refine State.dbgCmdWrite_wf _ _ _ ?_)
    | (with_reducible refine State.dictSend_wf _ _ _ ?_)
    | (with_reducible refine State.drpCmd_wf _ _ _ _ _ ?_ (fun t hwf => ?_))
    | (with_reducible refine State.drpCmdWrite_wf _ _ _ _ ?_)
    | (with_reducible refine State.drpRingWrite_wf _ _ _ _ _ ?_ (fun t hwf => ?_))
    | (with_reducible refine State.fctCmd_wf _ _ _ _ _ ?_ (fun t hwf => ?_))
    | (with_reducible refine State.fctCmdWrite_wf _ _ _ _ _ ?_)
    | (with_reducible refine State.gate_wf _ _ _ _ _ ?_ (fun t hwf => ?_))
    | (with_reducible refine State.kvCmdWrite_wf _ _ _ ?_)
    | (with_reducible refine State.ldrCmdWrite_wf _ _ _ _ ?_)
    | (with_reducible refine State.oneCmd_wf _ _ _ _ _ _ ?_ (fun t hwf => ?_))
    | (with_reducible refine State.pairWrite_wf _ _ _ _ _ ?_ (fun t hwf => ?_))
    | (with_reducible refine State.partCmdWrite_wf _ _ _ _ ?_)
    | (with_reducible refine State.qcfgWrite_wf _ _ _ _ ?_ (fun t hwf => ?_))
    | (with_reducible refine State.trCmd_wf _ _ _ _ ?_)
    | (with_reducible refine State.trCmdWrite_wf _ _ _ _ ?_)
    | (with_reducible refine foldl_wf _ _ _ ?_ (fun t x hwf => ?_))
    | (with_reducible refine foldl1_wf _ _ _ ?_ (fun t x hwf => ?_))
    | split
    | (simp only [State.amapWrite_memories, State.cqWrite_memories, State.dbgCmd_memories, State.drpCfgWrite_memories, State.drpCmd_memories, State.drpRingWrite_memories, State.entCmdWrite_memories, State.errlogRd_memories, State.fctCmd_memories, State.gate_memories, State.hopFormat_memories, State.hopScan_memories, State.kvLayoutWrite_memories, State.mcfgWrite_memories, State.mergeReg_memories, State.oneCmd_memories, State.pairWrite_memories, State.pfCtlWrite_memories, State.portDownWrite_memories, State.qcfgWrite_memories, State.retry_memories, State.sbWrite_memories, State.sbWrite'_memories, State.sqTailWrite_memories, State.wr_memories])
    | (simp only [])
    | (simp only [memories_mk])
    | (simp only [memories_eta])

theorem apxReqSet_wf (s : State) (n : List Host.Cell) (hn : Sparse.wf zeroByte n = true) (hwf : s.memories.wf = true) :
    (Memories.mk s.mem s.imem s.sram s.lost s.hop s.host s.boot.nor n s.apxRsp).wf = true := by
  rw [Memories.wf_iff] at hwf ⊢
  exact ⟨hwf.1, hwf.2.1, hwf.2.2.1, hwf.2.2.2.1, hwf.2.2.2.2.1, hwf.2.2.2.2.2.1, hn, hwf.2.2.2.2.2.2.2⟩

theorem State.windowWrite_wf (s : State) (r : Requester) (a be : Nat) (val : Word) (hwf : s.memories.wf = true) :
    (State.windowWrite s r a be val).memories.wf = true := by
  have hq : Sparse.wf zeroByte s.apxReq = true := by
    have h := hwf
    rw [Memories.wf_iff] at h
    exact h.2.2.2.2.2.2.1
  unfold State.windowWrite
  refine ite_wf _ _ _ ?_ hwf
  extract_lets k old m
  rw [memories_mk]
  exact apxReqSet_wf s _ (Sparse.wf_blit _ _ _ _ hq) hwf

theorem State.write32_wf (s : State) (r : Requester) (a be : Nat) (val : Word) (hwf : s.memories.wf = true) : (State.write32 s r a be val).memories.wf = true := by
  unfold State.write32
  repeat' first
    | (simp only [hwf, ite_memories, Memories.ite_wf, ite_self, State.cardWrite_wf, State.rejectAccess_memories, State.windowWrite_wf]; done)
    | split

theorem State.readDone_wf (q : Option Word × State) (r : Requester) (a len : Nat) (hwf : q.2.memories.wf = true) :
    (State.readDone q r a len).memories.wf = true := by
  unfold State.readDone
  split
  · rw [State.rejectAccess_memories]; exact hwf
  · rw [State.emit_memories]; exact hwf

theorem State.pairRead_wf (s : State) (r : Requester) (a be : Nat) (lo hi c : Card) (i : Nat) (hwf : s.memories.wf = true) : (State.pairRead s r a be lo hi c i).memories.wf = true := by
  unfold State.pairRead
  repeat' first
    | (simp only [hwf, ite_memories, Memories.ite_wf, ite_self, State.emit_memories, State.read32_memories, State.readDone_wf, State.shadow_memories, State.unshadow_memories]; done)
    | split
    | (simp only [])

theorem State.busRead_wf (s : State) (r : Requester) (a len be : Nat) (hwf : s.memories.wf = true) : (State.busRead s r a len be).memories.wf = true := by
  unfold State.busRead
  repeat' first
    | with_reducible assumption
    | (simp only [hwf, ite_memories, Memories.ite_wf, State.emit_memories, State.pairRead_wf, State.read32_memories, State.readDone_wf, State.rejectAccess_memories, State.unshadow_memories]; done)
    | split
    | (simp only [])

@[simp] theorem State.pairCommit_memories (s : State) (r : Requester) (lo hi : Card) (i bl : Nat) (vl : Word) (bh : Nat) (vh : Word) : (State.pairCommit s r lo hi i bl vl bh vh).memories = s.memories := by
  unfold State.pairCommit
  simp only [implies_true, State.mergeReg_memories, State.pairWrite_memories]

theorem State.busWrite_wf (s : State) (r : Requester) (a len be : Nat) (val : DWord) (hwf : s.memories.wf = true) : (State.busWrite s r a len be val).memories.wf = true := by
  unfold State.busWrite
  repeat' first
    | with_reducible assumption
    | (simp only [hwf, ite_memories, Memories.ite_wf, State.pairCommit_memories, State.rejectAccess_memories, State.unshadow_memories, State.write32_wf]; done)
    | (refine State.pairHold_wf _ _ _ _ _ _ _ _ _ hwf (fun c g t hg h => ?_); simp only [State.pairWrite_memories _ _ _ _ _ hg, h]; done)
    | split
    | (simp only [])

theorem execRegisterWrite_wf (r : Requester) (addr len be : Nat) (val : DWord) (s : State) (t : State) (ht : execRegisterWrite r addr len be val s = .next t) (hwf : s.memories.wf = true) : t.memories.wf = true := by
  injection ht with ht
  rw [← ht]
  simp only [hwf, State.busWrite_wf]

theorem execRcRead_wf (r : Requester) (addr len be : Nat) (s : State) (t : State) (ht : execRcRead r addr len be s = .next t) (hwf : s.memories.wf = true) : t.memories.wf = true := by
  injection ht with ht
  rw [← ht]
  simp only [hwf, State.busRead_wf]

theorem execPairLowRead_wf (r : Requester) (addr : Nat) (s : State) (t : State) (ht : execPairLowRead r addr s = .next t) (hwf : s.memories.wf = true) : t.memories.wf = true := by
  injection ht with ht
  rw [← ht]
  simp only [hwf, State.busRead_wf]

theorem execPairHighRead_wf (r : Requester) (addr : Nat) (s : State) (t : State) (ht : execPairHighRead r addr s = .next t) (hwf : s.memories.wf = true) : t.memories.wf = true := by
  injection ht with ht
  rw [← ht]
  simp only [hwf, State.busRead_wf]

theorem execPairLowWrite_wf (r : Requester) (addr : Nat) (val : Word) (s : State) (t : State) (ht : execPairLowWrite r addr val s = .next t) (hwf : s.memories.wf = true) : t.memories.wf = true := by
  injection ht with ht
  rw [← ht]
  simp only [hwf, State.busWrite_wf]

theorem execPairHighWrite_wf (r : Requester) (addr : Nat) (val : Word) (s : State) (t : State) (ht : execPairHighWrite r addr val s = .next t) (hwf : s.memories.wf = true) : t.memories.wf = true := by
  injection ht with ht
  rw [← ht]
  simp only [hwf, State.busWrite_wf]

theorem execPairNarrowAccess_wf (r : Requester) (addr be : Nat) (write : Bool) (val : Word) (s : State) (t : State) (ht : execPairNarrowAccess r addr be write val s = .next t) (hwf : s.memories.wf = true) : t.memories.wf = true := by
  injection ht with ht
  rw [← ht]
  simp only [hwf, ite_memories, Memories.ite_wf, ite_self, State.busRead_wf, State.busWrite_wf]

/-! ### SaveArea -/

/-! ### Debug -/

@[simp] theorem State.debugAct_memories (s : State) (x : DebugItem) (k : State → State) (hk : ∀ t, (k t).memories = t.memories) : (State.debugAct s x k).1.memories = s.memories := by
  unfold State.debugAct
  repeat' first
    | with_reducible rfl
    | (simp only [ite_memories, ite_self, foldl_memories, implies_true, hk]; done)
    | (with_reducible refine (foldl_memories _ _ _ (fun t x => ?_)).trans ?_)
    | (with_reducible refine (foldl1_memories _ _ _ (fun t x => ?_)).trans ?_)
    | split
    | (simp only [hk])
    | (simp only [])
    | (simp only [memories_mk])
    | (simp only [memories_eta])

theorem State.debugAct_wf (s : State) (x : DebugItem) (k : State → State) (hwf : s.memories.wf = true) (hk : ∀ t, t.memories.wf = true → (k t).memories.wf = true) : (State.debugAct s x k).1.memories.wf = true := by
  unfold State.debugAct
  repeat' first
    | with_reducible assumption
    | (simp only [hwf, ite_memories, Memories.ite_wf, ite_self, foldl_memories, implies_true, hk]; done)
    | (with_reducible refine hk _ ?_)
    | (with_reducible refine foldl_wf _ _ _ ?_ (fun t x hwf => ?_))
    | (with_reducible refine foldl1_wf _ _ _ ?_ (fun t x hwf => ?_))
    | split
    | (simp only [])
    | (simp only [memories_mk])
    | (simp only [memories_eta])

theorem State.debugWrite_wf (s : State) (x : DebugItem) (off : Nat) (bs : List Byte) (hwf : s.memories.wf = true) : (State.debugWrite s x off bs).1.memories.wf = true := by
  unfold State.debugWrite
  repeat' first
    | with_reducible assumption
    | (simp only [hwf, ite_memories, Memories.ite_wf, ite_self, foldl_memories, implies_true, State.debugAct_memories, State.wr_memories, State.debugAct_wf, State.writeImem_wf, State.writeMem_wf, State.writeSram_wf]; done)
    | (with_reducible refine State.debugAct_wf _ _ _ ?_ (fun t hwf => ?_))
    | (with_reducible refine State.writeImem_wf _ _ _ _ ?_)
    | (with_reducible refine State.writeMem_wf _ _ _ ?_)
    | (with_reducible refine State.writeSram_wf _ _ _ _ ?_)
    | (with_reducible refine foldl_wf _ _ _ ?_ (fun t x hwf => ?_))
    | (with_reducible refine foldl1_wf _ _ _ ?_ (fun t x hwf => ?_))
    | split
    | (simp only [State.debugAct_memories, State.wr_memories])
    | (simp only [])
    | (simp only [memories_mk])
    | (simp only [memories_eta])

theorem State.debugHalt_wf (s : State) (x : DebugItem) (hwf : s.memories.wf = true) : (State.debugHalt s x).1.memories.wf = true := by
  unfold State.debugHalt
  repeat' first
    | with_reducible assumption
    | (simp only [hwf, ite_memories, Memories.ite_wf, ite_self, foldl_memories, implies_true, State.debugAct_memories, State.debugAct_wf, State.haltFacet_wf]; done)
    | (with_reducible refine State.debugAct_wf _ _ _ ?_ (fun t hwf => ?_))
    | (with_reducible refine State.haltFacet_wf _ _ ?_)
    | (with_reducible refine foldl_wf _ _ _ ?_ (fun t x hwf => ?_))
    | (with_reducible refine foldl1_wf _ _ _ ?_ (fun t x hwf => ?_))
    | split
    | (simp only [State.debugAct_memories])
    | (simp only [])
    | (simp only [memories_mk])
    | (simp only [memories_eta])

theorem State.debugResume_wf (s : State) (x : DebugItem) (hwf : s.memories.wf = true) : (State.debugResume s x).1.memories.wf = true := by
  unfold State.debugResume
  repeat' first
    | with_reducible assumption
    | (simp only [hwf, ite_memories, Memories.ite_wf, ite_self, foldl_memories, implies_true, State.debugAct_memories, State.modFacet_memories, State.sf_memories, State.debugAct_wf]; done)
    | (with_reducible refine State.debugAct_wf _ _ _ ?_ (fun t hwf => ?_))
    | (with_reducible refine foldl_wf _ _ _ ?_ (fun t x hwf => ?_))
    | (with_reducible refine foldl1_wf _ _ _ ?_ (fun t x hwf => ?_))
    | split
    | (simp only [State.debugAct_memories, State.modFacet_memories, State.sf_memories])
    | (simp only [])
    | (simp only [memories_mk])
    | (simp only [memories_eta])

theorem State.debugStep_wf (s : State) (x : DebugItem) (hwf : s.memories.wf = true) : (State.debugStep s x).1.memories.wf = true := by
  unfold State.debugStep
  repeat' first
    | with_reducible assumption
    | (simp only [hwf, ite_memories, Memories.ite_wf, ite_self, foldl_memories, implies_true, State.debugAct_memories, State.modFacet_memories, State.sf_memories, State.debugAct_wf, State.dripStart_wf, dripAdvance_wf]; done)
    | (with_reducible refine State.debugAct_wf _ _ _ ?_ (fun t hwf => ?_))
    | (with_reducible refine State.dripStart_wf _ _ _ ?_)
    | (with_reducible refine dripAdvance_wf _ _ _ _ ?_)
    | (with_reducible refine foldl_wf _ _ _ ?_ (fun t x hwf => ?_))
    | (with_reducible refine foldl1_wf _ _ _ ?_ (fun t x hwf => ?_))
    | split
    | (simp only [State.debugAct_memories, State.modFacet_memories, State.sf_memories])
    | (simp only [])
    | (simp only [memories_mk])
    | (simp only [memories_eta])

/-! ### Step -/

@[simp] theorem State.withFetchWord_memories (s : State) (nbits w : Nat) : (State.withFetchWord s nbits w).memories = s.memories := by
  unfold State.withFetchWord
  repeat' first
    | with_reducible rfl
    | split
    | (simp only [memories_mk])
    | (simp only [memories_eta])

end Sys2Proof.Machine
end

