-- ==== Sys2Proof/Tests/Slice0.lean ====
section
/-! SUPPORT. Tests of the model's own: ill-formed commands are refused by the check of well-formedness, small results worked
out by hand from the spec, and, for the statements of Sys2Proof/Certificates/Slice0/Obligations.lean that have hypotheses,
states that meet them. -/

-- The tests elaborate one after another: side by side, their threads reserve more memory than the check allows.
set_option Elab.async false

namespace Sys2Proof.Tests

open Sys2Proof.Machine

/-! ### Well-formedness -/

/-- A DAP request of an empty payload. -/
def dap (path : DapPath) (tid index sub : Nat) : DapReq := ⟨path, tid, index, sub, 0, 0, 0, true, false, false, []⟩

/-- A frame's surroundings, all zero. -/
def noWire : Wire := ⟨0, 0, none, 0, 0, true⟩

/-- One ill-formed command, or more, for each check. -/
theorem test_wf_refuses : (
  [.fctHalt (.vf 0) 0, .fctHalt (.vf 17) 0, .dumpWriteCommand (.mgmt 256), .dumpWriteCommand (.mctp 256), .dumpWriteCommand (.mailbox 17),
   .getVersion (.mailbox 17) [], .getVersion (.mgmt 256) [], .submit (.func 17) ⟨0, 0, 0, 0, 0, 0, 0, 0⟩ [],
   .submit (.front 2 0 0) ⟨0, 0, 0, 0, 0, 0, 0, 0⟩ [], .submit (.front 0 0 65536) ⟨0, 0, 0, 0, 0, 0, 0, 0⟩ [],
   .submit (.remote ⟨32768, 0, 0, 0, 0⟩) ⟨0, 0, 0, 0, 0, 0, 0, 0⟩ [], .submit (.remote ⟨0, 3, 0, 0, 0⟩) ⟨0, 0, 0, 0, 0, 0, 0, 0⟩ [],
   .submit (.remote ⟨0, 0, 17, 0, 0⟩) ⟨0, 0, 0, 0, 0, 0, 0, 0⟩ [], .load 0 ⟨0, 0, 0, 0, zeros 4113, true, noWire⟩, .load 32 ⟨0, 0, 0, 0, [], true, noWire⟩,
   .dapRead (dap (.mgmt 256) 0 0 0), .dapRead (dap (.mgmt 0) 65536 0 0), .dapRead (dap (.mgmt 0) 0 65536 0), .dapRead (dap (.mgmt 0) 0 0 256),
   .dapRead { dap (.mgmt 0) 0 0 0 with payload := zeros 1025 }, .registerWrite .pf 67108864 4 15 0, .registerWrite .pf 0 0 15 0,
   .registerWrite .pf 0 4 256 0, .pairNarrowAccess .pf 0 15 true 0, .mlw 256, .arcTableLoad 288 true, .arcSelfTest (.mgmt 0) 288,
   .seamDelivery 32, .fctStart .pf 0 8192, .fctMcfgWrite .pf 0 16 0, .sbCounterWrite .pf 0 64 15 0, .drpStart .pf 32,
   .drpRingWrite .pf 0 2 15 0, .ringPoll 48, .dripDescriptorComplete 0 2, .carafeScrub 8 0 [], .carafeScrub 0 4 [],
   .kvLayoutWrite .pf 16 0 15 0, .kvLayoutWrite .pf 0 256 15 0, .ticketRetireRelease ⟨4096, 0⟩, .ticketRetireRelease ⟨0, 65536⟩,
   .prefixPublish ⟨4096, 0, true⟩, .channelRetire ⟨16, []⟩, .ldrStart .pf 4, .drop .pf 0 256, .adrop .pf 0 256,
   .arpRequest 2 0, .requestDatagram 0 ⟨2 ^ 128, 0⟩ (some ⟨0, 0⟩) ⟨0, 0, 0, 0, 0, 0, 0, 0⟩ [], .sqEntryTake 17 true,
   .answerReturn 0 (2 ^ 64) 0 0 0, .stepStart 0 0 256 0 0 0 [] ⟨[], [], [], 0⟩, .stepStart 0 0 0 0 0 0 [] ⟨[], [(4096, Ticket.blank)], [], 0⟩,
   .partitionHalt 0 256, .amapWrite .pf 0 8 0 15 0, .routeSetChange 256, .writeRegion .pf 4096, .teardown (.mgmt 0) [], .adopt (.mgmt 0) [] noView,
   .faultResume (.mgmt 0) 65536, .calibrationRead 4 0 0, .calibrationRead 0 0 32, .boostStep 2, .fieldLock (.mgmt 0) [],
   .apxSend .pf 8192, .extendCustomerSlot (.mgmt 0) [], .dictSend .pf 2048, .eventFetch 17, .setEndpointId true 256,
   .getMctpVersionSupport true 256, .getVendorDefinedMessageSupport true 256, .porRelease 4 0 [], .bootReady ⟨[], [16]⟩,
   .functionLevelReset ⟨17, none⟩, .functionLevelReset ⟨0, some 32768⟩, .sbCfgWrite .pf 10 15 0, .sbFunctionApply 10, .outputStart 64, .mkaTimeout 32, .fabricActivityIndicatorExpiry 10] : List Instr).all (fun i => !i.wf) = true := by decide +kernel

/-- Commands at the ends of their ranges. -/
theorem test_wf_accepts : ([.mlw 255, .arcTableLoad 287 true, .fctStart (.vf 16) 0 8191, .ringPoll 47, .outputStart 63, .load 31 ⟨0, 0, 0, 0, zeros 4112, true, noWire⟩,
    .registerWrite .mc 67108863 8 255 0, .porRelease 3 255 [], .porAssert] : List Instr).all Instr.wf = true := by decide +kernel

/-! ### States that meet the statements' hypotheses: Facets -/

/-- The device running after boot. -/
def up : State := State.sf { State.reset with boot := { State.reset.boot with phase := 4 } } R.bootStat_READY 0 1

/-- Facet `f` runs in `s`, with `w` in slot `k` of bundle 0 and nothing else in any instruction memory. -/
def slotOn (s : State) (f k w : Nat) : State :=
  State.sf { s with imem := Sparse.listing zeroByte (f * 262144 + 8 * k) (natLE 8 w) } R.fctStat_STATE f 1

def slotState (k w : Nat) : State := slotOn up 0 k w

/-- What `issues` comes to for an operation without an error-control entry. -/
def issuesB (s : State) (f k w : Nat) : Bool :=
  decide (f < s.facetCount) && s.issuing f && (s.facet f).rest == 0 && !(s.facet f).haltReq && !s.noCode f && decide (k < 4) && w != 0 &&
  s.slotWord f (s.pc f) k == w && decide ((s.facet f).slot ≤ k) &&
  (List.range k).all (fun j => decide (j < (s.facet f).slot) || s.slotWord f (s.pc f) j == 0) && s.bundleStop f == none &&
  (hits size8 s.ecImem (f * 262144 + s.pc f * 32) 32).isEmpty && s.bundleEntry f == none

theorem issues_of (s : State) (f k w : Nat) (h : issuesB s f k w = true) : s.issues f k w := by
  simp only [issuesB, Bool.and_eq_true, decide_eq_true_eq, beq_iff_eq, bne_iff_ne, Bool.not_eq_true', List.all_eq_true, List.mem_range,
    Bool.or_eq_true, List.isEmpty_iff] at h
  obtain ⟨⟨⟨⟨⟨⟨⟨⟨⟨⟨⟨⟨a, b⟩, c⟩, d⟩, e⟩, g⟩, i⟩, j⟩, l⟩, m⟩, n⟩, o⟩, q⟩ := h
  refine ⟨a, b, c, d, e, g, i, j, l, fun x hx hs => ?_, n, o, fun y hy => ?_⟩
  · rcases m x hx with hm | hm
    · omega
    · exact hm
  · rw [q] at hy; cases hy

/-- VectorTwoSourceLanes, VectorOtherLanes, VectorCompareAndLoad, ScratchpadStores: every operation of the vector slot issues. -/
theorem test_vector_slot_issues : ∀ w ∈ [0x10, 0x11, 0x12, 0x13, 0x14, 0x15, 0x16, 0x17, 0x18, 0x19, 0x1A, 0x1B, 0x1C, 0x1D, 0x1E, 0x1F,
    0x09, 0x0A, 0x08].map (fun o => o * 2 ^ 58) ++ [0x08 * 2 ^ 58 + 2 ^ 56 + 2 ^ 8, 0x08 * 2 ^ 58 + 2 ^ 57],
    (slotState 1 w).issues 0 1 w ∧ (slotState 1 w).settled 0 ∧ (slotState 1 w).ucMem = [] ∧ (slotState 1 w).ecMem = [] ∧
      (slotState 1 w).unwaited = [] := by
  intro w hw
  refine ⟨issues_of _ _ _ _ ?_, ⟨rfl, rfl, rfl, rfl⟩, rfl, rfl, rfl⟩
  revert w
  decide +kernel

/-- A slot state with a tile of format 0 in buffer 0. -/
def tiled (w : Nat) : State := (slotState 0 w).modFacet 0 (fun x => { x with buf0 := some ⟨0, 0, 0, [], []⟩ })

/-- MatrixLoadAndMultiply, MatrixStore: an MLW, an MMA and an MMA of reference mode of one row, and an MST issue. -/
theorem test_matrix_slot_issues : ∀ w ∈ [2 ^ 58, 2 * 2 ^ 58 + 3 * 2 ^ 55, 2 * 2 ^ 58 + 3 * 2 ^ 55 + 2 ^ 15, 3 * 2 ^ 58],
    (tiled w).issues 0 0 w ∧ (tiled w).settled 0 ∧ (tiled w).ucMem = [] ∧ (tiled w).ecMem = [] ∧ (tiled w).unwaited = [] ∧
      (tiled w).buf 0 (bits w 57 57) = some ⟨0, 0, 0, [], []⟩ := by
  intro w hw
  refine ⟨issues_of _ _ _ _ ?_, ⟨rfl, rfl, rfl, rfl⟩, rfl, rfl, rfl, ?_⟩ <;> revert w <;> decide +kernel

/-- An ARC of function `fn` and mode `m` whose state register, V1, holds the control word `c`. -/
def arcWord (fn m : Nat) : Nat := 0x20 * 2 ^ 58 + fn * 2 ^ 52 + m * 2 ^ 50 + 2 ^ 35
def arcState (fn m : Nat) (c : Word) (valid : Bool) : State :=
  (slotState 2 (arcWord fn m)).modFacet 0 (fun x => { x with vregs := Sparse.put (fun _ => 0) x.vregs 1023 c, arcValid := valid })

/-- ArcElementFunctions: every function issues, on its tables in both modes where it has both, and on the fallback path. -/
theorem test_arc_element_issues : ∀ x ∈ (List.range 13).map (fun fn => (fn, 0, true)) ++ (List.range 11).map (fun fn => (fn, 1, true)) ++
      (List.range 13).map (fun fn => (fn, 0, false)),
    let s := arcState x.1 x.2.1 0 x.2.2
    s.issues 0 2 (arcWord x.1 x.2.1) ∧ s.settled 0 ∧ (s.facet 0).selfTest = false ∧ s.arcUc ++ s.arcEc = [] := by
  intro x hx
  refine ⟨issues_of _ _ _ _ ?_, ⟨?_, ?_, ?_, ?_⟩, ?_, ?_⟩ <;> revert x <;> decide +kernel

/-- ArcRowOperations: each row operation issues with a control word that is valid for it. -/
theorem test_arc_row_issues : ∀ x ∈ ([(0x10, 0, 0), (0x10, 1, 0), (0x10, 1, 8), (0x11, 0, 0), (0x11, 0, 32), (0x11, 0, 64), (0x12, 0, 0),
      (0x12, 0, 32), (0x13, 0, 0), (0x13, 0, 32)] : List (Nat × Nat × Word)),
    let s := arcState x.1 x.2.1 x.2.2 true
    s.issues 0 2 (arcWord x.1 x.2.1) ∧ s.settled 0 ∧ ctlBad x.1 x.2.1 (lane ((s.facet 0).vreg (arS2 (arcWord x.1 x.2.1))) 511).toNat = false ∧
      lane ((s.facet 0).vreg (arS2 (arcWord x.1 x.2.1))) 511 = x.2.2 := by
  intro x hx
  refine ⟨issues_of _ _ _ _ ?_, ⟨?_, ?_, ?_, ?_⟩, ?_, ?_⟩ <;> revert x <;> decide +kernel

/-- ArcTables: a unit that waits for its tables, and one under test. -/
theorem test_arc_tables : up.arcPending 0 = true ∧ up.arcFailsOf 0 < 2 ∧ up.unitExists 0 = true ∧
    (up.setArc 0 true true).arcTesting 0 = true ∧ up.selfAll = none := by decide +kernel

/-- ScalarsAndScoreboard, ControlFlow, WaitsAndGroups: every operation of the control slot issues; COND 2 waits and does not go on. -/
theorem test_control_slot_issues : ∀ w ∈ [0x38 * 2 ^ 58, 0x39 * 2 ^ 58, 0x3A * 2 ^ 58, 0x32 * 2 ^ 58, 0x32 * 2 ^ 58 + 2 ^ 56, 0x32 * 2 ^ 58 + 2 * 2 ^ 56,
    0x34 * 2 ^ 58 + 2 ^ 45 + 2 ^ 21, 0x35 * 2 ^ 58 + 2 ^ 45, 0x36 * 2 ^ 58, 0x37 * 2 ^ 58, 0x33 * 2 ^ 58, 0x33 * 2 ^ 58 + 2 ^ 57],
    (slotState 3 w).issues 0 3 w := by
  intro w hw
  refine issues_of _ _ _ _ ?_
  revert w
  decide +kernel

/-- Partition 0 holds every Facet, engine 0 and tickets 0 to 15, and runs; this package is its lead. -/
def formed : State :=
  (((up.setPrt 0 { Partition.free with shape := 0x0F0F, mask := 1, tcount := 16 }).sf R.partStat_STATE 0 1).sf
    R.identPkgid_VALID 0 1).setN 0x6002 1 0

/-- NeighbourTransfers: a transfer to the east within a group issues, and one to the south across the Seam from row 7. -/
theorem test_neighbour_transfer_issues :
    (let w := 0x30 * 2 ^ 58 + 2 ^ 56
     let s := slotOn formed 0 3 w
     s.issues 0 3 w ∧ s.settled 0 ∧ s.ucMem = [] ∧ s.ecMem = [] ∧ s.unwaited = [] ∧ s.openLink 0 1 = some 1 ∧ s.groupOf 0 = s.groupOf 1 ∧
       s.gf R.fctStat_DETACHED 0 = 0 ∧ s.gf R.fctStat_DETACHED 1 = 0) ∧
    (let w := 0x30 * 2 ^ 58 + 2 * 2 ^ 56 + 2 ^ 9
     let s := slotOn formed 112 3 w
     s.issues 112 3 w ∧ s.settled 112 ∧ s.ucMem = [] ∧ s.ecMem = [] ∧ s.unwaited = [] ∧ s.openLink 112 2 = some 128 ∧
       seamBeats (s.seam 0) + 1 ≤ 64 ∧ ∀ y ∈ s.seam 0, y.uid ≠ s.uid) :=
  ⟨⟨issues_of _ _ _ _ (by decide +kernel), by decide +kernel⟩, ⟨issues_of _ _ _ _ (by decide +kernel), by decide +kernel⟩⟩

/-- NeighbourTransfers: a Seam transfer whose beats are all sent, and one delivered. -/
theorem test_seam_events :
    let x : SeamXfer := ⟨7, 112, 128, 0, 0, 0, 0, [0], [], false, false⟩
    (let s := up.setSeam 0 [x]
     (s.seam 0).find? (fun y => !y.delivered) = some x ∧ x.left = 0 ∧ (s.seam 0).find? (fun y => decide (y.uid = x.uid)) = some x ∧ s.ucMem = []) ∧
    (up.setSeam 0 [{ x with delivered := true }]).seam 0 = { x with delivered := true } :: [] := by decide +kernel

/-- PourTransfers: a POUR issues; its descriptor, of 64 bytes from Carafe to Facet 0's scratchpad, starts and completes. -/
theorem test_pour :
    (let w := 0x31 * 2 ^ 58
     (slotState 3 w).issues 0 3 w ∧ (slotState 3 w).settled 0 ∧ ((slotState 3 w).facet 0).pourQ.length + bits w 41 38 + 1 ≤ 16) ∧
    (let d : PourDesc := ⟨7, 4096, 0x20000000000, 64 * 2 ^ 40, 0, false, [], 0⟩
     let s := up.modFacet 0 (fun x => { x with pourQ := [d] })
     (s.facet 0).pourQ = d :: [] ∧ s.facetFrozen 0 = false ∧ s.pourCheck 0 d = (0, []) ∧ s.farRows d true = [] ∧ s.farRows d false = [] ∧
       s.pourHeld 0 d = ([], [])) ∧
    (let d : PourDesc := ⟨7, 4096, 0x20000000000, 64 * 2 ^ 40, 0, true, [], 0⟩
     let s := up.modFacet 0 (fun x => { x with pourQ := [d] })
     (s.facet 0).pourQ = d :: [] ∧ s.facetFrozen 0 = false ∧ s.xferIdle (.pour 0 7) = true ∧ s.xferStatus (.pour 0 7) = 0 ∧
       s.pourHeld 0 d = ([], []) ∧ pdRows d = 1 ∧ pdImem d = false ∧ s.own (pdSrc d 0) = true ∧ s.own (pdDst d 0) = true ∧ s.unwaited = [] ∧
       fgaOff (pdSrc d 0) + pdLen d ≤ tieredBase ∧ fgaOff (pdDst d 0) + pdLen d ≤ tieredBase ∧
       s.region (fgaOff (pdSrc d 0)) (pdLen d) ≠ .none ∧ s.region (fgaOff (pdDst d 0)) (pdLen d) ≠ .none ∧ 0 < pdLen d ∧
       s.ucMem = [] ∧ s.ecMem = []) :=
  ⟨⟨issues_of _ _ _ _ (by decide +kernel), by decide +kernel⟩, by decide +kernel⟩

/-- WaitsAndGroups: waits of each kind go on, wait or have ERR; a Facet's own wait is satisfied; a group has arrived. -/
theorem test_waits :
    (∀ w ∈ [0x33 * 2 ^ 58, 0x33 * 2 ^ 58 + 2 ^ 57], (slotState 3 w).issues 0 3 w ∧
      (waitOf ((slotState 3 w).facet 0) w 0).grp = bit w 57 ∧ (slotState 3 w).gf R.fctSb_ERR 0 = 0 ∧
      ((slotState 3 w).sf R.fctSb_ERR 0 1).gf R.fctSb_ERR 0 = 1) ∧
    (let v : WaitRec := waitOf (up.facet 0) (0x33 * 2 ^ 58) 0
     let s := (up.sf R.fctStat_STATE 5 2).modFacet 5 (fun x => { x with wait := some v })
     5 < s.facetCount ∧ s.gf R.fctStat_STATE 5 = 2 ∧ s.facetFrozen 5 = false ∧ (s.facet 5).wait = some v ∧ v.grp = false ∧
       s.waitErr 5 v = false ∧ s.waitOk 5 v = true) ∧
    (let v : WaitRec := waitOf (up.facet 0) (0x33 * 2 ^ 58 + 2 ^ 57) 0
     let s := (up.sf R.fctStat_STATE 5 2).modFacet 5 (fun x => { x with wait := some v })
     s.members 37 = [5] ∧ s.arrived 5 = true ∧ s.facetFrozen 5 = false) := by
  refine ⟨fun w hw => ⟨issues_of _ _ _ _ ?_, ?_⟩, by decide +kernel⟩ <;> revert w <;> decide +kernel

/-- FacetCommands: an idle Facet, an image to load, one whose bytes are there, a running Facet in a bundle and between two. -/
theorem test_facet_commands :
    (up.serves .mc .fctCmd 0 ∧ up.asleep = false ∧ up.facetIdle 0 = true ∧ up.serves .mc .fctMcfg 0 ∧ up.serves .mc .fctSb 63 ∧
      (up.gf R.fctStat_STATE 0 = 0 ∨ up.gf R.fctStat_STATE 0 = 3)) ∧
    (let s := up.sf R.fctImemLen_COUNT 0 8192
     let src := s.pair .fctImemSrcLo .fctImemSrcHi 0
     s.gf R.fctImemLen_COUNT 0 = 8192 ∧ src % 32 = 0 ∧ s.own src = true ∧ s.allowed (s.facetPart 0) (fgaOff src) (8192 * 32) false = true) ∧
    (let s := up.modFacet 0 (fun x => { x with imemLoad := some (0, 8192, 0) })
     (s.facet 0).imemLoad = some (0, 8192, 0) ∧ s.facetPart 0 = none ∧ s.own 0 = true ∧ s.allowed none (fgaOff 0) (8192 * 32) false = true ∧
       s.ucMem = [] ∧ s.ecMem = [] ∧ s.ucImem = []) ∧
    (let s := up.sf R.fctStat_STATE 0 1
     s.serves .mc .fctCmd 0 ∧ s.gf R.fctStat_STATE 0 = 1 ∧ (s.facet 0).slot = 0 ∧
       ((s.modFacet 0 (fun x => { x with slot := 2 })).facet 0).slot ≠ 0) := by decide +kernel

/-! ### States that meet the statements' hypotheses: rings and engines -/

/-- A ring descriptor of the words given. -/
def desc (w : List Nat) (running : Bool) : RingDesc := ⟨7, w, 0, 0, running, 0, 0, false, 0, [], [], false, false, 0, []⟩

/-- Ring `r` runs and holds `d`. -/
def holding (s : State) (r : Nat) (d : RingDesc) : State := (s.setTaken r [d]).sf (ringState r) (ringIdx r) 1

/-- RingPollAndTake: rings that run, at a slot whose SEQ matches and at one whose SEQ does not. -/
theorem test_rings : ∀ r ∈ [0, 31, 32, 47],
    let s := up.sf (ringState r) (ringIdx r) 1
    s.ringRuns r = true ∧ s.ucAt (s.slotOff r) 64 = [] ∧ hits unitSize s.ecMem (s.slotOff r) 64 = [] ∧
      leNat (s.readMem (s.slotOff r + 56) 2) = s.gf (ringSeq r) (ringIdx r) ∧
      leNat (s.readMem (s.slotOff r + 56) 2) ≠ (s.sf (ringSeq r) (ringIdx r) 9).gf (ringSeq r) (ringIdx r) := by decide +kernel

/-- A ticket decodes in partition 0, with a key-value page at the start of layer 0 in engine 0's Carafe. -/
def cached : State :=
  let t := State.modTicket formed 0 (fun x => { x with state := 2, part := 0, gen := 1 })
  { t.sf R.kvLayout_EN 0 1 with kvPages := [⟨0, 0, 0, 0, 0, none, 0, 0⟩] }

/-- Partition 0 with a window over the first 16 MiB that it may read and write. -/
def mapped : State := formed.wr .partAmapCtl 0 (BitVec.ofNat 32 (7 * 2 ^ 29 + 7))

/-- DripDescriptorStart: the words of a descriptor of each kind whose check passes. -/
theorem test_drip_start : ∀ w ∈ [[0], [2 ^ 60 + 2 ^ 55], [2 * 2 ^ 60, 64 * 2 ^ 40], [3 * 2 ^ 60, 64 * 2 ^ 40], [4 * 2 ^ 60], [4 * 2 ^ 60 + 2 ^ 53],
      [4 * 2 ^ 60 + 4 * 2 ^ 53], [4 * 2 ^ 60 + 5 * 2 ^ 53], [4 * 2 ^ 60 + 0x10 * 2 ^ 53 + 2 ^ 31], [4 * 2 ^ 60 + 0x11 * 2 ^ 53 + 2 ^ 31],
      [4 * 2 ^ 60 + 0x12 * 2 ^ 53 + 2 ^ 31], [5 * 2 ^ 60, 1024 * 2 ^ 13, kvBase, 2 ^ 45], [6 * 2 ^ 60, 1024 * 2 ^ 13, kvBase, 2 ^ 45]],
    let d := desc w false
    let s := holding (if dKind d < 5 then mapped else cached) 0 d
    s.takenOf 0 = d :: [] ∧ s.engineFrozen 0 = false ∧ s.gf R.drpStat_STATE 0 = 1 ∧ s.pastOf 0 = [] ∧
      s.dripHeld 0 d = [] ∧ s.dripCheck 0 d = (false, []) ∧ (s.dripCheck 0 (desc (w.set 0 (w.headD 0 + 1)) false)) = (true, []) := by decide +kernel

/-- DripReturnAndCompletion: a weight pour of one row block with RCHUNK 1 whose block is done, and a load of 64 bytes. -/
theorem test_drip_return :
    (let d : RingDesc := { desc [2 ^ 60 + 2 ^ 55, 0, 0, 0, 0, 0, 2 ^ 32] true with done := 1, run := 1 }
     let s := holding up 0 d
     s.takenOf 0 = [d] ∧ d.running = true ∧ d.aborted = false ∧ dKind d = 1 ∧ wRchunk d ≠ 0 ∧ d.run ≠ 0 ∧ d.err = false ∧
       s.engineFrozen 0 = false ∧ s.xferOf (.drip 0 d.uid) = none ∧ s.xferIdle (.drip 0 d.uid) = true ∧ s.dripHeld 0 d = [] ∧
       s.wFar d = false ∧ s.hitParts (some d.uid) = []) ∧
    (let d := desc [2 * 2 ^ 60, 64 * 2 ^ 40] true
     let s := holding up 31 d
     s.takenOf 31 = [d] ∧ dKind d = 2 ∧ tRows d = 1 ∧ tLen d = 64 ∧ d.done = 0 ∧ d.clash = [] ∧ s.engineFrozen 31 = false ∧
       s.xferOf (.drip 31 d.uid) = none ∧ s.xferIdle (.drip 31 d.uid) = true ∧ s.own (tFga d 0) = true ∧ fgaOff (tFga d 0) + 64 ≤ tieredBase ∧
       s.region (fgaOff (tFga d 0)) 64 ≠ .none ∧ s.ucMem = [] ∧ s.ecMem = [] ∧ s.ucSram = [] ∧ s.unwaited = [] ∧ d.torn = [] ∧ d.err = false) := by decide +kernel

/-- A requester's write of the low half of a pair waits in its shadow. -/
def shadowed (s : State) (c : Card) (i : Nat) : State := { s with shadows := [⟨.mc, c, i, true, 15, 64⟩] }

/-- DripCommands: engines that are idle, run or stop; rings that are well placed; a shadowed half. -/
theorem test_drip_commands :
    (let s := (formed.sf R.drpRingCfg_SIZE 0 4)
     s.serves .mc .drpCmd 0 ∧ s.gf R.drpStat_STATE 0 = 0 ∧ s.drpRingOk 0 = true) ∧
    (up.sf R.drpRingCfg_SIZE 0 0).drpRingOk 0 = false ∧
    (let s := holding up 31 (desc [0] true)
     s.serves .mc .drpCmd 31 ∧ s.gf R.drpStat_STATE 31 ≠ 0 ∧ ∀ x ∈ s.takenOf 31, x.running = true) ∧
    (let s := up.sf R.drpStat_STATE 31 3
     s.gf R.drpStat_STATE 31 = 3 ∧ s.takenOf 31 = []) ∧
    (∀ c ∈ [Card.drpRingLo, .drpRingHi, .drpRingCfg, .drpHead, .drpCfg], up.serves .mc c 31 ∧ up.shadowOf .mc .drpRingLo 31 = none) ∧
    ((shadowed up .drpRingLo 31).shadowOf .mc .drpRingLo 31).map (fun x => x.write) = some true := by decide +kernel

/-! ### States that meet the statements' hypotheses: caches and tiers -/

/-- ScrubAndPageCommands: the last quadrant; a layout without tickets and one with a ticket; a page of a ticket outside its step. -/
theorem test_pages :
    4 * 7 + 3 < up.engineCount ∧ (up.serves .mc .kvLayout 4095 ∧ up.liveSlots 15 = [] ∧ ∀ x ∈ up.ranges, x.p ≠ 15) ∧
    (cached.serves .mc .kvLayout 255 ∧ cached.liveSlots 0 ≠ []) ∧
    (let h := handleOf 1 0 0
     let s := cached.wr .kvPgarg0 0 (BitVec.ofNat 32 h)
     s.serves .mc .kvPgcmd 0 ∧ (s.rd .kvPgarg0 0).toNat = h ∧ s.gf R.kvPgarg1_LAYER 0 = 0 ∧ s.kvEn (hPart h) 0 = true ∧ s.handleCode h = 0 ∧
       s.inStep h = false ∧ s.kvAt (hSlot h) 0 = some ⟨0, 0, 0, 0, 0, none, 0, 0⟩) := by decide +kernel

/-- A retained range of no page, of partition 0. -/
def kept (id : Nat) : KvRange := ⟨id, 0, false, 0, 0, [], 0, 0, 0, 0, 0, 0, [], false⟩

/-- PrefixesAndRanges: a due publication at the lead and elsewhere, a match of one shared page to map, a range that expires and one
that moves to the Urn. -/
theorem test_ranges :
    (let s := formed.modTicket 3 (fun x => { x with state := 4, release := true, publish := true, reason := 0x20 })
     s.publishDue 3 = true ∧ s.isLead (s.ticket 3).part = true ∧ (s.setN 0x6002 1 7).publishDue 3 = true ∧
       (s.setN 0x6002 1 7).isLead ((s.setN 0x6002 1 7).ticket 3).part = false) ∧
    (let g : RangePage := ⟨0, 0, 0, 0, 0, 1, 0⟩
     let r : KvRange := { kept 5 with tokens := List.replicate 32 1, pages := [g] }
     let s := { (formed.modTicket 1 (fun x => { x with state := 1, part := 0, mmapped := false, mtch := 32, mrange := 5 })).sf R.kvLayout_EN 0 1 with
       ranges := [r], ptPool := 1048576 }
     let t := s.ticket 1
     let u := State.addRef { s with kvPages := s.kvPages ++ [⟨1, 0, 0, 0, 0, some 5, 0, 0⟩] } 5 0 0 0
     t.state = 1 ∧ t.mmapped = false ∧ t.mtch * s.kvEsize 0 0 = 4096 ∧ s.rangeOf t.mrange = some r ∧ r.tier = 0 ∧ s.kvLayers t.part = [0] ∧
       s.readableMatch r t 1 32 = 32 ∧ r.pageFor (s.kvHome 0 1 0) 0 0 = some (5, g) ∧ g.addr / 0x400000000 = s.kvHome 0 1 0 ∧
       4096 * u.tablesInUse.length ≤ u.ptPool) ∧
    (let s := { up with ranges := [kept 5] }
     s.rangeOf 5 = some (kept 5) ∧ (kept 5).published = false ∧ (kept 5).expiry ≤ s.time) := by decide +kernel

/-- PrefixesAndRanges: a retained range of one page, idle past its limit, with the Urn online. -/
theorem test_range_demotion :
    let r := { kept 5 with pages := [⟨0, 0, 0, 0, 0, 0, 0⟩] }
    let s := State.sf { up with ranges := [r], time := 10 ^ 18 } R.tierStat_URN_OK 0 1
    s.rangeOf 5 = some r ∧ r.tier = 0 ∧ r.idle = true ∧ max r.lastMatch r.moved + s.dnum 0x5061 2 * 1000000000 ≤ s.time ∧ s.tierOn 1 = true ∧
      (s.rangeBytes r).isSome = true ∧ (s.allocLow 1 r.bytes).isSome = true ∧ s.ucMem = [] ∧ s.ecMem = [] := by decide +kernel

/-- Partition 0, with a tiered share of two Carafe frames and a place for page tables, at whose virtual address 0 the commands point. -/
def tiers : State :=
  let t := State.setPair { formed with ptPool := 1048576 } .trVaLo .trVaHi 0 tieredBase
  (((t.modPrt 0 (fun x => { x with tierAll := [4, 5] })).sf R.trLen_PAGES 0 1).sf R.trAttr_PSIZE 0 0).sf R.trCfg_LOWAT 0 0

/-- A page of 4 KiB at virtual address 0, in Carafe's frame 4 or in the Urn. -/
def leaf0 (tier : Nat) : Leaf := ⟨0, 0, 0, tier, false, false, false, false, 0, if tier = 0 then 0x800000 else urnBase, 0, none, none⟩
def paged (tier : Nat) : State := { tiers with leaves := [leaf0 tier] }

/-- With free frames enough, a place is found with no demotion before it. -/
theorem placeFor_enough (s : State) (p : Nat) (l : Leaf) (t f : Nat)
    (h : (t = 0 ∧ s.gf R.trCfg_LOWAT p ≤ s.freeFrames p) ∨ (t = 1 ∧ s.dnum 0x5020 4 ≤ s.freeUrn)) (hf : s.allocTier p l t = some f) :
    s.placeFor p l t = (s, some f) := by
  have hc : ∀ k, s.gf R.trCfg_LOWAT p ≤ s.freeFrames p → carafeRoom p k s = s := fun k h => by cases k <;> simp [carafeRoom, h]
  have hu : ∀ k, s.dnum 0x5020 4 ≤ s.freeUrn → urnRoom k s = s := fun k h => by cases k <;> simp [urnRoom, h]
  rcases h with ⟨rfl, h⟩ | ⟨rfl, h⟩ <;> simp [State.placeFor, hc _ , hu _, h, hf]

/-- TierCommands: MAP of a Carafe page; UNMAP, HINT and QUERY of a page, MIGRATE of one to Carafe; a page in migration. -/
theorem test_tier_commands :
    (let s := tiers
     let f := 0x800000
     let b := s.barRange 0 (s.trPages 0)
     let z : State := b.zeroMem f (s.trSize 0)
     let u : State := State.modPrt { b.overwrite f (s.trSize 0) with leaves := insLeaf { s.newLeaf 0 (s.trOff 0) with frame := f } s.leaves } 0
       (fun x => { x with trBusy := false, trRange := [] })
     s.serves .mc .trCmd 0 ∧ s.trCode .mc 0 1 = 0 ∧ s.gf R.trLen_PAGES 0 = 1 ∧ s.gf R.trAttr_TIER 0 = 0 ∧
       b.allocTier 0 (s.newLeaf 0 (s.trOff 0)) 0 = some f ∧ b.gf R.trCfg_LOWAT 0 ≤ b.freeFrames 0 ∧ f + s.trSize 0 ≤ apertureBase ∧
       4096 * u.tablesInUse.length ≤ u.ptPool) ∧
    (let s := paged 0
     s.trCode .mc 0 2 = 0 ∧ s.trCode .mc 0 4 = 0 ∧ s.trCode .mc 0 5 = 0 ∧ s.holds = [] ∧ s.trPages 0 = [0] ∧ s.migrating 0 0 = false ∧
       s.gf R.trAttr_HINT 0 ≠ 4 ∧ s.leafAt 0 (s.trOff 0) = some (leaf0 0)) ∧
    (let s := State.sf (paged 1) R.tierStat_URN_OK 0 1
     s.trCode .mc 0 3 = 0 ∧ moveFits 0 0 (s.trPages 0) (s.barRange 0 (s.trPages 0)) = true ∧ (leaf0 1).tier ≠ s.gf R.trAttr_TIER 0) ∧
    (let s := { tiers with leaves := [{ leaf0 0 with mig := some ⟨1, urnBase⟩ }] }
     s.trCode .mc 0 2 = 0 ∧ s.trCode .mc 0 4 = 0 ∧ s.trPages 0 ≠ [] ∧ s.migrating 0 0 = true) := by decide +kernel

/-- Migration: a held Pour row; a page to move up and to move down, whose lower copy stands or not; both moves under way; a MIGRATE
that has moved its pages. -/
theorem test_migration :
    (let d : PourDesc := ⟨7, tieredBase, 0x20000000000, 64 * 2 ^ 40, 0, true, [], 0⟩
     let h : Hold := ⟨0, 0, false, .pour 0 7, 0⟩
     let s := State.modFacet { tiers with holds := [h] } 0 (fun x => { x with pourQ := [d] })
     s.holds = [h] ∧ s.xferOf h.who = none ∧ (s.facet 0).pourQ.find? (fun d => decide (d.uid = 7)) = some d ∧ s.farRows d true = [] ∧
       s.farRows d false = []) ∧
    (let s := State.sf { paged 1 with moves := [⟨0, 0, 0, true, 0, false⟩] } R.tierStat_URN_OK 0 1
     s.leafOf 0 0 = some (leaf0 1) ∧ s.wanted (leaf0 1) = some 0 ∧ s.tierOn 0 = true ∧ s.tierReads 1 = true ∧
       s.allocTier 0 (leaf0 1) 0 = some 0x800000 ∧ s.gf R.trCfg_LOWAT 0 ≤ s.freeFrames 0) ∧
    (let m : Move := ⟨0, 0, 1, true, 0, false⟩
     let s := State.sf { paged 0 with moves := [m] } R.tierStat_URN_OK 0 1
     s.leafOf 0 0 = some (leaf0 0) ∧ s.moves.find? (fun m => decide (m.p = 0 ∧ m.va = 0) && !m.failed && (m.cmd || !s.commanded (leaf0 0))) = some m ∧
       s.tierOn 1 = true ∧ (leaf0 0).drops = false ∧ { leaf0 0 with lower := some (1, urnBase) }.drops = true ∧
       s.canDrop { leaf0 0 with lower := some (1, urnBase) } = true ∧ (∀ x ∈ s.moves, x.cmd = true → x.tries < 2) ∧
       (s.allocTier 0 (leaf0 0) 1).isSome = true ∧ s.dnum 0x5020 4 ≤ s.freeUrn) ∧
    (let l := { leaf0 1 with mig := some ⟨0, 0x800000⟩ }
     let s := State.sf { tiers with leaves := [l] } R.tierStat_URN_OK 0 1
     s.leafOf 0 0 = some l ∧ s.holds = [] ∧ s.bloom = [] ∧ (s.prt 0).trWait = none ∧ s.tierReads 1 = true ∧
       s.hitsOf none (BloomFor.promotion 0 0).key = [] ∧ s.ucMem = [] ∧ s.ecMem = [] ∧ (match s.leafBytes l with | .ok _ => true | _ => false) = true) ∧
    (let l := { leaf0 0 with mig := some ⟨1, urnBase⟩ }
     let s := { tiers with leaves := [l] }
     s.leafOf 0 0 = some l ∧ (s.tierRead 0 l.frame (pageBytes l.psize)).isSome = true) ∧
    (let s := tiers.modPrt 0 (fun x => { x with trBusy := true })
     (s.prt 0).trWait = none ∧ (s.prt 0).trBusy = true ∧ ∀ m ∈ s.settleMoves.moves, m.p = 0 → m.cmd = true → m.failed = true) := by decide +kernel

/-- PrefetchSchedule: a cursor and a PROMOTE entry in Carafe; a stage of one unit; the registers while the schedule is off. -/
theorem test_prefetch :
    (let s := State.sf (State.sf { paged 0 with mem := Sparse.listing zeroByte 0 (natLE 8 (2 ^ 63) ++ natLE 8 tieredBase ++ zeros 8 ++ natLE 8 (2 ^ 32)) } R.pfCtl_EN 0 1) R.pfCtl_NENT 0 1
     let s := s.setPair .pfCursorLo .pfCursorHi 0 64
     let x := s.pfEntry 0 0
     s.gf R.pfCtl_EN 0 = 1 ∧ (s.prt 0).frozen = false ∧ s.pfPlaced 0 = true ∧ s.ucMem = [] ∧ s.ecMem = [] ∧ s.gf R.pfCtl_NENT 0 = 1 ∧ s.gf R.pfStat_NEXT 0 = 0 ∧
       s.own (s.pfBase 0) = true ∧ s.pfBase 0 % 32 = 0 ∧ s.region (fgaOff (s.pfBase 0)) 32 = .carafe ∧ bit x.w0 63 = true ∧
       bits x.w0 60 45 ≤ bits (leNat (s.readMem (fgaOff (s.pfCursor 0)) 8)) 31 0 ∧ s.pfBad 0 x = false ∧ x.act = 0) ∧
    (let g : Stage := ⟨7, 0, 0, 0, 1, 0, 0⟩
     let s := State.sf { paged 1 with stages := [g] } R.tierStat_URN_OK 0 1
     s.stages = [g] ∧ (s.prt 0).frozen = false ∧ s.gf R.pfCtl_EN 0 = 0 ∧ s.bloom = [] ∧ s.leafAt 0 g.src = some (leaf0 1) ∧ s.tierReads 1 = true ∧
       (match s.leafBytes (leaf0 1) with | .ok _ => true | _ => false) = true ∧ g.dst + 4096 ≤ s.carafeSize ∧ s.hitsOf none (BloomFor.stage g.uid 0).key = [] ∧ ((s.readMem urnBase 4096).take 4096).length = 4096) ∧
    (tiers.serves .mc .pfCtl 0 ∧ tiers.gf R.pfCtl_EN 0 = 0 ∧ tiers.shadowOf .mc .pfBaseLo 0 = none ∧
      ∀ c ∈ [Card.pfBaseLo, .pfBaseHi, .pfCursorLo, .pfCursorHi], tiers.serves .mc c 0) := by decide +kernel

/-! ### States that meet the statements' hypotheses: Bloom, Hopper, weights -/

/-- Dies that R207's table allows. -/
def dies (media : Nat) : Nand := ⟨16384, 2048, List.replicate 16 [1], 8, 65536, 3000, List.replicate 16 3600, true, true, media, 0, [3], false⟩

/-- BloomAndHopper: an expansion of a segment in Carafe; its end; a mount that is refused and one that is not; FORMAT, SCAN and FORMAT's end. -/
theorem test_bloom_and_hopper :
    (let s := up.setPair .blmDstLo .blmDstHi 0 4096
     let h := s.readMem 0 64
     s.serves .mc .blmCmd 0 ∧ s.pair .blmSrcLo .blmSrcHi 0 % 64 = 0 ∧ s.pair .blmDstLo .blmDstHi 0 = 4096 ∧ s.plain 0 64 = true ∧
       s.plain 0 (max 64 (tampBodylen h)) = true ∧ s.plain 4096 (s.rd .blmDstlen 0).toNat = true ∧
       overlap (0, max 64 (tampBodylen h)) (4096, (s.rd .blmDstlen 0).toNat) = false ∧ s.blmJob = none ∧ s.bloom = []) ∧
    (let s := { up with blmJob := some (0, 4096, 4096) }
     s.bloomWaits .expand = false ∧ s.hitsOf none 0 = [] ∧ s.ucMem = [] ∧ s.ecMem = []) ∧
    (let s := up.sf R.hopStat_STATE 0 1
     s.hopState = 1 ∧ s.flash.nand.dies = 0 ∧ s.rd .regoLatch 0 = 0 ∧ Nand.none.refusal Nand.none.trained ≠ 0 ∧ (dies 1).trained = 65535 ∧
       s.flash.retired = 0 ∧ (dies 1).refusal 65535 = 0 ∧ (dies 1).fits = true ∧ s.flash.unformed = false) ∧
    (let s := up.sf R.hopStat_STATE 0 2
     s.serves .mc .hopCmd 0 ∧ s.hopState = 2 ∧ (∀ l ∈ s.leaves, l.tier ≠ 2) ∧ ∀ x ∈ s.ranges, x.tier ≠ 2) ∧
    (let s := (((up.modFlash (fun f => { f with nand := dies 1, unformed := true })).sf R.hopStat_STATE 0 1).sf R.hopStat_CH_OK 0 65535).sf
       R.hopCmd_STATUS 0 1
     s.hopState = 1 ∧ s.flash.nand.dies ≠ 0 ∧ s.flash.unformed = true ∧ s.gf R.hopStat_CH_OK 0 = 65535 ∧ s.gf R.hopCmd_STATUS 0 = 1 ∧
       1 < s.flash.nand.allBlocks ∧ s.isDump 0 = false ∧ (s.blk 0).bad = false ∧ 0 ∉ s.flash.nand.factory ∧ 3 ∈ s.flash.nand.factory) := by decide +kernel

/-- Flash with unit 9 in block 0, which is full and has been read beyond its limit. -/
def flashed : State :=
  ((up.sf R.hopStat_CH_OK 0 65535).modFlash (fun f => { f with nand := dies 1, placed := [⟨9, 0, 0⟩] })).modBlk 0 (fun x => { x with fill := 65536, reads := 10 ^ 9, erases := 10 ^ 6 })

/-- FlashEvents: a unit that moves; a block with a valid unit, in a pass of SCAN or not, to be moved; a full block without one; a
block that fails; a channel to retire. -/
theorem test_flash_events :
    (let s := flashed.modFlash (fun f => { f with moving := [(9, 1)] })
     s.flash.moving.find? (fun m => m.1 == 9) = some (9, 1) ∧ s.flash.placed.find? (fun x => x.unit == 9) = some ⟨9, 0, 0⟩) ∧
    (let s := flashed
     s.unitsOf 0 = 9 :: [] ∧ s.hopLost.contains 9 = false ∧ s.flash.scan.contains 0 = false ∧ s.freeBlock.isSome = true ∧ s.closeBands.freeBlock.isSome = true ∧
       s.dnum 0x5040 4 ≤ (s.blk 0).reads ∧ (s.blk 0).fill ≠ 0 ∧ (s.blk 0).bad = false ∧ (s.blk 0).due = 0 ∧ (∀ o ∈ s.closeBands.flash.opens, o.2 ≠ 0) ∧
       0 < s.flash.nand.dies ∧ s.flash.nand.has 0 = true) ∧
    (let s := (((flashed.modFlash (fun f => { f with scan := [0] })).sf R.hopCmd_STATUS 0 1).sf R.hopCmd_LAST 0 2)
     s.flash.scan = [0] ∧ s.gf R.hopCmd_STATUS 0 = 1 ∧ s.gf R.hopCmd_LAST 0 = 2) ∧
    (let s := flashed
     let bs := (s.dieBlocks 0).filter (fun b => !(s.blk b).bad && !s.isDump b)
     let es := bs.map (fun b => (s.blk b).erases)
     bs ≠ [] ∧ 5 * s.dnum 0x5040 5 * bs.length < (es.foldl max 0 * bs.length - es.foldl (· + ·) 0) * 100 ∧ bs.filter (fun b => (s.blk b).fill != 0) = 0 :: []) ∧
    (let s := flashed.modFlash (fun f => { f with placed := [] })
     s.unitsOf 0 = [] ∧ (s.blk 0).fill ≠ 0 ∧ (s.blk 0).bad = false ∧ s.isDump 0 = false ∧ (∀ o ∈ s.flash.opens, o.2 ≠ 0) ∧
       0 < s.flash.nand.allBlocks) ∧
    bit ((up.sf R.hopStat_CH_OK 0 65535).gf R.hopStat_CH_OK 0) 15 = true := by decide +kernel

/-- A load job of partition 0, reader and member, whose staging area is this package's own Carafe. -/
def job (phase : Nat) : Job :=
  ⟨3, 1, true, true, false, 0, 0, 1, 0, 0, 0x100000, 0, 0, 1, 1, 0, 0, 0, 0, 0, 1, 0, 1, 0, [], false, 0, phase, 0⟩

/-- The header of the job's one chunk: 64 bytes, plain, for every member, to Carafe. -/
def chunkHead : List Byte :=
  [0x6C57 + 2 ^ 16 + 64 * 2 ^ 32, 2 ^ 32, 2 ^ 32, 0, 0x80000, 0, 0, 0].flatMap (natLE 8)

/-- WeightCommands: a generation and an adapter slot that stand; jobs of which one part runs; the lead of a partition. -/
theorem test_weight_commands :
    up.serves .mc .ldrCmd 0 ∧ up.jobOf 0 = none ∧ up.genOf 0 1 = none ∧ up.aslotOf 0 1 = none ∧ up.isLead 0 = false ∧
    (∀ a ∈ formed.activations, a.p ≠ 0) ∧ formed.isLead 0 = true ∧
    (let s := { up with jobs := [{ job 1 with rstate := 2 }] }
     (s.jobOf 3).map (fun j => (j.mstate, j.rstate)) = some (1, 2)) ∧
    (let s := { up with jobs := [{ job 0 with mstate := 2, stage := 2 ^ 49 }] }
     (s.jobOf 3).map (fun j => (j.mstate, j.rstate, s.own j.stage)) = some (2, 1, false)) ∧
    (let s := { up with gens := [⟨0, 0, 1, 0, 0, [(4096, 128)], [], [], 0, false, []⟩] }
     (s.genOf 0 1).map (fun g => (g.role, g.pages, g.ranges)) = some (0, [], [(4096, 128)]) ∧ s.jobs = [] ∧ 4096 + 128 ≤ apertureBase) := by decide +kernel

/-- WeightTransfers: the reader's next chunk and a slot it waits for; the member's entry and its chunk, which passes the check; a swap
on another package's staging area; a load without progress. -/
theorem test_weight_transfers :
    (let j := job 1
     let s := { up with jobs := [j], host := Sparse.blit zeroByte (Sparse.listing zeroByte 0 (natLE 8 0x1000 ++ natLE 4 192)) 0x1000 chunkHead }
     s.jobOf 3 = some j ∧ j.rnext < j.nchunk ∧ s.ucMem = [] ∧ j.slots = [] ∧ s.own j.stage = true ∧
       readerOk j (s.readHost (leNat (s.readHost j.clist 8)) 64) (leNat (s.readHost (j.clist + 8) 4)) = true) ∧
    (let j := { job 1 with slots := [(0, 0, 0)] }
     let s := { up with jobs := [j], mem := Sparse.listing zeroByte 0x100010 (natLE 8 1) }
     s.jobOf 3 = some j ∧ s.slotDone j 0 = false) ∧
    (let s := { formed with
       jobs := [job 2]
       mem := Sparse.blit zeroByte (Sparse.listing zeroByte 0x100000 (natLE 8 1 ++ natLE 8 (2 ^ 32))) 0x101000 chunkHead }
     let h := s.readMem 0x101000 64
     s.jobOf 3 = some (job 2) ∧ s.xferIdle (.job 3) = true ∧ s.own (job 2).stage = true ∧ chPlen h = 64 ∧
       bits (leNat (s.readMem 0x100000 8)) 31 0 = 1 ∧ bit (leNat (s.readMem 0x100000 8)) 32 = false ∧ chNames h 0 = true ∧ s.loadOf (job 2) = none ∧
       s.bloomWaits (.load 3) = false ∧ (job 2).p < 16 ∧ s.ucMem = [] ∧ s.chunkCheck (job 2) h = 0 ∧ chKind h = 0 ∧ chSpace h = 0 ∧ chDst h = 0x80000 ∧ s.shadowsOn = false ∧
       bits (leNat (s.readMem 0x100008 8)) 63 32 = 1) ∧
    (let s := { up with jobs := [{ job 4 with stage := 2 ^ 49 }] }
     (s.jobOf 3).map (fun j => (j.phase, j.mstate, s.own j.stage)) = some (4, 1, false) ∧ s.xferIdle (.job 3) = true) ∧
    (let s := { up with jobs := [{ job 3 with stage := 2 ^ 49 }] }
     (s.jobOf 3).map (fun j => (j.phase, s.own j.stage)) = some (3, false) ∧ s.xferIdle (.job 3) = true ∧ s.xferStatus (.job 3) = 0) := by
  decide +kernel

/-- WeightSwitch: an activation to be checked, of a generation that stands or does not; a generation that drains without a limit. -/
theorem test_weight_switch :
    (let s := { up with activations := [⟨0, 1, false, true⟩] }
     s.adopting 0 = false ∧ ¬ (s.genOf 0 1).isSome) ∧
    (let s := { up with time := 10 ^ 18, gens := [⟨0, 0, 1, 0, 2, [], [], [], 0, false, []⟩] }
     (s.gens.map (fun g => (g.p, g.role))) = [(0, 2)] ∧ (s.setN 0x6100 5 0).dnum 0x6100 5 = 0 ∧ 0 + s.dnum 0x6100 6 * 1000000000 ≤ s.time) := by
  decide +kernel

/-! ### States that meet the statements' hypotheses: the Ticket rail and its steps -/

/-- A request header of an operation, for partition 0, with PLEN 1. -/
def hdr (op : Nat) : ReqHdr := ⟨BitVec.ofNat 64 (0x7C5E + 2 ^ 16 + op * 2 ^ 20), if op = 1 then 1 else 0, 0, 0, 77, 0, 0, 0⟩

/-- Partition 0 with an active generation, no prefix cache. -/
def serving : State := { formed with gens := [⟨0, 0, 1, 0, 1, [], [], [], 0, false, []⟩] }.setN 0x6090 2 0

/-- RailRings: ring registers within and beyond their rings; a ring that is enabled or not; an interrupt that is due; entries that wait. -/
theorem test_rail_rings :
    (let s := up
     Requester.pf.ok = true ∧ (0xFF : Nat) % 16 = 15 ∧ s.serves .pf .tktSqTail 0 ∧ s.serves .pf .tktCqHead 0 ∧ s.serves .pf .tktQcfg 0 ∧
       s.serves .pf .tktSqBaseLo 0 ∧ s.serves .pf .tktSqBaseHi 0 ∧ s.serves .pf .tktCqBaseLo 0 ∧ s.serves .pf .tktCqBaseHi 0 ∧
       s.gf R.tktQptr_SQ_HEAD 0 = 0 ∧ s.sqSize 0 < 65535 ∧ s.cqUsed 0 = 0 ∧ (s.ring 0).waiting = [] ∧ s.gf R.tktQcfg_EN 0 = 0 ∧
       s.shadowOf .pf .tktSqBaseLo 0 = none) ∧
    (let s := ((up.sf R.tktQcfg_EN 0 1).sf R.tktQcfg_CQ_SIZE 0 4).modRing 0 (fun x => { x with irqDue := true, sqTail := 3 })
     (s.ring 0).irqDue = true ∧ s.gf R.tktQcfg_EN 0 = 1 ∧ s.gf R.tktQptr_SQ_HEAD 0 ≠ (s.ring 0).sqTail ∧ s.cqFree 0 ≠ 0) ∧
    rqOp (hdr 1) = 1 ∧ rqOp (hdr 2) = 2 ∧ rqOp (hdr 3) = 3 ∧ rqPlen (hdr 1) = 1 := by decide +kernel

/-- RailTickets: a request that the lead serves at once; a retired ticket whose END can leave. -/
theorem test_rail_tickets :
    (let s := serving
     let e := Entry.func 0
     let h := hdr 1
     e.ok = true ∧ rqBad h 1 false = false ∧ rqPlen h = 1 ∧ s.clientBad e h = false ∧ s.leadOf 0 ≠ 0xFFFF ∧ s.isLead 0 = true ∧
       s.duplicate e h = none ∧ s.admitCode h = 0 ∧ s.dnum 0x6090 2 = 0 ∧ s.radix = [] ∧ s.ranges = [] ∧ s.freeTickets 0 ≠ [] ∧
       s.ucVertex = [] ∧ s.running 0 < s.runMax 0 ∧ s.inState 0 1 = [] ∧ ¬(2 ≤ s.pstate 0 ∧ s.pstate 0 ≤ 5) ∧ rq h 2 63 0 = 0) ∧
    (let s := serving.modPrt 0 (fun x => { x with tcount := 1 })
     s.freeTickets 0 = [0] ∧ s.running 0 < s.runMax 0) ∧
    (let s := serving.modTicket 0 (fun x => { x with state := 4, endDue := true, entry := .remote ⟨7, 0, 0, 0, 0⟩ })
     (s.ticket 0).state = 4 ∧ s.isLead (s.ticket 0).part = true ∧ s.inStep ((s.ticket 0).handle 0) = false ∧ s.publishDue 0 = false ∧
       (s.ticket 0).release = false ∧ (s.ticket 0).endDue = true ∧ (s.ticket 0).silent = false ∧ (s.ticket 0).entry = .remote ⟨7, 0, 0, 0, 0⟩) := by
  decide +kernel

/-- RailRequests: well-formed and ill-formed requests, a client that may not, another lead or none, a ticket to cancel or to query, a
repeated SUBMIT, a request that was forwarded. -/
theorem test_rail_requests :
    (let s := serving.modTicket 0 (fun x => { x with state := 2, gen := 1, reqid := 77, entry := .func 0 })
     let h := { hdr 2 with w6 := BitVec.ofNat 64 (handleOf 1 0 0) }
     rqBad h 2 false = false ∧ s.clientBad (.func 0) h = false ∧ s.handleCode (rqHnd h) = 0 ∧ s.mayCancel (.func 0) (s.ticket 0) = true ∧
       s.mayCancel (.func 3) (s.ticket 0) = false ∧ (s.ticket 0).cancel = false ∧ (s.ticket 0).gend = [] ∧ s.retired = [] ∧
       s.handleCode (handleOf 2 0 0) ≠ 0 ∧ rqBad { hdr 3 with w6 := h.w6 } 3 false = false ∧ ((s.modTicket 0 (fun x => { x with entry := .remote ⟨7, 1, 0, 0, 0⟩ })).duplicate (.remote ⟨7, 1, 0, 0, 0⟩) (hdr 1)).isSome = true) ∧
    (∀ op ∈ [1, 2, 3], rqBad { hdr op with w0 := 0 } op false = true ∧ serving.clientBad (.func 3) (hdr op) = true) ∧
    (serving.setN 0x6002 1 0xFFFF).leadOf 0 = 0xFFFF ∧ ((serving.setN 0x6002 1 9).leadOf 0 ≠ 0xFFFF ∧ (serving.setN 0x6002 1 9).isLead 0 = false ∧ serving.idValid = true ∧ up.idValid = false ∧ serving.ucVertex = []) ∧
    formed.admitCode (hdr 1) ≠ 0 ∧
    (let x : Kept := ⟨.func 0, hdr 1, [5], 0, 0, false, true, 0, false, []⟩
     { formed with kept := [x] }.adopting x.part = false ∧ x.due = true) := by decide +kernel

/-- RailFront: ports that serve, with an IPv4 and an IPv6 address; a request whole in one datagram or in more; a reassembly that expires. -/
theorem test_rail_front :
    up.frontUp = true ∧
    (let s := up.setD 0x6020 2 (.oct (zeros 10 ++ [0xFF, 0xFF, 10, 0, 0, 1]))
     isV4 (s.frontAddr 0) = true ∧ s.frontAddr 0 ≠ 0 ∧ s.frontAddr 0 % 2 ^ 32 = 0x0A000001) ∧
    (let s := up.setD 0x6020 2 (.oct ([0x20] ++ zeros 14 ++ [1]))
     isV4 (s.frontAddr 0) = false ∧ s.frontAddr 0 ≠ 0) ∧
    (let h := { hdr 1 with w5 := 2 ^ 32 }
     rqOp h = 1 ∧ rqBad h 1 true = false ∧ rq h 5 47 32 = 1 ∧ rq h 5 31 0 = 0 ∧ rqPlen h = 1 ∧ rqBad { h with w1 := 2 } 1 true = false) ∧
    (0 + up.dnum 0x6020 4 * 1000000 ≤ 10 ^ 18) := by decide +kernel

/-- StepBoundaries: a boundary whose step start waits, held by the policy or not; one with a cancelled ticket; another package's report. -/
theorem test_step_boundaries :
    (let s := State.setN (formed.modRail 0 (fun r => { r with waiting := true })) 0x6080 1 0
     s.boundaryOpen 0 = true ∧ s.ucVertex = [] ∧ (s.rail 0).waiting = true ∧ s.arcHold 0 = false) ∧
    (let s := State.setN (State.sf (formed.modRail 0 (fun r => { r with waiting := true })) (boundsFld 5) (unitIdx 5) 1) 0x6080 1 1
     s.boundaryOpen 0 = true ∧ s.arcHold 0 = true) ∧
    (let s := formed.modTicket 4 (fun x => { x with state := 2, part := 0, cancel := true })
     s.boundaryOpen 0 = true ∧ (s.rail 0).waiting = false ∧ (s.rail 0).replay = [] ∧ (s.rail 0).running = false ∧ s.tickets = [(4, s.ticket 4)] ∧
       (s.ticket 4).cancel = true ∧ s.gens = [] ∧ s.activations = [] ∧ s.saltDue = [] ∧ s.radix = [] ∧ s.ranges = []) ∧
    (let s := State.setN (formed.modRail 0 (fun r => { r with running := true })) 0x6002 1 9
     s.isLead 0 = false ∧ s.pstate 0 = 1 ∧ (s.rail 0).running = true) := by decide +kernel

/-- StepStartAndDone: the lead's own message, with slots in and out of the share; a mirror's slot that is free; a step under way. -/
theorem test_step_start :
    (let s := formed.modRail 0 (fun r => { r with headerDue := true })
     s.pstate 0 = 1 ∧ (s.prt 0).frozen = false ∧ s.isLead 0 = true ∧ (s.rail 0).headerDue = true ∧ (s.rail 0).now.decode = [] ∧
       (s.rail 0).now.prefill = [] ∧ (s.rail 0).arrive = none ∧ s.ucMem = []) ∧
    (let s := formed.setN 0x6002 1 9
     s.isLead 0 = false ∧ (s.prt 0).haltDue = [] ∧ (s.prt 0).tbase ≤ hSlot (handleOf 1 15 0) ∧
       hSlot (handleOf 1 15 0) < (s.prt 0).tbase + (s.prt 0).tcount ∧ ¬ hSlot (handleOf 1 16 0) < (s.prt 0).tbase + (s.prt 0).tcount ∧
       (s.ticket 15).state = 0 ∧
       (let e : StepEntry := ⟨handleOf 1 15 0, 0, 1, 0, false, true, 0⟩
        (s.takeStep 0 ⟨1, 1, 0, [e], [], [], 0⟩ 1 0 [(15, { Ticket.blank with state := 2, part := 0, gen := 1 })] []).2 = [])) ∧
    (let s := formed.modRail 0 (fun r => { r with running := true })
     s.isLead 0 = true ∧ s.pstate 0 = 1 ∧ (s.rail 0).running = true ∧ (s.rail 0).headerDue = false ∧
       s.ucAt ((s.prt 0).stepFrame * 0x200000 + 0x90000) 8 = [] ∧ leNat (s.readMem ((s.prt 0).stepFrame * 0x200000 + 0x90000) 8) = (s.rail 0).step ∧
       0 ≠ ((s.modRail 0 (fun r => { r with step := 3 })).rail 0).step) := by decide +kernel

/-! ### States that meet the statements' hypotheses: partitions, the fabric, copies -/

/-- PartitionCommands: a free partition whose registers describe a shape that can be formed, or not; one that runs and is commanded here
or elsewhere; one that is saved; one whose reset ends. -/
theorem test_partition_commands :
    (let s := ((up.sf R.partTickets_TCOUNT 0 16).wr .partShape 0 0x0F0F).wr .partDrip 0 1
     s.serves .mc .partCmd 0 ∧ (s.prt 0).busy = 0 ∧ s.asleep = false ∧ s.pstate 0 = 0 ∧ s.formBad 0 = false ∧ up.formBad 0 = true ∧
       (let fs := (List.range s.facetCount).filter (fun f => s.inRect (s.rd .partShape 0).toNat f)
        let es := engineList (s.rd .partDrip 0).toNat
        s.formOverlap 0 fs es = false)) ∧
    (formed.adopting 0 = false ∧ formed.pstate 0 = 1 ∧ formed.commands 0 = true ∧ (formed.setN 0x6002 1 9).commands 0 = false) ∧
    (let s := formed.sf R.partStat_STATE 0 4
     s.commands 0 = true ∧ s.pstate 0 = 4) ∧
    (∀ k ∈ [0, 2, 5], let s := (formed.sf R.partStat_STATE 0 6).modPrt 0 (fun x => { x with busy := k })
      s.pstate 0 = 6 ∧ (s.prt 0).busy = k) := by decide +kernel

/-- PartitionFreeze: a partition in each state of a preemption and of a restore. -/
theorem test_partition_freeze :
    (let s := formed.modPrt 0 (fun x => { x with busy := 3 })
     let c := (s.partGroups 0).foldl (fun (t : State) g => t.closeCycle g) s
     c.pstate 0 = 1 ∧ (c.prt 0).busy = 3 ∧ (c.rail 0).waiting = false ∧ (c.rail 0).headerDue = false ∧
       (∀ g ∈ c.partGroups 0, c.cycleWhole g = true) ∧ 0 ∈ s.facetsOf 0) ∧
    (let s := formed.modRail 0 (fun r => { r with waiting := true })
     ((((s.partGroups 0).foldl (fun (t : State) g => t.closeCycle g) s).rail 0).waiting = true)) ∧
    (∀ k ∈ [2, 3, 5], (formed.sf R.partStat_STATE 0 k).pstate 0 = k ∧ (formed.sf R.partStat_STATE 0 k).ops = [] ∧
      (formed.sf R.partStat_STATE 0 k).takenOf 32 = [] ∧ ((formed.sf R.partStat_STATE 0 k).prt 0).image = none) ∧
    (let s := (formed.sf R.partStat_STATE 0 5).modPrt 0 (fun x => { x with image := some (formed.image 0), busy := 4 })
     (s.prt 0).image.isSome = true ∧ s.pstate 0 = 5 ∧ (s.prt 0).busy = 4) ∧
    (formed.sf R.partStat_STATE 0 2).prt 0 = { formed.prt 0 with quiesced := false } := by decide +kernel

/-- PartitionHaltAndMap: a halt that is due; access-map registers that a requester may write. -/
theorem test_partition_halt :
    (let s := (formed.modPrt 0 (fun x => { x with haltDue := [5] })).setN 0x6002 1 9
     (s.prt 0).haltDue = [5] ∧ s.pstate 0 = 1 ∧ s.gf R.partStat_HALT 0 = 0 ∧ s.isLead 0 = false) ∧
    (∀ c ∈ [Card.partAmapCtl, .partAmapLo, .partAmapHi], up.serves .mc c 127 ∧ up.shadowOf .mc .partAmapLo 127 = none) ∧
    up.amapOk 15 7 = true := by decide +kernel

/-- A link: port 3 in a state. -/
def link (st : Nat) : State := formed.sf R.fmfPortStat_STATE 3 st

/-- FabricPorts: a port in each state of its bring-up, native or not; this package's claim against a newer and an older one. -/
theorem test_fabric_ports :
    (∀ st ∈ [0, 1, 2, 3], (link st).pst 3 = st) ∧ (link 0).ready = true ∧ (link 4).portUp 3 = true ∧ (link 4).gf R.fmfPortStat_MODE 3 = 0 ∧
    (link 1).fatalNow = false ∧ (link 1).portMode 3 < 2 ∧ (∀ o ∈ (link 4).ops, o.port ≠ some 3) ∧
    ((link 4).sf R.fmfPortStat_MODE 3 1).gf R.fmfPortStat_MODE 3 = 1 ∧ ((link 4).sf R.fmfPortStat_MACSEC 3 1).gf R.fmfPortStat_MACSEC 3 = 1 ∧
    up.serves .mc .fmfPortStat 3 ∧ formed.idValid = true ∧ formed.adoption = none ∧ epochNewer (formed.epoch + 1) formed.epoch = true ∧
    epochNewer formed.epoch formed.epoch = false ∧ bit (BitVec.ofNat 32 (2 ^ 26) &&& byteMask 15).toNat 26 = true := by decide +kernel

/-- What surrounds a frame that the association of port 3 accepts. -/
def wire : Wire := ⟨0, 0, none, 0, 1, true⟩

/-- A frame of an operation to package 0, of 8 bytes at offset 4096 under key 9. -/
def frame (op aop : Nat) (payload : List Byte) : Frame :=
  { mkFrame (frameHead op false false false 1 8 aop 0 0) 0 9 4096 payload with sec := true, wire := wire }

/-- FabricTarget: a region entry of key 9 with every right over the first 2 MiB, and a frame of each operation that passes the checks. -/
theorem test_fabric_target :
    let g : Ent := ⟨2 ^ 63 + 15 * 2 ^ 59, 511, 9, 0⟩
    let s := { link 4 with tables := [(0, g)] }
    (∀ f ∈ [frame 1 0 [], frame 4 0 [], frame 2 0 (zeros 8), frame 5 0 (zeros 8)] ++ (List.range 9).map (fun k => frame 3 k (zeros 8)) ++
        [frame 3 9 (zeros 16)],
      s.portUp 3 = true ∧ f.wire.fcs = true ∧ s.macOk 3 f.wire f.sec = true ∧ s.idValid = true ∧ fld f.w1 30 16 = s.pkg ∧ fld f.w0 63 48 = s.epoch ∧ frameOk f = true ∧
        s.regionFor f.w2.toNat = some g ∧ bits g.w0 48 0 ≤ frOff f ∧ frOff f + frLen f ≤ bits g.w0 48 0 + (bits g.w1 36 0 + 1) * 4096 ∧
        bit g.w0 (rightBit (frOp f)) = true ∧ frOff f + frLen f ≤ s.carafeSize - s.ptPool) ∧
    s.power.sleep ≠ 2 ∧ s.ucMem = [] ∧ s.ecMem = [] ∧ s.ucVertex = [] ∧ s.weightRanges = [] ∧ s.rivals [(4096, 8)] = [] ∧
    (let t := { s with gens := [⟨0, 0, 1, 0, 1, [(4096, 128)], [], [], 0, false, []⟩] }
     ∃ y ∈ t.weightRanges, overlap (4096, 8) y = true) := by decide +kernel

/-- A load of a Pour that waits for its answer on port 3. -/
def op0 : FabOp := ⟨1, .pour 0 7, 1, some 3, 5, 1, 2, 4096, 64, 0, false, 0, [], false, 0⟩
def waiting (o : FabOp) : State := { link 4 with ops := [o], xfers := [⟨.pour 0 7, [], 0, [], [], false⟩] }

/-- FabricIssuer: an answer that nothing waits for, one to a load, an operation to make again within the limit or beyond; a route set that
changes; an operation not yet sent. -/
theorem test_fabric_issuer :
    (let f : Frame := { mkFrame (frameHead 0x20 false false false 0 64 0 5 0) 0 0 4096 (zeros 64) with sec := true, wire := wire }
     (link 4).ops = [] ∧ (link 4).portUp 3 = true ∧ f.wire.fcs = true ∧ (link 4).macOk 3 f.wire f.sec = true ∧ (link 4).idValid = true ∧
       answerOk op0 f = true ∧ fld f.w1 30 16 = (link 4).pkg ∧ frOp f = 0x20 ∧ frStatus f = 0 ∧ op0.tag = frTag f) ∧
    (let s := waiting op0
     s.ops = [op0] ∧ s.xfers.map (fun x => (decide (x.who = op0.who), x.stores, x.status)) = [(true, [], 0)]) ∧
    (let o := { op0 with retry := true, entry := 1003 }
     let s := waiting o
     s.reissues o = false ∧ { s with tearAt := some 0 }.reissues o = true ∧ s.portUp (s.opPort o) = true) ∧
    (let s := link 4
     let t := s.setD 0x4002 1 (.oct ([2, 0, 5, 0, 8, 0, 0] ++ zeros 9))
     t.routePending 1 = true ∧ t.ops = []) := by decide +kernel

/-- FabricTables: the entry command is served, with entries of each kind within and beyond the tables. -/
theorem test_fabric_tables : formed.serves .mc .fmfEntCmd 0 ∧ (4095 < 4096 ∧ 255 < 256) := by decide +kernel

/-- A copy of 64 bytes within the step region of partition 0. -/
def copyWords : List Nat := [2 ^ 60, 0x90000, 0x80000, 64]

/-- CopyDescriptors: copies and a NOP that may start or fail, a copy whose bytes can move, a reduced chunk that waits. -/
theorem test_copy_descriptors :
    (∀ w ∈ [[0], [2 ^ 60, 0, 0x80000, 64], [2 ^ 60], [2 * 2 ^ 60]], let s := holding formed 32 (desc w false)
     s.takenOf 32 = [desc w false] ∧ s.copiesRunning < 64 ∧ s.gf R.fmfCqStat_STATE 0 = 1 ∧ s.fatalNow = false ∧ s.copyWaits 0 (desc w false) = false) ∧
    (copyUnused (desc [0] false) = false ∧ formed.facetOfDomain (some 0) (dCfacet (desc [0] false)) = true ∧ copyUnused (desc [1] false) = true) ∧
    (let d := desc [2 ^ 60, 0, 0x80000, 64] false
     let s := holding formed 32 d
     s.copyCheck 0 d = (false, []) ∧ s.copyHeld 0 d = [] ∧ s.own (qSrc d) = true ∧ s.own (qDst d) = true) ∧
    (∀ k ∈ [1, 2], (holding formed 32 (desc [k * 2 ^ 60] false)).copyCheck 0 (desc [k * 2 ^ 60] false) = (true, [])) ∧
    (let d := desc [2 ^ 60, 0, 0x80000, 64] true
     let s := holding formed 32 d
     s.fatalNow = false ∧ d.aborted = false ∧ (s.prt 0).image = none ∧ s.unwaited = [] ∧
       s.takenOf 32 = [d] ∧ dKind d = 1 ∧ s.copyHeld 0 d = [] ∧ s.xferOf (.copy 0 d.uid) = none ∧ s.xferIdle (.copy 0 d.uid) = true ∧
       s.own (qSrc d) = true ∧ s.own (qDst d) = true ∧ 0 < qLen d ∧ qSrc d % 4096 + qLen d ≤ 4096 ∧ qDst d % 4096 + qLen d ≤ 4096 ∧
       fgaOff (qSrc d) + qLen d ≤ tieredBase ∧ fgaOff (qDst d) + qLen d ≤ tieredBase ∧ s.region (fgaOff (qSrc d)) (qLen d) ≠ .none ∧
       s.region (fgaOff (qDst d)) (qLen d) ≠ .none ∧ shared [(fgaOff (qSrc d), qLen d)] [(fgaOff (qDst d), qLen d)] = [] ∧ s.ucMem = [] ∧ s.ecMem = []) ∧
    (let d := desc [2 * 2 ^ 60, 0, 0x80000, 64] true
     let o : FabOp := ⟨1, .copy 0 7, 1, some 3, 0, 6, 2, 0, 64, 9, false, 0, [], false, 0⟩
     let s := holding { link 4 with ops := [o] } 32 d
     let f : Frame := { mkFrame (frameHead 7 false false false 0 64 0 0 0) 0 9 0 (zeros 64) with sec := true, wire := wire }
     s.takenOf 32 = [d] ∧ s.ops = [o] ∧ s.xfers = [] ∧ s.holds = [] ∧ o.who = .copy 0 d.uid ∧ (s.prt 0).image = none ∧ s.portUp 3 = true ∧
       f.wire.fcs = true ∧ s.macOk 3 f.wire f.sec = true ∧ s.gf R.fmfPortStat_MODE 3 = 0 ∧ frameBase f = true ∧ frLen f = o.len ∧
       f.payload.length = o.len ∧ frOp f = 7 ∧ o.key = f.w2.toNat ∧
       o.off % 65536 = fld f.w3 15 0 ∧ frStatus f = 0 ∧ s.region (fgaOff (qDst d + o.pos)) o.len ≠ .none ∧
       fgaOff (qDst d + o.pos) + o.len ≤ tieredBase) :=
  ⟨by decide +kernel, by decide +kernel, by decide +kernel, by decide +kernel, by decide +kernel, by decide +kernel⟩

/-- CopyRingsAndTime: a copy ring stopped or running, empty or not; a ring well placed; fabric time locked or not. -/
theorem test_copy_rings :
    (formed.serves .mc .fmfCqCmd 0 ∧ formed.gf R.fmfCqStat_STATE 0 = 0) ∧
    (∀ c ∈ [Card.fmfCqRingLo, .fmfCqRingHi, .fmfCqCfg, .fmfCqHead], formed.serves .mc c 0 ∧ formed.shadowOf .mc .fmfCqRingLo 0 = none) ∧
    (let s := formed.sf R.fmfCqStat_STATE 0 1
     s.gf R.fmfCqStat_STATE 0 ≠ 0 ∧ s.takenOf 32 = []) ∧
    (let s := holding formed 32 (desc [2 ^ 60] true)
     s.gf R.fmfCqStat_STATE 0 ≠ 0 ∧ s.takenOf 32 = [desc [2 ^ 60] true]) ∧
    ((shadowed formed .fmfCqRingLo 0).shadowOf .mc .fmfCqRingLo 0).map (fun x => x.write) = some true ∧
    (let s := (link 4).modLink 3 (fun l => { l with ptp := true })
     s.portUp 3 = true ∧ wire.fcs = true ∧ s.macOk 3 wire true = true ∧ s.ptpPort = some 3 ∧ (link 4).ptpPort ≠ some 3 ∧ s.everLocked = false) := by decide +kernel

/-! ### A valid dump -/

theorem crcBit_lt (c : Nat) (h : c < 2 ^ 32) : crcBit c < 2 ^ 32 := by
  unfold crcBit
  split
  · exact Nat.xor_lt_two_pow (by omega) (by decide)
  · omega

theorem crcByte_lt (c : Nat) (b : Byte) (h : c < 2 ^ 32) : crcByte c b.toNat < 2 ^ 32 := by
  unfold crcByte
  iterate 8 apply crcBit_lt
  exact Nat.xor_lt_two_pow h (by have := b.isLt; omega)

theorem crc32c_lt (bs : List Byte) : crc32c bs < 2 ^ 32 := by
  have h : ∀ (l : List Byte) (c : Nat), c < 2 ^ 32 → l.foldl (fun c b => crcByte c b.toNat) c < 2 ^ 32 := by
    intro l
    induction l with
    | nil => exact fun _ h => h
    | cons x t ih => exact fun c h => ih _ (crcByte_lt c x h)
  exact Nat.xor_lt_two_pow (h bs _ (by decide)) (by decide)

/-- `u` with a dump area that closes with a record of its header's bytes. -/
def closeDump (u : State) : State :=
  let m := Sparse.blit u.memD u.mem closingAt (natLE 4 0x444F4E45)
  { u with mem := Sparse.blit u.memD m (closingAt + 4) (natLE 4 (crc32c (u.readMem dumpBase 4096))) }

theorem closeDump_valid (u : State) : (closeDump u).dumpValid = true := by
  have h1 : (closeDump u).readMem closingAt 4 = natLE 4 0x444F4E45 :=
    (Sparse.gets_blit_other _ _ _ _ _ _ (.inl (Nat.le_refl _))).trans (Sparse.gets_blit _ _ _ (natLE 4 0x444F4E45))
  have h2 : (closeDump u).readMem (closingAt + 4) 4 = natLE 4 (crc32c (u.readMem dumpBase 4096)) := by
    have := Sparse.gets_blit u.memD (Sparse.blit u.memD u.mem closingAt (natLE 4 0x444F4E45)) (closingAt + 4)
      (natLE 4 (crc32c (u.readMem dumpBase 4096)))
    rwa [natLE_length] at this
  have h3 : (closeDump u).readMem dumpBase 4096 = u.readMem dumpBase 4096 :=
    (Sparse.gets_blit_other _ _ _ _ _ _ (.inl (by decide))).trans (Sparse.gets_blit_other _ _ _ _ _ _ (.inl (by decide)))
  have h4 : leNat (natLE 4 0x444F4E45) = 0x444F4E45 := by decide
  have h5 : leNat (natLE 4 (crc32c (u.readMem dumpBase 4096))) = crc32c (u.readMem dumpBase 4096) :=
    (leNat_natLE _ _).trans (Nat.mod_eq_of_lt (crc32c_lt _))
  unfold State.dumpValid
  rw [h1, h2, h3, h4, h5, beq_self_eq_true, beq_self_eq_true]
  rfl

/-- FaultHandling: a valid dump not yet copied, with the Hopper tier online. -/
theorem test_dump_to_copy :
    let s := closeDump (up.sf R.hopStat_STATE 0 2)
    s.hopState = 2 ∧ s.dumpCopied = false ∧ s.dumpValid = true ∧ s.dumps = [] ∧ s.dumping = none :=
  ⟨by decide +kernel, by decide +kernel, closeDump_valid _, by decide +kernel, by decide +kernel⟩

/-- FaultHandling: the fatal state, a step to seal, mirrors that hold, a halted partition, its replay, an adoption. -/
theorem test_fault_handling :
    (up.sf R.fltStat_STATE 0 4).gf R.fltStat_STATE 0 = 4 ∧
    (let s := (List.range 8).foldl (fun (t : State) j => t.setN 0x8021 (j + 1) 3) (formed.modRail 0 (fun r => { r with step := 5 }))
     s.pstate 0 ≠ 0 ∧ s.shadowsOn = true ∧ (s.rail 0).sealedStep < 5) ∧
    (up.setN 0x8021 0x0A 1).dnum 0x8021 0x0A = 1 ∧ up.serves .mc .errlogPtr (reqFn .mc) ∧
    (let s := formed.modRail 0 (fun r => { r with halted := some 5 })
     s.isLead 0 = true ∧ (s.rail 0).halted = some 5 ∧ s.pstate 0 = 1 ∧ bit (s.gf R.fltStat_TORN 0) 0 = false ∧ s.idValid = true) ∧
    (let s := formed.sf R.fltStat_TORN 0 1
     s.pstate 0 = 1 ∧ bit (s.gf R.fltStat_TORN 0) 0 = true ∧ s.dnum 0x8025 4 = 0 ∧ s.fatalNow = false ∧ s.gf R.fmfCqStat_STATE 0 = 0 ∧
       s.imageHeld 0 = false ∧ s.pimgOk 0 = false) ∧
    (up.setSpent 5 3 7).spentOf 5 ≠ 0 ∧
    (let s := { (formed.sf R.fltStat_TORN 0 1).modTicket 4 (fun x => { x with state := 2, part := 0 }) with tearAt := some 0, time := 10 ^ 18 }
     s.tearAt = some 0 ∧ 0 + s.dnum 0x8020 6 * 1000000 ≤ s.time ∧ bit (s.gf R.fltStat_TORN 0) 0 = true ∧ s.isLead 0 = true ∧ (s.rail 0).replay = [] ∧
       s.tickets = [(4, s.ticket 4)] ∧ (s.ticket 4).state = 2) := by decide +kernel

/-- Partition 0 of one Facet, torn, with a recovery image of one bundle among its active generation's weights. -/
def replaying : State :=
  let t := (mapped.modPrt 0 (fun x => { x with shape := 0 })).sf R.fltPimgN_N 0 1
  { (t.setPair .fltPimgLo .fltPimgHi 0 0x100000).sf R.fltStat_TORN 0 1 with
    gens := [⟨0, 0, 1, 0, 1, [(0x100000, 4096)], [], [], 0, false, []⟩]
    mem := Sparse.listing zeroByte 0x100000 (natLE 8 0x100040 ++ natLE 4 1) }

/-- FaultHandling: a replay whose recovery image is good and loads, at a lead with a step to replay and elsewhere. -/
theorem test_replay_start :
    let s := (replaying.setN 0x6080 1 0).modRail 0 (fun r => { r with replay := [⟨1, 1, 0, [], [], [], 0⟩] })
    s.pstate 0 = 1 ∧ bit (s.gf R.fltStat_TORN 0) 0 = true ∧ s.dnum 0x8025 4 = 0 ∧ s.fatalNow = false ∧ s.gf R.fmfCqStat_STATE 0 = 0 ∧
      s.imageHeld 0 = false ∧ s.pimgOk 0 = true ∧
      (let rings := (engineList (s.prt 0).mask).foldl (fun (t : State) e =>
         if (t.zeroRing e).drpRingOk e then (t.zeroRing e).sf R.drpStat_STATE e 1 else t.zeroRing e) s
       let ring := rings.zeroRing 32
       let on := if ring.cqRingOk 0 then ring.sf R.fmfCqStat_STATE 0 1 else ring
       (on.rail 0).seqs = [] ∧ (on.reloadFacets 0).2 = true) ∧
      s.isLead 0 = true ∧ (s.setN 0x6002 1 9).isLead 0 = false ∧ (s.rail 0).replay ≠ [] ∧ s.dnum 0x6080 1 ≠ 1 ∧ (s.prt 0).busy = 0 ∧
      s.idValid = true := by decide +kernel

/-! ### States that meet the statements' hypotheses: pins, power, resets -/

/-- InputsAndSideband: every input low or high, held after a storm; domains and the brake held; an SB pin at a write of its function, waiting
for a function, and lit. -/
theorem test_inputs :
    (up.pins.asserts = [] ∧ ∀ n < 8, bit up.pins.raw n = false ∧ bit up.pins.storm n = false) ∧
    (let s := up.modPins (fun x => { x with raw := 255 })
     ∀ n < 8, bit s.pins.raw n = true ∧ bit s.pins.storm n = false) ∧
    (let s := (up.modPins (fun x => { x with storm := 128 })).modPower (fun x => { x with holding := 15 })
     bit s.pins.storm 7 = true ∧ bit s.pins.raw 7 = false ∧ ∀ d < 4, bit s.power.holding d = true) ∧
    (∀ n ∈ [2, 9], up.serves .mc .sbCfg n ∧ bit up.pins.floating n = false ∧
      (up.wr .sbCfg n (mergeWrite (cardInfo .sbCfg).fields (up.rd .sbCfg n) (byteMask 15) 1)).gf R.sbCfg_FUNC n < 6 ∧
      (let s := (up.modPins (fun x => { x with floating := 1020, lit := 1020 })).sf R.sbCfg_FUNC n 1
       bit s.pins.floating n = true ∧ s.gf R.sbCfg_FUNC n = 1 ∧ bit s.pins.lit n = true)) := by decide +kernel

/-- PowerControl: telemetry that answers; a lease that has run out; a boost that may be made or not; requests; slack; sleep states. -/
theorem test_power_control :
    up.power.silent = 0 ∧ up.power.factors.length = 4 ∧ (1 : Nat) ≠ 0 ∧
    (let s := { up.modPower (fun x => { x with lease := some (500, 7) }) with mclk := 60000000007 }
     s.power.lease = some (500, 7) ∧ 7 + 60000000000 ≤ s.mclk) ∧
    (up.dnum 0x3001 1 ≤ 104 ∧ 104 ≤ max 104 0 ∧ 95 < [96].foldl max 0) ∧
    (up.setN 0x2006 2 1).boostOk 1 = true ∧ (up.setN 0x2006 2 0).boostOk 0 = false ∧
    (let s := up.modPower (fun x => { x with requests := [(90, up.mclk)] })
     s.power.requests = [(90, s.mclk)] ∧ (90 : Nat) ≠ 60 ∧ s.power.grants = []) ∧
    (let s := up.modPower (fun x => { x with replan := true })
     s.power.replan = true ∧ s.vfPoint 1 56 < 65536) ∧
    ((up.setN 0x2001 2 1).dnum 0x2001 2 ≠ 0 ∧ up.asleep = false ∧ ∀ p < 16, up.pstate p = 0) ∧
    (∀ k ∈ [1, 2], let s := (up.modPower (fun x => { x with entering := some k })).setN 0x2001 1 1
      s.power.entering = some k ∧ s.power.parked = [] ∧ s.dnum 0x2001 1 = 1) ∧
    (let s := (up.modPower (fun x => { x with sleep := 1, exiting := true })).setN 0x2001 1 1
     s.power.exiting = true ∧ s.power.requests = [] ∧ s.power.parked = [] ∧ s.dnum 0x2001 1 = 1) := by decide +kernel

/-- Output `k` in state `st` since the start, after `n` restarts. -/
def output (k st n : Nat) : State := { up.setRego ⟨k, st, n, 0, false⟩ with mclk := if st = 1 then 0 else 10 ^ 15 }

/-- RegulatedOutputs: outputs in each state, with and without restarts left; low supplies. -/
theorem test_outputs :
    (∀ k ∈ [0, 15, 32, 33],
      (up.rego k).state = 0 ∧ up.fed k = true ∧ (up.rego (k + 16)).state ≠ 4 ∧
      ((output k 3 0).rego k).state = 3 ∧ (output k 3 0).fed k = true ∧ ((output k 3 0).rego k).at_ + (output k 3 0).dnum 0x2004 4 * 1000000 ≤ (output k 3 0).mclk ∧
      ((output k 1 0).rego k).state = 1 ∧ ((output k 1 0).rego (k + 16)).state ≠ 1 ∧ ((output k 1 0).rego k).restarts < (output k 1 0).dnum 0x2004 3 ∧
      (output k 1 255).dnum 0x2004 3 ≤ ((output k 1 255).rego k).restarts ∧ (output k 1 255).hopState ≠ 2 ∧ (output k 1 255).hopState ≠ 3 ∧
      (output k 1 0).regoShown k = 1 ∧ (output k 2 0).regoShown k = 2 ∧ (output k 4 0).regoShown k = 4 ∧ (output k 4 0).fed k = true ∧
      (output k 4 0).serves .mc .regoCmd 0) ∧
    (∀ b ∈ [true, false], bit (up.modPins (fun x => { x with low := 3 })).pins.low (b2n b) = true) := by decide +kernel

/-- A phase of the boot, with both slots' images good. -/
def booting (phase : Nat) : State := { State.reset with boot := { State.reset.boot with phase := phase, good := 3 } }

/-- A trial of slot 1 under way or to begin. -/
def trying (phase trial : Nat) : State := { booting phase with boot := { (booting phase).boot with recd := { (booting phase).boot.recd with trial := trial, tslot := 1 } } }

/-- ResetsAndBoot: each phase; slots that are valid or not; a trial to begin and one under way; tickets of a function; VERIFY. -/
theorem test_resets :
    (∀ k < 6, (booting k).boot.phase = k) ∧ (booting 0).boot.recd.active ≤ 1 ∧ (booting 0).boot.recd.tslot ≤ 1 ∧ (booting 0).slotValid 0 = true ∧
    (booting 0).slotValid 1 = true ∧ State.reset.slotValid 0 = false ∧
    (let s := { State.reset with boot := { State.reset.boot with good := 2 } }
     s.slotValid s.boot.recd.active = false ∧ s.slotValid (1 - s.boot.recd.active) = true ∧ s.boot.recd.trial ≠ 1) ∧
    (trying 0 1).boot.recd.trial = 1 ∧ (trying 0 1).slotValid (trying 0 1).boot.recd.tslot = true ∧
    (trying 3 2).boot.recd.trial = 2 ∧ (trying 3 2).boot.phase = 3 ∧ up.boot.recd.trial ≠ 2 ∧ up.fatalNow = false ∧
    (∀ e ∈ [Entry.func 5, .remote ⟨7, 0, 5, 0, 0⟩], let s := formed.modTicket 0 (fun x => { x with state := 2, entry := e })
     (s.ticket 0).state ≠ 0 ∧ (s.ticket 0).entry = e ∧ s.isLead (s.ticket 0).part = true) ∧
    (up.boot.verifying = false ∧ { up with boot := { up.boot with verifying := true } }.boot.verifying = true) := by decide +kernel

/-! ### States that meet the statements' hypotheses: the Apex core -/

/-- A password for a level on partition 0 where the level names partitions, or for SETPW. -/
def credential (kind level : Nat) : List Byte :=
  natLE 4 0x44475431 ++ natLE 1 kind ++ natLE 1 level ++ natLE 2 (if level = 2 then 1 else 0) ++ natLE 4 60 ++ natLE 1 16 ++ natLE 1 16 ++ zeros 2 ++
    List.replicate 80 0x61

/-- The credential in the buffer, in `up`. -/
def presented (kind level : Nat) : State :=
  (List.range 24).foldl (fun (t : State) k => t.wr .dbgBuf k (BitVec.ofNat 32 (octs (credential kind level) (4 * k) 4))) up

/-- A password that stands: its verifier is that of the one presented. -/
def withPassword (s : State) (c : List Byte) : State :=
  s.modSec (fun x => { x with password := some (pbkdf2 (passwordAt c 12 16) (zeros 32), zeros 32) })

theorem openCode_password (s : State) (c : List Byte) (hk : credKind c = 2) (h0 : s.sec.opening = none) (h1 : s.openArgs c = true)
    (h2 : levelAllowed s.sec.life (credLevel c) 2 = true) (h3 : s.sec.locked = false) (h4 : s.power.sleep = 0) (h5 : credLevel c ≠ 3)
    (h6 : (maskParts (credMask c)).any (fun p => s.dnum 0x6002 (p + 1) != 0xFFFF) = false) (h7 : s.sharedKeys (credMask c) = false) :
    (withPassword s c).openCode c = (0, false) := by
  have a : (withPassword s c).sec.opening = none := h0
  have b : (withPassword s c).openArgs c = true := h1
  have d : levelAllowed (withPassword s c).sec.life (credLevel c) 2 = true := h2
  have e : (withPassword s c).sec.locked = false := h3
  have f : (withPassword s c).power.sleep = 0 := h4
  have g : (maskParts (credMask c)).any (fun p => (withPassword s c).dnum 0x6002 (p + 1) != 0xFFFF) = false := h6
  have i : (withPassword s c).sharedKeys (credMask c) = false := h7
  have j : (withPassword s c).passwordOk (passwordAt c 12 16) = true := by
    show (pbkdf2 _ _ == pbkdf2 _ _) = true
    exact beq_self_eq_true _
  simp [State.openCode, State.credCode, a, b, d, e, f, g, i, j, hk, h5]

theorem withPassword_dbgCred (s : State) (c : List Byte) : (withPassword s c).dbgCred = s.dbgCred := rfl

/-- SecurityCommands: passwords that open L1 and begin L2. -/
theorem test_password_opens : ∀ l ∈ [1, 2], let s := presented 2 l
    let c := s.dbgCred.take 360
    s.serves .mc .dbgCmd 0 ∧ credLevel c = l ∧ (withPassword s c).dbgCred.take 360 = c ∧ ((withPassword s c).openCode c).1 = 0 := by
  intro l hl
  have h : ∀ l ∈ [1, 2], let s := presented 2 l
      let c := s.dbgCred.take 360
      s.serves .mc .dbgCmd 0 ∧ credLevel c = l ∧ credKind c = 2 ∧ s.sec.opening = none ∧ s.openArgs c = true ∧
        levelAllowed s.sec.life (credLevel c) 2 = true ∧ s.sec.locked = false ∧ s.power.sleep = 0 ∧ credLevel c ≠ 3 ∧
        (maskParts (credMask c)).any (fun p => s.dnum 0x6002 (p + 1) != 0xFFFF) = false ∧ s.sharedKeys (credMask c) = false := by decide +kernel
  obtain ⟨a, b, hk, h0, h1, h2, h3, h4, h5, h6, h7⟩ := h l hl
  exact ⟨a, b, congrArg (List.take 360) (withPassword_dbgCred _ _), by rw [openCode_password _ _ hk h0 h1 h2 h3 h4 h5 h6 h7]⟩

/-- SecurityCommands: an opening and open levels to close; a first password and a refused one; a lockout, a level and a halt that end;
the boundary scan; a Facet of a masked partition. -/
theorem test_security :
    (let s := up.modSec (fun x => { x with opening := some ⟨2, 1, 60, 0, []⟩ })
     s.sec.opening.isSome = true ∧ s.asleep = false) ∧
    (∀ l ∈ [0, 1, 2, 3], let s := up.modSec (fun x => { x with level := l, duration := 60 })
     s.sec.level = l ∧ s.sec.opening = none) ∧
    ((presented 3 0).setpwCode (presented 3 0).dbgCred = (0, false) ∧ (up.setpwCode up.dbgCred).1 ≠ 0) ∧
    (let s := { up.modSec (fun x => { x with locked := true, wait := 60, level := 1, duration := 60 }) with mclk := 60000000000 }
     s.sec.locked = true ∧ s.sec.lockedAt + s.sec.wait * 1000000000 ≤ s.mclk ∧ s.sec.level = 1 ∧ s.sec.openedAt + s.sec.duration * 1000000000 ≤ s.mclk) ∧
    (up.fatalNow = false ∧ up.scanOk = true ∧ formed.scanOk = false) ∧
    (let s := formed.modSec (fun x => { x with level := 2, mask := 1 })
     s.debugReads (.facet 0) = true ∧ s.debugWrites (.facet 0) = true ∧ s.facetPart 0 = some 0 ∧ s.debugWrites .trace = false ∧
       (s.modPower (fun x => { x with sleep := 1 })).debugAwake (.facet 0) = false ∧ (s.modPower (fun x => { x with sleep := 1 })).debugReads (.facet 0) = true) ∧
    (up.debugReads (.facet 0) = false ∧ up.power.sleep = 0) := by decide +kernel

/-- SpdmAnswers: a request of each code and version on the management segment; after decommissioning; a mailbox with one of each kind. -/
theorem test_spdm :
    (∀ v ∈ [0x11, 0x12, 0x13], ∀ k ∈ [0x81, 0x82, 0x83, 0x84, 0xE0, 0xE1, 0xE3, 0xFF], let b := spdmMsg v k 0 0 []
      up.spdmServed (.mgmt 0) = true ∧ 4 ≤ b.length ∧ spCode b = k ∧ spVer b = v) ∧
    (up.modSec (fun x => { x with life := 3 })).sec.life = 3 ∧
    (let s := { up with apxReq := Sparse.listing zeroByte 0 [5, 0x12, 0x84, 0, 0] }
     s.serves .mc .apxCmd (reqFn .mc) ∧ (Sparse.gets zeroByte s.apxReq (reqFn .mc * 4096) 5).headD 0 = 0x05 ∧ s.spdmServed (.mailbox (reqFn .mc)) = true ∧
       (Sparse.gets zeroByte up.apxReq (reqFn .mc * 4096) 5).headD 0 ≠ 0x05) := by decide +kernel

/-! ### States that meet the statements' hypotheses: the dictionary and the registers -/

/-- A request for 0x9001:01 (a number of 24 to 2160 that may be written) from node 0. -/
def ask (payload : List Byte) (offset : Nat) (last : Bool) : DapReq := ⟨.mgmt 0, 1, 0x9001, 1, offset, 0, payload.length, last, false, false, payload⟩

/-- `up` with node 0 among those that may write. -/
def open_ : State := up.setD 0x4011 1 (.oct [1])

/-- A segmented write of 0x9001:01 by node 0. -/
def segmented : State := { open_ with sessions := [⟨.mgmt 0, 0x9001, 1, [], 0⟩] }

/-- DictionaryServices: reads served, refused and continued; writes of each fate; requests for the lists; an abort; an idle segment;
a mailbox with an event. -/
theorem test_dictionary :
    (let q := ask [] 0 true
     open_.dapServed q.path = true ∧ open_.answers = [] ∧ open_.readCode q = 0 ∧ open_.readCode { q with sub := 99 } ≠ 0 ∧
       (rowOf q.index q.sub).any (fun e => !open_.staleRead e) = true ∧ (0 < 4 ∧ 7 ≠ (open_.refresh q.index q.sub).tagOf q.index q.sub)) ∧
    (∀ q ∈ [ask (natLE 4 100) 0 true, ask (natLE 4 100) 4 true, ask (natLE 4 100) 0 false, ask (natLE 3 100) 0 true, ask (natLE 4 1) 0 true],
      q.bad = false ∧ q.len ≤ 1024 ∧ q.len = q.payload.length ∧ open_.writeCode q.path q.bcast q.index q.sub = 0 ∧
      open_.writeCode (.mgmt 1) q.bcast q.index q.sub ≠ 0 ∧ open_.sessions = [] ∧ 0x3002 ≤ q.index ∧ q.index ≠ 0xA002) ∧
    ((rowOf 0x9001 1).any (fun e => e.cls == .rwp && typeOk e (natLE 4 100) && rangeOk e 1 (natLE 4 100) && !typeOk e (natLE 3 100) &&
      !rangeOk e 1 (natLE 4 1)) = true) ∧
    (up.boot.phase ≠ 5 ∧ rowOf 0xFFFF 0 = none ∧ open_.writable 0x9001 1 = true ∧ open_.pathWrites (.mgmt 0) = true) ∧
    (segmented.sessions[0]? = some ⟨.mgmt 0, 0x9001, 1, [], 0⟩ ∧
      (let s := { segmented with mclk := 10 ^ 15 }
       0 + s.dnum 0x4011 2 * 1000000 ≤ s.mclk)) ∧
    (∀ fn ∈ [0, 16], up.dapServed (.mailbox fn) = true) := by decide +kernel

/-- A command entry's write that the checks pass. -/
def entryOk (s : State) (x : Nat × Nat × List Byte) : Bool :=
  s.writeCode (.mgmt 0) false x.1 x.2.1 == 0 && s.sessions.all (fun y => !(y.index == x.1 && y.sub == x.2.1)) &&
  (rowOf x.1 x.2.1).any (fun e => typeOk e x.2.2 && rangeOk e x.2.1 x.2.2)

/-- EntryCommands: every command entry is written with a value that passes; a path that may not write; segments of a download; a board record. -/
theorem test_entry_commands :
    open_.dapServed (.mgmt 0) = true ∧
    (∀ x ∈ [(0x8012, 5, natLE 2 1), (0x6091, 2, natLE 2 1), (0x6090, 3, natLE 2 1), (0x4000, 1, natLE 8 5), (0x4000, 1, natLE 8 (2 ^ 63)), (0x8024, 2, [1]),
        (0x8024, 2, [2]), (0x8020, 1, zeros 24), (0x8020, 2, zeros 40), (0x8020, 3, natLE 2 1), (0x2002, 1, natLE 2 1200), (0x2001, 1, [0]), (0x2001, 1, [3]),
        (0x9001, 2, [1]), (0x7010, 2, 13 :: zeros 48), (0x1001, 4, [1]), (0xA000, 1, [1]), (0xA001, 2, [1]), (0xA001, 2, [4]), (0x7000, 2, padTo 360 (credential 0 1)),
        (0x7000, 2, padTo 360 (credential 0 3))],
      entryOk open_ x = true ∧ open_.writeCode (.mgmt 1) false x.1 x.2.1 ≠ 0) ∧
    (∀ k ∈ [1, 2, 3], credLevel (padTo 360 (credential 0 k)) = k) ∧
    (open_.writeCode (.mgmt 0) false 0xA001 1 = 0 ∧ open_.segmentCode 4096 64 ≠ 0 ∧
      (let s : State := State.setN { open_ with
         boot := { open_.boot with loaded := 4096 }, sessions := [⟨.mgmt 0, 0xA001, 1, [], 0⟩] } 0xA001 3 1
       s.segmentCode 4096 64 = 0 ∧ s.dnum 0xA001 3 = 1)) ∧
    (let b := natLE 4 0x42434652 ++ natLE 2 1 ++ natLE 2 0
     open_.writeCode (.mgmt 0) false 0xA002 1 = 0 ∧ (boardItems (b ++ natLE 4 (crc32c b))).isSome = true) := by decide +kernel

/-- EntryCommands: what the entries' own clauses ask of the state. -/
theorem test_entry_actions :
    (up.anyTesting = false ∧ up.unitExists 287 = true ∧ up.unitExists 288 = false) ∧
    ((up.setN 0x2002 4 255).dnum 0x2002 4 = 255 ∧ (up.setN 0x2002 4 3).dnum 0x2002 4 ≠ 255) ∧
    (up.power.sleep = 0 ∧ up.power.entering = none ∧ up.power.exiting = false ∧ ∀ k ∈ [1, 2, 3], up.mayEnter k = true) ∧
    (up.securityBars = false ∧ (up.modSec (fun x => { x with level := 2 })).securityBars = true) ∧
    formed.idValid = true ∧ up.resettable = true ∧ (∀ k < 5, (up.setN 0xA001 3 k).dnum 0xA001 3 = k) ∧
    ((formed.setN 0xA001 3 3).idValid = true ∧ up.asleep = false ∧ epochNewer (octNum (zeros 24) 2 2) up.epoch = false ∧
      (let v := natLE 4 0x10000 ++ zeros 20
       v.length = 24 ∧ epochNewer (octNum v 2 2) up.epoch = true ∧ octNum v 22 2 = 0)) := by decide +kernel

/-- A subscriber of node 0 that watches 0x9001:01, whose tag it has as `tag`. -/
def watching (tag : Nat) : Subscriber := ⟨.mgmt 0, 128, [(0x9001, 1, tag)], 0, [], false⟩

/-- SubscriptionsAndMailbox: subscriptions accepted and refused; a watched entry, changed or not; messages of the mailbox; MCTP; an inbox slot. -/
theorem test_subscriptions :
    (let q : DapReq := ⟨.mgmt 0, 1, 0, 0, 0, 0, 4, true, false, false, natLE 4 128⟩
     up.dapServed q.path = true ∧ up.answers = [] ∧ up.subscribeCode q = 0 ∧ q.payload.length = 4 ∧ up.subs = [] ∧ up.subscribeCode { q with bad := true } ≠ 0) ∧
    (bit (watching 0).mask 7 = true ∧ (watching 0).queue = [] ∧ (rowOf 0x9001 1).any (fun e => e.cls != .wo) = true ∧
      (up.refresh 0x9001 1).tagOf 0x9001 1 = up.tagOf 0x9001 1 ∧ (up.refresh 0x9001 1).tagOf 0x9001 1 ≠ up.tagOf 0x9001 1 + 1) ∧
    (up.serves .mc .dictCmd (reqFn .mc) ∧ up.gf R.dictCmd_STATUS (reqFn .mc) ≠ 1 ∧
      ∀ k ∈ [0, 3, 5], let s := up.wr .dictReq 0 (BitVec.ofNat 32 (k * 4096))
        octs (((List.range 262).flatMap (fun j => natLE 4 (s.rd .dictReq (reqFn .mc * 262 + j)).toNat)).take 24) 1 1 / 16 = k) ∧
    (up.mctpServed true = true ∧ (up.setN 0x4012 1 9).mctpServed false = true) ∧
    (up.ready = true ∧ leNat (up.readMem (up.inboxBase + 15 * 4096) 8) = Sparse.get (fun _ => 0) up.inbox 15 ∧
      (∀ b ∈ [(5 : Byte), 0x7F], let s := { up with mem := Sparse.listing zeroByte up.inboxBase (natLE 8 1 ++ zeros 16 ++ natLE 2 4 ++ zeros 6 ++ [b]) }
        leNat (s.readMem s.inboxBase 8) ≠ Sparse.get (fun _ => 0) s.inbox 0 ∧
          (s.readMem (s.inboxBase + 32) (min 4064 (leNat (s.readMem (s.inboxBase + 24) 2)))).headD 0 = b)) ∧
    ([(0x1012 * 256 + 5, 0)].all up.hasFeature = true ∧ up.hasFeature (0x9000 * 256, 0) = false) := by decide +kernel

/-- RegisterAccess: a bus that is off; shapes that are not accepted; registers with and without a command that a requester may reach or may
not; pairs with and without a shadow. -/
theorem test_register_access :
    (State.reset.busOff .mc = true ∧ up.busOff .pf = false) ∧ (shapeOk 2 4 15 = false ∧ shapeOk 4 8 255 = false) ∧
    (∀ c ∈ [Card.fctErr, .fctXcfg, .fctImemLen, .fctAstat, .dictReq, .sbStat, .fctCmd, .drpCmd, .kvPgcmd, .partCmd, .fmfCqCmd, .dbgCmd, .apxCmd, .dictCmd,
        .regoCmd], let a := up.cardAddr c 0
      a % 4 = 0 ∧ up.locate .mc a = some (c, 0) ∧ pairOf c = none ∧ up.mayReach .mc c 0 true = true ∧ up.mayReach .mc c 0 false = true) ∧
    (let a := up.cardAddr .fctErr 3
     up.locate (.vf 1) a = some (.fctErr, 3) ∧ up.mayReach (.vf 1) .fctErr 3 true = false ∧ up.mayReach (.vf 1) .fctErr 3 false = false) ∧
    (∀ k < 16, bits ((BitVec.ofNat 64 (k * 2 ^ 28)).truncate 32 : Word).toNat 31 28 = k) ∧
    (let a := up.cardAddr .trVaLo 0
     let b := up.cardAddr .trVaHi 0
     a % 4 = 0 ∧ b % 4 = 0 ∧ up.pairAt .mc a true = some (.trVaLo, .trVaHi, .trVaLo, 0) ∧ up.pairAt .mc b true = some (.trVaLo, .trVaHi, .trVaHi, 0) ∧
       up.pairAt .mc a false = some (.trVaLo, .trVaHi, .trVaLo, 0) ∧ accMask (cardInfo .trVaLo).fields [.rc] = 0 ∧
       ((shadowed up .trVaLo 0).shadowOf .mc .trVaLo 0).map (fun x => x.write) = some true ∧
       (({ up with shadows := [⟨.mc, .trVaLo, 0, false, 15, 64⟩] } : State).shadowOf .mc .trVaLo 0).map (fun x => x.write) = some false ∧
       ∀ be ∈ [1, 3, 4, 8], shapeOk (narrowAt a be).1 (narrowAt a be).2 be = true) := by decide +kernel

/-- RegisterGates: a device in cold reset, a link that is down, a Facet and an engine that are not there, requesters without the right, a
device before READY. -/
theorem test_register_gates :
    State.reset.boot.phase = 0 ∧ (up.modPins (fun x => { x with perst := true })).linkOff = true ∧ up.exists_ .fctCmd 256 = false ∧
    up.exists_ .drpCmd 32 = false ∧ up.boot.phase ≠ 0 ∧ up.linkOff = false ∧
    (∀ c ∈ [Card.fctCmd, .fctMcfg, .fctSb, .drpCmd, .drpCfg, .kvLayout, .kvPgcmd, .trCmd, .pfCtl, .blmCmd, .hopCmd, .ldrCmd, .partCmd, .fmfEntCmd, .fmfCqCmd,
        .dbgCmd, .sbCfg, .regoCmd],
      up.exists_ c 2 = true → up.mayReach (.vf 1) c 2 true = false) ∧
    (booting 1).boot.phase ≠ 0 ∧ (booting 1).mayReach .mc .fctCmd 0 true = true ∧ (booting 1).ready = false ∧ earlyCard .fctCmd = false := by decide +kernel

/-- ErrorReports: a log that is empty, full or spent, and one whose only entry coalesces, within its window or not. -/
theorem test_error_reports :
    (up.errlog = [] ∧ up.spentOf 5 < up.dnum 0x8023 3 ∧ up.logUsed < 1024 ∧ (up.sf R.errlogCfg_IE 0 1).gf R.errlogCfg_IE 0 = 1) ∧
    (let s := up.sf R.errlogPtr_WR 0 1024
     1024 ≤ s.logUsed ∧ s.spentOf 5 < s.dnum 0x8023 3) ∧
    (let s := { up with spent := [(5, 10000, 0)] }
     s.dnum 0x8023 3 ≤ s.spentOf 5) ∧
    (let e : LogEntry := ⟨0, 0, 0, 1, true, false, 0, 1, 3, 5, 0⟩
     let s := State.sf { up with errlog := [(0, e)] } R.errlogPtr_WR 0 1
     s.logAge e < s.logUsed ∧ s.time ≤ e.last + s.dnum 0x8023 1 * 1000000 ∧
       (let t := { s with time := 10 ^ 15 }
        e.last + t.dnum 0x8023 1 * 1000000 < t.time ∧ t.spentOf 5 < t.dnum 0x8023 3 ∧ t.logUsed < 1024)) := by decide +kernel

end Sys2Proof.Tests
end

section
/-! The Facet commands, FCT_MCFG and host writes of the counters (spec/02 R65 to R67): what an accepted write comes to, and what
the report of a refused one leaves alone. -/

namespace Sys2Proof.Machine

/-! ### What a report leaves alone

A subscriber's path may name any mailbox, so the index of the DICT_STAT that a report marks has no bound. Its key still lies above
the registers of every card that the register file keeps before the error log. -/

/-- From `s` to `t` the Facets stay, and so does every register of a card that the register file keeps before the error log. -/
structure BelowLogKept (s t : State) : Prop where
  facets : t.facets = s.facets
  regs : ∀ c i, cardIdx c < cardIdx .errlogPtr → i < 1048576 → t.rd c i = s.rd c i

theorem BelowLogKept.of_eq {s t : State} (hf : t.facets = s.facets) (hr : t.regs = s.regs) : BelowLogKept s t :=
  ⟨hf, fun c i _ _ => by unfold State.rd; rw [hr]⟩

theorem BelowLogKept.refl (s : State) : BelowLogKept s s := .of_eq rfl rfl

theorem BelowLogKept.trans {a b c : State} (h : BelowLogKept a b) (k : BelowLogKept b c) : BelowLogKept a c :=
  ⟨k.facets.trans h.facets, fun x i hx hi => (k.regs x i hx hi).trans (h.regs x i hx hi)⟩

theorem BelowLogKept.after_eq {s s' t : State} (h : BelowLogKept s' t) (hf : s'.facets = s.facets) (hr : s'.regs = s.regs) :
    BelowLogKept s t := (of_eq hf hr).trans h

theorem BelowLogKept.foldl {α : Type} {g : State → α → State} (hg : ∀ t x, BelowLogKept t (g t x)) (l : List α) (s : State) :
    BelowLogKept s (l.foldl g s) := by
  induction l generalizing s with
  | nil => exact .refl s
  | cons x l ih => exact (hg s x).trans (ih (g s x))

theorem BelowLogKept.ite {s a b : State} {p : Prop} [Decidable p] (ha : BelowLogKept s a) (hb : BelowLogKept s b) :
    BelowLogKept s (if p then a else b) := by
  split
  · exact ha
  · exact hb

/-- Whatever its index, a register of the error log or of a later card is none of those kept. -/
theorem belowLogKept_wr (s : State) (c : Card) (i : Nat) (w : Word) (h : cardIdx .errlogPtr ≤ cardIdx c) : BelowLogKept s (s.wr c i w) :=
  ⟨rfl, fun x j hx hj => rd_wr_other s c x i j w (by unfold regKey; omega)⟩

theorem belowLogKept_sf (s : State) (g : Fld) (i v : Nat) (h : cardIdx .errlogPtr ≤ cardIdx g.card) : BelowLogKept s (s.sf g i v) :=
  belowLogKept_wr s g.card i _ h

theorem belowLogKept_bump (s : State) (index sub : Nat) : BelowLogKept s (s.bump index sub) := by
  unfold State.bump State.setN State.setD
  split
  · exact .refl s
  · exact .of_eq rfl rfl

theorem belowLogKept_pushEvent (s : State) (cls : Nat) (detail : List Byte) (all : Bool) : BelowLogKept s (s.pushEvent cls detail all) := by
  refine BelowLogKept.foldl (fun t u => .ite ?_ (.refl t)) _ s
  have hmark : ∀ x : State, BelowLogKept t x → BelowLogKept t (match u.path with
      | .mailbox fn => x.sf R.dictStat_EVTPEND fn 1
      | _ => x) := by
    intro x hx
    split
    · exact hx.trans (belowLogKept_sf x _ _ _ (by decide))
    · exact hx
  have hqueue := hmark _ (BelowLogKept.of_eq (s := t) (t := { t with
    subs := t.subs.map (fun v => if v.path = u.path then (u.push cls s.time detail).1 else v)
    out := t.out ++ (u.push cls s.time detail).2.2 }) rfl rfl)
  exact .ite (hqueue.trans (belowLogKept_bump _ _ _)) hqueue

theorem belowLogKept_logWrite (s : State) (e : LogEntry) : BelowLogKept s (s.logWrite e) := by
  have hcount : ∀ m : List (Nat × LogEntry), BelowLogKept s
      ((State.sf { s with errlog := m } R.errlogPtr_WR 0 (s.gf R.errlogPtr_WR 0 + 1)).bump 0x8025 1) := fun m =>
    ((belowLogKept_sf _ _ _ _ (by decide)).trans (belowLogKept_bump _ _ _)).after_eq rfl rfl
  unfold State.logWrite
  refine BelowLogKept.trans ?_ (.foldl (fun t c => belowLogKept_pushEvent t c _ false) _ _)
  exact .ite ((hcount _).trans (.of_eq rfl rfl)) (hcount _)

theorem belowLogKept_logLost (s : State) (lo hi : Card) (hlo : cardIdx .errlogPtr ≤ cardIdx lo) (hhi : cardIdx .errlogPtr ≤ cardIdx hi) :
    BelowLogKept s (s.logLost lo hi) :=
  (belowLogKept_wr s lo 0 _ hlo).trans (belowLogKept_wr _ hi 0 _ hhi)

theorem belowLogKept_report (s : State) (src code cls : Nat) (part : Option Nat) (detail : Nat) :
    BelowLogKept s (s.report src code cls part detail) := by
  have hfull := belowLogKept_logLost s .errlogOvfFullLo .errlogOvfFullHi (by decide) (by decide)
  unfold State.report
  dsimp only
  split
  case h_1 => exact (belowLogKept_bump _ _ _).after_eq rfl rfl
  case h_2 =>
    refine .ite (belowLogKept_logLost s _ _ (by decide) (by decide)) (.ite hfull (.ite ?_ ?_))
    · exact (BelowLogKept.ite (hfull.trans (belowLogKept_sf _ R.errlogPtr_RD 0 _ (by decide))) (.refl s)).trans (belowLogKept_logWrite _ _)
    · exact (belowLogKept_logWrite _ _).after_eq rfl rfl

/-- A break that a Facet detects sets its flag, and then only counts and reports. -/
theorem facetErr_of_setBit (s : State) (f k detail : Nat) : BelowLogKept (s.setBit .fctErr f k) (s.facetErr f k detail) :=
  (BelowLogKept.ite (belowLogKept_bump _ _ _) (.refl _)).trans (belowLogKept_report _ _ _ _ _ _)

@[simp] theorem facetErr_facets (s : State) (f k detail : Nat) : (s.facetErr f k detail).facets = s.facets :=
  (facetErr_of_setBit s f k detail).facets

theorem rd_facetErr (s : State) (f k detail : Nat) (c : Card) (i : Nat) (hc : c ≠ .fctErr) (h : cardIdx c < cardIdx .errlogPtr)
    (hf : f < 1048576) (hi : i < 1048576) : (s.facetErr f k detail).rd c i = s.rd c i :=
  ((facetErr_of_setBit s f k detail).regs c i h hi).trans (rd_sf_card s ⟨.fctErr, k, k⟩ c f i 1 hc hf hi)

theorem gf_facetErr_flag (s : State) (f k detail : Nat) (hk : k < 32) (hf : f < 1048576) :
    (s.facetErr f k detail).gf ⟨.fctErr, k, k⟩ f = 1 := by
  have hset : (s.setBit .fctErr f k).gf ⟨.fctErr, k, k⟩ f = 1 % 2 ^ (k + 1 - k) := gf_sf_same s ⟨.fctErr, k, k⟩ f 1 ⟨Nat.le_refl k, hk⟩
  have hrep := (facetErr_of_setBit s f k detail).regs .fctErr f (by decide) hf
  unfold State.gf at hset ⊢
  rw [hrep, hset]
  simp

/-! ### FCT_CMD (R65) -/

theorem facet_modFacet_other (s : State) (f g : Nat) (u : Facet → Facet) (h : g ≠ f) : (s.modFacet f u).facet g = s.facet g :=
  facet_setFacet_other s f g _ h

/-- An accepted write of FCT_CMD runs its command, then LAST and STATUS record it. -/
theorem fctCmd_served {s : State} {r : Requester} {f : Nat} (h : s.serves r .fctCmd f) (code : Nat) (k : State → State × Nat) :
    s.fctCmd r f code k = ((k s).1.sf R.fctCmd_LAST f code).sf R.fctCmd_STATUS f (k s).2 :=
  gate_serves h _

theorem exec_fctStart_idle {s : State} {r : Requester} {f : Nat} (h : s.serves r .fctCmd f) (ha : s.asleep = false)
    (hi : s.facetIdle f = true) (entry : Nat) :
    exec (.fctStart r f entry) s = .next (((s.startSolo f entry).sf R.fctCmd_LAST f 1).sf R.fctCmd_STATUS f 0) := by
  show Host.Outcome.next (s.fctStart r f entry) = _
  unfold State.fctStart
  rw [fctCmd_served h]
  simp [ha, hi]

theorem exec_clrsb_idle {s : State} {r : Requester} {f : Nat} (h : s.serves r .fctCmd f) (hi : s.facetIdle f = true) :
    exec (.clrsb r f) s = .next (((s.clearCounters f).sf R.fctCmd_LAST f 3).sf R.fctCmd_STATUS f 0) := by
  show Host.Outcome.next (s.fctCmd r f 3 _) = _
  rw [fctCmd_served h]
  simp [hi]

theorem exec_imemLoad_idle {s : State} {r : Requester} {f : Nat} (h : s.serves r .fctCmd f) (ha : s.asleep = false)
    (hi : s.facetIdle f = true) {entry : Nat} (hn : s.gf R.fctImemLen_COUNT f ≠ 0) (he : entry + s.gf R.fctImemLen_COUNT f ≤ 8192)
    (hal : s.imemSrc f % 32 = 0) (ho : s.own (s.imemSrc f) = true)
    (hok : s.allowed (s.facetPart f) (fgaOff (s.imemSrc f)) (s.gf R.fctImemLen_COUNT f * 32) false = true) :
    exec (.imemLoad r f entry) s = .next ((((s.modFacet f (fun x =>
      { x with imemLoad := some (entry, s.gf R.fctImemLen_COUNT f, s.imemSrc f) })).sf R.fctStat_IMEM_BUSY f 1).sf
        R.fctCmd_LAST f 4).sf R.fctCmd_STATUS f 1) := by
  show Host.Outcome.next (s.imemLoad r f entry) = _
  unfold State.imemLoad
  rw [fctCmd_served h]
  simp [ha, hi, hn, Nat.not_lt.mpr he, hal, ho, hok]

theorem exec_fctHalt {s : State} {r : Requester} {f : Nat} (h : s.serves r .fctCmd f) :
    exec (.fctHalt r f) s = .next (((s.haltFacet f).sf R.fctCmd_LAST f 2).sf R.fctCmd_STATUS f 0) := by
  show Host.Outcome.next (s.fctCmd r f 2 _) = _
  rw [fctCmd_served h]

theorem haltFacet_between {s : State} {f : Nat} (h : s.gf R.fctStat_STATE f = 1 ∨ s.gf R.fctStat_STATE f = 2) (h0 : (s.facet f).slot = 0) :
    s.haltFacet f = (s.stopFacet f).settle (s.groupOf f) :=
  (if_pos h).trans (if_pos h0)

theorem haltFacet_within {s : State} {f : Nat} (h : s.gf R.fctStat_STATE f = 1 ∨ s.gf R.fctStat_STATE f = 2) (h0 : (s.facet f).slot ≠ 0) :
    s.haltFacet f = s.modFacet f (fun x => { x with haltReq := true }) :=
  (if_pos h).trans (if_neg h0)

theorem haltFacet_still {s : State} {f : Nat} (h1 : s.gf R.fctStat_STATE f ≠ 1) (h2 : s.gf R.fctStat_STATE f ≠ 2) : s.haltFacet f = s :=
  if_neg (not_or.mpr ⟨h1, h2⟩)

/-! ### The end of an IMEM_LOAD -/

/-- Reading a row of the free domain, of memory that holds no error. -/
theorem readRow_free_clean {s : State} (hu : s.ucMem = []) (he : s.ecMem = []) (fga n : Nat) :
    s.readRow none fga n = (s, s.readMem (fgaOff fga) n, []) := by
  simp [State.readRow, State.cacheUc, State.rowRes, State.ucPieces, State.ucAt, State.noteRead, State.readPieces, hits, hu, he]

theorem rowStatus_free {s : State} {fga n : Nat} (ho : s.own fga = true) (ha : s.allowed none (fgaOff fga) n false = true) (key : Nat) :
    s.rowStatus none fga n false key = (0, []) := by
  simp [State.rowStatus, ho, ha]

theorem heldPages_free (s : State) (fga n : Nat) (write : Bool) : s.heldPages none fga n write = [] := rfl

/-- Bundles just written to instruction memory without errors read back. -/
theorem readImem_writeImem_clean {s : State} (hu : s.ucImem = []) (f b : Nat) (bs : List Byte) :
    (s.writeImem f b bs).1.readImem f b bs.length = bs := by
  have himem : (s.writeImem f b bs).1.imem = Sparse.blit s.imemD s.imem (f * 262144 + b) bs := by
    simp [State.writeImem, writeEcc, hits, hu]
  have hdef : (s.writeImem f b bs).1.imemD = s.imemD := rfl
  unfold State.readImem
  rw [himem, hdef, Sparse.gets_blit]

/-- A copy from the free domain whose source can be read. -/
theorem copyBundles_free_clean {s : State} {f n src : Nat} (hp : s.facetPart f = none) (ho : s.own src = true)
    (ha : s.allowed none (fgaOff src) (n * 32) false = true) (hu : s.ucMem = []) (he : s.ecMem = []) (entry : Nat) :
    s.copyBundles f entry n src true = ((s.writeImem f (entry * 32) (s.readMem (fgaOff src) (n * 32))).1, true) := by
  simp [State.copyBundles, hp, readRow_free_clean hu he, rowStatus_free ho ha]

theorem exec_imemLoadDone_free {s : State} {f entry n src : Nat} (hl : (s.facet f).imemLoad = some (entry, n, src))
    (hp : s.facetPart f = none) (ho : s.own src = true) (ha : s.allowed none (fgaOff src) (n * 32) false = true)
    (hu : s.ucMem = []) (he : s.ecMem = []) :
    exec (.imemLoadDone f true) s = .next (((((s.writeImem f (entry * 32) (s.readMem (fgaOff src) (n * 32))).1.modFacet f
      (fun x => { x with imemLoad := none })).sf R.fctStat_IMEM_BUSY f 0).sf R.fctCmd_STATUS f 0)) := by
  show Host.Outcome.next (s.imemLoadDone f true) = _
  unfold State.imemLoadDone
  simp [hl, hp, heldPages_free, copyBundles_free_clean hp ho ha hu he]

/-- A load whose source can be read ends with its bundles in place, IMEM_BUSY and STATUS 0; memory and the other Facets stay. -/
theorem imemLoadDone_free_effect {s : State} {f entry n src : Nat} (hf : f < 1048576) (hl : (s.facet f).imemLoad = some (entry, n, src))
    (hp : s.facetPart f = none) (ho : s.own src = true) (ha : s.allowed none (fgaOff src) (n * 32) false = true)
    (hu : s.ucMem = []) (he : s.ecMem = []) (hui : s.ucImem = []) :
    ∃ t, exec (.imemLoadDone f true) s = .next t ∧
      t.readImem f (entry * 32) (n * 32) = s.readMem (fgaOff src) (n * 32) ∧ t.mem = s.mem ∧
      t.gf R.fctStat_IMEM_BUSY f = 0 ∧ t.gf R.fctCmd_STATUS f = 0 ∧ (t.facet f).imemLoad = none ∧ s.facetOnly t f := by
  refine ⟨_, exec_imemLoadDone_free hl hp ho ha hu he, ?_, rfl, ?_, ?_, ?_, fun g hg => ?_⟩
  · have hback := readImem_writeImem_clean hui f (entry * 32) (s.readMem (fgaOff src) (n * 32))
    rw [readMem_length] at hback
    exact hback
  · rw [gf_sf_card _ R.fctCmd_STATUS R.fctStat_IMEM_BUSY f f 0 (by decide) hf hf, gf_sf_same _ _ _ _ (by decide)]
    rfl
  · rw [gf_sf_same _ _ _ _ (by decide)]
    rfl
  · rw [facet_sf, facet_sf, facet_modFacet_same]
  · rw [facet_sf, facet_sf, facet_modFacet_other _ f g _ hg]
    rfl

/-! ### FCT_MCFG and the counters (R66, R67) -/

theorem exec_fctMcfgWrite_within {s : State} {r : Requester} {f be : Nat} {val : Word} (h : s.serves r .fctMcfg f)
    (hin : 16 ≤ (s.mergeReg .fctMcfg f be val).gf R.fctMcfg_PROMO f ∧ (s.mergeReg .fctMcfg f be val).gf R.fctMcfg_PROMO f ≤ 256) :
    exec (.fctMcfgWrite r f be val) s = .next (s.mergeReg .fctMcfg f be val) :=
  congrArg Host.Outcome.next
    ((gate_serves h _).trans (if_neg (not_or.mpr ⟨Nat.not_lt.mpr hin.1, Nat.not_lt.mpr hin.2⟩)))

theorem exec_fctMcfgWrite_outside {s : State} {r : Requester} {f be : Nat} {val : Word} (h : s.serves r .fctMcfg f)
    (hout : (s.mergeReg .fctMcfg f be val).gf R.fctMcfg_PROMO f < 16 ∨ 256 < (s.mergeReg .fctMcfg f be val).gf R.fctMcfg_PROMO f) :
    exec (.fctMcfgWrite r f be val) s = .next (s.facetErr f eCfg ((s.mergeReg .fctMcfg f be val).gf R.fctMcfg_PROMO f)) :=
  congrArg Host.Outcome.next ((gate_serves h _).trans (if_pos hout))

theorem exec_sbCounterWrite_still {s : State} {r : Requester} {f n : Nat} (h : s.serves r .fctSb (f * 64 + n))
    (hs : s.gf R.fctStat_STATE f = 0 ∨ s.gf R.fctStat_STATE f = 3) (be : Nat) (val : Word) :
    exec (.sbCounterWrite r f n be val) s = .next (s.mergeReg .fctSb (f * 64 + n) be val) :=
  congrArg Host.Outcome.next ((gate_serves h _).trans (if_pos hs))

theorem exec_sbCounterWrite_busy {s : State} {r : Requester} {f n : Nat} (h : s.serves r .fctSb (f * 64 + n))
    (h0 : s.gf R.fctStat_STATE f ≠ 0) (h3 : s.gf R.fctStat_STATE f ≠ 3) (be : Nat) (val : Word) :
    exec (.sbCounterWrite r f n be val) s = .next (s.facetErr f eHostw n) :=
  congrArg Host.Outcome.next ((gate_serves h _).trans (if_neg (not_or.mpr ⟨h0, h3⟩)))

/-! ### The statement -/

/-- Settles O15: each command is its rule for an accepted write; a refused write of FCT_MCFG or of a counter comes to
`State.facetErr`, which keeps every register below the error log but FCT_ERR. What was in flight before START, and the group cycles
after HALT, pass as the model chooses (`State.through`, `State.settle`; log entry 24). -/
theorem facetCommands : Obligations.FacetCommands := by
  unfold Obligations.FacetCommands
  intro s r f hf
  have hf' : f < 1048576 := by omega
  refine ⟨fun hs ha hi => ⟨fun entry => exec_fctStart_idle hs ha hi entry, exec_clrsb_idle hs hi,
      fun entry hn he hal ho hok => exec_imemLoad_idle hs ha hi hn he hal ho hok⟩,
    fun hs => ⟨fun hrun => ⟨fun h0 => ?between, fun h0 => ?within⟩, fun h1 h2 => ?still⟩,
    fun _ _ _ hl hp ho ha hu he hui => imemLoadDone_free_effect hf' hl hp ho ha hu he hui,
    fun be val hs => ⟨exec_fctMcfgWrite_within hs, fun hout => ⟨_, exec_fctMcfgWrite_outside hs hout, ?mcfgKept, ?mcfgFlag⟩⟩,
    fun n be val _ hs hstill => exec_sbCounterWrite_still hs hstill be val,
    fun n be val hn hs h0 h3 => ⟨_, exec_sbCounterWrite_busy hs h0 h3 be val, ?counterKept, ?counterFlag,
      State.facetErr_memories _ _ _ _, facetErr_facets _ _ _ _⟩⟩
  case between => rw [exec_fctHalt hs, haltFacet_between hrun h0]; rfl
  case within => rw [exec_fctHalt hs, haltFacet_within hrun h0]
  case still => rw [exec_fctHalt hs, haltFacet_still h1 h2]
  case mcfgKept => exact rd_facetErr s f _ _ .fctMcfg f (by decide) (by decide) hf' hf'
  case mcfgFlag => exact gf_facetErr_flag s f eCfg _ (by decide) hf'
  case counterKept => exact rd_facetErr s f _ _ .fctSb (f * 64 + n) (by decide) (by decide) hf' (by omega)
  case counterFlag => exact gf_facetErr_flag s f eHostw _ (by decide) hf'

end Sys2Proof.Machine
end

section
/-! The scrub of a Carafe quadrant, writes of KV_LAYOUT and the page commands (spec/05 R120; spec/06 R153, R154): what a report of
an error leaves alone beside what `BelowLogKept` names, what a scrub counts, and what an accepted command comes to. -/

namespace Sys2Proof.Machine

/-! ### What does not tell a report

Stated for any view of the state, so that a field and a dictionary counter need one argument between them. -/

/-- A view of the state that shows nothing of what a report may change: the error log and its budgets, what is queued and sent,
registers, and the counters of reports and of dropped events. -/
structure IgnoresReports {β : Type} (obs : State → β) : Prop where
  log : ∀ (s : State) m, obs { s with errlog := m } = obs s
  budget : ∀ (s : State) m, obs { s with spent := m } = obs s
  sent : ∀ (s : State) us os, obs { s with subs := us, out := os } = obs s
  reg : ∀ (s : State) c i w, obs (s.wr c i w) = obs s
  counted : ∀ (s : State) k, obs (s.bump 0x8025 k) = obs s
  dropped : ∀ (s : State), obs (s.bump 0x8050 2) = obs s

theorem foldl_obs {α β : Type} {obs : State → β} {g : State → α → State} (hg : ∀ t x, obs (g t x) = obs t) (l : List α) (s : State) :
    obs (l.foldl g s) = obs s := by
  induction l generalizing s with
  | nil => rfl
  | cons x l ih => exact (ih (g s x)).trans (hg s x)

section
variable {β : Type} {obs : State → β} (h : IgnoresReports obs)
include h

theorem IgnoresReports.sf (s : State) (f : Fld) (i v : Nat) : obs (s.sf f i v) = obs s := h.reg s f.card i _

theorem IgnoresReports.logLost (s : State) (lo hi : Card) : obs (s.logLost lo hi) = obs s :=
  (h.reg _ hi 0 _).trans (h.reg s lo 0 _)

theorem IgnoresReports.pushEvent (s : State) (cls : Nat) (detail : List Byte) (all : Bool) : obs (s.pushEvent cls detail all) = obs s := by
  refine foldl_obs (fun t u => ?_) _ s
  split
  case isFalse => rfl
  case isTrue =>
    cases u.path with
    | mailbox fn =>
      dsimp only
      split
      · exact (h.dropped _).trans ((h.sf _ _ _ _).trans (h.sent t _ _))
      · exact (h.sf _ _ _ _).trans (h.sent t _ _)
    | _ =>
      dsimp only
      split
      · exact (h.dropped _).trans (h.sent t _ _)
      · exact h.sent t _ _

theorem IgnoresReports.logWrite (s : State) (e : LogEntry) : obs (s.logWrite e) = obs s := by
  have hcount : ∀ m, obs ((State.sf { s with errlog := m } R.errlogPtr_WR 0 (s.gf R.errlogPtr_WR 0 + 1)).bump 0x8025 1) = obs s :=
    fun m => (h.counted _ 1).trans ((h.sf _ _ _ _).trans (h.log s m))
  unfold State.logWrite
  refine (foldl_obs (fun t c => h.pushEvent t c _ false) _ _).trans ?_
  split
  · exact (h.sent _ _ _).trans (hcount _)
  · exact hcount _

theorem IgnoresReports.report (s : State) (src code cls : Nat) (part : Option Nat) (detail : Nat) :
    obs (s.report src code cls part detail) = obs s := by
  unfold State.report
  dsimp only
  split
  case h_1 => exact (h.counted _ 2).trans (h.log s _)
  case h_2 =>
    split
    · exact h.logLost s _ _
    split
    · exact h.logLost s _ _
    split
    · refine (h.logWrite _ _).trans ?_
      split
      · exact (h.sf _ _ _ _).trans (h.logLost s _ _)
      · rfl
    · exact (h.logWrite _ _).trans (h.budget s _)

end

theorem dnum_bump_other (s : State) (index sub i j : Nat) (h : dkey i j ≠ dkey index sub) : (s.bump index sub).dnum i j = s.dnum i j :=
  dnum_setN_other s index sub _ i j h

theorem bump_ecMem (s : State) (index sub : Nat) : (s.bump index sub).ecMem = s.ecMem := setD_ecMem s index sub _

theorem bump_facets (s : State) (index sub : Nat) : (s.bump index sub).facets = s.facets := (belowLogKept_bump s index sub).facets

theorem ignoresReports_ecMem : IgnoresReports State.ecMem where
  log _ _ := rfl
  budget _ _ := rfl
  sent _ _ _ := rfl
  reg _ _ _ _ := rfl
  counted s k := bump_ecMem s _ k
  dropped s := bump_ecMem s _ 2

/-- Counters of other entries of the dictionary than 0x8025 and 0x8050.2 are not touched. -/
theorem ignoresReports_dnum {index sub : Nat} (hc : ∀ k, dkey index sub ≠ dkey 0x8025 k) (hd : dkey index sub ≠ dkey 0x8050 2) :
    IgnoresReports (fun s => s.dnum index sub) where
  log _ _ := rfl
  budget _ _ := rfl
  sent _ _ _ := rfl
  reg _ _ _ _ := rfl
  counted s k := dnum_bump_other s _ k _ _ (hc k)
  dropped s := dnum_bump_other s _ 2 _ _ hd

/-! ### A scrub of Carafe (R120) -/

/-- One corrected error, at the local offset `u` of a quadrant of `stack`, is counted and reported. -/
def State.countCorrected (stack : Nat) (s : State) (u : Nat) : State :=
  (s.bump 0x8013 1).report (source 2 stack) 0x01 0 none (s.fga u)

theorem countCorrected_memories (stack : Nat) (s : State) (u : Nat) : (State.countCorrected stack s u).memories = s.memories :=
  (State.report_memories _ _ _ _ _ _).trans (State.bump_memories _ _ _)

theorem countCorrected_facets (stack : Nat) (s : State) (u : Nat) : (State.countCorrected stack s u).facets = s.facets :=
  (belowLogKept_report _ _ _ _ _ _).facets.trans (bump_facets s _ _)

theorem countCorrected_ecMem (stack : Nat) (s : State) (u : Nat) : (State.countCorrected stack s u).ecMem = s.ecMem :=
  (ignoresReports_ecMem.report _ _ _ _ _ _).trans (bump_ecMem s _ _)

theorem countCorrected_count (stack : Nat) (s : State) (u : Nat) :
    (State.countCorrected stack s u).dnum 0x8013 1 = (s.dnum 0x8013 1 + 1) % 2 ^ 64 :=
  ((ignoresReports_dnum (fun k => by unfold dkey; omega) (by decide)).report _ _ _ _ _ _).trans (dnum_bump_same s _ _)

/-- The counter wraps at 64 bits. -/
theorem foldl_countCorrected_count (stack : Nat) (found : List Nat) (s : State) :
    (found.foldl (State.countCorrected stack) s).dnum 0x8013 1 % 2 ^ 64 = (s.dnum 0x8013 1 + found.length) % 2 ^ 64 := by
  induction found generalizing s with
  | nil => rfl
  | cons u found ih =>
    rw [List.foldl_cons, ih, countCorrected_count, Nat.mod_add_mod, List.length_cons]
    congr 1
    omega

/-- The local offsets of quadrant `e`. -/
def ofQuadrant (e u : Nat) : Bool := decide (e * 2 ^ 34 ≤ u) && decide (u < e * 2 ^ 34 + 2 ^ 34)

/-- The corrected errors that a scrub of quadrant `e` counts: those that memory holds, and those of `corrected`. -/
def State.scrubbed (s : State) (e : Nat) (corrected : List Nat) : List Nat :=
  s.ecMem.filter (ofQuadrant e) ++ (corrected.filter (fun u => decide (u < 2 ^ 34))).map (fun u => e * 2 ^ 34 + u)

theorem scrubbed_length (s : State) (e : Nat) (corrected : List Nat) : (s.scrubbed e corrected).length =
    (s.ecMem.filter (ofQuadrant e)).length + (corrected.filter (fun u => decide (u < 2 ^ 34))).length := by
  simp [State.scrubbed]

theorem carafeScrub_quadrant {s : State} {stack q : Nat} (he : 4 * stack + q < s.engineCount) (hq : q < 4) (corrected : List Nat) :
    s.carafeScrub stack q corrected =
      (let t := (s.scrubbed (4 * stack + q) corrected).foldl (State.countCorrected stack) s
       { t with ecMem := t.ecMem.filter (fun u => !ofQuadrant (4 * stack + q) u) }) :=
  if_neg (not_or.mpr ⟨Nat.not_le.mpr he, Nat.not_le.mpr hq⟩)

/-! ### Writes of KV_LAYOUT (R154) -/

theorem exec_kvLayoutWrite_unused {s : State} {r : Requester} {p l : Nat} (h : s.serves r .kvLayout (p * 256 + l))
    (hlive : s.liveSlots p = []) (hrange : ∀ x ∈ s.ranges, x.p ≠ p) (be : Nat) (val : Word) :
    exec (.kvLayoutWrite r p l be val) s = .next (s.mergeReg .kvLayout (p * 256 + l) be val) :=
  congrArg Host.Outcome.next ((gate_serves h _).trans (if_neg (by simpa [hlive] using hrange)))

theorem exec_kvLayoutWrite_used {s : State} {r : Requester} {p l : Nat} (h : s.serves r .kvLayout (p * 256 + l))
    (hused : s.liveSlots p ≠ [] ∨ ∃ x ∈ s.ranges, x.p = p) (be : Nat) (val : Word) :
    exec (.kvLayoutWrite r p l be val) s = .next
      (s.report (source 8 0xC) (unstatedCode 7) 1 (some p) (s.cardAddr .kvLayout (p * 256 + l))) :=
  congrArg Host.Outcome.next ((gate_serves h _).trans (if_pos (by simpa using hused)))

/-! ### Page commands (R153) -/

/-- What every page command asks of its operands: an enabled layer window, and a live ticket that is in no step. -/
structure State.PgOperands (s : State) : Prop where
  layer : s.kvEn (hPart (s.rd .kvPgarg0 0).toNat) (s.gf R.kvPgarg1_LAYER 0) = true
  handle : s.handleCode (s.rd .kvPgarg0 0).toNat = 0
  outside : s.inStep (s.rd .kvPgarg0 0).toNat = false

theorem State.PgOperands.freeBelowCode {s : State} (h : s.PgOperands) : s.pgCode false false = 0 := by
  simp [State.pgCode, h.layer, h.handle, h.outside]

/-- A command on a page that is mapped, and not shared where the command frees it, is not rejected. -/
theorem State.PgOperands.pageCode {s : State} (h : s.PgOperands) {g : KvPage} (hg : s.pgPage = some g) {free query : Bool}
    (hcmd : (free || query) = true) (hfree : free = true → g.shared = none) : s.pgCode free query = 0 := by
  have hmapped : s.kvAt (hSlot (s.rd .kvPgarg0 0).toNat) (s.gf R.kvPgarg1_LAYER 0 * 0x10000000 +
    s.gf R.kvPgarg1_POS 0 * s.kvEsize (hPart (s.rd .kvPgarg0 0).toNat) (s.gf R.kvPgarg1_LAYER 0)) = some g := hg
  cases free with
  | false =>
    have hquery : query = true := hcmd
    simp [State.pgCode, h.layer, h.handle, h.outside, hmapped, hquery]
  | true => simp [State.pgCode, h.layer, h.handle, h.outside, hmapped, hfree rfl]

theorem exec_kvFreeBelow_performed {s : State} {r : Requester} (h : s.serves r .kvPgcmd 0) (ho : s.PgOperands) :
    let hd := (s.rd .kvPgarg0 0).toNat
    let l := s.gf R.kvPgarg1_LAYER 0
    exec (.kvFreeBelow r) s = .next ((State.pruneTables { s with kvPages := s.kvPages.filter (fun g =>
      !(g.slot == hSlot hd && g.layer == l && g.shared.isNone &&
        decide (kvPageOff g.n + kvPageSize g.n ≤ s.gf R.kvPgarg1_POS 0 * s.kvEsize (hPart hd) l))) }).cmdCode .kvPgcmd 0 2 0 0) :=
  congrArg Host.Outcome.next ((gate_serves h _).trans (if_neg (fun hne => hne ho.freeBelowCode)))

theorem exec_kvFree_unshared {s : State} {r : Requester} (h : s.serves r .kvPgcmd 0) (ho : s.PgOperands) {g : KvPage}
    (hg : s.pgPage = some g) (hown : g.shared = none) : exec (.kvFree r) s = .next
      ((State.pruneTables { s with kvPages := s.kvPages.filter (fun x => decide (x ≠ g)) }).cmdCode .kvPgcmd 0 1 0 0) := by
  have hcode := ho.pageCode hg (free := true) (query := false) rfl (fun _ => hown)
  refine congrArg Host.Outcome.next ((gate_serves h _).trans ((if_neg (fun hne => hne hcode)).trans ?_))
  rw [hg]

theorem exec_kvQuery_mapped {s : State} {r : Requester} (h : s.serves r .kvPgcmd 0) (ho : s.PgOperands) {g : KvPage}
    (hg : s.pgPage = some g) : exec (.kvQuery r) s = .next
      ((s.wr .kvPginfo 0 (BitVec.ofNat 32 (2 ^ 31 + b2n g.shared.isSome * 2 ^ 30 + g.z * 2 ^ 26 +
        g.addr / 0x400000000 * 2 ^ 21))).cmdCode .kvPgcmd 0 3 0 0) := by
  have hcode := ho.pageCode hg (free := false) (query := true) rfl Bool.noConfusion
  refine congrArg Host.Outcome.next ((gate_serves h _).trans ((if_neg (fun hne => hne hcode)).trans ?_))
  rw [hg]

/-! ### The statement -/

/-- Settles O20: a scrub is a fold over the corrected errors, each of which adds one to the counter, and no report touches the
counter or the errors that memory holds; a command that is served and performed comes to its rule. The report of a refused write of
KV_LAYOUT has the code that the model chooses (`unstatedCode`; log entry 63). -/
theorem scrubAndPageCommands : Obligations.ScrubAndPageCommands := by
  unfold Obligations.ScrubAndPageCommands
  refine ⟨fun s stack q corrected he hq => ⟨_, congrArg Host.Outcome.next (carafeScrub_quadrant he hq corrected), ?cleared, ?counted,
      ?memories, ?facets⟩,
    fun s r p l be val _ _ h hlive hrange => exec_kvLayoutWrite_unused h hlive hrange be val,
    fun s r p l be val _ _ h hused => exec_kvLayoutWrite_used h hused be val,
    fun s r g h hen hcode hstep => ?page⟩
  case cleared => exact congrArg (List.filter _) (foldl_obs (countCorrected_ecMem stack) _ s)
  case counted =>
    have hcount := foldl_countCorrected_count stack (s.scrubbed (4 * stack + q) corrected) s
    rw [scrubbed_length] at hcount
    exact hcount
  case memories => exact foldl_memories _ _ s (countCorrected_memories stack)
  case facets => exact foldl_obs (obs := State.facets) (countCorrected_facets stack) _ s
  case page =>
    have ho : s.PgOperands := ⟨hen, hcode, hstep⟩
    exact ⟨exec_kvFreeBelow_performed h ho, fun hg => ⟨exec_kvFree_unshared h ho hg, exec_kvQuery_mapped h ho hg⟩⟩

end Sys2Proof.Machine
end
